-- ==== Sys2Proof/Word.lean ====
section
/-! DEFINITION. The words of the Troquin V940 (registers are 64 bits wide and little-endian, R4) and the sparse table
that holds every array of the device as plain data. -/

namespace Sys2Proof

/-- One byte. -/
abbrev Byte := BitVec 8

/-- A register of the device: 64 bits (R4). -/
abbrev Word := BitVec 64

/-- A 32-bit lane, index register or half register. -/
abbrev W32 := BitVec 32

/-- A byte string, lowest address first (little-endian structures, R4). -/
abbrev Bytes := List Byte

/-- A sparse array: pairs of index and content, indices strictly rising, no entry equal to what an unlisted index
holds. Reading and writing are `Tab.get` and `Tab.set` (Machine/Tab.lean). -/
abbrev Tab (α : Type) := List (Nat × α)

/-- A mailbox source (R356): 0 and 1 the physical functions, 2–1023 the virtual functions, 1024 the towpath, 1025 I3C. -/
abbrev Source := Fin 1026

/-- A requester of a register access, by the code of R347: 1 PF 0, 2 PF 1, 3–21 the core of core code c as c + 3;
code 0 is nobody. -/
abbrev Req := Fin 22

end Sys2Proof
end

