-- ==== Sys2Proof/Syntax.lean ====
section
/-! DEFINITION. The commands the block takes, one constructor per row of spec/opcode_table.json. A command is something
that happens to the device or in it: a mailbox command, a register access, a request at a port, the next op of a stream
or the next instruction of a core, a timer that falls due. Its operands are what the outside, or the program that runs,
gives with it; everything else the command needs is in State. -/

namespace Sys2Proof

/-- A mailbox command's header: the source whose frame holds it (R356) and the sequence its sender set. -/
structure Cmd where
  src : Source
  seq : W32
  deriving DecidableEq, Repr

/-- The part of a 64-bit register that an access addresses (R7): all of it, bits 31:0 or bits 63:32. -/
inductive Half where
  | both | low | high
  deriving DecidableEq, Repr

/-- A write of one register by a requester; for a 32-bit access the value is in bits 31:0. -/
structure RegW where
  req : Req
  half : Half
  value : Word
  deriving DecidableEq, Repr

/-- A read or a write of one register by a requester. -/
structure RegRW where
  req : Req
  write : Bool
  half : Half
  value : Word
  deriving DecidableEq, Repr

/-- A tile stream op (R112) with the physical tile and stream that issue it; the opcode is the constructor. -/
structure StreamOp where
  tile : Fin 528
  stream : Fin 4
  fmt : BitVec 4
  round : BitVec 2
  dst : Byte
  s1 : Byte
  s2 : Byte
  imm : BitVec 24
  deriving DecidableEq, Repr

/-- The operand size of a Volil instruction: a size prefix, or none for 64 bits (R371, R372). -/
inductive VSize where
  | s8 | s16 | s32 | s64
  deriving DecidableEq, Repr

/-- A format RR instruction (R373) and the core that executes it. -/
structure VolilRR where
  core : Fin 19
  size : VSize
  d : Fin 16
  s : Fin 16
  deriving DecidableEq, Repr

/-- A format RI instruction: `isz` is the immediate-size field (2^isz bytes), `imm` the immediate's bytes as encoded. -/
structure VolilRI where
  core : Fin 19
  size : VSize
  d : Fin 16
  isz : Fin 4
  imm : Word
  deriving DecidableEq, Repr

/-- A format M instruction (R373, R374); `imm` is STI's immediate. -/
structure VolilM where
  core : Fin 19
  size : VSize
  sync : Bool
  d : Fin 16
  base : Fin 16
  index : Fin 16
  indexEn : Bool
  pcrel : Bool
  dsz : Fin 4
  disp : W32
  imm : Word
  deriving DecidableEq, Repr


/-- What arrives at a lock (R83): a read or a write of device memory, or traffic for a destination code. -/
inductive LockReq where
  | read (addr length : Nat) (operation : Word)
  | write (addr : Nat) (bytes : Bytes) (poison : Bool) (operation : Word)
  | data (dest : Nat) (bytes : Bytes) (poison : Bool)
  deriving DecidableEq, Repr

/-- A PCI Express function of an endpoint: 0 the physical function, v its VF number v (R214). -/
structure HostFn where
  ep : Fin 2
  vf : Fin 1023
  deriving DecidableEq, Repr

/-- A memory BAR of a function (R204, R205). -/
inductive Bar where
  | bar0 | bar2 | bar4
  deriving DecidableEq, Repr

/-- A field of a capability that R202 gives a function, wherever PCI Express and the capability list place it. -/
inductive CfgField where
  | serialLow | serialHigh
  | totalVfs | initialVfs | numVfs | vfEnable | firstVfOffset | vfStride | vfDeviceId | vfPageSizes
  | msixTableSize | msixEnable | msixMask
  | maxPayload | completionTimeout | powerState
  | aerUncorrectable | aerCorrectable | ecrcGeneration | ecrcChecking
  deriving DecidableEq, Repr

/-- A configuration request (R202): a read of a dword, a write of one, a read of a capability's field, or a write of the fields that
PCI Express gives a function in its capabilities. -/
inductive CfgReq where
  | read (offset : Nat)
  | write (offset : Nat) (value : W32)
  | field (f : CfgField)
  | command (mse bme : Bool)
  | msix (enable mask : Bool)
  | device (mps timeout : Nat)
  | power (d3hot : Bool)
  | aerClear (uncorrectable correctable : W32)
  | ecrc (generation checking : Bool)
  deriving DecidableEq, Repr

/-- What kind of TLP a memory request is (R203): plain, an AtomicOp, one with a prefix that the device does not support, or one whose
ECRC is wrong. -/
inductive TlpForm where
  | plain | atomic | prefixed | badEcrc
  deriving DecidableEq, Repr

/-- How a posted request of the host comes in: which of the endpoint's two locks takes it (log entry 96), and its form. -/
structure WriteForm where
  second : Bool
  form : TlpForm
  deriving DecidableEq, Repr

/-- How a read of the host comes in: as a posted request does, and with Relaxed Ordering or not (R221). -/
structure ReadForm where
  relaxed : Bool
  second : Bool
  form : TlpForm
  deriving DecidableEq, Repr

/-- A send engine's turn: the tile, and whether the basin has served the engine's read for each half of the barge in time (R446). -/
structure SendTurn where
  tile : Fin 528
  servedA : Bool
  servedB : Bool
  deriving DecidableEq, Repr

/-- A connection to a remote target (R324). -/
structure RemoteConn where
  target : Fin 16
  conn : Fin 8
  deriving DecidableEq, Repr

/-- A request that a device below a root port issues (R234). -/
inductive PortReq where
  | read (addr length tag : Nat)
  | write (addr : Nat) (bytes : Bytes) (poison relaxed : Bool)
  | other (tag : Option Nat)
  | badEcrc
  deriving DecidableEq, Repr

/-- A write to a doorbell, or an expert write of the register that acts as one (R244, R250). -/
inductive DoorbellWrite where
  | doorbell (inst : Fin 1024) (index : Nat) (value : Word)
  | register (w : RegW)
  deriving DecidableEq, Repr

/-- The settings of CMD_NET_QUEUE_SET (R262): a binding, or none. -/
inductive QueueSet where
  | bind (port n bufSize bufBase recordBase headWord vector weight : Nat)
  | unbind
  deriving DecidableEq, Repr

/-- A node of a port's egress tree with a shaper (R266). -/
inductive NetNode where
  | queue (queue : Nat)
  | inst (inst port : Nat)
  deriving DecidableEq, Repr

/-- The settings of a connection (chapter 12, R283): MTU, timers in µs and counts, the lane if it is sealed. -/
structure ConnSet where
  port : Nat
  egress : Nat
  localIp : BitVec 128
  peerIp : BitVec 128
  nextHop : BitVec 48
  vlan : Option (BitVec 16)
  tclass : Byte
  flow : BitVec 20
  peer : BitVec 16
  epoch : BitVec 16
  mtu : Nat
  lane : Option Nat
  rtoMin : Option Nat
  retryLimit : Option Nat
  reorder : Option Nat
  deriving DecidableEq, Repr

/-- The parameters of CMD_MOORING_REG (R280). -/
structure MooringSet where
  inst : Nat
  base : Nat
  size : Nat
  read : Bool
  write : Bool
  counter : Option Nat
  paged : Bool
  mode : Nat
  deriving DecidableEq, Repr

/-- The settings of CMD_STORAGE_QUEUE_SET (R314). -/
inductive StorSet where
  | bind (sq cq space n vector : Nat)
  | unbind
  deriving DecidableEq, Repr

/-- A volume's binding (R318): instance, back-end (8–11 a drive, 16 + t remote target t), namespace, first block and count. -/
structure VolumeSet where
  inst : Nat
  backend : Nat
  nsid : Nat
  first : Nat
  count : Nat
  deriving DecidableEq, Repr

/-- A remote target's settings (R324). -/
structure RemoteSet where
  ip : BitVec 128
  tcpPort : Option Nat
  subNqn : Bytes
  hostNqn : Bytes
  port : Nat
  egress : Nat
  conns : Nat
  deriving DecidableEq, Repr

/-- What a BROADCAST cell says to every member, or a member to the root (R299, R46, R75, R295, R307). -/
inductive Bcast where
  | flip (lockage : Nat)
  | stretch (f lockage : Nat)
  | abort
  | zero (time : Word)
  | zeroAbort
  | topology
  | ready
  | failed
  | demand (f : Nat)
  | lost
  | locked
  deriving DecidableEq, Repr

/-- A HEARTBEAT cell (R299, R309): the sender's transmit stamp and its last receive stamp from this link. -/
structure Heartbeat where
  time : Word
  frac : W32
  stamp : Word
  stampFrac : W32
  /-- The cell that came has a bad CRC, or a reserved type or ring (R300): nothing else of it counts. -/
  bad : Bool := false
  /-- FEC code words corrected on the link since the cell before. -/
  fec : Nat := 0
  /-- The cell types of which the partner has granted one credit again since the cell before, one entry a credit (R300). -/
  grants : List Nat := []
  deriving DecidableEq, Repr

/-- What the ROSTER cells of one list carry (R306): IDs gathered along a ring, on a trunk ring with the lowest ID of each one's member
ring; a member ring's roster, or a trunk ring's, on its way to the root. -/
inductive RosterCell where
  | gather (ids lows : List (BitVec 20))
  | report (t : Nat) (ids : List (BitVec 20))
  | column (m : Nat) (ids : List (BitVec 20))
  deriving DecidableEq, Repr

/-- A FAULT_REPORT cell (R401). -/
structure FaultCell where
  identity : Word
  cls : BitVec 16
  update : Bool
  duplicates : W32
  timeNs : Word
  timeFrac : W32
  unit : W32
  syndrome : W32
  temperature : BitVec 16
  voltage : BitVec 16
  deriving DecidableEq, Repr

/-- What a training of a link measured (R298): both latencies in ns, how many closed bypasses the span crosses, the partner's ID,
the lane asymmetry in ps. -/
structure Training where
  ok : Bool
  barge : Nat
  cell : Nat
  bypasses : Nat
  peer : BitVec 20
  asym : Int
  deriving DecidableEq, Repr

/-- A sealer job (R340): IV, additional data and text, and whether a parity error strikes it (R343). -/
structure SealJob where
  iv : Bytes
  aad : Bytes
  text : Bytes
  parity : Bool
  operation : Word
  deriving DecidableEq, Repr

/-- What an I3C private write carries (R366). -/
inductive I3cWrite where
  | deviceId (id : BitVec 20)
  | frame (offset : Nat) (bytes : Bytes)
  deriving DecidableEq, Repr

/-- One set of the power core's readings (R424): W, mV, junctions (0.125 °C) and core rails (mV) of dies 0–5, the largest rail
current in 0.1 % of its limit, the coolant inlet (0.125 °C). -/
structure Reading where
  inputW : Nat
  inputMv : Nat
  junction : List Int
  railMv : List Nat
  railMilli : Nat
  coolant : Int
  deriving DecidableEq, Repr

/-- A window entry: of the PF's table, or entry of an instance's (R208). -/
inductive WinSel where
  | pf (entry : Nat)
  | vf (inst entry : Nat)
  deriving DecidableEq, Repr


/-- A step word as it arrives (R390); `good` is false for an empty barge or one of kind 2. -/
structure StepWord where
  good : Bool
  step : Word
  bits : Byte
  members : Nat
  deriving DecidableEq, Repr

/-- An entry of a restore plan (R400). -/
structure RestoreEntry where
  tensor : Word
  first : Nat
  count : Nat
  fmt : Nat
  addr : Nat
  deriving DecidableEq, Repr

/-- A block of 4,096 bytes that a volume's back-end has returned (R400); a block not among those returned has failed to read. -/
structure VolumeBlock where
  volume : Nat
  lba : Nat
  bytes : Bytes
  deriving DecidableEq, Repr

/-- What JTAG core debug asks for (R333): to halt, resume or step (a tile steps one stream) and to access memory. -/
inductive DebugOp where
  | halt
  | resume
  | step (stream : Fin 4)
  | read (addr length : Nat)
  | write (addr : Nat) (bytes : Bytes)
  deriving DecidableEq, Repr

/-- The unit that it acts on. -/
inductive DebugUnit where
  | core (k : Fin 19)
  | tile (n : Fin 528)
  deriving DecidableEq, Repr

/-- A device found below a root port at bring-up (R233): its port, the Max Payload Size it supports and the places of its BARs. -/
structure PortDevice where
  port : Fin 12
  mps : Nat
  bars : List Nat
  /-- At an NVMe port: its namespaces with 4,096-byte LBAs and no metadata (R323). -/
  namespaces : List Nat
  deriving DecidableEq, Repr

/-- The commands: one constructor per row of spec/opcode_table.json, in the table's order. -/
inductive Instr where
  /-- REGISTER_WRITE (R7): A write to a register that has no row of its own, checked for width, alignment, access code and reserved fields, then applied field by field. -/
  | registerWrite (req : Req) (addr : Nat) (size : Nat) (value : Word)
  /-- CMD_MANIFEST_LOAD (R36): Starts an initial manifest load from host memory, NOR A or B, or device memory. -/
  | cmdManifestLoad (c : Cmd) (source : Nat) (address : Nat) (length : Nat)
  /-- CMD_MANIFEST_RELOAD (R46): Starts a reload of the manifest, with or without rollback. -/
  | cmdManifestReload (c : Cmd) (source : Nat) (address : Nat) (length : Nat) (mode : Nat)
  /-- FETCH (R36): Stage 1 of a load ends when the image has been copied into the staging copy. -/
  | fetch (data : Bytes)
  /-- AUTHENTICATE (R37): Stage 2 of a load checks the header, key slot, serial and tag. -/
  | authenticate
  /-- VALIDATE (R39): Stage 3 of a load checks section CRCs, encodings, resources and cross-section rules. -/
  | validate
  /-- SHADOW_WRITE (R36): Stage 4 of a load writes every shadow table and relocks every expert-unlocked block. -/
  | shadowWrite
  /-- GROUP_READY_TIMEOUT (R46): The root aborts a group reload when not all members are ready within 2 s of the first ready report. -/
  | groupReadyTimeout
  /-- ROLLBACK_RESTORE (R48): After a rollback flip, master state is restored from the buddy copy or checkpoint before the first step is admitted. -/
  | rollbackRestore (chunks : List (Nat × Bytes))
  /-- CMD_MANIFEST_STATUS (R50): Returns the active serial, job, stage, last code, running program and failed units. -/
  | cmdManifestStatus (c : Cmd)
  /-- CMD_MANIFEST_CANCEL (R50): Ends a load before its flip with ABORTED. -/
  | cmdManifestCancel (c : Cmd)
  /-- CMD_ALT_SELECT (R50): Applies an alternate as if its coverage had failed. -/
  | cmdAltSelect (c : Cmd) (index : Nat)
  /-- CMD_ALT_REVERT (R45): Returns to the primary at the next step-start lockage when every unit of the failed set is healthy. -/
  | cmdAltRevert (c : Cmd)
  /-- CMD_EXPERT_CHALLENGE (R52): Returns a DRBG nonce and challenge counter for an expert unlock. -/
  | cmdExpertChallenge (c : Cmd) (block : Nat)
  /-- CMD_EXPERT_UNLOCK (R52): Checks the tag and expert-unlocks a block for a duration, recording the unlock in the ledger. -/
  | cmdExpertUnlock (c : Cmd) (block : Nat) (seconds : Nat) (tag : Bytes)
  /-- CMD_EXPERT_LOCK (R54): Relocks an expert-unlocked block. -/
  | cmdExpertLock (c : Cmd) (block : Nat)
  /-- EXPERT_EXPIRY (R54): A block relocks when its unlock duration expires. -/
  | expertExpiry (block : Nat)
  /-- LOCKOUT_EXPIRY (R53): The 60 s lockout that follows eight failed unlock tags ends. -/
  | lockoutExpiry (security : Bool)
  /-- LOCKAGE_BOUNDARY (R63): The slot counters wrap at a lockage boundary, where switches, flips, stretch changes and step decisions take effect. -/
  | lockageBoundary
  /-- HOLD_DERATE_REPEAT (R25): Every 1 ms while an integrity hold outlasts its allowance, GUARANTEE_DERATE with cause 0x07 is posted again. -/
  | holdDerateRepeat (index : Nat)
  /-- ROUTER_SLOT (R66): Each router reads its schedule entry for the slot and forwards the barges at its inputs, checking each CRC. -/
  | routerSlot
  /-- CRC_WINDOW_CLOSE (R59): A link's CRC window closes 1 ms after it opened, and its window count returns to 0. -/
  | crcWindowClose (router : Fin 30) (port : Fin 64)
  /-- BARGE_DELIVERY (R60): A receiving unit checks an arriving barge against its expect table and sequence. -/
  | bargeDelivery
  /-- CANAL_SLIP (R56): Phase wander beyond ±16 cycles at a crossing posts CANAL_SLIP and fails the device. -/
  | canalSlip (router : Fin 30) (port : Fin 64) (wander : Int)
  /-- CMD_CANAL_STATUS (R79): Returns program, counts, factor, cause and errors of the canal. -/
  | cmdCanalStatus (c : Cmd)
  /-- CMD_CANAL_READ_ENTRY (R79): Returns one schedule entry of a bank, with the overlay applied. -/
  | cmdCanalReadEntry (c : Cmd) (program : Nat) (bank : Nat) (router : Nat) (slot : Nat)
  /-- CMD_CANAL_SWITCH (R79): Requests a switch of program at the next step-start lockage. -/
  | cmdCanalSwitch (c : Cmd) (program : Nat)
  /-- CMD_CANAL_CLEAR_COUNTS (R79): Clears CANAL_ERR_COUNT. -/
  | cmdCanalClearCounts (c : Cmd)
  /-- CANAL_SCHED_CTRL_SWITCH (R80): An expert write of switch requests next_program, optionally from its shadow bank, at the next boundary. -/
  | canalSchedCtrlSwitch (w : RegW)
  /-- CANAL_TBL_DATA_ACCESS (R80): An expert read or write of a schedule word in a shadow bank advances the word and slot index. -/
  | canalTblDataAccess (w : RegRW)
  /-- LOCK_ARRIVAL (R83): A barge arriving at a lock gets its route from the route map and waits in the chamber. -/
  | lockArrival (lock : Fin 128) (inst : Fin 1024) (r : LockReq)
  /-- GATE_OPENING (R86): In each slot a lock's gate entry admits up to two barges of the owner, the pool or the fallback list. -/
  | gateOpening (lock : Fin 128)
  /-- PAUSE_REPEAT (R92): Every 100 µs while fill stays at or above pause_off, the PAUSE frame is sent again. -/
  | pauseRepeat (lock : Fin 128)
  /-- HOLD_END (R95): A held write is released when its chunk copy into integrity slots completes. -/
  | holdEnd (chunk : Nat)
  /-- HOLD_ALLOWANCE_EXPIRY (R96): A hold that passes its allowance increments hold_overrun, posts LOCK_HOLD_OVERRUN and derates with cause 0x07. -/
  | holdAllowanceExpiry (index : Nat)
  /-- SLUICE_COMPLETE (R97): A sluice ends within two lockages, and the discarded requests are answered. -/
  | sluiceComplete (index : Nat)
  /-- LOCKS_SLUICE_GO (R97): An expert write of go sluices one or all instances at the selected lock. -/
  | locksSluiceGo (w : RegW)
  /-- LOCKS_GATE_DATA_ACCESS (R102): An expert access to a gate entry reaches a shadow bank and advances the slot. -/
  | locksGateDataAccess (w : RegRW)
  /-- CMD_LOCK_STATUS (R101): Returns kind, size, fill, back-pressure, counts and holds of a lock. -/
  | cmdLockStatus (c : Cmd) (lock : Nat)
  /-- CMD_LOCK_SLUICE (R101): Sluices one instance's barges from every lock. -/
  | cmdLockSluice (c : Cmd) (inst : Nat)
  /-- CMD_LOCK_READ_GATE (R101): Returns one gate entry. -/
  | cmdLockReadGate (c : Cmd) (program : Nat) (bank : Nat) (lock : Nat) (slot : Nat)
  /-- CMD_WEIGHT_SET (R88): Sets an instance's weight in the shared weight table. -/
  | cmdWeightSet (c : Cmd) (inst : Nat) (weight : Nat)
  /-- CMD_DERATE_STATUS (R101): Returns the last derate record and the affected-instance map. -/
  | cmdDerateStatus (c : Cmd)
  /-- NOP (R115): Stream op that does nothing. -/
  | nop (o : StreamOp)
  /-- HALT (R115): Stream op that ends the stream in state done. -/
  | halt (o : StreamOp)
  /-- XLI (R115): Loads a sign-extended immediate into an index register. -/
  | xli (o : StreamOp)
  /-- XLIH (R115): Loads bits 31:16 of an index register. -/
  | xlih (o : StreamOp)
  /-- XADD (R115): Adds two index registers and an immediate. -/
  | xadd (o : StreamOp)
  /-- XMUL (R115): Multiplies two index registers, keeping the low 32 bits. -/
  | xmul (o : StreamOp)
  /-- BNZ (R115): Branches when an index register is non-zero. -/
  | bnz (o : StreamOp)
  /-- BZ (R115): Branches when an index register is zero. -/
  | bz (o : StreamOp)
  /-- BLT (R115): Branches on a signed less-than of two index registers. -/
  | blt (o : StreamOp)
  /-- WAITSLOT (R115): Makes the stream wait for a given slot of the next scheduled or step-start lockage. -/
  | waitslot (o : StreamOp)
  /-- WAITSLOT_RELEASE (R115): A stream waiting in WAITSLOT resumes at the start of its slot. -/
  | waitslotRelease (tile : Fin 528) (stream : Fin 4)
  /-- FENCE (R115): Stream op that waits until every earlier op of the stream has completed. -/
  | fence (o : StreamOp)
  /-- FENCE_RELEASE (R115): A stream waiting in FENCE resumes when its earlier ops have completed. -/
  | fenceRelease (tile : Fin 528) (stream : Fin 4)
  /-- SIGNAL (R115): Sets a bit of the tile's event word. -/
  | signal (o : StreamOp)
  /-- WAITEV (R115): Makes the stream wait for an event bit. -/
  | waitev (o : StreamOp)
  /-- WAITEV_RELEASE (R115): A stream waiting in WAITEV resumes when its event bit is set, and clears the bit. -/
  | waitevRelease (tile : Fin 528) (stream : Fin 4)
  /-- MARK (R413): Latches the tile's counters into a start or end counter record. -/
  | mark (o : StreamOp)
  /-- MMA (R116): Matrix multiply-accumulate of two basin operands into an accumulator. -/
  | mma (o : StreamOp)
  /-- MMAX (R117): Exact-mode matrix multiply into the long accumulator. -/
  | mmax (o : StreamOp)
  /-- ACCRD (R115): Reads an accumulator row pair into a vector register, rounding once in the long view. -/
  | accrd (o : StreamOp)
  /-- ACCWR (R115): Writes a vector register into an accumulator row pair. -/
  | accwr (o : StreamOp)
  /-- ACCX (R145): Adds FP32 lanes exactly into long elements. -/
  | accx (o : StreamOp)
  /-- ACCZ (R115): Zeroes one accumulator. -/
  | accz (o : StreamOp)
  /-- VLD (R139): Loads 256 elements from the basin and widens them. -/
  | vld (o : StreamOp)
  /-- VST (R140): Narrows and stores 256 lanes to the basin. -/
  | vst (o : StreamOp)
  /-- VADD (R115): FP32 vector add. -/
  | vadd (o : StreamOp)
  /-- VSUB (R115): FP32 vector subtract. -/
  | vsub (o : StreamOp)
  /-- VMUL (R115): FP32 vector multiply. -/
  | vmul (o : StreamOp)
  /-- VFMA (R115): FP32 vector fused multiply-add. -/
  | vfma (o : StreamOp)
  /-- VMAX (R141): FP32 vector maximum. -/
  | vmax (o : StreamOp)
  /-- VMIN (R141): FP32 vector minimum. -/
  | vmin (o : StreamOp)
  /-- VRSQRT (R141): Vector reciprocal square root. -/
  | vrsqrt (o : StreamOp)
  /-- VEXP (R141): Vector exponential. -/
  | vexp (o : StreamOp)
  /-- VRED (R141): Reduces all lanes by sum or maximum in a fixed tree. -/
  | vred (o : StreamOp)
  /-- VIADD (R115): INT32 vector add. -/
  | viadd (o : StreamOp)
  /-- VLEVEL (R153): Computes the level of each 64-lane block. -/
  | vlevel (o : StreamOp)
  /-- VFIX (R154): Converts lanes to fixed point at their block levels. -/
  | vfix (o : StreamOp)
  /-- VFLT (R155): Converts fixed-point lanes back to FP32. -/
  | vflt (o : StreamOp)
  /-- VTHR (R115): Zeroes lanes below a threshold and counts those kept. -/
  | vthr (o : StreamOp)
  /-- VDIGEST (R163): Folds a vector register into a 64-bit digest. -/
  | vdigest (o : StreamOp)
  /-- VSEED (R135): Sets the stochastic-rounding seed and resets the draw count. -/
  | vseed (o : StreamOp)
  /-- SEND (R158): Sends basin bytes as barges on a route, with digest barges on lane routes. -/
  | send (o : StreamOp)
  /-- RECV (R118): Writes a route's barges into the basin, summing or merging on lane routes. -/
  | recv (o : StreamOp)
  /-- MRD (R115): Reads device memory into the basin. -/
  | mrd (o : StreamOp)
  /-- MWR (R115): Writes basin bytes to device memory. -/
  | mwr (o : StreamOp)
  /-- SPILL (R111): Writes basin bytes into the spill region. -/
  | spill (o : StreamOp)
  /-- FILL (R111): Reads the spill region into the basin. -/
  | fill (o : StreamOp)
  /-- UNDEFINED_STREAM_OP (R114): An undefined stream op halts its stream with TILE_ILLEGAL_OP. -/
  | undefinedStreamOp (tile : Fin 528) (stream : Fin 4) (word : Word)
  /-- BARGE_INJECTION (R446): The send engine reads a barge's lines and injects it in its route's slot. -/
  | bargeInjection (turn : SendTurn)
  /-- TILE_BARGE_RECEIVE (R118): An arriving barge is taken by a matching op or waits in the landing buffer. -/
  | tileBargeReceive (tile : Fin 528)
  /-- BASIN_WINDOW_ACCESS (R19): A basin-window barge is served by the tile's window service, or is handled as unmapped. -/
  | basinWindowAccess (tile : Fin 528)
  /-- SIGNATURE_COMPARE (R122): Every 8 tile cycles a pair compares signatures, and a mismatch halts the pair with TILE_CHECK. -/
  | signatureCompare (tile : Fin 528) (mismatch : Bool)
  /-- TILE_CHECK (R123): A residue, check-row or parity failure is reported and halts the stream. -/
  | tileCheck (tile : Fin 528) (stream : Fin 4) (pc : Fin 4096)
  /-- TILE_STALL (R125): A wait longer than the policy's lockage limit is detected at a boundary and posted. -/
  | tileStall (tile : Fin 528) (stream : Fin 4)
  /-- SPARE_START (R108): A spare's streams start at their entry points once its image is copied and its state zeroed. -/
  | spareStart (tile : Fin 528)
  /-- CMD_TILE_STATUS (R128): Returns binding, clock, stream states and faults of a tile. -/
  | cmdTileStatus (c : Cmd) (tile : Nat)
  /-- CMD_TILE_RESTART (R128): Restarts the named halted or done streams of a logical tile. -/
  | cmdTileRestart (c : Cmd) (logical : Nat) (mask : Nat)
  /-- CMD_TILE_READ_OPS (R128): Returns ops from a tile's op store. -/
  | cmdTileReadOps (c : Cmd) (logical : Nat) (first : Nat) (count : Nat)
  /-- TILES_STREAM_CTRL_HALT (R129): An expert write of halt halts a stream at its next turn. -/
  | tilesStreamCtrlHalt (tile : Fin 528) (w : RegW)
  /-- TILES_STREAM_CTRL_RESTART (R129): An expert write of restart restarts a halted or done stream at its entry point. -/
  | tilesStreamCtrlRestart (tile : Fin 528) (w : RegW)
  /-- TILES_OPSTORE_DATA_ACCESS (R129): An expert op-store access reads or writes an op and advances the index. -/
  | tilesOpstoreDataAccess (tile : Fin 528) (w : RegRW)
  /-- CMD_REDUCE_STATUS (R171): Returns reduction error counts and the last reduction record. -/
  | cmdReduceStatus (c : Cmd)
  /-- CMD_REDUCE_CLEAR (R171): Clears the reduction error counts. -/
  | cmdReduceClear (c : Cmd)
  /-- MEM_COMMAND (R175): A memory controller takes a command barge and its data barges, then reads, writes or rejects. -/
  | memCommand (unit : Fin 20)
  /-- MERGE_RETIRE (R182): A merge entry retires by read-modify-write of its line. -/
  | mergeRetire (ctl : Fin 8)
  /-- READ_DATA_SEND (R176): A controller sends read data in its response route's slots at least 24 slots after the command slot. -/
  | readDataSend (unit : Fin 20)
  /-- HBM_STACK_FAIL (R185): A controller is declared failed and the device degrades as R21 sets out. -/
  | hbmStackFail (ctl : Fin 8) (parity : Bool)
  /-- SCRUB_SLOT (R186): In a scrub slot the scrubber checks 128 lines, patrolling or running a commanded scrub. -/
  | scrubSlot (ctl : Fin 8)
  /-- REFRESH_SLOT (R190): In a refresh slot the controller refreshes if due, or writes trace records. -/
  | refreshSlot (ctl : Fin 8)
  /-- WHARF_PATROL (R181): Each wharf channel's patrol reads its capacity once every 24 hours. -/
  | wharfPatrol (ch : Fin 12)
  /-- WHARF_CHANNEL_FAIL (R200): A failed wharf channel poisons reads and discards writes. -/
  | wharfChannelFail (ch : Fin 12)
  /-- HBM_SCRUB_CTRL_GO (R186): An expert write of go starts a scrub of the range in the given mode. -/
  | hbmScrubCtrlGo (ctl : Fin 8) (w : RegW)
  /-- HBM_TEST_RAW_WRITE (R188): Stores the test data and check bytes raw into a line of the test granule. -/
  | hbmTestRawWrite (ctl : Fin 8) (w : RegW)
  /-- HBM_TEST_RAW_READ (R188): Reads a test-granule line raw and reports the outcome and syndromes. -/
  | hbmTestRawRead (ctl : Fin 8) (w : RegW)
  /-- HBM_TEST_DISABLE (R188): Clearing test_en, or relocking, rewrites the test granule as clean zeros. -/
  | hbmTestDisable (ctl : Fin 8) (w : RegW)
  /-- KV_SWEEP (R196): Once per lockage the paging service reads each reach's release line and refills its sweep ring. -/
  | kvSweep (reach : Nat)
  /-- KV_MOVE (R197): A page home moves between KV_POOL and KV_WHARF under the weirs. -/
  | kvMove (reach : Nat) (page : Nat)
  /-- CMD_HBM_STATUS (R201): Returns a controller's configuration, counts, state and merge occupancy. -/
  | cmdHbmStatus (c : Cmd) (ctl : Nat)
  /-- CMD_HBM_SCRUB (R201): Starts a commanded scrub of a range. -/
  | cmdHbmScrub (c : Cmd) (ctl : Nat) (first : Nat) (end_ : Nat) (mode : Nat)
  /-- CMD_HBM_CE_LOG (R201): Returns the correctable-error log. -/
  | cmdHbmCeLog (c : Cmd) (ctl : Nat)
  /-- CMD_HBM_CLEAR (R201): Clears a controller's counts and log. -/
  | cmdHbmClear (c : Cmd) (ctl : Nat)
  /-- CMD_HBM_CHECKER_TEST (R188): Runs the fixed checker test sequence in the test granule. -/
  | cmdHbmCheckerTest (c : Cmd) (ctl : Nat)
  /-- CMD_WHARF_STATUS (R201): Returns a wharf channel's state, capacity and counts. -/
  | cmdWharfStatus (c : Cmd) (ch : Nat)
  /-- CMD_KV_REACH_CREATE (R198): Creates a reach with its token size and sweep ring. -/
  | cmdKvReachCreate (c : Cmd) (inst : Nat) (tokenSize : Nat) (r : Nat)
  /-- CMD_KV_REACH_DESTROY (R201): Destroys a reach and returns its frames and tables. -/
  | cmdKvReachDestroy (c : Cmd) (reach : Nat)
  /-- CMD_KV_STATUS (R201): Returns paging statistics for a reach or all reaches. -/
  | cmdKvStatus (c : Cmd) (reach : Nat)
  /-- HOST_MEMORY_WRITE (R209): An inbound posted write is translated through a window and admitted at the host lock. -/
  | hostMemoryWrite (fn : HostFn) (bar : Bar) (off : Nat) (bytes : Bytes) (relaxed : Bool) (poison : Bool) (how : WriteForm)
  /-- HOST_MEMORY_READ (R209): An inbound read is translated through a window and admitted at the host lock. -/
  | hostMemoryRead (fn : HostFn) (bar : Bar) (off : Nat) (length : Nat) (tag : Nat) (how : ReadForm)
  /-- HOST_READ_COMPLETION (R176): Completion TLPs for a host read are sent as the data barges reach the port. -/
  | hostReadCompletion (lock : Fin 128)
  /-- CONFIG_REQUEST (R214): A configuration request to a PF or VF is answered as PCI Express requires. -/
  | configRequest (fn : HostFn) (r : CfgReq)
  /-- COMPLETION_RECEIVED (R223): A completion for a device-issued request frees its tag and is forwarded or discarded. -/
  | completionReceived (port : Fin 14) (tag : Nat) (data : Bytes) (poison : Bool)
  /-- HOST_COMPLETION_TIMEOUT (R223): A non-posted request's completion timeout expires, failing its work for a current generation. -/
  | hostCompletionTimeout (ep : Fin 2) (tag : Nat)
  /-- BUS_MASTER_DISABLE (R224): Bus Master Enable cleared stops the function's requests and advances its generation. -/
  | busMasterDisable (fn : HostFn)
  /-- BUS_MASTER_ENABLE (R224): Bus Master Enable set allows new requests and restarts nothing. -/
  | busMasterEnable (fn : HostFn)
  /-- VF_FLR (R226): A VF Function Level Reset advances the generation, stops requests and sluices the instance. -/
  | vfFlr (fn : HostFn)
  /-- VF_FLR_COMPLETE (R226): The VF FLR resets doorbells, queues, MSI-X and counts, and sets state 2. -/
  | vfFlrComplete (inst : Fin 1024)
  /-- PF_FLR (R227): A PF FLR clears VF Enable, destroys its instances and invalidates its windows. -/
  | pfFlr (ep : Fin 2)
  /-- VF_ENABLE_CLEAR (R216): Clearing VF Enable destroys the created instances of that PF. -/
  | vfEnableClear (ep : Fin 2)
  /-- VF_ENABLE_SET (R426): Setting VF Enable enables VFs, and is ignored in reduced service. -/
  | vfEnableSet (ep : Fin 2) (numVfs : Nat)
  /-- HOST_LINK_DOWN (R227): A hot reset or link-down of an endpoint acts as a PF FLR and posts HOST_LINK_DOWN. -/
  | hostLinkDown (ep : Fin 2) (hot : Bool)
  /-- ENDPOINT_PERST (R427): PERST# of one endpoint resets that endpoint's PF. -/
  | endpointPerst (ep : Fin 2) (speed : Nat) (width : Nat)
  /-- BAD_DOORBELL_WRITE (R206): A doorbell write beyond the instance's doorbells is ignored and counted. -/
  | badDoorbellWrite (inst : Fin 1024) (index : Nat)
  /-- CMD_INSTANCE_CREATE (R215): Brings a declared instance to state 2, taking its resources and doorbells. -/
  | cmdInstanceCreate (c : Cmd) (inst : Nat)
  /-- CMD_INSTANCE_DESTROY (R216): Destroys an instance and returns its resources. -/
  | cmdInstanceDestroy (c : Cmd) (inst : Nat)
  /-- CMD_INSTANCE_STATUS (R230): Returns an instance's state, generation, status page and counts. -/
  | cmdInstanceStatus (c : Cmd) (inst : Nat)
  /-- CMD_WINDOW_SET (R210): Writes a PF or VF window entry after validation. -/
  | cmdWindowSet (c : Cmd) (sel : WinSel) (value : BitVec 256)
  /-- WINDOW_SET_COMPLETE (R211): CMD_WINDOW_SET completes once every barge translated by the old entry has been delivered or sluiced. -/
  | windowSetComplete (index : Nat)
  /-- CMD_WINDOW_READ (R230): Returns a window entry. -/
  | cmdWindowRead (c : Cmd) (sel : WinSel)
  /-- CMD_HOST_STATUS (R230): Returns an endpoint's link, VF settings, tags and counts. -/
  | cmdHostStatus (c : Cmd) (endpoint : Nat)
  /-- HOSTEP_WIN_DATA_ACCESS (R231): An expert window-entry access takes effect for the next TLP and advances the word and index. -/
  | hostepWinDataAccess (w : RegRW)
  /-- PORT_INBOUND_REQUEST (R234): An accelerator or drive request is translated through the port's inbound window table. -/
  | portInboundRequest (port : Fin 12) (second : Bool) (r : PortReq)
  /-- PTM_REQUEST (R236): A root port answers a PTM Request with cluster time once the timebase is locked. -/
  | ptmRequest (port : Fin 12)
  /-- PORT_LINK_DOWN (R248): A root port's link goes down and posts PORT_LINK_DOWN. -/
  | portLinkDown (port : Fin 12)
  /-- PORT_ERR_MESSAGE (R248): An error message from a device below a port posts PORT_ERR_MESSAGE. -/
  | portErrMessage (port : Fin 12) (severity : Fin 3) (requester : BitVec 16)
  /-- PORT_COMPLETION_TIMEOUT (R247): A port read's completion timeout fails its descriptor with TIMEOUT. -/
  | portCompletionTimeout (port : Fin 12) (tag : Nat)
  /-- DMA_DOORBELL_TAIL (R244): A doorbell or ACCDMA_CH_CTRL tail write sets the ring tail and restarts a stopped channel. -/
  | dmaDoorbellTail (w : DoorbellWrite)
  /-- DMA_CHANNEL_ENABLE (R244): Enable through the doorbell or ACCDMA_CH_CTRL starts a channel with zero counts. -/
  | dmaChannelEnable (w : DoorbellWrite)
  /-- DMA_CHANNEL_DISABLE (R245): Disable through the doorbell or ACCDMA_CH_CTRL stops new requests within 1 µs. -/
  | dmaChannelDisable (w : DoorbellWrite)
  /-- DMA_DISABLE_COMPLETE (R245): A disabled channel reaches state 4 within 1 ms. -/
  | dmaDisableComplete (ch : Fin 256)
  /-- DMA_STOP_COMPLETE (R246): A channel stopped by Bus Master Enable or FLR completes its descriptor with FUNCTION_STOPPED and enters state 3. -/
  | dmaStopComplete (ch : Fin 256)
  /-- DMA_DESCRIPTOR_START (R237): A channel takes its next descriptor and copies it through the funnel. -/
  | dmaDescriptorStart (ch : Fin 256) (tag : Fin 16384)
  /-- DMA_HALF_RECORD (R243): A kind-0 record is written once the first half of a descriptor is visible, and the vector is raised. -/
  | dmaHalfRecord (ch : Fin 256)
  /-- DMA_FULL_RECORD (R243): A kind-1 record is written once the whole descriptor is visible or has failed. -/
  | dmaFullRecord (ch : Fin 256)
  /-- CMD_PORT_STATUS (R249): Returns a root port's link, BARs and counts. -/
  | cmdPortStatus (c : Cmd) (port : Nat)
  /-- CMD_ACCEL_WINDOW_SET (R249): Writes an entry of a port's inbound window table. -/
  | cmdAccelWindowSet (c : Cmd) (port : Nat) (entry : Nat) (value : BitVec 256)
  /-- CMD_ACCEL_RANGE_SET (R235): Writes an entry of a port's outbound range table. -/
  | cmdAccelRangeSet (c : Cmd) (port : Nat) (entry : Nat) (addr : Nat) (size : Nat) (inst : Nat)
  /-- CMD_ACCEL_CFG (R249): Performs a configuration access below an accelerator port. -/
  | cmdAccelCfg (c : Cmd) (port : Nat) (fn : Nat) (offset : Nat) (write : Bool) (value : W32) (answer : W32)
  /-- CMD_DMA_RING_SET (R249): Sets a channel's descriptor and completion rings. -/
  | cmdDmaRingSet (c : Cmd) (doorbell : Nat) (space : Nat) (base : Nat) (n : Nat) (completions : Nat)
  /-- CMD_DMA_STATUS (R249): Returns a channel's state, head, tail and counts. -/
  | cmdDmaStatus (c : Cmd) (doorbell : Nat)
  /-- FRAME_RECEIVE (R253): A received frame is stamped, parsed into a key and classified by its rule-set version. -/
  | frameReceive (port : Fin 8) (frame : Bytes)
  /-- RX_RECORD_WRITE (R263): After its delivery slot, a delivered frame's record is written and the vector raised. -/
  | rxRecordWrite (queue : Fin 16384)
  /-- PAUSE_RECEIVE (R251): A PAUSE frame from the link partner holds the port's transmission. -/
  | pauseReceive (port : Fin 8) (time : BitVec 16)
  /-- TRANSMIT_OPPORTUNITY (R264): The egress scheduler descends its tree and sends the head frame of the chosen queue. -/
  | transmitOpportunity (port : Fin 8)
  /-- SHAPER_REFILL (R266): Every 256 slots each shaper's credit is refilled and pending shaper changes apply. -/
  | shaperRefill
  /-- NET_SAMPLE (R268): At the end of each sample period a record is written for each busy queue of the port. -/
  | netSample (port : Fin 8)
  /-- COMMIT_COMPLETE (R261): A rule-set commit completes when no frame of the old version remains. -/
  | commitComplete (half : Bool)
  /-- NET_LINK_DOWN (R270): An Ethernet port's link goes down and posts NET_LINK_DOWN. -/
  | netLinkDown (port : Fin 8)
  /-- CMD_NET_PORT_STATUS (R271): Returns an Ethernet port's link, FEC, PAUSE state and counts. -/
  | cmdNetPortStatus (c : Cmd) (port : Nat)
  /-- CMD_NET_EXTRACT_SET (R254): Writes an extraction-profile entry of the shadow rule set. -/
  | cmdNetExtractSet (c : Cmd) (half : Nat) (profile : Nat) (entry : Nat) (value : W32)
  /-- CMD_NET_RULE_SET (R255): Writes a rule of the shadow rule set. -/
  | cmdNetRuleSet (c : Cmd) (half : Nat) (index : Nat) (rule : Bytes)
  /-- CMD_NET_INDIR_SET (R258): Writes entries of an indirection table. -/
  | cmdNetIndirSet (c : Cmd) (half : Nat) (table : Nat) (first : Nat) (queues : List (BitVec 16))
  /-- CMD_NET_COMMIT (R261): Makes the shadow rule set active under a new version. -/
  | cmdNetCommit (c : Cmd) (half : Nat)
  /-- CMD_NET_QUEUE_SET (R262): Binds or unbinds a network queue. -/
  | cmdNetQueueSet (c : Cmd) (queue : Nat) (set : QueueSet)
  /-- CMD_NET_SHAPER_SET (R266): Stores a node's shaper rate and burst for its next refill. -/
  | cmdNetShaperSet (c : Cmd) (node : NetNode) (rate : Nat) (burst : Nat)
  /-- CMD_NET_FLOWFAIR_SET (R267): Sets flow-fair and an instance's cap on a port. -/
  | cmdNetFlowfairSet (c : Cmd) (port : Nat) (enable : Bool) (cap : Option (Nat × Nat))
  /-- CMD_NET_SAMPLE_SET (R268): Sets or stops a port's sample ring and period. -/
  | cmdNetSampleSet (c : Cmd) (port : Nat) (ring : Option (Nat × Nat × Nat))
  /-- CMD_NET_QUEUE_STATUS (R271): Returns a queue's binding, sequence, depth, credit and counts. -/
  | cmdNetQueueStatus (c : Cmd) (queue : Nat)
  /-- NETENG_QUEUE_SHAPER_WRITE (R272): An expert shaper write acts as CMD_NET_SHAPER_SET at the next refill. -/
  | netengQueueShaperWrite (w : RegW)
  /-- NETENG_FLOWFAIR_WRITE (R272): An expert flow-fair write acts as CMD_NET_FLOWFAIR_SET at the next refill. -/
  | netengFlowfairWrite (w : RegW)
  /-- TRANSPORT_WRITE (R281): An inbound WRITE packet is checked and placed in its mooring, and its psn is recorded. -/
  | transportWrite (half : Bool)
  /-- TRANSPORT_READ_REQ (R284): An inbound READ_REQ runs once expected passes it and returns READ_RESP packets. -/
  | transportReadReq (half : Bool)
  /-- TRANSPORT_READ_RESP (R284): An inbound READ_RESP places read data for its operation. -/
  | transportReadResp (half : Bool)
  /-- TRANSPORT_ACK (R284): An ACK advances una, marks sacked psns and may retransmit a reordered loss. -/
  | transportAck (half : Bool)
  /-- TRANSPORT_NAK (R284): A NAK completes an operation with REMOTE_ACCESS or schedules a page retry. -/
  | transportNak (half : Bool)
  /-- TRANSPORT_CLOSE (R278): A CLOSE from the peer puts the connection into state 3. -/
  | transportClose (half : Bool)
  /-- PACKET_SEND (R284): The sender transmits the next packet of an operation while the window allows. -/
  | packetSend (conn : Fin 65536)
  /-- RTO_EXPIRY (R284): The retransmission timer expires, retransmitting losses, doubling rto and possibly entering state 2. -/
  | rtoExpiry (conn : Fin 65536)
  /-- ACK_TIMER (R284): A delayed ACK is sent after 16 unacknowledged packets or 4 µs. -/
  | ackTimer (conn : Fin 65536)
  /-- PAGE_RETRY_RESEND (R285): A packet answered with NAK code 2 is retransmitted after its delay. -/
  | pageRetryResend (conn : Fin 65536)
  /-- STALL_FALLBACK (R285): A packet held 1 ms in the fault buffer falls back to resend mode. -/
  | stallFallback (index : Nat)
  /-- TX_QUEUE_DOORBELL (R286): A send-queue doorbell write sets the work-request ring tail. -/
  | txQueueDoorbell (inst : Fin 1024) (index : Nat) (value : Word)
  /-- WR_WRITE (R286): A WRITE work request starts a remote write on its connection. -/
  | wrWrite (queue : Fin 8192) (tow : Bool)
  /-- WR_READ (R286): A READ work request starts a remote read on its connection. -/
  | wrRead (queue : Fin 8192) (tow : Bool)
  /-- WR_RAW_FRAME (R286): A RAW_FRAME work request queues a frame on an egress queue. -/
  | wrRawFrame (queue : Fin 8192) (tow : Bool)
  /-- WR_ADD (R288): An ADD work request adds its value to a trigger counter. -/
  | wrAdd (queue : Fin 8192) (tow : Bool)
  /-- WR_TOW (R288): A TOW work request moves itself and its followers into the tow store. -/
  | wrTow (queue : Fin 8192) (tow : Bool)
  /-- TX_COMPLETION_RECORD (R287): A transport completion record is written after the delivery slot of its data. -/
  | txCompletionRecord (queue : Fin 8192)
  /-- MOORING_DEREG_COMPLETE (R282): Deregistration completes once every accepted packet under the key has been placed. -/
  | mooringDeregComplete (mooring : Nat)
  /-- CMD_CONN_SET (R278): Configures a connection and starts both directions at psn 0. -/
  | cmdConnSet (c : Cmd) (conn : Nat) (inst : Nat) (settings : ConnSet)
  /-- CMD_CONN_CLOSE (R278): Sends CLOSE once and puts the connection into state 3. -/
  | cmdConnClose (c : Cmd) (conn : Nat)
  /-- CMD_CONN_STATUS (R291): Returns a connection's state, sequence numbers and counts. -/
  | cmdConnStatus (c : Cmd) (conn : Nat)
  /-- CMD_TX_QUEUE_SET (R291): Binds a send queue's work-request and completion rings. -/
  | cmdTxQueueSet (c : Cmd) (doorbell : Nat) (base : Nat) (n : Nat) (completions : Nat) (vector : Nat)
  /-- CMD_MOORING_REG (R280): Registers a mooring and returns its key. -/
  | cmdMooringReg (c : Cmd) (m : MooringSet)
  /-- CMD_MOORING_DEREG (R282): Makes a mooring key fail for later packets. -/
  | cmdMooringDereg (c : Cmd) (key : Nat)
  /-- CMD_MOORING_PAGE (R285): Sets or clears present bits of a paged mooring, placing stalled packets. -/
  | cmdMooringPage (c : Cmd) (key : Nat) (first : Nat) (count : Nat) (present : Bool)
  /-- CMD_COUNTER_ALLOC (R291): Allocates or frees a trigger counter. -/
  | cmdCounterAlloc (c : Cmd) (inst : Nat) (free : Option Nat)
  /-- CMD_COUNTER_READ (R291): Returns a trigger counter's value. -/
  | cmdCounterRead (c : Cmd) (counter : Nat)
  /-- TRANSPORT_CONN_TIMER_WRITE (R292): An expert timer write acts on the selected connection at its next timer expiry. -/
  | transportConnTimerWrite (w : RegW)
  /-- HEARTBEAT_SEND (R301): Each link sends a HEARTBEAT cell at every multiple of 100 µs. -/
  | heartbeatSend
  /-- HEARTBEAT_RECEIVE (R309): A received heartbeat gives two-way stamps by which the device steers its clock toward upstream. -/
  | heartbeatReceive (link : Fin 4) (h : Heartbeat)
  /-- HEARTBEAT_MISS (R301): A heartbeat not received by its due time counts a miss, and the third declares the link failed. -/
  | heartbeatMiss (link : Fin 4)
  /-- ASSEMBLE (R306): An ASSEMBLE cell is forwarded if its ID is the lowest seen, and its return makes position 0. -/
  | assemble (link : Fin 4) (id : BitVec 20) (hops : Nat)
  /-- ROSTER (R306): A ROSTER cell gathers member IDs, and the root checks the roster against its header. -/
  | roster (link : Fin 4) (r : RosterCell) (hops : Nat)
  /-- DETOUR_NOTICE (R301): A DETOUR_NOTICE is forwarded once and arms the named alternate for lockage L. -/
  | detourNotice (link : Fin 4) (alternate : Nat) (lower : Nat) (lockage : Nat) (origin : BitVec 20) (hops : Nat)
  /-- FAULT_REPORT (R403): A FAULT_REPORT cell is coalesced by identity or forwarded toward the root. -/
  | faultReport (link : Fin 4) (r : FaultCell)
  /-- FAULT_GATHER_EXPIRY (R403): After a 5 µs gather, a new identity is forwarded upstream with its count. -/
  | faultGatherExpiry (identity : Word)
  /-- COALESCE_ENTRY_EXPIRY (R403): At 10 ms an identity entry is freed, sending a count update if it grew. -/
  | coalesceEntryExpiry (identity : Word)
  /-- BROADCAST (R299): A BROADCAST cell carries a flip lockage, stretch factor, abort or lockage-0 time to every member. -/
  | broadcast (link : Fin 4) (origin : BitVec 20) (hops : Nat) (b : Bcast)
  /-- LINK_TRAINING (R298): A link trains, measures its latencies, and comes up or posts RING_LINK_FAIL. -/
  | linkTraining (link : Fin 4) (t : Training)
  /-- LOCKAGE_ZERO (R307): At the broadcast cluster time every member flips into lockage 0 and reaches ring-ready. -/
  | lockageZero
  /-- BYPASS_HOLD_LAPSE (R304): A condition of the bypass hold lapses, posting RING_BYPASS and closing the pair. -/
  | bypassHoldLapse (pair : Fin 2)
  /-- BYPASS_SWITCH_CLOSED (R304): The pair's switches finish closing within 5 ms and light passes the device. -/
  | bypassSwitchClosed (pair : Fin 2)
  /-- TIME_SOURCE_LOST (R308): The root loses its time source and enters holdover or the next source. -/
  | timeSourceLost
  /-- PPS_IN (R308): A PPS input edge disciplines the root's cluster time. -/
  | ppsIn
  /-- PPS_OUTPUT (R311): A PPS output rises at each whole second or step-start lockage by its mode. -/
  | ppsOutput (output : Fin 4)
  /-- CMD_RING_STATUS (R313): Returns shape, coordinates, link states and detours. -/
  | cmdRingStatus (c : Cmd)
  /-- CMD_RING_LINK_STATUS (R313): Returns one link's state, latency, peer and counts. -/
  | cmdRingLinkStatus (c : Cmd) (link : Nat)
  /-- CMD_RING_BYPASS (R304): Closes a bypass pair. -/
  | cmdRingBypass (c : Cmd) (pair : Nat)
  /-- CMD_TIME_STATUS (R313): Returns cluster time, servo state, source and offset. -/
  | cmdTimeStatus (c : Cmd)
  /-- CMD_TIME_SET (R308): Sets cluster time at the root before lockage 0. -/
  | cmdTimeSet (c : Cmd) (ns : Word)
  /-- CMD_PTP_SET (R310): Sets a port's PTP role, domain and transport. -/
  | cmdPtpSet (c : Cmd) (port : Nat) (role : Nat) (domain : Nat) (transport : Nat)
  /-- CMD_PPS_SET (R311): Sets a PPS output's mode. -/
  | cmdPpsSet (c : Cmd) (output : Nat) (mode : Nat)
  /-- RINGTIME_PPS_CTRL_WRITE (R313): An expert write of PPS modes acts as CMD_PPS_SET. -/
  | ringtimePpsCtrlWrite (w : RegW)
  /-- STORAGE_DOORBELL (R314): A storage-queue doorbell write sets the submission tail. -/
  | storageDoorbell (inst : Fin 1024) (index : Nat) (value : Word)
  /-- CAPSULE_FETCH (R317): The service fetches a capsule by the pooled order while fewer than 16,384 commands are outstanding. -/
  | capsuleFetch (half : Bool) (tag : Fin 16384)
  /-- CAPSULE_READ (R321): A READ capsule takes a shared range lock and moves blocks to the buffer. -/
  | capsuleRead (id : Nat)
  /-- CAPSULE_WRITE (R320): A WRITE capsule takes an exclusive range lock and proceeds through transfer-readies. -/
  | capsuleWrite (id : Nat)
  /-- CAPSULE_FLUSH (R321): A FLUSH makes earlier completed writes of the volume durable. -/
  | capsuleFlush (id : Nat)
  /-- CAPSULE_DEALLOCATE (R316): A DEALLOCATE makes blocks read as zeros. -/
  | capsuleDeallocate (id : Nat)
  /-- RANGE_LOCK_GRANT (R319): A waiting range lock is granted in fetch order when no earlier conflicting request remains. -/
  | rangeLockGrant (id : Nat)
  /-- TRANSFER_READY (R320): A segment of a WRITE with its reservation is pulled into the write buffer. -/
  | transferReady (half : Bool) (id : Nat) (tag : Fin 16384) (size : Fin 4097)
  /-- STORAGE_COMPLETION (R326): A completion record is written after the delivery slot of its data. -/
  | storageCompletion (id : Nat)
  /-- DESTAGE (R322): Buffered writes are written to the back-end and their blocks released. -/
  | destage (id : Nat)
  /-- BACKEND_COMPLETION (R323): An NVMe or NVMe/TCP completion finishes a back-end command. -/
  | backendCompletion (tag : Nat) (error : Bool) (data : Bytes)
  /-- BACKEND_TIMEOUT (R323): A drive that stops responding for 2 s fails its commands with BACKEND_ERROR. -/
  | backendTimeout (drive : Fin 4) (resetOk : Bool)
  /-- REMOTE_RECONNECT_TIMEOUT (R324): A remote connection that fails to reconnect within 2 s fails its commands. -/
  | remoteReconnectTimeout (conn : RemoteConn)
  /-- IDLE_TIMER_EXPIRY (R325): A drive's idle timer moves it into idle or deep idle. -/
  | idleTimerExpiry (drive : Fin 4)
  /-- CMD_STORAGE_QUEUE_SET (R314): Binds or unbinds a storage queue. -/
  | cmdStorageQueueSet (c : Cmd) (doorbell : Nat) (set : StorSet)
  /-- CMD_VOLUME_SET (R318): Binds or unbinds a volume to an instance and back-end. -/
  | cmdVolumeSet (c : Cmd) (volume : Nat) (bind : Option VolumeSet)
  /-- CMD_VOLUME_STATUS (R329): Returns a volume's binding, buffered blocks and exit latency. -/
  | cmdVolumeStatus (c : Cmd) (volume : Nat)
  /-- CMD_STORAGE_REMOTE_SET (R324): Configures a remote NVMe/TCP target. -/
  | cmdStorageRemoteSet (c : Cmd) (target : Nat) (settings : RemoteSet)
  /-- CMD_STORAGE_IDLE_SET (R325): Sets a drive's idle timers. -/
  | cmdStorageIdleSet (c : Cmd) (drive : Nat) (idle1 : Nat) (idle2 : Nat)
  /-- STORAGE_IDLE_CTRL_WRITE (R330): An expert idle-timer write acts as CMD_STORAGE_IDLE_SET. -/
  | storageIdleCtrlWrite (w : RegW)
  /-- LANE_SEAL (R340): A sealer lane seals text with AES-256-GCM. -/
  | laneSeal (lane : Fin 48) (user : Fin 3) (j : SealJob)
  /-- LANE_OPEN (R340): A sealer lane opens text, releasing nothing until the tag passes. -/
  | laneOpen (lane : Fin 48) (user : Fin 3) (j : SealJob) (tag : Bytes)
  /-- LANE_RAW_BLOCK (R340): A raw-block lane encrypts or decrypts independent 16-byte blocks. -/
  | laneRawBlock (lane : Fin 48) (user : Fin 3) (decrypt : Bool) (blocks : Bytes) (parity : Bool) (operation : Word)
  /-- SHARED_SEAL (R346): A shared-engine job seals data and writes the tag. -/
  | sharedSeal (parity : Bool)
  /-- SHARED_OPEN (R346): A shared-engine job opens data, writing output only after the tag passes. -/
  | sharedOpen (parity : Bool)
  /-- SHARED_BLOCK_ENCRYPT (R346): A shared-engine job encrypts raw blocks. -/
  | sharedBlockEncrypt (parity : Bool)
  /-- SHARED_BLOCK_DECRYPT (R346): A shared-engine job decrypts raw blocks. -/
  | sharedBlockDecrypt (parity : Bool)
  /-- SHARED_LOCK_CLAIM (R347): A claim makes the writer owner of the shared engine when it is free. -/
  | sharedLockClaim (req : Req)
  /-- SHARED_LOCK_RELEASE (R347): The owner releases the shared engine. -/
  | sharedLockRelease (req : Req)
  /-- SEC_SHARED_PREEMPT (R347): A claim waiting 10 ms preempts the owner, aborting its job. -/
  | secSharedPreempt
  /-- ENTROPY_TEST_FAIL (R344): A health-test failure stops DRBG output and starts a start-up test. -/
  | entropyTestFail (proportion : Bool)
  /-- STARTUP_TEST_COMPLETE (R344): A start-up test ends, reseeding and serving held requests or counting a further failure up to a latch. -/
  | startupTestComplete (pass : Bool)
  /-- ENTROPY_HOLD_EXPIRY (R344): A request held 10 ms completes with ENTROPY_FAIL. -/
  | entropyHoldExpiry
  /-- DRBG_RESEED (R345): The DRBG reseeds every 2^16 requests or every second. -/
  | drbgReseed
  /-- GENERATOR_RESEED (R342): A unit's masking generator reseeds from the DRBG every 2^20 blocks. -/
  | generatorReseed (unit : Fin 49)
  /-- CMD_SEC_STATUS (R350): Returns lifecycle, debug level, boot image, versions and RNG state. -/
  | cmdSecStatus (c : Cmd)
  /-- CMD_SEC_CHALLENGE (R336): Returns a nonce and counter for a security authorisation. -/
  | cmdSecChallenge (c : Cmd) (code : Nat)
  /-- CMD_SEC_DEBUG_SET (R332): Sets the debug level with an owner authorisation. -/
  | cmdSecDebugSet (c : Cmd) (level : Nat) (tag : Bytes)
  /-- CMD_SEC_LIFECYCLE (R331): Advances the lifecycle to RMA or SCRAPPED. -/
  | cmdSecLifecycle (c : Cmd) (target : Nat) (tag : Bytes)
  /-- CMD_SEC_VERSION_COMMIT (R335): Raises min_version to the running image_version. -/
  | cmdSecVersionCommit (c : Cmd) (tag : Bytes)
  /-- CMD_KEY_LOAD (R338): Unwraps and loads a key into an owner slot. -/
  | cmdKeyLoad (c : Cmd) (target : Nat) (wrapping : Nat) (space : Nat) (address : Nat) (fetched : Bytes)
  /-- CMD_KEY_ERASE (R350): Empties an owner slot and erases its ledger copy. -/
  | cmdKeyErase (c : Cmd) (slot : Nat) (tag : Bytes)
  /-- CMD_KEY_INFO (R350): Returns a slot's use, identity, instance and users. -/
  | cmdKeyInfo (c : Cmd) (slot : Nat)
  /-- CMD_RNG_READ (R345): Returns random bytes from the DRBG. -/
  | cmdRngRead (c : Cmd) (length : Nat)
  /-- CMD_SHARED_JOB (R347): Claims the shared engine, runs a job and releases it. -/
  | cmdSharedJob (c : Cmd) (address : Nat)
  /-- WATCHDOG_EXPIRY (R354): A core's watchdog expires, resetting the core and posting CTRL_WATCHDOG. -/
  | watchdogExpiry (core : Fin 19)
  /-- CORE_RESTART_COMPLETE (R353): A restarted core runs again and the commands that waited complete. -/
  | coreRestartComplete (core : Fin 19)
  /-- CTRL_CORE_FAIL (R355): A restart beyond 20 ms or a third expiry within 60 s fails the core. -/
  | ctrlCoreFail (core : Fin 19)
  /-- STEWARDSHIP_CLAIM (R361): A half claims stewardship and the security core arbitrates. -/
  | stewardshipClaim (east : Bool) (epoch : W32)
  /-- CONTROL_LINK_HEARTBEAT (R362): Each half sends a heartbeat over the control link every 10 µs. -/
  | controlLinkHeartbeat (received : Bool)
  /-- CTRL_LINK_FAIL (R362): Three missed control-link heartbeats fail the link and the device. -/
  | ctrlLinkFail
  /-- LEDGER_MOUNT (R365): The data log is mounted and reconciled during local boot. -/
  | ledgerMount
  /-- LEDGER_MOUNT_TIMEOUT (R365): A mount that exceeds 400 ms posts LEDGER_FAIL and leaves the log read-only. -/
  | ledgerMountTimeout
  /-- LEDGER_GARBAGE_COLLECT (R364): Garbage collection copies the valid pages of a data block and erases it. -/
  | ledgerGarbageCollect (fails : Bool)
  /-- TOWPATH_DATAGRAM (R366): A sealed towpath datagram carries a mailbox command with PF authority. -/
  | towpathDatagram (counter : Word) (frame : Bytes) (tag : Bytes)
  /-- I3C_PRIVATE_WRITE (R366): An I3C private write places frame bytes or the device ID. -/
  | i3cPrivateWrite (w : I3cWrite)
  /-- I3C_PRIVATE_READ (R366): An I3C private read returns frame bytes. -/
  | i3cPrivateRead (off : Nat) (length : Nat)
  /-- UART_CHARACTER (R367): The console UART receives one character, checking framing and FIFO room. -/
  | uartCharacter (line : List Bool)
  /-- CMD_CTRL_STATUS (R369): Returns service level, steward, core states and device ID. -/
  | cmdCtrlStatus (c : Cmd)
  /-- CMD_CORE_STATUS (R369): Returns a core's state, restarts and watchdog. -/
  | cmdCoreStatus (c : Cmd) (core : Nat)
  /-- CMD_CORE_RESTART (R369): Restarts a core under R353. -/
  | cmdCoreRestart (c : Cmd) (core : Nat)
  /-- CONTROL_CORE_CTRL_RESTART (R369): An expert write of restart restarts the selected core. -/
  | controlCoreCtrlRestart (w : RegW)
  /-- CMD_EVENT_QUEUE_SET (R360): Sets a PF's event ring. -/
  | cmdEventQueueSet (c : Cmd) (base : Nat) (n : Nat) (headAddr : Nat) (vector : Nat)
  /-- CMD_LEDGER_STATUS (R369): Returns ledger state, spares and repairs. -/
  | cmdLedgerStatus (c : Cmd)
  /-- CMD_NOR_WRITE (R369): Writes a NOR boot image. -/
  | cmdNorWrite (c : Cmd) (image : Nat) (offset : Nat) (length : Nat) (space : Nat) (address : Nat) (fetched : Bytes)
  /-- CMD_UART_SET (R367): Sets the console baud rate. -/
  | cmdUartSet (c : Cmd) (baud : Nat)
  /-- CMD_CORE_EXT_LOAD (R384): Loads a signed extension image into cluster control cores. -/
  | cmdCoreExtLoad (c : Cmd) (space : Nat) (address : Nat) (length : Nat) (fetched : Bytes)
  /-- VOLIL_NOP (R376): Volil instruction that does nothing. -/
  | volilNop (core : Fin 19)
  /-- WAIT (R381): Waits until an interrupt is pending. -/
  | wait (core : Fin 19)
  /-- TRET (R376): Returns from a trap, restoring pc and FL. -/
  | tret (core : Fin 19)
  /-- RET (R376): Returns to the address in g14. -/
  | ret (core : Fin 19)
  /-- VOLIL_FENCE (R376): Waits until every earlier access has completed. -/
  | volilFence (core : Fin 19)
  /-- SYS (R379): Traps to vector 0x08 with the immediate in CAUSE. -/
  | sys (core : Fin 19) (imm : Byte)
  /-- BRK (R379): Traps to vector 0x09. -/
  | brk (core : Fin 19)
  /-- MOV (R376): Copies a register. -/
  | mov (o : VolilRR)
  /-- ADD (R371): Adds registers. -/
  | add (o : VolilRR)
  /-- ADC (R371): Adds registers with carry. -/
  | adc (o : VolilRR)
  /-- SUB (R371): Subtracts registers. -/
  | sub (o : VolilRR)
  /-- SBC (R371): Subtracts registers with borrow. -/
  | sbc (o : VolilRR)
  /-- AND (R371): Bitwise AND of registers. -/
  | and (o : VolilRR)
  /-- OR (R371): Bitwise OR of registers. -/
  | or (o : VolilRR)
  /-- XOR (R371): Bitwise XOR of registers. -/
  | xor (o : VolilRR)
  /-- SHL (R371): Shifts left. -/
  | shl (o : VolilRR)
  /-- SHR (R371): Shifts right logically. -/
  | shr (o : VolilRR)
  /-- SAR (R371): Shifts right arithmetically. -/
  | sar (o : VolilRR)
  /-- MUL (R376): Multiplies, keeping the low half. -/
  | mul (o : VolilRR)
  /-- MULHU (R376): Multiplies, keeping the unsigned high half. -/
  | mulhu (o : VolilRR)
  /-- DIVU (R371): Unsigned division, trapping on zero. -/
  | divu (o : VolilRR)
  /-- REMU (R371): Unsigned remainder, trapping on zero. -/
  | remu (o : VolilRR)
  /-- CMP (R371): Compares registers, setting flags only. -/
  | cmp (o : VolilRR)
  /-- MOVI (R376): Moves an immediate. -/
  | movi (o : VolilRI)
  /-- ADDI (R376): Adds an immediate. -/
  | addi (o : VolilRI)
  /-- ADCI (R376): Adds an immediate with carry. -/
  | adci (o : VolilRI)
  /-- SUBI (R376): Subtracts an immediate. -/
  | subi (o : VolilRI)
  /-- SBCI (R376): Subtracts an immediate with borrow. -/
  | sbci (o : VolilRI)
  /-- ANDI (R376): ANDs an immediate. -/
  | andi (o : VolilRI)
  /-- ORI (R376): ORs an immediate. -/
  | ori (o : VolilRI)
  /-- XORI (R376): XORs an immediate. -/
  | xori (o : VolilRI)
  /-- SHLI (R376): Shifts left by an immediate. -/
  | shli (o : VolilRI)
  /-- SHRI (R376): Shifts right logically by an immediate. -/
  | shri (o : VolilRI)
  /-- SARI (R376): Shifts right arithmetically by an immediate. -/
  | sari (o : VolilRI)
  /-- MULI (R376): Multiplies by an immediate. -/
  | muli (o : VolilRI)
  /-- CMPI (R376): Compares with an immediate. -/
  | cmpi (o : VolilRI)
  /-- NOT (R376): Inverts a register. -/
  | not (o : VolilRR)
  /-- NEG (R376): Negates a register. -/
  | neg (o : VolilRR)
  /-- TST (R376): Sets flags from an AND. -/
  | tst (o : VolilRR)
  /-- MFC (R370): Reads a control register. -/
  | mfc (o : VolilRR)
  /-- MTC (R370): Writes a control register. -/
  | mtc (o : VolilRR)
  /-- CALLR (R376): Calls through a register. -/
  | callr (o : VolilRR)
  /-- JMPR (R376): Jumps through a register. -/
  | jmpr (o : VolilRR)
  /-- SEXT (R376): Sign-extends from the prefix size. -/
  | sext (o : VolilRR)
  /-- BCC (R377): Branches conditionally on the flags. -/
  | bcc (core : Fin 19) (cc : Fin 16) (wide : Bool) (disp : W32)
  /-- CALL (R376): Calls a relative address, saving the return address in g14. -/
  | call (core : Fin 19) (disp : W32)
  /-- LD (R378): Loads zero-extended from memory. -/
  | ld (o : VolilM)
  /-- LDS (R378): Loads sign-extended from memory. -/
  | lds (o : VolilM)
  /-- ST (R378): Stores a register to memory. -/
  | st (o : VolilM)
  /-- STI (R378): Stores an immediate to memory. -/
  | sti (o : VolilM)
  /-- LEA (R374): Computes an effective address. -/
  | lea (o : VolilM)
  /-- SWAP (R378): Atomically exchanges 8 bytes. -/
  | swap (o : VolilM)
  /-- EXT (R383): Runs an extension-store entry as one instruction. -/
  | ext (core : Fin 19) (x : Byte)
  /-- UNDEFINED_ENCODING (R376): An undefined Volil encoding traps to vector 0x06. -/
  | undefinedEncoding (core : Fin 19)
  /-- INTERRUPT_TAKEN (R381): A pending enabled interrupt line is taken at an instruction boundary. -/
  | interruptTaken (core : Fin 19)
  /-- TIMECMP_EXPIRY (R370): CYCLE reaching TIMECMP raises interrupt line 1. -/
  | timecmpExpiry (core : Fin 19)
  /-- STEP_WORD (R390): Members exchange step words each lockage and combine the group word. -/
  | stepWord (words : List StepWord)
  /-- FILL_COMPLETE (R388): A chunk fill ends and the held first write proceeds. -/
  | fillComplete (chunk : Nat)
  /-- BUDDY_DELTA_SEND (R394): After a commit the device sends the flipped chunks and an end barge on buddy_out. -/
  | buddyDeltaSend
  /-- BUDDY_HEADER_BARGE (R394): The holder writes an arriving chunk into the pending buddy copy. -/
  | buddyHeaderBarge (chunk : Nat) (step : Word) (crc : W32) (data : Bytes) (poison : Bool)
  /-- BUDDY_END_BARGE (R394): On a complete good delta the holder flips the chunks and sets delta_done. -/
  | buddyEndBarge (sent : Nat) (step : Word) (poison : Bool)
  /-- CKPT_STRIPE (R398): The checkpoint engine codes a stripe and writes its shards to the volumes. -/
  | ckptStripe
  /-- CKPT_SEAL (R398): After the last stripe the engine flushes, writes seal blocks and posts REL_CKPT_DONE. -/
  | ckptSeal
  /-- CMD_REL_STATUS (R410): Returns step, phase, group word, checkpoint state and holds. -/
  | cmdRelStatus (c : Cmd)
  /-- CMD_REL_FAULT_STATUS (R410): Returns held identities and overflows. -/
  | cmdRelFaultStatus (c : Cmd)
  /-- CMD_CKPT_NOW (R396): Requests a snapshot at the next commit. -/
  | cmdCkptNow (c : Cmd)
  /-- CMD_REL_RESTORE (R400): Restores master state from checkpoint volume sets by a restore plan. -/
  | cmdRelRestore (c : Cmd) (sets : List Nat) (step : Word) (plan : List RestoreEntry) (blocks : List VolumeBlock)
  /-- CMD_REL_FORCE (R410): Marks the current step suspect with cause 6. -/
  | cmdRelForce (c : Cmd)
  /-- RELIABILITY_NAN_LIMIT_WRITE (R411): An expert write replaces nan_limit until the next flip. -/
  | reliabilityNanLimitWrite (w : RegW)
  /-- RELIABILITY_FORCE_WRITE (R411): An expert write of 1 acts as CMD_REL_FORCE. -/
  | reliabilityForceWrite (w : RegW)
  /-- SAMPLE_INSTANT (R415): At slot 0 of each period's lockage every selected tile and core forms a sample. -/
  | sampleInstant
  /-- OBSERVE_MARK_WRITE (R413): A core's write to OBSERVE_MARK latches its counters into a record. -/
  | observeMarkWrite (w : RegW)
  /-- OBSERVE_TRACE_CTRL_WRITE (R421): An expert trace-control write acts as CMD_TRACE_SET. -/
  | observeTraceCtrlWrite (w : RegW)
  /-- OBSERVE_SAMPLE_CTRL_WRITE (R421): An expert sampling write acts as CMD_SAMPLE_SET. -/
  | observeSampleCtrlWrite (w : RegW)
  /-- CMD_TRACE_SET (R417): Starts or stops the trace with a mode and sources. -/
  | cmdTraceSet (c : Cmd) (mode : Nat) (sources : Nat)
  /-- CMD_TRACE_STATUS (R421): Returns trace mode, pointer, wraps, lost and stopped. -/
  | cmdTraceStatus (c : Cmd)
  /-- CMD_SAMPLE_SET (R415): Sets the sampling period and masks. -/
  | cmdSampleSet (c : Cmd) (period : Nat) (clusters : Nat) (cores : Nat)
  /-- CMD_COUNTERS_READ (R421): Returns a tile's or core's eight counters. -/
  | cmdCountersRead (c : Cmd) (core : Bool) (unit : Nat)
  /-- SENSOR_READING (R385): Every 100 µs the power core reads power, voltages and temperatures. -/
  | sensorReading (r : Reading)
  /-- DEMAND_UPDATE (R424): Every 1 ms the power core updates each stretch demand. -/
  | demandUpdate
  /-- TRIP (R425): A hardware thermal or electrical limit removes power, closes the bypass and fails the device. -/
  | trip (cause : Fin 4) (index : Nat) (reading : Int)
  /-- THROTTLE_IN (R438): THROTTLE_IN# asserted or released changes the power-cap demand. -/
  | throttleIn (asserted : Bool)
  /-- POWER_ENABLE (R437): PWR_EN asserted ramps the rails in fixed order. -/
  | powerEnable (p48 : Bool) (standby : Bool)
  /-- COLD_RESET (R427): PWRGD rising clears all volatile state, samples the straps and starts local boot. -/
  | coldReset (straps : Fin 4)
  /-- POWER_DISABLE (R438): PWR_EN deasserted drops PWRGD, turns off the rails and closes the pairs. -/
  | powerDisable
  /-- P48_LOSS (R438): Loss of P48 while PWR_EN is asserted acts as an input-voltage trip. -/
  | p48Loss (mv : Nat)
  /-- WARM_RESET_PIN (R438): WARM_RESET# low for at least 1 µs starts a warm reset. -/
  | warmResetPin (low : Bool) (ns : Nat)
  /-- WARM_RESET (R427): A warm reset clears the manifest, tables and instances and returns to reduced service. -/
  | warmReset
  /-- RING_JOIN_FALL (R440): RING_JOIN falling in service ends the bypass hold and fails the device. -/
  | ringJoinFall
  /-- RING_JOIN_RISE (R440): RING_JOIN rising takes effect only at the next local boot. -/
  | ringJoinRise
  /-- CLOCK_LOSS (R431): A lost clock domain posts CLK_LOSS and fails its cluster, port or the device. -/
  | clockLoss (domain : Fin 60) (frequency : Bool)
  /-- POWERCLK_CAP_WRITE (R433): An expert write sets the power cap and throttle factor until the next flip. -/
  | powerclkCapWrite (w : RegW)
  /-- POWERCLK_RESET_CTRL_WARM (R433): An expert write of warm starts a warm reset within 1 ms. -/
  | powerclkResetCtrlWarm (w : RegW)
  /-- CMD_POWER_STATUS (R433): Returns input power, voltage, temperatures, demands and throttle pins. -/
  | cmdPowerStatus (c : Cmd)
  /-- CMD_POWER_CAP_SET (R424): Sets the power cap. -/
  | cmdPowerCapSet (c : Cmd) (watts : Nat)
  /-- CMD_RESET_WARM (R433): Completes OK and then starts a warm reset within 1 ms. -/
  | cmdResetWarm (c : Cmd)
  /-- CMD_CLOCK_STATUS (R433): Returns a clock domain's state, frequency and losses. -/
  | cmdClockStatus (c : Cmd) (domain : Nat)
  /-- ROM_SELF_TEST (R335): Boot stage 1 runs the ROM self-test, reads fuses and restores owner slots. -/
  | romSelfTest (dimms : List (Nat × Bool)) (rate : Nat)
  /-- IMAGE_VERIFICATION (R335): Boot stages 2 and 3 verify image A and then image B. -/
  | imageVerification
  /-- FIRMWARE_START (R335): Boot stage 4 copies core code and starts the firmware processors, beginning full service. -/
  | firmwareStart (code : List Bytes) (devices : List PortDevice)
  /-- DEFAULT_MANIFEST_LOAD (R335): Boot stage 5 loads the default manifest of the image that passed. -/
  | defaultManifestLoad
  /-- INSTANCE_DESTROY_COMPLETE (R216): Destruction of an instance ends within 10 ms: its resources are back in the pools and its state goes from 3 (Resetting) to 1 (Declared). -/
  | instanceDestroyComplete (inst : Fin 1024)
  /-- FETCH_FAULT (R379): A committed-path fetch outside code memory, or with an uncorrectable code-memory error, traps to vector 0x02. -/
  | fetchFault (core : Fin 19)
  /-- UNKNOWN_COMMAND (R358): A mailbox go whose command code names no command completes with status UNKNOWN_COMMAND. -/
  | unknownCommand (src : Source)
  /-- RINGTIME_TIME_NS_READ (R313): A read of RINGTIME_TIME_NS returns cluster time and latches the fraction into RINGTIME_TIME_FRAC. -/
  | ringtimeTimeNsRead (req : Req) (half : Half)
  /-- JTAG_CORE_DEBUG (R333): JTAG core debug halts, steps or resumes a Volilnos core or tile, or accesses its memory, where the debug level allows it. -/
  | jtagCoreDebug (target : DebugUnit) (op : DebugOp)
  /-- NET_LINK_UP (R251): An Ethernet port's link comes up with FEC aligned on all four lanes, and the port carries frames again. -/
  | netLinkUp (port : Fin 8)
  /-- PORT_LINK_UP (R232): A root port's link to its accelerator or drive trains and comes up again after a link down. -/
  | portLinkUp (port : Fin 12) (speed : Nat) (width : Nat)
  deriving DecidableEq, Repr

end Sys2Proof
end

