-- ==== Sys2Proof/Machine/Types.lean ====
section
/-! DEFINITION. The parts of the device's state: one structure per subsystem of the manual, plain data. Each field's
docstring names the rule that gives it. What a reset leaves in them is said in Machine/State.lean. -/

namespace Sys2Proof.Machine

/-! ### Records, barges and what leaves the device -/

/-- An error record (R385), all 64 bytes of it but the format and the CRC, which `ErrorRecord.bytes` forms. -/
structure ErrorRecord where
  /-- Bytes 2–3: error class (R385). -/
  cls : BitVec 16 := 0
  /-- Bytes 4–7: the unit (R386). -/
  unit : BitVec 32 := 0
  /-- Bytes 8–15: operation ID of the work that met the error. -/
  operation : Word := 0
  /-- Bytes 16–23: cluster time at detection, nanoseconds. -/
  timeNs : Word := 0
  /-- Bytes 24–27: fraction, in 2^-32 ns. -/
  timeFrac : W32 := 0
  /-- Bytes 28–29: junction temperature of the unit's die. -/
  temperature : BitVec 16 := 0
  /-- Bytes 30–31: core rail voltage of that die, mV. -/
  voltage : BitVec 16 := 0
  /-- Bytes 32–47: the syndrome, by class. -/
  syndrome : Bytes := []
  /-- Bytes 48–55: fault identity (R402). -/
  identity : Word := 0
  /-- Bytes 56–59: duplicates (R403). -/
  duplicates : W32 := 0
  deriving DecidableEq, Repr

/-- A barge (R57): the sideband word's fields, the 256 body bytes and the CRC that travels with them (R58). -/
structure Barge where
  /-- Bits 1:0: 0 empty, 1 data, 2 poisoned data, 3 reserved. -/
  kind : BitVec 2 := 0
  /-- Bit 2: last barge of a transfer. -/
  last : Bool := false
  /-- Bit 3: first data barge of a route after its count restarts (R60). -/
  restart : Bool := false
  /-- Bits 15:4: route identity. -/
  route : BitVec 12 := 0
  /-- Bits 25:16: instance on whose behalf the barge moves. -/
  inst : BitVec 10 := 0
  /-- Bits 33:26: valid bytes minus 1. -/
  fill : BitVec 8 := 0
  /-- Bits 47:34: sequence number within the route. -/
  seq : BitVec 14 := 0
  /-- Bits 63:48: reserved, 0 in a good barge. -/
  rsvd : BitVec 16 := 0
  /-- The 256 body bytes. -/
  body : Bytes := []
  /-- The CRC-32 that travels with the barge (R58). -/
  crc : W32 := 0
  deriving DecidableEq, Repr

/-- A barge on its way: it is at input `port` of router `router` in slot `slot`, as barge A or barge B of that slot. -/
structure Flight where
  router : Nat := 0
  port : Nat := 0
  slot : Nat := 0
  /-- false: barge A (cycles 0–3), true: barge B (cycles 4–7). -/
  half : Bool := false
  barge : Barge := {}
  deriving DecidableEq, Repr

/-- A barge delivered to the unit attached at output `port` of router `router` in slot `slot`. -/
structure Delivery where
  router : Nat := 0
  port : Nat := 0
  slot : Nat := 0
  half : Bool := false
  barge : Barge := {}
  deriving DecidableEq, Repr

/-- A completion status toward a PCI Express requester. -/
inductive CplStatus where
  | success      -- Successful Completion
  | unsupported  -- Unsupported Request (R20, R203, R209)
  deriving DecidableEq, Repr

/-- The double words of a TLP (R240): its address rounded down to 4 bytes, its length, and the First and Last DW Byte Enables. -/
structure DwSpan where
  addr : Nat := 0
  dws : Nat := 0
  first : Nat := 0
  last : Nat := 0
  deriving DecidableEq, Repr

/-- The double words that carry n bytes at an address: the range is rounded outward to 4-byte boundaries, and the Byte Enables mask
the bytes outside it. A request of no bytes is one double word with no byte enabled. -/
def dwSpan (a n : Nat) : DwSpan :=
  let dws := if n = 0 then 1 else (a + n - 1) / 4 - a / 4 + 1
  let upTo (b : Nat) : Nat := 2 ^ (b % 4 + 1) - 1
  let start := 15 - (2 ^ (a % 4) - 1)
  { addr := a / 4 * 4, dws := dws,
    first := if n = 0 then 0 else if dws = 1 then Nat.land start (upTo (a + n - 1)) else start,
    last := if n = 0 ∨ dws = 1 then 0 else upTo (a + n - 1) }

/-- How the data of a back-end command travel (R323, R324): by PRP pointers, or over NVMe/TCP in the capsule, or after the target's R2T. -/
inductive BackForm where
  | prp | inCapsule | afterR2t
  deriving DecidableEq, Repr

/-- What leaves the device at its ports, pins and links. The list of these in State is the model's own record of the
outside effects the manual gives a step; nothing in the device reads it. -/
inductive Out where
  /-- A posted write toward host memory by a physical function's endpoint, on behalf of an instance. -/
  | hostWrite (ep : Nat) (inst : Nat) (span : DwSpan) (bytes : Bytes) (poison : Bool) (relaxed : Bool)
  /-- A read request toward host memory with its tag. -/
  | hostRead (ep : Nat) (inst : Nat) (tag : Nat) (span : DwSpan)
  /-- An MSI-X message of a function, by instance and vector. -/
  | msix (inst : Nat) (vector : Nat)
  /-- A completion toward a host requester; `relaxed` where the read carried Relaxed Ordering (R221). -/
  | completion (ep : Nat) (tag : Nat) (status : CplStatus) (bytes : Bytes) (poison : Bool) (relaxed : Bool)
  /-- A completion of a configuration request. -/
  | configCompletion (ep : Nat) (fn : Nat) (value : W32)
  /-- A posted write below a root port. -/
  | portWrite (port : Nat) (inst : Nat) (span : DwSpan) (bytes : Bytes) (poison : Bool) (relaxed : Bool)
  /-- A read request below a root port. -/
  | portRead (port : Nat) (inst : Nat) (tag : Nat) (span : DwSpan)
  /-- A completion toward a device below a root port. -/
  | portCompletion (port : Nat) (tag : Nat) (status : CplStatus) (bytes : Bytes) (poison : Bool)
  /-- A configuration access below a root port (R249). -/
  | portConfig (port : Nat) (fn : Nat) (offset : Nat) (write : Bool) (value : W32)
  /-- A PTM response with the nanosecond part of cluster time and the Local Clock Granularity in ns (R236). -/
  | ptmResponse (port : Nat) (timeNs : Word) (granularity : Nat)
  /-- An Ethernet frame transmitted; `badFcs` when its FCS is inverted (R269). -/
  | frame (port : Nat) (bytes : Bytes) (badFcs : Bool)
  /-- An 802.3 Annex 31B PAUSE frame of an ETH lock with its pause_time (R92). -/
  | pauseFrame (lock : Nat) (pauseTime : BitVec 16)
  /-- A control cell sent on a ring link, its 64 bytes (R299). -/
  | cell (link : Nat) (bytes : Bytes)
  /-- A barge that leaves on a ring link: body, sideband and CRC unchanged (R297). -/
  | barge (gatePort : Nat) (cell : Bytes)
  /-- An NVMe or NVMe/TCP command toward a back-end (R323, R324). -/
  | backend (target conn : Nat) (nsid : Nat) (op : Nat) (fua : Bool) (lba : Nat) (blocks : Nat) (tag : Nat) (form : BackForm) (bytes : Bytes)
  /-- A drive set to an idle power state (R325). -/
  | drivePower (drive : Nat) (idleState : Nat)
  /-- A towpath reply (R366): the key slot of the active manifest under which the wire carries it sealed, none for the answer to an
  unsealed query; the IV; the result bytes. -/
  | datagram (slot : Option Nat) (iv : Bytes) (bytes : Bytes)
  /-- An in-band interrupt on the I3C bus (R366). -/
  | ibi
  /-- Bytes answered to an I3C private read (R366). -/
  | i3c (bytes : Bytes)
  /-- A level driven on a module pin (R434). -/
  | pin (name : String) (level : Bool)
  /-- Bytes read by JTAG core debug (R333). -/
  | jtag (bytes : Bytes)
  /-- An edge of a PPS output: it rises or falls (R311). -/
  | ppsEdge (output : Nat) (rises : Bool)
  /-- A PTP message sent by the time firmware, over the transport named (R310). -/
  | ptp (port : Nat) (transport : Nat) (message : Bytes)
  /-- A PTP role taken by a port (R310). -/
  | ptpRole (port : Nat) (role : Nat)
  deriving DecidableEq, Repr

/-! ### Power, clocks and reset (chapter 20, 21) -/

/-- The power states of R426. -/
inductive PowerState where
  | off | reduced | full | warmReset
  deriving DecidableEq, Repr

/-- A clock domain (R429, POWERCLK_DOMAIN_STATE). -/
structure Domain where
  /-- 0 stopped, 1 running, 2 gated, 3 lost. -/
  state : Nat := 0
  /-- Current frequency in MHz. -/
  mhz : Nat := 0
  /-- CLK_LOSS records, saturating at 65,535. -/
  losses : Nat := 0
  deriving DecidableEq, Repr

/-- Power, readings, demands, pins and resets. -/
structure Power where
  /-- Power state (R426). -/
  state : PowerState := .off
  /-- PWR_EN pin (R434, R437). -/
  pwrEn : Bool := false
  /-- P3V3_SB present (R438). -/
  standby : Bool := false
  /-- P48 present and within range (R437). -/
  p48 : Bool := false
  /-- PWRGD pin (R437). -/
  pwrGood : Bool := false
  /-- A trip is latched: only a cold reset leaves it (R425). -/
  tripped : Bool := false
  /-- Uptime at which PWR_EN was deasserted; none while it is asserted (R438). -/
  pwrEnLow : Option Nat := none
  /-- WARM_RESET# is held low (R438). -/
  warmPinLow : Bool := false
  /-- THROTTLE_IN# asserted (R424). -/
  throttleIn : Bool := false
  /-- THROTTLE_OUT# asserted (R424). -/
  throttleOut : Bool := false
  /-- RING_JOIN pin (R440). -/
  ringJoinPin : Bool := false
  /-- Ring join granted, as sampled at the last local boot (R440). -/
  ringJoin : Bool := false
  /-- STRAP1:STRAP0 as sampled at PWRGD (R439). -/
  strap : Nat := 0
  /-- A reading has been taken since reset (R385). -/
  haveReading : Bool := false
  /-- Input power in W (POWERCLK_POWER). -/
  inputW : Nat := 0
  /-- Input voltage in mV (POWERCLK_POWER). -/
  inputMv : Nat := 0
  /-- Junction temperature of each die, signed, 0.125 °C (R385). -/
  junction : Tab Int := []
  /-- Core rail voltage of each die in mV (R385). -/
  railMv : Tab Nat := []
  /-- Largest rail current in 0.1 % of its rated limit (R424, R425). -/
  railMilli : Nat := 0
  /-- Coolant inlet, signed, 0.125 °C. -/
  coolant : Int := 0
  /-- Demand of cause 0x01 (R424). -/
  demJunction : Nat := 0
  /-- Demand of cause 0x02. -/
  demCoolant : Nat := 0
  /-- Power-cap row of cause 0x03. -/
  demCap : Nat := 0
  /-- THROTTLE_IN# row of cause 0x03. -/
  demThrottle : Nat := 0
  /-- Demand of cause 0x04. -/
  demVoltage : Nat := 0
  /-- Demand of cause 0x05. -/
  demCurrent : Nat := 0
  /-- Demand received from another group member, cause 0x06 (R75): the smallest of those received. -/
  demGroup : Nat := 0
  /-- Demands received by the root, by device ID; 1,024 where none (R75). -/
  demMembers : Tab Nat := []
  /-- Power cap in W and throttle factor in force (POWERCLK_CAP, R424). -/
  capW : Nat := 4000
  throttleFactor : Nat := 512
  /-- Warm resets since cold reset, saturating (POWERCLK_RESET_CAUSE). -/
  warmCount : Nat := 0
  /-- Cause of the last reset (POWERCLK_RESET_CAUSE). -/
  lastReset : Nat := 0
  /-- A warm reset has been ordered and follows within 1 ms: its cause code (R433). -/
  warmDue : Option Nat := none
  /-- Clock domains (R429). -/
  domains : Tab Domain := []
  deriving DecidableEq, Repr

/-- Local boot (R335). -/
structure Boot where
  /-- Next boot stage to run: 1–5; 6 when local boot has ended; 0 when it waits (recovery mode, no image). -/
  stage : Nat := 0
  /-- Image being tried: false A, true B. -/
  image : Bool := false
  /-- Image A failed verification. -/
  aFailed : Bool := false
  /-- Image B failed verification. -/
  bFailed : Bool := false
  /-- Local boot has passed since the last cold or warm reset (R304, R426). -/
  passed : Bool := false
  /-- Device ID from I3C (R366), none until it arrives. -/
  deviceId : Option (BitVec 20) := none
  /-- Image version that runs (SECURITY_LIFECYCLE). -/
  imageVersion : W32 := 0
  /-- NOR images A (0) and B (1): bytes by index image × 2^26 + offset (64 MiB each, R17 text, R334). -/
  nor : Tab Byte := []
  deriving DecidableEq, Repr

/-! ### The manifest (chapter 2) -/

/-- One route record of a program (R69). -/
structure RouteRec where
  slot : Nat := 0
  router : Nat := 0
  output : Nat := 0
  source : Nat := 0
  mark : Nat := 0
  route : Nat := 0
  deriving DecidableEq, Repr

/-- One entry of a patch alternate (R71). -/
structure PatchEntry where
  slot : Nat := 0
  router : Nat := 0
  entry : BitVec 512 := 0
  deriving DecidableEq, Repr

/-- An alternate (R41). -/
structure Alternate where
  /-- 0 patch, 1 program. -/
  kind : Nat := 0
  base : Nat := 0
  target : Nat := 0
  /-- Unit codes of R42. -/
  coverage : List Nat := []
  patch : List PatchEntry := []
  deriving DecidableEq, Repr

/-- A logical tile's placement (R106). -/
structure TilePlace where
  physical : Nat := 0
  partner : Nat := 0
  inst : Nat := 0
  spillSize : Nat := 0
  spillBase : Nat := 0
  deriving DecidableEq, Repr

/-- A lock's descriptor in GATE_TABLES (R89). -/
structure LockDesc where
  lock : Nat := 0
  pauseEn : Bool := false
  granules : Nat := 0
  pauseOn : Nat := 0
  pauseOff : Nat := 0
  /-- Destination code and route. -/
  routeMap : List (Nat × Nat) := []
  /-- Gate entries by program × 1,024 + slot. -/
  gates : Tab W32 := []
  deriving DecidableEq, Repr

/-- An instance descriptor of PARTITION (R212). -/
structure InstDesc where
  inst : Nat := 0
  homePf : Nat := 0
  dma : Nat := 0
  storage : Nat := 0
  tx : Nat := 0
  egress : Nat := 0
  connections : Nat := 0
  moorings : Nat := 0
  /-- Grants: base and size. -/
  grants : List (Nat × Nat) := []
  deriving DecidableEq, Repr

/-- A sealer lane's entry of SEALER_MODES (R339). -/
structure SealerEntry where
  mode : Nat := 0
  user : Nat := 0
  keySlot : Nat := 0
  inst : Nat := 0
  deriving DecidableEq, Repr

/-- A reserved region of HBM_SLOT_PLAN (R189). -/
structure Region where
  kind : Nat := 0
  base : Nat := 0
  size : Nat := 0
  deriving DecidableEq, Repr

/-- A fault policy (R125). -/
structure Policy where
  cls : Nat := 0
  action : Nat := 0
  restart : Bool := false
  param : Nat := 0
  deriving DecidableEq, Repr

/-- A gradient-norm band of THRESHOLDS (R407). -/
structure Band where
  line : Nat := 0
  low : W32 := 0
  high : W32 := 0
  deriving DecidableEq, Repr

/-- A master region of THRESHOLDS (R387, R407). -/
structure MasterRegion where
  base : Nat := 0
  twin : Nat := 0
  size : Nat := 0
  deriving DecidableEq, Repr

/-- THRESHOLDS (R407). -/
structure Thresholds where
  bands : List Band := []
  masters : List MasterRegion := []
  /-- Coordinate entries, 48 bytes each (R399). -/
  coords : List Bytes := []
  verdictOffset : Nat := 0
  replayOffset : Nat := 0
  replayLockages : Nat := 0
  wordDelay : Nat := 0
  role : Nat := 0
  reseed : Nat := 0
  takeoverFrom : Nat := 0
  nanLimit : Nat := 0
  hbmCeLimit : Nat := 0
  wharfCeLimit : Nat := 0
  kvHigh : Nat := 0
  kvLow : Nat := 0
  hbmWeir : Nat := 0
  junctionLimit : Nat := 0
  coolantLimit : Nat := 0
  powerCap : Nat := 0
  ckptInterval : Nat := 0
  ckptK : Nat := 0
  ckptM : Nat := 0
  ckptVolume : Nat := 0
  codingOut : Nat := 0
  codingIn : Nat := 0
  stepLine : Nat := 0
  wordOut : Nat := 0
  wordIn : Nat := 0
  buddyOut : Nat := 0
  buddyIn : Nat := 0
  deriving DecidableEq, Repr

/-- A code image of STREAM_CODE (R119): its ops and the entry points of streams 0–3 (0xFFFF idle). -/
structure CodeImage where
  ops : List Word := []
  entries : List Nat := []
  deriving DecidableEq, Repr

/-- A parsed manifest: what the sections of R32 say. -/
structure Manifest where
  serial : Word := 0
  jobId : Word := 0
  keySlot : Nat := 0
  deviceId : Nat := 0
  groupId : Nat := 0
  groupSize : Nat := 0
  paired : Bool := false
  stepLockages : Nat := 0
  /-- DVFS point of each cluster, 25 MHz units (R106). -/
  dvfs : List Nat := []
  /-- Placement by logical tile (R106). -/
  place : Tab TilePlace := []
  /-- Route records of each program (R69). -/
  programs : List (List RouteRec) := []
  locks : List LockDesc := []
  /-- Rotation rows: 16 instances each (R89). -/
  rotation : List (List Nat) := []
  /-- Pool lists: the members of each (R89). -/
  pools : List (List Nat) := []
  partition : List InstDesc := []
  sealers : List SealerEntry := []
  regions : List Region := []
  /-- Merge tokens by 128 × controller + lock (R189). -/
  tokens : Tab Nat := []
  /-- Refresh marks by (8 × program + controller) × 1,024 + slot: 1 refresh, 2 scrub (R189). -/
  plan : Tab Nat := []
  alternates : List Alternate := []
  policies : List Policy := []
  thr : Thresholds := {}
  /-- Weight of each instance, default 1 (R88). -/
  weights : Tab Nat := []
  images : List CodeImage := []
  /-- Image index of each logical tile (R119). -/
  imageMap : Tab Nat := []
  deriving DecidableEq, Repr

/-- The manifest block (R36, R50; MANIFEST register map). -/
structure ManifestSt where
  /-- The manifest in force. -/
  active : Option Manifest := none
  /-- The staging copy: the image bytes (R36). -/
  staging : Bytes := []
  /-- What validation has parsed from the staging copy. -/
  parsed : Option Manifest := none
  /-- The shadow copy of every configured table (R36 stage 4). -/
  shadow : Option Manifest := none
  /-- Stage of the load: 0 idle … 6 rollback restore (MANIFEST_LOAD_STATE). -/
  stage : Nat := 0
  /-- Last validation code (R39). -/
  code : Nat := 0
  /-- Section of the failure. -/
  sect : Nat := 0
  /-- Byte offset of the last failure. -/
  errorOffset : Nat := 0
  /-- Source of the last load (R50). -/
  source : Nat := 0
  /-- Address named by the load command. -/
  address : Nat := 0
  /-- Length named by the load command. -/
  length : Nat := 0
  /-- The load is a reload. -/
  reload : Bool := false
  /-- The reload is with rollback (R48). -/
  rollback : Bool := false
  /-- Sender of the load command and its sequence, for the completion event (R360). -/
  sender : Option (Nat × W32) := none
  /-- Scheduled work is held (R21, R48). -/
  workHeld : Bool := false
  /-- Alternates applied: bit i of MANIFEST_ALT_ACTIVE. -/
  altActive : List Nat := []
  /-- Held-failed units by unit code (R44, R42). -/
  heldFailed : List Nat := []
  /-- The failed set (R44). -/
  failedSet : List Nat := []
  /-- The failed units that really reported a failure: what CMD_ALT_REVERT asks for health (R45). -/
  unhealthy : List Nat := []
  /-- An alternate chosen and due at the next boundary, with the units its choice answered (R44, R45). -/
  altDue : Option (List Nat) := none
  /-- A revert is requested for the next step-start lockage (R45). -/
  revertDue : Bool := false
  /-- The flip lockage broadcast to the group (R46). -/
  flipLockage : Option Nat := none
  /-- Instant of the first ready report (R46), uptime ns. -/
  firstReady : Option Nat := none
  /-- Members that have reported ready, counted at the root (R46). -/
  membersReady : Nat := 0
  /-- Highest serial accepted for each key slot (R35), in the ledger's key area. -/
  serials : Tab Word := []
  /-- FAIL_DEVICE takes effect at the next lockage boundary (R127). -/
  failDue : Bool := false
  /-- The load in progress brought in the stack map of R172: if it fails, no manifest stays in force (R48). -/
  mapReload : Bool := false
  deriving DecidableEq, Repr

/-- A challenge outstanding (R52, R336). -/
structure Challenge where
  nonce : BitVec 96 := 0
  counter : Word := 0
  issued : Nat := 0
  deriving DecidableEq, Repr

/-- Expert unlock (R50–R54). -/
structure Expert where
  /-- Bit b: block code b unlocked (MANIFEST_EXPERT_STATE). -/
  unlocked : List Nat := []
  /-- Uptime at which block b relocks (R54). -/
  expiry : Tab Nat := []
  /-- Outstanding challenge of block b (R53). -/
  challenges : Tab Challenge := []
  /-- Outstanding challenge of a security command code (R336). -/
  secChallenges : Tab Challenge := []
  /-- Challenge counter. -/
  counter : Word := 0
  /-- Consecutive AUTH_FAIL results of expert unlock (R53). -/
  fails : Nat := 0
  /-- End of the expert lockout (R53), uptime ns. -/
  lockedUntil : Option Nat := none
  /-- Consecutive AUTH_FAIL results of security authorisations (R336). -/
  secFails : Nat := 0
  /-- End of the security lockout. -/
  secLockedUntil : Option Nat := none
  deriving DecidableEq, Repr

/-! ### The mailbox (chapter 16) -/

/-- A mailbox frame (R356). -/
structure Frame where
  code : BitVec 16 := 0
  paramLength : BitVec 16 := 0
  sequence : W32 := 0
  /-- Bytes 8–15 as written. -/
  rsvd : Word := 0
  /-- Parameter bytes 16–1,023 by offset within the frame. -/
  params : Tab Byte := []
  status : Byte := 0
  detail : Byte := 0
  sequenceEcho : W32 := 0
  result : Bytes := []
  busy : Bool := false
  done : Bool := false
  /-- A command of the source runs and has not completed: it waits for a core, for the DRBG or for its own end (R359). -/
  running : Bool := false
  deriving DecidableEq, Repr

/-- An event ring of a PF (R360). -/
structure EventRing where
  base : Nat := 0
  /-- log2 of the entry count. -/
  n : Nat := 0
  /-- Address of the head word in host memory. -/
  headAddr : Nat := 0
  vector : Nat := 0
  /-- Entries written since the ring was set. -/
  written : Nat := 0
  /-- The head word as the device last read it: entries the host has consumed. -/
  head : Nat := 0
  deriving DecidableEq, Repr

/-- Frames and event rings. -/
structure Mailbox where
  /-- Frames by source number (R356). -/
  frames : Tab Frame := []
  /-- Event rings of PF 0 and PF 1. -/
  rings : Tab EventRing := []
  /-- A second go while busy, counted (R357). -/
  overruns : Nat := 0
  /-- Entries that found the ring full (R360). -/
  eventsLost : Nat := 0
  deriving DecidableEq, Repr

/-! ### The canal (chapter 3) -/

/-- A router input's CRC window (R59). -/
structure LinkCrc where
  /-- CRC failures since cold reset, saturating at 2^32 − 1. -/
  total : Nat := 0
  /-- Failures in the open window. -/
  window : Nat := 0
  /-- A window is open, and since when (uptime ns). -/
  opened : Option Nat := none
  /-- The link has been declared failed. -/
  failed : Bool := false
  deriving DecidableEq, Repr

/-- The last canal error (CANAL_ERR_LAST). -/
structure CanalErr where
  router : Nat := 0
  port : Nat := 0
  slot : Nat := 0
  kind : Nat := 0
  lockage : Nat := 0
  deriving DecidableEq, Repr

/-- The canal fabric. -/
structure Canal where
  /-- Running program (CANAL_SCHED_STATE). -/
  program : Nat := 0
  /-- Resident programs. -/
  resident : List Nat := []
  /-- Active banks: entries by (router × 8 + program) × 1,024 + slot (R66). -/
  active : Tab (BitVec 512) := []
  /-- Shadow banks, same index. -/
  shadow : Tab (BitVec 512) := []
  /-- Alternates whose overlays are in force (R71). -/
  overlays : List Nat := []
  /-- Slot counter (R63). -/
  slot : Nat := 0
  /-- The canal runs: the first flip has aligned the counters (R63). -/
  aligned : Bool := false
  /-- Scheduled lockages since the first flip (CANAL_LOCKAGE_COUNT). -/
  lockage : Nat := 0
  /-- Cluster time at which the scheduled lockage in progress began (R63). -/
  beganNs : Word := 0
  beganFrac : W32 := 0
  /-- Nanosecond part of the cluster time of lockage count 0. -/
  epoch : Word := 0
  /-- Lockage count at which the running manifest's step cycle began. -/
  cycleStart : Nat := 0
  /-- Dwell lockages left before the next scheduled one (R74). -/
  dwellLeft : Nat := 0
  /-- The current lockage is a dwell lockage. -/
  dwell : Bool := false
  /-- Applied factor f (R74). -/
  f : Nat := 0
  /-- Canal clock factor f_c. -/
  fc : Nat := 0
  /-- Dwell count n. -/
  n : Nat := 0
  /-- Cause (R77). -/
  cause : Nat := 0
  /-- A factor broadcast for a boundary of the group (R75): lockage and factor. -/
  stretchDue : Option (Nat × Nat) := none
  /-- A switch requested by CMD_CANAL_SWITCH for the next step-start lockage (R79). -/
  switchDue : Option Nat := none
  /-- CRC failures, misroutes and slips (CANAL_ERR_COUNT), saturating. -/
  crcCount : Nat := 0
  misrouteCount : Nat := 0
  slipCount : Nat := 0
  /-- Last error. -/
  last : CanalErr := {}
  /-- Per-input CRC windows by router × 64 + port (R59). -/
  links : Tab LinkCrc := []
  /-- Barges on the links. -/
  flights : List Flight := []
  /-- Barges delivered and not yet checked by the receiving unit. -/
  deliveries : List Delivery := []
  /-- Next seq a source gives a route, by route (R60); unlisted: the count has restarted. -/
  sendSeq : Tab (BitVec 14) := []
  /-- Seq a receiver expects next on a route, by (router × 64 + port) × 4,096 + route; unlisted: 0. -/
  recvSeq : Tab (BitVec 14) := []
  /-- Barges accepted, by receiving unit (router × 64 + port), oldest first. -/
  inbox : Tab (List Delivery) := []
  deriving DecidableEq, Repr

/-! ### The locks (chapter 4) -/

/-- The kinds of integrity hold at a lock or send engine (R95, R388, R395). -/
inductive HoldKind where
  | copyBeforeWrite | fill | delta
  deriving DecidableEq, Repr

/-- A hold in force (R25, R95, R388, R395, R397). -/
structure Hold where
  kind : HoldKind := .copyBeforeWrite
  /-- Master chunk concerned. -/
  chunk : Nat := 0
  /-- Instance whose write is held. -/
  inst : Nat := 0
  /-- The held request in its chamber, or the pc of the held op. -/
  id : Nat := 0
  /-- Lock number, or none in a tile's send engine. -/
  lock : Option Nat := none
  /-- Physical tile when the hold is in a send engine. -/
  tile : Option Nat := none
  route : Nat := 0
  /-- Start of the hold (uptime ns). -/
  since : Nat := 0
  /-- It has passed its allowance (R96). -/
  overrun : Bool := false
  /-- Uptime at which its derate record is posted again (R25). -/
  repeatDue : Nat := 0
  deriving DecidableEq, Repr

/-- What a waiting request asks of its destination. -/
inductive ReqKind where
  /-- Read of `length` bytes. -/
  | read
  /-- Write of the bytes carried. -/
  | write
  /-- Ring or service traffic carried as it is. -/
  | data
  deriving DecidableEq, Repr

/-- A request waiting in a chamber (R83): its barges are formed when the gate admits them. -/
structure Waiting where
  /-- Model's own identity of the request, for its answers. -/
  id : Nat := 0
  inst : Nat := 0
  /-- Destination code (R83). -/
  dest : Nat := 0
  route : Nat := 0
  kind : ReqKind := .data
  /-- Device address. -/
  addr : Nat := 0
  /-- Length in bytes. -/
  length : Nat := 0
  /-- Barges still to be admitted, oldest first. -/
  barges : List Barge := []
  /-- Chamber bytes it occupies. -/
  size : Nat := 0
  /-- Relaxed Ordering honoured (R222). -/
  relaxed : Bool := false
  /-- Ordering domain of R220: (port × 1,024 + function), for requests that keep an order. -/
  order : Option Nat := none
  /-- Barges of it have been admitted. -/
  started : Nat := 0
  /-- A merge token wait has begun (R183). -/
  waited : Bool := false
  deriving DecidableEq, Repr

/-- One lock (R81–R97). -/
structure Lock where
  /-- Chamber size in granules; 0: closed (R82). -/
  size : Nat := 0
  /-- The lock has a descriptor in the manifest in force. -/
  described : Bool := false
  queue : List Waiting := []
  routeMap : List (Nat × Nat) := []
  /-- Virtual time v (R87). -/
  v : Word := 0
  /-- Start tags s[i]. -/
  s : Tab Word := []
  pauseOn : Nat := 0
  pauseOff : Nat := 0
  pauseEn : Bool := false
  /-- PAUSE asserted toward the partner (R92). -/
  paused : Bool := false
  /-- Frames dropped, saturating (LOCKS_COUNTS). -/
  drops : Nat := 0
  /-- Holds, saturating. -/
  holds : Nat := 0
  /-- Holds past their allowance, saturating. -/
  overruns : Nat := 0
  /-- Merge tokens in use by controller (R183). -/
  tokensUsed : Tab Nat := []
  /-- Scheduled slots counted up to its last opening, plus 1. -/
  openedAt : Nat := 0
  /-- Uptime at which PAUSE is sent again (R92). -/
  pauseAt : Nat := 0
  deriving DecidableEq, Repr

/-- A sluice in progress (R97): its lock (none: every lock), its instance (none: all), the requests it has removed with
their locks, and whether LOCKS_SLUICE started it. -/
structure Sluice where
  lock : Option Nat := none
  inst : Option Nat := none
  removed : List (Nat × Waiting) := []
  byRegister : Bool := false
  deriving DecidableEq, Repr

/-- All locks. -/
structure Locks where
  /-- Locks by number (R81). -/
  tab : Tab Lock := []
  /-- Active gate tables by (lock × 8 + program) × 1,024 + slot (R84). -/
  gates : Tab W32 := []
  /-- Shadow gate tables. -/
  gatesShadow : Tab W32 := []
  rotation : List (List Nat) := []
  pools : List (List Nat) := []
  /-- The shared instance weight table w[i] (R88), default 1. -/
  weights : Tab Nat := []
  /-- Weights set by CMD_WEIGHT_SET and due at the next scheduled boundary (R88). -/
  weightsDue : List (Nat × Nat) := []
  /-- Large configuration (R212). -/
  large : Bool := false
  /-- Sluices in progress (R97). -/
  sluices : List Sluice := []
  /-- Factor of the last integrity-hold record (R25); 0 stands for none yet. -/
  holdF : Nat := 0
  /-- Delivery slot of the last write admitted in each ordering domain (R220), in scheduled slots. -/
  orderSlot : Tab Nat := []
  /-- Holds in force (R95, R388, R395). -/
  holds : List Hold := []
  /-- LOCKS_DERATE: f, the f before it, cause, sequence of the last record. -/
  derateF : Nat := 0
  deratePrev : Nat := 0
  derateCause : Nat := 0
  derateSeq : Nat := 0
  /-- LOCKS_DERATE_SET: affected instances. -/
  derateSet : List Nat := []
  /-- Next request identity (model's own). -/
  nextId : Nat := 0
  /-- Delivery slot, plus 1, of the last barge of an Ethernet frame's write, by request identity (R64, R263). -/
  delivered : Tab Nat := []
  deriving DecidableEq, Repr

/-! ### The tile field (chapter 5) -/

/-- What a waiting stream waits for (R115). -/
inductive StreamWait where
  | none
  /-- WAITSLOT: slot, and the lockage count at which it comes. -/
  | slot (slot : Nat) (lockage : Nat)
  /-- FENCE. -/
  | fence
  /-- WAITEV: event bit. -/
  | event (bit : Nat)
  /-- A full send or receive engine (R103): the op at pc has not issued. -/
  | engine
  deriving DecidableEq, Repr

/-- One stream (R103, TILES_STREAM0–3). -/
structure Stream where
  /-- Next op. -/
  pc : BitVec 12 := 0
  /-- 0 idle, 1 running, 2 waiting, 3 done, 4 halted by fault, 5 halted by expert. -/
  state : Nat := 0
  /-- Class of the last fault; 0 none. -/
  fault : BitVec 16 := 0
  /-- Ops issued, modulo 2^32. -/
  issued : W32 := 0
  wait : StreamWait := .none
  /-- Lockage in which the wait began (R125). -/
  waitSince : Nat := 0
  /-- Restart at the next step-start lockage (R125). -/
  policyRestart : Bool := false
  /-- Entry point; none for an idle stream (R119). -/
  entry : Option Nat := none
  /-- Index registers x1–x15 (x0 reads 0). -/
  x : Tab W32 := []
  /-- Stochastic-rounding seed S (R135). -/
  seed : Word := 0
  /-- Draw count n (R135). -/
  draws : W32 := 0
  deriving DecidableEq, Repr

/-- An outstanding op of the send engine (R103): SEND, MWR or SPILL. -/
structure SendOp where
  stream : Nat := 0
  /-- pc of the op. -/
  pc : Nat := 0
  /-- 0 SEND, 1 MWR, 2 SPILL, 3 MRD command, 4 FILL command. -/
  kind : Nat := 0
  basin : Nat := 0
  length : Nat := 0
  route : Nat := 0
  /-- Device address (MWR, SPILL, MRD, FILL). -/
  addr : Nat := 0
  /-- Response route of a read. -/
  response : Nat := 0
  /-- Barges already injected. -/
  sent : Nat := 0
  /-- Basin bytes of the transfer already read. -/
  read : Nat := 0
  /-- Packed bytes of the current group of 1,024 lane bytes, read and not yet injected (R158). -/
  packed : Bytes := []
  /-- Digest of the groups read so far (R163), and the sum of the group being read. -/
  digest : Word := 0
  part : Word := 0
  /-- REDUCE_LANE_RANGE has been posted for it (R160). -/
  ranged : Bool := false
  deriving DecidableEq, Repr

/-- An outstanding op of the receive engine (R103): RECV, MRD or FILL. -/
structure RecvOp where
  stream : Nat := 0
  pc : Nat := 0
  /-- 0 RECV, 1 MRD, 2 FILL. -/
  kind : Nat := 0
  basin : Nat := 0
  length : Nat := 0
  route : Nat := 0
  /-- Data barges taken. -/
  taken : Nat := 0
  /-- Basin bytes of the transfer already written. -/
  written : Nat := 0
  /-- Digest of the incoming lanes so far (R164), with the sum of the open group. -/
  dIn : Word := 0
  pIn : Word := 0
  /-- Digest of the old lanes so far. -/
  dOld : Word := 0
  pOld : Word := 0
  /-- Digest of the written lanes so far. -/
  dNew : Word := 0
  pNew : Word := 0
  /-- A poisoned barge has arrived (R162). -/
  poisoned : Bool := false
  /-- Bytes of a group of 1,024 lane bytes received and not yet unpacked (R158). -/
  partialBytes : Bytes := []
  deriving DecidableEq, Repr

/-- Data that a controller or channel holds for a response route (R176). -/
structure Held where
  route : Nat := 0
  inst : Nat := 0
  barges : List Barge := []
  /-- Slot count from which the first may be sent. -/
  ready : Nat := 0
  /-- Bytes 0–7 of the command (R199). -/
  addr : Nat := 0
  /-- The command's operation ID, which its error records carry (R175). -/
  operation : Word := 0
  /-- What tells equal reads of a unit apart. -/
  id : Nat := 0
  /-- At its command slot the response route had no slot: the data is discarded when it is ready (R176). -/
  slotless : Bool := false
  deriving DecidableEq, Repr

/-- A write command whose data barges still arrive (R175), or a rejected one whose data is discarded (R177). -/
structure OpenWrite where
  /-- Route the command and its data travel on. -/
  route : Nat := 0
  addr : Nat := 0
  length : Nat := 0
  inst : Nat := 0
  operation : Word := 0
  /-- Lock that sent it, if one did (R182). -/
  lock : Option Nat := none
  /-- Bodies of the data barges, in order. -/
  bytes : Bytes := []
  /-- Data barges that have arrived. -/
  count : Nat := 0
  /-- Data barges that arrived with kind 2, by index. -/
  poisoned : List Nat := []
  /-- The command was rejected: the data is discarded. -/
  rejected : Bool := false
  deriving DecidableEq, Repr

/-- One physical tile (R103). -/
structure Tile where
  /-- Logical tile it runs, as leader or partner. -/
  logical : Option Nat := none
  /-- This tile is a paired follower. -/
  follower : Bool := false
  /-- The other member of the pair. -/
  pair : Option Nat := none
  /-- Instance it works for. -/
  inst : Nat := 0
  /-- Held failed (R108). -/
  failed : Bool := false
  /-- A spare that still copies its image and zeroes its state (R108). -/
  starting : Bool := false
  spillBase : Nat := 0
  spillSize : Nat := 0
  /-- Streams 0–3. -/
  streams : Tab Stream := []
  /-- Vector registers: lane 256 × v + l. -/
  v : Tab W32 := []
  /-- Accumulator bytes: 65,536 × acc + b. -/
  acc : Tab Byte := []
  /-- Op store (R112). -/
  ops : Tab Word := []
  /-- What its positions without an entry hold: 0 before any load, all ones after one (R120, R129). -/
  opFill : Word := 0
  /-- Event word (R103). -/
  events : W32 := 0
  /-- Outstanding SEND, MWR and SPILL ops and read commands, oldest first. -/
  sends : List SendOp := []
  /-- Outstanding RECV, MRD and FILL ops, oldest first. -/
  recvs : List RecvOp := []
  /-- Landing buffer (R118), oldest first. -/
  landing : List Barge := []
  /-- Basin bytes (R109). -/
  basin : Tab Byte := []
  /-- Poisoned basin lines by line number (R110): 1 poisoned. -/
  poison : Tab Nat := []
  /-- Bit errors standing in an 8-byte basin word: 1 single, 2 double (R110); hardware state, no command sets it. -/
  basinErr : Tab Nat := []
  /-- Counters 0–7 of the tile's set (R412), modulo 2^32. -/
  counters : Tab W32 := []
  /-- Last fault (TILES_FAULT): class, stream (none: no stream), pc, opcode. -/
  lastFault : Option (BitVec 16 × Option Nat × Nat × Byte) := none
  /-- Corrected basin errors, saturating (TILES_ERR_COUNT). -/
  corrected : Nat := 0
  /-- TILE_CHECK records, saturating. -/
  checks : Nat := 0
  /-- TILE_POISON records, saturating. -/
  poisons : Nat := 0
  /-- Highest action demanded for the next lockage boundary: 3 FAIL_TILE, 4 FAIL_DEVICE (R127). -/
  actionDue : Nat := 0
  /-- Its own residue or parity checker has reported since the pair's last comparison (R126). -/
  reported : Bool := false
  /-- Tile cycles counted up to `cyclesAt` (uptime ns), where the clock last changed. -/
  cycles : Nat := 0
  cyclesAt : Nat := 0
  /-- Window writes whose data barges still arrive, one per route (R83). -/
  windowWrites : List OpenWrite := []
  /-- Window read data that waits for its response slots. -/
  windowReads : List Held := []
  /-- NaN count at the step-start lockage (R391 cause 3). -/
  nanAtStart : W32 := 0
  /-- Core debug holds the tile's streams (R333), and the stream it lets issue one op. -/
  debugHeld : Bool := false
  debugStep : Option Nat := none
  deriving DecidableEq, Repr

/-- Reduction counts (R171). -/
structure Reduce where
  digest : Nat := 0
  sumCheck : Nat := 0
  laneRange : Nat := 0
  last : Option ErrorRecord := none
  deriving DecidableEq, Repr

/-! ### Memory (chapter 8) -/

/-- A merge entry (R182). -/
structure MergeEntry where
  /-- Line index within the controller. -/
  line : Nat := 0
  /-- Bytes under the mask, by byte of the line. -/
  bytes : Tab Byte := []
  /-- Byte mask. -/
  mask : BitVec 64 := 0
  /-- Lock that sent it (none: another source), whose token it returns (R183). -/
  lock : Option Nat := none
  /-- The write arrived poisoned. -/
  poison : Bool := false
  /-- The operation ID of the command that wrote it (R175). -/
  operation : Word := 0
  deriving DecidableEq, Repr

/-- A correctable-error log entry (R184). -/
structure CeEntry where
  line : Nat := 0
  symbol : Nat := 0
  pattern : Byte := 0
  rep : Nat := 0
  time : Word := 0
  deriving DecidableEq, Repr

/-- A scrub in progress (R186). -/
structure Scrub where
  mode : Nat := 0
  /-- First and last unit of 8 KiB within the logical stack. -/
  first : Nat := 0
  last : Nat := 0
  next : Nat := 0
  lines : Nat := 0
  corrected : Nat := 0
  uncorrectable : Nat := 0
  poisoned : Nat := 0
  firstUe : Option Nat := none
  startLockage : Nat := 0
  /-- Sender of CMD_HBM_SCRUB and its sequence; none: expert. -/
  sender : Option (Nat × W32) := none
  deriving DecidableEq, Repr

/-- One HBM controller. -/
structure HbmCtl where
  /-- Logical stack served; none: unmapped (R172). -/
  logical : Option Nat := none
  failed : Bool := false
  hot : Bool := false
  ceCount : Nat := 0
  ueCount : Nat := 0
  poisonMerge : Nat := 0
  log : List CeEntry := []
  merge : List MergeEntry := []
  mergePeak : Nat := 0
  mergeHolds : Nat := 0
  scrub : Option Scrub := none
  /-- Next unit of the patrol (R186). -/
  patrol : Nat := 0
  /-- Last scrub summary, 64 bytes (R187). -/
  summary : Bytes := []
  /-- Corrected reads in the current whole second (R185). -/
  ceSecond : Nat := 0
  /-- HBM_CE_RATE already posted in this second. -/
  cePosted : Bool := false
  /-- The second of cluster time being counted. -/
  ceEpoch : Nat := 0
  /-- Uncorrectable lines of the last second: line and instant (R185). -/
  ueWindow : List (Nat × Nat) := []
  /-- Uptime at which the next refresh falls due (R190). -/
  refreshDue : Nat := 0
  /-- Read data waiting for its response slots (R176). -/
  held : List Held := []
  /-- Write commands whose data barges still arrive, one per input port and half. -/
  open_ : List OpenWrite := []
  /-- Last raw read's outcome and syndromes (HBM_TEST_CTRL). -/
  testOutcome : Nat := 0
  testSyndrome : W32 := 0
  deriving DecidableEq, Repr

/-- HBM as a whole. -/
structure Hbm where
  ctl : Tab HbmCtl := []
  /-- Check bytes: index 4 × (global line) + j; the global line is controller × 2^30 + line (R178). -/
  check : List Host.Cell := []
  /-- A stack has failed and the new map is not yet in force (R21). -/
  awaitingMap : Bool := false
  /-- The region reported is 448 GiB (R21). -/
  reducedMap : Bool := false
  /-- Engines' writes counted as waiting for merge tokens: lock and address (R183). -/
  waits : List (Nat × Nat) := []
  /-- Lines, by controller and line, that a scrub in mode 0 has found uncorrectable and left unpoisoned: detected already (R179). -/
  found : List (Nat × Nat) := []
  deriving DecidableEq, Repr

/-- One wharf channel (R174). -/
structure WharfCh where
  /-- 0 absent, 1 excluded at boot, 2 active, 3 failed. -/
  state : Nat := 0
  /-- DIMM capacity in GiB. -/
  capacity : Nat := 0
  ceCount : Nat := 0
  ueCount : Nat := 0
  /-- Last corrected line and DRAM device. -/
  ceLast : Option (Nat × Nat) := none
  ceSecond : Nat := 0
  cePosted : Bool := false
  ceEpoch : Nat := 0
  held : List Held := []
  open_ : List OpenWrite := []
  /-- Next byte offset of the patrol (R181). -/
  patrol : Nat := 0
  deriving DecidableEq, Repr

/-- The wharf. -/
structure Wharf where
  ch : Tab WharfCh := []
  /-- Transfer rate in MT/s that training reached (WHARF_CONFIG). -/
  rate : Nat := 0
  /-- Poisoned lines, by device address / 64: 1 poisoned (R181). -/
  poison : Tab Nat := []
  /-- DRAM devices in error in a line, by device address / 64: 1 + device for one device, 100 for two (R181); hardware state. -/
  err : Tab Nat := []
  deriving DecidableEq, Repr

/-- A reach (R193–R196). -/
structure Reach where
  inst : Nat := 0
  tokenSize : Nat := 0
  /-- log2 of the ring size. -/
  r : Nat := 0
  /-- Frame of KV_POOL where the ring begins, and of the fill and release lines. -/
  ring : Nat := 0
  fillLines : Nat := 0
  releaseLines : Nat := 0
  /-- Page directory in KV_TABLES. -/
  directory : Nat := 0
  /-- Leaves in KV_TABLES by directory index. -/
  leaves : Tab Nat := []
  /-- Pages released so far, as last read (R195). -/
  consumed : Nat := 0
  /-- Scheduled lockages counted at its last sweep, plus 1. -/
  sweptAt : Nat := 0
  /-- Page entries: state and frame (R194). -/
  pages : Tab (Nat × Nat) := []
  /-- Page held in ring slot j. -/
  slots : Tab Nat := []
  deriving DecidableEq, Repr

/-- Key/value paging. -/
structure Kv where
  reaches : Tab Reach := []
  /-- KV_POOL frames in use. -/
  poolUsed : List Nat := []
  /-- KV_WHARF frames in use. -/
  wharfUsed : List Nat := []
  /-- KV_TABLES space in use: base and size. -/
  tables : List (Nat × Nat) := []
  /-- The page whose home moves, and its frame of KV_WHARF: reach, page, frame (R197). -/
  moving : Option (Nat × Nat × Nat) := none
  /-- Released pages by order of release, oldest first: reach and page (R197). -/
  released : List (Nat × Nat) := []
  /-- KV_POOL use has reached the high weir and not yet fallen to the low one (R197). -/
  draining : Bool := false
  moves : Nat := 0
  deriving DecidableEq, Repr

/-! ### Host endpoints and instances (chapter 9) -/

/-- A window entry (R208), also of a root port's inbound table (R234): its 32 bytes as one number. -/
abbrev Window := BitVec 256

/-- An instance (R206, R212–R217). -/
structure Inst where
  /-- State of R214: 0 undeclared, 1 declared, 2 created, 3 resetting. -/
  state : Nat := 0
  homePf : Nat := 0
  /-- Generation (R217). -/
  gen : BitVec 16 := 0
  /-- Descriptor in force (R212). -/
  desc : Option InstDesc := none
  /-- Physical DMA channels taken, in doorbell order (R215). -/
  dma : List Nat := []
  /-- Physical storage queues taken. -/
  storage : List Nat := []
  /-- Physical send queues taken. -/
  tx : List Nat := []
  /-- Network queues taken (R262). -/
  egress : List Nat := []
  /-- VF windows 0–15 (R208); PF tables are in HostEp. -/
  windows : Tab Window := []
  /-- MSI-X vector table words by 4-byte index; PBA bits by vector. -/
  msixTable : Tab W32 := []
  msixPending : List Nat := []
  /-- MSI-X Enable and Function Mask of the function's capability. -/
  msixEnable : Bool := false
  msixMask : Bool := false
  /-- Bus Master Enable, Memory Space Enable of the function. -/
  bme : Bool := false
  mse : Bool := false
  /-- A physical function is in D3hot (R202). -/
  d3 : Bool := false
  /-- Uncorrectable and correctable error status of the function's AER capability (R202, R223). -/
  aerUnc : Nat := 0
  aerCor : Nat := 0
  /-- Completions discarded (R225): the status page's count, cleared by FLR. -/
  late : Nat := 0
  /-- Completions discarded since creation (HOSTEP_INST_COUNTS), not cleared by FLR. -/
  lateTotal : Nat := 0
  /-- Requests completed with Unsupported Request. -/
  ur : Nat := 0
  /-- Doorbell writes beyond the instance's doorbells (R206). -/
  badDoorbells : Nat := 0
  /-- An FLR is in progress (true) or a destruction (false) while state is 3. -/
  flr : Bool := false
  /-- Sender of CMD_INSTANCE_DESTROY. -/
  destroySender : Option (Nat × W32) := none
  deriving DecidableEq, Repr

/-- The work for which the device has issued a non-posted request (R223). -/
inductive TagUse where
  /-- Data of a DMA descriptor: channel, the descriptor's number among all taken, offset of the data in it. -/
  | data (ch work off : Nat)
  /-- The zero-length read before a DMA record (R243). -/
  | flush (ch work : Nat)
  /-- A DMA descriptor in a ring in host memory, with the number that the channel gave the read. -/
  | descriptor (ch work : Nat)
  /-- A capsule in a submission ring in host memory: the storage command it will be. -/
  | capsule (cmd : Nat)
  /-- Data of a WRITE capsule: storage command, and offset in the capsule's buffer. -/
  | pull (cmd off : Nat)
  deriving DecidableEq, Repr

/-- The configuration of a virtual function that stands for no instance here (R214): undeclared, or the other PF's. -/
structure DormantCfg where
  mse : Bool := false
  bme : Bool := false
  msixEnable : Bool := false
  msixMask : Bool := false
  aerUnc : Nat := 0
  aerCor : Nat := 0
  deriving DecidableEq, Repr

/-- A tag of a non-posted request that the device has issued (R223). -/
structure Tag where
  /-- Endpoint 0–1, or 2 + root port. -/
  port : Nat := 0
  tag : Nat := 0
  inst : Nat := 0
  gen : BitVec 16 := 0
  addr : Nat := 0
  length : Nat := 0
  /-- The work that waits for it. -/
  work : TagUse := .flush 0 0
  /-- Uptime at which it was issued. -/
  since : Nat := 0
  deriving DecidableEq, Repr

/-- One endpoint (HOSTEP_LINK0, HOSTEP_LINK1). -/
structure Endpoint where
  up : Bool := false
  speed : Nat := 0
  width : Nat := 0
  flit : Bool := false
  vfEnable : Bool := false
  numVfs : Nat := 0
  /-- PF window table (R208). -/
  windows : Tab Window := []
  /-- Max Payload Size in bytes (R202). -/
  mps : Nat := 128
  /-- Completion timeout in ns; 0 when it is disabled (R202). -/
  timeout : Nat := 50000000
  /-- ECRC generation and checking enabled (R202). -/
  ecrcGen : Bool := false
  ecrcCheck : Bool := false
  /-- Configuration of the virtual functions that stand for no instance, by VF number (R214). -/
  dormant : Tab DormantCfg := []
  deriving DecidableEq, Repr

/-- A CMD_WINDOW_SET that waits for the barges of the old entry (R211). -/
structure WindowWait where
  src : Nat := 0
  sequence : W32 := 0
  /-- Requests in chambers translated by the old entry, with the instance and the routes of their barges. -/
  ids : List Nat := []
  inst : Nat := 0
  routes : List Nat := []
  deriving DecidableEq, Repr

/-- A host read whose completions are still to be sent (R176, R221). -/
structure HostRead where
  /-- Request identity in its chamber. -/
  id : Nat := 0
  /-- Endpoint 0–1, or 2 + root port. -/
  port : Nat := 0
  tag : Nat := 0
  inst : Nat := 0
  addr : Nat := 0
  length : Nat := 0
  /-- Bytes already sent in completions, and those that have come from memory but stop short of a 64-byte boundary (R221). -/
  sent : Nat := 0
  held : Bytes := []
  heldPoison : Bool := false
  relaxed : Bool := false
  route : Nat := 0
  deriving DecidableEq, Repr

/-- The host endpoint block. -/
structure HostEp where
  ep : Tab Endpoint := []
  /-- Instances 0–1023. -/
  inst : Tab Inst := []
  tags : List Tag := []
  waits : List WindowWait := []
  reads : List HostRead := []
  /-- Physical resources free for instances: DMA channels, storage queues, send queues, network queues (R215). -/
  dmaTaken : List Nat := []
  storageTaken : List Nat := []
  txTaken : List Nat := []
  egressTaken : List Nat := []
  deriving DecidableEq, Repr

/-! ### Root ports and DMA (chapter 10) -/

/-- A root port (R232). -/
structure RootPort where
  up : Bool := false
  speed : Nat := 0
  width : Nat := 0
  flit : Bool := false
  ptm : Bool := false
  /-- Max Payload Size in bytes (R233). -/
  mps : Nat := 128
  /-- Inbound window table, 64 entries (R234). -/
  windows : Tab Window := []
  /-- Outbound ranges: base, size and instance (R235). -/
  ranges : Tab (Nat × Nat × Nat) := []
  /-- BARs that enumeration assigned in the upper space (R233). -/
  bars : Tab Nat := []
  /-- Bus mastering enabled below the port (R233). -/
  busMaster : Bool := false
  ur : Nat := 0
  timeouts : Nat := 0
  /-- ECRC generation and checking (R232). -/
  ecrcGen : Bool := true
  ecrcCheck : Bool := true
  /-- AER of the root port (R232): uncorrectable and correctable status, root error status, and the requester IDs of the first
  correctable and the first uncorrectable error message. -/
  aerUnc : Nat := 0
  aerCor : Nat := 0
  aerRoot : Nat := 0
  aerSource : Nat := 0
  deriving DecidableEq, Repr

/-- A DMA descriptor in progress (R237). -/
structure DmaWork where
  src : Nat := 0
  dst : Nat := 0
  length : Nat := 0
  srcSpace : Nat := 0
  dstSpace : Nat := 0
  irqHalf : Bool := false
  irqFull : Bool := false
  relaxed : Bool := false
  vector : Nat := 0
  cookie : Word := 0
  operation : Word := 0
  index : Nat := 0
  /-- The descriptor's number among all that the channels have taken: a completion for another one is discarded (R245, R247). -/
  number : Nat := 0
  /-- Bytes of the source asked for by PCI Express reads. -/
  asked : Nat := 0
  /-- Parts of the data written beyond the first gap: offset and length. -/
  parts : List (Nat × Nat) := []
  /-- Data that waits for its write: offset, bytes, poison (R388, R395, R397). -/
  waiting : List (Nat × Bytes × Bool) := []
  /-- Bytes written without a gap from the start. -/
  written : Nat := 0
  /-- Bytes visible at the destination. -/
  visible : Nat := 0
  /-- Bytes written in all, also beyond the first gap (R242), and how many of them a completed zero-length read has followed. -/
  total : Nat := 0
  covered : Nat := 0
  /-- A zero-length read is in flight (R243): what it makes visible, and the bytes written in all when it was issued. -/
  flushing : Option (Nat × Nat) := none
  /-- Status to report: 0 OK … 5 (R242). -/
  status : Nat := 0
  /-- Nothing more will be moved. -/
  ended : Bool := false
  /-- The kind-0 record has been written. -/
  halfDone : Bool := false
  deriving DecidableEq, Repr

/-- A DMA channel (R237, ACCDMA_CH_STATE). -/
structure DmaCh where
  /-- 0 unbound, 1 idle, 2 running, 3 stopped, 4 disabled. -/
  state : Nat := 0
  inst : Nat := 0
  ringSpace : Nat := 0
  ringBase : Nat := 0
  /-- log2 of the ring size; 0: no ring. -/
  n : Nat := 0
  complBase : Nat := 0
  head : Nat := 0
  tail : Nat := 0
  /-- Completion records written. -/
  records : Nat := 0
  descDone : W32 := 0
  /-- Bytes written since the channel was enabled; the register shows them in units of 4 KiB. -/
  bytes : Nat := 0
  work : Option DmaWork := none
  /-- Number of the read of a descriptor in host memory that is in flight, and what it has returned: bytes and poison; none where its
  completion timed out. -/
  fetching : Option Nat := none
  fetched : Option (Option (Bytes × Bool)) := none
  /-- A disable is in progress (R245). -/
  disabling : Bool := false
  /-- A stop under R246 is in progress. -/
  stopping : Bool := false
  deriving DecidableEq, Repr

/-- Ports and DMA. -/
structure AccDma where
  ports : Tab RootPort := []
  ch : Tab DmaCh := []
  /-- Number of the next descriptor to be taken or read. -/
  nextWork : Nat := 0
  deriving DecidableEq, Repr

/-! ### Network engine (chapter 11) -/

/-- A rule (R255): value, mask and action, 160 bytes. -/
abbrev Rule := Bytes

/-- A rule set of one half (R261). -/
structure RuleSet where
  /-- Extraction entries by profile × 16 + entry (R254). -/
  extract : Tab W32 := []
  /-- Rules by index 0–4,099; unlisted: EMPTY, or DROP for a default rule. -/
  rules : Tab Rule := []
  /-- Indirection tables: table × 256 + entry (R258). -/
  indir : Tab (BitVec 16) := []
  deriving DecidableEq, Repr

/-- Rule sets of one half (R261). -/
structure NetHalf where
  active : RuleSet := {}
  shadow : RuleSet := {}
  /-- Active version. -/
  version : BitVec 16 := 0
  /-- A commit is incomplete: its sender and sequence. -/
  commit : Option (Nat × W32) := none
  /-- Frames that wait for the parser: port, bytes and passes still to make; and the uptime up to which passes have been made (R259). -/
  parser : List (Nat × Nat × Nat) := []
  parsedAt : Nat := 0
  deriving DecidableEq, Repr

/-- A completion record not yet written (R287). -/
structure TxRecord where
  queue : Nat := 0
  cookie : Word := 0
  bytes : Nat := 0
  status : Nat := 0
  kind : Nat := 0
  timeNs : Word := 0
  timeFrac : BitVec 16 := 0
  deriving DecidableEq, Repr

/-- A frame in an egress queue. -/
structure EgressFrame where
  bytes : Bytes := []
  poison : Bool := false
  /-- The record of the raw-frame work request it came from (R286): written when its last member is true; the first Bool asks
  for the egress stamp (R252). -/
  request : Option (TxRecord × Bool × Bool) := none
  /-- Time it was queued (uptime ns). -/
  since : Nat := 0
  deriving DecidableEq, Repr

/-- A node's shaper (R266). -/
structure Shaper where
  rate : Nat := 0
  burst : Nat := 0
  credit : Int := 0
  /-- A new rate and burst stored for the next refill. -/
  due : Option (Nat × Nat) := none
  deriving DecidableEq, Repr

/-- A received frame delivered to a queue whose record is not yet written (R263). -/
structure RxPending where
  time : Word := 0
  frac : BitVec 16 := 0
  length : Nat := 0
  version : BitVec 16 := 0
  rule : Nat := 0
  hash : W32 := 0
  truncated : Bool := false
  recirculated : Bool := false
  /-- Entry of the ring whose buffer it has, counted without wrapping (R262). -/
  place : Nat := 0
  /-- Identity of the buffer's write in its chamber. -/
  id : Nat := 0
  deriving DecidableEq, Repr

/-- A network queue: an egress queue and a receive queue under one number (R262). -/
structure NetQueue where
  bound : Bool := false
  inst : Nat := 0
  port : Nat := 0
  n : Nat := 0
  bufSize : Nat := 0
  bufBase : Nat := 0
  recordBase : Nat := 0
  headWord : Nat := 0
  vector : Nat := 0
  weight : Nat := 0
  /-- Frames written since binding (R263). -/
  seq : Nat := 0
  /-- Head word as last read. -/
  head : Nat := 0
  /-- Scheduled lockages counted at that reading, plus 1 (R263). -/
  headRead : Nat := 0
  frames : List EgressFrame := []
  shaper : Shaper := {}
  /-- Start tag under its instance node (R264). -/
  s : Word := 0
  rx : List RxPending := []
  /-- Cost sent in the sample period, longest head wait, was shaped ineligible, held a frame (R268). -/
  sentPeriod : Nat := 0
  maxDelay : Nat := 0
  shapedOut : Bool := false
  heldFrame : Bool := false
  deriving DecidableEq, Repr

/-- An instance node of a port's tree (R264). -/
structure InstNode where
  s : Word := 0
  v : Word := 0
  shaper : Shaper := {}
  /-- cap[i] of flow-fair (R267). -/
  cap : Nat := 0
  /-- Weight in force, recomputed at a refill under flow-fair. -/
  weff : Nat := 0
  deriving DecidableEq, Repr

/-- An Ethernet port. -/
structure NetPort where
  up : Bool := false
  fecLock : Bool := false
  /-- Partner's PAUSE in force until this uptime (R251). -/
  pauseRx : Option Nat := none
  flowFair : Bool := false
  flowFairDue : Option Bool := none
  capsDue : List (Nat × Nat) := []
  rxDrops : Nat := 0
  fcsErrors : Nat := 0
  recircLimit : Nat := 0
  ruleDrops : Nat := 0
  /-- Port node's virtual time. -/
  v : Word := 0
  /-- Instance nodes by instance. -/
  nodes : Tab InstNode := []
  /-- Sample ring: base, log2 size, period, records written, periods (R268). -/
  sample : Option (Nat × Nat × Nat × Nat × Nat) := none
  /-- Lockage at which the current sample period ends. -/
  sampleDue : Nat := 0
  deriving DecidableEq, Repr

/-- The network engine. -/
structure Net where
  halves : Tab NetHalf := []
  ports : Tab NetPort := []
  queues : Tab NetQueue := []
  /-- Slots since the last refill (R266). -/
  refillSlot : Nat := 0
  deriving DecidableEq, Repr

/-! ### Transport (chapter 12) -/

/-- An operation in flight (R279). -/
structure TxOp where
  queue : Nat := 0
  /-- 1 WRITE, 2 READ; 3 the response to a peer's READ_REQ, which is no operation of this device. -/
  kind : Nat := 0
  conn : Nat := 0
  local_ : Nat := 0
  remote : Nat := 0
  key : W32 := 0
  length : Nat := 0
  cookie : Word := 0
  operation : Word := 0
  signal : Bool := false
  complete : Bool := false
  firstPsn : W32 := 0
  /-- Packets of the operation, and how many have been transmitted. -/
  packets : Nat := 0
  sent : Nat := 0
  /-- READ: op tag, bytes placed, and the last psn of the peer's direction that placed some. -/
  opTag : Nat := 0
  placed : Nat := 0
  lastPsn : W32 := 0
  /-- Status reached: none while it runs. -/
  status : Option Nat := none
  poison : Bool := false
  /-- Its record has been written. -/
  recorded : Bool := false
  deriving DecidableEq, Repr

/-- A connection (R278, R283). -/
structure Conn where
  state : Nat := 0
  inst : Nat := 0
  port : Nat := 0
  egress : Nat := 0
  localIp : BitVec 128 := 0
  peerIp : BitVec 128 := 0
  nextHop : BitVec 48 := 0
  vlan : Option (BitVec 16) := none
  tclass : Byte := 0
  flow : BitVec 20 := 0
  peer : BitVec 16 := 0
  epoch : BitVec 16 := 0
  mtu : Nat := 0
  lane : Option Nat := none
  sealCounter : Word := 0
  una : W32 := 0
  next : W32 := 0
  /-- psns above una that the peer has sacked. -/
  sacked : List W32 := []
  expected : W32 := 0
  /-- psns at or above expected that have been received (R283). -/
  received : List W32 := []
  /-- Packets since the last ACK was sent. -/
  unacked : Nat := 0
  /-- Cluster time at which a delayed ACK falls due; the timers of a connection count cluster time (R283). -/
  ackDue : Option Nat := none
  rtoMin : Nat := 0
  retryLimit : Nat := 0
  reorder : Nat := 0
  /-- Settings written to TRANSPORT_CONN_TIMER: rto_min in µs, retry_limit and reorder (R292). -/
  timerDue : Option (Nat × Nat × Nat) := none
  /-- Current rto in ns. -/
  rto : Nat := 0
  rtoDue : Option Nat := none
  misses : Nat := 0
  /-- Last retransmission of a psn (cluster time). -/
  resent : List (W32 × Nat) := []
  /-- Retransmissions waiting for a page: psn and instant (R285). -/
  pageRetry : List (W32 × Nat) := []
  /-- Times a psn has been answered with NAK code 2. -/
  nakCount : List (W32 × Nat) := []
  /-- Peer hold in force. -/
  hold : Bool := false
  /-- This receiver holds packets of the connection: its ACKs carry hold = 1. -/
  holding : Bool := false
  badHeader : Nat := 0
  stale : Nat := 0
  sealFail : Nat := 0
  windowDrops : Nat := 0
  /-- Signals that wait for psn order: psn and trigger counter. -/
  signals : List (W32 × Nat) := []
  /-- psn, op tag, device address, length and key of a READ_REQ that waits for earlier psns. -/
  readReqs : List (W32 × W32 × Nat × Nat × W32) := []
  /-- CLOSE has been sent (R278). -/
  closeSent : Bool := false
  deriving DecidableEq, Repr

/-- A mooring (R280). -/
structure Mooring where
  tag : BitVec 12 := 0
  registered : Bool := false
  inst : Nat := 0
  base : Nat := 0
  size : Nat := 0
  read : Bool := false
  write : Bool := false
  counter : Option Nat := none
  paged : Bool := false
  /-- 0 stall, 1 resend (R285). -/
  mode : Nat := 0
  /-- Present 64 KiB pages. -/
  present : List Nat := []
  /-- CMD_MOORING_DEREG waits for placements: sender and sequence. -/
  deregWait : Option (Nat × W32) := none
  deriving DecidableEq, Repr

/-- A packet held in a fault buffer (R285). -/
structure Stalled where
  conn : Nat := 0
  psn : W32 := 0
  key : W32 := 0
  offset : Nat := 0
  bytes : Bytes := []
  poison : Bool := false
  signal : Bool := false
  /-- A READ_REQ rather than a WRITE. -/
  isRead : Bool := false
  length : Nat := 0
  opTag : W32 := 0
  /-- Absent pages it waits for. -/
  pages : List Nat := []
  since : Nat := 0
  /-- false west, true east. -/
  half : Bool := false
  deriving DecidableEq, Repr

/-- A send queue (R286). -/
structure SendQ where
  bound : Bool := false
  inst : Nat := 0
  base : Nat := 0
  n : Nat := 0
  complBase : Nat := 0
  vector : Nat := 0
  head : Nat := 0
  tail : Nat := 0
  records : Nat := 0
  deriving DecidableEq, Repr

/-- A work request (R286), as read from its ring. -/
structure WorkReq where
  kind : Nat := 0
  flags : Nat := 0
  target : Nat := 0
  local_ : Nat := 0
  remote : Nat := 0
  key : W32 := 0
  length : Nat := 0
  cookie : Word := 0
  operation : Word := 0
  /-- A reserved byte or flag, or a field its kind does not use, is non-zero. -/
  bad : Bool := false
  deriving DecidableEq, Repr

/-- A tow in the tow store (R288). -/
structure Tow where
  counter : Nat := 0
  threshold : Nat := 0
  queue : Nat := 0
  reqs : List WorkReq := []
  deriving DecidableEq, Repr

/-- The transport. -/
structure Transport where
  conns : Tab Conn := []
  moorings : Tab Mooring := []
  /-- Trigger counters: owner instance and value (R279). -/
  counters : Tab (Nat × Nat) := []
  queues : Tab SendQ := []
  ops : List TxOp := []
  nextTag : Nat := 0
  /-- Received packets that wait for the transport of a half: half and frame (R257). -/
  inbox : List (Nat × Bytes) := []
  tows : List Tow := []
  /-- Requests of started tows and of queues that wait for a free operation. -/
  started : List (Nat × WorkReq) := []
  stalled : List Stalled := []
  records : List TxRecord := []
  deriving DecidableEq, Repr

/-! ### Ring links and time (chapter 13) -/

/-- One ring link (R298, R301). -/
structure RingLink where
  /-- 0 down, 1 training, 2 up, 3 failed, 4 bypassed. -/
  state : Nat := 0
  detoured : Bool := false
  missed : Nat := 0
  latency : Nat := 0
  peer : BitVec 20 := 0
  fecCorrected : Nat := 0
  crcCells : Nat := 0
  retrains : Nat := 0
  /-- Due time of the next heartbeat to receive (cluster ns). -/
  nextDue : Nat := 0
  /-- Due time of the next heartbeat to send. -/
  sendDue : Nat := 0
  /-- Receive stamp of the last heartbeat, and the one before two-way computation (R309). -/
  lastRx : Word := 0
  /-- Instant at which a heartbeat was last transmitted (R304). -/
  lastTx : Option Nat := none
  /-- Fraction of the last receive stamp (R309). -/
  lastRxFrac : W32 := 0
  /-- Cell latency that training measured, ns (R298); `latency` is the barge latency. -/
  cellLatency : Nat := 0
  /-- Lane asymmetry that training measured, ps: receive minus transmit (R309). -/
  asym : Int := 0
  deriving DecidableEq, Repr

/-- A bypass pair (R304): links k and k XOR 2. -/
structure BypassPair where
  /-- The hold is in force: the pair is open. -/
  open_ : Bool := false
  /-- The switches still move toward closed. -/
  closing : Bool := false
  /-- Closed by CMD_RING_BYPASS. -/
  commanded : Bool := false
  deriving DecidableEq, Repr

/-- The credit of the control-cell lanes (R300). -/
structure CellLane where
  /-- Credit left, by 8 × link + cell type; a partner grants 64 cells of each credit type. -/
  credits : Tab Nat := []
  /-- Cells that wait for credit, oldest first: link, type, the 64 bytes. -/
  held : List (Nat × Nat × Bytes) := []
  deriving DecidableEq, Repr

/-- Ring membership. -/
structure Ring where
  links : Tab RingLink := []
  pairs : Tab BypassPair := []
  memberPos : Nat := 0
  memberSize : Nat := 0
  trunkPos : Nat := 0
  trunkSize : Nat := 0
  /-- 0 single, 1 chain, 2 ring, 3 tree of rings. -/
  shape : Nat := 0
  root : Bool := false
  ready : Bool := false
  /-- Lowest ASSEMBLE ID forwarded on each ring (R306). -/
  lowest : Tab Nat := []
  /-- Assembled roster (R295). -/
  roster : List (BitVec 20) := []
  /-- Rings that are open: a chain, or folded by a detour (R293, R301). -/
  chains : List Nat := []
  /-- The complete roster that this device has taken, by ring (R306). -/
  taken : Tab (List (BitVec 20)) := []
  /-- The lowest ID of the group as far as this device knows it, and the root's position on the member ring (R294). -/
  lowId : Nat := 0
  rootAt : Nat := 0
  /-- Member rosters by trunk position, and trunk rosters by member position, as they reach the group root (R305 step 4). -/
  memberRosters : Tab (List (BitVec 20)) := []
  columns : Tab (List (BitVec 20)) := []
  /-- The members that have reported their timebase locked to the root (R305 step 5). -/
  lockedMembers : List Nat := []
  /-- The root has checked the roster (R295). -/
  rosterOk : Bool := false
  /-- Notices forwarded: ring, lower position, L (R301). -/
  noticed : List (Nat × Nat × Nat) := []
  /-- Detours armed: alternate index, failed link's ring and lower position, L (R301). -/
  armed : List (Nat × Nat × Nat × Nat) := []
  /-- Detours in force: ring. -/
  folded : List Nat := []
  /-- Broadcast lockage-0 time at which every member flips (R307). -/
  zeroTime : Option Word := none
  /-- Device handled as failed (R28). -/
  deviceFailed : Bool := false
  deriving DecidableEq, Repr

/-- The exchange at the PTP slave port (R310): stamps in 2^-32 ns. -/
structure PtpSlave where
  /-- The last Sync: its sequence number and receive stamp. -/
  sync : Option (Nat × Int) := none
  /-- The origin stamp that its Follow_Up gave. -/
  origin : Option Int := none
  /-- The last Delay_Req: its sequence number and transmit stamp. -/
  request : Option (Nat × Int) := none
  /-- The grandmaster's clockClass and the steps removed that the last Announce gave. -/
  clockClass : Nat := 248
  steps : Nat := 0
  deriving DecidableEq, Repr

/-- Cluster time (R308–R311). -/
structure TimeSt where
  /-- Nanoseconds. -/
  ns : Word := 0
  /-- Fraction, 2^-32 ns. -/
  frac : W32 := 0
  /-- Fraction latched by a read of RINGTIME_TIME_NS. -/
  latched : W32 := 0
  /-- 0 free run, 1 acquiring, 2 locked, 3 holdover. -/
  state : Nat := 0
  /-- 0 none, 1 PPS and 10 MHz, 2 PTP, 3 upstream link, 4 oscillator. -/
  source : Nat := 0
  upstream : Nat := 0
  hops : Nat := 0
  /-- Last offset in ps, signed. -/
  offset : Int := 0
  /-- Consecutive heartbeats within 2 ns (R309). -/
  good : Nat := 0
  /-- Transmit stamp of the last heartbeat sent toward upstream. -/
  lastTx : Word := 0
  lastTxFrac : W32 := 0
  /-- Correction still to be slewed in, in 2^-32 ns (R308). -/
  slew : Int := 0
  /-- The TAI second is known from PTP or CMD_TIME_SET (R308). -/
  secondKnown : Bool := false
  /-- PTP role, domain and transport of each port (R310). -/
  ptp : Tab (Nat × Nat × Nat) := []
  /-- A PTP slave port is receiving. -/
  ptpOk : Bool := false
  /-- PPS and 10 MHz inputs present. -/
  ppsOk : Bool := false
  /-- PPS output modes (RINGTIME_PPS_CTRL). -/
  pps : Tab Nat := []
  /-- Cluster time counts: it stands at 0 before the device has a time to count from (R308). -/
  counting : Bool := false
  /-- The timebase has locked since the last reset (R301, R236). -/
  locked : Bool := false
  /-- When each PPS output that is high rose, its cluster time in ns plus 1 (R311). -/
  ppsHigh : Tab Nat := []
  /-- PTP messages sent so far: the source of sequence numbers (R310). -/
  ptpSeq : Nat := 0
  slave : PtpSlave := {}
  deriving DecidableEq, Repr

/-! ### Storage (chapter 14) -/

/-- A storage queue (R314). -/
structure StorQ where
  /-- 0 unbound, 1 running, 2 stopped. -/
  state : Nat := 0
  inst : Nat := 0
  space : Nat := 0
  sqBase : Nat := 0
  cqBase : Nat := 0
  n : Nat := 0
  vector : Nat := 0
  head : Nat := 0
  tail : Nat := 0
  /-- Records written; the phase bit follows from it (R326). -/
  records : Nat := 0
  deriving DecidableEq, Repr

/-- A volume (R318). -/
structure Volume where
  bound : Bool := false
  inst : Nat := 0
  /-- 8–11 a drive, 16 + t remote target t. -/
  backend : Nat := 0
  nsid : Nat := 0
  first : Nat := 0
  count : Nat := 0
  deriving DecidableEq, Repr

/-- A fetched command (R317). -/
structure StorCmd where
  /-- Fetch order. -/
  id : Nat := 0
  queue : Nat := 0
  inst : Nat := 0
  opcode : Nat := 0
  fua : Bool := false
  space : Nat := 0
  volume : Nat := 0
  lba : Nat := 0
  blocks : Nat := 0
  buffer : Nat := 0
  cookie : Word := 0
  operation : Word := 0
  /-- 0 fetched, 9 being read from host memory, 1 waits for a lock, 2 lock held, 3 data moving, 4 buffered and to be durable before it completes, 5 at the
  back-end, 6 done, 7 waits for buffer space, 8 abandoned (R327). -/
  phase : Nat := 0
  /-- Holds a range lock. -/
  locked : Bool := false
  /-- Write-buffer reservation in bytes, and its device address. -/
  reserved : Nat := 0
  addr : Nat := 0
  /-- Segments pulled. -/
  pulled : Nat := 0
  /-- Half of the engine that pulls the current segment, bytes of it asked for through a port, and what has come back: offset in the
  buffer, bytes and poison (R320). -/
  half : Nat := 0
  asked : Nat := 0
  parts : List (Nat × Bytes × Bool) := []
  /-- Place in the order in which the locks were received (R320). -/
  grant : Nat := 0
  /-- Buffered writes that a FLUSH covers (R321). -/
  covers : List Nat := []
  poison : Bool := false
  /-- Bytes moved so far (R326). -/
  bytes : Nat := 0
  status : Nat := 0
  /-- Place in the order of completions, once done (R326). -/
  ended : Nat := 0
  sqHead : Nat := 0
  deriving DecidableEq, Repr

/-- A buffered write (R320, R322). -/
structure Buffered where
  id : Nat := 0
  volume : Nat := 0
  lba : Nat := 0
  blocks : Nat := 0
  /-- Device address in the WRITE_BUFFER region. -/
  addr : Nat := 0
  /-- A destage write is at the back-end. -/
  destaging : Bool := false
  /-- The command still waits for durability (fua). -/
  fuaCmd : Option Nat := none
  deriving DecidableEq, Repr

/-- A drive. -/
structure Drive where
  /-- 0 absent, 1 active, 2 failed. -/
  state : Nat := 0
  idle : Nat := 0
  exitLatency : Nat := 0
  /-- Timers: idle1 in µs, idle2 in units of 62.5 µs (STORAGE_IDLE_CTRL). -/
  idle1 : Nat := 1000
  idle2 : Nat := 1600
  /-- Last back-end command (uptime ns). -/
  lastCmd : Nat := 0
  /-- Namespaces that Identify has shown to be formatted with 4,096-byte LBAs and no metadata (R323). -/
  namespaces : List Nat := []
  deriving DecidableEq, Repr

/-- A remote target (R324). -/
structure Remote where
  ip : BitVec 128 := 0
  tcpPort : Nat := 0
  subNqn : Bytes := []
  hostNqn : Bytes := []
  port : Nat := 0
  egress : Nat := 0
  conns : Nat := 0
  deriving DecidableEq, Repr

/-- A command at a back-end (R323, R324). -/
structure BackCmd where
  tag : Nat := 0
  /-- 8–11 a drive, 16 + t remote target t. -/
  target : Nat := 0
  /-- 0 read, 1 write, 2 flush, 3 deallocate. -/
  op : Nat := 0
  /-- The storage command it serves, or the buffered write that it destages. -/
  cmd : Option Nat := none
  buffered : Option Nat := none
  /-- Offset in blocks from the command's first, and count. -/
  first : Nat := 0
  blocks : Nat := 0
  /-- Instant it was sent (uptime ns), and the queue pair or connection that carries it. -/
  since : Nat := 0
  conn : Nat := 0
  /-- The write is to be durable at its completion (R321). -/
  fua : Bool := false
  /-- Not sent yet, because its queue is full: namespace, block and data. -/
  waiting : Option (Nat × Nat × Bytes) := none
  deriving DecidableEq, Repr

/-- The storage service. -/
structure Storage where
  queues : Tab StorQ := []
  volumes : Tab Volume := []
  cmds : List StorCmd := []
  buffer : List Buffered := []
  drives : Tab Drive := []
  remotes : Tab Remote := []
  /-- Next fetch order, lock order and back-end tag. -/
  nextId : Nat := 0
  nextGrant : Nat := 0
  nextTag : Nat := 0
  /-- Next place in the order of completions. -/
  nextEnd : Nat := 0
  /-- Commands at the back-ends. -/
  back : List BackCmd := []
  /-- The queue last fetched of each instance (R317). -/
  last : Tab Nat := []
  /-- Fetch order's virtual time and start tags (R317, R87). -/
  v : Word := 0
  s : Tab Word := []
  rangeWaits : Nat := 0
  trWaits : Nat := 0
  deriving DecidableEq, Repr

/-! ### Security (chapter 15) -/

/-- A key slot (R337). -/
structure KeySlot where
  key : BitVec 256 := 0
  identity : Word := 0
  /-- 0 empty, 1 IMAGE, 2 MANIFEST, 3 WRAP, 4 SEALER. -/
  use : Nat := 0
  /-- 0 empty, 1 fused, 2 loaded. -/
  origin : Nat := 0
  /-- Instance, or 0xFFFF. -/
  inst : Nat := 0
  deriving DecidableEq, Repr

/-- A sealer lane (R339). -/
structure Lane where
  mode : Nat := 0
  user : Nat := 0
  keySlot : Nat := 0
  inst : Nat := 0
  busy : Bool := false
  parity : Nat := 0
  jobs : Nat := 0
  /-- Blocks since the last reseed of its generator (R342). -/
  blocks : Nat := 0
  /-- The unit must reload its key before its next job (R343). -/
  reload : Bool := false
  /-- Last job's result: status 1 OK, 2 AUTH_FAIL, 6 PARITY, and output bytes. -/
  result : Nat × Bytes := (0, [])
  deriving DecidableEq, Repr

/-- A request held for the DRBG (R344). -/
structure EntropyReq where
  src : Nat := 0
  sequence : W32 := 0
  /-- 0 CMD_RNG_READ, 1 CMD_SEC_CHALLENGE, 2 CMD_EXPERT_CHALLENGE. -/
  kind : Nat := 0
  /-- Length, command code or block code. -/
  arg : Nat := 0
  since : Nat := 0
  deriving DecidableEq, Repr

/-- What guards the device: lifecycle, debug level, keys and the fuse counter. Few commands write it, and it stands beside
the rest of the device in State so that the others cannot. -/
structure Vault where
  /-- Lifecycle (R331): 0 BLANK, 1 PROVISIONED, 2 OWNED, 3 RMA, 4 SCRAPPED. -/
  lifecycle : Nat := 0
  /-- Debug level 0–3 (R332). -/
  debug : Nat := 0
  /-- Key slots 0–255 (R337). -/
  keys : Tab KeySlot := []
  /-- Owner slots sealed in the ledger's key area (R337, R363). -/
  keyCopy : Tab KeySlot := []
  /-- Fuse counter of the minimum image version (R335). -/
  minVersion : Nat := 0
  deriving DecidableEq, Repr

/-- The security core's lanes, entropy and shared engine. -/
structure Sec where
  lanes : Tab Lane := []
  /-- RNG state (SECURITY_RNG): 0 start-up, 1 healthy, 2 retesting, 3 latched. -/
  rng : Nat := 0
  consecutive : Nat := 0
  failures : Nat := 0
  reseeds : BitVec 16 := 0
  held : List EntropyReq := []
  /-- Requests served since the last reseed, and its instant (R345). -/
  requests : Nat := 0
  reseedAt : Nat := 0
  /-- The start-up test that runs ends at this uptime. -/
  testDue : Nat := 0
  /-- Shared engine: owner's requester code, claims waiting with their instants (R347). -/
  owner : Nat := 0
  claims : List (Nat × Nat) := []
  /-- CMD_SHARED_JOB commands that wait or run: requester, descriptor, source and sequence. -/
  jobs : List (Nat × Nat × Nat × W32) := []
  /-- Descriptor address (SECURITY_SHARED_JOB). -/
  jobAddr : Nat := 0
  jobGo : Bool := false
  sharedParity : Nat := 0
  sharedReload : Bool := false
  sharedBlocks : Nat := 0
  deriving DecidableEq, Repr

/-! ### Control complex (chapter 16, 17) -/

/-- A data block of the ledger (R363): what its header says, and its valid pages. -/
structure LedgerBlock where
  /-- Logical block its header names. -/
  logical : Nat := 0
  /-- Write sequence number. -/
  seq : Nat := 0
  valid : Nat := 0
  deriving DecidableEq, Repr

/-- The ledger (R363–R365). -/
structure Ledger where
  /-- 0 unmounted, 1 mounting, 2 mounted, 3 read-only. -/
  state : Nat := 0
  spares : Nat := 0
  /-- Uptime at which the mount began. -/
  mountSince : Nat := 0
  mountMs : Nat := 0
  repairs : Nat := 0
  /-- Error records written to the data log, oldest first. -/
  log : List ErrorRecord := []
  /-- Records written to the data log since the ledger was new, those overwritten since included (R363). -/
  logged : Nat := 0
  /-- Records posted before the data log is mounted, which it takes then. -/
  early : List ErrorRecord := []
  /-- Unlock and lifecycle records: kind, argument, uptime. -/
  security : List (Nat × Nat × Nat) := []
  /-- Written data blocks by block number. -/
  blocks : Tab LedgerBlock := []
  /-- Map: block, plus 1, that holds each logical block. -/
  map : Tab Nat := []
  /-- Blocks that wait for their erase. -/
  eraseQueue : List Nat := []
  /-- Blocks worn out (R364). -/
  retired : List Nat := []
  /-- Next write sequence number. -/
  nextSeq : Nat := 0
  /-- The sequence numbers of the two copies of the key area (R363). -/
  keySeq : Tab Nat := []
  /-- The stewardship epoch in the key area (R361). -/
  epoch : W32 := 0
  /-- Towpath counter last accepted (R366). -/
  towCounter : Word := 0
  /-- Highest manifest serial for each key slot, as the key area holds it (R35). -/
  serials : Tab Word := []
  /-- Highest extension serial for each key slot (R384). -/
  extSerials : Tab Word := []
  deriving DecidableEq, Repr

/-- A firmware core's control state (CONTROL_CORE_STATE). -/
structure CoreCtl where
  /-- 0 off, 1 running, 2 restarting, 3 failed, 4 halted by debug. -/
  state : Nat := 0
  /-- Instants of watchdog expiries within the last 60 s. -/
  expiries : List Nat := []
  restarts : Nat := 0
  /-- Duration of the last restart, µs. -/
  lastRestart : Nat := 0
  /-- Start of the restart in progress. -/
  since : Nat := 0
  /-- Uptime from which the watchdog counts: the core's start, later by as long as core debug has held the core (R354). -/
  wdFrom : Nat := 0
  /-- Uptime at which core debug halted the core. -/
  haltedAt : Nat := 0
  /-- Watchdog period in ms. -/
  period : Nat := 0
  /-- Tile records that wait for the core's return (R127). -/
  waiting : List ErrorRecord := []
  deriving DecidableEq, Repr

/-- The control complex. -/
structure Control where
  cores : Tab CoreCtl := []
  /-- Steward: false west, true east (R361). -/
  steward : Bool := false
  epoch : W32 := 0
  followerUp : Bool := false
  linkFailed : Bool := false
  /-- Consecutive control-link heartbeats missed (R362). -/
  linkMissed : Nat := 0
  /-- The claims made: half and epoch. -/
  claims : List (Bool × W32) := []
  /-- The east half has stopped driving endpoint 1 and links 2 and 3. -/
  eastStopped : Bool := false
  /-- I3C frame bytes being assembled are in frame 1025. UART receive FIFO. -/
  uartFifo : Bytes := []
  baud : Nat := 0
  frameErrors : Nat := 0
  uartOverruns : Nat := 0
  deriving DecidableEq, Repr

/-- A Volilnos core (R370). -/
structure Core where
  /-- General registers g0–g15. -/
  g : Tab Word := []
  pc : BitVec 48 := 0
  /-- FL: bit 0 C, 1 V, 2 Z, 3 N, 4 I, 5 T. -/
  fl : Word := 0
  epc : BitVec 48 := 0
  efl : Word := 0
  cause : Word := 0
  badaddr : BitVec 48 := 0
  vbase : BitVec 48 := 0
  cycle : Word := 0
  retired : Word := 0
  wrongpath : Word := 0
  timecmp : Word := 0
  /-- Counters 3–7 of the core's set (R412). -/
  counters : Tab W32 := []
  /-- Interrupt lines pending (R379). -/
  lines : List Nat := []
  /-- In WAIT (R376). -/
  waiting : Bool := false
  /-- Code memory, by offset (R351, R378). -/
  code : Tab Byte := []
  /-- Data memory, by offset. -/
  data : Tab Byte := []
  /-- Code words (8 bytes) with an uncorrectable error; hardware state. -/
  codeErr : Tab Nat := []
  /-- Data words with an uncorrectable error; hardware state. -/
  dataErr : Tab Nat := []
  /-- Extension store: body bytes by entry (R383). -/
  ext : Tab Bytes := []
  /-- 512-entry table of 2-bit counters (R382). -/
  predict : Tab (BitVec 2) := []
  /-- 8-entry return stack, newest first. -/
  rstack : List (BitVec 48) := []
  /-- Core debug lets the held core execute one instruction (R333). -/
  debugStep : Bool := false
  deriving DecidableEq, Repr

/-! ### Reliability (chapter 18) -/

/-- A coalescing entry (R403). -/
structure CoalEntry where
  identity : Word := 0
  cls : BitVec 16 := 0
  unit : W32 := 0
  count : Nat := 0
  /-- Count at forwarding; none before. -/
  forwarded : Option Nat := none
  since : Nat := 0
  record : ErrorRecord := {}
  deriving DecidableEq, Repr

/-- Reliability and checkpoint. -/
structure Rel where
  /-- Last committed step (R389). -/
  step : Nat := 0
  attempt : Nat := 0
  /-- 0 no step structure, 1 running, 2 verdict, 3 replay, 4 fill, 5 held. -/
  phase : Nat := 0
  /-- Own word byte 8: suspect, ready, delta_done, replay (R390). -/
  suspect : Bool := false
  ready : Bool := false
  deltaDone : Bool := false
  replay : Bool := false
  /-- REL_SUSPECT posted for this step. -/
  posted : Bool := false
  /-- Group word: step, byte 8, members. -/
  groupStep : Nat := 0
  groupBits : Nat := 0
  groupMembers : Nat := 0
  /-- Group word is complete (R390). -/
  groupComplete : Bool := false
  /-- The group word has shown delta_done since the last commit (R404). -/
  deltaSeen : Bool := false
  /-- A replay has been ordered for step-start + replay_offset. -/
  replayDue : Bool := false
  /-- A commit takes place at the next boundary. -/
  commitDue : Bool := false
  /-- Discards of the current step. -/
  discards : Nat := 0
  /-- Committed bits by chunk: 0 base, 1 twin (R387). -/
  committed : Tab Nat := []
  /-- Dirty chunks. -/
  dirty : List Nat := []
  /-- Chunks whose fill has been done this step. -/
  filled : List Nat := []
  /-- Fills in progress: chunk. -/
  filling : List Nat := []
  /-- Chunks that the last commit flipped (R394). -/
  lastFlip : List Nat := []
  /-- NaN limit in force (R391). -/
  nanLimit : Nat := 0
  /-- Chunks of the delta still to send; header not yet sent for the first. -/
  deltaOut : List Nat := []
  /-- Barges of its first chunk already sent, the header included. -/
  deltaSent : Nat := 0
  /-- A delta is being sent: its end barge has still to go; its chunks; it is the buddy copy, for the taker (R405). -/
  deltaActive : Bool := false
  deltaCount : Nat := 0
  deltaBuddy : Bool := false
  /-- Buddy copy of the sender (R393): committed bits by chunk. -/
  buddyCommitted : Tab Nat := []
  /-- Chunks of the arriving delta that have come, its step, whether it is open and whether all that came was good. -/
  buddyPending : List Nat := []
  buddyStep : Nat := 0
  buddyOpen : Bool := false
  buddyGood : Bool := false
  /-- Step of the last delta applied, and its chunks (R404). -/
  buddyApplied : Option Nat := none
  buddyLast : List Nat := []
  /-- The buddy copy holds T or later. -/
  buddySeeded : Bool := false
  /-- Checkpoint: state 0 idle, 1 streaming, 2 flushing, 3 sealing. -/
  ckptState : Nat := 0
  ckptNow : Bool := false
  ckptSlot : Nat := 0
  ckptStep : Nat := 0
  /-- Checkpoints begun (R399). -/
  ckptCount : Nat := 0
  /-- Stripes of the checkpoint. -/
  ckptStripes : Nat := 0
  /-- Snapshot chunks not yet written. -/
  snapshot : List Nat := []
  /-- Committed bits of the snapshot. -/
  snapBits : Tab Nat := []
  /-- Chunks copied early into CKPT_STAGING, with staging frame. -/
  staged : List (Nat × Nat) := []
  /-- Next stripe. -/
  stripe : Nat := 0
  cbwHolds : Nat := 0
  cbwOverruns : Nat := 0
  deltaHolds : Nat := 0
  fills : Nat := 0
  /-- Coalescing table. -/
  coal : List CoalEntry := []
  suppressed : Nat := 0
  overflows : Nat := 0
  /-- Group flips since lockage 0 (R402). -/
  groupEpoch : Nat := 0
  deriving DecidableEq, Repr

/-! ### Observability (chapter 19) -/

/-- The trace and sampling unit. -/
structure Observe where
  mode : Nat := 0
  /-- Sources: bit 0 counter records, bit 1 samples, bit 2 error records. -/
  sources : Nat := 0
  next : Nat := 0
  wraps : W32 := 0
  lost : Nat := 0
  stopped : Bool := false
  period : Nat := 0
  clusters : BitVec 16 := 0
  coreMask : BitVec 19 := 0
  /-- The debug-level letter O is available (R419, OBSERVE_STATUS.visible): kept in step with the vault. -/
  visible : Bool := false
  /-- Records in the trace unit's buffer, oldest first (R418). -/
  buffer : List Bytes := []
  /-- The scheduled lockage, plus 1, whose samples have been formed (R415). -/
  sampledAt : Nat := 0
  deriving DecidableEq, Repr

end Sys2Proof.Machine
end

