-- ==== Sys2Proof/Machine/Bits.lean ====
section
/-! DEFINITION. Bit fields, little- and big-endian numbers (R4), saturation and the CRCs of R31 and R258. -/

namespace Sys2Proof.Machine

/-- Bits hi:lo of a number. -/
def bits (w hi lo : Nat) : Nat := (w >>> lo) % 2 ^ (hi + 1 - lo)

/-- Bit i of a number. -/
def bit (w i : Nat) : Bool := decide (bits w i i = 1)

/-- A Bool as 0 or 1. -/
def b2n (b : Bool) : Nat := if b then 1 else 0

/-- A number at bit position `lo`. -/
def at_ (lo v : Nat) : Nat := v <<< lo

/-- Add `by_` to a counter that saturates at `max`. -/
def satAdd (max c by_ : Nat) : Nat := min max (c + by_)

/-- Little-endian number of a byte string (R4). -/
def leNat : Bytes → Nat
  | [] => 0
  | b :: bs => b.toNat + 256 * leNat bs

/-- Big-endian number of a byte string (R4, network headers). -/
def beNat (bs : Bytes) : Nat := leNat bs.reverse

/-- `n` little-endian bytes of a number. -/
def leBytes : Nat → Nat → Bytes
  | 0, _ => []
  | n + 1, v => BitVec.ofNat 8 v :: leBytes n (v / 256)

/-- `n` big-endian bytes of a number. -/
def beBytes (n v : Nat) : Bytes := (leBytes n v).reverse

/-- Bytes `o` to `o + n - 1` of a byte string, zeros past its end. -/
def slice (bs : Bytes) (o n : Nat) : Bytes :=
  let t := (bs.drop o).take n
  t ++ List.replicate (n - t.length) 0

/-- Little-endian field at offset `o` of `n` bytes. -/
def fieldLe (bs : Bytes) (o n : Nat) : Nat := leNat (slice bs o n)

/-- Every byte of the span is zero. -/
def zeros (bs : Bytes) (o n : Nat) : Bool := (slice bs o n).all fun b => b == 0

/-- Pad or cut to `n` bytes. -/
def fit (n : Nat) (bs : Bytes) : Bytes := slice bs 0 n

/-- Sign-extend the low `n` bits of a number to an integer. -/
def sext (n v : Nat) : Int := let w := v % 2 ^ n; if w < 2 ^ (n - 1) then (w : Int) else (w : Int) - (2 ^ n : Nat)

/-- One reflected CRC step on a bit. -/
def crcBit (poly : W32) (c : W32) : W32 := if c.getLsbD 0 then (c >>> 1) ^^^ poly else c >>> 1

/-- One reflected CRC step on a byte. -/
def crcByte (poly : W32) (c : W32) (b : Byte) : W32 :=
  let c := c ^^^ b.setWidth 32
  let c := crcBit poly (crcBit poly (crcBit poly (crcBit poly c)))
  crcBit poly (crcBit poly (crcBit poly (crcBit poly c)))

/-- CRC-32 of R31: polynomial 0x04C1_1DB7 reflected, initial value and final XOR 0xFFFF_FFFF. -/
def crc32 (bs : Bytes) : W32 := bs.foldl (crcByte 0xEDB88320#32) 0xFFFFFFFF#32 ^^^ 0xFFFFFFFF#32

/-- CRC-32C of R258: polynomial 0x1EDC_6F41 reflected, the given start, final XOR 0xFFFF_FFFF. -/
def crc32c (seed : W32) (bs : Bytes) : W32 := bs.foldl (crcByte 0x82F63B78#32) seed ^^^ 0xFFFFFFFF#32

end Sys2Proof.Machine
end

