-- ==== Sys2Proof/Config.lean ====
section
/-! DEFINITION. What the manual leaves open: opaque constants without a body, so that no proof can see a value of
them. Each is named in an assumption log entry (notes/assumptions). -/

namespace Sys2Proof.Config

/-- A byte of the noise source or of the DRBG (R344, R345), by the model's draw counter `State.fresh`. Log entry 3. -/
opaque drbgByte : Nat → Byte

/-- Number of 32-byte blocks discarded after a misprediction (R382 does not fix how many of the 32 bytes ahead had
been fetched), by the model's draw counter. Log entry 4. -/
opaque wrongPathBlocks : Nat → Word

/-- Cycles beyond the first that a core's WAIT, FENCE or access outside its own memories takes (R370: CYCLE counts them, and no
rule says how many), by the model's draw counter. Log entry 94. -/
opaque coreCycles : Nat → W32

/-- A byte that a destination range holds after a DMA channel was disabled in the middle of a descriptor (R245: the
range holds undefined bytes), by the model's draw counter. Log entry 5. -/
opaque dmaUndefinedByte : Nat → Byte

/-- A count or head that R245 calls undefined while a channel is disabled, by the model's draw counter. Log entry 5. -/
opaque dmaUndefinedCount : Nat → W32

/-- The cookie of a completion record for a descriptor or capsule that was never read, because the read of it failed (R242, R326), by the
model's draw counter. Log entry 141. -/
opaque unreadCookie : Nat → Word

/-- Entry e of the inbound window table of the NVMe port 8 + n, which the storage service writes itself (R234); the manual does not say
what it writes there. Log entry 141. -/
opaque nvmeWindow : Nat → Nat → BitVec 256

/-- Fuse values (R24): the stepping, the tiles recorded failed at manufacture, the Device Serial Number. Log entry 7. -/
opaque stepping : BitVec 8
opaque tileFuse : Nat → Bool
opaque deviceSerial : Word

/-- The fused keys of slots 0–2 with their identities (R337), and the lifecycle fuses. Log entry 7. -/
opaque fusedKey : Nat → BitVec 256
opaque fusedIdentity : Nat → Word

/-- Whether the ROM self-test of stage 1 passes on this part (R335, R361). Log entry 8. -/
opaque romSelfTest : Bool

/-- The source MAC address of Ethernet port p, which the manual does not give. Log entry 37. -/
opaque portMac : Nat → BitVec 48

/-- The PTP clock identity of the device, and the clockClass that it announces in a state for which R310 names none. Log entry 137. -/
opaque clockIdentity : Word
opaque clockClass : Nat → BitVec 8

/-- EXLAT of the lowest non-operational power state of the drive at NVMe port 8 + n, in µs (R325). Log entry 53. -/
opaque driveExit : Nat → BitVec 31

/-- Whether Precision Time Measurement is enabled below root port p once its device has been enumerated (R236, ACCDMA_PORT_LINK);
the manual does not say what the device there offers. Log entry 128. -/
opaque ptmBelow : Nat → Bool

/-- The dword at an offset of a function's configuration space (endpoint, function number, offset), where the manual leaves
the layout to PCI Express (R202, R214). Log entry 35. -/
opaque configDword : Nat → Nat → Nat → W32

/-- The head word of a PF's event ring as the device reads it in host memory when it finds the ring full (R360), by the model's
draw counter. Log entry 75. -/
opaque eventHead : Nat → Nat

/-- Which of the stall codes that only timing decides a running stream (0–3) or a running core (16, 18, 19, 20) reports in a sample
(R416), and the code of a core that is off or has failed, which R416 does not give, by the model's draw counter. Log entry 92. -/
opaque streamStall : Nat → Fin 4
opaque coreStall : Nat → Fin 4
opaque deadCoreStall : Nat → Byte

/-- Whether the 10 MHz input runs at an edge of the PPS input (R308), by the model's draw counter. Log entry 147. -/
opaque tenMhz : Nat → Bool

/-- BADADDR after a trap that no access caused (R381 defines it for access traps alone), by the model's draw counter. Log entry 93. -/
opaque badAddr : Nat → BitVec 48

end Sys2Proof.Config
end

