-- ==== Sys2Proof/Machine/State.lean ====
section
/-! DEFINITION. The device's state as plain data: every register, table, queue, buffer, counter and mode the manual names,
and the queue of the commands that wait. How a command changes it is said elsewhere; the state right after reset is here. -/

namespace Sys2Proof.Machine

/-- A command that waits while the core that serves it restarts (R353). -/
inductive HeldCmd where
  | cmdSecStatus (c : Cmd)
  | cmdSecChallenge (c : Cmd) (code : Nat)
  | cmdSecDebugSet (c : Cmd) (level : Nat) (tag : Bytes)
  | cmdSecLifecycle (c : Cmd) (target : Nat) (tag : Bytes)
  | cmdSecVersionCommit (c : Cmd) (tag : Bytes)
  | cmdKeyLoad (c : Cmd) (target wrapping space address : Nat) (fetched : Bytes)
  | cmdRngRead (c : Cmd) (length : Nat)
  | cmdExpertChallenge (c : Cmd) (block : Nat)
  | stewardshipClaim (east : Bool) (epoch : W32)
  | broadcast (link : Fin 4) (origin : BitVec 20) (hops : Nat) (b : Bcast)
  | cmdTileStatus (c : Cmd) (tile : Nat)
  | cmdTileRestart (c : Cmd) (logical mask : Nat)
  | cmdTileReadOps (c : Cmd) (logical first count : Nat)
  | cmdPowerStatus (c : Cmd)
  | cmdPowerCapSet (c : Cmd) (watts : Nat)
  | cmdResetWarm (c : Cmd)
  | cmdClockStatus (c : Cmd) (domain : Nat)
  deriving DecidableEq, Repr

/-- Everything of the device but the vault. -/
structure Dev where
  /-- Nanoseconds counted by the always-on domain (R429). The device's own timers are instants of it. -/
  uptime : Nat := 0
  /-- The stored words of registers with RW, RWX, W1C or write-held fields, by register-space offset (R6, R22). -/
  csr : Tab Word := []
  power : Power := {}
  boot : Boot := {}
  manifest : ManifestSt := {}
  expert : Expert := {}
  mailbox : Mailbox := {}
  canal : Canal := {}
  locks : Locks := {}
  /-- Physical tiles 0–527 (R17). -/
  tiles : Tab Tile := []
  reduce : Reduce := {}
  /-- Data bytes of HBM and wharf: HBM by controller × 2^36 + offset within the stack, wharf by device address (R18, R172,
  R174). An address not listed reads 0 (log entry 10). -/
  mem : List Host.Cell := []
  hbm : Hbm := {}
  wharf : Wharf := {}
  kv : Kv := {}
  host : HostEp := {}
  acc : AccDma := {}
  net : Net := {}
  tp : Transport := {}
  ring : Ring := {}
  cells : CellLane := {}
  time : TimeSt := {}
  storage : Storage := {}
  sec : Sec := {}
  ctrl : Control := {}
  /-- Volilnos cores 0–18 (R351, R370). -/
  cores : Tab Core := []
  rel : Rel := {}
  obs : Observe := {}
  ledger : Ledger := {}
  /-- Commands that wait for a restarting core, oldest first, with the core (R353). -/
  heldCmds : List (Nat × HeldCmd) := []
  /-- The root's broadcasts that wait while the lock-keeper restarts (R353), oldest first. -/
  unsent : List Bcast := []
  /-- What has left the device, oldest first: the model's own record. -/
  out : List Out := []
  /-- Free values drawn so far: the model's own counter, the argument of the opaque constants of Config. -/
  fresh : Nat := 0
  deriving DecidableEq, Repr

/-- The device and the commands that wait for it, first in, first out. -/
structure State where
  pending : List Instr
  vault : Vault
  dev : Dev
  deriving DecidableEq, Repr

/-- Why the device stops. The manual ends no command of the table by stopping the device: a failed check is a status, a
record or a trap, and the device goes on. -/
inductive Fault where
  /-- Raised by no command; safe, since no claim can rest on it. -/
  | stopped
  deriving DecidableEq, Repr

/-- Why a command has no meaning here. -/
inductive Refusal where
  /-- Raised by an arm of `exec` whose command has no meaning yet, with its mnemonic; safe, since it claims nothing. -/
  | notModelled (mnemonic : String)
  deriving DecidableEq, Repr

/-- The general state of a core at every reset and restart (R370): registers and flags zero, pc and VBASE at the base of
code memory. -/
def Core.atReset (c : Core) : Core :=
  { c with g := [], pc := 0xF00000000000#48, fl := 0, epc := 0, efl := 0, cause := 0, badaddr := 0,
           vbase := 0xF00000000000#48, cycle := 0, retired := 0, wrongpath := 0, timecmp := 0, counters := [],
           lines := [], waiting := false, predict := [], rstack := [],
           debugStep := false }

/-- The vault of a part as the model takes it at reset: lifecycle BLANK, in which the debug level is 3 (R332), and no key (log entry 11). -/
def Vault.reset : Vault := { debug := 3 }

/-- The clock domains after a reset: running, at the frequency of R429 where it gives one, tile clusters at the 600 MHz of
an unplaced cluster, gated. -/
def Power.domainsReset : Tab Domain :=
  (List.range 60).map fun i => (i,
    { state := if i < 16 then 2 else 1,
      mhz := if i < 16 then 600 else if i < 22 then 1600 else if i < 30 then 2000 else if i < 34 then 2200
        else if i < 45 then 1000 else if i < 57 then 1562 else if i < 58 then 1000 else if i < 59 then 500 else 100 })

/-- The device right after power-good has risen (R427, R437): everything volatile cleared, reduced service, stage 1 of local
boot to run next (R335). What the host's boards supply from outside (PWR_EN, P48, PWRGD) is present, or there would be no
reset. -/
def Dev.atReset : Dev :=
  { csr := [(0x2000018, 0x20#64), (0xA000020, 0x200000FA0#64)],
    power := { state := .reduced, pwrEn := true, standby := true, p48 := true, pwrGood := true,
               demJunction := 1024, demCoolant := 1024, demCap := 1024, demThrottle := 1024, demVoltage := 1024,
               demCurrent := 1024, demGroup := 1024, domains := Power.domainsReset },
    boot := { stage := 1 },
    canal := { f := 1024, fc := 1024 },
    ctrl := { baud := 115200 },
    cores := (List.range 19).map fun k => (k, Core.atReset {}),
    rel := { nanLimit := 0 } }

/-- The machine right after reset: no command waits. -/
def State.reset : State := { pending := [], vault := Vault.reset, dev := Dev.atReset }

end Sys2Proof.Machine
end

