-- ==== Sys2Proof/Machine/Tab.lean ====
section
/-! DEFINITION. Reading and writing the sparse tables that hold every array of the device. A table is in canonical form
when its indices rise strictly and no entry equals what an unlisted index holds; `tset` keeps that form. -/

namespace Sys2Proof.Machine

/-- The entry at an index, if one is listed. -/
def tfind {α : Type} : Tab α → Nat → Option α
  | [], _ => none
  | (k, v) :: t, i => if i = k then some v else tfind t i

/-- What index `i` holds, where unlisted indices hold `d`. -/
def tget {α : Type} (d : α) (t : Tab α) (i : Nat) : α := (tfind t i).getD d

/-- Put an entry in its place, replacing the one that stands there. -/
def tput {α : Type} : Tab α → Nat → α → Tab α
  | [], i, v => [(i, v)]
  | (k, w) :: t, i, v =>
    if i < k then (i, v) :: (k, w) :: t
    else if i = k then (k, v) :: t
    else (k, w) :: tput t i v

/-- Remove the entry at an index. -/
def tdel {α : Type} : Tab α → Nat → Tab α
  | [], _ => []
  | (k, w) :: t, i => if i = k then t else (k, w) :: tdel t i

/-- Write `v` at index `i`, where unlisted indices hold `d`. -/
def tset {α : Type} [DecidableEq α] (d : α) (t : Tab α) (i : Nat) (v : α) : Tab α :=
  if v = d then tdel t i else tput t i v

/-- Change what index `i` holds. -/
def tmod {α : Type} [DecidableEq α] (d : α) (t : Tab α) (i : Nat) (f : α → α) : Tab α :=
  tset d t i (f (tget d t i))

/-- The canonical form: indices rise strictly, no entry holds the default. -/
def twf {α : Type} [DecidableEq α] (d : α) : Tab α → Bool
  | [] => true
  | [(_, v)] => decide (v ≠ d)
  | (k, v) :: (k', v') :: t => decide (k < k') && decide (v ≠ d) && twf d ((k', v') :: t)

/-- The `n` contents from index `a` on, of a table with no index below `a`. -/
def twalk {α : Type} (d : α) : Tab α → Nat → Nat → List α
  | _, _, 0 => []
  | [], a, n + 1 => d :: twalk d [] (a + 1) n
  | (k, v) :: t, a, n + 1 => if k = a then v :: twalk d t (a + 1) n else d :: twalk d ((k, v) :: t) (a + 1) n

/-- `n` consecutive contents from index `a` on. -/
def tspan {α : Type} (d : α) (t : Tab α) (a n : Nat) : List α := twalk d (t.dropWhile fun e => decide (e.1 < a)) a n

/-- The entries that a list of contents makes from index `a` on. -/
def tlist {α : Type} [DecidableEq α] (d : α) : Nat → List α → Tab α
  | _, [] => []
  | a, v :: vs => if v = d then tlist d (a + 1) vs else (a, v) :: tlist d (a + 1) vs

/-- Write a list of contents from index `a` on. -/
def tputs {α : Type} [DecidableEq α] (d : α) (t : Tab α) (a : Nat) (vs : List α) : Tab α :=
  (t.filter fun e => decide (e.1 < a)) ++ tlist d a vs ++ t.filter fun e => decide (a + vs.length ≤ e.1)

/-- Drop every entry with index in `[a, b)`: those indices then hold the default. -/
def tclear {α : Type} (t : Tab α) (a b : Nat) : Tab α := t.filter fun e => !(decide (a ≤ e.1) && decide (e.1 < b))

end Sys2Proof.Machine
end

