-- ==== Sys2Proof/Machine/Ops.lean ====
section
/-! DEFINITION. The operations that every family of commands shares: changing one part of the device, posting an error
record, writing an event, raising an interrupt, answering a mailbox command. -/

namespace Sys2Proof.Machine

/-! ### A command's outcome -/

/-- A command that changes the device and not the vault. While the device is off nothing in it acts (R426). -/
def onDev (f : Dev → Dev) (s : State) : Host.Outcome State Fault Refusal :=
  .next (if s.dev.power.state = .off then s else { s with dev := f s.dev })

/-- As `onDev`, for a command that reads the vault. -/
def onDevV (f : Vault → Dev → Dev) (s : State) : Host.Outcome State Fault Refusal :=
  .next (if s.dev.power.state = .off then s else { s with dev := f s.vault s.dev })

/-- A command that may change the vault as well. -/
def onVault (f : Vault → Dev → Vault × Dev) (s : State) : Host.Outcome State Fault Refusal :=
  .next (if s.dev.power.state = .off then s
    else { s with vault := (f s.vault s.dev).1, dev := (f s.vault s.dev).2 })

/-- An event that reaches the device in every power state (R437, R438). -/
def always (f : Dev → Dev) (s : State) : Host.Outcome State Fault Refusal :=
  .next { s with dev := f s.dev }

/-- As `always`, for an event that may change the vault. -/
def alwaysV (f : Vault → Dev → Vault × Dev) (s : State) : Host.Outcome State Fault Refusal :=
  .next { s with vault := (f s.vault s.dev).1, dev := (f s.vault s.dev).2 }

/-! ### Changing one part -/

/-- Change `power`. -/
def Dev.modPower (d : Dev) (f : Power → Power) : Dev := { d with power := f d.power }

/-- Change `boot`. -/
def Dev.modBoot (d : Dev) (f : Boot → Boot) : Dev := { d with boot := f d.boot }

/-- Change `manifest`. -/
def Dev.modManifest (d : Dev) (f : ManifestSt → ManifestSt) : Dev := { d with manifest := f d.manifest }

/-- Change `expert`. -/
def Dev.modExpert (d : Dev) (f : Expert → Expert) : Dev := { d with expert := f d.expert }

/-- Change `mailbox`. -/
def Dev.modMailbox (d : Dev) (f : Mailbox → Mailbox) : Dev := { d with mailbox := f d.mailbox }

/-- Change `canal`. -/
def Dev.modCanal (d : Dev) (f : Canal → Canal) : Dev := { d with canal := f d.canal }

/-- Change `locks`. -/
def Dev.modLocks (d : Dev) (f : Locks → Locks) : Dev := { d with locks := f d.locks }

/-- Change `reduce`. -/
def Dev.modReduce (d : Dev) (f : Reduce → Reduce) : Dev := { d with reduce := f d.reduce }

/-- Change `hbm`. -/
def Dev.modHbm (d : Dev) (f : Hbm → Hbm) : Dev := { d with hbm := f d.hbm }

/-- Change `wharf`. -/
def Dev.modWharf (d : Dev) (f : Wharf → Wharf) : Dev := { d with wharf := f d.wharf }

/-- Change `kv`. -/
def Dev.modKv (d : Dev) (f : Kv → Kv) : Dev := { d with kv := f d.kv }

/-- Change `host`. -/
def Dev.modHost (d : Dev) (f : HostEp → HostEp) : Dev := { d with host := f d.host }

/-- Change `acc`. -/
def Dev.modAcc (d : Dev) (f : AccDma → AccDma) : Dev := { d with acc := f d.acc }

/-- Change `net`. -/
def Dev.modNet (d : Dev) (f : Net → Net) : Dev := { d with net := f d.net }

/-- Change `tp`. -/
def Dev.modTp (d : Dev) (f : Transport → Transport) : Dev := { d with tp := f d.tp }

/-- Change `ring`. -/
def Dev.modRing (d : Dev) (f : Ring → Ring) : Dev := { d with ring := f d.ring }

/-- Change `time`. -/
def Dev.modTime (d : Dev) (f : TimeSt → TimeSt) : Dev := { d with time := f d.time }

/-- Change `storage`. -/
def Dev.modStorage (d : Dev) (f : Storage → Storage) : Dev := { d with storage := f d.storage }

/-- Change `sec`. -/
def Dev.modSec (d : Dev) (f : Sec → Sec) : Dev := { d with sec := f d.sec }

/-- Change `ctrl`. -/
def Dev.modCtrl (d : Dev) (f : Control → Control) : Dev := { d with ctrl := f d.ctrl }

/-- Change `rel`. -/
def Dev.modRel (d : Dev) (f : Rel → Rel) : Dev := { d with rel := f d.rel }

/-- Change `obs`. -/
def Dev.modObs (d : Dev) (f : Observe → Observe) : Dev := { d with obs := f d.obs }

/-- Change `ledger`. -/
def Dev.modLedger (d : Dev) (f : Ledger → Ledger) : Dev := { d with ledger := f d.ledger }

/-- What leaves the device is recorded. -/
def Dev.emit (d : Dev) (o : Out) : Dev := { d with out := d.out ++ [o] }

/-- Physical tile n. -/
def Dev.tile (d : Dev) (n : Nat) : Tile := tget {} d.tiles n

/-- Change physical tile n. -/
def Dev.modTile (d : Dev) (n : Nat) (f : Tile → Tile) : Dev := { d with tiles := tmod {} d.tiles n f }

/-- Core k (R351). -/
def Dev.core (d : Dev) (k : Nat) : Core := tget {} d.cores k

/-- Change core k. -/
def Dev.modCore (d : Dev) (k : Nat) (f : Core → Core) : Dev := { d with cores := tmod {} d.cores k f }

/-- Raise an interrupt line of core k (R379). -/
def Dev.raiseLine (d : Dev) (k line : Nat) : Dev :=
  d.modCore k fun c => { c with lines := if line ∈ c.lines then c.lines else c.lines ++ [line] }

/-- Instance i: 0 and 1 are always in state 2 (R214). -/
def Dev.inst (d : Dev) (i : Nat) : Inst := tget {} d.host.inst i

/-- Change instance i. -/
def Dev.modInst (d : Dev) (i : Nat) (f : Inst → Inst) : Dev :=
  d.modHost fun h => { h with inst := tmod {} h.inst i f }

/-- HBM controller k. -/
def Dev.ctl (d : Dev) (k : Nat) : HbmCtl := tget {} d.hbm.ctl k

/-- Change HBM controller k. -/
def Dev.modCtl (d : Dev) (k : Nat) (f : HbmCtl → HbmCtl) : Dev :=
  d.modHbm fun h => { h with ctl := tmod {} h.ctl k f }

/-- Lock l. -/
def Dev.lock (d : Dev) (l : Nat) : Lock := tget {} d.locks.tab l

/-- Change lock l. -/
def Dev.modLock (d : Dev) (l : Nat) (f : Lock → Lock) : Dev :=
  d.modLocks fun k => { k with tab := tmod {} k.tab l f }

/-- Draw a free value: the opaque constant of Config applied to the model's counter, which advances. -/
def Dev.draw {α : Type} (d : Dev) (f : Nat → α) : α × Dev := (f d.fresh, { d with fresh := d.fresh + 1 })

/-- Draw `n` free bytes of the DRBG (R344, R345). -/
def Dev.drawBytes (d : Dev) (n : Nat) : Bytes × Dev :=
  ((List.range n).map fun i => Config.drbgByte (d.fresh + i), { d with fresh := d.fresh + n })

/-! ### Register words -/

/-- The stored word of a register. -/
def Dev.csrGet (d : Dev) (off : Nat) : Word := tget 0 d.csr off

/-- Store a register's word. -/
def Dev.csrSet (d : Dev) (off : Nat) (w : Word) : Dev := { d with csr := tset 0 d.csr off w }

/-- Set one bit of a stored register. -/
def Dev.csrBit (d : Dev) (off bit : Nat) : Dev := d.csrSet off (d.csrGet off ||| BitVec.ofNat 64 (2 ^ bit))

/-- Base offsets of the register blocks (R22), by block code. -/
def blockBase : Nat → Nat
  | 0 => 0x0000000
  | 1 => 0x0010000
  | 2 => 0x0100000
  | 3 => 0x1000000
  | 4 => 0x2000000
  | 5 => 0x3000000
  | 6 => 0x4000000
  | 7 => 0x4800000
  | 8 => 0x5000000
  | 9 => 0x5400000
  | 10 => 0x6000000
  | 11 => 0x6800000
  | 12 => 0x7000000
  | 13 => 0x7800000
  | 14 => 0x8000000
  | 15 => 0x8800000
  | 16 => 0x9000000
  | 17 => 0x9800000
  | 18 => 0xA000000
  | _ => 0xA800000

/-- Offset of the status register of a block, or of the block's unit `u` where each unit has its own registers (tiles, HBM
controllers, R22, R8). -/
def statusOff (block u : Nat) : Nat :=
  blockBase block + 8 + (if block = 5 then u * 0x4000 else if block = 6 then u * 0x100000 else 0)

/-- Set a bit of a block's status register (R8). -/
def Dev.seen (d : Dev) (block u bit : Nat) : Dev := d.csrBit (statusOff block u) bit

/-! ### Unit identities (R386) -/

/-- A block's unit field: die, block code and index, with an instance if one applies. -/
def unitBlock (die block index : Nat) (inst : Option Nat := none) : W32 :=
  BitVec.ofNat 32 (die + 31 * 8 + 2 ^ 8 + block * 2 ^ 9 + index * 2 ^ 14 +
    (match inst with | some i => i * 2 ^ 21 + 2 ^ 31 | none => 0))

/-- A physical tile's unit field (R17, R386). -/
def unitTile (n : Nat) (inst : Option Nat := none) : W32 :=
  BitVec.ofNat 32 (n / 33 / 4 + (n / 33) * 8 + n * 2 ^ 9 +
    (match inst with | some i => i * 2 ^ 21 + 2 ^ 31 | none => 0))

/-- The device unit (R386). -/
def unitDevice : W32 := unitBlock 0 31 127

/-! ### Interrupts, host writes, events -/

/-- A function may issue requests: Bus Master Enable is 1 and its physical function is in D0 (R202, R224). -/
def masters (d : Dev) (inst : Nat) : Bool :=
  (d.inst inst).bme && !(d.inst (if inst < 2 then inst else (d.inst inst).homePf)).d3

/-- Raise an MSI-X vector of a function: a message unless the vector or the function is masked or Bus Master Enable is 0, in
which case its bit of the pending array is set (R202, R224; the masking is PCI Express's own, log entries 12 and 34). -/
def raiseMsix (inst vector : Nat) (d : Dev) : Dev :=
  let i := d.inst inst
  if !i.msixEnable then d
  else if i.msixMask || !masters d inst || (tget 1#32 i.msixTable (4 * vector + 3)).getLsbD 0 then
    d.modInst inst fun i => { i with msixPending := if vector ∈ i.msixPending then i.msixPending else i.msixPending ++ [vector] }
  else d.emit (.msix inst vector)

/-- The event ring of a PF with its head word read again when the ring looks full (R360): the word stands in host memory, so what
it holds is a free value (log entry 75). -/
def rereadHead (pf : Nat) (r : EventRing) (d : Dev) : EventRing × Dev :=
  if r.written - r.head < 2 ^ r.n then (r, d)
  else
    let x := d.draw Config.eventHead
    let r := { r with head := x.1 }
    (r, x.2.modMailbox fun m => { m with rings := tput m.rings pf r })

/-- Write an entry of 64 bytes into a PF's event ring (R360): entry k only while k − head < 2^n, else it is lost and counted; a
function that may not master the bus writes none (R224, log entry 34). -/
def eventEntry (pf : Nat) (bytes : Bytes) (d : Dev) : Dev :=
  match tfind d.mailbox.rings pf with
  | none => d
  | some r =>
    let x := rereadHead pf r d
    let r := x.1
    let d := x.2
    if r.written - r.head < 2 ^ r.n ∧ (d.inst pf).bme then
      let d := d.emit (.hostWrite pf pf (dwSpan (r.base + 64 * (r.written % 2 ^ r.n)) 64) bytes false false)
      let d := d.modMailbox fun m => { m with rings := tput m.rings pf { r with written := r.written + 1 } }
      raiseMsix pf r.vector d
    else d.modMailbox fun m => { m with eventsLost := satAdd 65535 m.eventsLost 1 }

/-- The CRC-32 of R31 appended to 60 bytes. -/
def withCrc (bs : Bytes) : Bytes := bs ++ leBytes 4 (crc32 bs).toNat

/-- The 64 bytes of an error record (R385). -/
def ErrorRecord.bytes (r : ErrorRecord) : Bytes :=
  withCrc (leBytes 2 1 ++ leBytes 2 r.cls.toNat ++ leBytes 4 r.unit.toNat ++ leBytes 8 r.operation.toNat ++
    leBytes 8 r.timeNs.toNat ++ leBytes 4 r.timeFrac.toNat ++ leBytes 2 r.temperature.toNat ++
    leBytes 2 r.voltage.toNat ++ fit 16 r.syndrome ++ leBytes 8 r.identity.toNat ++ leBytes 4 r.duplicates.toNat)

/-- The 64 bytes of a completion event (R360). -/
def completionBytes (d : Dev) (code seq status detail : Nat) (result : Bytes) : Bytes :=
  withCrc (leBytes 2 2 ++ leBytes 2 code ++ leBytes 4 seq ++ leBytes 1 status ++ leBytes 1 detail ++
    List.replicate 6 0 ++ leBytes 8 d.time.ns.toNat ++ leBytes 4 d.time.frac.toNat ++ fit 32 result)

/-- An in-band interrupt on the I3C bus signals a new event (R366, log entry 76). -/
def Dev.signalEvent (d : Dev) : Dev := d.emit .ibi

/-- The completion event of a command that returned ACCEPTED, to the ring of its sender (R360): the PFs have rings. -/
def completionEvent (src code : Nat) (seq : W32) (status detail : Nat) (result : Bytes) (d : Dev) : Dev :=
  if src < 2 then eventEntry src (completionBytes d code seq.toNat status detail result) d.signalEvent
  else if src = 1025 then d.signalEvent
  else d

/-! ### Trace records (R418) -/

/-- Records the trace unit's buffer holds (R418). -/
def traceBuffer : Nat := 4096

/-- Give a record to the trace unit (R418): formed only while the letter O is available (R419) and the trace takes that
source; lost and counted when the trace has stopped at its full region or the buffer is full. Source 0 counter records, 1
samples, 2 error records. -/
def traceRecord (source : Nat) (bytes : Bytes) (d : Dev) : Dev :=
  if d.obs.visible = false ∨ d.obs.mode = 0 ∨ bit d.obs.sources source = false then d
  else if d.obs.stopped ∨ traceBuffer ≤ d.obs.buffer.length then
    (d.modObs fun o => { o with lost := satAdd (2 ^ 32 - 1) o.lost 1 }).seen 17 0 2
  else d.modObs fun o => { o with buffer := o.buffer ++ [bytes] }

/-! ### Error records -/

/-- The device's own 20-bit ID (R366): 0xF_FFFF until one arrives. -/
def Dev.deviceId (d : Dev) : Nat := match d.boot.deviceId with | some i => i.toNat | none => 0xFFFFF

/-- A fault identity (R402): origin device, unit bits 20:0, group epoch. -/
def identityOf (origin : Nat) (unit : W32) (epoch : Nat) : Word :=
  BitVec.ofNat 64 (origin % 2 ^ 20 + (unit.toNat % 2 ^ 21) * 2 ^ 20 + (epoch % 2 ^ 23) * 2 ^ 41)

/-- The status bits that a class's record sets (register maps): block and bits. -/
def seenBits (cls : Nat) : Nat × List Nat :=
  match cls with
  | 0x0300 => (3, [2])
  | 0x0301 => (3, [3])
  | 0x0302 => (3, [4])
  | 0x0401 => (4, [3])
  | 0x0D05 => (4, [3])
  | 0x0503 => (5, [2, 4])
  | 0x0504 => (5, [2, 3])
  | 0x0500 | 0x0501 | 0x0502 | 0x0505 | 0x0506 => (5, [2])
  | 0x0800 => (6, [2])
  | 0x0801 => (6, [3])
  | 0x0804 => (7, [2])
  | 0x0805 => (7, [3])
  | 0x0806 => (7, [4])
  | 0x0901 => (8, [3])
  | 0x0902 => (8, [4])
  | 0x0900 => (8, [5])
  | 0x0A00 => (9, [2])
  | 0x0A01 => (9, [3])
  | 0x0A03 => (9, [4])
  | 0x0B00 => (10, [2])
  | 0x0B01 => (10, [3])
  | 0x0C00 => (11, [2])
  | 0x0C01 => (11, [3])
  | 0x0C02 => (11, [4])
  | 0x0D00 => (12, [2])
  | 0x0E00 => (13, [2])
  | 0x0E01 => (13, [3])
  | 0x0E02 => (13, [4])
  | 0x0F01 => (14, [2])
  | 0x0F02 => (14, [3])
  | 0x0F03 => (14, [4])
  | 0x1000 => (15, [2])
  | 0x1002 => (15, [3])
  | 0x1100 => (16, [2])
  | 0x1101 => (16, [3])
  | 0x1301 => (18, [2])
  | _ => (0, [])

/-- The hardware unit of a record within its block: the physical tile, or the index of a block's unit (R386). -/
def unitIndex (unit : W32) : Nat := if bit unit.toNat 8 then bits unit.toNat 20 14 else bits unit.toNat 20 9

/-- The classes that R401 always forwards up the time tree. -/
def forwardedClass (cls : Nat) : Bool :=
  [0x0D00, 0x0D04, 0x0D03, 0x0D01, 0x0D02, 0x0802, 0x1001, 0x1100, 0x1101].contains cls

/-- The payload of a FAULT_REPORT cell, bytes 16–55 (R401). -/
def faultPayload (r : ErrorRecord) (update : Bool) (count : Nat) : Bytes :=
  leBytes 8 r.identity.toNat ++ leBytes 2 r.cls.toNat ++ leBytes 1 (b2n update) ++ leBytes 1 0 ++ leBytes 4 count ++
    leBytes 8 r.timeNs.toNat ++ leBytes 4 r.timeFrac.toNat ++ leBytes 4 r.unit.toNat ++ (fit 16 r.syndrome).take 4 ++
    leBytes 2 r.temperature.toNat ++ leBytes 2 r.voltage.toNat

/-- The 64 bytes of a control cell (R299). -/
def cellBytes (type ring hops origin : Nat) (time : Word) (payload : Bytes) : Bytes :=
  let b := leBytes 1 type ++ leBytes 1 ring ++ leBytes 2 hops ++ leBytes 4 (origin % 2 ^ 20) ++ leBytes 8 time.toNat ++ fit 40 payload ++ leBytes 4 0
  b ++ leBytes 4 (crc32 b).toNat

/-- The cell types that need credit (R299). -/
def creditType (type : Nat) : Bool := [2, 3, 5, 6].contains type

/-- A cell on its lane: it leaves, or it waits for credit, and behind cells of its type that wait (R300). -/
def CellLane.put (link type : Nat) (cell : Bytes) (c : CellLane) : CellLane × List Out :=
  let at_ := 8 * link + type
  if !creditType type then (c, [.cell link cell])
  else if tget 64 c.credits at_ = 0 || c.held.any fun h => decide (h.1 = link ∧ h.2.1 = type) then ({ c with held := c.held ++ [(link, type, cell)] }, [])
  else ({ c with credits := tset 64 c.credits at_ (tget 64 c.credits at_ - 1) }, [.cell link cell])

/-- The partner grants one credit of a type again: the oldest cell that waits for it leaves (R300). -/
def CellLane.grant (link type : Nat) (c : CellLane) : CellLane × List Out :=
  match c.held.find? fun h => decide (h.1 = link ∧ h.2.1 = type) with
  | some h => ({ c with held := c.held.erase h }, [.cell link h.2.2])
  | none => ({ c with credits := tset 64 c.credits (8 * link + type) (min 64 (tget 64 c.credits (8 * link + type) + 1)) }, [])

/-- A link trains anew: its partner grants 64 cells of each type, and what waited is lost (log entry 136). -/
def CellLane.restart (link : Nat) (c : CellLane) : CellLane :=
  { credits := c.credits.filter fun e => decide (e.1 / 8 ≠ link), held := c.held.filter fun h => decide (h.1 ≠ link) }

/-- Let a lane operation take place: what it sends leaves the device. -/
def Dev.onLane (d : Dev) (f : CellLane → CellLane × List Out) : Dev :=
  { d with cells := (f d.cells).1, out := d.out ++ (f d.cells).2 }

/-- Send a control cell of the device on a link (R299): type, ring, hops, origin. -/
def sendCell (link type ring hops origin : Nat) (payload : Bytes) (d : Dev) : Dev :=
  d.onLane (CellLane.put link type (cellBytes type ring hops origin d.time.ns payload))

/-- The ring of a link: links 0 and 2 the member ring's, 1 and 3 the trunk's, or as chapter 13 pairs them (R298). -/
def linkRing (link : Nat) : Nat := link % 2

/-! ### The ledger's data log (R363) -/

/-- The lowest data block that is neither written nor worn out. -/
def Ledger.free (l : Ledger) : Option Nat :=
  ((List.range 8128).map (· + 64)).find? fun b => (tfind l.blocks b).isNone && !l.retired.contains b && !l.eraseQueue.contains b

/-- Logical blocks of the data log: the data blocks less the spares. -/
def logBlocks : Nat := 7964

/-- A full page of 256 records is written: into the block of its 255 pages, or, for the first of them, a new one under the next sequence
number. The log is circular: a logical block that is written again takes a new block, and its old one is erased. -/
def Ledger.writePage (l : Ledger) : Ledger :=
  let page := l.logged / 256 - 1
  let logical := page / 255 % logBlocks
  let old := tget 0 l.map logical
  if page % 255 ≠ 0 ∧ old ≠ 0 then { l with blocks := tmod {} l.blocks (old - 1) fun x => { x with valid := x.valid + 1 } }
  else match l.free with
    | some b => { l with blocks := tput (if old = 0 then l.blocks else tdel l.blocks (old - 1)) b { logical := logical, seq := l.nextSeq, valid := 1 },
                         map := tput l.map logical (b + 1), nextSeq := l.nextSeq + 1 }
    | none => l

/-- A record is appended to the data log while it is mounted, and kept for the mount before it; the oldest records give way once the log is
full (R363). -/
def Ledger.append (l : Ledger) (r : ErrorRecord) : Ledger :=
  if l.state = 3 then l
  else if l.state ≠ 2 then { l with early := l.early ++ [r] }
  else
    let all := l.log ++ [r]
    let l := { l with log := all.drop (all.length - logBlocks * 65280), logged := l.logged + 1 }
    if l.logged % 256 = 0 then l.writePage else l

/-- Record bytes reach the ledger's data log, both event rings and the trace unit (R360, R363, R417). -/
def publish (r : ErrorRecord) (d : Dev) : Dev :=
  let d := d.modLedger fun l => l.append r
  traceRecord 2 r.bytes (eventEntry 1 r.bytes (eventEntry 0 r.bytes d.signalEvent))

/-- Give a report to the coalescing table (R403): a held identity that is younger than 10 ms counts it; a new one enters
with the count it carries; with the table full it is forwarded at once and counted. At the root a forwarded report is
posted as one record with operation 0. -/
def coalesce (r : ErrorRecord) (count : Nat) (d : Dev) : Dev :=
  match d.rel.coal.find? fun e => e.identity == r.identity with
  | some _ =>
    d.modRel fun m => { m with coal := m.coal.map fun e =>
      if e.identity == r.identity then { e with count := e.count + count + 1 } else e }
  | none =>
    if d.rel.coal.length < 256 then
      d.modRel fun m => { m with coal := m.coal ++
        [{ identity := r.identity, cls := r.cls, unit := r.unit, count := count, since := d.uptime, record := r }] }
    else
      let d := d.modRel fun m => { m with overflows := satAdd 65535 m.overflows 1 }
      if d.ring.root then publish { r with operation := 0, duplicates := BitVec.ofNat 32 count } d
      else sendCell d.time.upstream 5 (linkRing d.time.upstream) 0 d.deviceId (faultPayload r false count) d

/-- The record of an event: the time, the latest readings of the unit's die, the identity (R385, R402). -/
def mkRecord (cls : Nat) (unit : W32) (op : Word) (syn : Bytes) (d : Dev) : ErrorRecord :=
  let die := bits unit.toNat 2 0
  { cls := BitVec.ofNat 16 cls, unit := unit, operation := op, timeNs := d.time.ns, timeFrac := d.time.frac,
    temperature := if d.power.haveReading then BitVec.ofInt 16 (tget 0 d.power.junction die) else 0x8000#16,
    voltage := if d.power.haveReading then BitVec.ofNat 16 (tget 0 d.power.railMv die) else 0#16,
    syndrome := fit 16 syn, identity := identityOf d.deviceId unit d.rel.groupEpoch, duplicates := 0 }

/-- The core that serves a record's unit, if one does (R351): the cluster control core of a tile, the security core, the power
core, and the lock-keeper for the manifest block. -/
def servingCore (unit : W32) : Option Nat :=
  if !bit unit.toNat 8 then some (3 + unitIndex unit / 33)
  else match bits unit.toNat 13 9 with
    | 14 => some 0
    | 18 => some 1
    | 2 => some 2
    | _ => none

/-- Post an error record that has been formed: status bits, ledger, rings, trace, and the time tree where R401 sends it
(`forward`: a fault policy's action 3 or 4 applies to it). -/
def postRecord (r : ErrorRecord) (forward : Bool) (d : Dev) : Dev :=
  let sb := seenBits r.cls.toNat
  let d := sb.2.foldl (fun d b => d.seen sb.1 (unitIndex r.unit) b) d
  let d := publish r d
  let d := match servingCore r.unit with | some k => d.raiseLine k 2 | none => d
  if forward || forwardedClass r.cls.toNat then coalesce r 0 d else d

/-- Post an error record now. -/
def post (cls : Nat) (unit : W32) (op : Word) (syn : Bytes) (d : Dev) : Dev :=
  postRecord (mkRecord cls unit op syn d) false d

/-! ### The mailbox (R356–R359) -/

/-- Status values of R358. -/
inductive MStatus where
  | ok | accepted | invalid | notPermitted | busy | blockExpert | capacity | authFail | lockedOut | entropyFail
  | reservedValue | keySlot | addressUnmapped | unknownCommand | reduced
  deriving DecidableEq, Repr

/-- The status byte of R358. -/
def MStatus.code : MStatus → Nat
  | .ok => 0
  | .accepted => 1
  | .invalid => 2
  | .notPermitted => 3
  | .busy => 4
  | .blockExpert => 5
  | .capacity => 6
  | .authFail => 7
  | .lockedOut => 8
  | .entropyFail => 9
  | .reservedValue => 10
  | .keySlot => 11
  | .addressUnmapped => 12
  | .unknownCommand => 13
  | .reduced => 14

/-- What a command answers: status, detail and result values. -/
structure Reply where
  status : MStatus
  detail : Nat := 0
  result : Bytes := []
  deriving DecidableEq, Repr

/-- Result values in order, 8 bytes each, little-endian (the manual gives their order and no widths: log entry 13). -/
def words (vs : List Nat) : Bytes := vs.flatMap fun v => leBytes 8 v

/-- Answer with result values. -/
def ok (vs : List Nat) : Reply := { status := .ok, result := words vs }

/-- Answer with a status alone. -/
def fail (st : MStatus) : Reply := { status := st }

/-- The frame of a source. -/
def Dev.frame (d : Dev) (src : Nat) : Frame := tget {} d.mailbox.frames src

/-- Complete a command in its frame (R357): result, status fields and sequence_echo are written, busy clears, done sets and
MSI-X vector 0 of the function is raised. The towpath source has no function: its reply leaves as a datagram (R366, log entry 76). -/
def complete (src : Nat) (seq : W32) (r : Reply) (d : Dev) : Dev :=
  let d := d.modMailbox fun m => { m with frames := tmod {} m.frames src fun f =>
    { f with sequence := seq, sequenceEcho := seq, status := BitVec.ofNat 8 r.status.code,
             detail := BitVec.ofNat 8 r.detail, result := r.result, busy := false, done := true, running := false } }
  if src < 1024 then raiseMsix src 0 d
  else if src = 1024 then
    d.emit (.datagram (d.manifest.active.map (·.keySlot)) (leBytes 8 d.ledger.towCounter.toNat ++ [0, 0, 0, 4]) r.result)
  else d

/-- The reduced-service rule (R359), the virtual-function rule of a chapter's commands and the expert rule (R14) come
before a command's own checks; then the command answers and changes the device. `vf`: a virtual function may send it;
`reduced`: it runs in reduced service; `block`: the register block whose state it changes, if it changes one; `i3c`: the I3C
source may send it (R366: queries, whose names end in STATUS, READ, INFO or LOG, and CMD_NOR_WRITE). -/
structure Guard where
  vf : Bool := false
  reduced : Bool := false
  block : Option Nat := none
  i3c : Bool := false
  /-- Further blocks whose registers the command changes (R14). -/
  also : List Nat := []
  deriving DecidableEq, Repr

/-- The blocks whose registers an applied or reverted alternate changes (R14): CANAL, TILES and RINGTIME. -/
def switchBlocks : List Nat := [3, 5, 12]

/-- The blocks beside HOSTEP whose registers an instance's creation changes, the owners of its channels and queues: ACCDMA, NETENG and
STORAGE; its destruction empties chambers and ends connections too: LOCKS and TRANSPORT (R14, R216). -/
def createBlocks : List Nat := [9, 10, 13]
def destroyBlocks : List Nat := [4, 9, 10, 11, 13]

/-- A source that is a virtual function (R356). -/
def isVf (src : Nat) : Bool := decide (2 ≤ src ∧ src < 1024)

/-- Which guard, if any, answers a command (R14, R359). -/
def guardStatus (g : Guard) (src : Nat) (d : Dev) : Option MStatus :=
  if d.power.state ≠ .full ∧ g.reduced = false then some .reduced
  else if isVf src ∧ g.vf = false ∨ src = 1025 ∧ g.i3c = false then some .notPermitted
  else if (g.block.toList ++ g.also).any d.expert.unlocked.contains then some .blockExpert
  else none

/-- A second go while the source's command has not completed: ignored and counted (R357, R359). -/
def overrun (d : Dev) : Dev := d.modMailbox fun m => { m with overruns := satAdd 65535 m.overruns 1 }

/-- A command of a source goes on: its frame stays busy until it completes (R357, R359). -/
def keepRunning (src : Nat) (d : Dev) : Dev :=
  d.modMailbox fun m => { m with frames := tmod {} m.frames src fun f => { f with busy := true, done := false, running := true } }

/-- A mailbox command: guarded, performed, completed in its source's frame. One source runs one command at a time. -/
def mailbox (c : Cmd) (g : Guard) (f : Dev → Reply × Dev) (d : Dev) : Dev :=
  if (d.frame c.src).running then overrun d
  else match guardStatus g c.src d with
  | some st => complete c.src c.seq (fail st) d
  | none => complete c.src c.seq (f d).1 (f d).2

/-- A mailbox command that may go on after it has been accepted: without a reply yet, a physical function, the towpath or I3C
gets ACCEPTED, and a virtual function's command stays busy until it ends (R359). -/
def mailboxLater (c : Cmd) (g : Guard) (f : Dev → Option Reply × Dev) (d : Dev) : Dev :=
  if (d.frame c.src).running then overrun d
  else match guardStatus g c.src d with
  | some st => complete c.src c.seq (fail st) d
  | none => match (f d).1 with
    | some r => complete c.src c.seq r (f d).2
    | none => if isVf c.src then keepRunning c.src (f d).2 else complete c.src c.seq (fail .accepted) (f d).2

/-- The end of a command that `mailboxLater` left running: a completion event, or the answer a virtual function waits for. -/
def finishLater (src code : Nat) (seq : W32) (r : Reply) (d : Dev) : Dev :=
  if isVf src then complete src seq r d else completionEvent src code seq r.status.code r.detail r.result d

/-- A mailbox command that only reads. -/
def query (c : Cmd) (g : Guard) (f : Dev → Reply) (d : Dev) : Dev := mailbox c g (fun d => (f d, d)) d

/-- The physical function for which a source's command acts (R215): the PF itself, the home PF of a virtual function, and
for the towpath and I3C the home PF of the instance named (PF 0 where none is named). -/
def actingPf (src : Nat) (named : Option Nat) (d : Dev) : Nat :=
  if src < 2 then src
  else if src < 1024 then (d.inst src).homePf
  else match named with
    | some i => if i < 2 then i else (d.inst i).homePf
    | none => 0

/-- Instance i exists for commands: a physical function's, or one in state 2 (R214). -/
def namedInst (d : Dev) (i : Nat) : Bool := decide (i < 2) || decide ((d.inst i).state = 2)

/-- Instance i is created through physical function p (R215). -/
def createdThrough (i p : Nat) (d : Dev) : Bool :=
  decide (i = p) || (decide (2 ≤ i) && decide ((d.inst i).homePf = p) && decide ((d.inst i).state = 2))

/-- A source may name an instance: a virtual function its own, a physical function one created through it; the towpath and
I3C act for the home PF of the instance they name (R215). -/
def mayName (src i : Nat) (d : Dev) : Bool :=
  if isVf src then decide (i = src) else createdThrough i (actingPf src (some i) d) d

/-- The bits of n that a mask names are cleared, as in a register whose bits are written 1 to clear. -/
def clearBits (n mask : Nat) : Nat := n - Nat.land n mask

/-! ### Lists used as sets -/

/-- Add to a list without repeats. -/
def addSet {α : Type} [DecidableEq α] (a : α) (l : List α) : List α := if a ∈ l then l else l ++ [a]

/-- Remove from a list. -/
def delSet {α : Type} [DecidableEq α] (a : α) (l : List α) : List α := l.filter fun b => b ≠ a

/-- A bit mask of the numbers in a list. -/
def maskOf (l : List Nat) : Nat := l.foldl (fun m i => m ||| 2 ^ i) 0

/-! ### Commands that wait for a core (R353) -/

/-- Core k restarts. -/
def Dev.restarting (d : Dev) (k : Nat) : Bool := decide ((tget {} d.ctrl.cores k).state = 2)

/-- The mailbox source of a command that may wait, if it has one. -/
def HeldCmd.source : HeldCmd → Option Nat
  | .cmdSecStatus c => some c.src.val
  | .cmdSecChallenge c _ => some c.src.val
  | .cmdSecDebugSet c _ _ => some c.src.val
  | .cmdSecLifecycle c _ _ => some c.src.val
  | .cmdSecVersionCommit c _ => some c.src.val
  | .cmdKeyLoad c _ _ _ _ _ => some c.src.val
  | .cmdRngRead c _ => some c.src.val
  | .cmdExpertChallenge c _ => some c.src.val
  | .stewardshipClaim _ _ => none
  | .broadcast _ _ _ _ => none
  | .cmdTileStatus c _ => some c.src.val
  | .cmdTileRestart c _ _ => some c.src.val
  | .cmdTileReadOps c _ _ _ => some c.src.val
  | .cmdPowerStatus c => some c.src.val
  | .cmdPowerCapSet c _ => some c.src.val
  | .cmdResetWarm c => some c.src.val
  | .cmdClockStatus c _ => some c.src.val

/-- A command joins those that wait for core k; its source runs no other meanwhile (R353, R359). -/
def hold (k : Nat) (i : HeldCmd) (d : Dev) : Dev :=
  let wait (d : Dev) : Dev := { d with heldCmds := d.heldCmds ++ [(k, i)] }
  match i.source with
  | some src => if (d.frame src).running then overrun d else wait (keepRunning src d)
  | none => wait d

/-- The command no longer waits: its source's frame is as at its go. -/
def unhold (i : HeldCmd) (d : Dev) : Dev :=
  match i.source with
  | some src => d.modMailbox fun m => { m with frames := tmod {} m.frames src fun f => { f with running := false } }
  | none => d

/-- A command that core k serves: while that core restarts, it waits, and it completes after the restart (R353). -/
def whileUp (k : Nat) (i : HeldCmd) (now : State → Host.Outcome State Fault Refusal) (s : State) : Host.Outcome State Fault Refusal :=
  if s.dev.restarting k ∧ s.dev.power.state = .full then .next { s with dev := hold k i s.dev }
  else now s

end Sys2Proof.Machine
end

