-- ==== Sys2Proof/Machine/Failure.lean ====
section
/-! DEFINITION. What a failure does to the device: a unit joins the held-failed units and an alternate is chosen (R28,
R44, R445), the device is handled as failed and its bypass pairs close (R28, R303, R304), the step becomes suspect (R391). -/

namespace Sys2Proof.Machine

/-- Syndrome bytes from (record offset, width, value) triples; offsets count from byte 32 of the record (R385). -/
def syn (fs : List (Nat × Nat × Nat)) : Bytes :=
  fs.foldl (fun bs e => bs.take (e.1 - 32) ++ leBytes e.2.1 e.2.2 ++ bs.drop (e.1 - 32 + e.2.1)) (List.replicate 16 0)

/-- The tile's unit field with the instance it works for (R386). -/
def Dev.unitTile (d : Dev) (n : Nat) : W32 := Machine.unitTile n (some (d.tile n).inst)

/-! ### The bypass (R304) -/

/-- The pin that shows pair p closed (R440). -/
def bypPin (p : Nat) : String := if p = 0 then "BYP_CLOSED0" else "BYP_CLOSED1"

/-- The hold of pair p lapses with a cause: RING_BYPASS is posted and the switches begin to close. A pair, which lies on both halves, is
named by die 4 (log entry 135). -/
def lapse (cause p : Nat) (d : Dev) : Dev :=
  if (tget {} d.ring.pairs p).open_ then
    let d := d.modRing fun r => { r with pairs := tmod {} r.pairs p fun b => { b with open_ := false, closing := true } }
    (post 0x0D04 (unitBlock 4 12 p) 0 (syn [(32, 1, p), (33, 1, cause)]) d).emit (.pin (bypPin p) true)
  else d

/-- The holds of both pairs lapse. -/
def lapseBoth (cause : Nat) (d : Dev) : Dev := lapse cause 1 (lapse cause 0 d)

/-- The device is handled as failed (R28): its bypass hold lapses, with cause 6 unless the failure has a code of its own. -/
def failDevice (cause : Nat) (d : Dev) : Dev :=
  lapseBoth cause (d.modRing fun r => { r with deviceFailed := true })

/-! ### Alternates (R44) -/

/-- The program that runs. -/
def Dev.program (d : Dev) : Nat := d.canal.program

/-- The alternates of the manifest in force, with their indices. -/
def Dev.alternates (d : Dev) : List (Nat × Alternate) :=
  match d.manifest.active with
  | some m => (List.range m.alternates.length).zip m.alternates
  | none => []

/-- The first list's members all lie in the second. -/
def within (a b : List Nat) : Bool := a.all b.contains

/-- R44 rule 1: among the alternates of the running program that cover the failed set, the smallest coverage, then the
lowest index. -/
def smallestCover (failed : List Nat) (as : List (Nat × Alternate)) : Option Nat :=
  ((as.filter fun a => within failed a.2.coverage).foldl (fun (best : Option (Nat × Nat)) a =>
    match best with
    | some (_, n) => if a.2.coverage.length < n then some (a.1, a.2.coverage.length) else best
    | none => some (a.1, a.2.coverage.length)) none).map (·.1)

/-- R44 rule 2: patches taken in increasing index order, each of which covers a failed unit not yet covered, with pairwise
disjoint coverages that together contain the failed set. -/
def patchCover (failed : List Nat) (as : List (Nat × Alternate)) : Option (List Nat) :=
  let r := as.foldl (fun (acc : List Nat × List Nat) a =>
    if a.2.kind = 0 ∧ (a.2.coverage.any fun u => failed.contains u && !acc.2.contains u) = true
        ∧ (a.2.coverage.any acc.2.contains) = false
    then (acc.1 ++ [a.1], acc.2 ++ a.2.coverage) else acc) ([], [])
  if within failed r.2 then some r.1 else none

/-- The choice of R44 for a failed set. -/
def chooseAlternates (failed : List Nat) (d : Dev) : Option (List Nat) :=
  let as := d.alternates.filter fun a => a.2.base = d.program
  match smallestCover failed as with
  | some i => some [i]
  | none => patchCover failed as

/-- Units fail (R44): they become held failed and join the failed set, and the alternate that covers the set is due at the
next boundary; without one the device is handled as failed (R28). Held-failed tiles are held in reset (R108). -/
def failUnits (codes : List Nat) (d : Dev) : Dev :=
  let new := codes.filter fun u => !d.manifest.heldFailed.contains u
  if new = [] then d
  else
    let d := d.modManifest fun m => { m with heldFailed := m.heldFailed ++ new, unhealthy := m.unhealthy ++ new }
    let d := new.foldl (fun d u => if u < 528 then d.modTile u fun t => { t with failed := true } else d) d
    if d.manifest.active = none then d
    else
      let d := d.modManifest fun m => { m with failedSet := m.failedSet ++ new }
      match chooseAlternates d.manifest.failedSet d with
      | some as => d.modManifest fun m => { m with altDue := some as }
      | none => failDevice 6 d

/-- The tiles of cluster c. -/
def clusterTiles (c : Nat) : List Nat := (List.range 33).map fun p => 33 * c + p

/-- A core fails (R355): CTRL_CORE_FAIL is posted; a cluster control core takes its 33 tiles into the failed set, any other
core is a failure of the device. Cause 0 restart time, 1 third expiry; a core that fails by its link carries 0 (log entry 135). -/
def failCore (k cause : Nat) (d : Dev) : Dev :=
  let die := if k = 1 then 5 else if k < 3 then 4 else (k - 3) / 4
  let d := d.modCtrl fun c => { c with cores := tmod {} c.cores k fun x => { x with state := 3 } }
  let d := post 0x1001 (unitBlock die 15 k) 0 (syn [(32, 1, k), (33, 1, cause)]) d
  if 3 ≤ k then failUnits (clusterTiles (k - 3)) d else failDevice 6 d

/-! ### The step becomes suspect (R391) -/

/-- A member marks the current step suspect and posts REL_SUSPECT once for it; without a step structure there is no step. The RELIABILITY
block is named by die 4 (log entry 135). -/
def suspect (cause band : Nat) (d : Dev) : Dev :=
  if d.rel.phase = 0 then d
  else
    let was := d.rel.posted
    let d := d.modRel fun r => { r with suspect := true, posted := true }
    if was then d
    else post 0x1100 (unitBlock 4 16 127) 0 (syn [(32, 1, cause), (34, 2, band), (40, 8, d.rel.step + 1)]) d

/-! ### Fault policies of units other than tiles (R126, R166, R200) -/

/-- The policy of a class: the manifest's entry, or the default action. -/
def Dev.policy (d : Dev) (cls dflt : Nat) : Policy :=
  match d.manifest.active with
  | some m => (m.policies.find? fun p => p.cls = cls).getD { cls := cls, action := dflt }
  | none => { cls := cls, action := 0 }

/-- Post a record of a class that the fault policies govern and whose default action is 2: action 2 marks the step suspect,
action 4 fails the device at the next lockage boundary (R127). Without a manifest the record alone is posted. -/
def postPolicy (cls : Nat) (unit : W32) (op : Word) (syn : Bytes) (d : Dev) : Dev :=
  let p := d.policy cls 2
  let d := postRecord (mkRecord cls unit op syn d) (decide (3 ≤ p.action)) d
  if p.action = 2 ∨ p.action = 3 then suspect 1 0xFFFF d
  else if p.action = 4 then d.modManifest fun m => { m with failDue := true }
  else d

/-! ### Messages of the group (R299 type 6, R46, R75, R307) -/

/-- Ring link k. -/
def Dev.link (d : Dev) (k : Nat) : RingLink := tget {} d.ring.links k

/-- Change ring link k. -/
def Dev.modLink (d : Dev) (k : Nat) (f : RingLink → RingLink) : Dev :=
  d.modRing fun r => { r with links := tmod {} r.links k f }

/-- The payload of a BROADCAST cell: a kind byte and values of 8 bytes (log entry 65). -/
def bcastBytes : Bcast → Bytes
  | .flip L => leBytes 8 0 ++ leBytes 8 L
  | .stretch f L => leBytes 8 1 ++ leBytes 8 f ++ leBytes 8 L
  | .abort => leBytes 8 2
  | .zero t => leBytes 8 3 ++ leBytes 8 t.toNat
  | .zeroAbort => leBytes 8 4
  | .topology => leBytes 8 5
  | .ready => leBytes 8 6
  | .failed => leBytes 8 7
  | .demand f => leBytes 8 8 ++ leBytes 8 f
  | .lost => leBytes 8 9
  | .locked => leBytes 8 10

/-- Send a BROADCAST cell on a link that is up. -/
def sendBcast (link hops origin : Nat) (b : Bcast) (d : Dev) : Dev :=
  if (d.link link).state = 2 then sendCell link 6 (linkRing link) hops origin (bcastBytes b) d else d

/-- The root sends a message along both its rings; the message waits while the lock-keeper, which sends it, restarts (R351, R353). -/
def broadcast (b : Bcast) (d : Dev) : Dev :=
  if d.restarting 2 then { d with unsent := d.unsent ++ [b] }
  else sendBcast 1 0 d.deviceId b (sendBcast 0 0 d.deviceId b d)

/-- The broadcasts that waited for the lock-keeper leave. -/
def sendUnsent (d : Dev) : Dev := d.unsent.foldl (fun d b => broadcast b d) { d with unsent := [] }

/-- A member reports to the root, up the time tree. -/
def reportRoot (b : Bcast) (d : Dev) : Dev := sendBcast d.time.upstream 0 d.deviceId b d

/-- The manifest that a load brings, as far as it is known, else the one in force. -/
def Dev.loading (d : Dev) : Option Manifest :=
  match d.manifest.shadow with
  | some m => some m
  | none => match d.manifest.parsed with | some m => some m | none => d.manifest.active

/-- Members of the group of the load in progress. -/
def Dev.loadGroup (d : Dev) : Nat := match d.loading with | some m => m.groupSize | none => 1

/-! ### A load that fails (R38) -/

/-- The die of the half that is steward. -/
def Dev.stewardDie (d : Dev) : Nat := if d.ctrl.steward then 5 else 4

/-- The load ends with a validation code, a section index and a byte offset: nothing outside the staging copy is written, the
record MANIFEST_INVALID is posted, a member of a group reports the failure or the root broadcasts abort (R46), and the sender's completion event is written (R360; its status and detail: log entry 15).
After the new stack map has been taken no manifest stays in force and work stays held (R48). -/
def failLoad (code sect off : Nat) (d : Dev) : Dev :=
  let m := d.manifest
  let group := d.loadGroup
  let d := d.modManifest fun m => { m with
    stage := 0, code := code, sect := sect, errorOffset := off, parsed := none, shadow := none, sender := none,
    flipLockage := none, firstReady := none, membersReady := 0, reload := false, rollback := false,
    mapReload := false, active := if m.mapReload then none else m.active,
    workHeld := m.workHeld && (m.mapReload || d.hbm.awaitingMap) }
  let d := post 0x0200 (unitBlock d.stewardDie 2 127) 0 (syn [(32, 1, code), (33, 1, sect), (40, 8, off)]) (d.seen 2 0 2)
  let d := if d.ring.ready && decide (1 < group) then (if d.ring.root then broadcast .abort d else reportRoot .failed d) else d
  match m.sender with
  | some (src, seq) =>
    completionEvent src (if m.reload then 0x0101 else 0x0100) seq MStatus.invalid.code code (words [code]) d
  | none => d

/-! ### Derate records and the ends of holds (R25, R99) -/

/-- Post GUARANTEE_DERATE (R99): the record, the sequence number and the latched set of instances. The LOCKS block, which lies on both
halves, is named by die 4 (log entry 135). -/
def postDerate (f prev cause : Nat) (insts : List Nat) (d : Dev) : Dev :=
  let n := d.locks.derateSeq + 1
  post 0x0400 (unitBlock 4 4 127) 0
    (syn [(32, 1, cause), (34, 2, f), (36, 2, prev), (38, 2, insts.length), (40, 8, n)])
    (d.modLocks fun k => { k with derateF := f, deratePrev := prev, derateCause := cause, derateSeq := n, derateSet := insts })

/-- The instances whose writes are held past their allowance. -/
def heldInstances (d : Dev) : List Nat :=
  (d.locks.holds.filter (·.overrun)).foldl (fun s h => addSet h.inst s) []

/-- GUARANTEE_DERATE of cause 0x07 with a factor (R25). -/
def postHoldDerate (f : Nat) (insts : List Nat) (d : Dev) : Dev :=
  postDerate f (if d.locks.holdF = 0 then 1024 else d.locks.holdF) 7 insts
    (d.modLocks fun k => { k with holdF := f })

/-- Holds end: those that a test names are removed, and the end of each that had outlasted its allowance is posted with
f = 1,024 (R25). -/
def endHolds (p : Hold → Bool) (d : Dev) : Dev :=
  let ended := d.locks.holds.filter p
  let d := d.modLocks fun k => { k with holds := k.holds.filter fun h => !p h }
  (ended.filter (·.overrun)).foldl (fun d h => postHoldDerate 1024 [h.inst] d) d

/-! ### Completions that the device returns (R221) -/

/-- The spans of two address ranges meet. -/
def meets (a n b m : Nat) : Bool := decide (a < b + m ∧ b < a + n)

/-- Endpoint e. -/
def Dev.ep (d : Dev) (e : Nat) : Endpoint := tget {} d.host.ep e

/-- Change endpoint e. -/
def Dev.modEp (d : Dev) (e : Nat) (f : Endpoint → Endpoint) : Dev := d.modHost fun h => { h with ep := tmod {} h.ep e f }

/-- Root port p. -/
def Dev.port (d : Dev) (p : Nat) : RootPort := tget {} d.acc.ports p

/-- Change root port p. -/
def Dev.modPort (d : Dev) (p : Nat) (f : RootPort → RootPort) : Dev := d.modAcc fun a => { a with ports := tmod {} a.ports p f }

/-- Max Payload Size of a port: endpoint 0–1, or 2 + root port. -/
def mpsOf (d : Dev) (port : Nat) : Nat := if port < 2 then (d.ep port).mps else (d.port (port - 2)).mps

/-- Bits of AER's Uncorrectable Error Status that the device sets, as PCI Express numbers them (log entry 141): Poisoned TLP Received,
Completion Timeout, ECRC Error, Unsupported Request Error. -/
def aerPoison : Nat := 12
def aerTimeout : Nat := 14
def aerEcrc : Nat := 19
def aerUr : Nat := 20

/-- AER of a function shows an uncorrectable error. -/
def aerSet (inst b : Nat) (d : Dev) : Dev := d.modInst inst fun i => { i with aerUnc := i.aerUnc ||| 2 ^ b }

/-! ### Requests that leave a chamber undelivered (R21, R97, R98) -/

/-- One completion toward the requester of a read: an endpoint's (0–1) or a root port's (2 + port). -/
def completeTlp (r : HostRead) (status : CplStatus) (bytes : Bytes) (poison : Bool) (d : Dev) : Dev :=
  d.emit (if r.port < 2 then .completion r.port r.tag status bytes poison r.relaxed
    else .portCompletion (r.port - 2) r.tag status bytes poison)

/-- Cut a span into completions: at most Max Payload Size, split at its multiples, which are multiples of 64 bytes (R221). -/
def completionPieces (mps : Nat) : Nat → Nat → Nat → List (Nat × Nat)
  | 0, _, _ => []
  | fuel + 1, a, n => if n = 0 then [] else
      let m := min n (max 1 mps - a % max 1 mps)
      (a, m) :: completionPieces mps fuel (a + m) (n - m)

/-- Successful completions of bytes of a read from address a on, in address order (R221); `bad` marks the parts that are poison. -/
def completeBytes (r : HostRead) (a : Nat) (bs : Bytes) (bad : List (Nat × Nat)) (d : Dev) : Dev :=
  (completionPieces (mpsOf d r.port) bs.length a bs.length).foldl (fun d p =>
    completeTlp r .success ((bs.drop (p.1 - a)).take p.2) (bad.any fun b => meets (p.1 - a) p.2 b.1 b.2) d) d

/-- The read that a host or a device below a root port still waits for is no longer outstanding: it is refused, or what it has not been
sent yet returns as poison. -/
def completeRead (id : Nat) (status : CplStatus) (poison : Bool) (d : Dev) : Dev :=
  match d.host.reads.find? fun r => r.id = id with
  | none => d
  | some r =>
    let d := d.modHost fun h => { h with reads := h.reads.filter fun x => x.id ≠ id }
    let n := r.length - r.sent
    if poison then completeBytes r (r.addr + r.sent) (List.replicate n 0) [(0, n)] d else completeTlp r status [] false d

/-- A request of an instance is counted as refused (R203, R209), and AER of its function shows it (R202). -/
def countUr (inst : Nat) (d : Dev) : Dev :=
  d.modInst inst fun i => { i with ur := satAdd (2 ^ 32 - 1) i.ur 1, aerUnc := i.aerUnc ||| 2 ^ aerUr }

/-- The instance of a read that a host waits for. -/
def hostReader (id : Nat) (d : Dev) : Option Nat := (d.host.reads.find? fun r => decide (r.id = id ∧ r.port < 2)).map (·.inst)

/-- Answer a discarded request: a host's or port's read is completed with Unsupported Request (log entry 17); a posted
write has no answer. -/
def answerDiscarded (w : Waiting) (d : Dev) : Dev :=
  match hostReader w.id d with
  | some i => completeRead w.id .unsupported false (countUr i d)
  | none => completeRead w.id .unsupported false d

/-- Fail a rerouted request whose destination the new map lacks (R98): as at its arrival, a host's request is counted, a posted write
with it. -/
def failRerouted (l : Nat) (w : Waiting) (d : Dev) : Dev :=
  let d := if w.kind = .write ∧ (l % 64 = 32 ∨ l % 64 = 33) then countUr w.inst d else d
  answerDiscarded w d

/-- The requests for controller k that wait in the chambers complete at once when its stack fails (R21): a read returns poison, a write
is discarded. -/
def completeFailed (k : Nat) (d : Dev) : Dev :=
  let hit (w : Waiting) : Bool := decide (w.dest = k)
  let gone := d.locks.tab.flatMap fun e => (e.2.queue.filter hit).map fun w => (e.1, w)
  let d := d.modLocks fun x => { x with tab := x.tab.map fun e => (e.1, { e.2 with queue := e.2.queue.filter fun w => !hit w }) }
  let d := endHolds (fun h => gone.any fun r => h.lock == some r.1 && h.id == r.2.id) d
  gone.foldl (fun d r => completeRead r.2.id .success true d) d

/-! ### An HBM stack fails (R21, R27, R185) -/

/-- Buffered writes that lie in logical stack L are lost as in a back-end failure (R327): each range posts
STORAGE_DESTAGE_LOST, and the commands that wait for it or cover it fail. The STORAGE block is named by die 5 (log entry 135). -/
def stackStorage (L : Nat) (d : Dev) : Dev :=
  let inL (addr n : Nat) : Bool := meets addr n (L * 2 ^ 36) (2 ^ 36)
  let lost := d.storage.buffer.filter fun b => inL b.addr (4096 * b.blocks)
  let d := d.modStorage fun s => { s with
    buffer := s.buffer.filter fun b => !inL b.addr (4096 * b.blocks),
    cmds := s.cmds.map fun c =>
      if (decide (0 < c.reserved) && inL c.addr c.reserved) || lost.any (fun b => b.fuaCmd == some c.id)
      then { c with phase := 6, status := 6, reserved := 0, locked := c.locked && decide (c.opcode = 1), ended := s.nextEnd }
      else if lost.any (fun b => c.covers.contains b.id) then { c with status := 6 } else c,
    nextEnd := s.nextEnd + 1 }
  lost.foldl (fun d b => post 0x0E01 (unitBlock 5 13 127 (some (tget {} d.storage.volumes b.volume).inst)) 0
    (syn [(32, 4, b.blocks), (36, 2, b.volume), (40, 8, b.lba)]) d) d

/-- Sixty-four bytes of a scrub summary (R187). -/
def summaryBytes (k : Nat) (s : Scrub) (L status : Nat) (d : Dev) : Bytes :=
  withCrc (leBytes 8 (L * 2 ^ 36 + s.first * 8192) ++ leBytes 8 (L * 2 ^ 36 + (s.last + 1) * 8192) ++ leBytes 8 s.lines ++
    leBytes 4 s.corrected ++ leBytes 4 s.uncorrectable ++ leBytes 4 s.poisoned ++ leBytes 2 k ++ leBytes 1 s.mode ++
    leBytes 1 status ++ leBytes 8 (s.firstUe.getD (2 ^ 64 - 1)) ++ leBytes 8 d.time.ns.toNat ++
    leBytes 4 (d.canal.lockage - s.startLockage))

/-- A commanded scrub ends: its summary stays in the registers and, when a mailbox command started it, goes into the
completion event, whose first 32 bytes of result it fills. -/
def endScrub (k status : Nat) (d : Dev) : Dev :=
  match (d.ctl k).scrub with
  | none => d
  | some s =>
    let bs := summaryBytes k s ((d.ctl k).logical.getD 0) status d
    let d := d.modCtl k fun c => { c with scrub := none, summary := bs }
    let d := d.csrSet (0x4000038 + k * 0x100000) (d.csrGet (0x4000038 + k * 0x100000) &&& 0xFFFFFFFFFFFFFFFE#64)
    match s.sender with
    | some (src, seq) => completionEvent src 0x0801 seq (if status = 0 then 0 else MStatus.invalid.code) status bs d
    | none => d

/-- Scheduled work is held until the reload of R48 (R21). -/
def holdWork (d : Dev) : Dev :=
  if d.manifest.active.isSome then d.modManifest fun m => { m with workHeld := true } else d

/-- A load between stages 1 and 4 ends with ABORTED (R47). -/
def abortLoad (d : Dev) : Dev :=
  if 1 ≤ d.manifest.stage ∧ d.manifest.stage ≤ 4 then failLoad 0x11 0xFF 0 d else d

/-- What lies in the stack of controller k is lost to the storage service. -/
def dropBuffered (k : Nat) (d : Dev) : Dev :=
  match (d.ctl k).logical with | some L => stackStorage L d | none => d

/-- Controller k is declared failed with a cause (0 errors, 1 training, 2 parity): HBM_STACK_FAIL is posted and forwarded,
scheduled work is held, a load in stages 1 to 4 ends with ABORTED (R47), a scrub of the stack stops, what waits for it in a chamber
completes. -/
def stackFail (k cause : Nat) (d : Dev) : Dev :=
  if (d.ctl k).failed then d
  else
    completeFailed k (abortLoad (dropBuffered k (endScrub k 1 (holdWork (Dev.modHbm (post 0x0802 (unitBlock (k / 2) 6 k) 0
      (syn [(32, 1, k), (33, 1, cause)]) (d.modCtl k fun c => { c with failed := true }))
      fun h => { h with awaitingMap := true })))))

end Sys2Proof.Machine
end

