-- ==== Sys2Proof/Machine/Canal.lean ====
section
/-! DEFINITION. The canal fabric (chapter 3): routers and links, schedule entries, barges and their checks, delivery. The
lockage boundary, where programs change, stands in Machine/Boundary.lean. -/

namespace Sys2Proof.Machine

/-! ### Routers and links (R55) -/

/-- What a router port joins. -/
inductive Attach where
  | router (r p : Nat) (crossing : Bool)
  | unit
  | nothing
  deriving DecidableEq, Repr

/-- The other end of port p of router r (R55). Where a row gives several ports to several ports, the k-th joins the k-th
(log entry 14). -/
def attach (r p : Nat) : Attach :=
  if 28 ≤ r then
    if p < 32 then .router (7 * (p / 8) + 6) (32 + 8 * (r - 28) + p % 8) true
    else if p < (if r = 28 then 60 else 61) then .unit else .nothing
  else
    let d := r / 7
    let k := r % 7
    if k < 4 then
      if p < 34 then .unit
      else if p < 45 then .router (7 * d + 4) (20 + 11 * k + (p - 34)) false
      else if p < 56 then .router (7 * d + 5) (20 + 11 * k + (p - 45)) false
      else .router (7 * d + 6) (8 * k + (p - 56)) false
    else if k < 6 then
      if p < 20 then .unit
      else .router (7 * d + (p - 20) / 11) (34 + 11 * (k - 4) + (p - 20) % 11) false
    else if p < 32 then .router (7 * d + p / 8) (56 + p % 8) false
    else if p < 48 then .router (28 + (p - 32) / 8) (8 * d + p % 8) true
    else if p < 56 then .router (7 * (if d % 2 = 0 then d + 1 else d - 1) + 6) p true
    else .router (7 * (if d < 2 then d + 2 else d - 2) + 6) p true

/-- The die a router lies on. -/
def routerDie (r : Nat) : Nat := if r < 28 then r / 7 else r - 24

/-- Slots from one router's output to the next one's (R56). -/
def hopSlots (crossing : Bool) : Nat := if crossing then 3 else 1

/-- A gate-router port that leads to a ring link (R55). -/
def isRingPort (r p : Nat) : Bool := decide (28 ≤ r ∧ 46 ≤ p ∧ p < 50)

/-! ### Barges (R57, R58) -/

/-- The sideband word of a barge (R57). -/
def Barge.sideband (b : Barge) : Nat :=
  b.kind.toNat + at_ 2 (b2n b.last) + at_ 3 (b2n b.restart) + at_ 4 b.route.toNat + at_ 16 b.inst.toNat +
    at_ 26 b.fill.toNat + at_ 34 b.seq.toNat + at_ 48 b.rsvd.toNat

/-- The CRC of body and sideband (R58). -/
def Barge.goodCrc (b : Barge) : W32 := crc32 (fit 256 b.body ++ leBytes 8 b.sideband)

/-- A barge with its CRC computed. -/
def Barge.sealed (b : Barge) : Barge := { b with body := fit 256 b.body, crc := { b with body := fit 256 b.body }.goodCrc }

/-- A new data barge as a source forms it: kind 1 or 2, its bytes, last; the count is given at injection. -/
def mkBarge (kind : Nat) (route inst : Nat) (bytes : Bytes) (last : Bool) : Barge :=
  { kind := BitVec.ofNat 2 kind, last := last, route := BitVec.ofNat 12 route, inst := BitVec.ofNat 10 inst,
    fill := BitVec.ofNat 8 (bytes.length - 1), body := fit 256 bytes }

/-- The valid bytes of a barge (R57). -/
def Barge.valid (b : Barge) : Bytes := b.body.take (b.fill.toNat + 1)

/-- The bytes of a barge cell: body, sideband, CRC (R297). -/
def Barge.cell (b : Barge) : Bytes := fit 256 b.body ++ leBytes 8 b.sideband ++ leBytes 4 b.crc.toNat

/-- The router's check of an arriving barge (R58): CRC, kind, reserved sideband bits. -/
def Barge.bad (b : Barge) : Bool := decide (b.crc ≠ b.goodCrc) || decide (b.kind = 3) || decide (b.rsvd ≠ 0)

/-! ### Schedule entries (R66–R68, R71) -/

/-- An entry whose outputs are all idle, mark 0: what a bank holds from reset (R79). -/
def idleEntry : BitVec 512 := BitVec.ofNat 512 ((List.range 64).foldl (fun w o => w + 64 * 2 ^ (7 * o)) 0)

/-- The source of output o. -/
def entrySource (e : BitVec 512) (o : Nat) : Nat := bits e.toNat (7 * o + 6) (7 * o)

/-- The mark. -/
def entryMark (e : BitVec 512) : Nat := bits e.toNat 449 448

/-- Index of a bank entry. -/
def bankIndex (router program slot : Nat) : Nat := (router * 8 + program) * 1024 + slot

/-- The overlay entry in force for a router, program and slot, if one is (R71). -/
def overlayEntry (d : Dev) (router program slot : Nat) : Option (BitVec 512) :=
  (d.alternates.filter fun a => d.canal.overlays.contains a.1 && decide (a.2.base = program)).findSome? fun a =>
    (a.2.patch.find? fun e => decide (e.slot = slot ∧ e.router = router)).map (·.entry)

/-- The entry that acts: the overlay where one is in force, else the active bank's. -/
def activeEntry (d : Dev) (router program slot : Nat) : BitVec 512 :=
  (overlayEntry d router program slot).getD (tget idleEntry d.canal.active (bankIndex router program slot))

/-! ### The expect table (R60, R71) -/

/-- The route records of a program of the manifest in force. -/
def programRecords (d : Dev) (program : Nat) : List RouteRec :=
  match d.manifest.active with
  | some m => m.programs.getD program []
  | none => []

/-- The input port of cluster router r at which the records feed the logical tile that the tile at position p runs: a
spare takes the routes of its logical tile (R71). -/
def recordPort (d : Dev) (r p : Nat) : Nat :=
  if r < 28 ∧ r % 7 < 4 ∧ p < 33 then
    let n := 33 * (4 * (r / 7) + r % 7) + p
    match (d.tile n).logical, d.manifest.active with
    | some t, some m =>
      let home := tget {} m.place t
      if home.physical / 33 = n / 33 then home.physical % 33 else p
    | _, _ => p
  else p

/-- The record of the running program for output o of router r in slot s, if it carries traffic. -/
def recordAt (d : Dev) (r o s : Nat) : Option RouteRec :=
  (programRecords d d.program).find? fun x => decide (x.router = r ∧ x.slot = s ∧ x.output = o ∧ x.source < 64)

/-- The source of output o of router r in slot s: the overlay's where one is in force, else the record's (R71). -/
def sourceAt (d : Dev) (r o s : Nat) : Nat :=
  match overlayEntry d r d.program s with
  | some e => entrySource e o
  | none => ((recordAt d r o s).map (·.source)).getD 64

/-- The route that output o of router r carries in slot s of the running program, traced back to the unit that feeds it through the
overlays in force (R71). -/
def routeAt (d : Dev) : Nat → Nat → Nat → Nat → Option Nat
  | 0, _, _, _ => none
  | fuel + 1, r, o, s =>
    let src := sourceAt d r o s
    if 64 ≤ src then none
    else match attach r src with
      | .router r' p' c => if hopSlots c ≤ s then routeAt d fuel r' p' (s - hopSlots c) else none
      | .unit =>
        ((programRecords d d.program).find? fun x =>
          decide (x.router = r ∧ x.slot = s ∧ x.source = recordPort d r src)).map (·.route)
      | .nothing => none

/-- The route that the unit at output `port` of `router` should receive in a delivery slot (R60): the records', or with overlays in
force the traced one. -/
def expected (d : Dev) (router port slot : Nat) : Option Nat :=
  if slot = 0 then none
  else if d.canal.overlays = [] then (recordAt d router port (slot - 1)).map (·.route)
  else routeAt d 16 router port (slot - 1)

/-! ### Errors (R58, R59, R61) -/

/-- Record the last canal error. -/
def canalError (router port slot kind : Nat) (d : Dev) : Dev :=
  d.modCanal fun c => { c with last := { router, port, slot, kind, lockage := c.lockage % 2 ^ 40 } }

/-- What a failed link joins fails (R59): a tile, a cluster control core, or the device. The core's CTRL_CORE_FAIL carries cause 0, a
choice of the model (R368 gives no code for a link: log entry 135). -/
def linkFailed (router port : Nat) (d : Dev) : Dev :=
  if router < 28 ∧ router % 7 < 4 ∧ port < 33 then failUnits [33 * (4 * (router / 7) + router % 7) + port] d
  else if router < 28 ∧ router % 7 < 4 ∧ port = 33 then failCore (3 + 4 * (router / 7) + router % 7) 0 d
  else failDevice 6 d

/-- A CRC failure at a router input: counted in the block, at the input and in its window; the 64th in a window fails the
link (R58, R59). -/
def crcFailure (router port slot route : Nat) (d : Dev) : Dev :=
  let d := d.modCanal fun c => { c with crcCount := satAdd (2 ^ 32 - 1) c.crcCount 1 }
  let d := canalError router port slot 0 d
  let d := post 0x0300 (unitBlock (routerDie router) 3 127) 0
    (syn [(32, 1, router), (33, 1, port), (34, 2, slot), (36, 2, route), (40, 8, d.canal.lockage % 2 ^ 40)]) d
  let was := tget {} d.canal.links (router * 64 + port)
  let now : LinkCrc :=
    { total := satAdd (2 ^ 32 - 1) was.total 1,
      window := (if was.opened.isSome then was.window else 0) + 1,
      opened := some (was.opened.getD d.uptime),
      failed := was.failed || decide (64 ≤ (if was.opened.isSome then was.window else 0) + 1) }
  let d := d.modCanal fun c => { c with links := tset {} c.links (router * 64 + port) { now with window := min 64 now.window } }
  if now.failed ∧ was.failed = false then linkFailed router port d else d

/-! ### Injection (R60, R64) -/

/-- A source injects a barge in the current slot at input `port` of `router`: it gets the route's next sequence number, or
restart with seq 0, and its CRC. -/
def inject (router port : Nat) (half : Bool) (b : Barge) (d : Dev) : Dev :=
  let r := b.route.toNat
  let (b, next) : Barge × BitVec 14 := match tfind d.canal.sendSeq r with
    | some q => ({ b with seq := q, restart := false }, q + 1)
    | none => ({ b with seq := 0, restart := true }, 1)
  d.modCanal fun c => { c with
    sendSeq := tput c.sendSeq r next,
    flights := c.flights ++ [{ router, port, slot := c.slot, half, barge := b.sealed }] }

/-! ### A router's slot (R58, R66, R67, R74) -/

/-- What leaves on the outputs that name a flight's input: onward to the next router, to the attached unit one slot later,
off the device at a ring link, or nowhere. -/
def forward (f : Flight) (b : Barge) (o : Nat) (d : Dev) : Dev :=
  match attach f.router o with
  | .router r p c => d.modCanal fun k => { k with
      flights := k.flights ++ [{ router := r, port := p, slot := f.slot + hopSlots c, half := f.half, barge := b }] }
  | .unit =>
    if isRingPort f.router o then d.emit (.barge (64 * (f.router - 28) + o) b.cell)
    else d.modCanal fun k => { k with
      deliveries := k.deliveries ++ [{ router := f.router, port := o, slot := f.slot + 1, half := f.half, barge := b }] }
  | .nothing => d

/-- One barge at a router input in its slot: checked, then carried to every output whose source is that input. In a dwell
lockage only marked entries run (R74). A bad barge goes on with its reserved sideband bits cleared, a choice of the model (log entry
139). -/
def routeFlight (f : Flight) (d : Dev) : Dev :=
  let e := activeEntry d f.router d.program f.slot
  let d := if f.barge.bad then crcFailure f.router f.port f.slot f.barge.route.toNat d else d
  let b := if f.barge.bad then Barge.sealed { f.barge with kind := 2, rsvd := 0 } else f.barge
  if d.canal.dwell ∧ entryMark e = 0 then d
  else ((List.range 64).filter fun o => decide (entrySource e o = f.port)).foldl (fun d o => forward f b o d) d

/-- Every router takes the barges at its inputs in the current slot, and the slot counter advances; after slot 1,023 it
stands at the lockage boundary (R63). -/
def routerSlot (d : Dev) : Dev :=
  let now := d.canal.flights.filter fun f => f.slot = d.canal.slot
  let d := d.modCanal fun c => { c with flights := c.flights.filter fun f => f.slot ≠ c.slot }
  let d := now.foldl (fun d f => routeFlight f d) d
  d.modCanal fun c => { c with slot := min 1024 (c.slot + 1) }

/-! ### Delivery (R60) -/

/-- Key of a receiving unit. -/
def unitKey (router port : Nat) : Nat := router * 64 + port

/-- A misroute: discarded, counted, reported. -/
def misroute (x : Delivery) (want wantSeq : Nat) (d : Dev) : Dev :=
  let d := d.modCanal fun c => { c with misrouteCount := satAdd 65535 c.misrouteCount 1 }
  let d := canalError x.router x.port x.slot 1 d
  post 0x0301 (unitBlock (routerDie x.router) 3 127) 0
    (syn [(32, 1, x.router), (33, 1, x.port), (34, 2, x.slot), (36, 2, x.barge.route.toNat), (38, 2, want),
      (40, 2, x.barge.seq.toNat), (42, 2, wantSeq)]) d

/-- The receiving unit checks a delivered barge: a data barge must carry the expected route and the next sequence number,
or restart with seq 0; a kind-2 barge is not checked and advances the count; an empty one is no error. What passes waits
in the unit's inbox. Choices of the model (log entry 139): a discarded barge leaves the last seq as it was; a kind-2 barge advances the
count of the route in its own sideband; CANAL_MISROUTE shows route expected 0 in a slot that expects none. -/
def deliver (x : Delivery) (d : Dev) : Dev :=
  let key := unitKey x.router x.port * 4096 + x.barge.route.toNat
  let want := expected d x.router x.port x.slot
  let seq := tget 0 d.canal.recvSeq key
  let accept (next : BitVec 14) (d : Dev) : Dev := d.modCanal fun c => { c with
    recvSeq := tset 0 c.recvSeq key next,
    inbox := tmod [] c.inbox (unitKey x.router x.port) (· ++ [x]) }
  if x.barge.kind = 0 then d
  else if x.barge.kind = 2 then accept (seq + 1) d
  else if want ≠ some x.barge.route.toNat then misroute x (want.getD 0) seq.toNat d
  else if x.barge.restart ∧ x.barge.seq = 0 then accept 1 d
  else if x.barge.seq = seq then accept (seq + 1) d
  else misroute x (want.getD 0) seq.toNat d

/-! ### The commands -/

/-- ROUTER_SLOT (R66, R58, R59, R297). -/
def execRouterSlot (s : State) : Host.Outcome State Fault Refusal := onDev routerSlot s

/-- CRC_WINDOW_CLOSE (R59): 1 ms after it opened, the window closes and its count returns to 0. -/
def execCrcWindowClose (router : Fin 30) (port : Fin 64) (s : State) : Host.Outcome State Fault Refusal :=
  onDev (fun d =>
    let i := router.val * 64 + port.val
    match (tget {} d.canal.links i).opened with
    | some t => if t + 1000000 ≤ d.uptime
        then d.modCanal fun c => { c with links := tmod {} c.links i fun l => { l with window := 0, opened := none } }
        else d
    | none => d) s

/-- BARGE_DELIVERY (R60): the oldest delivered barge is checked by its unit. -/
def execBargeDelivery (s : State) : Host.Outcome State Fault Refusal :=
  onDev (fun d =>
    match d.canal.deliveries with
    | [] => d
    | x :: rest => deliver x (d.modCanal fun c => { c with deliveries := rest })) s

/-- CANAL_SLIP (R56, R61): phase wander beyond ±16 canal cycles at a crossing is posted and fails the device. -/
def execCanalSlip (router : Fin 30) (port : Fin 64) (wander : Int) (s : State) : Host.Outcome State Fault Refusal :=
  onDev (fun d =>
    match attach router.val port.val with
    | .router _ _ true =>
      if wander.natAbs ≤ 16 then d
      else
        let d := d.modCanal fun c => { c with slipCount := satAdd 65535 c.slipCount 1 }
        let d := canalError router.val port.val (d.canal.slot % 1024) 2 d
        let d := post 0x0302 (unitBlock (routerDie router.val) 3 127) 0
          (syn [(32, 1, router.val), (33, 1, port.val), (34, 2, (BitVec.ofInt 16 wander).toNat),
            (40, 8, d.canal.lockage % 2 ^ 40)]) d
        failDevice 6 d
    | _ => d) s

/-- The last error's fields in the order of CANAL_ERR_LAST. -/
def CanalErr.fields (e : CanalErr) : List Nat := [e.router, e.port, e.slot, e.kind, e.lockage]

/-- CMD_CANAL_STATUS (R79). -/
def execCmdCanalStatus (c : Cmd) (s : State) : Host.Outcome State Fault Refusal :=
  onDev (query c { i3c := true } fun d =>
    let k := d.canal
    ok ([k.program, maskOf k.resident, k.lockage, if k.aligned then k.f else 0, if k.aligned then k.fc else 0, k.n, k.cause,
      k.crcCount, k.misrouteCount, k.slipCount] ++ k.last.fields)) s

/-- CMD_CANAL_READ_ENTRY (R79): the overlay is applied for the running program's active bank. -/
def execCmdCanalReadEntry (c : Cmd) (program bank router slot : Nat) (s : State) : Host.Outcome State Fault Refusal :=
  onDev (query c {} fun d =>
    if !d.canal.resident.contains program || decide (2 ≤ bank ∨ 30 ≤ router ∨ 1024 ≤ slot) then fail .invalid
    else
      let e := if bank = 1 then tget idleEntry d.canal.shadow (bankIndex router program slot)
        else if program = d.program then activeEntry d router program slot
        else tget idleEntry d.canal.active (bankIndex router program slot)
      { status := .ok, result := leBytes 64 e.toNat }) s

/-- The group size of the manifest in force; 1 without one. -/
def Dev.groupSize (d : Dev) : Nat := match d.manifest.active with | some m => m.groupSize | none => 1

/-- step_lockages of the manifest in force; 0 without one. -/
def Dev.stepLockages (d : Dev) : Nat := match d.manifest.active with | some m => m.stepLockages | none => 0

/-- CMD_CANAL_SWITCH (R79): a switch at the next step-start lockage. -/
def execCmdCanalSwitch (c : Cmd) (program : Nat) (s : State) : Host.Outcome State Fault Refusal :=
  onDev (mailbox c { block := some 3 } fun d =>
    if 1 < d.groupSize then (fail .notPermitted, d)
    else if !d.canal.resident.contains program then (fail .invalid, d)
    else (ok [], d.modCanal fun k => { k with switchDue := some program })) s

/-- CMD_CANAL_CLEAR_COUNTS (R79): clears CANAL_ERR_COUNT. -/
def execCmdCanalClearCounts (c : Cmd) (s : State) : Host.Outcome State Fault Refusal :=
  onDev (mailbox c { block := some 3 } fun d =>
    (ok [], d.modCanal fun k => { k with crcCount := 0, misrouteCount := 0, slipCount := 0 })) s

end Sys2Proof.Machine
end

