-- ==== Sys2Proof/Machine/Gf.lean ====
section
/-! DEFINITION. GF(2^8): the field of R149 (0x11D) with the HBM code word of R178, and the field and block cipher of
FIPS 197 with the GCM of SP 800-38D, which R3 names. The ciphers' steps are PRESUMED from those standards (log entry 9). -/

namespace Sys2Proof.Machine

/-- Multiply by x and reduce by the low byte of the field polynomial. -/
def gfDouble (poly : Byte) (a : Byte) : Byte := if a.msb then (a <<< 1) ^^^ poly else a <<< 1

/-- Product over the low `n` bits of `b`, in the field of `poly`. -/
def gfMulN (poly : Byte) : Nat → Byte → Byte → Byte
  | 0, _, _ => 0
  | n + 1, a, b => (if b.getLsbD 0 then a else 0) ^^^ gfMulN poly n (gfDouble poly a) (b >>> 1)

/-- Multiplication in GF(2^8) with p(x) = x^8 + x^4 + x^3 + x^2 + 1 (R149). -/
def gfMul (a b : Byte) : Byte := gfMulN 0x1D#8 8 a b

/-- a^n in the field of R149. -/
def gfPow (a : Byte) : Nat → Byte
  | 0 => 1
  | n + 1 => gfMul a (gfPow a n)

/-- α^n with α = 0x02 (R149). -/
def gfAlpha (n : Nat) : Byte := gfPow 2#8 n

/-- The inverse: a^254. -/
def gfInv (a : Byte) : Byte := gfPow a 254

/-- The polynomial Σ c_i x^i at a point, by Horner's rule, lowest coefficient first. -/
def gfEval (c : Bytes) (x : Byte) : Byte := c.foldr (fun ci acc => ci ^^^ gfMul x acc) 0

/-- The four syndromes S_j = c(α^j) of an HBM code word (R178): check bytes c0–c3, then the 64 data bytes. -/
def syndromes (check data : Bytes) : Bytes := (List.range 4).map fun j => gfEval (check ++ data) (gfAlpha j)

/-- The generator of R178: (x − 1)(x − α)(x − α^2)(x − α^3), coefficients x^0 to x^3 (x^4 has coefficient 1). -/
def genMulRoot (g : Bytes) (r : Byte) : Bytes :=
  List.zipWith (· ^^^ ·) ((0 : Byte) :: g) ((g.map (gfMul r)) ++ [0])

def generator : Bytes := (genMulRoot (genMulRoot (genMulRoot (genMulRoot [1] 1) 2) 4) 8).take 4

/-- One step of the division: the remainder r(x)·x + d modulo the generator. -/
def remStep (r : Bytes) (d : Byte) : Bytes :=
  let top := r.getD 3 0
  List.zipWith (fun a g => a ^^^ gfMul top g) (d :: r.take 3) generator

/-- The check bytes that make the code word divisible (R178): the remainder of Σ data_b x^(b+4). -/
def checkBytes (data : Bytes) : Bytes :=
  (data.reverse ++ [0, 0, 0, 0]).foldl remStep [0, 0, 0, 0]

/-- Check bytes of a poisoned line: the correct ones XORed with 0x5A each (R179). -/
def poisonCheck (data : Bytes) : Bytes := (checkBytes data).map (· ^^^ 0x5A#8)

/-- The poison syndromes P_j = 0x5A · (1 ⊕ α^j ⊕ α^2j ⊕ α^3j) (R179). -/
def poisonSyndrome (j : Nat) : Byte := gfMul 0x5A#8 (1 ^^^ gfAlpha j ^^^ gfAlpha (2 * j) ^^^ gfAlpha (3 * j))

/-- What a read of an HBM line finds (R178). -/
inductive EccOutcome where
  | clean
  | corrected (symbol : Nat) (pattern : Byte)
  | poisoned
  | uncorrectable
  deriving DecidableEq, Repr

/-- The classification of the syndromes (R178). -/
def classify (s : Bytes) : EccOutcome :=
  let s0 := s.getD 0 0
  let s1 := s.getD 1 0
  let s2 := s.getD 2 0
  let s3 := s.getD 3 0
  if s.all (· == 0) then .clean
  else if s0 = 0 then
    if s1 = poisonSyndrome 1 ∧ s2 = poisonSyndrome 2 ∧ s3 = poisonSyndrome 3 then .poisoned else .uncorrectable
  else
    match (List.range 68).find? fun i =>
      s1 == gfMul s0 (gfAlpha i) && s2 == gfMul s1 (gfAlpha i) && s3 == gfMul s2 (gfAlpha i) with
    | some i => .corrected i s0
    | none => .uncorrectable

/-! ### AES-256 and GCM (FIPS 197, SP 800-38D) -/

/-- Multiplication in the field of FIPS 197 (0x11B). -/
def aesMul (a b : Byte) : Byte := gfMulN 0x1B#8 8 a b

def aesPow (a : Byte) : Nat → Byte
  | 0 => 1
  | n + 1 => aesMul a (aesPow a n)

/-- The S-box: the inverse, then the affine map. -/
def sbox (a : Byte) : Byte :=
  let b := aesPow a 254
  b ^^^ b.rotateLeft 1 ^^^ b.rotateLeft 2 ^^^ b.rotateLeft 3 ^^^ b.rotateLeft 4 ^^^ 0x63#8

/-- The inverse S-box. -/
def sboxInv (a : Byte) : Byte :=
  aesPow (a.rotateLeft 1 ^^^ a.rotateLeft 3 ^^^ a.rotateLeft 6 ^^^ 0x05#8) 254

/-- Expansion of the 8-word key to 60 words, newest first. -/
def keyWords : Nat → List Bytes → List Bytes
  | 0, ws => ws
  | n + 1, ws =>
    let i := ws.length
    let prev := ws.getD 0 []
    let back := ws.getD 7 []
    let t :=
      if i % 8 = 0 then
        List.zipWith (· ^^^ ·) ((prev.drop 1 ++ prev.take 1).map sbox) [aesPow 2 (i / 8 - 1), 0, 0, 0]
      else if i % 8 = 4 then prev.map sbox else prev
    keyWords n (List.zipWith (· ^^^ ·) back t :: ws)

def chunks4 : Nat → Bytes → List Bytes
  | 0, _ => []
  | n + 1, bs => bs.take 4 :: chunks4 n (bs.drop 4)

/-- The 15 round keys of 16 bytes of a 32-byte key. -/
def roundKeys (key : Bytes) : List Bytes :=
  let ws := (keyWords 52 (chunks4 8 key).reverse).reverse
  (List.range 15).map fun r => ((ws.drop (4 * r)).take 4).flatten

def xorBytes (a b : Bytes) : Bytes := List.zipWith (· ^^^ ·) a b

/-- Byte r of column c goes to column c − r (ShiftRows). -/
def shiftRows (s : Bytes) : Bytes := (List.range 16).map fun i => s.getD ((i + 4 * (i % 4)) % 16) 0

def shiftRowsInv (s : Bytes) : Bytes := (List.range 16).map fun i => s.getD ((i + 16 - 4 * (i % 4)) % 16) 0

def mixWith (k : List Byte) (s : Bytes) : Bytes :=
  (List.range 16).map fun i =>
    let c := i / 4 * 4
    (List.range 4).foldl (fun acc j => acc ^^^ aesMul (k.getD ((j + 4 - i % 4) % 4) 0) (s.getD (c + j) 0)) 0

/-- AES-256 of one block (FIPS 197). -/
def aesEncrypt (key block : Bytes) : Bytes :=
  let rk := roundKeys key
  let s0 := xorBytes block (rk.getD 0 [])
  let s := (List.range 13).foldl
    (fun s r => xorBytes (mixWith [2, 3, 1, 1] (shiftRows (s.map sbox))) (rk.getD (r + 1) [])) s0
  xorBytes (shiftRows (s.map sbox)) (rk.getD 14 [])

/-- The inverse cipher of one block (FIPS 197). -/
def aesDecrypt (key block : Bytes) : Bytes :=
  let rk := roundKeys key
  let s0 := xorBytes block (rk.getD 14 [])
  let s := (List.range 13).foldl
    (fun s r => mixWith [14, 11, 13, 9] (xorBytes ((shiftRowsInv s).map sboxInv) (rk.getD (13 - r) []))) s0
  xorBytes ((shiftRowsInv s).map sboxInv) (rk.getD 0 [])

/-- One step of the GF(2^128) product of SP 800-38D. -/
def ghMulN : Nat → BitVec 128 → BitVec 128 → BitVec 128
  | 0, _, _ => 0
  | n + 1, v, x =>
    let v' := if v.getLsbD 0 then (v >>> 1) ^^^ (0xE1#128 <<< 120) else v >>> 1
    (if x.getMsbD 0 then v else 0) ^^^ ghMulN n v' (x <<< 1)

def blockBits (b : Bytes) : BitVec 128 := BitVec.ofNat 128 (beNat (fit 16 b))

/-- Cut a byte string into 16-byte blocks, the last padded with zeros. -/
def blocks16 : Nat → Bytes → List Bytes
  | 0, _ => []
  | n + 1, bs => match bs with
    | [] => []
    | _ => fit 16 (bs.take 16) :: blocks16 n (bs.drop 16)

def ghash (h : BitVec 128) (bs : List Bytes) : BitVec 128 :=
  bs.foldl (fun y b => ghMulN 128 h (y ^^^ blockBits b)) 0

/-- Counter-mode key stream block i for a 96-bit IV. -/
def gcmStream (key iv : Bytes) (i : Nat) : Bytes := aesEncrypt key (fit 12 iv ++ beBytes 4 i)

/-- Counter-mode encryption or decryption (SP 800-38D), counters from 2. -/
def gcmCtr (key iv text : Bytes) : Bytes :=
  let n := (text.length + 15) / 16
  let ks := ((List.range n).map fun i => gcmStream key iv (i + 2)).flatten
  xorBytes text ks

/-- The 16-byte GCM tag over additional data and ciphertext. -/
def gcmTag (key iv aad cipher : Bytes) : Bytes :=
  let h := blockBits (aesEncrypt key (List.replicate 16 0))
  let bl := blocks16 ((aad.length + 15) / 16) aad ++ blocks16 ((cipher.length + 15) / 16) cipher ++
    [beBytes 8 (8 * aad.length) ++ beBytes 8 (8 * cipher.length)]
  xorBytes (beBytes 16 (ghash h bl).toNat) (gcmStream key iv 1)

/-- A 256-bit key as its 32 bytes, first byte most significant (FIPS 197 order). -/
def keyBytes (k : BitVec 256) : Bytes := beBytes 32 k.toNat

end Sys2Proof.Machine
end

