-- ==== Sys2Proof/Machine/TileFault.lean ====
section
/-! DEFINITION. Faults of tiles (R124–R127) and the basin's code (R110), which memory accesses of every kind meet. -/

namespace Sys2Proof.Machine

/-! ### A tile's parts (R103) -/

/-- Stream s of a tile. -/
def Tile.stream (t : Tile) (s : Nat) : Stream := tget {} t.streams s

/-- Change stream s. -/
def Tile.modStream (t : Tile) (s : Nat) (f : Stream → Stream) : Tile := { t with streams := tmod {} t.streams s f }

/-- The cluster of a physical tile. -/
def clusterOf (n : Nat) : Nat := n / 33

/-- The tile whose state a paired follower shares: its leader. -/
def Dev.leader (d : Dev) (n : Nat) : Nat := if (d.tile n).follower then ((d.tile n).pair.getD n) else n

/-! ### Faults (R124–R127) -/

/-- A stream halts with a class (R13): under actions 1 and 2 with the restart flag it restarts at the next step-start lockage. -/
def Stream.halt (st : Stream) (cls : Nat) (restart : Bool) : Stream :=
  { st with state := 4, wait := .none, fault := BitVec.ofNat 16 cls, policyRestart := st.policyRestart || restart }

/-- The members of the pair whose own residue or parity checker has reported. -/
def reporters (n : Nat) (d : Dev) : List Nat := (n :: (d.tile n).pair.toList).filter fun m => (d.tile m).reported

/-- The action of a class for a tile, with the action that it has without a policy: in paired mode FAIL_TILE without a reporting member
acts as SUSPECT (R126). -/
def tileAction (cls default n : Nat) (d : Dev) : Nat :=
  let a := (d.policy cls default).action
  if a = 3 ∧ (d.tile n).pair.isSome ∧ reporters n d = [] then 2 else a

/-- Actions 3 and 4 wait for the next lockage boundary (R127); FAIL_TILE names the reporting members of a pair (R126). -/
def demandAction (a n : Nat) (d : Dev) : Dev :=
  let failing := if (d.tile n).pair.isSome ∧ a = 3 then reporters n d else [n]
  if 3 ≤ a then failing.foldl (fun d m => d.modTile m fun t => { t with actionDue := max t.actionDue a }) d else d

/-- Post a record of a tile; while its cluster control core restarts, the record waits for it (R127). -/
def postTile (n : Nat) (r : ErrorRecord) (grave : Bool) (d : Dev) : Dev :=
  let k := 3 + clusterOf n
  if (tget {} d.ctrl.cores k).state = 2
    then d.modCtrl fun c => { c with cores := tmod {} c.cores k fun x => { x with waiting := x.waiting ++ [r] } }
    else postRecord r grave d

/-- A tile fault: record, last fault, counts, the stream halted (all of them when the pair has diverged), and the action of
the class's policy. `stamp` gives the record a detection time other than now. -/
def tileFault (cls n : Nat) (s : Option Nat) (pc : Nat) (op : Word) (halt : List Nat) (d : Dev) (stamp : ErrorRecord → ErrorRecord := id) : Dev :=
  let a := tileAction cls 1 n d
  let restart := (d.policy cls 1).restart && decide (a ≤ 2)
  let r := stamp (mkRecord cls (d.unitTile n) 0 (syn [(32, 1, s.getD 255), (34, 2, pc), (40, 8, op.toNat)]) d)
  let d := d.modTile n fun t => { t with
    lastFault := some (BitVec.ofNat 16 cls, s, pc, op.setWidth 8),
    checks := if cls = 0x504 then satAdd 65535 t.checks 1 else t.checks,
    poisons := if cls = 0x503 then satAdd 65535 t.poisons 1 else t.poisons }
  let d := d.modTile (d.leader n) fun t => halt.foldl (fun t i => t.modStream i fun st => st.halt cls restart) t
  let d := postTile n r (decide (3 ≤ a)) (demandAction a n d)
  if a = 2 ∨ a = 3 then suspect 1 0xFFFF d else d

/-! ### The basin's code (R110) -/

/-- The words of a basin span that have an error of a kind: 1 single, 2 double. -/
def Tile.errors (t : Tile) (a n kind : Nat) : List Nat :=
  (t.basinErr.filter fun e => decide (a / 8 ≤ e.1 ∧ e.1 < (a + n + 7) / 8 ∧ e.2 = kind)).map (·.1)

/-- A read of a basin span corrects single errors, counted, and poisons the lines of double ones. -/
def Tile.decodeSpan (t : Tile) (a n : Nat) : Tile :=
  if t.basinErr = [] then t
  else
    { t with
      corrected := satAdd (2 ^ 32 - 1) t.corrected (t.errors a n 1).length,
      basinErr := tclear t.basinErr (a / 8) ((a + n + 7) / 8),
      poison := (t.errors a n 2).foldl (fun p w => tset 0 p (w / 8) 1) t.poison }

/-- A line of the span is poisoned. -/
def Tile.poisoned (t : Tile) (a n : Nat) : Bool :=
  t.poison.any fun e => decide (a / 64 ≤ e.1 ∧ e.1 < (a + n + 63) / 64 ∧ e.2 = 1)

/-- Bytes of the basin. -/
def Tile.bytes (t : Tile) (a n : Nat) : Bytes := tspan 0 t.basin a n

/-- Write whole lines of the basin: their poison clears. -/
def Tile.store (t : Tile) (a : Nat) (bs : Bytes) : Tile :=
  { t with basin := tputs 0 t.basin a bs, basinErr := tclear t.basinErr (a / 8) ((a + bs.length) / 8),
           poison := tclear t.poison ((a + 63) / 64) ((a + bs.length) / 64) }

/-- The basin spans that an op of a tile reads: each double error posts TILE_CHECK (R110). -/
def readSpans (n : Nat) (s : Option Nat) (pc : Nat) (w : Word) (spans : List (Nat × Nat)) (d : Dev) : Dev :=
  spans.foldl (fun d r =>
    let found := ((d.tile n).errors r.1 r.2 2).isEmpty
    let d := d.modTile n fun t => t.decodeSpan r.1 r.2
    if found then d else tileFault 0x504 n s pc w [] d) d

end Sys2Proof.Machine
end

