-- ==== Sys2Proof/Machine/Memory.lean ====
section
/-! DEFINITION. Memory as a whole (R18–R21, chapter 8): where an address lands, master copies (R388), the HBM code and its
errors, the merge buffer, the wharf, basin lines, and the reads and writes that every engine shares. -/

namespace Sys2Proof.Machine

/-! ### Where an address lands (R18, R19, R172, R174) -/

/-- What lies behind a device address. -/
inductive Place where
  | hbm (k off : Nat)
  | wharf (ch addr : Nat)
  | basin (tile off : Nat)
  | register (off : Nat)
  | unmapped
  deriving DecidableEq, Repr

def wharfBase : Nat := 0x010000000000
def basinBase : Nat := 0x080000000000
def csrBase : Nat := 0x0C0000000000

/-- The controller that serves logical stack L (R172). -/
def Dev.ctlOf (d : Dev) (L : Nat) : Option Nat := (List.range 8).find? fun k => (d.ctl k).logical == some L

/-- The wharf order (R174). -/
def wharfOrder : List Nat := [0, 6, 1, 7, 2, 8, 3, 9, 4, 10, 5, 11]

/-- Wharf channel c. -/
def Dev.wharfCh (d : Dev) (c : Nat) : WharfCh := tget {} d.wharf.ch c

/-- Change wharf channel c. -/
def Dev.modWharfCh (d : Dev) (c : Nat) (f : WharfCh → WharfCh) : Dev :=
  d.modWharf fun w => { w with ch := tmod {} w.ch c f }

/-- The channels in use, in wharf order: a failed one keeps its place. -/
def Dev.wharfUsed (d : Dev) : List Nat := wharfOrder.filter fun c => decide (2 ≤ (d.wharfCh c).state)

/-- The capacity C of a channel in use, in bytes. -/
def Dev.wharfCapacity (d : Dev) : Nat :=
  match d.wharfUsed with | c :: _ => (d.wharfCh c).capacity * 2 ^ 30 | [] => 0

/-- The tile that serves logical tile t's window: an unfailed leader (R19). -/
def Dev.tileOf (d : Dev) (t : Nat) : Option Nat :=
  (d.tiles.find? fun e => e.2.logical == some t && !e.2.failed && !e.2.follower).map (·.1)

/-- Where a device address lands. -/
def place (d : Dev) (a : Nat) : Place :=
  if a < 2 ^ 39 then
    match d.ctlOf (a / 2 ^ 36) with | some k => .hbm k (a % 2 ^ 36) | none => .unmapped
  else if wharfBase ≤ a ∧ a < 0x040000000000 then
    if d.wharfCapacity = 0 then .unmapped
    else match d.wharfUsed[(a - wharfBase) / d.wharfCapacity]? with | some c => .wharf c a | none => .unmapped
  else if basinBase ≤ a ∧ a < basinBase + 2 ^ 30 then
    match d.tileOf ((a - basinBase) / 0x200000) with | some n => .basin n ((a - basinBase) % 0x200000) | none => .unmapped
  else if csrBase ≤ a ∧ a < csrBase + 2 ^ 28 then .register (a - csrBase)
  else .unmapped

/-- The size of the piece around an address within which the place does not change: logical stack, wharf channel, window. -/
def pieceSize (d : Dev) (a : Nat) : Nat :=
  if a < 2 ^ 39 then 2 ^ 36 - a % 2 ^ 36
  else if wharfBase ≤ a ∧ a < 0x040000000000 ∧ 0 < d.wharfCapacity then d.wharfCapacity - (a - wharfBase) % d.wharfCapacity
  else 0x200000 - a % 0x200000

/-- The pieces of a span, first address and length; more than 3,072 pieces do not occur in a span of the memory map. -/
def pieces (d : Dev) : Nat → Nat → Nat → List (Nat × Nat)
  | 0, _, _ => []
  | fuel + 1, a, n => if n = 0 then [] else
      let m := min n (pieceSize d a)
      (a, m) :: pieces d fuel (a + m) (n - m)

/-- Every byte of a span has memory behind it: HBM, wharf or a served basin window (R20). -/
def spanMapped (d : Dev) (a n : Nat) : Bool :=
  decide (a + n ≤ 2 ^ 48) && (pieces d 4096 a n).all (fun p => match place d p.1 with
    | .hbm _ _ | .wharf _ _ | .basin _ _ => true
    | _ => false) && decide (((pieces d 4096 a n).map (·.2)).sum = n)

/-! ### Reserved regions (R173, R189, R191, R387) -/

/-- The size of the HBM region reported (R21). -/
def Dev.hbmSize (d : Dev) : Nat := if d.hbm.reducedMap then 7 * 2 ^ 36 else 2 ^ 39

/-- Base of the manifest staging region (R173). -/
def Dev.stagingBase (d : Dev) : Nat := d.hbmSize - 0x4000000

/-- THRESHOLDS of the manifest in force. -/
def Dev.thr (d : Dev) : Thresholds := match d.manifest.active with | some m => m.thr | none => {}

/-- The reserved region of a kind in the manifest in force. -/
def Dev.region (d : Dev) (kind : Nat) : Option Region :=
  match d.manifest.active with | some m => m.regions.find? fun r => r.kind = kind | none => none

/-- The span touches a test granule. -/
def meetsGranule (a n : Nat) : Bool := (List.range 8).any fun L => meets a n (L * 2 ^ 36) 0x10000

/-- The span touches a region that R191 keeps from outside requests, except the kinds listed. -/
def reservedSpan (d : Dev) (allow : List Nat) (a n : Nat) : Bool :=
  meetsGranule a n || meets a n d.stagingBase 0x4000000 ||
    (match d.manifest.active with
     | some m => (m.regions.any fun r => !allow.contains r.kind && meets a n r.base r.size) ||
         m.thr.masters.any (fun r => meets a n r.twin r.size)
     | none => false)

/-- An outside request may use the span: mapped and not reserved. `pfRead`: a read by a physical function, which may read
the TRACE region. -/
def outsideSpan (d : Dev) (pfRead : Bool) (a n : Nat) : Bool :=
  spanMapped d a n && !reservedSpan d (if pfRead then [2] else []) a n

/-! ### Master copies (R387, R388) -/

/-- The master region that holds an address, with the index of its first chunk. -/
def masterAt : List MasterRegion → Nat → Nat → Option (MasterRegion × Nat)
  | [], _, _ => none
  | r :: rs, c, a => if r.base ≤ a ∧ a < r.base + r.size then some (r, c) else masterAt rs (c + r.size / 65536) a

/-- The master chunk of an address, if it is a master address. -/
def chunkOf (d : Dev) (a : Nat) : Option Nat :=
  (masterAt d.thr.masters 0 a).map fun r => r.2 + (a - r.1.base) / 65536

/-- The copy of an address: the twin when `twin`, itself otherwise. -/
def copyOf (d : Dev) (twin : Bool) (a : Nat) : Nat :=
  match masterAt d.thr.masters 0 a with
  | some r => if twin then r.1.twin + (a - r.1.base) else a
  | none => a

/-- The committed bit of a chunk: true selects the twin. -/
def committed (d : Dev) (c : Nat) : Bool := decide (tget 0 d.rel.committed c = 1)

/-- Where a read of an address goes: the committed copy of a master chunk. -/
def readAt (d : Dev) (a : Nat) : Nat :=
  match chunkOf d a with | some c => copyOf d (committed d c) a | none => a

/-- Where a write of an address goes: the pending copy of a master chunk. -/
def writeAt (d : Dev) (a : Nat) : Nat :=
  match chunkOf d a with | some c => copyOf d (!committed d c) a | none => a

/-- The first address of a master chunk, in the base. -/
def chunkBase : List MasterRegion → Nat → Option MasterRegion × Nat
  | [], _ => (none, 0)
  | r :: rs, c => if c < r.size / 65536 then (some r, 65536 * c) else chunkBase rs (c - r.size / 65536)

/-- Address of a chunk's base copy or twin copy. -/
def chunkCopy (d : Dev) (c : Nat) (twin : Bool) : Nat :=
  match chunkBase d.thr.masters c with
  | (some r, o) => (if twin then r.twin else r.base) + o
  | (none, _) => 0

/-- Chunks of the master space. -/
def Dev.chunks (d : Dev) : Nat := (d.thr.masters.map fun r => r.size / 65536).sum

/-! ### HBM lines (R178–R180, R184, R185) -/

/-- Checker test mode acts on a line of the controller's test granule (R188). -/
def testTarget (k line : Nat) (d : Dev) : Bool :=
  decide (line < 1024) && bit (d.csrGet (0x4000098 + k * 0x100000)).toNat 10

/-- The 64 stored data bytes of a line. -/
def lineData (d : Dev) (k line : Nat) : Bytes := tspan 0 d.mem (k * 2 ^ 36 + 64 * line) 64

/-- The four stored check bytes of a line. -/
def lineCheck (d : Dev) (k line : Nat) : Bytes := tspan 0 d.hbm.check (4 * (k * 2 ^ 30 + line)) 4

/-- Store data and check bytes of a line. -/
def storeLine (k line : Nat) (data check : Bytes) (d : Dev) : Dev :=
  let d := { d with mem := tputs 0 d.mem (k * 2 ^ 36 + 64 * line) data }
  d.modHbm fun h => { h with check := tputs 0 h.check (4 * (k * 2 ^ 30 + line)) check, found := h.found.filter fun e => e != (k, line) }

/-- Store a good line. -/
def putLine (k line : Nat) (data : Bytes) (d : Dev) : Dev := storeLine k line data (checkBytes data) d

/-- Store a poisoned line (R179). -/
def poisonLine (k line : Nat) (data : Bytes) (d : Dev) : Dev := storeLine k line data (poisonCheck data) d

/-- The line of device addresses that a controller's line is: bits 38:6. -/
def deviceLine (d : Dev) (k line : Nat) : Nat := ((d.ctl k).logical.getD 0) * 2 ^ 30 + line

/-- The first entry with a repeat count of 1 is replaced (R184). -/
def replaceOne (e : CeEntry) : List CeEntry → Option (List CeEntry)
  | [] => none
  | x :: xs => if x.rep = 1 then some (xs ++ [e]) else (replaceOne e xs).map (x :: ·)

/-- A correction enters the correctable-error log of a controller (R184), entries oldest first; whether it was dropped. -/
def logCe (e : CeEntry) (log : List CeEntry) : List CeEntry × Bool :=
  if log.any fun x => x.line = e.line then
    (log.map fun x => if x.line = e.line then { x with rep := satAdd 255 x.rep 1 } else x, false)
  else if log.length < 32 then (log ++ [e], false)
  else match replaceOne e log with
    | some l => (l, false)
    | none => (log, true)

/-- The whole second of cluster time (R185). -/
def Dev.second (d : Dev) : Nat := d.time.ns.toNat / 1000000000

/-- A corrected read: counted, logged, and HBM_CE_RATE once for the second in which the threshold is passed (R180, R185). -/
def countCe (k line sym : Nat) (pat : Byte) (d : Dev) : Dev :=
  let e : CeEntry := { line := deviceLine d k line, symbol := sym, pattern := pat, rep := 1, time := d.time.ns }
  let l := logCe e (d.ctl k).log
  let fresh := (d.ctl k).ceEpoch ≠ d.second
  let n := (if fresh then 0 else (d.ctl k).ceSecond) + 1
  let was := !fresh && (d.ctl k).cePosted
  let past := d.manifest.active.isSome && decide (d.thr.hbmCeLimit < n) && !was
  let d := d.modCtl k fun c => { c with
    ceCount := satAdd (2 ^ 32 - 1) c.ceCount 1, log := l.1, ceEpoch := d.second, ceSecond := n, cePosted := was || past }
  let d := if l.2 then d.seen 6 k 4 else d
  if past then post 0x0801 (unitBlock (k / 2) 6 k) 0 (syn [(32, 8, n), (40, 8, d.thr.hbmCeLimit)]) d else d

/-- The first detection of an uncorrectable line: counted and posted with its syndromes and source; 16 on distinct lines
within 1 s fail the controller (R179, R185). -/
def countUe (k line source : Nat) (s : Bytes) (op : Word) (d : Dev) : Dev :=
  let w := ((d.ctl k).ueWindow.filter fun e => decide (d.uptime < e.2 + 1000000000) && e.1 != line) ++ [(line, d.uptime)]
  let d := d.modCtl k fun c => { c with ueCount := satAdd 65535 c.ueCount 1, ueWindow := w }
  let d := postPolicy 0x0800 (unitBlock (k / 2) 6 k) op
    (fit 4 s ++ leBytes 1 source ++ [0, 0, 0] ++ leBytes 8 (64 * deviceLine d k line)) d
  if 16 ≤ w.length then stackFail k 0 d else d

/-- A line is found uncorrectable: it is poisoned, or left as it is by a scrub in mode 0. Its first detection alone posts and
counts (R179; log entry 130). -/
def detectUe (k line source : Nat) (s : Bytes) (op : Word) (data : Bytes) (writeBack : Bool) (d : Dev) : Dev :=
  let again := d.hbm.found.contains (k, line)
  let d := if writeBack then poisonLine k line data d else d.modHbm fun h => { h with found := if again then h.found else (k, line) :: h.found }
  if again then d else countUe k line source s op d

/-- Exclusive or of one byte into a byte string. -/
def xorAt (bs : Bytes) (i : Nat) (p : Byte) : Bytes := bs.set i (bs.getD i 0 ^^^ p)

/-- The outcome code of HBM_TEST_CTRL. -/
def EccOutcome.code : EccOutcome → Nat
  | .clean => 0
  | .corrected _ _ => 1
  | .uncorrectable => 2
  | .poisoned => 3

/-- A decoded line: its data, whether it is poison, and what the decoder found. -/
structure LineRead where
  data : Bytes
  poison : Bool
  outcome : EccOutcome
  deriving DecidableEq, Repr

/-- Read and decode a line (R178–R180). `writeBack`: a corrected line is written back and an uncorrectable one poisoned, as
every read does but a scrub in mode 0. In test mode a correction or an error in the granule updates the outcome and the syndromes of
HBM_TEST_CTRL alone (R188). -/
def readLine (k line source : Nat) (op : Word) (writeBack : Bool) (d : Dev) : LineRead × Dev :=
  let data := lineData d k line
  let check := lineCheck d k line
  let s := syndromes check data
  let quiet := testTarget k line d
  let found := classify s
  let d := if quiet && found != .clean
    then d.modCtl k fun c => { c with testOutcome := found.code, testSyndrome := BitVec.ofNat 32 (leNat s) } else d
  match found with
  | .clean => ({ data, poison := false, outcome := .clean }, d)
  | .poisoned => ({ data, poison := true, outcome := .poisoned }, d)
  | .corrected i p =>
    let good := if i < 4 then data else xorAt data (i - 4) p
    let d := if quiet then d else countCe k line i p (if writeBack then putLine k line good d else d)
    ({ data := good, poison := false, outcome := .corrected i p }, d)
  | .uncorrectable =>
    let d := if quiet then d else detectUe k line source s op data writeBack d
    ({ data, poison := true, outcome := .uncorrectable }, d)

/-! ### The merge buffer (R182, R183) -/

/-- Merge tokens of controller k that the slot plan gives lock l. -/
def planTokens (d : Dev) (k l : Nat) : Nat := match d.manifest.active with | some m => tget 0 m.tokens (128 * k + l) | none => 0

/-- Tokens of controller k that lock l has free (R183). -/
def freeTokens (d : Dev) (k l : Nat) : Nat := planTokens d k l - tget 0 (d.lock l).tokensUsed k

/-- Bytes laid on a line: those under the mask. -/
def overlay (e : MergeEntry) (data : Bytes) : Bytes :=
  (List.range 64).map fun i => if e.mask.getLsbD i then tget 0 e.bytes i else data.getD i 0

/-- A lock's token for controller k returns (R183). -/
def returnToken (k : Nat) (lock : Option Nat) (d : Dev) : Dev :=
  match lock with
  | some l => d.modLock l fun x => { x with tokensUsed := tmod 0 x.tokensUsed k fun n => n - 1 }
  | none => d

/-- A merge entry retires: the line is read, merged, re-encoded and written; an old line found uncorrectable or poisoned, or
a poisoned write, leaves the line poisoned (R179, R182). -/
def retireEntry (k : Nat) (e : MergeEntry) (d : Dev) : Dev :=
  let r := readLine k e.line 1 e.operation true d
  let d := r.2
  let data := overlay e r.1.data
  let d := if r.1.poison ∨ e.poison then poisonLine k e.line data d else putLine k e.line data d
  let d := if r.1.poison then d.modCtl k fun c => { c with poisonMerge := satAdd 65535 c.poisonMerge 1 } else d
  returnToken k e.lock d

/-- The oldest merge entry of controller k retires. -/
def retireOldest (k : Nat) (d : Dev) : Dev :=
  match (d.ctl k).merge with
  | [] => d
  | e :: es => retireEntry k e (d.modCtl k fun c => { c with merge := es })

/-- All entries of a line retire, in order of allocation. -/
def retireLine (k line : Nat) (d : Dev) : Dev :=
  let es := (d.ctl k).merge.filter fun e => e.line = line
  es.foldl (fun d e => retireEntry k e d)
    (d.modCtl k fun c => { c with merge := c.merge.filter fun e => e.line ≠ line })

/-- The entries of a lock retire, with those that stand before them for their lines. -/
def retireLock (k l : Nat) (d : Dev) : Dev :=
  ((d.ctl k).merge.filter fun e => e.lock = some l).foldl (fun d e => retireLine k e.line d) d

/-- The merge entry of a narrow write. -/
def narrowEntry (line off : Nat) (bs : Bytes) (lock : Option Nat) (poison : Bool) (op : Word) : MergeEntry :=
  { line := line, bytes := tputs 0 [] off bs, mask := BitVec.ofNat 64 ((2 ^ bs.length - 1) * 2 ^ off), lock := lock,
    poison := poison, operation := op }

/-- A narrow write takes a merge entry or merges into the one its lock already has for the line (R182), which keeps the operation ID of
the write that allocated it (log entry 140). -/
def mergeWrite (k line off : Nat) (bs : Bytes) (lock : Option Nat) (poison : Bool) (op : Word) (d : Dev) : Dev :=
  let mask := BitVec.ofNat 64 ((2 ^ bs.length - 1) * 2 ^ off)
  let c := d.ctl k
  if lock.isSome && c.merge.any (fun e => e.line = line ∧ e.lock = lock) then
    let d := d.modCtl k fun c => { c with merge := c.merge.map fun e =>
      if e.line = line ∧ e.lock = lock
      then { e with bytes := tputs 0 e.bytes off bs, mask := e.mask ||| mask, poison := e.poison || poison } else e }
    returnToken k lock d
  else
    let d := if 64 ≤ c.merge.length then retireOldest k d else d
    d.modCtl k fun c => { c with
      merge := c.merge ++ [narrowEntry line off bs lock poison op],
      mergePeak := max c.mergePeak (c.merge.length + 1) }

/-! ### Reads and writes of one line piece -/

/-- A read of part of an HBM line: the stored line merged with its waiting entries (R182). A failed stack answers poison
(R21). -/
def hbmRead (k off n : Nat) (op : Word) (d : Dev) : (Bytes × Bool) × Dev :=
  if (d.ctl k).failed then ((List.replicate n 0, true), d)
  else
    let r := readLine k (off / 64) 0 op true d
    let es := (d.ctl k).merge.filter fun e => e.line = off / 64
    let data := es.foldl (fun bs e => overlay e bs) r.1.data
    ((slice data (off % 64) n, r.1.poison || es.any (·.poison)), r.2)

/-- A write of part of an HBM line. A whole line retires waiting entries first and clears poison; a narrow line goes through the merge
buffer. A failed stack discards it. -/
def hbmWrite (k off : Nat) (bs : Bytes) (poison : Bool) (lock : Option Nat) (op : Word) (d : Dev) : Dev :=
  let line := off / 64
  if (d.ctl k).failed then returnToken k (if bs.length = 64 then none else lock) d
  else if bs.length = 64 then
    let d := retireLine k line d
    if poison then poisonLine k line bs d else putLine k line bs d
  else mergeWrite k line (off % 64) bs lock poison op d

/-- A read of part of a wharf line (R181, R200): one device in error is corrected, written back and counted; two make the
line uncorrectable, poison it and post WHARF_UE. The line's state in error is 1 + device, or 100 + device. -/
def wharfRead (ch a n : Nat) (op : Word) (d : Dev) : (Bytes × Bool) × Dev :=
  let line := a / 64
  let bs := tspan 0 d.mem a n
  if (d.wharfCh ch).state = 3 then ((List.replicate n 0, true), d)
  else if tget 0 d.wharf.poison line = 1 then ((bs, true), d)
  else
    let e := tget 0 d.wharf.err line
    if e = 0 then ((bs, false), d)
    else if e < 100 then
      let fresh := (d.wharfCh ch).ceEpoch ≠ d.second
      let c := (if fresh then 0 else (d.wharfCh ch).ceSecond) + 1
      let was := !fresh && (d.wharfCh ch).cePosted
      let past := d.manifest.active.isSome && decide (d.thr.wharfCeLimit < c) && !was
      let d := d.modWharf fun w => { w with err := tset 0 w.err line 0 }
      let d := d.modWharfCh ch fun x => { x with
        ceCount := satAdd (2 ^ 32 - 1) x.ceCount 1, ceLast := some (line, e - 1), ceEpoch := d.second, ceSecond := c,
        cePosted := was || past }
      ((bs, false), if past then post 0x0805 (unitBlock (if ch < 6 then 4 else 5) 7 ch) 0
        (syn [(32, 1, ch), (33, 7, c), (40, 8, d.thr.wharfCeLimit)]) d else d)
    else
      let d := d.modWharf fun w => { w with err := tset 0 w.err line 0, poison := tset 0 w.poison line 1 }
      let d := d.modWharfCh ch fun x => { x with ueCount := satAdd 65535 x.ueCount 1 }
      ((bs, true), postPolicy 0x0804 (unitBlock (if ch < 6 then 4 else 5) 7 ch) op
        (syn [(32, 1, ch), (33, 1, e - 100), (40, 8, 64 * line)]) d)

/-- A write of part of a wharf line: a narrow one merges in the channel's controller, and finds old errors first. -/
def wharfWrite (ch a : Nat) (bs : Bytes) (poison : Bool) (op : Word) (d : Dev) : Dev :=
  if (d.wharfCh ch).state = 3 then d
  else
    let line := a / 64
    let old := if bs.length = 64 then ((([] : Bytes), false), d) else wharfRead ch (64 * line) 64 op d
    let d := { old.2 with mem := tputs 0 old.2.mem a bs }
    d.modWharf fun w => { w with err := tset 0 w.err line 0, poison := tset 0 w.poison line (b2n (poison || old.1.2)) }

/-- A read of part of a basin line (R110): decoded, then its bytes and poison. -/
def basinRead (n off len : Nat) (d : Dev) : (Bytes × Bool) × Dev :=
  let d := readSpans n none 0 0 [(off, len)] d
  ((tspan 0 (d.tile n).basin off len, decide (tget 0 (d.tile n).poison (off / 64) = 1)), d)

/-- The 8-byte words that a write covers only in part. -/
def partWords (off len : Nat) : List (Nat × Nat) :=
  (if off % 8 = 0 then [] else [(off / 8 * 8, 8)]) ++ (if (off + len) % 8 = 0 then [] else [((off + len) / 8 * 8, 8)])

/-- A write of part of a basin line: words written in part are decoded first; whole lines clear poison, and what arrives poisoned
poisons its line (R110). -/
def basinWrite (n off : Nat) (bs : Bytes) (poison : Bool) (d : Dev) : Dev :=
  (readSpans n none 0 0 (partWords off bs.length) d).modTile n fun t => { t with
    basin := tputs 0 t.basin off bs,
    basinErr := tclear t.basinErr (off / 8) ((off + bs.length + 7) / 8),
    poison := if poison then tset 0 t.poison (off / 64) 1
      else if bs.length = 64 then tset 0 t.poison (off / 64) 0 else t.poison }

/-! ### Spans -/

/-- The pieces of a span by lines of 64 bytes: first address and length. -/
def linePieces : Nat → Nat → Nat → List (Nat × Nat)
  | 0, _, _ => []
  | fuel + 1, a, n => if n = 0 then [] else
      let m := min n (64 - a % 64)
      (a, m) :: linePieces fuel (a + m) (n - m)

/-- Read one piece at the place its address resolves to. -/
def readPiece (op : Word) (a n : Nat) (d : Dev) : (Bytes × Bool) × Dev :=
  match place d a with
  | .hbm k off => hbmRead k off n op d
  | .wharf c x => wharfRead c x n op d
  | .basin t off => basinRead t off n d
  | _ => ((List.replicate n 0, true), d)

/-- Write one piece. -/
def writePiece (a : Nat) (bs : Bytes) (poison : Bool) (lock : Option Nat) (op : Word) (d : Dev) : Dev :=
  match place d a with
  | .hbm k off => hbmWrite k off bs poison lock op d
  | .wharf c x => wharfWrite c x bs poison op d
  | .basin t off => basinWrite t off bs poison d
  | _ => d

/-- Read a span of memory: master addresses read their committed copy. Bytes, and whether any line was poison. -/
def memRead (op : Word) (a n : Nat) (d : Dev) : (Bytes × Bool) × Dev :=
  (linePieces n a n).foldl (fun acc p =>
    let r := readPiece op (readAt acc.2 p.1) p.2 acc.2
    ((acc.1.1 ++ r.1.1, acc.1.2 || r.1.2), r.2)) (([], false), d)

/-- Mark the chunks that a write touches dirty (R388). -/
def markDirty (a n : Nat) (d : Dev) : Dev :=
  (linePieces n a n).foldl (fun d p => match chunkOf d p.1 with
    | some c => d.modRel fun r => { r with dirty := addSet c r.dirty, filled := addSet c r.filled }
    | none => d) d


/-- Raw read of a span, without the redirection of R388: twins, staging, the paging service's own tables. -/
def rawRead (a n : Nat) (d : Dev) : (Bytes × Bool) × Dev :=
  (linePieces n a n).foldl (fun acc p =>
    let r := readPiece 0 p.1 p.2 acc.2
    ((acc.1.1 ++ r.1.1, acc.1.2 || r.1.2), r.2)) (([], false), d)

/-- Raw write of a span. -/
def rawWrite (a : Nat) (bs : Bytes) (poison : Bool) (d : Dev) : Dev :=
  ((linePieces bs.length a bs.length).foldl (fun (acc : Bytes × Dev) p =>
    (acc.1.drop p.2, writePiece p.1 (acc.1.take p.2) poison none 0 acc.2)) (bs, d)).2

/-- Copy a span raw, poison with it. -/
def rawCopy (src dst n : Nat) (d : Dev) : Dev :=
  (linePieces n dst n).foldl (fun d p =>
    let r := readPiece 0 (src + (p.1 - dst)) p.2 d
    writePiece p.1 r.1.1 r.1.2 none 0 r.2) d

/-! ### Requests of engines while a stack is failed (R21) -/

/-- Some byte of the span lies in a failed stack. -/
def inFailed (d : Dev) (a n : Nat) : Bool := (pieces d 4096 a n).any fun p =>
  match place d p.1 with | .hbm k _ => (d.ctl k).failed | _ => false

/-- From a stack failure until the new map, a request for a healthy stack waits (R21). -/
def hbmWaits (d : Dev) (a n : Nat) : Bool :=
  d.hbm.awaitingMap && decide (a < 2 ^ 39) && !inFailed d a n

/-! ### Integrity holds of a write (R95, R388, R395, R397) -/

/-- The chunks that a write span touches. -/
def spanChunks (d : Dev) (a n : Nat) : List Nat :=
  (linePieces n a n).foldl (fun cs p => match chunkOf d p.1 with | some c => addSet c cs | none => cs) []

/-- The span covers the whole of chunk c. -/
def coversChunk (d : Dev) (a n c : Nat) : Bool :=
  match chunkBase d.thr.masters c with
  | (some r, o) => decide (a ≤ r.base + o ∧ r.base + o + 65536 ≤ a + n)
  | (none, _) => false

/-- Chunk c of the snapshot still has its data in the copy that a write would reach (R397). -/
def snapshotHolds (d : Dev) (c : Nat) : Bool :=
  d.rel.snapshot.contains c && !(d.rel.staged.any fun s => s.1 = c) &&
    decide ((tget 0 d.rel.snapBits c = 1) = !committed d c)

/-- The first hold that a write to chunk c meets, in the order delta, snapshot copy, fill. -/
def chunkHold (d : Dev) (a n c : Nat) : Option HoldKind :=
  if d.rel.lastFlip.contains c ∧ d.rel.deltaSeen = false ∧ 1 < (match d.manifest.active with | some m => m.groupSize | none => 1)
  then some .delta
  else if snapshotHolds d c then some .copyBeforeWrite
  else if d.rel.filled.contains c || coversChunk d a n c then none
  else some .fill

/-- The hold that a write of a span meets, with its chunk. -/
def writeHold (d : Dev) (a n : Nat) : Option (HoldKind × Nat) :=
  (spanChunks d a n).findSome? fun c => (chunkHold d a n c).map fun h => (h, c)

/-- The whole committed copy of a chunk is copied into its pending copy: a fill (R388). -/
def fillChunk (c : Nat) (d : Dev) : Dev :=
  let d := rawCopy (chunkCopy d c (committed d c)) (chunkCopy d c (!committed d c)) 65536 d
  d.modRel fun r => { r with filled := addSet c r.filled, filling := delSet c r.filling }

/-- A snapshot chunk is copied into a free staging chunk of CKPT_STAGING, if there is one (R397). -/
def stageChunk (c : Nat) (d : Dev) : Option Dev :=
  match d.region 7 with
  | none => none
  | some g =>
    match (List.range (g.size / 65536)).find? fun i => !(d.rel.staged.any fun s => s.2 = i) with
    | none => none
    | some i =>
      some ((rawCopy (chunkCopy d c (decide (tget 0 d.rel.snapBits c = 1))) (g.base + 65536 * i) 65536 d).modRel
        fun r => { r with staged := r.staged ++ [(c, i)] })

/-- An engine's write to a span meets no hold that lasts: no delta hold (R395), and every snapshot chunk that it reaches can be
staged (R397). -/
def engineReady (d : Dev) (a n : Nat) : Bool :=
  (spanChunks d a n).all fun c => match chunkHold d a n c with
    | some .delta => false
    | some .copyBeforeWrite => (stageChunk c d).isSome
    | _ => true

/-! ### Merge tokens of an engine's write (R183, R241) -/

/-- First addresses of the lines that a write covers only in part: its head and its tail. -/
def narrowEnds (a n : Nat) : List Nat :=
  let last := (a + n - 1) / 64 * 64
  (if a % 64 ≠ 0 ∨ n < 64 then [a] else []) ++ (if a < last ∧ (a + n) % 64 ≠ 0 then [last] else [])

/-- The lock whose token a narrow line of an engine takes for controller k: the engine's lock, where the plan gives it tokens (log entry
140). -/
def tokenLock (d : Dev) (lock : Option Nat) (k : Nat) : Option Nat := lock.filter fun l => decide (0 < planTokens d k l)

/-- The controller for which a narrow line at an address finds its lock without a free token. -/
def lacksToken (d : Dev) (lock : Option Nat) (a : Nat) : Option Nat :=
  match place d (writeAt d a) with
  | .hbm k _ => match tokenLock d lock k with | some l => if freeTokens d k l = 0 then some k else none | none => none
  | _ => none

/-- Device memory can take an engine's write now: no hold is in the way, no failed stack's map is awaited, and its narrow lines find
tokens (R21, R95, R183). -/
def canWrite (d : Dev) (lock : Option Nat) (a n : Nat) : Bool :=
  engineReady d a n && !hbmWaits d a n && (narrowEnds a n).all fun x => (lacksToken d lock x).isNone

/-- A write that waits for tokens counts once in merge_holds (R183). -/
def noteWait (lock : Option Nat) (a n : Nat) (d : Dev) : Dev :=
  match lock, (narrowEnds a n).findSome? (lacksToken d lock) with
  | some l, some k =>
    if d.hbm.waits.contains (l, a) then d
    else (d.modCtl k fun c => { c with mergeHolds := satAdd (2 ^ 32 - 1) c.mergeHolds 1 }).modHbm fun h => { h with waits := h.waits ++ [(l, a)] }
  | _, _ => d

/-- One piece of an engine's write: a narrow HBM line takes a token of its lock. Where the lock's tokens are in use by what this write has
sent before it, those lines retire first. -/
def enginePiece (lock : Option Nat) (op : Word) (a : Nat) (bs : Bytes) (poison : Bool) (d : Dev) : Dev :=
  match place d a with
  | .hbm k off =>
    match (if bs.length = 64 then none else tokenLock d lock k) with
    | none => hbmWrite k off bs poison none op d
    | some l =>
      let d := if freeTokens d k l = 0 then retireLock k l d else d
      hbmWrite k off bs poison (some l) op (d.modLock l fun x => { x with tokensUsed := tmod 0 x.tokensUsed k (· + 1) })
  | _ => writePiece a bs poison none op d

/-- Count a hold that begins. -/
def countHold (kind : HoldKind) (d : Dev) : Dev :=
  d.modRel fun r => match kind with
    | .copyBeforeWrite => { r with cbwHolds := satAdd 65535 r.cbwHolds 1 }
    | .fill => { r with fills := satAdd 65535 r.fills 1 }
    | .delta => { r with deltaHolds := satAdd 65535 r.deltaHolds 1 }

/-- An engine's write is held at its lock; the copy it waits for is made, and the hold ends, in the same step (log entry 140). -/
def engineHold (kind : HoldKind) (lock : Option Nat) (d : Dev) : Dev :=
  countHold kind (match lock with | some l => d.modLock l fun k => { k with holds := satAdd 65535 k.holds 1 } | none => d)

/-- Make a chunk ready for an engine's write: the snapshot copy and the fill that it needs come first. -/
def settleChunk (lock : Option Nat) (a n : Nat) (d : Dev) (c : Nat) : Dev :=
  let d := if chunkHold d a n c = some .copyBeforeWrite then engineHold .copyBeforeWrite lock ((stageChunk c d).getD d) else d
  if chunkHold d a n c = some .fill then engineHold .fill lock (fillChunk c d) else d

/-- A write by an engine, which does not wait in a chamber: through which lock, for which operation; `bad` says of the bytes from an
offset on, how many, whether they travel as poison. -/
def engineWriteBy (lock : Option Nat) (op : Word) (a : Nat) (bs : Bytes) (bad : Nat → Nat → Bool) (d : Dev) : Dev :=
  let d := markDirty a bs.length ((spanChunks d a bs.length).foldl (settleChunk lock a bs.length) d)
  let d := match lock with | some l => d.modHbm fun h => { h with waits := delSet (l, a) h.waits } | none => d
  ((linePieces bs.length a bs.length).foldl (fun (acc : Nat × Bytes × Dev) p =>
    (acc.1 + p.2, acc.2.1.drop p.2,
      enginePiece lock op (writeAt acc.2.2 p.1) (acc.2.1.take p.2) (bad acc.1 p.2) acc.2.2)) (0, bs, d)).2.2

/-- The same, wholly poison or wholly good. -/
def engineWrite (lock : Option Nat) (op : Word) (a : Nat) (bs : Bytes) (poison : Bool) (d : Dev) : Dev :=
  engineWriteBy lock op a bs (fun _ _ => poison) d

/-- Read a span of memory, with the parts that are poison: offset and length. -/
def memReadMap (op : Word) (a n : Nat) (d : Dev) : (Bytes × List (Nat × Nat)) × Dev :=
  (linePieces n a n).foldl (fun acc p =>
    let r := readPiece op (readAt acc.2 p.1) p.2 acc.2
    ((acc.1.1 ++ r.1.1, if r.1.2 then acc.1.2 ++ [(p.1 - a, p.2)] else acc.1.2), r.2)) (([], []), d)

/-- A span of one unit becomes clean zeros. -/
def zeroSpan (a n : Nat) (d : Dev) : Dev :=
  match place d a with
  | .hbm k off =>
    { d with mem := tclear d.mem (k * 2 ^ 36 + off) (k * 2 ^ 36 + off + n) }.modHbm fun h => { h with
      check := tclear h.check (4 * (k * 2 ^ 30 + off / 64)) (4 * (k * 2 ^ 30 + (off + n) / 64)),
      found := h.found.filter fun e => decide (e.1 ≠ k ∨ e.2 < off / 64 ∨ (off + n) / 64 ≤ e.2),
      ctl := tmod {} h.ctl k fun c => { c with merge := c.merge.filter fun e => decide (e.line < off / 64 ∨ (off + n) / 64 ≤ e.line) } }
  | .wharf _ _ =>
    { d with mem := tclear d.mem a (a + n) }.modWharf fun w => { w with
      poison := tclear w.poison (a / 64) ((a + n) / 64), err := tclear w.err (a / 64) ((a + n) / 64) }
  | _ => d

/-! ### The end of checker test mode (R188) -/

/-- Test mode ends: every line of the granule becomes clean zeros. -/
def testEnd (k : Nat) (d : Dev) : Dev :=
  { d with mem := tclear d.mem (k * 2 ^ 36) (k * 2 ^ 36 + 0x10000) }.modHbm fun h => { h with
    check := tclear h.check (4 * (k * 2 ^ 30)) (4 * (k * 2 ^ 30 + 1024)),
    found := h.found.filter fun e => decide (e.1 ≠ k ∨ 1024 ≤ e.2) }

/-- The HBM block relocks: the granule of every controller in test mode is rewritten. -/
def testEndAll (d : Dev) : Dev :=
  (List.range 8).foldl (fun d k => if bit (d.csrGet (0x4000098 + k * 0x100000)).toNat 10 then testEnd k d else d) d

/-- The canonical form of the memory: the bytes of HBM and wharf, the check bytes and every tile's basin list rising addresses
and no byte that equals what an unlisted address holds. -/
def Memory.wf (d : Dev) : Bool :=
  twf 0 d.mem && twf 0 d.hbm.check && d.tiles.all fun e => twf 0 e.2.basin

end Sys2Proof.Machine
end

