-- ==== Sys2Proof/Machine/Locks.lean ====
section
/-! DEFINITION. The locks (chapter 4): chambers, route maps, gates and pooled shares, PAUSE, integrity holds, sluices and
derate records. -/

namespace Sys2Proof.Machine

/-! ### Where the locks stand (R81) -/

/-- The kinds of lock. -/
inductive LockKind where
  | host | accel | eth | ring | service | drive | control
  deriving DecidableEq, Repr

/-- The kind of a lock number; none for a reserved number. -/
def lockKind (l : Nat) : Option LockKind :=
  let p := l % 64
  if 128 ≤ l then none
  else if p = 32 ∨ p = 33 then some .host
  else if 34 ≤ p ∧ p ≤ 41 then some .accel
  else if 42 ≤ p ∧ p ≤ 45 then some .eth
  else if 46 ≤ p ∧ p ≤ 49 then some .ring
  else if p = 56 ∨ p = 57 then some .service
  else if l = 58 ∨ l = 59 ∨ l = 124 then some .control
  else if l = 122 ∨ l = 123 then some .drive
  else none

/-- The code of a kind in CMD_LOCK_STATUS, in the order of R81's table. -/
def LockKind.code : LockKind → Nat
  | .host => 0
  | .accel => 1
  | .eth => 2
  | .ring => 3
  | .service => 4
  | .drive => 5
  | .control => 6

/-- The gate router of a lock. -/
def lockRouter (l : Nat) : Nat := 28 + l / 64

/-- The die of a lock's gate router. -/
def lockDie (l : Nat) : Nat := 4 + l / 64

/-- A lock is closed while it has no chamber (R82). -/
def Lock.closed (k : Lock) : Bool := decide (k.size = 0)

/-- Bytes of the chamber that waiting barges occupy. -/
def Lock.bytes (k : Lock) : Nat := (k.queue.map (·.size)).sum

/-- Granules occupied. -/
def Lock.fill (k : Lock) : Nat := (k.bytes + 65535) / 65536

/-- There is room for `n` more bytes. -/
def Lock.room (k : Lock) (n : Nat) : Bool := decide (k.bytes + n ≤ k.size * 65536)

/-- A lock withholds ready from its engine: it is closed, or its chamber cannot take the engine's next barge with its command (R82,
R94). -/
def withheld (d : Dev) (l : Nat) : Bool := (d.lock l).closed || !(d.lock l).room 512

/-! ### Requests and their barges (R83, R175) -/

/-- The destination code of a device address as a write or a read reaches it (R83, R388). -/
def destOf (d : Dev) (write : Bool) (a : Nat) : Option Nat :=
  match place d (if write then writeAt d a else readAt d a) with
  | .hbm k _ => some k
  | .wharf c _ => some (0x10 + c)
  | .basin _ _ => some (0x100 + (a - basinBase) / 0x200000)
  | _ => none

/-- The router and the ports by which a destination's unit is attached. -/
def unitPorts (d : Dev) (dest : Nat) : Option (Nat × (Nat → Bool)) :=
  if dest < 8 then some (7 * (dest / 2) + 4 + dest % 2, fun p => decide (p < 20))
  else if 0x10 ≤ dest ∧ dest < 0x1C then
    some (28 + (dest - 0x10) / 6, fun p => decide (p = 50 + (dest - 0x10) % 6))
  else if 0x100 ≤ dest ∧ dest < 0x300 then
    match d.tileOf (dest - 0x100) with
    | some n => some (7 * (n / 33 / 4) + n / 33 % 4, fun p => decide (p = n % 33))
    | none => none
  else none

/-- The route by which a unit's read data returns to a lock's port: the lowest route of the running program that leaves the
unit and ends at the output of the lock's port; 0 where the program has none (log entry 18). -/
def responseRoute (d : Dev) (dest l : Nat) : Nat :=
  match unitPorts d dest with
  | none => 0
  | some (r, own) =>
    let recs := programRecords d d.program
    ((recs.filter fun x => decide (x.router = lockRouter l ∧ x.output = l % 64 ∧ x.source < 64)).filter fun x =>
      recs.any fun y => decide (y.router = r ∧ y.route = x.route) && own y.source).foldl
        (fun best x => if best = 0 ∨ x.route < best then x.route else best) 0

/-- The response route of a read of device address a through lock l. -/
def readRoute (d : Dev) (l a : Nat) : Nat := match destOf d false a with | some c => responseRoute d c l | none => 0

/-- The body of a command barge (R175). -/
def commandBody (addr length op response : Nat) (operation : Word) : Bytes :=
  leBytes 8 addr ++ leBytes 4 length ++ leBytes 1 op ++ [0] ++ leBytes 2 response ++ leBytes 8 operation.toNat ++
    List.replicate 40 0

/-- Cut bytes into data barges of 256; the last one has last = 1. -/
def dataBarges : Nat → Nat → Nat → Nat → Bytes → List Barge
  | 0, _, _, _, _ => []
  | fuel + 1, kind, route, inst, bs =>
    if bs.length ≤ 256 then [mkBarge kind route inst bs true]
    else mkBarge kind route inst (bs.take 256) false :: dataBarges fuel kind route inst (bs.drop 256)

/-- The barges of a request: a read is its command barge; a write is that and its data barges; other traffic is data. -/
def requestBarges (d : Dev) (l inst dest route : Nat) (r : LockReq) : List Barge :=
  match r with
  | .read a n op => [mkBarge 1 route inst (commandBody a n 0 (responseRoute d dest l) op) false]
  | .write a bs p op =>
    mkBarge 1 route inst (commandBody a bs.length 1 0 op) false ::
      dataBarges (bs.length + 1) (if p then 2 else 1) route inst bs
  | .data _ bs p => dataBarges (bs.length + 1) (if p then 2 else 1) route inst bs

/-- The destination code of a request. -/
def requestDest (d : Dev) : LockReq → Option Nat
  | .read a _ _ => destOf d false a
  | .write a _ _ _ => destOf d true a
  | .data c _ _ => some c

/-- The request as it waits. -/
def waitingOf (d : Dev) (l inst dest route : Nat) (order : Option Nat) (relaxed : Bool) (r : LockReq) : Waiting :=
  let bs := requestBarges d l inst dest route r
  { id := d.locks.nextId, inst := inst, dest := dest, route := route, barges := bs, size := 256 * bs.length,
    order := order, relaxed := relaxed,
    kind := match r with | .read _ _ _ => .read | .write _ _ _ _ => .write | .data _ _ _ => .data,
    addr := match r with | .read a _ _ => a | .write a _ _ _ => a | .data _ _ _ => 0,
    length := match r with | .read _ n _ => n | .write _ bs _ _ => bs.length | .data _ bs _ => bs.length }

/-! ### PAUSE (R92) -/

/-- After the fill of an ETH lock or its settings have changed: PAUSE starts at pause_on and ends below pause_off. Where pause_en has
been cleared while the partner is paused, the pause ends at once (log entry 135); a closed lock sends none (R82). -/
def pauseCheck (l : Nat) (d : Dev) : Dev :=
  let k := d.lock l
  if lockKind l ≠ some .eth then d
  else if k.closed then d.modLock l fun k => { k with paused := false }
  else if k.pauseEn ∧ k.paused = false ∧ k.pauseOn ≤ k.fill then
    (d.modLock l fun k => { k with paused := true, pauseAt := d.uptime + 100000 }).emit (.pauseFrame l 0xFFFF)
  else if k.paused ∧ (k.pauseEn = false ∨ k.fill < k.pauseOff) then
    (d.modLock l fun k => { k with paused := false }).emit (.pauseFrame l 0)
  else d

/-! ### Integrity holds (R95, R96, R388, R395) -/

/-- A waiting write that meets a hold is held from now on. -/
def holdWaiting (l : Nat) (w : Waiting) (d : Dev) : Dev :=
  if w.kind ≠ .write ∨ 0 < w.started ∨ (d.locks.holds.any fun h => h.lock == some l && h.id == w.id) = true then d
  else match writeHold d w.addr w.length with
    | none => d
    | some (kind, c) =>
      let h : Hold := { kind := kind, chunk := c, inst := w.inst, id := w.id, lock := some l, route := w.route,
                        since := d.uptime }
      let fill (r : Rel) : Rel := if kind = .fill then { r with filling := addSet c r.filling } else r
      countHold kind (((d.modLocks fun k => { k with holds := k.holds ++ [h] }).modLock l fun k =>
        { k with holds := satAdd 65535 k.holds 1 }).modRel fill)

/-- The allowance of a hold in ns (R96, R388, R395). -/
def allowance (d : Dev) (k : HoldKind) : Nat :=
  let f := max 1 d.canal.f
  match k with
  | .delta => (d.thr.wordDelay + 1) * 5120 * 1024 / f
  | _ => 4000 * 1024 / f

/-- The factor of a hold that has outlasted its allowance (R25). -/
def holdFactor (d : Dev) (h : Hold) : Nat := max 1 (1024 * allowance d h.kind / max 1 (d.uptime - h.since))

/-! ### Arrival (R82, R83, R87) -/

/-- What becomes of a request at a lock. -/
inductive Arrived where
  | waits (id : Nat)
  | full
  | unmapped
  | failed
  deriving DecidableEq, Repr

/-- An instance that had nothing waiting becomes backlogged: its start tag is no less than the virtual time (R87). -/
def backlog (inst : Nat) (k : Lock) : Lock :=
  if k.queue.any fun w => w.inst = inst then k
  else
    let s := tget 0 k.s inst
    { k with s := tset 0 k.s inst (if s.toNat < k.v.toNat then k.v else s) }

/-- A request reaches a lock: it gets its route from the route map and waits in the chamber, held if its write meets a
hold. A closed lock turns it away whatever it addresses (R82); a request for a failed stack completes at once (R21); it may find no
route, or no room. -/
def lockArrive (l inst : Nat) (order : Option Nat) (relaxed : Bool) (r : LockReq) (d : Dev) : Arrived × Dev :=
  let k := d.lock l
  if k.closed then (.full, d)
  else match requestDest d r with
  | none => (.unmapped, d)
  | some dest =>
    if dest < 8 ∧ (d.ctl dest).failed then (.failed, d)
    else match k.routeMap.find? fun e => e.1 = dest with
    | none => (.unmapped, d)
    | some e =>
      let w := waitingOf d l inst dest e.2 order relaxed r
      if !k.room w.size then (.full, d)
      else
        (.waits w.id, pauseCheck l (holdWaiting l w ((d.modLocks fun k => { k with nextId := k.nextId + 1 }).modLock l fun k =>
          { backlog inst k with queue := k.queue ++ [w] })))

/-- The route that a lock's map gives a request; 0 without an entry. -/
def requestRoute (l : Nat) (r : LockReq) (d : Dev) : Nat :=
  match (requestDest d r).bind fun c => (d.lock l).routeMap.find? fun e => e.1 = c with | some e => e.2 | none => 0

/-- What a lock of each kind does with traffic that finds no room (R82, R91–R94); a ring lock's record names the barge's route. -/
def noRoom (l route : Nat) (d : Dev) : Dev :=
  match lockKind l with
  | some .eth => (d.modLock l fun k => { k with drops := satAdd (2 ^ 32 - 1) k.drops 1 }).seen 4 0 2
  | some .ring =>
    suspect 4 0xFFFF (post 0x0D05 (unitBlock (lockDie l) 4 l) 0 (syn [(32, 1, l), (36, 2, route)]) d)
  | _ => d

/-! ### The gate (R84–R87, R183, R220) -/

/-- Scheduled slots counted so far. -/
def Dev.now (d : Dev) : Nat := d.canal.lockage * 1024 + d.canal.slot

/-- The latest slot in which a barge that stands at input `p` of router `r` in slot `s` is delivered, through the entries in
force. -/
def arrivalSlot (d : Dev) : Nat → Nat → Nat → Nat → Nat
  | 0, _, _, s => s
  | fuel + 1, r, p, s =>
    ((List.range 64).filter fun o => decide (entrySource (activeEntry d r d.program s) o = p)).foldl (fun m o =>
      max m (match attach r o with
        | .router r' p' c => arrivalSlot d fuel r' p' (s + hopSlots c)
        | .unit => s + 1
        | .nothing => s)) s

/-- The 64-byte lines that a write covers only in part and whose first byte travels in data barge j: one token each. -/
def narrowLines (a n j : Nat) : Nat :=
  let first := a / 64
  let last := (a + n - 1) / 64
  let isIn (o : Nat) : Bool := decide (256 * j ≤ o ∧ o < 256 * (j + 1))
  let headNarrow := decide (a % 64 ≠ 0 ∨ (a + n < 64 * (first + 1)))
  let tailNarrow := decide ((a + n) % 64 ≠ 0 ∧ last ≠ first)
  b2n (headNarrow && isIn 0) + b2n (tailNarrow && isIn (64 * last - a))

/-- Merge tokens that the next barge of a write needs of its controller, and the controller. -/
def tokensNeeded (w : Waiting) : Option (Nat × Nat) :=
  if w.kind = .write ∧ w.dest < 8 ∧ 0 < w.started then
    let n := narrowLines w.addr w.length (w.started - 1)
    if n = 0 then none else some (w.dest, n)
  else none

/-- The next barge of a write waits for merge tokens. -/
def waitsToken (d : Dev) (l : Nat) (w : Waiting) : Bool :=
  match tokensNeeded w with | some (k, n) => decide (freeTokens d k l < n) | none => false

/-- The locks of the port whose ordering domain a request belongs to: both locks of an endpoint or of a root port pair. -/
def sameOrder (d : Dev) (w : Waiting) : Bool :=
  d.locks.tab.any fun e => e.2.queue.any fun x =>
    decide (x.order = w.order ∧ x.id < w.id ∧ x.kind = .write)

/-- A request that keeps an order would be delivered no later than an earlier write of its domain (R220). -/
def waitsOrder (d : Dev) (l : Nat) (w : Waiting) : Bool :=
  match w.order with
  | none => false
  | some key =>
    !(w.kind == .write && w.relaxed) &&
      (sameOrder d w ||
        (w.started == 0 && decide (d.canal.lockage * 1024 + arrivalSlot d 16 (lockRouter l) (l % 64) d.canal.slot ≤
          tget 0 d.locks.orderSlot key)))

/-- The head of an owner's queue on a route cannot be admitted now. -/
def blocked (d : Dev) (l : Nat) (w : Waiting) : Bool :=
  (d.locks.holds.any fun h => h.lock == some l && h.id == w.id) || waitsToken d l w || waitsOrder d l w ||
    (d.hbm.awaitingMap && decide (w.dest < 8))

/-- The oldest request of an owner on a route. -/
def headOf (d : Dev) (l inst route : Nat) : Option Waiting :=
  (d.lock l).queue.find? fun w => decide (w.inst = inst ∧ w.route = route)

/-- The owner's oldest request on the route, made ready: a hold begins where its write meets one, and the wait for tokens is
counted once. -/
def prepare (l inst route : Nat) (d : Dev) : Dev :=
  match headOf d l inst route with
  | none => d
  | some w =>
    let d := holdWaiting l w d
    if waitsToken d l w ∧ w.waited = false then
      (d.modCtl w.dest fun c => { c with mergeHolds := satAdd (2 ^ 32 - 1) c.mergeHolds 1 }).modLock l fun k =>
        { k with queue := k.queue.map fun x => if x.id = w.id then { x with waited := true } else x }
    else d

/-- The owner has something ready on the route (R86). -/
def ready (d : Dev) (l inst route : Nat) : Bool :=
  match headOf d l inst route with | some w => !blocked d l w | none => false

/-- Admit the next barge of a request as barge A or B of the slot. -/
def admitBarge (l : Nat) (w : Waiting) (half : Bool) (d : Dev) : Dev :=
  match w.barges with
  | [] => d
  | b :: rest =>
    let k := d.lock l
    let used := match tokensNeeded w with
      | some (c, n) => tset 0 k.tokensUsed c (tget 0 k.tokensUsed c + n)
      | none => k.tokensUsed
    let queue := if rest = [] then k.queue.filter fun x => x.id ≠ w.id
      else k.queue.map fun x => if x.id = w.id
        then { x with barges := rest, size := x.size - 256, started := x.started + 1, waited := false } else x
    let slot := match w.order with
      | some key => if w.kind = .write
          then tset 0 d.locks.orderSlot key (max (tget 0 d.locks.orderSlot key)
            (d.canal.lockage * 1024 + arrivalSlot d 16 (lockRouter l) (l % 64) d.canal.slot))
          else d.locks.orderSlot
      | none => d.locks.orderSlot
    let delivered := if rest = [] ∧ lockKind l = some .eth
      then tset 0 d.locks.delivered w.id (d.canal.lockage * 1024 + arrivalSlot d 16 (lockRouter l) (l % 64) d.canal.slot + 1)
      else d.locks.delivered
    inject (lockRouter l) (l % 64) half b
      ((d.modLocks fun x => { x with orderSlot := slot, delivered := delivered }).modLock l fun x => { x with queue := queue, tokensUsed := used })

/-- Take up to two barges of an owner on a route, oldest first. -/
def takeTwo (l inst route : Nat) (d : Dev) : Dev :=
  let one (half : Bool) (d : Dev) : Dev :=
    let d := prepare l inst route d
    match headOf d l inst route with
    | some w => if blocked d l w then d else admitBarge l w half d
    | none => d
  let after := one false d
  if (headOf d l inst route).isSome ∧ after.canal.flights.length = d.canal.flights.length then after else one true after

/-- The other lock of a host endpoint. -/
def siblingLock (l : Nat) : Option Nat := if lockKind l = some .host then some (if l % 2 = 0 then l + 1 else l - 1) else none

/-- A relaxed write that has not begun and could go to its destination on a route of lock l. -/
def mayBorrow (d : Dev) (l inst route : Nat) (w : Waiting) : Bool :=
  w.kind == .write && w.relaxed && w.started == 0 && w.inst == inst &&
    !(d.locks.holds.any fun h => h.id == w.id && h.lock.isSome) && !(d.hbm.awaitingMap && decide (w.dest < 8)) &&
    (d.lock l).routeMap.any fun e => decide (e.1 = w.dest ∧ e.2 = route)

/-- Where an owner has nothing ready for a slot of a host lock, a relaxed write of its takes the slot: the oldest that waits at that lock
behind a request that may not go yet, or at the endpoint's other lock (R222). -/
def borrow (l inst route : Nat) (d : Dev) : Dev :=
  match siblingLock l with
  | none => d
  | some m =>
    let stuck := match headOf d l inst route with | some w => blocked d l w && w.started == 0 | none => true
    if !stuck then d
    else match ((d.lock l).queue ++ (d.lock m).queue).find? (mayBorrow d l inst route) with
      | none => d
      | some w =>
        let others (q : List Waiting) : List Waiting := q.filter fun x => x.id ≠ w.id
        let w' := { w with route := route, barges := w.barges.map fun b => { b with route := BitVec.ofNat 12 route } }
        (d.modLock m fun k => { k with queue := others k.queue }).modLock l fun k => { backlog inst k with queue := w' :: others k.queue }

/-- A pooled opening of a list on a route (R87). -/
def pooled (l : Nat) (list : List Nat) (route : Nat) (d : Dev) : Dev :=
  let d := list.foldl (fun d i => prepare l i route (borrow l i route d)) d
  let cand := list.filter fun i => ready d l i route
  let best := cand.foldl (fun (b : Option Nat) i => match b with
    | none => some i
    | some j =>
      let si := (tget 0 (d.lock l).s i).toNat
      let sj := (tget 0 (d.lock l).s j).toNat
      if si < sj ∨ (si = sj ∧ i < j) then some i else some j) none
  match best with
  | none => d
  | some i =>
    (takeTwo l i route d).modLock l fun k =>
      let s := tset 0 k.s i (tget 0 k.s i + BitVec.ofNat 64 (2 ^ 32 / max 1 (tget 1 d.locks.weights i)))
      let back := k.queue.map fun w => (tget 0 s w.inst).toNat
      { k with s := s, v := match back with
          | [] => k.v
          | x :: xs => BitVec.ofNat 64 (xs.foldl min x) }

/-- A gate entry's owner: the instance itself, or the rotation row's entry for the lockage (R85). -/
def gateOwner (d : Dev) (e : Nat) : Nat :=
  if bits e 1 0 = 2 then (d.locks.rotation.getD (bits e 11 2) []).getD (d.canal.lockage % 16) 0 else bits e 11 2

/-- The pool list of a number. -/
def poolList (d : Dev) (n : Nat) : List Nat := d.locks.pools.getD n []

/-- The gate entry of a lock for a program and slot. -/
def gateIndex (l program slot : Nat) : Nat := (l * 8 + program) * 1024 + slot

/-- The opening of a lock's gate in the current slot (R86). -/
def gateOpening (l : Nat) (d : Dev) : Dev :=
  if (d.lock l).closed || d.canal.dwell || decide (1024 ≤ d.canal.slot) || decide ((d.lock l).openedAt = d.now + 1) then d
  else
    let e := (tget 0 d.locks.gates (gateIndex l d.program d.canal.slot)).toNat
    let d := d.modLock l fun k => { k with openedAt := d.now + 1 }
    let route := bits e 23 12
    let opened :=
      if bits e 1 0 = 0 then d
      else if bits e 1 0 = 3 then pooled l (poolList d (bits e 7 2)) route d
      else
        let d := prepare l (gateOwner d e) route (borrow l (gateOwner d e) route d)
        if ready d l (gateOwner d e) route then takeTwo l (gateOwner d e) route d
        else if bit e 30 then pooled l (poolList d (bits e 29 24)) route d
        else d
    pauseCheck l opened

/-! ### Sluices and rerouting (R97, R98) -/

/-- Remove the requests of a sluice from the chambers; what has been removed is answered when the sluice completes. -/
def startSluice (lock inst : Option Nat) (byRegister : Bool) (d : Dev) : Dev :=
  let hit (l : Nat) (w : Waiting) : Bool :=
    (match lock with | some x => x == l | none => true) && (match inst with | some x => x == w.inst | none => true)
  let removed := d.locks.tab.flatMap fun e => (e.2.queue.filter (hit e.1)).map fun w => (e.1, w)
  let d := d.modLocks fun k => { k with
    tab := k.tab.map fun e => (e.1, { e.2 with queue := e.2.queue.filter fun w => !hit e.1 w }),
    sluices := k.sluices ++ [{ lock, inst, removed, byRegister }] }
  let d := endHolds (fun h => removed.any fun r => h.lock == some r.1 && h.id == r.2.id) d
  (d.locks.tab.map (·.1)).foldl (fun d l => pauseCheck l d) d

/-- A sluice ends: its discarded requests are answered. -/
def endSluice (index : Nat) (d : Dev) : Dev :=
  match d.locks.sluices[index]? with
  | none => d
  | some s =>
    let d := s.removed.foldl (fun d r => answerDiscarded r.2 d) (d.modLocks fun k => { k with sluices := k.sluices.eraseIdx index })
    if s.byRegister then d.csrSet 0x2000048 (d.csrGet 0x2000048 &&& 0xFFFFFFFFFFFFF7FF#64) else d

/-- A read's command barge with its response route set (bytes 14–15). -/
def setResponse (r : Nat) (b : Barge) : Barge := { b with body := b.body.take 14 ++ leBytes 2 r ++ b.body.drop 16 }

/-- Waiting requests receive their routes again, a read its response route as well (R98, R388): one whose destination has none is
discarded and answered. -/
def reroute (l : Nat) (d : Dev) : Dev :=
  let k := d.lock l
  let again (w : Waiting) : Option Waiting :=
    let dest := match w.kind with
      | .data => some w.dest
      | .read => destOf d false w.addr
      | .write => destOf d true w.addr
    match dest.bind fun c => (k.routeMap.find? fun e => e.1 = c).map fun e => (c, e.2) with
    | none => none
    | some (c, r) =>
      let back (b : Barge) : Barge := if w.kind = .read then setResponse (responseRoute d c l) b else b
      some { w with dest := c, route := r, barges := w.barges.map fun b => back { b with route := BitVec.ofNat 12 r } }
  let lost := k.queue.filter fun w => (again w).isNone
  let answered (r : HostRead) : HostRead :=
    match k.queue.find? fun w => decide (w.id = r.id ∧ w.kind = .read) with
    | some w => { r with route := readRoute d l w.addr }
    | none => r
  let d := (d.modHost fun h => { h with reads := h.reads.map answered }).modLock l fun k => { k with queue := k.queue.filterMap again }
  let d := endHolds (fun h => h.lock == some l && lost.any fun w => w.id == h.id) d
  lost.foldl (fun d w => failRerouted l w d) d

/-! ### The commands -/

/-- LOCK_ARRIVAL (R83). -/
def execLockArrival (lock : Fin 128) (inst : Fin 1024) (r : LockReq) (s : State) : Host.Outcome State Fault Refusal :=
  onDev (fun d =>
    if lockKind lock.val = none then d
    else match lockArrive lock.val inst.val none false r d with
      | (.full, d) => noRoom lock.val (requestRoute lock.val r d) d
      | (_, d) => d) s

/-- GATE_OPENING (R86). -/
def execGateOpening (lock : Fin 128) (s : State) : Host.Outcome State Fault Refusal :=
  onDev (gateOpening lock.val) s

/-- PAUSE_REPEAT (R92): every 100 µs while the fill stays at or above pause_off. -/
def execPauseRepeat (lock : Fin 128) (s : State) : Host.Outcome State Fault Refusal :=
  onDev (fun d =>
    let k := d.lock lock.val
    if k.paused ∧ k.pauseEn ∧ k.closed = false ∧ k.pauseOff ≤ k.fill ∧ k.pauseAt ≤ d.uptime then
      (d.modLock lock.val fun k => { k with pauseAt := d.uptime + 100000 }).emit (.pauseFrame lock.val 0xFFFF)
    else d) s

/-- HOLD_END (R95, R397): the chunk's copy into CKPT_STAGING is complete, if a staging chunk is free; its holds end. -/
def execHoldEnd (chunk : Nat) (s : State) : Host.Outcome State Fault Refusal :=
  onDev (fun d =>
    if (d.locks.holds.any fun h => h.kind == .copyBeforeWrite && h.chunk == chunk) then
      match stageChunk chunk d with
      | some d => endHolds (fun h => h.kind == .copyBeforeWrite && h.chunk == chunk) d
      | none => d
    else d) s

/-- HOLD_ALLOWANCE_EXPIRY (R96, R25, R397): a hold passes its allowance. -/
def execHoldAllowanceExpiry (index : Nat) (s : State) : Host.Outcome State Fault Refusal :=
  onDev (fun d =>
    match d.locks.holds[index]? with
    | none => d
    | some h =>
      if h.overrun ∨ d.uptime ≤ h.since + allowance d h.kind then d
      else
        let d := d.modLocks fun k => { k with holds := k.holds.set index { h with overrun := true, repeatDue := d.uptime + 1000000 } }
        let d := if h.kind = .copyBeforeWrite
          then d.modRel fun r => { r with cbwOverruns := satAdd 65535 r.cbwOverruns 1 } else d
        let d := match h.lock with
          | none => d
          | some l =>
            post 0x0401 (unitBlock (lockDie l) 4 l (some h.inst)) 0
              (syn [(32, 1, l), (34, 2, h.route), (36, 2, h.inst), (40, 4, d.uptime - h.since), (44, 4, h.chunk)])
              (d.modLock l fun k => { k with overruns := satAdd 65535 k.overruns 1 })
        postHoldDerate (holdFactor d h) (heldInstances d) d) s

/-- HOLD_DERATE_REPEAT (R25): every 1 ms while the hold lasts past its allowance. -/
def execHoldDerateRepeat (index : Nat) (s : State) : Host.Outcome State Fault Refusal :=
  onDev (fun d =>
    match d.locks.holds[index]? with
    | none => d
    | some h =>
      if h.overrun ∧ h.repeatDue ≤ d.uptime then
        postHoldDerate (holdFactor d h) (heldInstances d) (d.modLocks fun k =>
          { k with holds := k.holds.set index { h with repeatDue := d.uptime + 1000000 } })
      else d) s

/-- SLUICE_COMPLETE (R97). -/
def execSluiceComplete (index : Nat) (s : State) : Host.Outcome State Fault Refusal :=
  onDev (endSluice index) s

/-- CMD_LOCK_STATUS (R101): kind, size, fill, back-pressure, counts, holds. -/
def execCmdLockStatus (c : Cmd) (lock : Nat) (s : State) : Host.Outcome State Fault Refusal :=
  onDev (query c { i3c := true } fun d =>
    match lockKind lock with
    | none => fail .invalid
    | some k =>
      let x := d.lock lock
      ok [k.code, x.size, x.fill, b2n (if k = .eth then x.paused else x.closed || !x.room 512), x.drops, x.holds, x.overruns,
        (d.locks.holds.filter fun h => h.lock == some lock).length]) s

/-- CMD_LOCK_SLUICE (R97, R101, R215). -/
def execCmdLockSluice (c : Cmd) (inst : Nat) (s : State) : Host.Outcome State Fault Refusal :=
  onDev (mailbox c { block := some 4 } fun d =>
    if 1024 ≤ inst then (fail .invalid, d)
    else if !createdThrough inst (actingPf c.src (some inst) d) d then (fail .notPermitted, d)
    else (ok [], startSluice none (some inst) false d)) s

/-- CMD_LOCK_READ_GATE (R101): a lock without a descriptor reads as entry 0. -/
def execCmdLockReadGate (c : Cmd) (program bank lock slot : Nat) (s : State) : Host.Outcome State Fault Refusal :=
  onDev (query c {} fun d =>
    if !d.canal.resident.contains program || (lockKind lock).isNone || decide (2 ≤ bank ∨ 1024 ≤ slot) then fail .invalid
    else if (d.lock lock).described = false then ok [0]
    else ok [(tget 0 (if bank = 1 then d.locks.gatesShadow else d.locks.gates) (gateIndex lock program slot)).toNat]) s

/-- CMD_WEIGHT_SET (R88, R101): the weight takes effect at the next scheduled-lockage boundary. -/
def execCmdWeightSet (c : Cmd) (inst weight : Nat) (s : State) : Host.Outcome State Fault Refusal :=
  onDev (mailbox c {} fun d =>
    if 1024 ≤ inst ∨ weight = 0 ∨ 65536 ≤ weight then (fail .invalid, d)
    else if !createdThrough inst (actingPf c.src (some inst) d) d then (fail .notPermitted, d)
    else (ok [], d.modLocks fun k => { k with weightsDue := k.weightsDue ++ [(inst, weight)] })) s

/-- CMD_DERATE_STATUS (R101): the last record's fields (cause, f, previous f, count, sequence) and the map of affected instances. -/
def execCmdDerateStatus (c : Cmd) (s : State) : Host.Outcome State Fault Refusal :=
  onDev (query c { i3c := true } fun d =>
    { status := .ok,
      result := words [d.locks.derateCause, d.locks.derateF, d.locks.deratePrev, d.locks.derateSet.length, d.locks.derateSeq] ++
                  leBytes 128 (maskOf d.locks.derateSet) }) s

end Sys2Proof.Machine
end

