-- ==== Sys2Proof/Machine/HostBase.lean ====
section
/-! DEFINITION. What the PCI Express ports share (chapters 9 and 10): functions and instances, windows, tags, TLPs toward
the host and below the root ports, generations. -/

namespace Sys2Proof.Machine

/-! ### Functions and instances (R214, R217) -/

/-- The instance that a function stands for in its memory requests: the PF itself, or a created instance whose home PF it
is; none for a dormant VF or one that is resetting. -/
def fnInst (d : Dev) (f : HostFn) : Option Nat :=
  if f.vf = 0 then some f.ep.val
  else
    let i := f.vf.val + 1
    if (d.inst i).state = 2 ∧ (d.inst i).homePf = f.ep.val then some i else none

/-- The instance whose configuration space a function shows: a VF's while its home PF is this one. -/
def fnConfig (d : Dev) (f : HostFn) : Option Nat :=
  if f.vf = 0 then some f.ep.val
  else if (d.inst (f.vf.val + 1)).state ≠ 0 ∧ (d.inst (f.vf.val + 1)).homePf = f.ep.val then some (f.vf.val + 1) else none

/-! ### The configuration of a function (R214) -/

/-- The configuration that a function shows where it stands for no instance: its own, kept by the endpoint. -/
def Dev.dormantCfg (d : Dev) (f : HostFn) : DormantCfg := tget {} (d.ep f.ep.val).dormant f.vf.val

/-- Change it. -/
def Dev.modDormant (d : Dev) (f : HostFn) (g : DormantCfg → DormantCfg) : Dev :=
  d.modEp f.ep.val fun e => { e with dormant := tmod {} e.dormant f.vf.val g }

/-- What the configuration space of a function holds: an instance's, or a dormant function's own. -/
def fnCfg (d : Dev) (f : HostFn) : DormantCfg :=
  match fnConfig d f with
  | some i =>
    let x := d.inst i
    { mse := x.mse, bme := x.bme, msixEnable := x.msixEnable, msixMask := x.msixMask, aerUnc := x.aerUnc, aerCor := x.aerCor }
  | none => d.dormantCfg f

/-- An instance that has stood for VF i − 1 of one PF, or for none, now stands for that of another: each function keeps the
configuration that it shows. -/
def rehome (i : Nat) (old new : Option Nat) (d : Dev) : Dev :=
  if old = new ∨ i < 2 then d
  else
    let x := d.inst i
    let own : DormantCfg :=
      { mse := x.mse, bme := x.bme, msixEnable := x.msixEnable, msixMask := x.msixMask, aerUnc := x.aerUnc, aerCor := x.aerCor }
    let put (c : DormantCfg) (p : Nat) (d : Dev) : Dev := d.modEp p fun e => { e with dormant := tset {} e.dormant (i - 1) c }
    let d := match old with | some p => put own p d | none => d
    let c : DormantCfg := match new with | some p => tget {} (d.ep p).dormant (i - 1) | none => {}
    let d := match new with | some p => put {} p d | none => d
    d.modInst i fun x => { x with
      mse := c.mse, bme := c.bme, msixEnable := c.msixEnable, msixMask := c.msixMask, aerUnc := c.aerUnc, aerCor := c.aerCor }

/-- The home PF of an instance, which is the endpoint through which it issues requests. -/
def homeOf (d : Dev) (i : Nat) : Nat := if i < 2 then i else (d.inst i).homePf

/-- The next generation (R217). -/
def nextGen (g : BitVec 16) : BitVec 16 := if g = 0xFFFF#16 then 1 else g + 1

/-- Advance the generation of an instance. -/
def advanceGen (i : Nat) (d : Dev) : Dev := d.modInst i fun x => { x with gen := nextGen x.gen }

/-! ### Windows (R208, R209) -/

/-- Bytes lo to hi of an entry as a number. -/
def Window.field (w : Window) (lo hi : Nat) : Nat := bits w.toNat (8 * hi + 7) (8 * lo)

def Window.hostOffset (w : Window) : Nat := Window.field w 0 7
def Window.device (w : Window) : Nat := Window.field w 8 15
def Window.sizeLog2 (w : Window) : Nat := Window.field w 16 16
def Window.attrs (w : Window) : Nat := Window.field w 17 17
def Window.valid (w : Window) : Bool := bit (Window.attrs w) 0
def Window.read (w : Window) : Bool := bit (Window.attrs w) 1
def Window.write (w : Window) : Bool := bit (Window.attrs w) 2
def Window.strict (w : Window) : Bool := bit (Window.attrs w) 3
def Window.tag (w : Window) : Nat := Window.field w 18 19 % 1024

/-- The span of host offsets that a valid entry covers. -/
def Window.covers (w : Window) (o : Nat) : Bool :=
  Window.valid w && decide (Window.hostOffset w ≤ o ∧ o < Window.hostOffset w + 2 ^ Window.sizeLog2 w)

/-- A translated request: instance, device address, and the strict attribute. -/
structure Translated where
  inst : Nat
  addr : Nat
  strict : Bool
  deriving DecidableEq, Repr

/-- An entry translates a request of `n` bytes at offset `o` from its start, if the TLP stays inside it and it permits the
access. -/
def throughEntry (w : Window) (inst o n : Nat) (isWrite : Bool) : Option Translated :=
  if o + n ≤ 2 ^ Window.sizeLog2 w ∧ (if isWrite then Window.write w else Window.read w) = true
  then some { inst := inst, addr := Window.device w + o, strict := Window.strict w } else none

/-- Translation of a PF's BAR2 or of a root port's request (R209, R234). -/
def throughTable (t : Tab Window) (o n : Nat) (isWrite : Bool) : Option Translated :=
  match t.find? fun e => Window.covers e.2 o with
  | some e => throughEntry e.2 (Window.tag e.2) (o - Window.hostOffset e.2) n isWrite
  | none => none

/-- Translation of a memory request at BAR2 offset o of a function (R209). -/
def translate (d : Dev) (f : HostFn) (o n : Nat) (isWrite : Bool) : Option Translated :=
  match fnInst d f with
  | none => none
  | some i =>
    if f.vf = 0 then throughTable (d.ep f.ep.val).windows o n isWrite
    else
      let w := tget 0 (d.inst i).windows (o / 2 ^ 36)
      if Window.valid w ∧ o / 2 ^ 36 < 16 ∧ o % 2 ^ 36 < 2 ^ Window.sizeLog2 w
      then throughEntry w i (o % 2 ^ 36) n isWrite else none

/-- The locks of endpoint e, and of root port p (R81). -/
def epLock (e : Nat) (second : Bool) : Nat := 32 + 64 * e + b2n second
def portLock (p : Nat) (second : Bool) : Nat :=
  if p < 4 then 34 + 2 * p + b2n second else if p < 8 then 98 + 2 * (p - 4) + b2n second else 122 + (p - 8) / 2

/-- The ordering domain of a function's requests through an endpoint or port (R220). -/
def orderKey (port fn : Nat) : Nat := port * 1024 + fn

/-! ### TLPs that the device issues (R202, R221, R232, R240) -/

/-- The pieces of a span, cut at 4 KiB boundaries and to at most `limit` bytes of whole double words (R240). -/
def tlpPieces (limit : Nat) : Nat → Nat → Nat → List (Nat × Nat)
  | 0, _, _ => []
  | fuel + 1, a, n => if n = 0 then [] else
      let m := min n (min (max 4 limit - a % 4) (4096 - a % 4096))
      (a, m) :: tlpPieces limit fuel (a + m) (n - m)

/-- One posted write toward a port. -/
def writeTlp (port inst a : Nat) (bs : Bytes) (poison relaxed : Bool) (d : Dev) : Dev :=
  d.emit (if port < 2 then .hostWrite port inst (dwSpan a bs.length) bs poison relaxed
    else .portWrite (port - 2) inst (dwSpan a bs.length) bs poison relaxed)

/-- Posted writes of a span, split at Max Payload Size and 4 KiB; `bad` marks the parts that are poison. -/
def writeTlps (port inst a : Nat) (bs : Bytes) (bad : List (Nat × Nat)) (relaxed : Bool) (d : Dev) : Dev :=
  (tlpPieces (mpsOf d port) bs.length a bs.length).foldl (fun d p =>
    writeTlp port inst p.1 ((bs.drop (p.1 - a)).take p.2) (bad.any fun b => meets (p.1 - a) p.2 b.1 b.2) relaxed d) d

/-- The non-posted requests that a port may have outstanding (R202, R232). -/
def tagLimit (port : Nat) : Nat := if 10 ≤ port then 1024 else 8192

/-- Tags allocated at a port. -/
def portTags (d : Dev) (port : Nat) : List Tag := d.host.tags.filter fun t => t.port = port

/-- Issue a read with the tag that it names where that is free, else with the lowest free one (R223; log entry 146); none while the port's
tags are used up. -/
def issueRead (t : Tag) (d : Dev) : Option Dev :=
  let used := portTags d t.port
  if tagLimit t.port ≤ used.length then none
  else match (t.tag :: List.range (tagLimit t.port)).find? fun n => !(used.any fun u => u.tag = n) with
    | none => none
    | some n =>
      let t := { t with tag := n, gen := (d.inst t.inst).gen, since := d.uptime }
      let d := d.modHost fun h => { h with tags := h.tags ++ [t] }
      some (d.emit (if t.port < 2 then .hostRead t.port t.inst n (dwSpan t.addr t.length)
        else .portRead (t.port - 2) t.inst n (dwSpan t.addr t.length)))

/-- Read requests for a span as far as tags allow, cut at 4 KiB boundaries, which also keeps each to 4,096 bytes (R240), or to
`size` where that is less (a byte at least): the bytes asked for in all. `tag` is the one to take where it is free; `use` names the work by the
offset of each. -/
def issueReads (port inst a n tag size : Nat) (use : Nat → TagUse) : Nat → Nat → Dev → Nat × Dev
  | 0, asked, d => (asked, d)
  | fuel + 1, asked, d =>
    if n ≤ asked then (asked, d)
    else
      let m := min (min (n - asked) (4096 - (a + asked) % 4096)) (max 1 size)
      match issueRead { port := port, tag := tag, inst := inst, addr := a + asked, length := m, work := use asked } d with
      | some d => issueReads port inst a n tag size use fuel (asked + m) d
      | none => (asked, d)

/-- The bytes of a request's range in a completion that carries whole double words: what lies outside it is discarded (R240). -/
def inRequest (t : Tag) (data : Bytes) : Bytes := fit t.length (data.drop (t.addr % 4))

/-- Free a tag. -/
def freeTag (port tag : Nat) (d : Dev) : Dev :=
  d.modHost fun h => { h with tags := h.tags.filter fun t => decide (t.port ≠ port ∨ t.tag ≠ tag) }

end Sys2Proof.Machine
end

