-- ==== Sys2Proof/Machine/Dma.lean ====
section
/-! DEFINITION. The DMA engine (R237–R247) and the root ports of chapter 10. -/

namespace Sys2Proof.Machine

/-- Channel c. -/
def Dev.dmaCh (d : Dev) (c : Nat) : DmaCh := tget {} d.acc.ch c

/-- Change channel c. -/
def Dev.modDma (d : Dev) (c : Nat) (f : DmaCh → DmaCh) : Dev := d.modAcc fun a => { a with ch := tmod {} a.ch c f }

/-- Change the work of channel c. -/
def Dev.modWork (d : Dev) (c : Nat) (f : DmaWork → DmaWork) : Dev := d.modDma c fun x => { x with work := x.work.map f }

/-- The port of an address space other than device memory (R238): endpoint 0–1, or 2 + root port. -/
def spacePort (d : Dev) (inst space : Nat) : Nat := if space = 1 then homeOf d inst else space

/-! ### Descriptors (R237, R238) -/

/-- A descriptor's fields. -/
def parseDescriptor (b : Bytes) (index : Nat) : DmaWork :=
  let flags := fieldLe b 22 1
  { src := fieldLe b 0 8, dst := fieldLe b 8 8, length := fieldLe b 16 4, srcSpace := fieldLe b 20 1,
    dstSpace := fieldLe b 21 1, irqHalf := bit flags 0, irqFull := bit flags 1, relaxed := bit flags 2,
    vector := fieldLe b 24 2, cookie := BitVec.ofNat 64 (fieldLe b 32 8), operation := BitVec.ofNat 64 (fieldLe b 40 8),
    index := index }

/-- A field of a descriptor is reserved (R237, R238), or its source and destination overlap. -/
def descriptorReserved (inst : Nat) (b : Bytes) (w : DmaWork) : Bool :=
  decide (16 ≤ fieldLe b 22 1) || !zeros b 23 1 || !zeros b 26 6 || !zeros b 48 16 || decide (w.length = 0) ||
    decide (268435456 < w.length) || decide (10 ≤ w.srcSpace) || decide (10 ≤ w.dstSpace) ||
    decide ((if inst < 2 then 2048 else 16) ≤ w.vector) ||
    (decide (w.srcSpace = w.dstSpace) && meets w.src w.length w.dst w.length)

/-- The span lies wholly in one of the instance's grants (R212). -/
def inGrant (d : Dev) (inst a n : Nat) : Bool :=
  match (d.inst inst).desc with
  | some x => x.grants.any fun g => decide (g.1 ≤ a ∧ a + n ≤ g.1 + g.2)
  | none => false

/-- An instance may address a span of device memory: its grants, or for instances 0 and 1 any mapped address outside the
reserved regions (R191, R238). -/
def mayAddress (d : Dev) (inst a n : Nat) : Bool :=
  spanMapped d a n && (if inst < 2 then !reservedSpan d [] a n else inGrant d inst a n)

/-- An outbound span below an accelerator port lies in a range of the instance (R235). -/
def inRange (d : Dev) (port inst a n : Nat) : Bool :=
  decide (2 ^ 47 ≤ a ∧ a + n ≤ 2 ^ 48) && (decide (inst < 2) ||
    (d.port port).ranges.any fun e => decide (e.2.2.2 = inst ∧ e.2.1 ≤ a ∧ a + n ≤ e.2.1 + e.2.2.1))

/-- An instance may read a span of device memory: as `mayAddress`, and a physical function the TRACE region too while trace data may
leave the device (R191, R333). -/
def mayRead (d : Dev) (inst a n : Nat) : Bool :=
  mayAddress d inst a n || (decide (inst < 2) && d.obs.visible && outsideSpan d true a n)

/-- A span of a space may be used as a source (`isRead`) or as a destination. -/
def spaceMapped (d : Dev) (inst : Nat) (isRead : Bool) (space a n : Nat) : Bool :=
  if space = 0 then (if isRead then mayRead d inst a n else mayAddress d inst a n)
  else if space = 1 then true
  else inRange d (space - 2) inst a n

/-- The status of a descriptor that performs nothing (R238, R21). -/
def descriptorStatus (d : Dev) (inst : Nat) (b : Bytes) (w : DmaWork) : Nat :=
  if descriptorReserved inst b w then 1
  else if !spaceMapped d inst true w.srcSpace w.src w.length || !spaceMapped d inst false w.dstSpace w.dst w.length then 2
  else if (decide (w.srcSpace = 0) && inFailed d w.src w.length) || (decide (w.dstSpace = 0) && inFailed d w.dst w.length) then 3
  else 0

/-! ### Moving data (R239–R241, R243) -/

/-- The bytes written without a gap, given the parts beyond it. -/
def joinParts : Nat → Nat → List (Nat × Nat) → Nat × List (Nat × Nat)
  | 0, n, ps => (n, ps)
  | fuel + 1, n, ps =>
    match ps.find? fun p => p.1 = n with
    | some p => joinParts fuel (n + p.2) (ps.erase p)
    | none => (n, ps)

/-- The channel may issue requests: its function may, and it is neither stopping nor being disabled. -/
def dmaMayRun (d : Dev) (c : Nat) : Bool :=
  let x := d.dmaCh c
  masters d x.inst && !x.stopping && !x.disabling

/-- A record of the descriptor may fall due at what has been written: a half, the whole, or the end of one that has failed. -/
def recordNears (w : DmaWork) : Bool :=
  w.ended || decide (w.length ≤ w.written) || (w.irqHalf && !w.halfDone && decide (w.length / 2 ≤ w.written))

/-- A zero-length read goes to a PCI Express destination once a record waits on what has been written (R243); toward device
memory what is written is visible. -/
def askFlush (c : Nat) (d : Dev) : Dev :=
  match (d.dmaCh c).work with
  | none => d
  | some w =>
    if w.dstSpace = 0 then d.modWork c fun w => { w with visible := w.written, covered := w.total }
    else if w.flushing.isSome ∨ w.total ≤ w.covered ∨ recordNears w = false ∨ dmaMayRun d c = false then d
    else
      let inst := (d.dmaCh c).inst
      match issueRead { port := spacePort d inst w.dstSpace, inst := inst, addr := w.dst, work := .flush c w.number } d with
      | some d => d.modWork c fun w => { w with flushing := some (w.written, w.total) }
      | none => d

/-- Poisoned data has been met: the descriptor completes with POISONED, and DMA_POISON is posted once (R239). -/
def dmaPoison (c : Nat) (d : Dev) : Dev :=
  match (d.dmaCh c).work with
  | none => d
  | some w =>
    if w.status = 3 then d
    else
      let inst := (d.dmaCh c).inst
      post 0x0A03 (unitBlock (if c < 128 then 4 else 5) 9 127 (some inst)) w.operation
        (syn [(32, 2, c), (36, 2, inst), (40, 8, w.cookie.toNat)]) (d.modWork c fun w => { w with status := 3 })

/-- The lock through which the engine's data enters device memory from a source space (R81, R183, log entry 140): the accelerator
port's or the endpoint's own, and the SERVICE lock of the channel's half for a copy inside device memory. -/
def dmaLock (d : Dev) (c : Nat) (w : DmaWork) : Nat :=
  if w.srcSpace = 0 then 56 + 64 * (c / 128)
  else if w.srcSpace = 1 then epLock (homeOf d (d.dmaCh c).inst) false
  else portLock (w.srcSpace - 2) false

/-- Data reaches the destination: offset, bytes and the poisoned parts of them. -/
def dmaWrite (c : Nat) (w : DmaWork) (off : Nat) (bs : Bytes) (bad : List (Nat × Nat)) (d : Dev) : Dev :=
  let inst := (d.dmaCh c).inst
  let barge (i n : Nat) : Bool := bad.any fun b => meets (256 * (i / 256)) (256 * ((i + n - 1) / 256 - i / 256) + 256) b.1 b.2
  let d := if w.dstSpace = 0 then engineWriteBy (some (dmaLock d c w)) w.operation (w.dst + off) bs barge d
    else writeTlps (spacePort d inst w.dstSpace) inst (w.dst + off) bs bad w.relaxed d
  let d := (d.modDma c fun x => { x with bytes := x.bytes + bs.length }).modWork c fun w =>
    let j := joinParts (w.parts.length + 1) w.written (w.parts ++ [(off, bs.length)])
    { w with written := j.1, parts := j.2, total := w.total + bs.length }
  askFlush c (if bad = [] then d else dmaPoison c d)

/-- The destination can take data now: always toward PCI Express, and device memory when nothing stands in the way. -/
def dmaReady (d : Dev) (c : Nat) (w : DmaWork) (off n : Nat) : Bool :=
  if w.dstSpace = 0 then canWrite d (some (dmaLock d c w)) (w.dst + off) n else true

/-- The wait of data for its write is counted once where it is for merge tokens (R183). -/
def dmaNote (c : Nat) (w : DmaWork) (off n : Nat) (d : Dev) : Dev :=
  if w.dstSpace = 0 then noteWait (some (dmaLock d c w)) (w.dst + off) n d else d

/-- Data that waited for its write goes as far as it can. -/
def dmaFlushWaiting (c : Nat) (d : Dev) : Dev :=
  match (d.dmaCh c).work with
  | none => d
  | some w =>
    w.waiting.foldl (fun d e =>
      if dmaReady d c w e.1 e.2.1.length then
        dmaWrite c w e.1 e.2.1 (if e.2.2 then [(0, e.2.1.length)] else [])
          (d.modWork c fun w => { w with waiting := w.waiting.erase e })
      else dmaNote c w e.1 e.2.1.length d) d

/-- Read requests toward a PCI Express source as far as tags allow (R240); none while the channel may issue no request. -/
def askReads (c : Nat) (d : Dev) : Dev :=
  match (d.dmaCh c).work with
  | none => d
  | some w =>
    if w.ended ∨ dmaMayRun d c = false then d
    else
      let inst := (d.dmaCh c).inst
      let r := issueReads (spacePort d inst w.srcSpace) inst w.src w.length 0 4096 (.data c w.number) (w.length / 4096 + 2) w.asked d
      r.2.modWork c fun w => { w with asked := r.1 }

/-- The number of the next descriptor that a channel takes or reads. -/
def nextWork (d : Dev) : Nat × Dev := (d.acc.nextWork, d.modAcc fun a => { a with nextWork := a.nextWork + 1 })

/-- Take a descriptor: one that may run begins to move, from device memory at once, from PCI Express by read requests. One that meets a
delta hold, waits for the stack map or for merge tokens is not yet taken. -/
def takeDescriptor (c : Nat) (bs : Bytes) (poison : Bool) (d : Dev) : Dev :=
  let x := d.dmaCh c
  let k := nextWork d
  let w := { parseDescriptor bs x.head with number := k.1 }
  let st := if poison then 3 else descriptorStatus d x.inst bs w
  if st ≠ 0 then k.2.modDma c fun x => { x with fetched := none, work := some { w with status := st, ended := true } }
  else if w.srcSpace = 0 then
    if hbmWaits d w.src w.length ∨ dmaReady d c w 0 w.length = false then dmaNote c w 0 w.length d
    else
      let g := memReadMap w.operation w.src w.length k.2
      let d := g.2.modDma c fun x => { x with fetched := none, work := some { w with asked := w.length } }
      dmaWrite c w 0 g.1.1 g.1.2 d
  else askReads c (k.2.modDma c fun x => { x with fetched := none, work := some w })

/-- The read of a descriptor in host memory has failed (R223): nothing is known of it but its place in the ring, so its cookie is a free
value (log entry 141). -/
def lostDescriptor (c : Nat) (d : Dev) : Dev :=
  let k := d.draw Config.unreadCookie
  k.2.modDma c fun x => { x with fetched := none, work := some { status := 4, ended := true, cookie := k.1, index := x.head } }

/-- A channel takes the descriptor at its head: from device memory, or from host memory once a read has returned it,
which takes the tag given where it is free. -/
def dmaStart (c tag : Nat) (d : Dev) : Dev :=
  let x := d.dmaCh c
  if x.state ≠ 2 ∨ x.work.isSome ∨ x.head = x.tail ∨ dmaMayRun d c = false ∨ x.fetching.isSome then d
  else if x.ringSpace = 0 then
    let r := memRead 0 (x.ringBase + 64 * x.head) 64 d
    takeDescriptor c r.1.1 r.1.2 r.2
  else match x.fetched with
    | some (some b) => takeDescriptor c b.1 b.2 d
    | some none => lostDescriptor c d
    | none =>
      let k := nextWork d
      match issueRead { port := homeOf d x.inst, tag := tag, inst := x.inst, addr := x.ringBase + 64 * x.head, length := 64, work := .descriptor c k.1 } k.2 with
      | some d => d.modDma c fun x => { x with fetching := some k.1 }
      | none => d

/-- A descriptor has come from host memory, or its read has timed out. -/
def dmaFetched (c number : Nat) (r : Option (Bytes × Bool)) (d : Dev) : Dev :=
  if (d.dmaCh c).fetching = some number ∧ (d.dmaCh c).disabling = false ∧ (d.dmaCh c).stopping = false
  then d.modDma c fun x => { x with fetching := none, fetched := some r } else d

/-- The descriptor in progress of channel c is number n, and what reads return may still move: a completion for another one, or while
the channel is being disabled or stopped, is discarded (R245–R247). -/
def dmaTakes (d : Dev) (c n : Nat) : Bool :=
  match (d.dmaCh c).work with
  | some w => decide (w.number = n) && !w.ended && !(d.dmaCh c).disabling && !(d.dmaCh c).stopping
  | none => false

/-- Data that a read returned for descriptor n of channel c, from offset off of it. -/
def dmaData (c n off : Nat) (bs : Bytes) (poison : Bool) (d : Dev) : Dev :=
  if dmaTakes d c n then
    askReads c (dmaFlushWaiting c (d.modWork c fun w => { w with waiting := w.waiting ++ [(off, bs, poison)] }))
  else d

/-- The zero-length read of descriptor n of channel c has completed. -/
def dmaFlushed (c n : Nat) (d : Dev) : Dev :=
  if (match (d.dmaCh c).work with | some w => decide (w.number = n) | none => false) then
    askFlush c (d.modWork c fun w => { w with
      visible := (w.flushing.map (·.1)).getD w.visible, covered := (w.flushing.map (·.2)).getD w.covered, flushing := none })
  else d

/-- A read of descriptor n of channel c has timed out: the descriptor ends with TIMEOUT (R247). Where it was the zero-length read, none
other precedes the record (log entry 141). -/
def dmaTimeout (c n : Nat) (d : Dev) : Dev :=
  d.modWork c fun w =>
    if w.number ≠ n then w
    else { w with status := if w.ended then w.status else 4, ended := true, waiting := [],
                  covered := if w.flushing.isSome then w.total else w.covered, flushing := none }

/-! ### Records (R242, R243) -/

/-- Write a record at the next place of the completion ring, which has as many places as the descriptor ring, and raise the
vector. Its bytes field gives what has been written, or after a stop what is visible (R242, R246). -/
def dmaRecord (c : Nat) (w : DmaWork) (kind : Nat) (d : Dev) : Dev :=
  let x := d.dmaCh c
  let bytes := leBytes 8 w.cookie.toNat ++ leBytes 4 (if w.status = 5 then w.visible else w.total) ++ leBytes 1 w.status ++ leBytes 1 kind ++ leBytes 2 w.index
  let a := x.complBase + 16 * (x.records % 2 ^ x.n)
  let d := if x.ringSpace = 0 then engineWrite (some (56 + 64 * (c / 128))) w.operation a bytes false d
    else writeTlp (homeOf d x.inst) x.inst a bytes false false d
  raiseMsix x.inst w.vector (d.modDma c fun x => { x with records := x.records + 1 })

/-- The channel is done with its descriptor: the head moves on. -/
def dmaAdvance (c : Nat) (d : Dev) : Dev :=
  d.modDma c fun x =>
    let head := (x.head + 1) % 2 ^ x.n
    { x with work := none, head := head, descDone := x.descDone + 1,
             state := if x.state = 2 ∧ head = x.tail then 1 else x.state }

/-- The half record is due. -/
def halfDue (w : DmaWork) : Bool :=
  w.irqHalf && !w.halfDone && !w.ended && decide (w.length / 2 ≤ w.visible) && decide (w.status = 0 ∨ w.status = 3)

/-- A record can be written now: its function may issue requests, the channel is neither being disabled nor stopped (R245, R246), and
where the ring is in device memory nothing stands in the way. -/
def recordReady (d : Dev) (c : Nat) : Bool :=
  let x := d.dmaCh c
  dmaMayRun d c && (decide (x.ringSpace ≠ 0) ||
    canWrite d (some (56 + 64 * (c / 128))) (x.complBase + 16 * (x.records % 2 ^ x.n)) 16)

/-- A kind-0 record (R243). -/
def dmaHalf (c : Nat) (d : Dev) : Dev :=
  let d := askFlush c (dmaFlushWaiting c d)
  match (d.dmaCh c).work with
  | none => d
  | some w => if halfDue w ∧ recordReady d c then dmaRecord c w 0 (d.modWork c fun w => { w with halfDone := true }) else d

/-- A kind-1 record (R243): the descriptor is visible as a whole, or has failed and a zero-length read has followed what it wrote. -/
def dmaFull (c : Nat) (d : Dev) : Dev :=
  let d := askFlush c (dmaFlushWaiting c d)
  match (d.dmaCh c).work with
  | none => d
  | some w =>
    if halfDue w ∨ (if w.ended then decide (w.covered < w.total) else decide (w.visible < w.length)) ∨ recordReady d c = false then d
    else dmaAdvance c (if w.irqFull ∨ w.status ≠ 0 then dmaRecord c w 1 d else d)

/-! ### Doorbells, disable and stop (R244–R247) -/

/-- A tail is written: ignored at or beyond the ring size; an idle channel with work runs, and a stopped one restarts when
Bus Master Enable is 1. -/
def dmaTail (c tail : Nat) (d : Dev) : Dev :=
  let x := d.dmaCh c
  if x.state = 0 ∨ x.n = 0 ∨ 2 ^ x.n ≤ tail then d
  else d.modDma c fun x =>
    let runs := decide (x.state = 1 ∨ x.state = 2) || (decide (x.state = 3) && (d.inst x.inst).bme && !x.stopping)
    { x with tail := tail, state := if runs then (if x.work.isNone ∧ x.head = tail then 1 else 2) else x.state }

/-- Enable: a disabled or stopped channel starts with its counts at zero and its head at the tail; while Bus Master Enable is
0 it enters state 3. -/
def dmaEnable (c tail : Nat) (d : Dev) : Dev :=
  let x := d.dmaCh c
  if x.n = 0 ∨ 2 ^ x.n ≤ tail then d
  else if (x.state = 3 ∨ x.state = 4) ∧ x.disabling = false ∧ x.stopping = false then
    d.modDma c fun x => { x with tail := tail, head := tail, descDone := 0, bytes := 0,
                                 state := if (d.inst x.inst).bme then 1 else 3 }
  else dmaTail c tail d

/-- Disable: no new request, and what the engine holds is lost (R245); a stop under R246 gives way to it (R247). -/
def dmaDisable (c : Nat) (d : Dev) : Dev :=
  let x := d.dmaCh c
  if x.state = 0 ∨ x.state = 4 then d
  else d.modDma c fun x => { x with
    disabling := true, stopping := false, fetching := none, fetched := none, work := x.work.map fun w => { w with waiting := [] } }

/-- A 64-bit write to a doorbell (R244): its tail is tested first, and is stored by each form of the write. A channel without a ring has no
ring size, and a disable reaches it all the same (log entry 141). -/
def dmaDoorbell (c : Nat) (value : Word) (d : Dev) : Dev :=
  let v := value.toNat
  let x := d.dmaCh c
  if (bit v 62 && bit v 63) = true ∨ (0 < x.n ∧ 2 ^ x.n ≤ v % 65536) then d
  else if bit v 63 then dmaDisable c (if x.n = 0 ∨ x.state = 0 then d else d.modDma c fun x => { x with tail := v % 65536 })
  else if bit v 62 then dmaEnable c (v % 65536) d
  else dmaTail c (v % 65536) d

/-- A free value for each of n bytes of a destination (R245). -/
def undefinedBytes (n : Nat) (d : Dev) : Bytes × Dev :=
  ((List.range n).map fun i => Config.dmaUndefinedByte (d.fresh + i), { d with fresh := d.fresh + n })

/-- The channel reaches state 4 (R245): its data is lost, the destination of its descriptor holds undefined bytes, and its
head and counts are undefined. -/
def dmaDisabled (c : Nat) (d : Dev) : Dev :=
  let x := d.dmaCh c
  if x.disabling = false then d
  else
    let d := match x.work with
      | some w =>
        if w.dstSpace = 0 ∧ w.ended = false then
          let u := undefinedBytes w.length d
          engineWrite none w.operation w.dst u.1 false u.2
        else d
      | none => d
    let k := d.draw Config.dmaUndefinedCount
    let h := k.2.draw Config.dmaUndefinedCount
    let b := h.2.draw Config.dmaUndefinedCount
    b.2.modDma c fun x => { x with state := 4, disabling := false, work := none, descDone := k.1,
                                   head := h.1.toNat % 2 ^ x.n, bytes := 4096 * b.1.toNat }

/-- Bus Master Enable is cleared or an FLR begins: the channel begins to stop (R246); a disabled one stays disabled. -/
def dmaBeginStop (c : Nat) (d : Dev) : Dev :=
  d.modDma c fun x => if x.state = 0 ∨ x.state = 4 ∨ x.disabling then x else { x with stopping := true, fetching := none, fetched := none }

/-- The channel has stopped (R246): its descriptor completes with FUNCTION_STOPPED. -/
def dmaStopped (c : Nat) (d : Dev) : Dev :=
  let x := d.dmaCh c
  if x.stopping = false then d
  else
    let d := match x.work with
      | some w => dmaAdvance c (dmaRecord c { w with status := 5 } 1 d)
      | none => d
    d.modDma c fun x => { x with state := 3, stopping := false }

/-! ### Root ports -/

/-- The inbound window table of a port: the accelerators' is written by command, the NVMe ports' by the storage service, of whose entries
the manual says nothing (R234, log entry 141). -/
def inboundTable (d : Dev) (p : Nat) : Tab Window :=
  if p < 8 then (d.port p).windows else (List.range 64).map fun e => (e, Config.nvmeWindow (p - 8) e)

/-- AER of a root port shows an uncorrectable error (R232). -/
def portAer (p b : Nat) (d : Dev) : Dev := d.modPort p fun x => { x with aerUnc := x.aerUnc ||| 2 ^ b }

/-- A request from below a root port (R234, R21, R191): translated, refused with Unsupported Request, or admitted to a
chamber of the port. With no room there the link holds it. -/
def portRequest (p : Nat) (second : Bool) (r : PortReq) (d : Dev) : Dev :=
  let refuse (tag : Option Nat) (d : Dev) : Dev :=
    let d := portAer p aerUr (d.modPort p fun x => { x with ur := satAdd (2 ^ 24 - 1) x.ur 1 })
    match tag with | some t => d.emit (.portCompletion p t .unsupported [] false) | none => d
  if (d.port p).up = false ∨ (d.port p).busMaster = false then d
  else match r with
    | .other t => refuse t d
    | .badEcrc => if (d.port p).ecrcCheck then portAer p aerEcrc d else d
    | .read a n t =>
      if 2 ^ 47 ≤ a then refuse (some t) d
      else match throughTable (inboundTable d p) a n false with
        | none => refuse (some t) d
        | some x =>
          let h : HostRead := { port := 2 + p, tag := t, inst := x.inst, addr := a, length := n,
                                route := readRoute d (portLock p second) x.addr }
          let poisoned (d : Dev) : Dev := completeBytes h a (List.replicate n 0) [(0, n)] d
          if !outsideSpan d false x.addr n then refuse (some t) d
          else if inFailed d x.addr n then poisoned d
          else match lockArrive (portLock p second) x.inst (some (orderKey (2 + p) 0)) false (.read x.addr n 0) d with
            | (.waits id, e) => e.modHost fun q => { q with reads := q.reads ++ [{ h with id := id }] }
            | (.unmapped, d) => refuse (some t) d
            | (.failed, d) => poisoned d
            | (.full, _) => d
    | .write a bs poison relaxed =>
      let noted (d : Dev) : Dev := if poison then portAer p aerPoison d else d
      if 2 ^ 47 ≤ a then refuse none d
      else match throughTable (inboundTable d p) a bs.length true with
        | none => refuse none d
        | some x =>
          if !outsideSpan d false x.addr bs.length then refuse none d
          else if inFailed d x.addr bs.length then noted d
          else match lockArrive (portLock p second) x.inst (some (orderKey (2 + p) 0)) (relaxed && !x.strict)
              (.write x.addr bs poison 0) d with
            | (.waits _, d) => noted d
            | (.unmapped, d) => refuse none d
            | (.failed, d) => noted d
            | (.full, _) => d

/-- A drive's deep idle state has ENLAT + EXLAT of at most 50 ms (R325). A drive is there while its port's link is up, unless it has been marked failed (R323). -/
def driveLink (p : Nat) (up : Bool) (d : Dev) : Dev :=
  if p < 8 then d
  else d.modStorage fun s => { s with drives := tmod {} s.drives (p - 8) fun x =>
    if x.state = 2 then x
    else { x with state := b2n up, exitLatency := if up then 100 + min 50000 (Config.driveExit (p - 8)).toNat else 0 } }

/-- PORT_LINK_DOWN's unit and that of the other port classes: the die and number of the port. -/
def portUnit (p : Nat) : W32 := unitBlock (if p < 4 then 4 else 5) 9 p

/-- A window entry breaks R208: `pf` selects the PF form. -/
def badWindow (pf : Bool) (w : Window) : Bool :=
  let z := Window.sizeLog2 w
  decide (z < 12 ∨ (if pf then 40 else 36) < z) || decide (16 ≤ Window.attrs w) || decide (Window.field w 20 31 ≠ 0) ||
    decide (Window.device w % 2 ^ z ≠ 0 ∨ 2 ^ 48 ≤ Window.device w) ||
    (if pf then decide (Window.hostOffset w % 2 ^ z ≠ 0 ∨ 1024 ≤ Window.field w 18 19)
     else decide (Window.hostOffset w ≠ 0 ∨ Window.field w 18 19 ≠ 0))

/-- An entry overlaps another entry of its table that is valid. -/
def overlaps (t : Tab Window) (index : Nat) (w : Window) : Bool :=
  t.any fun e => decide (e.1 ≠ index) && Window.valid e.2 &&
    meets (Window.hostOffset w) (2 ^ Window.sizeLog2 w) (Window.hostOffset e.2) (2 ^ Window.sizeLog2 e.2)

/-! ### The commands -/

/-- PORT_INBOUND_REQUEST (R234). -/
def execPortInboundRequest (port : Fin 12) (second : Bool) (r : PortReq) (s : State) : Host.Outcome State Fault Refusal :=
  onDev (portRequest port.val second r) s

/-- PTM_REQUEST (R236): answered with the nanoseconds of cluster time once the timebase has locked, in holdover as well. -/
def execPtmRequest (port : Fin 12) (s : State) : Host.Outcome State Fault Refusal :=
  onDev (fun d => if d.time.locked then d.emit (.ptmResponse port.val d.time.ns 1) else d) s

/-- A root port's link goes down (R232). -/
def portLinkDown (p : Nat) (d : Dev) : Dev :=
  if (d.port p).up then
    post 0x0A00 (portUnit p) 0 (syn [(32, 1, p)]) (driveLink p false (d.modPort p fun x => { x with
      up := false, speed := 0, width := 0, flit := false, ptm := false }))
  else d

/-- PORT_LINK_DOWN (R248). -/
def execPortLinkDown (port : Fin 12) (s : State) : Host.Outcome State Fault Refusal := onDev (portLinkDown port.val) s

/-- PORT_LINK_UP (R232): the link trains with a speed code, a width and FLIT mode at 64 GT/s. -/
def execPortLinkUp (port : Fin 12) (speed width : Nat) (s : State) : Host.Outcome State Fault Refusal :=
  onDev (fun d =>
    let widths := if port.val < 8 then [4, 8, 16] else [4]
    if widths.contains width ∧ 1 ≤ speed ∧ speed ≤ 6 then
      driveLink port.val true (d.modPort port.val fun p => { p with up := true, speed := speed, width := width, flit := decide (speed = 6) })
    else d) s

/-- A root port notes an error message in its AER (R232; the bits of Root Error Status and Error Source Identification are PCI Express's,
log entry 141): received and received again, first fatal, non-fatal and fatal messages received; the first requester of each kind. -/
def aerMessage (severity requester : Nat) (x : RootPort) : RootPort :=
  let base := if severity = 0 then 0 else 2
  let again := bit x.aerRoot base
  let bits := 2 ^ base + (if again then 2 ^ (base + 1) else 0) + (if severity = 0 then 0 else if severity = 1 then 2 ^ 5 else 2 ^ 6) +
    (if severity = 2 ∧ !again then 2 ^ 4 else 0)
  { x with aerRoot := x.aerRoot ||| bits,
           aerSource := if again then x.aerSource else x.aerSource ||| (if severity = 0 then requester else requester * 2 ^ 16) }

/-- PORT_ERR_MESSAGE (R248). -/
def execPortErrMessage (port : Fin 12) (severity : Fin 3) (requester : BitVec 16) (s : State) : Host.Outcome State Fault Refusal :=
  onDev (fun d => post 0x0A02 (portUnit port.val) 0 (syn [(32, 1, port.val), (33, 1, severity.val), (34, 2, requester.toNat)])
    (d.modPort port.val (aerMessage severity.val requester.toNat))) s

/-- DMA_DISABLE_COMPLETE (R245). -/
def execDmaDisableComplete (ch : Fin 256) (s : State) : Host.Outcome State Fault Refusal := onDev (dmaDisabled ch.val) s

/-- DMA_STOP_COMPLETE (R246). -/
def execDmaStopComplete (ch : Fin 256) (s : State) : Host.Outcome State Fault Refusal := onDev (dmaStopped ch.val) s

/-- DMA_DESCRIPTOR_START (R237–R241). -/
def execDmaDescriptorStart (ch : Fin 256) (tag : Fin 16384) (s : State) : Host.Outcome State Fault Refusal := onDev (dmaStart ch.val tag.val) s

/-- DMA_HALF_RECORD (R243). -/
def execDmaHalfRecord (ch : Fin 256) (s : State) : Host.Outcome State Fault Refusal := onDev (dmaHalf ch.val) s

/-- DMA_FULL_RECORD (R243). -/
def execDmaFullRecord (ch : Fin 256) (s : State) : Host.Outcome State Fault Refusal := onDev (dmaFull ch.val) s

/-- The link word of a root port (ACCDMA_PORT_LINK). -/
def portLink (d : Dev) (p : Nat) : Nat :=
  let x := d.port p
  b2n x.up + at_ 1 x.speed + at_ 4 x.width + at_ 9 (b2n x.flit) + at_ 10 (b2n x.ptm)

/-- The counts word of a root port (ACCDMA_PORT_COUNTS). -/
def portCounts (d : Dev) (p : Nat) : Nat :=
  (portTags d (2 + p)).length + at_ 16 (d.port p).ur + at_ 40 (d.port p).timeouts

/-- CMD_PORT_STATUS (R249): link, assigned BARs, counts. -/
def execCmdPortStatus (c : Cmd) (port : Nat) (s : State) : Host.Outcome State Fault Refusal :=
  onDev (query c { i3c := true } fun d =>
    if 12 ≤ port then fail .invalid
    else ok ([portLink d port] ++ (List.range 6).map (tget 0 (d.port port).bars) ++ [portCounts d port])) s

/-- CMD_ACCEL_WINDOW_SET (R249, R210); bus mastering below the port follows the first entry (R233). -/
def execCmdAccelWindowSet (c : Cmd) (port entry : Nat) (value : BitVec 256) (s : State) : Host.Outcome State Fault Refusal :=
  onDev (mailbox c {} fun d =>
    if 8 ≤ port ∨ 64 ≤ entry then (fail .invalid, d)
    else if badWindow true value ∨ overlaps (d.port port).windows entry value ∨ mayName c.src.val (Window.tag value) d = false
    then (fail .invalid, d)
    else (ok [], d.modPort port fun p => { p with windows := tset 0 p.windows entry value, busMaster := true })) s

/-- CMD_ACCEL_RANGE_SET (R235, R249). -/
def execCmdAccelRangeSet (c : Cmd) (port entry addr size inst : Nat) (s : State) : Host.Outcome State Fault Refusal :=
  onDev (mailbox c {} fun d =>
    if 8 ≤ port ∨ 16 ≤ entry ∨ 1024 ≤ inst ∨ size < 4096 ∨ 2 ^ 40 < size ∨ size ≠ 2 ^ Nat.log2 size ∨ addr < 2 ^ 47 ∨
        2 ^ 48 < addr + size then (fail .invalid, d)
    else (ok [], d.modPort port fun p => { p with ranges := tset (0, 0, 0) p.ranges entry (addr, size, inst) })) s

/-- CMD_ACCEL_CFG (R249): a configuration access below the port; a read returns what the device answered. -/
def execCmdAccelCfg (c : Cmd) (port fn offset : Nat) (write : Bool) (value answer : W32) (s : State) :
    Host.Outcome State Fault Refusal :=
  onDev (mailbox c {} fun d =>
    if 8 ≤ port ∨ 8 ≤ fn ∨ 4096 ≤ offset ∨ offset % 4 ≠ 0 then (fail .invalid, d)
    else (if write then ok [] else ok [(if (d.port port).up then answer else 0xFFFFFFFF#32).toNat],
      d.emit (.portConfig port fn offset write value))) s

/-- The channel at a doorbell of the sender. -/
def senderChannel (c : Cmd) (doorbell : Nat) (d : Dev) : Option Nat :=
  (d.inst (if c.src.val < 1024 then c.src.val else 0)).dma[doorbell]?

/-- CMD_DMA_RING_SET (R247, R249). -/
def execCmdDmaRingSet (c : Cmd) (doorbell space base n completions : Nat) (s : State) : Host.Outcome State Fault Refusal :=
  onDev (mailbox c { vf := true, block := some 9 } fun d =>
    match senderChannel c doorbell d with
    | none => (fail .invalid, d)
    | some ch =>
      if 2 ≤ space ∨ n < 4 ∨ 16 < n then (fail .invalid, d)
      else if (d.dmaCh ch).state = 2 ∨ (d.dmaCh ch).disabling ∨ (d.dmaCh ch).stopping then (fail .busy, d)
      else (ok [], d.modDma ch fun x => { x with
        ringSpace := space, ringBase := base, n := n, complBase := completions, head := 0, tail := 0, records := 0 })) s

/-- CMD_DMA_STATUS (R249). -/
def execCmdDmaStatus (c : Cmd) (doorbell : Nat) (s : State) : Host.Outcome State Fault Refusal :=
  onDev (query c { vf := true, i3c := true } fun d =>
    match senderChannel c doorbell d with
    | none => fail .invalid
    | some ch =>
      let x := d.dmaCh ch
      ok [x.state, x.head, x.tail, x.descDone.toNat, x.bytes / 4096 % 2 ^ 32]) s

end Sys2Proof.Machine
end

