-- ==== Sys2Proof/Machine/Lanes.lean ====
section
/-! DEFINITION. The sealer lanes as their users see them (R339–R343), and AES-256-GCM over byte strings. -/

namespace Sys2Proof.Machine

/-- Sealer lane n. -/
def Dev.lane (d : Dev) (n : Nat) : Lane := tget {} d.sec.lanes n

/-- Change sealer lane n. -/
def Dev.modLane (d : Dev) (n : Nat) (f : Lane → Lane) : Dev := d.modSec fun s => { s with lanes := tmod {} s.lanes n f }

/-- The key that a lane uses (R337, R339). -/
def laneKey (v : Vault) (d : Dev) (n : Nat) : Bytes := keyBytes (tget {} v.keys (d.lane n).keySlot).key

/-- Seal (R340): ciphertext and tag. -/
def gcmSeal (key iv aad text : Bytes) : Bytes × Bytes :=
  let c := gcmCtr key iv text
  (c, gcmTag key iv aad c)

/-- Open (R340): the plaintext only when the tag matches. -/
def gcmOpen (key iv aad cipher tag : Bytes) : Option Bytes :=
  if gcmTag key iv aad cipher = tag then some (gcmCtr key iv cipher) else none

/-- A job of a lane over n bytes completes: it is counted (SECURITY_LANE), its blocks draw on the lane's generator (R342), and
a key that was zeroed has been loaded again (R343). -/
def laneJob (n bytes : Nat) (d : Dev) : Dev :=
  d.modLane n fun x => { x with jobs := (x.jobs + 1) % 2 ^ 24, blocks := x.blocks + (bytes + 15) / 16, reload := false }

end Sys2Proof.Machine
end

