-- ==== Sys2Proof/Machine/Security.lean ====
section
/-! DEFINITION. The security core (chapter 15): lifecycle and debug level, authorisations, the key store, sealer lanes, entropy
and the shared engine; and the expert unlock of chapter 2, which it checks (R50–R54). -/

namespace Sys2Proof.Machine

/-! ### What is available (R331–R333) -/

/-- The letter O of R333: counter records, trace and PC samples. -/
def letterO (v : Vault) (d : Dev) : Bool :=
  decide (d.power.state = .full) &&
    (decide (v.lifecycle = 0) || decide (v.lifecycle = 3) || (decide (v.lifecycle = 1 ∨ v.lifecycle = 2) && decide (1 ≤ v.debug)))

/-- The letter X of R333: expert unlock. -/
def letterX (v : Vault) (d : Dev) : Bool :=
  decide (d.power.state = .full) &&
    (decide (v.lifecycle = 0) || decide (v.lifecycle = 3) || (decide (v.lifecycle = 2) && decide (2 ≤ v.debug)))

/-- The letter C of R333: JTAG core debug. -/
def letterC (v : Vault) (d : Dev) : Bool :=
  if v.lifecycle = 0 ∨ v.lifecycle = 3 then decide (d.power.state = .full ∨ d.power.state = .reduced)
  else decide (d.power.state = .full) && decide (v.lifecycle = 2) && decide (v.debug = 3)

/-- The letter K of R333: owner key slots usable. -/
def letterK (v : Vault) (d : Dev) : Bool := decide (d.power.state = .full ∧ v.lifecycle = 2)

/-- The trace stops because O has ceased to be available, and its region is zeroed (R419). -/
def stopTrace (d : Dev) : Dev :=
  let d := d.modObs fun o => { o with mode := 0, buffer := [] }
  match d.region 2 with | some g => zeroSpan g.base g.size d | none => d

/-- Keep the trace unit's view of the letter O in step (R419). -/
def setVisible (v : Vault) (d : Dev) : Dev :=
  let now := letterO v d
  let d := if d.obs.visible && !now then stopTrace d else d
  d.modObs fun o => { o with visible := now }

/-- Relock one block (R54); HBM test granules are rewritten (R188). -/
def relock (b : Nat) (d : Dev) : Dev :=
  (if b = 6 ∧ 6 ∈ d.expert.unlocked then testEndAll d else d).modExpert fun e => { e with unlocked := delSet b e.unlocked, expiry := tdel e.expiry b }

/-- Relock every block. -/
def relockAll (d : Dev) : Dev :=
  (if 6 ∈ d.expert.unlocked then testEndAll d else d).modExpert fun e => { e with unlocked := [], expiry := [] }

/-- Cores and tiles that core debug holds halted go on (R348). -/
def endDebug (d : Dev) : Dev :=
  let go (e : Nat × CoreCtl) : Nat × CoreCtl := (e.1, if e.2.state = 4 then { e.2 with state := 1 } else e.2)
  let free (e : Nat × Tile) : Nat × Tile := (e.1, { e.2 with debugHeld := false, debugStep := none })
  { d with tiles := d.tiles.map free }.modCtrl fun c => { c with cores := c.cores.map go }

/-- The device holds no manifest any more (R331, R333, R426): no scheduled work runs, every lock is closed, and it counts as not
having passed local boot (log entry 70). -/
def dropManifest (d : Dev) : Dev :=
  let d := d.modManifest fun m => { m with active := none, stage := 0, parsed := none, shadow := none, altActive := [], failedSet := [] }
  let shut (e : Nat × Lock) : Nat × Lock := (e.1, { e.2 with size := 0, described := false, paused := false })
  let rest (s : Nat × Stream) : Nat × Stream := (s.1, { s.2 with state := 0, entry := none })
  let stop (e : Nat × Tile) : Nat × Tile := (e.1, { e.2 with streams := e.2.streams.map rest })
  let d := d.modLocks fun k => { k with tab := k.tab.map shut }
  let d := { d with tiles := d.tiles.map stop }
  let d := d.modCanal fun c => { c with aligned := false }
  let d := d.modRel fun r => { r with phase := 0 }
  let off (e : Nat × Lane) : Nat × Lane := (e.1, { e.2 with mode := 0 })
  let d := d.modSec fun s => { s with lanes := s.lanes.map off }
  lapseBoth 4 (d.modBoot fun b => { b with passed := false })

/-! ### Entropy (R344, R345) -/

/-- A mailbox command that may be held: without a reply yet its frame stays busy (R359). -/
def mailboxHeld (c : Cmd) (g : Guard) (f : Dev → Option Reply × Dev) (d : Dev) : Dev :=
  if (d.frame c.src).running then overrun d
  else match guardStatus g c.src d with
  | some st => complete c.src c.seq (fail st) d
  | none => match (f d).1 with
    | some r => complete c.src c.seq r (f d).2
    | none => keepRunning c.src (f d).2

/-- Serve a request from the DRBG: random bytes, or a challenge of 12 bytes of nonce and its counter (R52, R336). -/
def serveEntropy (kind arg : Nat) (d : Dev) : Reply × Dev :=
  let d := d.modSec fun s => { s with requests := s.requests + 1 }
  if kind = 0 then
    let r := d.drawBytes arg
    ({ status := .ok, result := r.1 }, r.2)
  else
    let r := d.drawBytes 12
    let c := r.2.expert.counter + 1
    let ch : Challenge := { nonce := BitVec.ofNat 96 (leNat r.1), counter := c, issued := d.uptime }
    let d := r.2.modExpert fun e =>
      if kind = 1 then { e with counter := c, secChallenges := tput e.secChallenges arg ch }
      else { e with counter := c, challenges := tput e.challenges arg ch }
    ({ status := .ok, result := r.1 ++ leBytes 8 c.toNat }, d)

/-- A request to the DRBG: served while the source is healthy, ENTROPY_FAIL once it is latched, else held (R344). -/
def requestEntropy (c : Cmd) (kind arg : Nat) (d : Dev) : Option Reply × Dev :=
  if d.sec.rng = 1 then let r := serveEntropy kind arg d; (some r.1, r.2)
  else if d.sec.rng = 3 then (some (fail .entropyFail), d)
  else (none, d.modSec fun s => { s with held := s.held ++ [{ src := c.src, sequence := c.seq, kind := kind, arg := arg, since := d.uptime }] })

/-- A held request ends with ENTROPY_FAIL. -/
def failHeld (r : EntropyReq) (d : Dev) : Dev := complete r.src r.sequence (fail .entropyFail) d

/-- SEC_ENTROPY: test, consecutive count, latched (R349). -/
def postEntropy (test : Nat) (d : Dev) : Dev :=
  post 0x0F01 (unitBlock 4 14 127) 0 (syn [(32, 1, test), (33, 1, d.sec.consecutive), (34, 1, b2n (decide (d.sec.rng = 3)))]) d

/-- The third consecutive failure latches the source: the DRBG state is zeroed and held requests fail. -/
def latchEntropy (test : Nat) (d : Dev) : Dev :=
  let held := d.sec.held
  let d := postEntropy test (d.modSec fun s => { s with rng := 3, held := [] })
  held.foldl (fun d r => failHeld r d) d

/-- A health test fails while the source serves: output stops and a start-up test of 2.048 ms begins. -/
def testFails (test : Nat) (d : Dev) : Dev :=
  if d.sec.rng ≠ 1 then d
  else
    let d := d.modSec fun s => { s with consecutive := s.consecutive + 1, failures := satAdd (2 ^ 32 - 1) s.failures 1,
                                        rng := 2, testDue := d.uptime + 2048000 }
    if 3 ≤ d.sec.consecutive then latchEntropy test d else postEntropy test d

/-- A start-up test ends: passed, the DRBG is reseeded and the held requests are served in their order; failed, it counts as a
further failure and the test runs again. -/
def startupEnds (pass : Bool) (d : Dev) : Dev :=
  if (d.sec.rng ≠ 0 ∧ d.sec.rng ≠ 2) ∨ d.uptime < d.sec.testDue then d
  else if pass then
    let held := d.sec.held
    let d := d.modSec fun s => { s with rng := 1, consecutive := 0, reseeds := s.reseeds + 1, requests := 0, reseedAt := d.uptime, held := [] }
    held.foldl (fun d r => let x := serveEntropy r.kind r.arg d; complete r.src r.sequence x.1 x.2) d
  else
    let d := d.modSec fun s => { s with consecutive := s.consecutive + 1, failures := satAdd (2 ^ 32 - 1) s.failures 1,
                                        rng := 2, testDue := s.testDue + 2048000 }
    if 3 ≤ d.sec.consecutive then latchEntropy 2 d else d

/-- Requests held for 10 ms complete with ENTROPY_FAIL. -/
def holdsExpire (d : Dev) : Dev :=
  let late := d.sec.held.filter fun r => decide (r.since + 10000000 ≤ d.uptime)
  let d := d.modSec fun s => { s with held := s.held.filter fun r => !decide (r.since + 10000000 ≤ d.uptime) }
  late.foldl (fun d r => failHeld r d) d

/-- The DRBG reseeds after 2^16 requests or one second (R345), never while its output is stopped. -/
def reseed (d : Dev) : Dev :=
  if d.sec.rng = 1 ∧ (2 ^ 16 ≤ d.sec.requests ∨ d.sec.reseedAt + 1000000000 ≤ d.uptime) then
    d.modSec fun s => { s with reseeds := s.reseeds + 1, requests := 0, reseedAt := d.uptime }
  else d

/-- A unit's masking generator reseeds after 2^20 blocks, when the DRBG serves (R342). Unit 48 is the shared engine. -/
def generatorReseed (unit : Nat) (d : Dev) : Dev :=
  if d.sec.rng ≠ 1 then d
  else if unit < 48 then
    if 2 ^ 20 ≤ (d.lane unit).blocks then
      (d.modLane unit fun l => { l with blocks := 0 }).modSec fun s => { s with requests := s.requests + 1 }
    else d
  else if 2 ^ 20 ≤ d.sec.sharedBlocks then d.modSec fun s => { s with sharedBlocks := 0, requests := s.requests + 1 }
  else d

/-! ### Authorisation (R52, R53, R336) -/

/-- The key that authorisations are made under: the active manifest's slot in OWNED, slot 0 before and in RMA; none otherwise. -/
def authSlot (v : Vault) (d : Dev) : Option Nat :=
  if v.lifecycle = 2 then d.manifest.active.map (·.keySlot) else if v.lifecycle = 4 then none else some 0

/-- The tag of an authorisation is good: an unexpired challenge's nonce as IV, the additional data given. -/
def tagGood (v : Vault) (d : Dev) (ch : Option Challenge) (aad : Challenge → Bytes) (tag : Bytes) : Bool :=
  match ch, authSlot v d with
  | some c, some s =>
    decide (d.uptime ≤ c.issued + 10000000000) && decide ((tget {} v.keys s).use ≠ 0) &&
      decide (gcmTag (keyBytes (tget {} v.keys s).key) (leBytes 12 c.nonce.toNat) (aad c) [] = fit 16 tag)
  | _, _ => false

/-- Check the authorisation of a security command (R336): the challenge is used up; eight failures lock out for 60 s. -/
def authorise (v : Vault) (code param : Nat) (tag : Bytes) (d : Dev) : Option MStatus × Dev :=
  if (match d.expert.secLockedUntil with | some t => decide (d.uptime < t) | none => false) then (some .lockedOut, d)
  else
    let aad (c : Challenge) : Bytes := leBytes 2 code ++ leBytes 4 param ++ leBytes 4 d.deviceId ++ leBytes 8 c.counter.toNat
    let good := tagGood v d (tfind d.expert.secChallenges code) aad tag
    let d := d.modExpert fun e => { e with secChallenges := tdel e.secChallenges code,
                                           secFails := if good || decide (8 ≤ e.secFails + 1) then 0 else e.secFails + 1,
                                           secLockedUntil := if !good && decide (8 ≤ e.secFails + 1) then some (d.uptime + 60000000000) else none }
    (if good then none else some .authFail, d)

/-- Eight consecutive failures have locked the expert unlock (R53). -/
def unlockLockedOut (d : Dev) : Bool := match d.expert.lockedUntil with | some t => decide (d.uptime < t) | none => false

/-- The same for an expert unlock (R52, R53). -/
def authoriseUnlock (v : Vault) (block seconds : Nat) (tag : Bytes) (d : Dev) : Option MStatus × Dev :=
  if unlockLockedOut d then (some .lockedOut, d)
  else
    let aad (c : Challenge) : Bytes := leBytes 1 block ++ leBytes 4 seconds ++ leBytes 4 d.deviceId ++ leBytes 8 c.counter.toNat
    let good := tagGood v d (tfind d.expert.challenges block) aad tag
    let d := d.modExpert fun e => { e with challenges := tdel e.challenges block,
                                           fails := if good || decide (8 ≤ e.fails + 1) then 0 else e.fails + 1,
                                           lockedUntil := if !good && decide (8 ≤ e.fails + 1) then some (d.uptime + 60000000000) else none }
    (if good then none else some .authFail, d)

/-- Blocks that are never unlocked (R51). -/
def neverUnlocked (b : Nat) : Bool := b == 0 || b == 1 || b == 2 || b == 14

/-- A lockout of 60 s ends (R53). -/
def lockoutEnds (security : Bool) (d : Dev) : Dev :=
  let ended (t : Option Nat) : Bool := match t with | some x => decide (x ≤ d.uptime) | none => false
  d.modExpert fun e =>
    if security then (if ended e.secLockedUntil then { e with secLockedUntil := none, secFails := 0 } else e)
    else if ended e.lockedUntil then { e with lockedUntil := none, fails := 0 } else e

/-! ### The key store (R337, R338) -/

/-- A write of the key area goes to the copy with the older sequence number (R363). -/
def keyAreaWrite (d : Dev) : Dev :=
  d.modLedger fun l =>
    let s0 := tget 0 l.keySeq 0
    let s1 := tget 0 l.keySeq 1
    { l with keySeq := if s0 ≤ s1 then tset 0 l.keySeq 0 (s1 + 1) else tset 0 l.keySeq 1 (s0 + 1) }

/-- No spare block remains: nothing of the ledger can be written (R364). -/
def ledgerWorn (d : Dev) : Bool := decide (d.ledger.state = 3 ∧ 164 ≤ d.ledger.retired.length)

/-- The data log takes no record: read-only after its spares or its mount bound (R364, R365). -/
def logClosed (d : Dev) : Bool := decide (d.ledger.state = 3)



/-- Lanes that use a slot. -/
def slotLanes (d : Dev) (s : Nat) : Nat := (d.sec.lanes.filter fun e => decide (e.2.mode ≠ 0 ∧ e.2.keySlot = s)).length

/-- A job of the shared engine uses a slot. -/
def slotShared (d : Dev) (s : Nat) : Bool := d.sec.jobGo && decide (leNat (memRead 0 (d.sec.jobAddr + 2) 2 d).1.1 = s)

/-- A slot is in use by a lane or a job (R338, R348). -/
def slotUsed (d : Dev) (s : Nat) : Bool := decide (0 < slotLanes d s) || slotShared d s

/-- A slot cannot be loaded: it is in use, or it is the active manifest's key slot (R338). -/
def slotBusy (d : Dev) (s : Nat) : Bool :=
  slotUsed d s || (match d.manifest.active with | some m => decide (m.keySlot = s) | none => false)

/-- A key of use WRAP that a command may name: not slot 1, and an owner slot only while owner slots are usable (R333, R337). -/
def wrapsKeys (v : Vault) (d : Dev) (s : Nat) : Bool :=
  decide (s ≠ 1 ∧ (tget {} v.keys s).use = 3) && (decide (s < 16) || letterK v d)

/-- Unwrap a key (R338): the slot's new contents, or the status that refuses it; the order of the checks and the status for a wrapping
slot that does not serve are log entry 143. -/
def unwrapKey (v : Vault) (d : Dev) (target wrapping : Nat) (b : Bytes) : MStatus ⊕ KeySlot :=
  let use := fieldLe b 8 1
  let inst := fieldLe b 10 2
  if target < 16 ∨ 255 < target ∨ wrapsKeys v d wrapping = false then .inl .keySlot
  else if use < 2 ∨ 4 < use ∨ zeros b 9 1 = false ∨ zeros b 12 4 = false ∨ zeros b 28 4 = false ∨
      (if use = 4 then decide (1024 ≤ inst ∧ inst ≠ 0xFFFF) else decide (inst ≠ 0xFFFF)) = true then .inl .reservedValue
  else if use = 2 ∧ v.lifecycle ≠ 1 ∧ v.lifecycle ≠ 2 then .inl .keySlot
  else if slotBusy d target then .inl .busy
  else
    match gcmOpen (keyBytes (tget {} v.keys wrapping).key) (slice b 16 12) (slice b 0 16 ++ leBytes 2 target) (slice b 32 32) (slice b 64 16) with
    | none => .inl .authFail
    | some k => .inr { key := BitVec.ofNat 256 (beNat k), identity := BitVec.ofNat 64 (fieldLe b 0 8), use := use, origin := 2, inst := inst }

/-- Write an owner slot and its sealed copy; the first MANIFEST key takes PROVISIONED to OWNED (R337). -/
def storeKey (target : Nat) (k : KeySlot) (v : Vault) : Vault :=
  { v with keys := tset {} v.keys target k, keyCopy := tset {} v.keyCopy target k,
           lifecycle := if v.lifecycle = 1 ∧ k.use = 2 then 2 else v.lifecycle }

/-- Empty an owner slot and its copy. -/
def eraseKey (slot : Nat) (v : Vault) : Vault := { v with keys := tdel v.keys slot, keyCopy := tdel v.keyCopy slot }

/-- Only slots 0–15 remain. -/
def eraseOwner (v : Vault) : Vault := { v with keys := v.keys.filter fun e => decide (e.1 < 16), keyCopy := [] }

/-- The vault in a new lifecycle state (R331, R332). -/
def enterLifecycle (target : Nat) (v : Vault) : Vault :=
  if target = 3 then { eraseOwner v with lifecycle := 3, debug := 3 }
  else { v with lifecycle := 4, debug := 0, keys := v.keys.filter fun e => decide (16 ≤ e.1) }

/-- A mailbox command of the security core: guarded, its reply completes in the frame; it may change the vault. -/
def mailboxV (c : Cmd) (g : Guard) (f : Vault → Dev → Reply × Vault × Dev) (v : Vault) (d : Dev) : Vault × Dev :=
  if (d.frame c.src).running then (v, overrun d)
  else match guardStatus g c.src d with
  | some st => (v, complete c.src c.seq (fail st) d)
  | none =>
    let r := f v d
    (r.2.1, complete c.src c.seq r.1 r.2.2)

/-- After the authorisation of R336 the command takes effect. -/
def authorised (code param : Nat) (tag : Bytes) (f : Vault → Dev → Reply × Vault × Dev) (v : Vault) (d : Dev) : Reply × Vault × Dev :=
  match authorise v code param tag d with
  | (some st, d) => (fail st, v, d)
  | (none, d) => f v d

/-! ### Sealer lanes (R339–R343) -/

/-- SEC_PARITY of a unit: lane 0–47, or 48. -/
def postParity (unit : Nat) (op : Word) (d : Dev) : Dev :=
  post 0x0F02 (unitBlock 4 14 unit) op (syn [(32, 1, unit), (40, 8, op.toNat)]) d

/-- A parity error ends a lane's job without output; the key is zeroed and loaded again before the next job (R343). -/
def laneParity (n : Nat) (op : Word) (d : Dev) : Dev :=
  postParity n op ((laneJob n 0 d).modLane n fun l => { l with parity := satAdd 65535 l.parity 1, reload := true, result := (6, []) })

/-- A job of a lane: only a user to whom it is bound, in the lane's mode; `f` gives status and output. -/
def laneRun (n mode user bytes : Nat) (parity : Bool) (op : Word) (f : Bytes → Nat × Bytes) (v : Vault) (d : Dev) : Dev :=
  if (d.lane n).mode ≠ mode ∨ (d.lane n).user ≠ user then d
  else if parity then laneParity n op d
  else (laneJob n bytes d).modLane n fun l => { l with result := f (laneKey v d n) }

/-- Encrypt or decrypt independent blocks (R340). -/
def blockMap (key : Bytes) (decrypt : Bool) (bs : Bytes) : Bytes :=
  (blocks16 (bs.length / 16) bs).flatMap fun b => if decrypt then aesDecrypt key b else aesEncrypt key b

/-! ### The shared engine (R346, R347) -/

/-- The instance of a requester: a physical function's, none for a firmware core. -/
def reqInst (r : Nat) : Option Nat := if r = 1 then some 0 else if r = 2 then some 1 else none

/-- The requester may read or write a span: a physical function's range (R191, R238), any mapped address for firmware. -/
def sharedRange (d : Dev) (r : Nat) (isRead : Bool) (a n : Nat) : Bool :=
  n == 0 || (match reqInst r with | some i => spaceMapped d i isRead 0 a n | none => spanMapped d a n)

/-- The lock through which the security block reaches device memory (R81). -/
def secLock : Nat := 58

/-- The engine's write of the job's results. -/
def sharedWrite (a : Nat) (bs : Bytes) (poison : Bool) (d : Dev) : Dev := engineWrite (some secLock) 0 a bs poison d

/-- Write the status byte of the job, which clears go. -/
def jobStatus (st : Nat) (d : Dev) : Dev :=
  (sharedWrite (d.sec.jobAddr + 1) [BitVec.ofNat 8 st] false d).modSec fun s => { s with jobGo := false }

/-- A job's outcome before it reads its data: RESERVED_VALUE, ADDRESS_UNMAPPED, KEY_SLOT or none. -/
def jobRefused (v : Vault) (d : Dev) (r : Nat) (b : Bytes) : Option Nat :=
  let op := fieldLe b 0 1
  let aadLen := fieldLe b 24 4
  let len := fieldLe b 28 4
  let k := tget {} v.keys (fieldLe b 2 2)
  if op = 0 ∨ 4 < op ∨ 65536 < aadLen ∨ 16777216 < len ∨ (3 ≤ op ∧ (0 < aadLen ∨ len % 16 ≠ 0)) then some 3
  else if !sharedRange d r true (fieldLe b 16 8) aadLen || !sharedRange d r true (fieldLe b 32 8) len || !sharedRange d r false (fieldLe b 40 8) len then
    some 4
  else if letterK v d = false ∨ k.use ≠ 4 ∨ fieldLe b 2 2 < 16 ∨ (k.inst ≠ 0xFFFF ∧ some k.inst ≠ reqInst r) then some 5
  else none

/-- Perform the job whose descriptor is `b` and write its output and status (R346). -/
def jobEffect (v : Vault) (b : Bytes) (d : Dev) : Dev :=
  let key := keyBytes (tget {} v.keys (fieldLe b 2 2)).key
  let op := fieldLe b 0 1
  let len := fieldLe b 28 4
  let aad := memRead 0 (fieldLe b 16 8) (fieldLe b 24 4) d
  let text := memRead 0 (fieldLe b 32 8) len aad.2
  let out := fieldLe b 40 8
  let poison := text.1.2 || aad.1.2
  let d := text.2.modSec fun s => { s with sharedBlocks := s.sharedBlocks + (len + 15) / 16, sharedReload := false }
  if op = 1 then
    let r := gcmSeal key (slice b 4 12) aad.1.1 text.1.1
    jobStatus 1 (sharedWrite (d.sec.jobAddr + 48) r.2 false (sharedWrite out r.1 poison d))
  else if op = 2 then
    match gcmOpen key (slice b 4 12) aad.1.1 text.1.1 (slice b 48 16) with
    | some p => jobStatus 1 (sharedWrite out p poison d)
    | none => jobStatus 2 d
  else jobStatus 1 (sharedWrite out (blockMap key (decide (op = 4)) text.1.1) poison d)

/-- The engine waits: its lock withholds ready, or device memory cannot take its writes or answer its reads yet (R94). -/
def jobWaits (b : Bytes) (d : Dev) : Bool :=
  let len := fieldLe b 28 4
  withheld d secLock || !canWrite d (some secLock) d.sec.jobAddr 64 || hbmWaits d (fieldLe b 16 8) (fieldLe b 24 4) || hbmWaits d (fieldLe b 32 8) len ||
    (decide (0 < len) && !canWrite d (some secLock) (fieldLe b 40 8) len)

/-- Run the job that the lock's owner has started, if its op is `op` or none that exists. A job whose descriptor lies outside the
requester's range ends without a status (log entry 143); the rest of a refused descriptor is not looked at. -/
def runJob (op : Nat) (parity : Bool) (v : Vault) (d : Dev) : Dev :=
  if d.sec.jobGo = false then d
  else if sharedRange d d.sec.owner false d.sec.jobAddr 64 = false then d.modSec fun s => { s with jobGo := false }
  else
    let b := (memRead 0 d.sec.jobAddr 64 d).1.1
    let refused := jobRefused v d d.sec.owner b
    if fieldLe b 0 1 ≠ op ∧ 1 ≤ fieldLe b 0 1 ∧ fieldLe b 0 1 ≤ 4 then d
    else if jobWaits (if refused.isSome then [] else b) d then
      noteWait (some secLock) (fieldLe b 40 8) (fieldLe b 28 4) (noteWait (some secLock) d.sec.jobAddr 64 d)
    else match refused with
      | some st => jobStatus st d
      | none =>
        if parity then postParity 48 0 (jobStatus 6 (d.modSec fun s => { s with sharedParity := satAdd 65535 s.sharedParity 1, sharedReload := true }))
        else jobEffect v b d

/-- Start a job for the owner: a descriptor address that is a multiple of 64 and in its range. -/
def startJob (addr : Nat) (d : Dev) : Dev := d.modSec fun s => { s with jobAddr := addr, jobGo := true }

/-- The lock goes to the oldest claim, the lowest code among claims of one instant; a CMD_SHARED_JOB that waited starts. -/
def passLock (d : Dev) : Dev :=
  let best := d.sec.claims.foldl (fun (b : Option (Nat × Nat)) c =>
    match b with
    | none => some c
    | some x => if c.2 < x.2 ∨ (c.2 = x.2 ∧ c.1 < x.1) then some c else some x) none
  match best with
  | none => d.modSec fun s => { s with owner := 0 }
  | some c =>
    let d := d.modSec fun s => { s with owner := c.1, claims := s.claims.filter fun x => x.1 ≠ c.1 }
    match d.sec.jobs.find? fun j => j.1 == c.1 with
    | some j => startJob j.2.1 d
    | none => d

/-- The command whose job the owner runs, if the owner holds the lock for one: its descriptor's status answers it and the lock
is released. -/
def endCommandJob (d : Dev) : Dev :=
  match d.sec.jobs.find? fun j => j.1 == d.sec.owner with
  | none => d
  | some j =>
    if d.sec.jobGo then d
    else
      let st := leNat (memRead 0 (j.2.1 + 1) 1 d).1.1
      let d := d.modSec fun s => { s with jobs := s.jobs.filter fun x => x.1 ≠ j.1 }
      passLock (completionEvent j.2.2.1 0x0F09 j.2.2.2 0 0 (words [st]) d)

/-- A job in progress ends with ABORTED. -/
def abortJob (d : Dev) : Dev := if d.sec.jobGo then jobStatus 7 d else d

/-- A requester claims the lock (R347). -/
def claimLock (r : Nat) (d : Dev) : Dev :=
  if r = 0 ∨ d.sec.owner = r then d
  else if d.sec.owner = 0 then d.modSec fun s => { s with owner := r }
  else if d.sec.claims.any fun c => c.1 == r then d
  else d.modSec fun s => { s with claims := s.claims ++ [(r, d.uptime)] }

/-- The owner releases the lock; a write of any other requester is ignored and sets access_denied. -/
def releaseLock (r : Nat) (d : Dev) : Dev :=
  if r = 0 ∨ d.sec.owner ≠ r then d.seen 14 0 1 else passLock (abortJob d)

/-- A claim that has waited 10 ms preempts the owner (R347). -/
def preempt (d : Dev) : Dev :=
  if d.sec.owner ≠ 0 ∧ d.sec.claims.any (fun c => decide (c.2 + 10000000 ≤ d.uptime)) = true then
    let was := d.sec.owner
    let d := abortJob d
    let d := match d.sec.jobs.find? fun j => j.1 == was with
      | some j => completionEvent j.2.2.1 0x0F09 j.2.2.2 0 0 (words [7]) (d.modSec fun s => { s with jobs := s.jobs.filter fun x => x.1 ≠ was })
      | none => d
    post 0x0F03 (unitBlock 4 14 127) 0 (syn [(32, 1, was)]) (passLock d)
  else d

/-- A PF loses its lock at its FLR, without a record (R347). -/
def dropLock (pf : Nat) (d : Dev) : Dev :=
  let d := d.modSec fun s => { s with claims := s.claims.filter fun c => c.1 ≠ pf + 1, jobs := s.jobs.filter fun j => j.1 ≠ pf + 1 }
  if d.sec.owner = pf + 1 then passLock (abortJob d) else d

/-- The requester code of a mailbox source (R347): the PF for which it acts. -/
def reqOf (d : Dev) (src : Nat) : Nat := actingPf src none d + 1

/-! ### Commands -/

def execLaneSeal (lane : Fin 48) (user : Fin 3) (j : SealJob) (s : State) : Host.Outcome State Fault Refusal :=
  onDevV (fun v d => if 65536 < j.aad.length ∨ 16384 < j.text.length then d
    else laneRun lane.val 1 user.val j.text.length j.parity j.operation (fun k => let r := gcmSeal k (fit 12 j.iv) j.aad j.text; (1, r.1 ++ r.2)) v d) s

def execLaneOpen (lane : Fin 48) (user : Fin 3) (j : SealJob) (tag : Bytes) (s : State) : Host.Outcome State Fault Refusal :=
  onDevV (fun v d => if 65536 < j.aad.length ∨ 16384 < j.text.length then d
    else laneRun lane.val 1 user.val j.text.length j.parity j.operation (fun k =>
      match gcmOpen k (fit 12 j.iv) j.aad j.text (fit 16 tag) with | some p => (1, p) | none => (2, [])) v d) s

def execLaneRawBlock (lane : Fin 48) (user : Fin 3) (decrypt : Bool) (blocks : Bytes) (parity : Bool) (operation : Word) (s : State) :
    Host.Outcome State Fault Refusal :=
  onDevV (fun v d => if blocks.length % 16 ≠ 0 ∨ 16384 < blocks.length then d
    else laneRun lane.val 2 user.val blocks.length parity operation (fun k => (1, blockMap k decrypt blocks)) v d) s

def execSharedSeal (parity : Bool) (s : State) : Host.Outcome State Fault Refusal :=
  onDevV (fun v d => endCommandJob (runJob 1 parity v d)) s

def execSharedOpen (parity : Bool) (s : State) : Host.Outcome State Fault Refusal :=
  onDevV (fun v d => endCommandJob (runJob 2 parity v d)) s

def execSharedBlockEncrypt (parity : Bool) (s : State) : Host.Outcome State Fault Refusal :=
  onDevV (fun v d => endCommandJob (runJob 3 parity v d)) s

def execSharedBlockDecrypt (parity : Bool) (s : State) : Host.Outcome State Fault Refusal :=
  onDevV (fun v d => endCommandJob (runJob 4 parity v d)) s

def execSharedLockClaim (req : Req) (s : State) : Host.Outcome State Fault Refusal := onDev (claimLock req.val) s

def execSharedLockRelease (req : Req) (s : State) : Host.Outcome State Fault Refusal := onDev (releaseLock req.val) s

def execSecSharedPreempt (s : State) : Host.Outcome State Fault Refusal := onDev preempt s

def execEntropyTestFail (proportion : Bool) (s : State) : Host.Outcome State Fault Refusal := onDev (testFails (b2n proportion)) s

def execStartupTestComplete (pass : Bool) (s : State) : Host.Outcome State Fault Refusal := onDev (startupEnds pass) s

def execEntropyHoldExpiry (s : State) : Host.Outcome State Fault Refusal := onDev holdsExpire s

def execDrbgReseed (s : State) : Host.Outcome State Fault Refusal := onDev reseed s

def execGeneratorReseed (unit : Fin 49) (s : State) : Host.Outcome State Fault Refusal := onDev (generatorReseed unit.val) s

/-- CMD_SEC_STATUS: lifecycle, level, boot image, versions, RNG state. -/
def nowCmdSecStatus (c : Cmd) (s : State) : Host.Outcome State Fault Refusal :=
  onDevV (fun v => query c { reduced := true, i3c := true } fun d =>
    ok [v.lifecycle, v.debug, b2n d.boot.image, d.boot.imageVersion.toNat, v.minVersion, d.sec.rng]) s

/-- The same; it waits while the core that serves it restarts (R353). -/
def execCmdSecStatus (c : Cmd) (s : State) : Host.Outcome State Fault Refusal :=
  whileUp 0 (.cmdSecStatus c) (nowCmdSecStatus c) s

/-- The commands that carry an authorisation (R336). -/
def authCommands : List Nat := [0x0F02, 0x0F03, 0x0F04, 0x0F06]

def nowCmdSecChallenge (c : Cmd) (code : Nat) (s : State) : Host.Outcome State Fault Refusal :=
  onDev (mailboxHeld c { reduced := true } fun d =>
    if code ∈ authCommands then requestEntropy c 1 code d else (some (fail .invalid), d)) s

/-- The same; it waits while the core that serves it restarts (R353). -/
def execCmdSecChallenge (c : Cmd) (code : Nat) (s : State) : Host.Outcome State Fault Refusal :=
  whileUp 0 (.cmdSecChallenge c code) (nowCmdSecChallenge c code) s

/-- CMD_SEC_DEBUG_SET (R332): in OWNED any level, in PROVISIONED at most 1; lowering it relocks every block and ends core debug. -/
def nowCmdSecDebugSet (c : Cmd) (level : Nat) (tag : Bytes) (s : State) : Host.Outcome State Fault Refusal :=
  onVault (mailboxV c {} fun v d =>
    if 3 < level ∨ (v.lifecycle ≠ 1 ∧ v.lifecycle ≠ 2) ∨ (v.lifecycle = 1 ∧ 1 < level) then (fail .invalid, v, d)
    else authorised 0x0F02 level tag (fun v d =>
      let w := { v with debug := level }
      let d := if level < v.debug then endDebug (relockAll d) else d
      (ok [], w, setVisible w d)) v d) s

/-- The same; it waits while the core that serves it restarts (R353). -/
def execCmdSecDebugSet (c : Cmd) (level : Nat) (tag : Bytes) (s : State) : Host.Outcome State Fault Refusal :=
  whileUp 0 (.cmdSecDebugSet c level tag) (nowCmdSecDebugSet c level tag) s

/-- CMD_SEC_LIFECYCLE (R331, R348): OWNED to RMA, OWNED or RMA to SCRAPPED; a scrapped device falls back to reduced service. -/
def nowCmdSecLifecycle (c : Cmd) (target : Nat) (tag : Bytes) (s : State) : Host.Outcome State Fault Refusal :=
  onVault (mailboxV c {} fun v d =>
    if !(decide (target = 3 ∧ v.lifecycle = 2) || decide (target = 4 ∧ (v.lifecycle = 2 ∨ v.lifecycle = 3))) then (fail .invalid, v, d)
    else if logClosed d then (fail .capacity, v, d)
    else if target = 3 ∧ (d.sec.lanes.any fun e => decide (e.2.mode ≠ 0)) = true then (fail .busy, v, d)
    else authorised 0x0F03 target tag (fun v d =>
      let w := enterLifecycle target v
      let d := endDebug (relockAll (dropManifest (setVisible w d)))
      let d := if target = 4 then d.modPower fun p => { p with state := .reduced } else d
      let d := (if target = 3 then keyAreaWrite d else d).modLedger fun l => { l with security := l.security ++ [(1, target, d.uptime)] }
      (ok [], w, setVisible w d)) v d) s

/-- The same; it waits while the core that serves it restarts (R353). -/
def execCmdSecLifecycle (c : Cmd) (target : Nat) (tag : Bytes) (s : State) : Host.Outcome State Fault Refusal :=
  whileUp 0 (.cmdSecLifecycle c target tag) (nowCmdSecLifecycle c target tag) s

/-- CMD_SEC_VERSION_COMMIT (R335). -/
def nowCmdSecVersionCommit (c : Cmd) (tag : Bytes) (s : State) : Host.Outcome State Fault Refusal :=
  onVault (mailboxV c {} fun v d =>
    let now := d.boot.imageVersion.toNat
    if 64 < now ∨ now < v.minVersion then (fail .invalid, v, d)
    else authorised 0x0F04 0 tag (fun v d => (ok [], { v with minVersion := now }, d)) v d) s

/-- The same; it waits while the core that serves it restarts (R353). -/
def execCmdSecVersionCommit (c : Cmd) (tag : Bytes) (s : State) : Host.Outcome State Fault Refusal :=
  whileUp 0 (.cmdSecVersionCommit c tag) (nowCmdSecVersionCommit c tag) s

/-- CMD_KEY_LOAD (R338): the wrapped key in device memory, or in a host space as the endpoint has fetched it. -/
def nowCmdKeyLoad (c : Cmd) (target wrapping space address : Nat) (fetched : Bytes) (s : State) : Host.Outcome State Fault Refusal :=
  onVault (mailboxV c {} fun v d =>
    let pf := actingPf c.src none d
    if 9 < space then (fail .invalid, v, d)
    else if spaceMapped d pf true space address 80 = false then (fail .addressUnmapped, v, d)
    else
      let b := if space = 0 then (memRead 0 address 80 d).1.1 else fit 80 fetched
      match unwrapKey v d target wrapping b with
      | .inl st => (fail st, v, d)
      | .inr k => if ledgerWorn d then (fail .capacity, v, d)
        else (ok [], storeKey target k v, setVisible (storeKey target k v) (keyAreaWrite d))) s

/-- The same; it waits while the core that serves it restarts (R353). -/
def execCmdKeyLoad (c : Cmd) (target wrapping space address : Nat) (fetched : Bytes) (s : State) : Host.Outcome State Fault Refusal :=
  whileUp 0 (.cmdKeyLoad c target wrapping space address fetched) (nowCmdKeyLoad c target wrapping space address fetched) s

/-- CMD_KEY_ERASE: the slot empty, its ledger copy erased; BUSY only while a lane or a job uses it (R348). -/
def execCmdKeyErase (c : Cmd) (slot : Nat) (tag : Bytes) (s : State) : Host.Outcome State Fault Refusal :=
  onVault (mailboxV c {} fun v d =>
    if slot < 16 ∨ 255 < slot then (fail .keySlot, v, d)
    else if slotUsed d slot then (fail .busy, v, d)
    else if ledgerWorn d then (fail .capacity, v, d)
    else authorised 0x0F06 slot tag (fun v d => (ok [], eraseKey slot v, keyAreaWrite d)) v d) s

/-- CMD_KEY_INFO: use, identity, instance, users; slot 1 no command may name (R337; the status is log entry 143). -/
def execCmdKeyInfo (c : Cmd) (slot : Nat) (s : State) : Host.Outcome State Fault Refusal :=
  onDevV (fun v => query c { i3c := true } fun d =>
    let k := tget {} v.keys slot
    if 255 < slot then fail .invalid else if slot = 1 then fail .keySlot
    else ok [k.use, k.identity.toNat, k.inst, slotLanes d slot, b2n (slotShared d slot)]) s

def nowCmdRngRead (c : Cmd) (length : Nat) (s : State) : Host.Outcome State Fault Refusal :=
  onDev (mailboxHeld c { vf := true, i3c := true } fun d =>
    if length = 0 ∨ 256 < length then (some (fail .invalid), d) else requestEntropy c 0 length d) s

/-- The same; it waits while the core that serves it restarts (R353). -/
def execCmdRngRead (c : Cmd) (length : Nat) (s : State) : Host.Outcome State Fault Refusal :=
  whileUp 0 (.cmdRngRead c length) (nowCmdRngRead c length) s

/-- CMD_SHARED_JOB: claim, job and release; the command goes on until the engine has written the job's status (R347). -/
def execCmdSharedJob (c : Cmd) (address : Nat) (s : State) : Host.Outcome State Fault Refusal :=
  onDev (mailboxLater c {} fun d =>
    let r := reqOf d c.src
    if address % 64 ≠ 0 ∨ 2 ^ 48 ≤ address then (some (fail .invalid), d)
    else if sharedRange d r false address 64 = false then (some (fail .addressUnmapped), d)
    else if d.sec.owner = r ∨ (d.sec.jobs.any fun j => j.1 == r) = true then (some (fail .busy), d)
    else
      let x := d.modSec fun s => { s with jobs := s.jobs ++ [(r, address, c.src.val, c.seq)] }
      (none, if d.sec.owner = 0 then startJob address (x.modSec fun s => { s with owner := r }) else claimLock r x)) s

/-- CMD_EXPERT_CHALLENGE (R51, R52). -/
def nowCmdExpertChallenge (c : Cmd) (block : Nat) (s : State) : Host.Outcome State Fault Refusal :=
  onDevV (fun v => mailboxHeld c {} fun d =>
    if 18 < block then (some (fail .invalid), d)
    else if neverUnlocked block || !letterX v d then (some (fail .notPermitted), d)
    else requestEntropy c 2 block d) s

/-- The same; it waits while the core that serves it restarts (R353). -/
def execCmdExpertChallenge (c : Cmd) (block : Nat) (s : State) : Host.Outcome State Fault Refusal :=
  whileUp 0 (.cmdExpertChallenge c block) (nowCmdExpertChallenge c block) s

/-- CMD_EXPERT_UNLOCK (R52–R54): the block is unlocked for the duration and the unlock recorded in the ledger. -/
def execCmdExpertUnlock (c : Cmd) (block seconds : Nat) (tag : Bytes) (s : State) : Host.Outcome State Fault Refusal :=
  onDevV (fun v => mailbox c {} fun d =>
    if unlockLockedOut d then (fail .lockedOut, d)
    else if 18 < block ∨ seconds = 0 ∨ 86400 < seconds then (fail .invalid, d)
    else if neverUnlocked block || !letterX v d then (fail .notPermitted, d)
    else if logClosed d then (fail .capacity, d)
    else match authoriseUnlock v block seconds tag d with
      | (some st, d) => (fail st, d)
      | (none, d) =>
        let d := d.modExpert fun e => { e with unlocked := addSet block e.unlocked, expiry := tput e.expiry block (d.uptime + seconds * 1000000000) }
        (ok [], d.modLedger fun l => { l with security := l.security ++ [(0, block, d.uptime)] })) s

def execCmdExpertLock (c : Cmd) (block : Nat) (s : State) : Host.Outcome State Fault Refusal :=
  onDev (mailbox c {} fun d => if 18 < block then (fail .invalid, d) else (ok [], relock block d)) s

/-- A block relocks when its duration has run out. -/
def execExpertExpiry (block : Nat) (s : State) : Host.Outcome State Fault Refusal :=
  onDev (fun d => match tfind d.expert.expiry block with
    | some t => if t ≤ d.uptime then relock block d else d
    | none => d) s

def execLockoutExpiry (security : Bool) (s : State) : Host.Outcome State Fault Refusal := onDev (lockoutEnds security) s

end Sys2Proof.Machine
end

