-- ==== Sys2Proof/Machine/Hbm.lean ====
section
/-! DEFINITION. The HBM controllers, the wharf channels (chapter 8) and the trace unit's writes in refresh slots (R418). -/

namespace Sys2Proof.Machine

/-! ### Units that take memory commands: controllers 0–7 and wharf channels 8–19 -/

/-- The router and first port of a memory unit, and how many ports it has (R55). -/
def memPorts (u : Nat) : Nat × Nat × Nat :=
  if u < 8 then (7 * (u / 2) + 4 + u % 2, 0, 20) else (28 + (u - 8) / 6, 50 + (u - 8) % 6, 1)

/-- The unit field of a memory unit. -/
def memUnit (u : Nat) : W32 :=
  if u < 8 then unitBlock (u / 2) 6 u else unitBlock (if u < 14 then 4 else 5) 7 (u - 8)

/-- Open writes of a unit. -/
def openOf (d : Dev) (u : Nat) : List OpenWrite := if u < 8 then (d.ctl u).open_ else (d.wharfCh (u - 8)).open_

/-- Set the open writes of a unit. -/
def setOpen (u : Nat) (os : List OpenWrite) (d : Dev) : Dev :=
  if u < 8 then d.modCtl u fun c => { c with open_ := os } else d.modWharfCh (u - 8) fun c => { c with open_ := os }

/-- Held read data of a unit. -/
def heldOf (d : Dev) (u : Nat) : List Held := if u < 8 then (d.ctl u).held else (d.wharfCh (u - 8)).held

/-- Set the held data of a unit. -/
def setHeld (u : Nat) (hs : List Held) (d : Dev) : Dev :=
  if u < 8 then d.modCtl u fun c => { c with held := hs } else d.modWharfCh (u - 8) fun c => { c with held := hs }

/-- MEM_BAD_COMMAND (R177, R199). -/
def badCommand (u addr : Nat) (op : Word) (d : Dev) : Dev :=
  postPolicy 0x0803 (memUnit u) op (syn [(32, 1, if u < 8 then u else 16 + (u - 8)), (40, 8, addr)]) d

/-- An address lies in the unit, by itself or as the copy that a read or a write of a master address reaches. -/
def inUnit (d : Dev) (u : Nat) (write : Bool) (a : Nat) : Bool :=
  let isHere (x : Nat) : Bool := match place d x with
    | .hbm k _ => decide (u = k)
    | .wharf c _ => decide (u = 8 + c)
    | _ => false
  isHere a || isHere (if write then writeAt d a else readAt d a)

/-- A command's span crosses no logical-stack or channel boundary. -/
def oneUnit (d : Dev) (a n : Nat) : Bool := decide (n ≤ pieceSize d a)

/-- The lock that a route belongs to: the one whose route map gives it. -/
def lockOfRoute (d : Dev) (route : Nat) : Option Nat :=
  (d.locks.tab.find? fun e => e.2.routeMap.any fun m => m.2 = route).map (·.1)

/-- All narrow lines of a write. -/
def allNarrow (a n : Nat) : Nat := ((List.range (n / 256 + 1)).map (narrowLines a n)).sum

/-- The tokens of a write that is not performed return. -/
def returnTokens (u : Nat) (o : OpenWrite) (d : Dev) : Dev :=
  if u < 8 then (List.range (allNarrow o.addr o.length)).foldl (fun d _ => returnToken u o.lock d) d else d

/-- Read data in barges of 256 bytes, each of kind 2 where a line of it is poison. -/
def readBarges : Nat → Word → Nat → Nat → Nat → Nat → Dev → List Barge × Dev
  | 0, _, _, _, _, _, d => ([], d)
  | fuel + 1, op, route, inst, a, n, d =>
    let m := min 256 n
    let r := memRead op a m d
    let b := mkBarge (if r.1.2 then 2 else 1) route inst r.1.1 (decide (n ≤ 256))
    if n ≤ 256 then ([b], r.2)
    else
      let rest := readBarges fuel op route inst (a + m) (n - m) r.2
      (b :: rest.1, rest.2)

/-- The response barges of a rejected read: kind 2, as many as its length asks for (R177). -/
def poisonBarges (route inst n : Nat) : List Barge :=
  let k := max 1 ((min n 2097152 + 255) / 256)
  (List.range k).map fun i => mkBarge 2 route inst (List.replicate 256 0) (decide (i + 1 = k))

/-- The bytes of a write reach memory, line by line; a line that a kind-2 barge carries part of is poisoned (R179). -/
def performWrite (u : Nat) (o : OpenWrite) (d : Dev) : Dev :=
  let bad (i n : Nat) : Bool := o.poisoned.any fun j => decide (i / 256 ≤ j ∧ j ≤ (i + n - 1) / 256)
  ((linePieces o.length o.addr o.length).foldl (fun (acc : Nat × Dev) p =>
    (acc.1 + p.2, writePiece (writeAt acc.2 p.1) ((o.bytes.drop acc.1).take p.2) (bad acc.1 p.2) o.lock o.operation acc.2))
    (0, markDirty o.addr o.length d)).2

/-- The last data barge of a write has come: it is performed, unless it was rejected or its barges do not make its length. -/
def finishWrite (u : Nat) (o : OpenWrite) (d : Dev) : Dev :=
  if o.rejected then returnTokens u o d
  else if o.count = (o.length + 255) / 256 then performWrite u o d
  else badCommand u o.addr o.operation (returnTokens u o d)

/-- The fields of a command barge's body (R175) and whether its reserved bytes are zero. -/
def commandFields (b : Bytes) : Nat × Nat × Nat × Nat × Word × Bool :=
  (fieldLe b 0 8, fieldLe b 8 4, fieldLe b 12 1, fieldLe b 14 2, BitVec.ofNat 64 (fieldLe b 16 8),
    decide (fieldLe b 6 2 = 0) && zeros b 13 1 && zeros b 24 40)

/-- A route record whose source the overlay in force still connects to an output (R71). -/
def recordStands (d : Dev) (x : RouteRec) : Bool :=
  match overlayEntry d x.router d.program x.slot with
  | some e => (List.range 64).any fun o => entrySource e o == x.source
  | none => true

/-- The record gives a route a slot at a memory unit, under the overlays in force. -/
def givesSlot (d : Dev) (u route : Nat) (x : RouteRec) : Bool :=
  decide (x.router = (memPorts u).1 ∧ x.route = route ∧ (memPorts u).2.1 ≤ x.source ∧ x.source < (memPorts u).2.1 + (memPorts u).2.2) &&
    recordStands d x

/-- The port by which a unit may send on a route in the current slot. -/
def sendPort (d : Dev) (u route : Nat) : Option Nat :=
  ((programRecords d d.program).find? fun x => decide (x.slot = d.canal.slot) && givesSlot d u route x).map (·.source)

/-- The running program, under the overlays in force, gives the route a slot at the unit. -/
def hasSlot (d : Dev) (u route : Nat) : Bool := (programRecords d d.program).any (givesSlot d u route)

/-- Read data that a unit holds (R176): with an identity of its own among what the unit holds, and whether its route has a slot now. -/
def holdData (u route inst ready addr : Nat) (operation : Word) (bs : List Barge) (d : Dev) : Dev :=
  let hs := heldOf d u
  setHeld u (hs ++ [{ route := route, inst := inst, barges := bs, ready := ready, addr := addr, operation := operation,
                      id := (hs.map (·.id)).foldl max 0 + 1, slotless := !hasSlot d u route }]) d

/-- A command barge is taken (R175–R177). -/
def takeCommand (u : Nat) (x : Delivery) (d : Dev) : Dev :=
  let (a, n, op, resp, operation, clean) := commandFields x.barge.body
  let slot := d.canal.lockage * 1024 + x.slot
  let inst := x.barge.inst.toNat
  let good := clean && decide (op < 2 ∧ 0 < n ∧ n ≤ 2097152) && (x.barge.kind == 1) && oneUnit d a n &&
    inUnit d u (decide (op = 1)) a
  if op = 0 then
    let r := if good then readBarges (n + 1) operation resp inst a n d else (poisonBarges resp inst n, badCommand u a operation d)
    holdData u resp inst (slot + 24) a operation r.1 r.2
  else
    let o : OpenWrite := { route := x.barge.route.toNat, addr := a, length := n, inst := inst, operation := operation,
                           lock := lockOfRoute d x.barge.route.toNat, rejected := !good }
    let d := if good then d else badCommand u a operation d
    if x.barge.last then finishWrite u { o with rejected := true } d else setOpen u (openOf d u ++ [o]) d

/-- One barge is taken: it continues the open write of its route, or it is a command. Whether a command ended with it. -/
def takeBarge (u : Nat) (x : Delivery) (d : Dev) : Bool × Dev :=
  let r := x.barge.route.toNat
  match (openOf d u).find? fun o => o.route = r with
  | none => (decide (fieldLe x.barge.body 12 1 = 0) || x.barge.last, takeCommand u x d)
  | some o =>
    let o := { o with
      bytes := o.bytes ++ fit 256 x.barge.body, count := o.count + 1,
      poisoned := if x.barge.kind = 2 then o.poisoned ++ [o.count] else o.poisoned }
    let others := (openOf d u).filter fun y => y.route ≠ r
    if x.barge.last then (true, finishWrite u o (setOpen u others d)) else (false, setOpen u (others ++ [o]) d)

/-- The barge that comes next in order of slot, port and half (R176), taken out of its inbox. -/
def nextBarge (router first count : Nat) (d : Dev) : Option (Delivery × Dev) :=
  let heads := (List.range count).filterMap fun i => (tget [] d.canal.inbox (unitKey router (first + i))).head?
  let key (x : Delivery) : Nat := (x.slot * 64 + x.port) * 2 + b2n x.half
  match heads.foldl (fun (b : Option Delivery) x => match b with
    | none => some x
    | some y => if key x < key y then some x else some y) none with
  | none => none
  | some x => some (x, d.modCanal fun c => { c with inbox := tmod [] c.inbox (unitKey router x.port) fun l => l.drop 1 })

/-- Barges are taken until one command has been performed or rejected, or none waits. -/
def memCommand : Nat → Nat → Dev → Dev
  | 0, _, d => d
  | fuel + 1, u, d =>
    match nextBarge (memPorts u).1 (memPorts u).2.1 (memPorts u).2.2 d with
    | none => d
    | some (x, d) =>
      let r := takeBarge u x d
      if r.1 then r.2 else memCommand fuel u r.2

/-- Held data that a test names is discarded, and each loss posted (R176). -/
def dropHeld (u : Nat) (gone : Held → Bool) (d : Dev) : Dev :=
  let lost := (heldOf d u).filter gone
  lost.foldl (fun d h => badCommand u h.addr h.operation d) (setHeld u ((heldOf d u).filter fun h => !gone h) d)

/-- After a change of program or overlays: what is held for a route without a slot is discarded (R176). -/
def dropSlotless (u : Nat) (d : Dev) : Dev := dropHeld u (fun h => !hasSlot d u h.route) d

/-- Data whose route had no slot at its command slot is discarded when it is ready (R176). -/
def dropReady (u : Nat) (d : Dev) : Dev := dropHeld u (fun h => h.slotless && decide (h.ready ≤ d.now)) d

/-- The unit sends ready data: for each response route that has the current slot, up to two barges, oldest first. -/
def sendData (u : Nat) (d : Dev) : Dev :=
  let routes := (heldOf d u).foldl (fun rs h => addSet h.route rs) []
  let one (half : Bool) (route : Nat) (d : Dev) : Dev :=
    match sendPort d u route, (heldOf d u).find? fun h => decide (h.route = route ∧ h.ready ≤ d.now ∧ h.barges ≠ [] ∧ h.slotless = false) with
    | some p, some h =>
      if d.canal.flights.any fun f => decide (f.router = (memPorts u).1 ∧ f.port = p ∧ f.slot = d.canal.slot) && (f.half == half)
      then d
      else match h.barges with
        | [] => d
        | b :: rest =>
          let hs := (heldOf d u).flatMap fun y => if y.id = h.id then (if rest = [] then [] else [{ y with barges := rest }]) else [y]
          inject (memPorts u).1 p half b (setHeld u hs d)
    | _, _ => d
  if d.canal.dwell || decide (1024 ≤ d.canal.slot) then d
  else routes.foldl (fun d r => one true r (one false r d)) (dropReady u d)

/-! ### Scrub, refresh, patrol (R186, R190) -/

/-- The plan's mark of a controller in the current slot of the running program: 1 refresh, 2 scrub. -/
def planMark (d : Dev) (k : Nat) : Nat :=
  match d.manifest.active with
  | some m => tget 0 m.plan ((8 * d.program + k) * 1024 + d.canal.slot)
  | none => 0

/-- What a scrub's summary counts of a line; of an error in the granule of a controller in test mode nothing (R187, R188). -/
def Scrub.count (s : Scrub) (k line : Nat) (found : EccOutcome) (d : Dev) : Scrub :=
  let s := { s with lines := s.lines + 1 }
  if testTarget k line d then s
  else match found with
    | .clean => s
    | .corrected _ _ => { s with corrected := s.corrected + 1 }
    | .poisoned => { s with poisoned := s.poisoned + 1 }
    | .uncorrectable => { s with uncorrectable := s.uncorrectable + 1, firstUe := some (s.firstUe.getD (64 * deviceLine d k line)) }

/-- One line of a scrub or of the patrol: a commanded scrub counts it, then it is read. -/
def scrubLine (k line : Nat) (patrol correcting : Bool) (d : Dev) : Dev :=
  let found := classify (syndromes (lineCheck d k line) (lineData d k line))
  let d := if patrol then d else d.modCtl k fun c => { c with scrub := c.scrub.map fun s => s.count k line found d }
  (readLine k line (if patrol then 3 else 2) 0 correcting d).2

/-- One unit of 8 KiB; a controller that fails on the way reads no further. -/
def scrubUnit (k unit : Nat) (patrol correcting : Bool) (d : Dev) : Dev :=
  (List.range 128).foldl (fun d i => if (d.ctl k).failed then d else scrubLine k (128 * unit + i) patrol correcting d) d

/-- A scrub slot of controller k: the commanded scrub's next unit, or the patrol's. -/
def scrubSlot (k : Nat) (d : Dev) : Dev :=
  let c := d.ctl k
  if planMark d k ≠ 2 ∨ c.failed ∨ c.logical = none then d
  else match c.scrub with
    | none => (scrubUnit k c.patrol true true d).modCtl k fun c => { c with patrol := (c.patrol + 1) % 2 ^ 23 }
    | some s =>
      let begun (x : Scrub) : Scrub := if x.lines = 0 then { x with startLockage := d.canal.lockage - 1 } else x
      let d := scrubUnit k s.next false (decide (s.mode = 1)) (d.modCtl k fun c => { c with scrub := c.scrub.map begun })
      let d := d.modCtl k fun c => { c with scrub := c.scrub.map fun x => { x with next := s.next + 1 } }
      if s.last ≤ s.next then endScrub k 0 d else d

/-- A scrub begins, unless one runs. -/
def startScrub (k first last mode : Nat) (sender : Option (Nat × W32)) (d : Dev) : Dev :=
  d.modCtl k fun c => { c with scrub := some { mode, first, last, next := first, startLockage := d.canal.lockage, sender } }

/-- Writing has stopped at the full region: the records that wait behind it are lost and counted (R418). -/
def traceEnds (d : Dev) : Dev :=
  if d.obs.buffer = [] then d
  else (d.modObs fun o => { o with buffer := [], lost := satAdd (2 ^ 32 - 1) o.lost o.buffer.length }).seen 17 0 2

/-- Up to eight buffered trace records are written to the TRACE region (R418). -/
def traceWrite : Nat → Region → Dev → Dev
  | 0, _, d => d
  | fuel + 1, g, d =>
    match d.obs.buffer with
    | [] => d
    | r :: rest =>
      if d.obs.stopped then d
      else
        let size := g.size / 64
        let d := rawWrite (g.base + 64 * d.obs.next) r false (d.modObs fun o => { o with buffer := rest })
        let full := decide (size ≤ d.obs.next + 1)
        traceWrite fuel g (if full = false then d.modObs fun o => { o with next := o.next + 1 }
          else if d.obs.mode = 1 then d.modObs fun o => { o with next := 0, wraps := o.wraps + 1 }
          else traceEnds (d.modObs fun o => { o with next := o.next + 1, stopped := true }))

/-- A refresh slot of controller k: a refresh that is due, or trace records when the TRACE region lies in its stack. -/
def refreshSlot (k : Nat) (d : Dev) : Dev :=
  let c := d.ctl k
  if planMark d k ≠ 1 ∨ c.failed then d
  else if c.refreshDue ≤ d.uptime then
    d.modCtl k fun c => { c with refreshDue := d.uptime + (if c.hot then 640 else 1280) }
  else match d.region 2 with
    | some g => if c.logical = some (g.base / 2 ^ 36) then traceWrite 8 g d else d
    | none => d

/-! ### Checker test mode (R188) -/

/-- Register offset of a controller's register. -/
def hbmReg (k off : Nat) : Nat := 0x4000000 + k * 0x100000 + off

/-- Raw write: HBM_TEST_DATA0–7 and HBM_TEST_CHECK go unencoded into the named line. -/
def testWrite (k : Nat) (d : Dev) : Dev :=
  storeLine k (bits (d.csrGet (hbmReg k 0x98)).toNat 9 0)
    ((List.range 8).flatMap fun w => leBytes 8 (d.csrGet (hbmReg k (0xA0 + 8 * w))).toNat)
    (leBytes 4 (d.csrGet (hbmReg k 0xE0)).toNat) d

/-- Raw read: the stored bytes go into the registers, with the decoder's outcome and syndromes. -/
def testRead (k : Nat) (d : Dev) : Dev :=
  let line := bits (d.csrGet (hbmReg k 0x98)).toNat 9 0
  let data := lineData d k line
  let check := lineCheck d k line
  let s := syndromes check data
  let d := (List.range 8).foldl (fun d w => d.csrSet (hbmReg k (0xA0 + 8 * w)) (BitVec.ofNat 64 (fieldLe data (8 * w) 8))) d
  (d.csrSet (hbmReg k 0xE0) (BitVec.ofNat 64 (leNat check))).modCtl k fun c =>
    { c with testOutcome := (classify s).code, testSyndrome := BitVec.ofNat 32 (leNat s) }

/-- The fixed sequence of CMD_HBM_CHECKER_TEST on a zero line: an error at every symbol, three double errors, one poison
pattern (which doubles: log entry 20). -/
def checkerPasses : Bool :=
  let zero := List.replicate 68 (0 : Byte)
  let find (c : Bytes) : EccOutcome := classify (syndromes (c.take 4) (c.drop 4))
  ((List.range 68).all fun i => find (zero.set i 0x5A#8) == .corrected i 0x5A#8) &&
    ([(0, 1), (5, 40), (66, 67)].all fun e => find ((zero.set e.1 1#8).set e.2 2#8) == .uncorrectable) &&
    (find (poisonCheck (List.replicate 64 0) ++ List.replicate 64 0) == .poisoned)

/-! ### The commands -/

/-- MEM_COMMAND (R175–R180, R182). -/
def execMemCommand (unit : Fin 20) (s : State) : Host.Outcome State Fault Refusal :=
  onDev (fun d => memCommand ((d.canal.inbox.map fun e => e.2.length).sum + 1) unit.val d) s

/-- READ_DATA_SEND (R176). -/
def execReadDataSend (unit : Fin 20) (s : State) : Host.Outcome State Fault Refusal :=
  onDev (sendData unit.val) s

/-- MERGE_RETIRE (R182). -/
def execMergeRetire (ctl : Fin 8) (s : State) : Host.Outcome State Fault Refusal :=
  onDev (retireOldest ctl.val) s

/-- HBM_STACK_FAIL (R185): PHY training (cause 1) or command parity (cause 2) that retraining did not clear. -/
def execHbmStackFail (ctl : Fin 8) (parity : Bool) (s : State) : Host.Outcome State Fault Refusal :=
  onDev (stackFail ctl.val (if parity then 2 else 1)) s

/-- SCRUB_SLOT (R186). -/
def execScrubSlot (ctl : Fin 8) (s : State) : Host.Outcome State Fault Refusal :=
  onDev (scrubSlot ctl.val) s

/-- REFRESH_SLOT (R190, R418). -/
def execRefreshSlot (ctl : Fin 8) (s : State) : Host.Outcome State Fault Refusal :=
  onDev (refreshSlot ctl.val) s

/-- WHARF_PATROL (R181): the channel's patrol reads its next line. -/
def execWharfPatrol (ch : Fin 12) (s : State) : Host.Outcome State Fault Refusal :=
  onDev (fun d =>
    let c := d.wharfCh ch.val
    match d.wharfUsed.findIdx? fun x => x = ch.val with
    | some j =>
      if c.state = 2 then
        (wharfRead ch.val (wharfBase + j * d.wharfCapacity + c.patrol) 64 0 d).2.modWharfCh ch.val fun c =>
          { c with patrol := (c.patrol + 64) % max 64 d.wharfCapacity }
      else d
    | none => d) s

/-- WHARF_CHANNEL_FAIL (R200). -/
def execWharfChannelFail (ch : Fin 12) (s : State) : Host.Outcome State Fault Refusal :=
  onDev (fun d =>
    if (d.wharfCh ch.val).state = 2 then
      postPolicy 0x0806 (memUnit (8 + ch.val)) 0 (syn [(32, 1, ch.val)]) (d.modWharfCh ch.val fun c => { c with state := 3 })
    else d) s

/-- Refresh and scrub slots per lockage of a controller in the running program. -/
def planCount (d : Dev) (k mark : Nat) : Nat :=
  match d.manifest.active with
  | some m => ((List.range 1024).filter fun s => tget 0 m.plan ((8 * d.program + k) * 1024 + s) = mark).length
  | none => 0

/-- CMD_HBM_STATUS (R201). -/
def execCmdHbmStatus (c : Cmd) (ctl : Nat) (s : State) : Host.Outcome State Fault Refusal :=
  onDev (query c { i3c := true } fun d =>
    if 8 ≤ ctl then fail .invalid
    else
      let k := d.ctl ctl
      ok [k.logical.getD 0, b2n k.logical.isSome, b2n k.hot, planCount d ctl 1, planCount d ctl 2, k.ceCount, k.ueCount,
        k.poisonMerge, b2n k.failed, b2n k.scrub.isSome, k.merge.length, k.mergePeak, k.mergeHolds]) s

/-- CMD_HBM_SCRUB (R186, R187, R201). -/
def execCmdHbmScrub (c : Cmd) (ctl first end_ mode : Nat) (s : State) : Host.Outcome State Fault Refusal :=
  onDev (mailbox c { block := some 6 } fun d =>
    let k := d.ctl ctl
    match k.logical with
    | none => (fail .invalid, d)
    | some L =>
      if 8 ≤ ctl ∨ 2 ≤ mode ∨ first % 8192 ≠ 0 ∨ end_ % 8192 ≠ 0 ∨ end_ ≤ first ∨ first / 2 ^ 36 ≠ L ∨
          (end_ - 1) / 2 ^ 36 ≠ L ∨ k.failed = true then (fail .invalid, d)
      else if k.scrub.isSome then (fail .busy, d)
      else (fail .accepted, startScrub ctl (first % 2 ^ 36 / 8192) ((end_ - 1) % 2 ^ 36 / 8192) mode (some (c.src.val, c.seq)) d)) s

/-- A log entry as HBM_CE_LOG_ENTRY shows it. -/
def CeEntry.word (e : CeEntry) : Nat :=
  e.line + at_ 33 e.symbol + at_ 40 e.pattern.toNat + at_ 48 e.rep + at_ 63 1

/-- CMD_HBM_CE_LOG (R184, R201): the 32 entries, each its word and its time. -/
def execCmdHbmCeLog (c : Cmd) (ctl : Nat) (s : State) : Host.Outcome State Fault Refusal :=
  onDev (query c { i3c := true } fun d =>
    if 8 ≤ ctl then fail .invalid
    else ok ((List.range 32).flatMap fun i => match (d.ctl ctl).log[i]? with
      | some e => [e.word, e.time.toNat]
      | none => [0, 0])) s

/-- CMD_HBM_CLEAR (R184, R201). -/
def execCmdHbmClear (c : Cmd) (ctl : Nat) (s : State) : Host.Outcome State Fault Refusal :=
  onDev (mailbox c { block := some 6 } fun d =>
    if 8 ≤ ctl then (fail .invalid, d)
    else (ok [], d.modCtl ctl fun k => { k with
      ceCount := 0, ueCount := 0, poisonMerge := 0, log := [], mergePeak := k.merge.length })) s

/-- CMD_HBM_CHECKER_TEST (R188): the sequence runs in the granule, which is left as clean zeros. -/
def execCmdHbmCheckerTest (c : Cmd) (ctl : Nat) (s : State) : Host.Outcome State Fault Refusal :=
  onDev (mailbox c {} fun d =>
    if 8 ≤ ctl then (fail .invalid, d)
    else if bit (d.csrGet (hbmReg ctl 0x98)).toNat 10 then (fail .busy, d)
    else (ok [b2n (checkerPasses && !(d.ctl ctl).failed)], testEnd ctl d)) s

/-- CMD_WHARF_STATUS (R201). -/
def execCmdWharfStatus (c : Cmd) (ch : Nat) (s : State) : Host.Outcome State Fault Refusal :=
  onDev (query c { i3c := true } fun d =>
    if 12 ≤ ch then fail .invalid
    else
      let w := d.wharfCh ch
      ok [w.state, w.capacity, w.ceCount, w.ueCount, (w.ceLast.getD (0, 0)).1, (w.ceLast.getD (0, 0)).2,
        b2n w.ceLast.isSome]) s

end Sys2Proof.Machine
end

