-- ==== Sys2Proof/Machine/Kv.lean ====
section
/-! DEFINITION. Key/value paging (R193–R198): reaches, their tables, sweep rings and homes. -/

namespace Sys2Proof.Machine

/-- Reach n. -/
def Dev.reach (d : Dev) (n : Nat) : Option Reach := tfind d.kv.reaches n

/-- Change reach n, which exists. -/
def Dev.modReach (d : Dev) (n : Nat) (f : Reach → Reach) : Dev :=
  match tfind d.kv.reaches n with
  | some r => d.modKv fun k => { k with reaches := tput k.reaches n (f r) }
  | none => d

/-- The lowest offset in a region of `size` bytes at which `n` bytes are free (first fit). -/
def firstFit (size n : Nat) (used : List (Nat × Nat)) : Option Nat :=
  let starts := 0 :: used.map fun u => u.1 + u.2
  (starts.filter fun o => decide (o + n ≤ size) && used.all fun u => decide (o + n ≤ u.1 ∨ u.1 + u.2 ≤ o)).foldl
    (fun (b : Option Nat) o => match b with | some x => some (min x o) | none => some o) none

/-- The size of a region of the plan. -/
def Dev.regionSize (d : Dev) (kind : Nat) : Nat := match d.region kind with | some g => g.size | none => 0

/-- The base of a region of the plan. -/
def Dev.regionBase (d : Dev) (kind : Nat) : Nat := match d.region kind with | some g => g.base | none => 0

/-- Take table space of KV_TABLES, zeroed. -/
def takeTable (n : Nat) (d : Dev) : Option (Nat × Dev) :=
  (firstFit (d.regionSize 4) n d.kv.tables).map fun o =>
    (o, zeroSpan (d.regionBase 4 + o) n (d.modKv fun k => { k with tables := k.tables ++ [(o, n)] }))

/-- The lowest run of `n` free frames of KV_POOL. -/
def freeRun (d : Dev) (n : Nat) : Option Nat :=
  (List.range (d.regionSize 5 / 65536)).find? fun f =>
    decide (f + n ≤ d.regionSize 5 / 65536) && (List.range n).all fun i => !d.kv.poolUsed.contains (f + i)

/-- The lowest free frame of KV_WHARF. -/
def freeWharf (d : Dev) : Option Nat :=
  (List.range (d.regionSize 6 / 65536)).find? fun f => !d.kv.wharfUsed.contains f

/-- The device address of a page's home. -/
def homeAddr (d : Dev) (e : Nat × Nat) : Nat := d.regionBase (if e.1 = 1 then 5 else 6) + 65536 * e.2

/-- Pages that a reach can have: those that hold its 2^24 tokens, and no more than a 24-bit index names (R193). -/
def Reach.limit (r : Reach) : Nat := min (2 ^ 24) (2 ^ 24 * r.tokenSize / 65536)

/-- Write a page entry: in the reach's directory and in its leaf (R193, R194); the leaf is allocated when it is first
needed. None when KV_TABLES has no room for it, or beyond the pages of the reach. -/
def setPage (n page : Nat) (e : Nat × Nat) (d : Dev) : Option Dev :=
  match d.reach n with
  | none => none
  | some r =>
    if r.limit ≤ page then none
    else
    let store (leaf : Nat) (d : Dev) : Dev :=
      (rawWrite (d.regionBase 4 + leaf + 8 * (page % 4096)) (leBytes 8 (e.1 + 4 * e.2)) false d).modReach n fun r =>
        { r with pages := tset (0, 0) r.pages page e }
    match tfind r.leaves (page / 4096) with
    | some leaf => some (store leaf d)
    | none => (takeTable 32768 d).map fun t =>
        store t.1 (rawWrite (d.regionBase 4 + r.directory + 8 * (page / 4096)) (leBytes 8 (d.regionBase 4 + t.1)) false
          (t.2.modReach n fun r => { r with leaves := tput r.leaves (page / 4096) t.1 }))

/-- KV_POOL use reaches the high weir: homes move until it has fallen to the low one (R197). -/
def checkWeirs (d : Dev) : Dev :=
  d.modKv fun k => { k with draining :=
    if d.thr.kvHigh ≤ k.poolUsed.length then true else if k.poolUsed.length ≤ d.thr.kvLow then false else k.draining }

/-- A new home: in KV_POOL below the high weir, else in KV_WHARF (R197). -/
def newHome (d : Dev) : Option ((Nat × Nat) × Dev) :=
  match if d.kv.poolUsed.length < d.thr.kvHigh then freeRun d 1 else none with
  | some f => some ((1, f), checkWeirs (d.modKv fun k => { k with poolUsed := addSet f k.poolUsed }))
  | none => (freeWharf d).map fun f => ((2, f), d.modKv fun k => { k with wharfUsed := addSet f k.wharfUsed })

/-- Address of ring slot j of a reach. -/
def ringSlot (d : Dev) (r : Reach) (j : Nat) : Nat := d.regionBase 5 + 65536 * (r.ring + j)

/-- Write back a dirty slot to the page's home, which is allocated if the page is absent (R196). -/
def writeBack (n page : Nat) (d : Dev) : Dev :=
  match d.reach n with
  | none => d
  | some r =>
    let j := page % 2 ^ r.r
    if tget 0xFFFFFFFF r.slots j ≠ page then d
    else
      let e := tget (0, 0) r.pages page
      if e.1 = 1 ∨ e.1 = 2 then rawCopy (ringSlot d r j) (homeAddr d e) 65536 d
      else match newHome d with
        | none => d
        | some (h, d') => match setPage n page h d' with
          | some d'' => rawCopy (ringSlot d'' r j) (homeAddr d'' h) 65536 d''
          | none => d

/-- Copy page i into its ring slot, data before the fill line (R196). A page whose home moves is filled after the move (R197); beyond the
pages that hold the reach's tokens there is nothing to fill (log entry 140). -/
def fillSlot (n page : Nat) (d : Dev) : Dev :=
  match d.reach n with
  | none => d
  | some r =>
    let j := page % 2 ^ r.r
    if tget 0xFFFFFFFF r.slots j = page ∨ r.limit ≤ page ∨ (tget (0, 0) r.pages page).1 = 3 then d
    else
      let e := tget (0, 0) r.pages page
      let d := if e.1 = 0 then zeroSpan (ringSlot d r j) 65536 d else rawCopy (homeAddr d e) (ringSlot d r j) 65536 d
      (rawWrite (d.regionBase 4 + r.fillLines + 256 * j) (leBytes 4 page ++ leBytes 4 1 ++ List.replicate 248 0) false d).modReach n
        fun r => { r with slots := tput r.slots j page }

/-- The pages that a release line newly releases: those beyond the last count, or all of its count where a new sweep has begun below it
(R195, R197). -/
def newReleases (n : Nat) (r : Reach) (rel : Nat) : List (Nat × Nat) :=
  let first := if r.consumed ≤ rel then r.consumed else 0
  (List.range (min rel r.limit - first)).map fun i => (n, first + i)

/-- The paging service's work for one reach in a lockage (R195, R196). -/
def kvSweep (n : Nat) (d : Dev) : Dev :=
  match d.reach n with
  | none => d
  | some r =>
    if r.sweptAt = d.canal.lockage + 1 then d
    else
      let line := rawRead (d.regionBase 4 + r.releaseLines) 256 d
      let bs := line.1.1
      let d := line.2.modReach n fun r => { r with sweptAt := d.canal.lockage + 1 }
      if !zeros bs 12 244 then
        post 0x0807 (unitBlock 4 6 127 (some r.inst)) 0 (syn [(32, 4, n), (40, 8, fieldLe bs 0 8)]) d
      else
        let rel := fieldLe bs 0 4
        let dirty := fieldLe bs 8 4
        let d := if dirty ≠ 0xFFFFFFFF then writeBack n dirty d else d
        let d := (d.modKv fun k => { k with released := (newReleases n r rel).foldl (fun l p => delSet p l ++ [p]) k.released }).modReach n
          fun r => { r with consumed := rel }
        (List.range (min (rel + 2 ^ r.r) (fieldLe bs 4 4) - rel)).foldl (fun d i => fillSlot n (rel + i) d) d

/-- A page's home lies in KV_POOL and no sweep ring holds it: it can move. -/
def canMove (d : Dev) (p : Nat × Nat) : Bool :=
  match d.reach p.1 with
  | some r => decide ((tget (0, 0) r.pages p.2).1 = 1) && !(r.slots.any fun s => s.2 = p.2)
  | none => false

/-- The page that a move takes next: the oldest released (R197); where no released page can move, the first that has not been released (log
entry 140). -/
def moveCandidate (d : Dev) : Option (Nat × Nat) :=
  match d.kv.released.find? (canMove d) with
  | some p => some p
  | none => (d.kv.reaches.flatMap fun e => e.2.pages.map fun p => (e.1, p.1)).find? (canMove d)

/-- A move begins: the page stands in state 3 with its frame of KV_POOL, and a frame of KV_WHARF is taken (R197). -/
def beginMove (n page : Nat) (d : Dev) : Dev :=
  match d.reach n, freeWharf d with
  | some r, some f =>
    match setPage n page (3, (tget (0, 0) r.pages page).2) d with
    | some d => d.modKv fun k => { k with moving := some (n, page, f), wharfUsed := addSet f k.wharfUsed }
    | none => d
  | _, _ => d

/-- The move in progress ends: the page is copied, then the new entry written (R197). -/
def endMove (d : Dev) : Dev :=
  match d.kv.moving with
  | none => d
  | some (n, page, f) =>
    match d.reach n with
    | none => d.modKv fun k => { k with moving := none }
    | some r =>
      let e := tget (0, 0) r.pages page
      let d := (rawCopy (homeAddr d (1, e.2)) (homeAddr d (2, f)) 65536 d).modKv fun k => { k with moving := none }
      match setPage n page (2, f) d with
      | some d => checkWeirs (d.modKv fun k => { k with poolUsed := delSet e.2 k.poolUsed, moves := k.moves + 1 })
      | none => d

/-- One step of the service's moves: the move in progress ends; else, while KV_POOL use lies above its weirs, that of the next page
begins. -/
def kvMove (n page : Nat) (d : Dev) : Dev :=
  match d.kv.moving with
  | some (m, p, _) => if m = n ∧ p = page then endMove d else d
  | none => if d.kv.draining ∧ moveCandidate d = some (n, page) then beginMove n page d else d

/-- A reach returns its frames and tables, after a move in progress (R201). -/
def dropReach (n : Nat) (d : Dev) : Dev :=
  let d := match d.kv.moving with | some (m, _, _) => if m = n then endMove d else d | none => d
  match d.reach n with
  | none => d
  | some r =>
    let homes (t : Nat) := (r.pages.filter fun p => p.2.1 = t).map fun p => p.2.2
    let rings := (List.range (2 ^ r.r)).map fun i => r.ring + i
    let tabs := r.directory :: r.fillLines :: r.releaseLines :: r.leaves.map (·.2)
    checkWeirs (d.modKv fun k => { k with
      reaches := tdel k.reaches n,
      poolUsed := k.poolUsed.filter fun f => !(homes 1).contains f && !rings.contains f,
      wharfUsed := k.wharfUsed.filter fun f => !(homes 2).contains f,
      tables := k.tables.filter fun t => !tabs.contains t.1,
      released := k.released.filter fun p => p.1 ≠ n })

/-- Every reach is destroyed (R198). -/
def dropReaches (d : Dev) : Dev := d.modKv fun k => { moves := k.moves }

/-- Create a reach: its directory, its two arrays of lines and its sweep ring. -/
def createReach (inst tokenSize r : Nat) (d : Dev) : Option (Nat × Dev) :=
  match takeTable 32768 d with
  | none => none
  | some (dir, d) => match takeTable (256 * 2 ^ r) d with
    | none => none
    | some (fl, d) => match takeTable (256 * 2 ^ r) d with
      | none => none
      | some (rl, d) => match freeRun d (2 ^ r) with
        | none => none
        | some ring =>
          let n := ((List.range 65536).find? fun i => (tfind d.kv.reaches i).isNone).getD 0
          let x : Reach := { inst := inst, tokenSize := tokenSize, r := r, ring := ring, fillLines := fl, releaseLines := rl,
                             directory := dir }
          let d := checkWeirs (d.modKv fun k => { k with
            reaches := tput k.reaches n x, poolUsed := k.poolUsed ++ (List.range (2 ^ r)).map fun i => ring + i })
          some (n, (List.range (2 ^ r)).foldl (fun d j =>
            rawWrite (d.regionBase 4 + fl + 256 * j) (leBytes 4 0xFFFFFFFF ++ List.replicate 252 0) false d) d)

/-! ### The commands -/

/-- KV_SWEEP (R196). -/
def execKvSweep (reach : Nat) (s : State) : Host.Outcome State Fault Refusal := onDev (kvSweep reach) s

/-- KV_MOVE (R197): while KV_POOL use lies above its weirs, the oldest released page moves: its move begins, and at the next KV_MOVE of that
page ends. -/
def execKvMove (reach page : Nat) (s : State) : Host.Outcome State Fault Refusal := onDev (kvMove reach page) s

/-- CMD_KV_REACH_CREATE (R195, R198): token size a power of two from 64 bytes to 64 KiB, r from 2 to 12. -/
def execCmdKvReachCreate (c : Cmd) (inst tokenSize r : Nat) (s : State) : Host.Outcome State Fault Refusal :=
  onDev (mailbox c { vf := true } fun d =>
    if isVf c.src ∧ inst ≠ c.src.val then (fail .notPermitted, d)
    else if 1024 ≤ inst ∨ ¬ ((List.range 11).any (fun i => tokenSize = 64 * 2 ^ i)) = true ∨ r < 2 ∨ 12 < r then (fail .invalid, d)
    else if 65536 ≤ d.kv.reaches.length then (fail .capacity, d)
    else match createReach inst tokenSize r d with
      | none => (fail .capacity, d)
      | some (n, e) => match e.reach n with
        | some x => (ok [n, ringSlot e x 0, e.regionBase 4 + x.fillLines, e.regionBase 4 + x.releaseLines], e)
        | none => (fail .capacity, d)) s

/-- CMD_KV_REACH_DESTROY (R201). -/
def execCmdKvReachDestroy (c : Cmd) (reach : Nat) (s : State) : Host.Outcome State Fault Refusal :=
  onDev (mailbox c { vf := true } fun d =>
    match d.reach reach with
    | none => (fail .invalid, d)
    | some r => if isVf c.src ∧ r.inst ≠ c.src.val then (fail .notPermitted, d) else (ok [], dropReach reach d)) s

/-- Pages of a reach with a state. -/
def Reach.count (r : Reach) (st : Nat) : Nat := (r.pages.filter fun p => p.2.1 = st).length

/-- CMD_KV_STATUS (R201): pages per tier, KV_POOL use, weirs, moves. -/
def execCmdKvStatus (c : Cmd) (reach : Nat) (s : State) : Host.Outcome State Fault Refusal :=
  onDev (query c { vf := true, i3c := true } fun d =>
    let tail := [d.kv.poolUsed.length, d.thr.kvHigh, d.thr.kvLow, d.kv.moves]
    if reach = 0xFFFFFFFF then
      let rs := d.kv.reaches.filter fun e => !isVf c.src || decide (e.2.inst = c.src.val)
      ok ([(rs.map fun e => e.2.count 1).sum, (rs.map fun e => e.2.count 2).sum] ++ tail)
    else match d.reach reach with
      | none => fail .invalid
      | some r => if isVf c.src ∧ r.inst ≠ c.src.val then fail .notPermitted else ok ([r.count 1, r.count 2] ++ tail)) s

end Sys2Proof.Machine
end

