-- ==== Sys2Proof/Machine/Ptp.lean ====
section
/-! DEFINITION. Cluster time as it moves (R308, R309) and the PTP of R310: the messages that a master port sends and answers, and the
exchange by which the root's slave port follows its master. The messages' layout and intervals are those of IEEE Std 1588, which R3
names (log entry 137). -/

namespace Sys2Proof.Machine

/-! ### Stamps and steering (R308, R309) -/

/-- A stamp in 2^-32 ns. -/
def stampOf (ns : Word) (frac : W32) : Int := (ns.toNat : Int) * 4294967296 + frac.toNat

/-- A duration of 2^-32 ns in ps. -/
def toPs (x : Int) : Int := x * 1000 / 4294967296

/-- Cluster time moves on by some 2^-32 ns. -/
def TimeSt.advance (t : TimeSt) (x : Nat) : TimeSt :=
  let v := t.ns.toNat * 4294967296 + t.frac.toNat + x
  { t with ns := BitVec.ofNat 64 (v / 4294967296), frac := BitVec.ofNat 32 v }

/-- The time by which a link's heartbeats are due: cluster time, and local time before the timebase has locked (R301). -/
def Dev.beat (d : Dev) : Nat := if d.time.locked then d.time.ns.toNat else d.uptime

/-- The next multiple of 100 µs. -/
def nextBeat (t : Nat) : Nat := (t / 100000 + 1) * 100000

/-- The timebase locks (R301, R305 step 5): heartbeats fall due by cluster time from now on, and a member reports to the root. -/
def timebaseLock (d : Dev) : Dev :=
  if d.time.locked then d
  else
    let d := d.modTime fun t => { t with locked := true }
    let due (l : RingLink) : RingLink := { l with nextDue := nextBeat d.time.ns.toNat, sendDue := nextBeat d.time.ns.toNat }
    let d := [0, 1, 2, 3].foldl (fun d k => d.modLink k due) d
    if d.ring.root then d else reportRoot .locked d

/-- Steer toward a source against which this clock runs ahead by `x` (2^-32 ns): the whole correction, stepped in forward
before lockage 0 and slewed otherwise (log entry 68). A device is locked after 16 consecutive offsets of at most 2 ns. -/
def steer (x : Int) (d : Dev) : Dev :=
  let near := decide (toPs x ≤ 2000 ∧ -2000 ≤ toPs x)
  let d := d.modTime fun t =>
    let t := { t with offset := toPs x, good := if near then t.good + 1 else 0,
                      state := if near && decide (16 ≤ t.good + 1) then 2 else if near && decide (t.state = 2) then 2 else 1 }
    if d.canal.aligned = false ∧ x < 0 then t.advance (-x).toNat else { t with slew := -x }
  if d.time.state = 2 then timebaseLock d else d

/-! ### The root's sources (R308) -/

/-- The first source available: the PPS input with a known second, a PTP slave port, the oscillator. -/
def nextSource (t : TimeSt) : Nat := if t.ppsOk && t.secondKnown then 1 else if t.ptpOk then 2 else 4

/-- This device is the group root and takes its first source. On its oscillator it counts from 0, or from the value that
CMD_TIME_SET gave, and is its group's timebase from that moment (log entry 68). -/
def startRootTime (d : Dev) : Dev :=
  let d := d.modTime fun t => if t.source = 1 ∨ t.source = 2 ∨ t.source = 4 then t
    else { t with source := nextSource t, counting := true, state := if nextSource t = 4 then 0 else 1 }
  if d.time.source = 4 then timebaseLock d else d

/-! ### PTP messages (R310) -/

/-- A big-endian field. -/
def fieldBe (b : Bytes) (o n : Nat) : Nat := beNat (slice b o n)

/-- The fraction of a port's stamp: its granularity is 0.125 ns (R252). -/
def stampFrac (frac : W32) : W32 := frac &&& 0xE0000000#32

/-- The clockClass that the device announces: 6 locked to the PPS inputs, 7 in holdover, 248 in free run; a boundary clock passes on its
master's. -/
def announcedClass (t : TimeSt) : Nat :=
  if t.source = 2 ∧ t.ptpOk then t.slave.clockClass
  else if t.source = 1 ∧ t.state = 2 then 6 else if t.state = 3 then 7 else if t.state = 0 then 248 else (Config.clockClass t.state).toNat

/-- A 10-byte PTP timestamp: 48-bit seconds and 32-bit nanoseconds, big-endian. -/
def ptpStamp (ns : Nat) : Bytes := beBytes 6 (ns / 1000000000) ++ beBytes 4 (ns % 1000000000)

/-- The common header: message type, length, domain, flags, correction (2^-16 ns), port, sequence, log interval. -/
def ptpHeader (type len domain flags : Nat) (corr : Nat) (port seq : Nat) (interval : Nat) : Bytes :=
  [BitVec.ofNat 8 type, 0x12#8] ++ beBytes 2 len ++ [BitVec.ofNat 8 domain, 0] ++ beBytes 2 flags ++ beBytes 8 corr ++ beBytes 4 0 ++
    beBytes 8 Config.clockIdentity.toNat ++ beBytes 2 (port + 1) ++ beBytes 2 seq ++ [if type < 2 then BitVec.ofNat 8 type else if type = 8 then 2 else if type = 9 then 3 else 5, BitVec.ofNat 8 interval]

/-- A stamp's fraction of a nanosecond as a correction field. -/
def fracCorrection (frac : W32) : Nat := (stampFrac frac).toNat / 65536

/-- Announce: the grandmaster's quality and identity, the steps removed, the time source. -/
def announceMsg (domain port seq : Nat) (t : TimeSt) : Bytes :=
  let steps := if t.source = 2 ∧ t.ptpOk then t.slave.steps + 1 else 0
  ptpHeader 11 64 domain 8 0 port seq 1 ++ ptpStamp 0 ++ beBytes 2 0 ++ [0, 128#8, BitVec.ofNat 8 (announcedClass t), 0xFE#8] ++ beBytes 2 0xFFFF ++
    [128#8] ++ beBytes 8 Config.clockIdentity.toNat ++ beBytes 2 steps ++ [0xA0#8]

/-- The messages of a master port at a whole second: Sync with its Follow_Up, and an Announce every other second. -/
def masterMsgs (domain port seq : Nat) (t : TimeSt) : List Bytes :=
  (if t.ns.toNat / 1000000000 % 2 = 0 then [announceMsg domain port seq t] else []) ++
    [ptpHeader 0 44 domain 0x200 0 port seq 0 ++ ptpStamp 0,
     ptpHeader 8 44 domain 0 (fracCorrection t.frac) port seq 0 ++ ptpStamp t.ns.toNat]

/-- Every master port of an up link sends its messages. -/
def ptpSecond (d : Dev) : Dev :=
  if d.time.ptp = [] then d
  else
    let seq := d.time.ptpSeq % 65536
    let masters := d.time.ptp.filter fun e => decide (e.2.1 = 1) && (tget {} d.net.ports e.1).up
    (d.modTime fun t => { t with ptpSeq := t.ptpSeq + 1 }) |> fun d' =>
      masters.foldl (fun x e => (masterMsgs e.2.2.1 e.1 seq d.time).foldl (fun x m => x.emit (.ptp e.1 e.2.2.2 m)) x) d'

/-- Where a PTP message starts in a frame, and the transport that carries it: 0 Ethertype 0x88F7, 1 UDP over IPv4, 2 UDP over IPv6, on
ports 319 and 320. -/
def ptpMessage (f : Bytes) : Option (Nat × Bytes) :=
  let be (o n : Nat) : Nat := fieldBe f o n
  let o := if be 12 2 = 0x8100 then 16 else 12
  let udp (at_ : Nat) : Bool := be (at_ + 2) 2 == 319 || be (at_ + 2) 2 == 320
  if be o 2 = 0x88F7 then some (0, f.drop (o + 2))
  else if be o 2 = 0x0800 ∧ be (o + 11) 1 = 17 then
    let u := o + 2 + 4 * (be (o + 2) 1 % 16)
    if udp u then some (1, f.drop (u + 8)) else none
  else if be o 2 = 0x86DD ∧ be (o + 8) 1 = 17 then
    if udp (o + 42) then some (2, f.drop (o + 50)) else none
  else none

/-- A message's origin stamp with its correction, in 2^-32 ns. -/
def originOf (m : Bytes) : Int :=
  ((fieldBe m 34 6 * 1000000000 + fieldBe m 40 4 : Nat) : Int) * 4294967296 + (BitVec.ofNat 64 (fieldBe m 8 8)).toInt * 65536

/-- A master port answers a Delay_Req with the stamp at which it came. -/
def delayResp (p domain transport : Nat) (m : Bytes) (d : Dev) : Dev :=
  d.emit (.ptp p transport (ptpHeader 9 54 domain 0 (2 ^ 64 - fracCorrection d.time.frac) p (fieldBe m 30 2) 0 ++ ptpStamp d.time.ns.toNat ++ slice m 20 10))

/-- The slave port has a complete exchange: the root follows PTP unless it follows the PPS input, and knows the TAI second (R308). -/
def ptpOffset (x : Int) (d : Dev) : Dev :=
  let d := d.modTime fun t => { t with ptpOk := true, secondKnown := true, counting := true,
                                       source := if t.source = 1 then 1 else 2, state := if t.source = 1 ∨ t.source = 2 then t.state else 1,
                                       good := if t.source = 1 ∨ t.source = 2 then t.good else 0 }
  if d.time.source = 2 then steer x d else d

/-- What the slave port does with a message: it notes a Sync, asks for the delay after its Follow_Up, and steers by the answer. -/
def slaveMessage (p domain transport : Nat) (m : Bytes) (d : Dev) : Dev :=
  let now := stampOf d.time.ns (stampFrac d.time.frac)
  let seq := fieldBe m 30 2
  let s := d.time.slave
  let put (f : PtpSlave → PtpSlave) (d : Dev) : Dev := d.modTime fun t => { t with slave := f t.slave }
  match fieldBe m 0 1 % 16 with
  | 0 => put (fun s => { s with sync := some (seq, now), origin := if bit (fieldBe m 6 2) 9 then none else some (originOf m) }) d
  | 8 =>
    if s.sync.map (·.1) = some seq then
      let own := d.time.ptpSeq % 65536
      (put (fun s => { s with origin := some (originOf m), request := some (own, now) }) (d.modTime fun t => { t with ptpSeq := t.ptpSeq + 1 })).emit
        (.ptp p transport (ptpHeader 1 44 domain 0 0 p own 0x7F ++ ptpStamp 0))
    else d
  | 9 =>
    match s.sync, s.origin, s.request with
    | some (_, t2), some t1, some (own, t3) =>
      if own = seq ∧ fieldBe m 44 8 = Config.clockIdentity.toNat ∧ fieldBe m 52 2 = p + 1 then
        let t4 := ((fieldBe m 34 6 * 1000000000 + fieldBe m 40 4 : Nat) : Int) * 4294967296 - (BitVec.ofNat 64 (fieldBe m 8 8)).toInt * 65536
        ptpOffset (((t2 - t1) - (t4 - t3)) / 2) (put (fun s => { s with request := none }) d)
      else d
    | _, _, _ => d
  | 11 => put (fun s => { s with clockClass := fieldBe m 48 1, steps := fieldBe m 61 2 }) d
  | _ => d

/-- A frame that the timebase firmware gets (R257, R310): a PTP message of the port's own domain and transport. -/
def timeFrame (p : Nat) (f : Bytes) (d : Dev) : Dev :=
  match ptpMessage f with
  | none => d
  | some (transport, m) =>
    let (role, domain, own) := tget (0, 0, 0) d.time.ptp p
    if transport ≠ own ∨ fieldBe m 1 1 % 16 ≠ 2 ∨ fieldBe m 4 1 ≠ domain then d
    else if role = 1 then (if fieldBe m 0 1 % 16 = 1 then delayResp p domain transport m d else d)
    else if role = 2 then slaveMessage p domain transport m d
    else d

end Sys2Proof.Machine
end

