-- ==== Sys2Proof/Machine/Net.lean ====
section
/-! DEFINITION. The network engine (chapter 11): parsing and classifying received frames, delivery to receive queues, the
egress scheduler with its shapers, rule-set commits, samples. -/

namespace Sys2Proof.Machine

/-- Ethernet port p. -/
def Dev.netPort (d : Dev) (p : Nat) : NetPort := tget {} d.net.ports p

/-- Change Ethernet port p. -/
def Dev.modNetPort (d : Dev) (p : Nat) (f : NetPort → NetPort) : Dev :=
  d.modNet fun n => { n with ports := tmod {} n.ports p f }

/-- Network queue q. -/
def Dev.netQueue (d : Dev) (q : Nat) : NetQueue := tget {} d.net.queues q

/-- Change network queue q. -/
def Dev.modQueue (d : Dev) (q : Nat) (f : NetQueue → NetQueue) : Dev :=
  d.modNet fun n => { n with queues := tmod {} n.queues q f }

/-- The network state of half h. -/
def Dev.netHalf (d : Dev) (h : Nat) : NetHalf := tget {} d.net.halves h

/-- Change the network state of half h. -/
def Dev.modHalf (d : Dev) (h : Nat) (f : NetHalf → NetHalf) : Dev :=
  d.modNet fun n => { n with halves := tmod {} n.halves h f }

/-- The ETH lock of port p (R81), and the port's unit field. -/
def ethLock (p : Nat) : Nat := if p < 4 then 42 + p else 102 + p
def netUnit (p : Nat) : W32 := unitBlock (4 + p / 4) 10 p

/-! ### The parser (R253, R254, R259) -/

/-- Where a frame's headers begin. -/
structure Headers where
  l3 : Nat := 0
  l4 : Nat := 0
  tags : Nat := 0
  fragment : Bool := false
  l3At : Option Nat := none
  l4At : Option Nat := none
  payAt : Option Nat := none
  deriving DecidableEq, Repr

/-- Pass up to two VLAN tags: offset of the Ethertype, and tags passed. -/
def skipTags : Nat → Nat → Bytes → Nat × Nat
  | 0, o, _ => (o, 0)
  | n + 1, o, f =>
    if beNat (slice f o 2) = 0x8100 ∨ beNat (slice f o 2) = 0x88A8 then
      ((skipTags n (o + 4) f).1, (skipTags n (o + 4) f).2 + 1)
    else (o, 0)

/-- The layer-4 header at offset o: its kind and where its payload begins. -/
def parseL4 (proto o : Nat) (f : Bytes) : Nat × Option Nat :=
  if proto = 17 then
    if f.length < o + 8 then (0, none)
    else
      let port := beNat (slice f (o + 2) 2)
      (if port = 24940 then 3 else if port = 319 ∨ port = 320 then 4 else 1, some (o + 8))
  else if proto = 6 then
    if f.length < o + 20 then (0, none)
    else
      let h := 4 * (fieldLe f (o + 12) 1 / 16)
      (2, if 20 ≤ h ∧ o + h ≤ f.length then some (o + h) else none)
  else (5, none)

/-- An IPv4 packet at offset o (IHL honoured). A fragment other than the first has no layer-4 header (log entry 38). -/
def parseV4 (o : Nat) (f : Bytes) (h : Headers) : Headers :=
  let ihl := 4 * (fieldLe f o 1 % 16)
  let frag := beNat (slice f (o + 6) 2)
  let h := { h with l3 := 1, l3At := some o, fragment := decide (frag % 0x4000 ≠ 0) }
  if ihl < 20 ∨ frag % 0x2000 ≠ 0 ∨ f.length < o + ihl then h
  else
    let r := parseL4 (fieldLe f (o + 9) 1) (o + ihl) f
    { h with l4 := r.1, l4At := if r.1 = 0 then none else some (o + ihl), payAt := r.2 }

/-- An IPv6 packet at offset o. -/
def parseV6 (o : Nat) (f : Bytes) (h : Headers) : Headers :=
  let h := { h with l3 := 2, l3At := some o }
  if f.length < o + 40 then h
  else
    let r := parseL4 (fieldLe f (o + 6) 1) (o + 40) f
    { h with l4 := r.1, l4At := if r.1 = 0 then none else some (o + 40), payAt := r.2 }

/-- The headers of a frame (R253). -/
def parseFrame (f : Bytes) : Headers :=
  let t := skipTags 2 12 f
  let h : Headers := { tags := t.2 }
  let kind := beNat (slice f t.1 2)
  let o := t.1 + 2
  if f.length < o ∨ kind < 1536 then h
  else if kind = 0x0800 then parseV4 o f h
  else if kind = 0x86DD then parseV6 o f h
  else if kind = 0x88F7 then { h with l3 := 3, l4 := 4, l3At := some o, l4At := some o, payAt := some o }
  else { h with l3 := 3, l3At := some o }

/-- The fields of an extraction entry (R254). -/
def entryAnchor (e : W32) : Nat := bits e.toNat 1 0
def entryOffset (e : W32) : Nat := bits e.toNat 9 2
def entryLength (e : W32) : Nat := bits e.toNat 13 10 + 1
def entryKey (e : W32) : Nat := bits e.toNat 19 14
def entryValid (e : W32) : Bool := bit e.toNat 20

/-- Where an anchor stands in a frame. -/
def anchorAt (h : Headers) : Nat → Option Nat
  | 0 => some 0
  | 1 => h.l3At
  | 2 => h.l4At
  | _ => h.payAt

/-- Write bytes into a byte string at an offset. -/
def patchAt (bs : Bytes) (o : Nat) (x : Bytes) : Bytes := bs.take o ++ x ++ bs.drop (o + x.length)

/-- Extract one field into the key; a field whose anchor is absent or that passes the frame's end is zero and sets `missing`. -/
def extractField (f : Bytes) (h : Headers) (k : Bytes × Bool) (e : W32) : Bytes × Bool :=
  if entryValid e = false then k
  else match anchorAt h (entryAnchor e) with
    | some a =>
      if a + entryOffset e + entryLength e ≤ f.length
      then (patchAt k.1 (entryKey e) (slice f (a + entryOffset e) (entryLength e)), k.2)
      else (k.1, true)
    | none => (k.1, true)

/-- The key of a frame without its FCS (R253): the frame length in it counts the FCS (log entry 38). -/
def frameKey (rs : RuleSet) (port profile tag : Nat) (second : Bool) (f : Bytes) : Bytes :=
  let h := parseFrame f
  let r := (tspan 0 rs.extract (16 * profile) 16).foldl (extractField f h) (List.replicate 64 0, false)
  let head := leBytes 1 port ++ leBytes 1 h.l3 ++ leBytes 1 h.l4 ++ leBytes 1 h.tags ++ leBytes 2 (f.length + 4) ++
    leBytes 1 (b2n r.2 + 2 * b2n second + 4 * b2n h.fragment) ++ leBytes 1 tag
  patchAt r.1 0 head

/-! ### Classification (R255–R259) -/

/-- The action bytes of a rule, and its kind. -/
def ruleAction (r : Rule) : Bytes := slice r 128 32
def ruleKind (r : Rule) : Nat := fieldLe r 128 1

/-- A rule matches a key: (key AND mask) = value; EMPTY never matches. -/
def ruleMatches (key : Bytes) (r : Rule) : Bool :=
  decide (ruleKind r ≠ 0) && (List.zipWith (fun (k m : Byte) => k &&& m) key (slice r 64 64) == slice r 0 64)

/-- A default rule that is not set: DROP (R261). -/
def dropRule : Rule := List.replicate 128 0 ++ [3#8] ++ List.replicate 31 0

/-- The lowest matching rule, or the port's default rule. -/
def matchRule (rs : RuleSet) (port : Nat) (key : Bytes) : Nat × Rule :=
  match rs.rules.find? fun e => decide (e.1 < 4096) && ruleMatches key e.2 with
  | some e => e
  | none => (4096 + port % 4, tget dropRule rs.rules (4096 + port % 4))

/-- The hash of a SPREAD action (R258). -/
def spreadHash (a key : Bytes) : W32 :=
  crc32c (BitVec.ofNat 32 (fieldLe a 16 4)) (((List.range 64).filter fun i => bit (fieldLe a 8 8) i).map fun i => key.getD i 0)

/-- What classification decides for a frame. -/
inductive Verdict where
  | toQueue (queue rule : Nat) (hash : W32) (second : Bool)
  | toTransport
  | toTime
  | drop
  | recircLimit
  deriving DecidableEq, Repr

/-- The verdict of an action other than RECIRCULATE. -/
def actionVerdict (rs : RuleSet) (rule : Nat) (a key : Bytes) (second : Bool) : Verdict :=
  match fieldLe a 0 1 with
  | 1 => .toQueue (fieldLe a 4 2) rule 0 second
  | 2 => .toQueue (tget 0#16 rs.indir (256 * fieldLe a 6 1 + (spreadHash a key).toNat % 256)).toNat rule (spreadHash a key) second
  | 5 => .toTransport
  | 6 => .toTime
  | _ => .drop

/-- Classify a frame by the active rule set of the port's half; a RECIRCULATE gives it one more pass (R259). -/
def classifyFrame (rs : RuleSet) (port : Nat) (f : Bytes) : Verdict :=
  let key := frameKey rs port 0 0 false f
  let r := matchRule rs port key
  if ruleKind r.2 = 4 then
    let a := ruleAction r.2
    let key := frameKey rs port (fieldLe a 1 1) (fieldLe a 3 1) true (f.drop (fieldLe a 2 1))
    let r := matchRule rs port key
    if ruleKind r.2 = 4 then .recircLimit else actionVerdict rs r.1 (ruleAction r.2) key true
  else actionVerdict rs r.1 (ruleAction r.2) key false

/-! ### Delivery (R260, R263) -/

/-- A received frame is dropped under R260. -/
def rxDrop (p : Nat) (d : Dev) : Dev := d.modNetPort p fun x => { x with rxDrops := satAdd (2 ^ 32 - 1) x.rxDrops 1 }

/-- A frame's write has left its chamber undelivered: it was sluiced or discarded, and gets no record. -/
def rxLost (d : Dev) (r : RxPending) : Bool :=
  decide (tget 0 d.locks.delivered r.id = 0) && !(d.locks.tab.any fun e => e.2.queue.any fun w => decide (w.id = r.id))

/-- Frames of a queue that will never be written leave it (R263: seq counts the frames written). -/
def dropLost (q : Nat) (d : Dev) : Dev := d.modQueue q fun x => { x with rx := x.rx.filter fun r => !rxLost d r }

/-- The ring entry of the next frame: the one after the last frame's that is on its way, or after the last record. Where a frame on its way
was discarded alone, those behind it keep their entries (log entry 142). -/
def nextPlace (x : NetQueue) : Nat := match x.rx.getLast? with | some r => r.place + 1 | none => x.seq

/-- Entries of the ring that the consumer has not consumed, modulo 2^64, fill it. -/
def ringFull (x : NetQueue) : Bool := decide (2 ^ x.n ≤ (nextPlace x + 2 ^ 64 - x.head) % 2 ^ 64)

/-- Read the head word again when the ring appears full, at most once per lockage (R263). -/
def refreshHead (q : Nat) (d : Dev) : Dev :=
  let x := d.netQueue q
  if ringFull x ∧ x.headRead ≠ d.canal.lockage + 1 then
    let r := memRead 0 x.headWord 8 d
    r.2.modQueue q fun x => { x with head := leNat r.1.1, headRead := d.canal.lockage + 1 }
  else d

/-- Deliver a frame to a receive queue: its buffer's write passes the port's ETH lock under the owning instance. -/
def toQueue (p q rule : Nat) (hash : W32) (second : Bool) (f : Bytes) (d : Dev) : Dev :=
  let d := refreshHead q (dropLost q d)
  let x := d.netQueue q
  if x.bound = false ∨ namedInst d x.inst = false ∨ ringFull x then rxDrop p d
  else
    let r := lockArrive (ethLock p) x.inst none false
      (.write (x.bufBase + (nextPlace x % 2 ^ x.n) * x.bufSize) (f.take x.bufSize) false 0) d
    match r.1 with
    | .full => noRoom (ethLock p) 0 r.2
    | .unmapped => rxDrop p r.2
    | .failed => r.2
    | .waits id => r.2.modQueue q fun x => { x with
        rx := x.rx ++ [{ time := d.time.ns, frac := (stampFrac d.time.frac).extractLsb' 16 16, length := f.length,
                         version := (d.netHalf (p / 4)).version, rule := rule, hash := hash,
                         truncated := decide (x.bufSize < f.length), recirculated := second, place := nextPlace x, id := id }] }

/-- Delivery to the SERVICE or CONTROL engine of the half, through the port's ETH lock (R82, R260). -/
def toEngine (p : Nat) (f : Bytes) (g : Dev → Dev) (d : Dev) : Dev :=
  if (d.lock (ethLock p)).closed ∨ (d.lock (ethLock p)).room f.length = false then noRoom (ethLock p) 0 d else g d

/-- Passes made in some ns at 6 × 10^9 a second are taken off the frames that wait for a half's parser, oldest first (R259). -/
def parsePasses : Nat → List (Nat × Nat × Nat) → List (Nat × Nat × Nat)
  | _, [] => []
  | n, (p, bytes, k) :: l => if k ≤ n then parsePasses (n - k) l else (p, bytes, k - n) :: l

/-- The parser of a half has made its passes up to now. -/
def parserRun (h : Nat) (d : Dev) : Dev := d.modHalf h fun x =>
  { x with parser := parsePasses (6 * (d.uptime - x.parsedAt)) x.parser, parsedAt := d.uptime }

/-- Bytes of a port's frames that wait for the parser: a port holds 256 KiB of them (R259). -/
def parserBytes (d : Dev) (p : Nat) : Nat := (((d.netHalf (p / 4)).parser.filter fun e => e.1 = p).map fun e => e.2.1).sum

/-- Passes that a frame makes: a second one where its first rule recirculates it. -/
def framePasses (rs : RuleSet) (port : Nat) (f : Bytes) : Nat :=
  if ruleKind (matchRule rs port (frameKey rs port 0 0 false f)).2 = 4 then 2 else 1

/-- A received frame, FCS included (R251–R260). -/
def frameReceive (p : Nat) (frame : Bytes) (d : Dev) : Dev :=
  if (d.netPort p).up = false then d
  else
    let f := frame.take (frame.length - 4)
    if frame.length < 64 ∨ 9216 < frame.length ∨ leBytes 4 (crc32 f).toNat ≠ frame.drop (frame.length - 4) then
      d.modNetPort p fun x => { x with fcsErrors := satAdd 65535 x.fcsErrors 1 }
    else
      let d := parserRun (p / 4) d
      let rs := (d.netHalf (p / 4)).active
      if 262144 < parserBytes d p + frame.length then rxDrop p d
      else
        let d := d.modHalf (p / 4) fun x => { x with parser := x.parser ++ [(p, frame.length, framePasses rs p f)] }
        match classifyFrame rs p f with
        | .toQueue q rule hash second => toQueue p q rule hash second f d
        | .toTransport => toEngine p f (fun d => d.modTp fun t => { t with inbox := t.inbox ++ [(p / 4, f)] }) d
        | .toTime => toEngine p f (timeFrame p f) d
        | .drop => d.modNetPort p fun x => { x with ruleDrops := satAdd 255 x.ruleDrops 1 }
        | .recircLimit => d.modNetPort p fun x => { x with recircLimit := satAdd 255 x.recircLimit 1 }

/-- The 32 bytes of a receive record (R263), with the count of frames written that it makes. -/
def rxBytes (r : RxPending) (seq : Nat) : Bytes :=
  leBytes 8 r.time.toNat ++ leBytes 2 r.frac.toNat ++ leBytes 2 r.length ++ leBytes 2 r.version.toNat ++ leBytes 2 r.rule ++
    leBytes 4 r.hash.toNat ++ leBytes 1 (b2n r.truncated) ++ leBytes 1 (b2n r.recirculated) ++ [0, 0] ++ leBytes 8 seq

/-- The oldest frame delivered to a queue gets its record once its buffer's delivery slot has passed. A frame whose write was
sluiced gets none. -/
def rxRecord (q : Nat) (d : Dev) : Dev :=
  let d := dropLost q d
  let x := d.netQueue q
  match x.rx with
  | [] => d
  | r :: rest =>
    let slot := tget 0 d.locks.delivered r.id
    let a := x.recordBase + 32 * (r.place % 2 ^ x.n)
    if slot = 0 ∨ d.now < slot - 1 then d
    else if canWrite d (some (ethLock x.port)) a 32 = false then noteWait (some (ethLock x.port)) a 32 d
    else
      let d := d.modLocks fun k => { k with delivered := tset 0 k.delivered r.id 0 }
      let d := engineWrite (some (ethLock x.port)) 0 a (rxBytes r (x.seq + 1)) false (d.modQueue q fun x => { x with rx := rest, seq := x.seq + 1 })
      if x.vector = 0xFFFF then d else raiseMsix x.inst x.vector d

/-! ### The egress scheduler (R264–R267) -/

/-- A frame's cost: its length with FCS plus 20 bytes. -/
def EgressFrame.cost (f : EgressFrame) : Nat := f.bytes.length + 24

/-- The shaper lets its node send: unlimited, or its credit is at least 0. -/
def Shaper.open_ (s : Shaper) : Bool := decide (s.rate = 0) || decide (0 ≤ s.credit)

/-- A queue node is eligible (R265). -/
def NetQueue.eligible (x : NetQueue) : Bool := x.frames.length != 0 && x.shaper.open_

/-- The instance node of instance i on port p. -/
def Dev.node (d : Dev) (p i : Nat) : InstNode := tget {} (d.netPort p).nodes i

/-- Change an instance node. -/
def Dev.modNode (d : Dev) (p i : Nat) (f : InstNode → InstNode) : Dev :=
  d.modNetPort p fun x => { x with nodes := tmod {} x.nodes i f }

/-- Queues bound to port p, with their numbers. -/
def portQueues (d : Dev) (p : Nat) : List (Nat × NetQueue) := d.net.queues.filter fun e => e.2.bound && decide (e.2.port = p)

/-- The eligible queues of an instance on a port. -/
def eligibleQueues (d : Dev) (p i : Nat) : List (Nat × NetQueue) :=
  (portQueues d p).filter fun e => decide (e.2.inst = i) && e.2.eligible

/-- The instances with queues on a port. -/
def portInsts (d : Dev) (p : Nat) : List Nat := (portQueues d p).foldl (fun l e => addSet e.2.inst l) []

/-- The eligible instances of a port. -/
def eligibleInsts (d : Dev) (p : Nat) : List Nat :=
  (portInsts d p).filter fun i => (eligibleQueues d p i).length != 0 && (d.node p i).shaper.open_

/-- The child with the least start tag, the lowest number on a tie. -/
def leastTag : List (Nat × Word) → Option (Nat × Word)
  | [] => none
  | e :: l => match leastTag l with
    | none => some e
    | some b => if e.2.toNat < b.2.toNat ∨ (e.2 = b.2 ∧ e.1 ≤ b.1) then some e else some b

def instTags (d : Dev) (p : Nat) : List (Nat × Word) := (eligibleInsts d p).map fun i => (i, (d.node p i).s)
def queueTags (d : Dev) (p i : Nat) : List (Nat × Word) := (eligibleQueues d p i).map fun e => (e.1, e.2.s)

/-- max of two 64-bit tags. -/
def maxTag (a b : Word) : Word := if a.toNat < b.toNat then b else a

/-- Children that have become eligible since `before` start at their parent's virtual time (R264, R265). -/
def wake (p : Nat) (before d : Dev) : Dev :=
  let was := eligibleInsts before p
  let d := (portInsts d p).foldl (fun d i =>
    (eligibleQueues d p i).foldl (fun d e =>
      if (eligibleQueues before p i).any fun b => b.1 = e.1 then d
      else d.modQueue e.1 fun x => { x with s := maxTag x.s (d.node p i).v }) d) d
  (eligibleInsts d p).foldl (fun d i =>
    if was.contains i then d else d.modNode p i fun n => { n with s := maxTag n.s (d.netPort p).v }) d

/-- An effective weight: the queue's, or the instance's from the shared table or as flow-fair recomputed it. -/
def instWeight (d : Dev) (p i : Nat) : Nat :=
  if (d.netPort p).flowFair ∧ 0 < (d.node p i).weff then (d.node p i).weff else tget 1 d.locks.weights i

/-- Sending subtracts the cost from a limited node's credit (R266). -/
def Shaper.spend (s : Shaper) (cost : Nat) : Shaper := if s.rate = 0 then s else { s with credit := s.credit - cost }

/-- The advance of a start tag. -/
def tagStep (cost weight : Nat) : Word := BitVec.ofNat 64 (cost * 2 ^ 32 / max 1 weight)

/-- The port's node and its child, charged for a frame. -/
def chargeInst (p i cost : Nat) (d : Dev) : Dev :=
  let d := d.modNode p i fun n => { n with s := n.s + tagStep cost (instWeight d p i) }
  let d := match leastTag (instTags d p) with | some e => d.modNetPort p fun x => { x with v := e.2 } | none => d
  d.modNode p i fun n => { n with shaper := n.shaper.spend cost }

/-- The instance's node and its queue, charged for a frame. -/
def chargeQueue (p i q cost : Nat) (d : Dev) : Dev :=
  let d := d.modQueue q fun x => { x with s := x.s + tagStep cost x.weight }
  let d := match leastTag (queueTags d p i) with | some e => d.modNode p i fun n => { n with v := e.2 } | none => d
  d.modQueue q fun x => { x with shaper := x.shaper.spend cost, shapedOut := x.shapedOut || (x.frames.length != 0 && !(x.shaper.spend cost).open_) }

/-- A frame leaves with its FCS, inverted when a byte of it is poison (R269); its work request's record follows it (R286). -/
def sendFrame (p q : Nat) (x : NetQueue) (f : EgressFrame) (d : Dev) : Dev :=
  let fcs := leBytes 4 (crc32 f.bytes).toNat
  let d := d.emit (.frame p (f.bytes ++ if f.poison then fcs.map (~~~ ·) else fcs) f.poison)
  let d := if f.poison then post 0x0B01 (netUnit p) 0 (syn [(32, 1, p), (34, 2, q), (36, 2, x.inst)]) d else d
  match f.request with
  | some (r, stamp, true) => d.modTp fun t => { t with records := t.records ++
      [if stamp then { r with timeNs := d.time.ns, timeFrac := (stampFrac d.time.frac).extractLsb' 16 16 } else r] }
  | _ => d

/-- One transmit opportunity (R264): nothing while the link is down or the partner's PAUSE is in force. -/
def transmit (p : Nat) (d : Dev) : Dev :=
  if (d.netPort p).up = false ∨ ((d.netPort p).pauseRx.any fun t => decide (d.uptime < t)) = true then d
  else match leastTag (instTags d p) with
    | none => d
    | some (i, _) => match leastTag (queueTags d p i) with
      | none => d
      | some (q, _) => match (d.netQueue q).frames with
        | [] => d
        | f :: rest =>
          let x := d.netQueue q
          let d := d.modQueue q fun x => { x with
            frames := rest, sentPeriod := satAdd (2 ^ 32 - 1) x.sentPeriod f.cost,
            maxDelay := min (2 ^ 32 - 1) (max x.maxDelay (d.uptime - f.since)) }
          sendFrame p q x f (chargeQueue p i q f.cost (chargeInst p i f.cost d))

/-- A frame enters an egress queue. -/
def enqueue (q : Nat) (f : EgressFrame) (d : Dev) : Dev :=
  let x := d.netQueue q
  if x.bound then
    wake x.port d (d.modQueue q fun x => { x with
      frames := x.frames ++ [{ f with since := d.uptime }], heldFrame := true, shapedOut := x.shapedOut || !x.shaper.open_ })
  else d

/-- A shaper's refill: a stored rate and burst take effect, and the credit is clamped to the new burst (R266). A node that was
unlimited starts its new shaper with a full burst (log entry 39). -/
def Shaper.refill (s : Shaper) : Shaper :=
  match s.due with
  | some (r, b) =>
    { rate := r, burst := b, due := none,
      credit := if r = 0 then 0 else if s.rate = 0 then b else min (b : Int) (s.credit + r) }
  | none => if s.rate = 0 then s else { s with credit := min (s.burst : Int) (s.credit + s.rate) }

/-- Apply stored caps and the stored enable, then recompute the weights under flow-fair (R267). -/
def flowFair (p : Nat) (d : Dev) : Dev :=
  let d := d.modNetPort p fun x => { x with flowFair := x.flowFairDue.getD x.flowFair, flowFairDue := none }
  let d := (d.netPort p).capsDue.foldl (fun d e => d.modNode p e.1 fun n => { n with cap := e.2 }) d
  let d := d.modNetPort p fun x => { x with capsDue := [] }
  if (d.netPort p).flowFair then
    (portInsts d p).foldl (fun d i => d.modNode p i fun n => { n with
      weff := tget 1 d.locks.weights i * min (max 1 ((portQueues d p).filter fun e => decide (e.2.inst = i) && e.2.frames.length != 0).length) (max 1 n.cap) }) d
  else d

/-- A refill of every shaper (R266). -/
def refillAll (d : Dev) : Dev :=
  let e := d.modNet fun n => { n with
    queues := n.queues.map (fun x => (x.1, { x.2 with shaper := x.2.shaper.refill })),
    ports := n.ports.map fun x => (x.1, { x.2 with nodes := x.2.nodes.map fun y => (y.1, { y.2 with shaper := y.2.shaper.refill }) }) }
  (List.range 8).foldl (fun e p => wake p d (flowFair p e)) e

/-! ### Samples (R268) -/

/-- The sample record of a queue at a period's end. -/
def sampleBytes (d : Dev) (p period q : Nat) (x : NetQueue) : Bytes :=
  let wait := match x.frames with | f :: _ => d.uptime - f.since | [] => 0
  leBytes 2 q ++ leBytes 2 x.inst ++ leBytes 4 x.frames.length ++ leBytes 4 (min (2 ^ 32 - 1) (x.frames.map EgressFrame.cost).sum) ++
    leBytes 4 (min (2 ^ 32 - 1) wait) ++ leBytes 4 (min (2 ^ 32 - 1) (max x.maxDelay wait)) ++ leBytes 4 x.sentPeriod ++
    leBytes 4 period ++ leBytes 1 (b2n (d.netPort p).flowFair + 2 * b2n x.shapedOut) ++ [0, 0, 0]

/-- A sample period begins for a queue. -/
def beginSample (x : NetQueue) : NetQueue :=
  { x with sentPeriod := 0, maxDelay := 0, heldFrame := x.frames.length != 0, shapedOut := x.frames.length != 0 && !x.shaper.open_ }

/-- Write the record of one busy queue and begin its next period. -/
def sampleQueue (p base n period : Nat) (acc : Nat × Dev) (e : Nat × NetQueue) : Nat × Dev :=
  let x := e.2
  let d := acc.2.modQueue e.1 beginSample
  if x.heldFrame then (acc.1 + 1, engineWrite (some (ethLock p)) 0 (base + 32 * (acc.1 % 2 ^ n)) (sampleBytes acc.2 p period e.1 x) false d)
  else (acc.1, d)

/-- The end of a sample period of port p. -/
def netSample (p : Nat) (d : Dev) : Dev :=
  let x := d.netPort p
  match x.sample with
  | none => d
  | some (base, n, period, written, number) =>
    if d.canal.lockage < x.sampleDue then d
    else if canWrite d (some (ethLock p)) base (32 * 2 ^ n) = false then noteWait (some (ethLock p)) base (32 * 2 ^ n) d
    else
      let r := (portQueues d p).foldl (sampleQueue p base n number) (written, d)
      r.2.modNetPort p fun x => { x with sample := some (base, n, period, r.1, (number + 1) % 2 ^ 32), sampleDue := d.canal.lockage + period }

/-! ### Rule-set checks (R254–R257) -/

/-- Why an extraction entry is refused, whether it is valid or not. -/
def badExtract (rs : RuleSet) (profile entry : Nat) (e : W32) : Bool :=
  decide (bits e.toNat 31 21 ≠ 0 ∨ entryKey e < 8 ∨ 64 < entryKey e + entryLength e) ||
    (List.range 16).any fun j => decide (j ≠ entry) &&
      (let o := tget 0 rs.extract (16 * profile + j)
       entryValid o && meets (entryKey e) (entryLength e) (entryKey o) (entryLength o))

/-- Whether the bytes of an action outside the fields that its kind uses are 0. -/
def actionUnused (a : Bytes) : Bool :=
  match fieldLe a 0 1 with
  | 1 => zeros a 1 3 && zeros a 6 26
  | 2 => zeros a 1 5 && zeros a 7 1 && zeros a 20 12
  | 4 => zeros a 4 28
  | _ => zeros a 1 31

/-- Why a rule is refused at an index. -/
def badRule (index : Nat) (r : Rule) : Bool :=
  let a := ruleAction r
  decide (r.length ≠ 160 ∨ 6 < ruleKind r ∨ (ruleKind r = 0 ∧ 4096 ≤ index)) || !actionUnused a ||
    (decide (ruleKind r = 1) && decide (16384 ≤ fieldLe a 4 2)) || (decide (ruleKind r = 2) && decide (64 ≤ fieldLe a 6 1)) ||
    (decide (ruleKind r = 4) && decide (fieldLe a 1 1 = 0 ∨ 3 < fieldLe a 1 1)) ||
    (List.zipWith (fun (v m : Byte) => v &&& ~~~m) (slice r 0 64) (slice r 64 64)).any fun b => b ≠ 0

/-- Change the shadow rule set of a half, unless a commit of that half is incomplete (R261). -/
def modShadow (h : Nat) (f : RuleSet → RuleSet) (d : Dev) : Reply × Dev :=
  if (d.netHalf h).commit.isSome then (fail .busy, d)
  else (ok [], d.modHalf h fun x => { x with shadow := f x.shadow })

/-- Version v + 1 (R261). -/
def nextVersion (v : BitVec 16) : BitVec 16 := if v = 0xFFFF#16 then 1 else v + 1

/-- An instance stops (R269, R289): of the frames that wait in its queues, all are discarded where `all`, otherwise those that raw-frame
requests have placed there; such a request completes with FUNCTION_STOPPED. -/
def netStop (inst : Nat) (all : Bool) (d : Dev) : Dev :=
  let mine := d.net.queues.filter fun e => e.2.bound && decide (e.2.inst = inst)
  let stopped := mine.flatMap fun e => e.2.frames.filterMap fun f => f.request.map fun r => { r.1 with status := 7, bytes := 0 }
  let d := d.modTp fun t => { t with records := t.records ++ stopped }
  mine.foldl (fun d e => d.modQueue e.1 fun x => { x with frames := if all then [] else x.frames.filter fun f => f.request.isNone }) d

/-- Unbind an instance's network queues (R269). What the instance's stop has placed in them, the CLOSE of each connection (R289), leaves
before. -/
def netUnbind (inst : Nat) (d : Dev) : Dev :=
  let mine := d.net.queues.filter fun e => e.2.bound && decide (e.2.inst = inst)
  let d := mine.foldl (fun d e => if (d.netPort e.2.port).up then e.2.frames.foldl (fun d f => sendFrame e.2.port e.1 e.2 f d) d else d) d
  d.modNet fun n => { n with queues := n.queues.filter fun e => decide (e.2.inst ≠ inst) || !e.2.bound }

/-! ### The meanings -/

/-- FRAME_RECEIVE (R253). -/
def execFrameReceive (port : Fin 8) (frame : Bytes) (s : State) : Host.Outcome State Fault Refusal :=
  onDev (frameReceive port.val frame) s

/-- RX_RECORD_WRITE (R263). -/
def execRxRecordWrite (queue : Fin 16384) (s : State) : Host.Outcome State Fault Refusal := onDev (rxRecord queue.val) s

/-- PAUSE_RECEIVE (R251, R92): the partner's PAUSE holds the port for pause_time quanta of 512 bit times at 800 Gb/s, 0.64 ns
each (IEEE 802.3, log entry 40). -/
def execPauseReceive (port : Fin 8) (time : BitVec 16) (s : State) : Host.Outcome State Fault Refusal :=
  onDev (fun d => d.modNetPort port.val fun x => { x with
    pauseRx := if time = 0 then none else some (d.uptime + (64 * time.toNat + 99) / 100) }) s

/-- TRANSMIT_OPPORTUNITY (R264). -/
def execTransmitOpportunity (port : Fin 8) (s : State) : Host.Outcome State Fault Refusal := onDev (transmit port.val) s

/-- SHAPER_REFILL (R266): every 256 slots. -/
def execShaperRefill (s : State) : Host.Outcome State Fault Refusal :=
  onDev (fun d =>
    if d.canal.aligned = false ∨ d.canal.dwell ∨ d.net.refillSlot = d.now / 256 + 1 then d
    else refillAll (d.modNet fun n => { n with refillSlot := d.now / 256 + 1 })) s

/-- NET_SAMPLE (R268). -/
def execNetSample (port : Fin 8) (s : State) : Host.Outcome State Fault Refusal := onDev (netSample port.val) s

/-- COMMIT_COMPLETE (R261): no frame of the old version remains; the shadow becomes a copy of the active set. -/
def execCommitComplete (half : Bool) (s : State) : Host.Outcome State Fault Refusal :=
  onDev (fun d =>
    match (d.netHalf (b2n half)).commit with
    | none => d
    | some (src, seq) =>
      finishLater src 0x0B04 seq (ok [(d.netHalf (b2n half)).version.toNat])
        (d.modHalf (b2n half) fun x => { x with shadow := x.active, commit := none })) s

/-- An Ethernet port's link goes down. -/
def netLinkDown (p : Nat) (d : Dev) : Dev :=
  if (d.netPort p).up then
    post 0x0B00 (netUnit p) 0 (syn [(32, 1, p)]) (d.modNetPort p fun x => { x with up := false, fecLock := false, pauseRx := none })
  else d

/-- NET_LINK_DOWN (R270). -/
def execNetLinkDown (port : Fin 8) (s : State) : Host.Outcome State Fault Refusal := onDev (netLinkDown port.val) s

/-- NET_LINK_UP (R251): the port's link comes up with its FEC aligned. -/
def execNetLinkUp (port : Fin 8) (s : State) : Host.Outcome State Fault Refusal :=
  onDev (fun d => d.modNetPort port.val fun x => { x with up := true, fecLock := true }) s

/-- CMD_NET_PORT_STATUS (R271). -/
def execCmdNetPortStatus (c : Cmd) (port : Nat) (s : State) : Host.Outcome State Fault Refusal :=
  onDev (query c { i3c := true } fun d =>
    let x := d.netPort port
    if 8 ≤ port then fail .invalid
    else ok [b2n x.up, b2n x.fecLock, b2n (d.lock (ethLock port)).paused,
      b2n (x.pauseRx.any fun t => decide (d.uptime < t)), x.rxDrops, x.fcsErrors, x.recircLimit, x.ruleDrops]) s

/-- CMD_NET_EXTRACT_SET (R254). -/
def execCmdNetExtractSet (c : Cmd) (half profile entry : Nat) (value : W32) (s : State) : Host.Outcome State Fault Refusal :=
  onDev (mailbox c {} fun d =>
    if 2 ≤ half ∨ 4 ≤ profile ∨ 16 ≤ entry ∨ badExtract (d.netHalf half).shadow profile entry value then (fail .invalid, d)
    else modShadow half (fun r => { r with extract := tset 0 r.extract (16 * profile + entry) value }) d) s

/-- CMD_NET_RULE_SET (R255–R257). -/
def execCmdNetRuleSet (c : Cmd) (half index : Nat) (rule : Bytes) (s : State) : Host.Outcome State Fault Refusal :=
  onDev (mailbox c {} fun d =>
    if 2 ≤ half ∨ 4100 ≤ index ∨ badRule index rule then (fail .invalid, d)
    else modShadow half (fun r => { r with rules := if ruleKind rule = 0 then tdel r.rules index else tput r.rules index rule }) d) s

/-- CMD_NET_INDIR_SET (R258). -/
def execCmdNetIndirSet (c : Cmd) (half table first : Nat) (queues : List (BitVec 16)) (s : State) : Host.Outcome State Fault Refusal :=
  onDev (mailbox c {} fun d =>
    if 2 ≤ half ∨ 64 ≤ table ∨ queues = [] ∨ 256 < first + queues.length ∨ queues.any (fun q => decide (16384 ≤ q.toNat)) then (fail .invalid, d)
    else modShadow half (fun r => { r with indir := tputs 0 r.indir (256 * table + first) queues }) d) s

/-- CMD_NET_COMMIT (R261). -/
def execCmdNetCommit (c : Cmd) (half : Nat) (s : State) : Host.Outcome State Fault Refusal :=
  onDev (mailboxLater c { block := some 10 } fun d =>
    if 2 ≤ half then (some (fail .invalid), d)
    else if (d.netHalf half).commit.isSome then (some (fail .busy), d)
    else (none, d.modHalf half fun x => { x with
      active := x.shadow, version := nextVersion x.version, commit := some (c.src.val, c.seq) })) s

/-- The instance to which queue q belongs: it is among the queues that the instance took (R262). -/
def queueOwner (d : Dev) (q : Nat) : Option Nat := (d.host.inst.find? fun e => e.2.egress.contains q).map (·.1)

/-- Bind a queue (R262). -/
def bindQueue (q inst : Nat) (x : NetQueue) (d : Dev) : Dev :=
  d.modQueue q fun o => { x with bound := true, inst := inst, shaper := o.shaper }

/-- The checks of CMD_NET_QUEUE_SET on the settings of a binding. -/
def badQueue (x : NetQueue) : Bool :=
  decide (8 ≤ x.port ∨ x.n < 6 ∨ 16 < x.n ∨ (x.bufSize ≠ 2048 ∧ x.bufSize ≠ 4096 ∧ x.bufSize ≠ 9216) ∨ x.weight = 0 ∨
    65535 < x.weight ∨ 65535 < x.vector)

/-- The rings, buffers and head word lie within what the instance may address. -/
def queueMapped (d : Dev) (inst : Nat) (x : NetQueue) : Bool :=
  mayAddress d inst x.bufBase (x.bufSize * 2 ^ x.n) && mayAddress d inst x.recordBase (32 * 2 ^ x.n) && mayAddress d inst x.headWord 8

/-- CMD_NET_QUEUE_SET (R262, R269, R271): bind a queue, or unbind it. -/
def execCmdNetQueueSet (c : Cmd) (queue : Nat) (set : QueueSet) (s : State) : Host.Outcome State Fault Refusal :=
  onDev (mailbox c { vf := true, block := some 10 } fun d =>
    if 16384 ≤ queue then (fail .invalid, d)
    else match queueOwner d queue with
    | none => (fail .notPermitted, d)
    | some i =>
      if mayName c.src.val i d = false then (fail .notPermitted, d)
      else if (d.netQueue queue).frames.length ≠ 0 then (fail .busy, d)
      else match set with
      | .unbind => (ok [], d.modQueue queue fun _ => {})
      | .bind port n bufSize bufBase recordBase headWord vector weight =>
        let x : NetQueue := { port := port, n := n, bufSize := bufSize, bufBase := bufBase, recordBase := recordBase,
                              headWord := headWord, vector := vector, weight := weight }
        if badQueue x then (fail .invalid, d)
        else if queueMapped d i x = false then (fail .addressUnmapped, d)
        else if 2048 ≤ ((portQueues d port).filter fun e => e.1 ≠ queue).length then (fail .capacity, d)
        else (ok [], bindQueue queue i x d)) s

/-- Store a rate and a burst for a queue's or an instance's next refill. -/
def storeShaper (node : NetNode) (rate burst : Nat) (d : Dev) : Dev :=
  match node with
  | .queue q => d.modQueue q fun x => { x with shaper := { x.shaper with due := some (rate, burst) } }
  | .inst i p => d.modNode p i fun n => { n with shaper := { n.shaper with due := some (rate, burst) } }

/-- CMD_NET_SHAPER_SET (R266). -/
def execCmdNetShaperSet (c : Cmd) (node : NetNode) (rate burst : Nat) (s : State) : Host.Outcome State Fault Refusal :=
  onDev (mailbox c { block := some 10 } fun d =>
    if 16777215 < rate ∨ burst < 9236 ∨ 16777215 < burst then (fail .invalid, d)
    else match node with
    | .queue q =>
      if 16384 ≤ q then (fail .invalid, d)
      else if ((queueOwner d q).any fun i => mayName c.src.val i d) = false then (fail .notPermitted, d)
      else (ok [], storeShaper node rate burst d)
    | .inst i p =>
      if 1024 ≤ i ∨ 8 ≤ p then (fail .invalid, d)
      else if mayName c.src.val i d = false then (fail .notPermitted, d)
      else (ok [], storeShaper node rate burst d)) s

/-- CMD_NET_FLOWFAIR_SET (R267); `cap` with its instance, or none. -/
def execCmdNetFlowfairSet (c : Cmd) (port : Nat) (enable : Bool) (cap : Option (Nat × Nat)) (s : State) :
    Host.Outcome State Fault Refusal :=
  onDev (mailbox c { block := some 10 } fun d =>
    if 8 ≤ port ∨ (cap.any fun e => decide (1024 ≤ e.1 ∨ e.2 = 0 ∨ 2048 < e.2)) = true then (fail .invalid, d)
    else if (cap.any fun e => !mayName c.src.val e.1 d) = true then (fail .notPermitted, d)
    else (ok [], d.modNetPort port fun x => { x with flowFairDue := some enable, capsDue := x.capsDue ++ cap.toList })) s

/-- Where a PF's sample ring may lie: its grants or the TRACE region (R268). -/
def sampleMapped (d : Dev) (a n : Nat) : Bool := spanMapped d a n && !reservedSpan d [2] a n

/-- CMD_NET_SAMPLE_SET (R268); none: off. -/
def execCmdNetSampleSet (c : Cmd) (port : Nat) (ring : Option (Nat × Nat × Nat)) (s : State) : Host.Outcome State Fault Refusal :=
  onDev (mailbox c {} fun d =>
    if 8 ≤ port then (fail .invalid, d)
    else match ring with
    | none => (ok [], d.modNetPort port fun x => { x with sample := none })
    | some (base, n, period) =>
      if n < 8 ∨ 20 < n ∨ period = 0 ∨ 65535 < period then (fail .invalid, d)
      else if sampleMapped d base (32 * 2 ^ n) = false then (fail .addressUnmapped, d)
      else (ok [], (d.modNet fun k => { k with queues := k.queues.map fun e =>
          (e.1, if e.2.bound ∧ e.2.port = port then beginSample e.2 else e.2) }).modNetPort port fun x =>
        { x with sample := some (base, n, period, 0, 0), sampleDue := d.canal.lockage + period })) s

/-- CMD_NET_QUEUE_STATUS (R271). -/
def execCmdNetQueueStatus (c : Cmd) (queue : Nat) (s : State) : Host.Outcome State Fault Refusal :=
  onDev (query c { vf := true, i3c := true } fun d =>
    let x := d.netQueue queue
    if 16384 ≤ queue then fail .invalid
    else if ((queueOwner d queue).any fun i => mayName c.src.val i d) = false then fail .notPermitted
    else ok [b2n x.bound, x.port, x.inst, x.seq, x.head, x.frames.length, (x.frames.map EgressFrame.cost).sum,
      (BitVec.ofInt 64 x.shaper.credit).toNat, x.s.toNat, x.sentPeriod]) s

end Sys2Proof.Machine
end

