-- ==== Sys2Proof/Machine/Transport.lean ====
section
/-! DEFINITION. The remote memory transport (chapter 12): packets on the wire, selective repeat, moorings and paging, work
requests, tows, completions. -/

namespace Sys2Proof.Machine

/-- Connection c. -/
def Dev.conn (d : Dev) (c : Nat) : Conn := tget {} d.tp.conns c

/-- Change connection c. -/
def Dev.modConn (d : Dev) (c : Nat) (f : Conn → Conn) : Dev := d.modTp fun t => { t with conns := tmod {} t.conns c f }

/-- Mooring m. -/
def Dev.mooring (d : Dev) (m : Nat) : Mooring := tget {} d.tp.moorings m

/-- Change mooring m. -/
def Dev.modMooring (d : Dev) (m : Nat) (f : Mooring → Mooring) : Dev := d.modTp fun t => { t with moorings := tmod {} t.moorings m f }

/-- Send queue q. -/
def Dev.sendQ (d : Dev) (q : Nat) : SendQ := tget {} d.tp.queues q

/-- Change send queue q. -/
def Dev.modSendQ (d : Dev) (q : Nat) (f : SendQ → SendQ) : Dev := d.modTp fun t => { t with queues := tmod {} t.queues q f }

/-- The device's half that serves a connection: its port's. -/
def Conn.half (x : Conn) : Nat := x.port / 4

/-- The transport's unit field, and the SERVICE lock of a half through which it works (R81). -/
def tpUnit (half : Nat) : W32 := unitBlock (4 + half) 11 127
def tpLock (half : Nat) : Nat := 56 + 64 * half

/-- Cluster time in ns, which the timers of a connection count (R283). -/
def Dev.clusterNs (d : Dev) : Nat := d.time.ns.toNat

/-- psn a − b in the sense of R283: small when a is at or after b. -/
def psnGap (a b : W32) : Nat := (a - b).toNat

/-! ### Packets on the wire (R273–R277) -/

/-- Sum of the 16-bit words of a byte string. -/
def onesSum : Bytes → Nat
  | [] => 0
  | [a] => 256 * a.toNat
  | a :: b :: t => 256 * a.toNat + b.toNat + onesSum t

/-- Fold a sum to 16 bits in ones' complement. -/
def onesFold (n : Nat) : Nat :=
  let a := n % 65536 + n / 65536
  let b := a % 65536 + a / 65536
  b % 65536 + b / 65536

/-- The UDP checksum over IPv6's pseudo-header; 0xFFFF stands for 0. -/
def udpSum (src dst udp : Bytes) : Nat :=
  onesFold (onesSum (src ++ dst ++ beBytes 4 udp.length ++ beBytes 4 17 ++ udp))

/-- The Ethernet frame, without FCS, that carries a UDP payload of connection c. -/
def wireFrame (c : Nat) (x : Conn) (payload : Bytes) : Bytes :=
  let src := beBytes 16 x.localIp.toNat
  let dst := beBytes 16 x.peerIp.toNat
  let head (sum : Nat) : Bytes := beBytes 2 (0xC000 + c % 0x4000) ++ beBytes 2 24940 ++ beBytes 2 (8 + payload.length) ++ beBytes 2 sum
  let sum := 0xFFFF - udpSum src dst (head 0 ++ payload)
  beBytes 6 x.nextHop.toNat ++ beBytes 6 (Config.portMac x.port).toNat ++
    (match x.vlan with | some v => [0x81, 0x00] ++ beBytes 2 v.toNat | none => []) ++ [0x86, 0xDD] ++
    beBytes 4 (6 * 2 ^ 28 + x.tclass.toNat * 2 ^ 20 + x.flow.toNat) ++ beBytes 2 (8 + payload.length) ++ [17, 64] ++ src ++ dst ++
    head (if sum = 0 then 0xFFFF else sum) ++ payload

/-- The IV of a sealed packet (R277). -/
def packetIv (dstConn epoch : BitVec 16) (counter : Word) : Bytes :=
  beBytes 2 dstConn.toNat ++ beBytes 2 epoch.toNat ++ beBytes 8 counter.toNat

/-- The base header (R274). -/
def baseHeader (c : Nat) (x : Conn) (opcode flags : Nat) (psn : W32) : Bytes :=
  [0x10] ++ beBytes 1 opcode ++ beBytes 1 (flags + 4 * b2n x.lane.isSome) ++ [0] ++ beBytes 2 x.peer.toNat ++
    beBytes 2 x.epoch.toNat ++ beBytes 4 psn.toNat ++ beBytes 2 c ++ [0, 0]

/-- Transmit a packet of connection c: sealed when the connection has a lane, its seal counter advancing (R277). -/
def tpSend (v : Vault) (c opcode flags : Nat) (psn : W32) (ext payload : Bytes) (d : Dev) : Dev :=
  let x := d.conn c
  let base := baseHeader c x opcode flags psn
  match x.lane with
  | none => enqueue x.egress { bytes := wireFrame c x (base ++ ext ++ payload) } d
  | some l =>
    let counter := beBytes 8 x.sealCounter.toNat
    let r := gcmSeal (laneKey v d l) (packetIv x.peer x.epoch x.sealCounter) (base ++ counter) (ext ++ payload)
    enqueue x.egress { bytes := wireFrame c x (base ++ counter ++ r.1 ++ r.2) }
      (laneJob l (ext ++ payload).length (d.modConn c fun x => { x with sealCounter := x.sealCounter + 1 }))

/-- The bytes of the extension of each opcode (R275). -/
def extLength : Nat → Nat
  | 1 => 20
  | 2 => 20
  | 3 => 12
  | 4 => 16
  | 5 => 8
  | _ => 4

/-- A received packet. -/
structure Packet where
  opcode : Nat
  flags : Nat
  conn : Nat
  epoch : Nat
  psn : W32
  src : Nat
  ext : Bytes
  payload : Bytes
  deriving DecidableEq, Repr

/-- The UDP payload of a received frame, and whether its checksum is good (R273). -/
def udpPayload (f : Bytes) : Bytes × Bool :=
  let o := (skipTags 2 12 f).1 + 2
  let udp := slice f (o + 40) (beNat (slice f (o + 44) 2))
  (udp.drop 8, decide (beNat (slice f (o + 46) 2) ≠ 0 ∧ o + 40 + beNat (slice f (o + 44) 2) ≤ f.length ∧
    udpSum (slice f (o + 8) 16) (slice f (o + 24) 16) udp = 0xFFFF))

/-- The checks of R276 on the base header. -/
def baseOk (p : Bytes) : Bool :=
  decide (16 ≤ p.length) && decide (p.getD 0 0 = 0x10) && decide (1 ≤ fieldLe p 1 1 ∧ fieldLe p 1 1 ≤ 6) &&
    decide (fieldLe p 2 1 < 64) && zeros p 3 1 && zeros p 14 2

/-- The checks of R275 and R276 on the extension and the payload. -/
def bodyOk (opcode : Nat) (body : Bytes) : Bool :=
  let e := body.take (extLength opcode)
  decide (extLength opcode ≤ body.length) &&
    (match opcode with
    | 1 => zeros e 16 4 && decide (20 < body.length ∧ body.length ≤ 20 + 8192)
    | 2 => decide (body.length = 20) && decide (1 ≤ beNat (slice e 12 4) ∧ beNat (slice e 12 4) ≤ 2 ^ 30)
    | 3 => decide (12 < body.length ∧ body.length ≤ 12 + 8192)
    | 4 => decide (body.length = 16) && zeros e 13 3 && decide (fieldLe e 12 1 ≤ 1)
    | 5 => decide (body.length = 8) && decide (fieldLe e 4 1 = 1 ∨ fieldLe e 4 1 = 2) && zeros e 5 1
    | _ => decide (body.length = 4) && zeros e 0 4)

/-- Count a packet dropped by R276 or R277 at the connection it names. -/
def countBad (c : Nat) (d : Dev) : Dev := d.modConn c fun x => { x with badHeader := satAdd 65535 x.badHeader 1 }
def countStale (c : Nat) (d : Dev) : Dev := d.modConn c fun x => { x with stale := satAdd 65535 x.stale 1 }
def countSeal (c : Nat) (d : Dev) : Dev := d.modConn c fun x => { x with sealFail := satAdd 65535 x.sealFail 1 }
def countWindow (c : Nat) (d : Dev) : Dev := d.modConn c fun x => { x with windowDrops := satAdd 65535 x.windowDrops 1 }

/-- The extension and payload of a packet: as they stand, or opened on the connection's lane. -/
def packetBody (v : Vault) (d : Dev) (x : Conn) (conn : Nat) (p : Bytes) : Option Bytes :=
  match x.lane with
  | none => some (p.drop 16)
  | some l =>
    gcmOpen (laneKey v d l) (packetIv (BitVec.ofNat 16 conn) x.epoch (BitVec.ofNat 64 (beNat (slice p 16 8)))) (p.take 24)
      ((p.drop 24).take (p.length - 40)) (p.drop (p.length - 16))

/-- What becomes of a received frame: a good packet, or the device after it has been dropped and counted. -/
def openPacket (v : Vault) (f : Bytes) (d : Dev) : Packet ⊕ Dev :=
  let u := udpPayload f
  let p := u.1
  let c := beNat (slice p 4 2)
  let x := d.conn c
  let isSealed := bit (fieldLe p 2 1) 2
  if u.2 = false ∨ baseOk p = false then .inr (countBad c d)
  else if x.state ≠ 1 ∨ beNat (slice p 6 2) ≠ x.epoch.toNat ∨ beNat (slice p 12 2) ≠ x.peer.toNat then .inr (countStale c d)
  else if isSealed ≠ x.lane.isSome ∨ (isSealed ∧ p.length < 40) then .inr (countBad c d)
  else match packetBody v d x c p with
    | none => .inr (countSeal c d)
    | some b =>
      if bodyOk (fieldLe p 1 1) b = false then .inr (countBad c d)
      else .inl { opcode := fieldLe p 1 1, flags := fieldLe p 2 1, conn := c, epoch := beNat (slice p 6 2),
                  psn := BitVec.ofNat 32 (beNat (slice p 8 4)), src := beNat (slice p 12 2),
                  ext := b.take (extLength (fieldLe p 1 1)), payload := b.drop (extLength (fieldLe p 1 1)) }

/-! ### The receiver (R281–R285) -/

/-- The flags of a packet. -/
def flagFirst : Nat := 1
def flagLast : Nat := 2
def flagSignal : Nat := 8
def flagAckReq : Nat := 16
def flagPoison : Nat := 32

/-- The sack word: bit i says that psn expected + 1 + i has been received. -/
def sackWord (x : Conn) : Nat :=
  maskOf ((List.range 64).filter fun i => x.received.contains (x.expected + 1 + BitVec.ofNat 32 i))

/-- Send an ACK (R275, R284): it settles the delayed one. -/
def sendAck (v : Vault) (c : Nat) (d : Dev) : Dev :=
  let x := d.conn c
  tpSend v c 4 0 0 (beBytes 4 x.expected.toNat ++ beBytes 8 (sackWord x) ++ [BitVec.ofNat 8 (b2n x.holding), 0, 0, 0]) []
    (d.modConn c fun x => { x with unacked := 0, ackDue := none })

/-- Send a NAK for a psn. -/
def sendNak (v : Vault) (c : Nat) (psn : W32) (code delay : Nat) (d : Dev) : Dev :=
  tpSend v c 5 0 0 (beBytes 4 psn.toNat ++ beBytes 1 code ++ [0] ++ beBytes 2 delay) [] d

/-- `expected` passes over the psns received. -/
def advancePsn : Nat → W32 → List W32 → W32 × List W32
  | 0, e, r => (e, r)
  | n + 1, e, r => if r.contains e then advancePsn n (e + 1) (r.filter fun p => p ≠ e) else (e, r)

/-- Start the tows whose thresholds their counters have met, in the order in which they were posted (R288). -/
def startTows (d : Dev) : Dev :=
  let met (t : Tow) : Bool := match tfind d.tp.counters t.counter with | some c => decide (t.threshold ≤ c.2) | none => false
  d.modTp fun t => { t with
    started := t.started ++ (t.tows.filter met).flatMap (fun w => w.reqs.map fun r => (w.queue, r)),
    tows := t.tows.filter fun w => !met w }

/-- Add to a trigger counter, if it is allocated (R279, R289). -/
def addCounter (n v : Nat) (d : Dev) : Dev :=
  match tfind d.tp.counters n with
  | some c => startTows (d.modTp fun t => { t with counters := tput t.counters n (c.1, (c.2 + v) % 2 ^ 64) })
  | none => d

/-- Packets that a span takes at a connection's MTU. -/
def packetCount (length mtu : Nat) : Nat := (length + mtu - 1) / max 1 mtu

/-- What a packet does once `expected` has passed it: a read request runs, or a signal adds to its counter. -/
inductive PsnEffect where
  | read (opTag : W32) (addr length : Nat)
  | signal (counter : Nat)
  deriving DecidableEq, Repr

/-- A packet's effect takes place. -/
def psnEffect (c mtu : Nat) (e : PsnEffect) (d : Dev) : Dev :=
  match e with
  | .read tag a n => d.modTp fun t => { t with ops := t.ops ++
      [{ kind := 3, conn := c, local_ := a, length := n, opTag := tag.toNat, packets := packetCount n mtu }] }
  | .signal k => addCounter k 1 d

/-- Signals and read requests that `expected` has passed take effect, in psn order (R281, R284). -/
def settlePsn (c : Nat) (d : Dev) : Dev :=
  let x := d.conn c
  let passed (p : W32) : Bool := decide (2 ^ 31 ≤ psnGap p x.expected)
  let all := (x.readReqs.map fun r => (r.1, PsnEffect.read r.2.1 r.2.2.1 r.2.2.2.1)) ++ x.signals.map fun s => (s.1, PsnEffect.signal s.2)
  let due := (all.filter fun e => passed e.1).mergeSort fun a b => decide (psnGap a.1 x.expected ≤ psnGap b.1 x.expected)
  let d := due.foldl (fun d e => psnEffect c x.mtu e.2 d) d
  d.modConn c fun x => { x with readReqs := x.readReqs.filter fun r => !passed r.1, signals := x.signals.filter fun s => !passed s.1 }

/-- A psn has been taken: it is recorded, `expected` advances, and an ACK goes out at once, after 16 packets or after 4 µs. -/
def takePsn (v : Vault) (c : Nat) (psn : W32) (ackReq : Bool) (d : Dev) : Dev :=
  let now := decide ((d.conn c).expected ≠ psn) || ackReq || decide (15 ≤ (d.conn c).unacked)
  let r := advancePsn 4096 (d.conn c).expected ((d.conn c).received ++ [psn])
  let d := settlePsn c (d.modConn c fun x => { x with expected := r.1, received := r.2 })
  if now then sendAck v c d
  else d.modConn c fun x => { x with unacked := x.unacked + 1, ackDue := some (x.ackDue.getD (d.clusterNs + 4000)) }

/-- What is to be done with a sequenced packet's psn (R284). -/
inductive PsnFate where
  | again   -- received before: discarded, an ACK is sent
  | past    -- beyond the window: dropped and counted
  | new
  deriving DecidableEq, Repr

/-- The receiver's test of a psn. -/
def psnFate (x : Conn) (p : W32) : PsnFate :=
  if 2 ^ 31 ≤ psnGap p x.expected ∨ x.received.contains p then .again
  else if 4096 ≤ psnGap p x.expected then .past else .new

/-- The mooring that a key names for a connection's instance, if the access passes (R281). -/
def moored (d : Dev) (inst : Nat) (key : W32) (offset length : Nat) (isWrite : Bool) : Option (Nat × Mooring) :=
  let m := key.toNat / 4096
  let x := d.mooring m
  if x.registered ∧ x.tag.toNat = key.toNat % 4096 ∧ x.inst = inst ∧ offset + length ≤ x.size ∧ (if isWrite then x.write else x.read) = true
  then some (m, x) else none

/-- The absent pages of a span of a mooring (R285). -/
def absentPages (m : Mooring) (offset length : Nat) : List Nat :=
  if m.paged then ((List.range ((offset + length - 1) / 65536 + 1 - offset / 65536)).map (offset / 65536 + ·)).filter
    fun p => !m.present.contains p
  else []

/-- TRANSPORT_PAGE_FAULT goes to the ring of the home PF alone (R285, R360), and to the ledger and the trace. -/
def postPageFault (half : Nat) (inst : Nat) (key : W32) (page : Nat) (d : Dev) : Dev :=
  let r := mkRecord 0x0C02 (tpUnit half) 0 (syn [(32, 4, key.toNat), (36, 2, inst), (40, 8, 65536 * page)]) d
  let d := d.seen 11 0 4
  let d := d.modLedger fun l => l.append r
  traceRecord 2 r.bytes (eventEntry (homeOf d inst) r.bytes d.signalEvent)

/-- Packets that the fault buffer of a half holds. -/
def faultBuffer (d : Dev) (half : Nat) : Nat := (d.tp.stalled.filter fun s => b2n s.half = half).length

/-- A packet that touches absent pages: held under mode 0, or answered with NAK code 2 (R285). -/
def pageFault (v : Vault) (m : Mooring) (s : Stalled) (ackReq : Bool) (d : Dev) : Dev :=
  let half := b2n s.half
  let d := s.pages.foldl (fun d p => postPageFault half m.inst s.key p d) d
  if m.mode = 0 ∧ faultBuffer d half < 1024 then
    takePsn v s.conn s.psn ackReq
      ((d.modTp fun t => { t with stalled := t.stalled ++ [{ s with since := d.clusterNs }] }).modConn s.conn fun x => { x with holding := true })
  else sendNak v s.conn s.psn 2 50 d

/-- The trigger counter of a WRITE's signal waits for the cumulative ack (R281). -/
def noteSignal (c : Nat) (psn : W32) (signal : Bool) (m : Mooring) (d : Dev) : Dev :=
  match m.counter, signal with
  | some k, true => d.modConn c fun x => { x with signals := x.signals ++ [(psn, k)] }
  | _, _ => d

/-- The SERVICE lock withholds ready for n more bytes (R82, R94). -/
def withholds (d : Dev) (half n : Nat) : Bool := (d.lock (tpLock half)).closed || !(d.lock (tpLock half)).room n

/-- An inbound WRITE (R281). -/
def recvWrite (v : Vault) (half : Nat) (p : Packet) (d : Dev) : Dev :=
  let x := d.conn p.conn
  let key := BitVec.ofNat 32 (beNat (slice p.ext 0 4))
  let offset := beNat (slice p.ext 4 8)
  let n := p.payload.length
  let ackReq := bit p.flags 4
  let signal := bit p.flags 3 && bit p.flags 1
  match psnFate x p.psn with
  | .again => sendAck v p.conn d
  | .past => countWindow p.conn d
  | .new =>
    if withholds d half n then countWindow p.conn d
    else match moored d x.inst key offset n true with
    | none => takePsn v p.conn p.psn ackReq (sendNak v p.conn p.psn 1 0 d)
    | some (_, m) =>
      let pages := absentPages m offset n
      if pages ≠ [] then
        pageFault v m { conn := p.conn, psn := p.psn, key := key, offset := offset, bytes := p.payload, poison := bit p.flags 5,
                        signal := signal, half := decide (half = 1), pages := pages } ackReq d
      else if canWrite d (some (tpLock half)) (m.base + offset) n = false then
        countWindow p.conn (noteWait (some (tpLock half)) (m.base + offset) n d)
      else takePsn v p.conn p.psn ackReq
        (noteSignal p.conn p.psn signal m (engineWrite (some (tpLock half)) 0 (m.base + offset) p.payload (bit p.flags 5) d))

/-- An inbound READ_REQ (R281, R284): it runs once `expected` has passed it. -/
def recvReadReq (v : Vault) (half : Nat) (p : Packet) (d : Dev) : Dev :=
  let x := d.conn p.conn
  let key := BitVec.ofNat 32 (beNat (slice p.ext 0 4))
  let offset := beNat (slice p.ext 4 8)
  let n := beNat (slice p.ext 12 4)
  let tag := BitVec.ofNat 32 (beNat (slice p.ext 16 4))
  let ackReq := bit p.flags 4
  match psnFate x p.psn with
  | .again => sendAck v p.conn d
  | .past => countWindow p.conn d
  | .new => match moored d x.inst key offset n false with
    | none => takePsn v p.conn p.psn ackReq (sendNak v p.conn p.psn 1 0 d)
    | some (_, m) =>
      let pages := absentPages m offset n
      if pages ≠ [] then
        pageFault v m { conn := p.conn, psn := p.psn, key := key, offset := offset, isRead := true, length := n, opTag := tag,
                        half := decide (half = 1), pages := pages } ackReq d
      else takePsn v p.conn p.psn ackReq
        (d.modConn p.conn fun x => { x with readReqs := x.readReqs ++ [(p.psn, tag, m.base + offset, n, key)] })

/-! ### Operations and their completions (R279, R284, R287) -/

/-- Change the operations that a test picks. -/
def modOps (pick : TxOp → Bool) (f : TxOp → TxOp) (d : Dev) : Dev :=
  d.modTp fun t => { t with ops := t.ops.map fun o => if pick o then f o else o }

/-- Operations in flight (TRANSPORT_INFLIGHT): from the start of their first packet until their completion (R279). -/
def opsInFlight (d : Dev) : Nat := (d.tp.ops.filter fun o => o.kind ≠ 3 && decide (0 < o.sent) && !o.recorded).length

/-- The record of an operation with a status: written on success only when the request asks for it. -/
def recordOf (o : TxOp) (status : Nat) : List TxRecord :=
  if o.kind = 3 ∨ o.recorded ∨ (status = 0 ∧ o.complete = false) then []
  else [{ queue := o.queue, cookie := o.cookie, bytes := if o.kind = 2 then o.placed else if status = 0 ∨ status = 3 then o.length else 0,
          status := status, kind := o.kind }]

/-- Complete the operations that a test picks, each with its status; they stay until their psns are acknowledged. -/
def completeOps (pick : TxOp → Option Nat) (d : Dev) : Dev :=
  let rs := d.tp.ops.flatMap fun o => match pick o with | some st => recordOf o st | none => []
  (modOps (fun o => (pick o).isSome) (fun o => { o with recorded := true, packets := if o.sent = 0 then 0 else o.sent }) d).modTp
    fun t => { t with records := t.records ++ rs }

/-- Every psn of an operation has been acknowledged. -/
def allAcked (x : Conn) (o : TxOp) : Bool :=
  decide (o.sent = o.packets) && decide (o.sent = 0 ∨ psnGap x.una o.firstPsn < 2 ^ 31 ∧ o.packets ≤ psnGap x.una o.firstPsn)

/-- Every byte of a READ has been placed, and `expected` has passed the last packet that brought some: completions follow psn order
(R284). -/
def readPlaced (x : Conn) (o : TxOp) : Bool := decide (o.placed = o.length) && decide (2 ^ 31 ≤ psnGap o.lastPsn x.expected)

/-- A WRITE completes when it is acknowledged, a READ when its last byte has been placed; then they leave. -/
def settleOps (c : Nat) (d : Dev) : Dev :=
  let d := completeOps (fun o =>
    if o.conn = c ∧ o.recorded = false then
      if o.kind = 1 ∧ allAcked (d.conn c) o then some (if o.poison then 3 else 0)
      else if o.kind = 2 ∧ readPlaced (d.conn c) o then some (if o.poison then 3 else 0) else none
    else none) d
  d.modTp fun t => { t with ops := t.ops.filter fun o =>
    !(decide (o.conn = c) && allAcked (d.conn c) o && (o.recorded || decide (o.kind = 3))) }

/-- TRANSPORT_POISON for an operation (R289, R290), once. -/
def poisonOp (o : TxOp) (d : Dev) : Dev :=
  if o.poison ∨ o.kind = 3 then d
  else
    let x := d.conn o.conn
    post 0x0C01 (tpUnit x.half) o.operation (syn [(32, 2, o.conn), (36, 2, x.inst), (40, 8, o.cookie.toNat)])
      (modOps (fun q => q == o) (fun q => { q with poison := true }) d)

/-- An inbound READ_RESP: its bytes are placed at the operation's local address; what falls into a failed stack is lost, and the READ ends
POISONED (R21). -/
def recvReadResp (v : Vault) (half : Nat) (p : Packet) (d : Dev) : Dev :=
  let x := d.conn p.conn
  let tag := beNat (slice p.ext 0 4)
  let offset := beNat (slice p.ext 4 8)
  let n := p.payload.length
  let ackReq := bit p.flags 4
  match psnFate x p.psn with
  | .again => sendAck v p.conn d
  | .past => countWindow p.conn d
  | .new =>
    if withholds d half n then countWindow p.conn d
    else match d.tp.ops.find? fun o => decide (o.kind = 2 ∧ o.conn = p.conn ∧ o.opTag = tag ∧ o.recorded = false ∧ offset + n ≤ o.length) with
    | none => takePsn v p.conn p.psn ackReq d
    | some o =>
      let a := o.local_ + offset
      if canWrite d (some (tpLock half)) a n = false then countWindow p.conn (noteWait (some (tpLock half)) a n d)
      else
        let mine (q : TxOp) : Bool := decide (q.kind = 2 ∧ q.conn = p.conn ∧ q.opTag = tag)
        let lost := inFailed d a n
        let d := engineWrite (some (tpLock half)) o.operation a p.payload (bit p.flags 5) d
        let d := if bit p.flags 5 then poisonOp o d else d
        let d := modOps mine (fun q => { q with
          placed := q.placed + n, poison := q.poison || lost,
          lastPsn := if q.placed = 0 ∨ psnGap p.psn q.lastPsn < 2 ^ 31 then p.psn else q.lastPsn }) d
        settleOps p.conn (takePsn v p.conn p.psn ackReq d)

/-! ### The sender (R283, R284) -/

/-- Read the bytes of packet j of an operation at its connection's MTU. -/
def packetData (o : TxOp) (mtu j : Nat) (d : Dev) : (Bytes × Bool) × Dev :=
  memRead o.operation (o.local_ + j * mtu) (min mtu (o.length - j * mtu)) d

/-- Send packet j of an operation as psn p. -/
def sendPacket (v : Vault) (o : TxOp) (j : Nat) (p : W32) (resend : Bool) (d : Dev) : Dev :=
  let x := d.conn o.conn
  let flags (bad : Bool) : Nat := flagFirst * b2n (decide (j = 0)) + flagLast * b2n (decide (j + 1 = o.packets)) +
    flagSignal * b2n (o.signal && decide (j + 1 = o.packets)) + flagAckReq * b2n resend + flagPoison * b2n bad
  match o.kind with
  | 2 => tpSend v o.conn 2 (flags false) p
      (beBytes 4 o.key.toNat ++ beBytes 8 o.remote ++ beBytes 4 o.length ++ beBytes 4 o.opTag) [] d
  | 1 =>
    let r := packetData o x.mtu j d
    tpSend v o.conn 1 (flags r.1.2) p
      (beBytes 4 o.key.toNat ++ beBytes 8 (o.remote + j * x.mtu) ++ beBytes 4 o.length ++ [0, 0, 0, 0]) r.1.1
      (if r.1.2 then poisonOp o r.2 else r.2)
  | _ =>
    let r := packetData o x.mtu j d
    tpSend v o.conn 3 (flags r.1.2) p (beBytes 4 o.opTag ++ beBytes 8 (j * x.mtu)) r.1.1 r.2

/-- Retransmit a psn, with ack_req (R284). -/
def resend (v : Vault) (c : Nat) (p : W32) (d : Dev) : Dev :=
  match d.tp.ops.find? fun o => decide (o.conn = c ∧ psnGap p o.firstPsn < o.sent) with
  | none => d
  | some o => sendPacket v o (psnGap p o.firstPsn) p true
      (d.modConn c fun x => { x with resent := (x.resent.filter fun r => r.1 ≠ p) ++ [(p, d.clusterNs)] })

/-- The timer runs while packets are unacknowledged. -/
def armRto (c : Nat) (d : Dev) : Dev :=
  d.modConn c fun x => { x with rtoDue := if x.una = x.next then none else some (d.clusterNs + x.rto) }

/-- Replace the first of a list's members that equals one. -/
def swapFirst {α : Type} [DecidableEq α] (a b : α) : List α → List α
  | [] => []
  | x :: l => if x = a then b :: l else x :: swapFirst a b l

/-- PACKET_SEND: the next new packet of the connection's oldest operation that has one, inside the window of 4,096. -/
def packetSend (v : Vault) (c : Nat) (d : Dev) : Dev :=
  let x := d.conn c
  match d.tp.ops.find? fun o => decide (o.conn = c ∧ o.sent < o.packets) with
  | none => d
  | some o =>
    if x.state ≠ 1 ∨ 4096 ≤ psnGap x.next x.una ∨ (o.kind ≠ 3 ∧ o.sent = 0 ∧ 65536 ≤ opsInFlight d) then d
    else
      let o' := { o with firstPsn := if o.sent = 0 then x.next else o.firstPsn, sent := o.sent + 1 }
      let d := (d.modTp fun t => { t with ops := swapFirst o o' t.ops }).modConn c fun x => { x with
        next := x.next + 1, rtoDue := some (x.rtoDue.getD (d.clusterNs + x.rto)) }
      sendPacket v o' o.sent x.next false d

/-- Psns of a connection in flight, oldest first. -/
def inFlight (x : Conn) : List W32 := (List.range (min 4096 (psnGap x.next x.una))).map fun i => x.una + BitVec.ofNat 32 i

/-- The lowest psn that counts as lost at an ACK (R284). -/
def lostPsn (x : Conn) (now : Nat) : Option W32 :=
  (inFlight x).find? fun p =>
    !x.sacked.contains p &&
      decide (x.reorder ≤ (x.sacked.filter fun q => psnGap p x.una < psnGap q x.una).length) &&
      !(x.resent.any fun r => decide (r.1 = p ∧ now < r.2 + x.rto))

/-- An ACK (R284). -/
def recvAck (v : Vault) (p : Packet) (d : Dev) : Dev :=
  let c := p.conn
  let x := d.conn c
  let a := BitVec.ofNat 32 (beNat (slice p.ext 0 4))
  let sack := beNat (slice p.ext 4 8)
  let hold := decide (fieldLe p.ext 12 1 = 1)
  let una := if psnGap a x.una ≤ psnGap x.next x.una then a else x.una
  let named := ((List.range 64).filter fun i => bit sack i).map fun i => a + 1 + BitVec.ofNat 32 i
  let keep (q : W32) : Bool := decide (psnGap q una < psnGap x.next una)
  let x := { x with una := una, sacked := (x.sacked ++ named.filter fun q => !x.sacked.contains q).filter keep, hold := hold,
                    resent := x.resent.filter fun r => keep r.1, pageRetry := x.pageRetry.filter fun r => keep r.1,
                    nakCount := x.nakCount.filter fun r => keep r.1 }
  let lost := if hold then none else lostPsn x d.clusterNs
  let d := d.modConn c fun _ => x
  let d := match lost with | some q => resend v c q d | none => d
  let d := d.modConn c fun x => { x with rto := x.rtoMin, misses := 0 }
  settleOps c (armRto c d)

/-- A NAK (R281, R284, R285). -/
def recvNak (p : Packet) (d : Dev) : Dev :=
  let c := p.conn
  let psn := BitVec.ofNat 32 (beNat (slice p.ext 0 4))
  let owns (o : TxOp) : Bool := decide (o.conn = c ∧ psnGap psn o.firstPsn < o.sent ∧ o.kind ≠ 3)
  if fieldLe p.ext 4 1 = 1 then settleOps c (completeOps (fun o => if owns o then some 4 else none) d)
  else
    let x := d.conn c
    let n := ((x.nakCount.find? fun e => e.1 = psn).map (·.2)).getD 0 + 1
    let d := d.modConn c fun x => { x with
      pageRetry := (x.pageRetry.filter fun e => e.1 ≠ psn) ++ [(psn, d.clusterNs + 1000 * beNat (slice p.ext 6 2))],
      nakCount := (x.nakCount.filter fun e => e.1 ≠ psn) ++ [(psn, n)] }
    if 64 ≤ n then completeOps (fun o => if owns o then some 8 else none) d else d

/-- CLOSE is sent, once for a connection's settings (R278). -/
def sendClose (v : Vault) (c : Nat) (d : Dev) : Dev :=
  if (d.conn c).closeSent then d else tpSend v c 6 0 0 [0, 0, 0, 0] [] (d.modConn c fun x => { x with closeSent := true })

/-- The connection leaves state 1 for an error or closed state: its operations complete with the status that a function gives
them, and leave. -/
def endConn (c state : Nat) (status : TxOp → Nat) (d : Dev) : Dev :=
  let d := completeOps (fun o => if o.conn = c then some (status o) else none) d
  (d.modTp fun t => { t with ops := t.ops.filter fun o => o.conn ≠ c, stalled := t.stalled.filter fun s => s.conn ≠ c }).modConn c fun x =>
    { x with state := state, rtoDue := none, ackDue := none, pageRetry := [], resent := [], readReqs := [], signals := [], holding := false,
             hold := false }

/-- The timer of a connection expires (R284): stored timer settings take effect (R292). -/
def rtoExpiry (v : Vault) (c : Nat) (d : Dev) : Dev :=
  let x := d.conn c
  if x.state ≠ 1 ∨ (x.rtoDue.all fun t => decide (d.clusterNs < t)) = true then d
  else
    let d := match x.timerDue with
      | some (m, l, r) => d.modConn c fun x => { x with rtoMin := 1000 * m, retryLimit := l, reorder := r, timerDue := none }
      | none => d
    if x.una = x.next ∨ x.hold then armRto c d
    else
      let top := x.sacked.foldl (fun m q => max m (psnGap q x.una)) 0
      let d := ((inFlight x).filter fun p => p = x.una || (!x.sacked.contains p && decide (psnGap p x.una < top))).foldl
        (fun d p => resend v c p d) d
      let d := armRto c (d.modConn c fun x => { x with rto := min (2 * x.rto) 64000000, misses := x.misses + 1 })
      if (d.conn c).retryLimit < (d.conn c).misses then
        endConn c 2 (fun o => if o.sent = 0 then 6 else 5)
          (post 0x0C00 (tpUnit x.half) 0 (syn [(32, 2, c), (36, 2, x.inst), (40, 4, x.una.toNat)]) d)
      else d

/-! ### Pages (R285) -/

/-- The connection's ACKs carry hold while packets of it are held. -/
def settleHold (c : Nat) (d : Dev) : Dev :=
  d.modConn c fun x => { x with holding := d.tp.stalled.any fun s => s.conn = c }

/-- A held packet is placed, or its read runs. -/
def placeStalled (s : Stalled) (d : Dev) : Dev :=
  let d := d.modTp fun t => { t with stalled := t.stalled.erase s }
  let m := d.mooring (s.key.toNat / 4096)
  let d := if s.isRead then d.modConn s.conn fun x => { x with readReqs := x.readReqs ++ [(s.psn, s.opTag, m.base + s.offset, s.length, s.key)] }
    else noteSignal s.conn s.psn s.signal m (engineWrite (some (tpLock (b2n s.half))) 0 (m.base + s.offset) s.bytes s.poison d)
  settleHold s.conn (settlePsn s.conn d)

/-- The pages that a held packet touches are all present now. -/
def stalledPresent (d : Dev) (s : Stalled) : Bool :=
  (absentPages (d.mooring (s.key.toNat / 4096)) s.offset (if s.isRead then s.length else s.bytes.length)).isEmpty

/-- A held packet whose pages are present is placed as soon as its write can go. -/
def tryStalled (d : Dev) (s : Stalled) : Dev :=
  let a := (d.mooring (s.key.toNat / 4096)).base + s.offset
  if stalledPresent d s = false then d
  else if s.isRead ∨ canWrite d (some (tpLock (b2n s.half))) a s.bytes.length then placeStalled s d
  else noteWait (some (tpLock (b2n s.half))) a s.bytes.length d

/-- Held packets whose pages are all present are placed. -/
def placePresent (d : Dev) : Dev := d.tp.stalled.foldl tryStalled d

/-- A packet held for 1 ms falls back to mode 1 (R285): it is discarded and answered with NAK code 2. One whose pages are present waits
for its write alone and is placed. -/
def stallFallback (v : Vault) (index : Nat) (d : Dev) : Dev :=
  match d.tp.stalled[index]? with
  | none => d
  | some s =>
    if stalledPresent d s then tryStalled d s
    else if d.clusterNs < s.since + 1000000 then d
    else
      let d := (d.modTp fun t => { t with stalled := t.stalled.erase s }).modConn s.conn fun x => { x with
        received := x.received.filter fun p => p ≠ s.psn }
      sendNak v s.conn s.psn 2 50 (settleHold s.conn d)

/-- Take the oldest packet that waits for the transport of a half, if it is one of the opcode; a packet that fails the checks of
R276 and R277 is dropped and counted instead. Held packets that can be placed go first. -/
def takePacket (v : Vault) (half opcode : Nat) (f : Packet → Dev → Dev) (d : Dev) : Dev :=
  match d.tp.inbox.find? fun e => e.1 = half with
  | none => d
  | some e =>
    let gone := placePresent (d.modTp fun t => { t with inbox := t.inbox.erase e })
    match openPacket v e.2 gone with
    | .inr d' => d'
    | .inl p =>
      if p.opcode ≠ opcode then d
      else f p (match (gone.conn p.conn).lane with | some l => laneJob l (p.ext ++ p.payload).length gone | none => gone)

/-! ### Work requests (R286) -/

/-- A flag or field that a kind does not use is not 0, or a field is out of range. -/
def badRequest (b : Bytes) (w : WorkReq) : Bool :=
  !(zeros b 2 2 && zeros b 48 16) ||
  (match w.kind with
  | 1 => decide (8 ≤ w.flags ∨ 65536 ≤ w.target ∨ w.length = 0 ∨ 2 ^ 30 < w.length)
  | 2 => decide (8 ≤ w.flags) || bit w.flags 0 || decide (65536 ≤ w.target ∨ w.length = 0 ∨ 2 ^ 30 < w.length)
  | 3 => decide (16 ≤ w.flags) || bit w.flags 0 || decide (16384 ≤ w.target ∨ w.length < 60 ∨ 9212 < w.length ∨ w.remote ≠ 0 ∨ w.key ≠ 0)
  | 4 => decide (8 ≤ w.flags) || bit w.flags 0 || decide (65536 ≤ w.target ∨ w.local_ ≠ 0 ∨ w.remote ≠ 0 ∨ w.key ≠ 0)
  | 5 => decide (8 ≤ w.flags) || bit w.flags 0 || decide (65536 ≤ w.target ∨ w.local_ ≠ 0 ∨ w.key = 0 ∨ 64 < w.key.toNat ∨ w.length ≠ 0)
  | _ => true)

/-- Parse a work request. -/
def parseRequest (b : Bytes) : WorkReq :=
  let w : WorkReq := {
    kind := fieldLe b 0 1, flags := fieldLe b 1 1, target := fieldLe b 4 4, local_ := fieldLe b 8 8,
    remote := fieldLe b 16 8, key := BitVec.ofNat 32 (fieldLe b 24 4), length := fieldLe b 28 4,
    cookie := BitVec.ofNat 64 (fieldLe b 32 8), operation := BitVec.ofNat 64 (fieldLe b 40 8) }
  { w with bad := badRequest b w }

/-- Requests posted in a queue's ring and not yet taken. -/
def queued (x : SendQ) : Nat := (x.tail + 2 ^ x.n - x.head) % 2 ^ x.n

/-- Read request k of a queue's ring from its head on; a poisoned one is marked. -/
def readRequest (x : SendQ) (k : Nat) (d : Dev) : (WorkReq × Bool) × Dev :=
  let r := memRead 0 (x.base + 64 * ((x.head + k) % 2 ^ x.n)) 64 d
  ((parseRequest r.1.1, r.1.2), r.2)

/-- The next request of a queue: the first of a started tow, or the one at the ring's head; and the device without it. -/
def nextRequest (q : Nat) (tow : Bool) (d : Dev) : Option ((WorkReq × Bool) × Dev) :=
  if tow then
    match d.tp.started.find? fun e => e.1 = q with
    | some e => some ((e.2, false), d.modTp fun t => { t with started := t.started.erase e })
    | none => none
  else
    let x := d.sendQ q
    if x.bound = false ∨ queued x = 0 then none
    else
      let r := readRequest x 0 d
      some (r.1, r.2.modSendQ q fun x => { x with head := (x.head + 1) % 2 ^ x.n })

/-- A request ends with a status: a failure always writes a record. -/
def endRequest (q : Nat) (w : WorkReq) (status : Nat) (d : Dev) : Dev :=
  if status = 0 ∧ bit w.flags 2 = false then d
  else d.modTp fun t => { t with records := t.records ++
    [{ queue := q, cookie := w.cookie, bytes := if status = 0 ∧ w.kind ≤ 3 then w.length else 0, status := status, kind := w.kind }] }

/-- A fenced request waits for every earlier READ of its queue (R284). -/
def fenced (d : Dev) (q : Nat) (w : WorkReq) : Bool :=
  bit w.flags 1 && d.tp.ops.any fun o => decide (o.kind = 2 ∧ o.queue = q) && !o.recorded

/-- Start a WRITE or a READ. `before` is the device with the request still waiting. -/
def startOp (q : Nat) (w : WorkReq) (before d : Dev) : Dev :=
  let x := d.conn w.target
  let inst := (d.sendQ q).inst
  if x.state ≠ 1 ∨ x.inst ≠ inst then endRequest q w 6 d
  else if mayAddress d inst w.local_ w.length = false then endRequest q w 2 d
  else if 65536 ≤ opsInFlight d then before
  else
    let d := d.modTp fun t => { t with nextTag := (t.nextTag + 1) % 2 ^ 32 }
    d.modTp fun t => { t with ops := t.ops ++ [{
      queue := q, kind := w.kind, conn := w.target, local_ := w.local_, remote := w.remote, key := w.key, length := w.length,
      cookie := w.cookie, operation := w.operation, signal := bit w.flags 0, complete := bit w.flags 2, opTag := t.nextTag,
      packets := if w.kind = 2 then 1 else packetCount w.length x.mtu }] }

/-- Start a RAW_FRAME: the frame is read and enters the egress queue; its record follows its transmission. -/
def startRaw (q : Nat) (w : WorkReq) (d : Dev) : Dev :=
  let inst := (d.sendQ q).inst
  let x := d.netQueue w.target
  if x.bound = false ∨ x.inst ≠ inst then endRequest q w 1 d
  else if mayAddress d inst w.local_ w.length = false then endRequest q w 2 d
  else
    let r := memRead w.operation w.local_ w.length d
    enqueue w.target {
      bytes := r.1.1, poison := r.1.2,
      request := some ({ queue := q, cookie := w.cookie, bytes := w.length, status := if r.1.2 then 3 else 0, kind := 3 },
        bit w.flags 3, bit w.flags 2 || r.1.2) } r.2

/-- The counter that a request names belongs to the queue's instance. -/
def ownsCounter (d : Dev) (inst n : Nat) : Bool := match tfind d.tp.counters n with | some c => decide (c.1 = inst) | none => false

/-- Start an ADD. -/
def startAdd (q : Nat) (w : WorkReq) (d : Dev) : Dev :=
  if ownsCounter d (d.sendQ q).inst w.target = false then endRequest q w 1 d
  else addCounter w.target w.length (endRequest q w 0 d)

/-- Requests in the tow store: each tow and its requests. -/
def towStore (d : Dev) : Nat := (d.tp.tows.map fun t => t.reqs.length + 1).sum

/-- The k requests that follow in a queue's ring. -/
def followers (q k : Nat) (d : Dev) : List WorkReq × Dev :=
  (List.range k).foldl (fun acc j =>
    let r := readRequest (d.sendQ q) j acc.2
    (acc.1 ++ [if r.1.2 then { r.1.1 with bad := true } else r.1.1], r.2)) ([], d)

/-- Start a TOW: it and the k requests that follow move into the tow store; a tow whose threshold is met starts at once. -/
def startTow (q : Nat) (w : WorkReq) (tow : Bool) (before d : Dev) : Dev :=
  let k := w.key.toNat
  if tow ∨ ownsCounter d (d.sendQ q).inst w.target = false then endRequest q w 1 d
  else if queued (d.sendQ q) < k ∨ 16384 < towStore d + k + 1 then before
  else
    let r := followers q k d
    let d := r.2.modSendQ q fun x => { x with head := (x.head + k) % 2 ^ x.n }
    startTows (endRequest q w 0 (d.modTp fun t => { t with tows := t.tows ++ [{ counter := w.target, threshold := w.remote, queue := q, reqs := r.1 }] }))

/-- Run the next request of a queue if it is of the kind; a bad one ends with RESERVED_VALUE, a poisoned one POISONED. -/
def runRequest (kind q : Nat) (tow : Bool) (d : Dev) : Dev :=
  match nextRequest q tow d with
  | none => d
  | some ((w, bad), e) =>
    if bad then endRequest q w 3 e
    else if w.bad then endRequest q w 1 e
    else if w.kind ≠ kind ∨ fenced d q w then d
    else match kind with
      | 3 => startRaw q w e
      | 4 => startAdd q w e
      | 5 => startTow q w tow d e
      | _ => startOp q w d e

/-- A write to a send queue's doorbell: the tail (R286's queue; bits 63:16 reserved). -/
def txTail (q : Nat) (value : Word) (d : Dev) : Dev :=
  let x := d.sendQ q
  if x.bound = false ∨ 2 ^ x.n ≤ value.toNat % 65536 then d else d.modSendQ q fun x => { x with tail := value.toNat % 65536 }

/-- The 32 bytes of a completion record (R287). -/
def TxRecord.bytesOf (r : TxRecord) : Bytes :=
  leBytes 8 r.cookie.toNat ++ leBytes 4 r.bytes ++ leBytes 1 r.status ++ leBytes 1 r.kind ++ leBytes 2 r.timeFrac.toNat ++
    leBytes 8 r.timeNs.toNat ++ List.replicate 8 0

/-- Write the oldest record of a queue (R287). -/
def writeRecord (q : Nat) (d : Dev) : Dev :=
  match d.tp.records.find? fun r => r.queue = q with
  | none => d
  | some r =>
    let x := d.sendQ q
    let a := x.complBase + 32 * (x.records % 2 ^ x.n)
    if x.bound = false then d.modTp fun t => { t with records := t.records.erase r }
    else if canWrite d (some (tpLock (q / 4096))) a 32 = false then noteWait (some (tpLock (q / 4096))) a 32 d
    else
      let d := engineWrite (some (tpLock (q / 4096))) 0 a r.bytesOf false ((d.modTp fun t => { t with records := t.records.erase r }).modSendQ q fun x => { x with records := x.records + 1 })
      if x.vector = 0xFFFF then d else raiseMsix x.inst x.vector d

/-! ### Stopping an instance (R289) -/

/-- The connections of an instance that are active. -/
def activeConns (d : Dev) (inst : Nat) : List Nat := (d.tp.conns.filter fun e => decide (e.2.inst = inst ∧ e.2.state = 1)).map (·.1)

/-- FLR, Bus Master Enable cleared or destruction: active connections send CLOSE and close, waiting operations and tows and the requests
in the rings complete with FUNCTION_STOPPED, moorings are deregistered and counters freed; the records are written at once. -/
def tpStop (v : Vault) (inst : Nat) (d : Dev) : Dev :=
  let d := (activeConns d inst).foldl (fun d c => endConn c 3 (fun _ => 7) (sendClose v c d)) d
  let mine (q : Nat) : Bool := (d.sendQ q).bound && decide ((d.sendQ q).inst = inst)
  let waiting := (d.tp.queues.filter fun e => mine e.1).map (·.1)
  let d := waiting.foldl (fun d q =>
    let r := followers q (queued (d.sendQ q)) d
    (r.1.foldl (fun d w => endRequest q w 7 d) r.2).modSendQ q fun x => { x with head := x.tail }) d
  let d := d.tp.started.foldl (fun d e => if mine e.1 then endRequest e.1 e.2 7 d else d) d
  let d := d.tp.tows.foldl (fun d t => if mine t.queue then t.reqs.foldl (fun d r => endRequest t.queue r 7 d) d else d) d
  let d := d.modTp fun t => { t with
    started := t.started.filter fun e => !mine e.1, tows := t.tows.filter fun e => !mine e.queue,
    moorings := t.moorings.map fun e => (e.1, if e.2.inst = inst then { e.2 with registered := false } else e.2),
    counters := t.counters.filter fun e => e.2.1 ≠ inst }
  d.tp.records.foldl (fun d r => if mine r.queue then writeRecord r.queue d else d) d

/-! ### The meanings -/

/-- TRANSPORT_WRITE (R281): half false west, true east. -/
def execTransportWrite (half : Bool) (s : State) : Host.Outcome State Fault Refusal :=
  onDevV (fun v d => takePacket v (b2n half) 1 (recvWrite v (b2n half)) d) s

/-- TRANSPORT_READ_REQ (R281, R284). -/
def execTransportReadReq (half : Bool) (s : State) : Host.Outcome State Fault Refusal :=
  onDevV (fun v d => takePacket v (b2n half) 2 (recvReadReq v (b2n half)) d) s

/-- TRANSPORT_READ_RESP (R284, R287). -/
def execTransportReadResp (half : Bool) (s : State) : Host.Outcome State Fault Refusal :=
  onDevV (fun v d => takePacket v (b2n half) 3 (recvReadResp v (b2n half)) d) s

/-- TRANSPORT_ACK (R284). -/
def execTransportAck (half : Bool) (s : State) : Host.Outcome State Fault Refusal :=
  onDevV (fun v d => takePacket v (b2n half) 4 (recvAck v) d) s

/-- TRANSPORT_NAK (R281, R284, R285). -/
def execTransportNak (half : Bool) (s : State) : Host.Outcome State Fault Refusal :=
  onDevV (fun v d => takePacket v (b2n half) 5 recvNak d) s

/-- TRANSPORT_CLOSE (R278): the peer closes the connection. -/
def execTransportClose (half : Bool) (s : State) : Host.Outcome State Fault Refusal :=
  onDevV (fun v d => takePacket v (b2n half) 6 (fun p d => endConn p.conn 3 (fun _ => 6) d) d) s

/-- PACKET_SEND (R284). -/
def execPacketSend (conn : Fin 65536) (s : State) : Host.Outcome State Fault Refusal := onDevV (fun v d => packetSend v conn.val d) s

/-- RTO_EXPIRY (R284). -/
def execRtoExpiry (conn : Fin 65536) (s : State) : Host.Outcome State Fault Refusal := onDevV (fun v d => rtoExpiry v conn.val d) s

/-- ACK_TIMER (R284): 4 µs after the oldest packet not acknowledged. -/
def execAckTimer (conn : Fin 65536) (s : State) : Host.Outcome State Fault Refusal :=
  onDevV (fun v d =>
    if (d.conn conn.val).state = 1 ∧ ((d.conn conn.val).ackDue.any fun t => decide (t ≤ d.clusterNs)) = true
    then sendAck v conn.val d else d) s

/-- PAGE_RETRY_RESEND (R284, R285): psns whose delay has passed are retransmitted. -/
def execPageRetryResend (conn : Fin 65536) (s : State) : Host.Outcome State Fault Refusal :=
  onDevV (fun v d =>
    let c := conn.val
    let due := (d.conn c).pageRetry.filter fun e => decide (e.2 ≤ d.clusterNs)
    due.foldl (fun d e => resend v c e.1 d) (d.modConn c fun x => { x with pageRetry := x.pageRetry.filter fun e => decide (d.clusterNs < e.2) })) s

/-- STALL_FALLBACK (R285). -/
def execStallFallback (index : Nat) (s : State) : Host.Outcome State Fault Refusal := onDevV (fun v d => stallFallback v index d) s

/-- The send queue at doorbell j of an instance (R215). -/
def txAt (d : Dev) (inst j : Nat) : Option Nat :=
  let i := d.inst inst
  if j < i.dma.length + i.storage.length then none else i.tx[j - i.dma.length - i.storage.length]?

/-- TX_QUEUE_DOORBELL (chapter 12). -/
def execTxQueueDoorbell (inst : Fin 1024) (index : Nat) (value : Word) (s : State) : Host.Outcome State Fault Refusal :=
  onDev (fun d => match txAt d inst.val index with | some q => txTail q value d | none => d) s

/-- WR_WRITE (R286): the next request of a queue, at its ring's head or of a started tow. -/
def execWrWrite (queue : Fin 8192) (tow : Bool) (s : State) : Host.Outcome State Fault Refusal := onDev (runRequest 1 queue.val tow) s

/-- WR_READ (R286). -/
def execWrRead (queue : Fin 8192) (tow : Bool) (s : State) : Host.Outcome State Fault Refusal := onDev (runRequest 2 queue.val tow) s

/-- WR_RAW_FRAME (R286). -/
def execWrRawFrame (queue : Fin 8192) (tow : Bool) (s : State) : Host.Outcome State Fault Refusal := onDev (runRequest 3 queue.val tow) s

/-- WR_ADD (R286, R288). -/
def execWrAdd (queue : Fin 8192) (tow : Bool) (s : State) : Host.Outcome State Fault Refusal := onDev (runRequest 4 queue.val tow) s

/-- WR_TOW (R288). -/
def execWrTow (queue : Fin 8192) (tow : Bool) (s : State) : Host.Outcome State Fault Refusal := onDev (runRequest 5 queue.val tow) s

/-- TX_COMPLETION_RECORD (R287). -/
def execTxCompletionRecord (queue : Fin 8192) (s : State) : Host.Outcome State Fault Refusal := onDev (writeRecord queue.val) s

/-- MOORING_DEREG_COMPLETE (R282): placement of every accepted packet has been delivered. -/
def execMooringDeregComplete (mooring : Nat) (s : State) : Host.Outcome State Fault Refusal :=
  onDev (fun d =>
    match (d.mooring mooring).deregWait with
    | none => d
    | some (src, seq) =>
      if d.tp.conns.any fun e => e.2.readReqs.any fun r => r.2.2.2.2.toNat / 4096 = mooring then d
      else finishLater src 0x0C05 seq (ok []) (d.modMooring mooring fun m => { m with deregWait := none })) s

/-- The timer settings of a connection: rto_min in µs, retry_limit and reorder, or their defaults (R283). -/
def connTimers (x : ConnSet) : Nat × Nat × Nat := (x.rtoMin.getD 64, x.retryLimit.getD 7, x.reorder.getD 3)

/-- The checks of CMD_CONN_SET (R277, R283, R339). -/
def badConn (d : Dev) (inst : Nat) (x : ConnSet) : Bool :=
  let q := d.netQueue x.egress
  let t := (connTimers x)
  decide (8 ≤ x.port ∨ 16384 ≤ x.egress ∨ q.port ≠ x.port ∨ t.1 < 8 ∨ 1000 < t.1 ∨ t.2.1 = 0 ∨
    15 < t.2.1 ∨ t.2.2 = 0 ∨ 64 < t.2.2) || !q.bound || !([1024, 2048, 4096, 8192] : List Nat).contains x.mtu ||
    (match x.lane with
     | some l => decide (48 ≤ l ∨ (d.lane l).mode ≠ 1 ∨ (d.lane l).user ≠ x.port / 4 ∨ (d.lane l).inst ≠ inst)
     | none => false)

/-- A connection with its settings, both directions at psn 0 (R278). -/
def newConn (inst : Nat) (x : ConnSet) : Conn :=
  { state := 1, inst := inst, port := x.port, egress := x.egress, localIp := x.localIp, peerIp := x.peerIp, nextHop := x.nextHop,
    vlan := x.vlan, tclass := x.tclass, flow := x.flow, peer := x.peer, epoch := x.epoch, mtu := x.mtu, lane := x.lane,
    rtoMin := 1000 * (connTimers x).1, rto := 1000 * (connTimers x).1, retryLimit := (connTimers x).2.1, reorder := (connTimers x).2.2 }

/-- CMD_CONN_SET (R278, R291). -/
def execCmdConnSet (c : Cmd) (conn inst : Nat) (settings : ConnSet) (s : State) : Host.Outcome State Fault Refusal :=
  onDev (mailbox c { vf := true, block := some 11 } fun d =>
    let x := d.conn conn
    let held := (d.tp.conns.filter fun e => decide (e.2.state ≠ 0 ∧ e.2.inst = inst ∧ e.1 ≠ conn)).length
    if 65536 ≤ conn ∨ 1024 ≤ inst then (fail .invalid, d)
    else if mayName c.src.val inst d = false ∨ (x.state ≠ 0 ∧ mayName c.src.val x.inst d = false) then (fail .notPermitted, d)
    else if x.state = 1 then (fail .busy, d)
    else if (d.netQueue settings.egress).bound ∧ (d.netQueue settings.egress).inst ≠ inst then (fail .notPermitted, d)
    else if badConn d inst settings then (fail .invalid, d)
    else if (((d.inst inst).desc.map (·.connections)).getD 0) ≤ held then (fail .capacity, d)
    else (ok [], d.modConn conn fun _ => newConn inst settings)) s

/-- CMD_CONN_CLOSE (R278). -/
def execCmdConnClose (c : Cmd) (conn : Nat) (s : State) : Host.Outcome State Fault Refusal :=
  onDevV (fun v => mailbox c { vf := true, block := some 11 } fun d =>
    let x := d.conn conn
    if 65536 ≤ conn ∨ x.state = 0 then (fail .invalid, d)
    else if mayName c.src.val x.inst d = false then (fail .notPermitted, d)
    else (ok [], endConn conn 3 (fun _ => 6) (sendClose v conn d))) s

/-- CMD_CONN_STATUS (R291). -/
def execCmdConnStatus (c : Cmd) (conn : Nat) (s : State) : Host.Outcome State Fault Refusal :=
  onDev (query c { vf := true, i3c := true } fun d =>
    let x := d.conn conn
    if 65536 ≤ conn then fail .invalid
    else if x.state ≠ 0 ∧ mayName c.src.val x.inst d = false then fail .notPermitted
    else ok [x.state, x.una.toNat, x.next.toNat, x.expected.toNat, x.badHeader, x.stale, x.sealFail, x.windowDrops]) s

/-- A send queue holds work. -/
def queueBusy (d : Dev) (q : Nat) : Bool :=
  (d.sendQ q).bound && (decide (queued (d.sendQ q) ≠ 0) || (d.tp.ops.any fun o => decide (o.queue = q ∧ o.kind ≠ 3) && !o.recorded) ||
    (d.tp.started.any fun e => e.1 = q) || (d.tp.tows.any fun t => t.queue = q) || d.tp.records.any fun r => r.queue = q)

/-- CMD_TX_QUEUE_SET (chapter 12): the doorbell is one of the sender's. -/
def execCmdTxQueueSet (c : Cmd) (doorbell base n completions vector : Nat) (s : State) : Host.Outcome State Fault Refusal :=
  onDev (mailbox c { vf := true, block := some 11 } fun d =>
    let i := if c.src.val < 1024 then c.src.val else 0
    match txAt d i doorbell with
    | none => (fail .invalid, d)
    | some q =>
      if n < 4 ∨ 16 < n ∨ 65535 < vector then (fail .invalid, d)
      else if queueBusy d q then (fail .busy, d)
      else if (mayAddress d i base (64 * 2 ^ n) && mayAddress d i completions (32 * 2 ^ n)) = false then (fail .addressUnmapped, d)
      else (ok [], d.modSendQ q fun _ => { bound := true, inst := i, base := base, n := n, complBase := completions, vector := vector })) s

/-- The lowest mooring index that is free. -/
def freeMooring (d : Dev) : Nat := ((List.range (d.tp.moorings.length + 1)).find? fun i => !(d.mooring i).registered && (d.mooring i).deregWait.isNone).getD 0

/-- The next tag of a mooring index: 0 is skipped (R280). -/
def nextTag (t : BitVec 12) : BitVec 12 := if t = 0xFFF#12 then 1 else t + 1

/-- Register a mooring at the lowest free index: key and device. -/
def regMooring (m : MooringSet) (d : Dev) : Nat × Dev :=
  let i := freeMooring d
  let tag := nextTag (d.mooring i).tag
  (4096 * i + tag.toNat, d.modMooring i fun _ =>
    { tag := tag, registered := true, inst := m.inst, base := m.base, size := m.size, read := m.read, write := m.write,
      counter := m.counter, paged := m.paged, mode := m.mode })

/-- CMD_MOORING_REG (R280). -/
def execCmdMooringReg (c : Cmd) (m : MooringSet) (s : State) : Host.Outcome State Fault Refusal :=
  onDev (mailbox c { vf := true } fun d =>
    let held := (d.tp.moorings.filter fun e => e.2.registered && decide (e.2.inst = m.inst)).length
    if 1024 ≤ m.inst then (fail .invalid, d)
    else if mayName c.src.val m.inst d = false then (fail .notPermitted, d)
    else if m.base % 4096 ≠ 0 ∨ m.size % 4096 ≠ 0 ∨ m.size = 0 ∨ 2 ^ 40 < m.size ∨ 2 ≤ m.mode ∨
      (m.counter.any fun n => (tfind d.tp.counters n).isNone) = true then (fail .invalid, d)
    else if (m.counter.any fun n => !ownsCounter d m.inst n) = true then (fail .notPermitted, d)
    else if mayAddress d m.inst m.base m.size = false then (fail .addressUnmapped, d)
    else if (((d.inst m.inst).desc.map (·.moorings)).getD 0) ≤ held then (fail .capacity, d)
    else (ok [(regMooring m d).1], (regMooring m d).2)) s

/-- A key's mooring, when the key is good and the sender may name its instance. -/
def keyMooring (src : Nat) (key : Nat) (d : Dev) : Except MStatus Nat :=
  let m := d.mooring (key / 4096)
  if m.registered = false ∨ m.tag.toNat ≠ key % 4096 then .error .invalid
  else if mayName src m.inst d = false then .error .notPermitted
  else .ok (key / 4096)

/-- Packets of a mooring in the fault buffer are discarded and answered with NAK code 1 (R289). -/
def dropStalled (v : Vault) (m : Nat) (d : Dev) : Dev :=
  d.tp.stalled.foldl (fun d s =>
    if s.key.toNat / 4096 = m then
      settleHold s.conn (sendNak v s.conn s.psn 1 0 (d.modTp fun t => { t with stalled := t.stalled.erase s }))
    else d) d

/-- CMD_MOORING_DEREG (R282). -/
def execCmdMooringDereg (c : Cmd) (key : Nat) (s : State) : Host.Outcome State Fault Refusal :=
  onDevV (fun v => mailboxLater c { vf := true } fun d =>
    match keyMooring c.src.val key d with
    | .error e => (some (fail e), d)
    | .ok m => (none, dropStalled v m (d.modMooring m fun x => { x with registered := false, deregWait := some (c.src.val, c.seq) }))) s

/-- CMD_MOORING_PAGE (R285). -/
def execCmdMooringPage (c : Cmd) (key first count : Nat) (present : Bool) (s : State) : Host.Outcome State Fault Refusal :=
  onDev (mailbox c { vf := true, block := some 11 } fun d =>
    match keyMooring c.src.val key d with
    | .error e => (fail e, d)
    | .ok m =>
      let x := d.mooring m
      if x.paged = false ∨ (x.size + 65535) / 65536 < first + count then (fail .invalid, d)
      else
        let pages := (List.range count).map (first + ·)
        (ok [], placePresent (d.modMooring m fun x => { x with
          present := if present then x.present ++ pages.filter (fun p => !x.present.contains p) else x.present.filter fun p => !pages.contains p }))) s

/-- CMD_COUNTER_ALLOC (R279, R291): allocate a counter at value 0, or free one. -/
def execCmdCounterAlloc (c : Cmd) (inst : Nat) (free : Option Nat) (s : State) : Host.Outcome State Fault Refusal :=
  onDev (mailbox c { vf := true } fun d =>
    if 1024 ≤ inst then (fail .invalid, d)
    else if mayName c.src.val inst d = false then (fail .notPermitted, d)
    else match free with
    | some n =>
      if ownsCounter d inst n then (ok [], d.modTp fun t => { t with counters := tdel t.counters n })
      else (fail (if (tfind d.tp.counters n).isSome then .notPermitted else .invalid), d)
    | none =>
      if (((d.inst inst).desc.map (·.connections)).getD 0) ≤ (d.tp.counters.filter fun e => e.2.1 = inst).length then (fail .capacity, d)
      else match (List.range 65536).find? fun n => (tfind d.tp.counters n).isNone with
        | none => (fail .capacity, d)
        | some n => (ok [n], d.modTp fun t => { t with counters := tput t.counters n (inst, 0) })) s

/-- CMD_COUNTER_READ (R291). -/
def execCmdCounterRead (c : Cmd) (counter : Nat) (s : State) : Host.Outcome State Fault Refusal :=
  onDev (query c { vf := true, i3c := true } fun d =>
    match tfind d.tp.counters counter with
    | none => fail .invalid
    | some x => if mayName c.src.val x.1 d = false then fail .notPermitted else ok [x.2]) s

end Sys2Proof.Machine
end

