-- ==== Sys2Proof/Machine/Storage.lean ====
section
/-! DEFINITION. The storage service (chapter 14): queues and capsules, volumes, range locks, transfer-ready and the write
buffer, back-ends, idle states, completions. -/

namespace Sys2Proof.Machine

/-- Storage queue q. -/
def Dev.storQ (d : Dev) (q : Nat) : StorQ := tget {} d.storage.queues q

/-- Change storage queue q. -/
def Dev.modStorQ (d : Dev) (q : Nat) (f : StorQ → StorQ) : Dev := d.modStorage fun s => { s with queues := tmod {} s.queues q f }

/-- Volume v. -/
def Dev.volume (d : Dev) (v : Nat) : Volume := tget {} d.storage.volumes v

/-- Drive n, at NVMe port 8 + n. -/
def Dev.drive (d : Dev) (n : Nat) : Drive := tget {} d.storage.drives n

/-- Change drive n. -/
def Dev.modDrive (d : Dev) (n : Nat) (f : Drive → Drive) : Dev := d.modStorage fun s => { s with drives := tmod {} s.drives n f }

/-- A command by its fetch order. -/
def Dev.storCmd (d : Dev) (id : Nat) : Option StorCmd := d.storage.cmds.find? fun c => c.id = id

/-- Change a command. -/
def Dev.modCmd (d : Dev) (id : Nat) (f : StorCmd → StorCmd) : Dev :=
  d.modStorage fun s => { s with cmds := s.cmds.map fun c => if c.id = id then f c else c }

/-- A command is done: its place in the order of completions is fixed (R326). -/
def Dev.finishCmd (d : Dev) (id : Nat) (f : StorCmd → StorCmd) : Dev :=
  (d.modCmd id fun c => { f c with phase := 6, ended := d.storage.nextEnd }).modStorage fun s => { s with nextEnd := s.nextEnd + 1 }

/-- Remove a command. -/
def Dev.dropCmd (d : Dev) (id : Nat) : Dev := d.modStorage fun s => { s with cmds := s.cmds.filter fun c => c.id ≠ id }

/-- The service's unit field, with the instance it works for. -/
def storUnit (inst : Option Nat) : W32 := unitBlock 5 13 127 inst

/-- The SERVICE lock of the storage engine of a half (R81, R94). -/
def storLock (half : Nat) : Nat := 57 + 64 * half

/-- The engine of a half finds ready withheld: its chamber cannot take the next barge of a transfer with its command (R94). -/
def storWithheld (d : Dev) (half : Nat) : Bool := withheld d (storLock half)

/-- The engine may issue requests into a space for an instance: into host memory only while its function may (R224). -/
def storMasters (d : Dev) (inst space : Nat) : Bool := decide (space ≠ 1) || masters d inst

/-! ### Queues and the fetch order (R314, R317) -/

/-- The storage queue at doorbell j of an instance (R215). -/
def storAt (d : Dev) (inst j : Nat) : Option Nat :=
  let i := d.inst inst
  if j < i.dma.length then none else i.storage[j - i.dma.length]?

/-- A queue has capsules in its ring. -/
def StorQ.waits (x : StorQ) : Bool := decide (x.state = 1) && decide (x.head ≠ x.tail)

/-- A queue has capsules that can be fetched. -/
def storFetchable (d : Dev) (x : StorQ) : Bool := x.waits && storMasters d x.inst x.space

/-- An instance is backlogged at the service. -/
def storBacklog (d : Dev) (inst : Nat) : Bool := d.storage.queues.any fun e => storFetchable d e.2 && decide (e.2.inst = inst)

/-- A doorbell write (R314): ignored with a reserved bit set or a tail at or beyond 2^n. -/
def storTail (q : Nat) (value : Word) (d : Dev) : Dev :=
  let x := d.storQ q
  if x.state = 0 ∨ 2 ^ x.n ≤ value.toNat then d
  else
    let was := storBacklog d x.inst
    let d := d.modStorQ q fun x => { x with tail := value.toNat }
    if was then d
    else d.modStorage fun s => { s with s := tset 0 s.s x.inst (maxTag (tget 0 s.s x.inst) s.v) }

/-- Backlogged instances with their start tags. -/
def storTags (d : Dev) : List (Nat × Word) :=
  let insts := d.storage.queues.foldl (fun l e => if storFetchable d e.2 then addSet e.2.inst l else l) []
  insts.map fun i => (i, tget 0 d.storage.s i)

/-- The next queue of an instance in round robin. -/
def nextQueue (d : Dev) (inst : Nat) : Option Nat :=
  let qs := (d.storage.queues.filter fun e => storFetchable d e.2 && decide (e.2.inst = inst)).map (·.1)
  let after := qs.filter fun q => decide (tget 0 d.storage.last inst < q + 1 ∧ q + 1 ≠ tget 0 d.storage.last inst)
  (after ++ qs).head?

/-- Parse a capsule (R315). -/
def parseCapsule (b : Bytes) : StorCmd :=
  { opcode := fieldLe b 0 1, fua := bit (fieldLe b 1 1) 0, space := fieldLe b 2 1, volume := fieldLe b 4 4, lba := fieldLe b 8 8,
    blocks := fieldLe b 16 4, buffer := fieldLe b 24 8, cookie := BitVec.ofNat 64 (fieldLe b 32 8),
    operation := BitVec.ofNat 64 (fieldLe b 40 8) }

/-- A reserved value or a field used contrary to R315 and R316. -/
def badCapsule (b : Bytes) (c : StorCmd) : Bool :=
  decide (c.opcode = 0 ∨ 4 < c.opcode ∨ 1 < fieldLe b 1 1 ∨ 9 < c.space ∨ 4096 ≤ c.volume) || (c.fua && decide (c.opcode ≠ 2)) ||
    !(zeros b 3 1 && zeros b 20 4 && zeros b 48 16) ||
    (if c.opcode = 3 then decide (c.space ≠ 0 ∨ c.blocks ≠ 0 ∨ c.buffer ≠ 0)
     else decide (c.blocks = 0 ∨ 512 < c.blocks)) || (decide (c.opcode = 4) && decide (c.buffer ≠ 0))

/-- The status with which a capsule fails at once; 0: it goes on (R316, R318, and R21 for a buffer in a failed stack). -/
def capsuleStatus (d : Dev) (inst : Nat) (b : Bytes) (c : StorCmd) : Nat :=
  let v := d.volume c.volume
  if badCapsule b c then 1
  else if v.bound = false ∨ v.inst ≠ inst then 5
  else if v.count < c.lba + c.blocks then 4
  else if (c.opcode = 1 ∨ c.opcode = 2) ∧ spaceMapped d inst (decide (c.opcode = 2)) c.space c.buffer (4096 * c.blocks) = false then 2
  else if c.opcode = 1 ∧ c.space = 0 ∧ inFailed d c.buffer (4096 * c.blocks) then 3
  else 0

/-- The buffered writes of a volume. -/
def bufferedOf (d : Dev) (volume : Nat) : List Buffered := d.storage.buffer.filter fun b => b.volume = volume

/-- A capsule is fetched from a queue: a command is outstanding from now on, and the order among queues and instances moves on (R317). -/
def openCapsule (q : Nat) (x : StorQ) (d : Dev) : Dev :=
  let head := (x.head + 1) % 2 ^ x.n
  let d := (d.modStorQ q fun x => { x with head := head }).modStorage fun s => { s with
    cmds := s.cmds ++ [{ id := s.nextId, queue := q, inst := x.inst, sqHead := head, phase := 9 }],
    nextId := s.nextId + 1, last := tset 0 s.last x.inst (q + 1),
    s := tset 0 s.s x.inst (tget 0 s.s x.inst + BitVec.ofNat 64 (2 ^ 32 / max 1 (tget 1 d.locks.weights x.inst))) }
  match leastTag (storTags d) with
  | some e => d.modStorage fun s => { s with v := e.2 }
  | none => d

/-- The capsule of command id is there: it is checked. -/
def fillCapsule (id : Nat) (bs : Bytes) (poison : Bool) (d : Dev) : Dev :=
  match d.storCmd id with
  | none => d
  | some o =>
    if o.phase ≠ 9 then d
    else
      let c := parseCapsule (fit 64 bs)
      let st := if poison then 3 else capsuleStatus d o.inst (fit 64 bs) c
      let fetched : StorCmd := { c with id := id, queue := o.queue, inst := o.inst, sqHead := o.sqHead, status := st,
                                        covers := if c.opcode = 3 then (bufferedOf d c.volume).map (·.id) else [] }
      if st = 0 then d.modCmd id fun _ => fetched else d.finishCmd id fun _ => fetched

/-- The read of a capsule has timed out (R223): nothing is known of the command but its place in the ring, so its cookie is a free value;
R326 has no status for it, and it fails as at a back-end (log entry 141). -/
def lostCapsule (id : Nat) (d : Dev) : Dev :=
  match d.storCmd id with
  | none => d
  | some o =>
    if o.phase ≠ 9 then d
    else
      let k := d.draw Config.unreadCookie
      k.2.finishCmd id fun c => { c with status := 6, cookie := k.1 }

/-- CAPSULE_FETCH: the pooled order of R87 among instances, round robin among an instance's queues. A capsule in device memory is there at
once; one in host memory is asked for by a read of its instance, with the tag given where it is free (R223). -/
def capsuleFetch (half tag : Nat) (d : Dev) : Dev :=
  if 16384 ≤ d.storage.cmds.length ∨ storWithheld d half then d
  else match leastTag (storTags d) with
  | none => d
  | some (i, _) => match nextQueue d i with
    | none => d
    | some q =>
      let x := d.storQ q
      let id := d.storage.nextId
      let a := x.sqBase + 64 * x.head
      if x.space = 1 then
        match issueRead { port := homeOf d x.inst, tag := tag, inst := x.inst, addr := a, length := 64, work := .capsule id } d with
        | some d => openCapsule q x d
        | none => d
      else
        let r := memRead 0 a 64 d
        fillCapsule id r.1.1 r.1.2 (openCapsule q x r.2)

/-! ### Back-ends (R323–R325) -/

/-- Queue pairs of a drive, or connections of a remote target, and how many commands each holds: a queue of n entries is full with
n − 1 (NVMe, which R323 names). -/
def backQueues (d : Dev) (target : Nat) : Nat := if target < 16 then 64 else (tget {} d.storage.remotes (target - 16)).conns
def backDepth (target : Nat) : Nat := if target < 16 then 1023 else 127

/-- How a command's data travel (R323, R324). -/
def backForm (target : Nat) (bytes : Bytes) : BackForm :=
  if target < 16 then .prp else if bytes.length ≤ 8192 then .inCapsule else .afterR2t

/-- Send a waiting command once its queue has room; a drive leaves its idle state (R325). -/
def issueBack (b : BackCmd) (d : Dev) : Dev :=
  let n := backQueues d b.target
  let conn := b.tag % n
  match b.waiting with
  | none => d
  | some (nsid, lba, bytes) =>
    if n = 0 ∨ backDepth b.target ≤ (d.storage.back.filter fun x => decide (x.target = b.target ∧ x.conn = conn ∧ x.waiting = none)).length then d
    else
      let sent (x : BackCmd) : BackCmd := if x.tag = b.tag then { x with waiting := none, conn := conn, since := d.uptime } else x
      let d := d.modStorage fun s => { s with back := s.back.map sent }
      let d := if 8 ≤ b.target ∧ b.target < 12 then
          (if 2 ≤ (d.drive (b.target - 8)).idle then d.emit (.drivePower (b.target - 8) 0) else d).modDrive (b.target - 8)
            fun x => { x with idle := 0, lastCmd := d.uptime }
        else d
      d.emit (.backend b.target conn nsid b.op b.fua lba b.blocks b.tag (backForm b.target bytes) bytes)

/-- Commands that wait for a back-end's queues go out in their order. -/
def pumpBack (target : Nat) (d : Dev) : Dev :=
  (d.storage.back.filter fun b => decide (b.target = target ∧ b.waiting ≠ none)).foldl (fun d b => issueBack b d) d

/-- Send a command to a volume's back-end; while its queue is full it waits. -/
def sendBack (b : BackCmd) (v : Volume) (lba : Nat) (bytes : Bytes) (d : Dev) : Dev :=
  let b := { b with tag := d.storage.nextTag, target := v.backend, waiting := some (v.nsid, v.first + lba, bytes) }
  issueBack b (d.modStorage fun s => { s with nextTag := s.nextTag + 1, back := s.back ++ [b] })

/-- Commands at a back-end for storage command id. -/
def backOf (d : Dev) (id : Nat) : List BackCmd := d.storage.back.filter fun b => b.cmd = some id

/-! ### Range locks (R319) -/

/-- Two requests conflict: their ranges overlap and one of them is exclusive. FLUSH takes no lock. -/
def conflicts (a b : StorCmd) : Bool :=
  decide (a.volume = b.volume) && meets a.lba a.blocks b.lba b.blocks && !(decide (a.opcode = 1 ∧ b.opcode = 1)) &&
    decide (a.opcode ≠ 3 ∧ b.opcode ≠ 3)

/-- A request holds or awaits a lock. -/
def StorCmd.locking (c : StorCmd) : Bool := c.locked || decide (c.opcode ≠ 3 ∧ c.phase ≤ 1)

/-- A conflicting request fetched before holds or awaits a lock, or is still being read from host memory, so that it may conflict. -/
def lockBlocked (d : Dev) (c : StorCmd) : Bool := d.storage.cmds.any fun o =>
  decide (o.id < c.id) && (decide (o.phase = 9) || (o.locking && conflicts o c))

/-- The table has no entry left for the request beyond those held and those that earlier requests wait for. -/
def tableBlocked (d : Dev) (c : StorCmd) : Bool :=
  decide (4096 ≤ (d.storage.cmds.filter (·.locked)).length +
    (d.storage.cmds.filter fun o => decide (o.id < c.id ∧ o.phase = 1) && !lockBlocked d o).length)

/-! ### The write buffer (R320, R322) -/

/-- Space in use in the WRITE_BUFFER region: base and size within it. -/
def bufferUse (d : Dev) (g : Region) : List (Nat × Nat) :=
  let spans := d.storage.buffer.map (fun b => (b.addr, 4096 * b.blocks)) ++
    (d.storage.cmds.filter fun c => decide (0 < c.reserved)).map fun c => (c.addr, c.reserved)
  (spans.filter fun s => meets s.1 s.2 g.base g.size).map fun s => (s.1 - g.base, s.2)

/-- A WRITE takes its whole reservation, or none of it. Without a WRITE_BUFFER region there is none to take. -/
def reserveOne (c : StorCmd) (d : Dev) : Option Dev :=
  match d.region 3 with
  | none => some (d.modCmd c.id fun c => { c with phase := 3 })
  | some g => match firstFit g.size (4096 * c.blocks) (bufferUse d g) with
    | some o => some (d.modCmd c.id fun c => { c with phase := 3, reserved := 4096 * c.blocks, addr := g.base + o })
    | none => none

/-- WRITEs that await their reservation, in the order in which they received their locks. -/
def reserving (d : Dev) : List StorCmd :=
  (d.storage.cmds.filter fun c => decide (c.opcode = 2 ∧ (c.phase = 2 ∨ c.phase = 7))).mergeSort fun a b => decide (a.grant ≤ b.grant)

/-- Give reservations in order; from the first that cannot be had on, every WRITE waits. -/
def reserveAll : List StorCmd → Dev → Dev
  | [], d => d
  | c :: cs, d =>
    match reserveOne c d with
    | some d => reserveAll cs d
    | none => (c :: cs).foldl (fun d c => if c.phase = 7 then d
        else (d.modCmd c.id fun c => { c with phase := 7 }).modStorage fun s => { s with trWaits := satAdd (2 ^ 32 - 1) s.trWaits 1 }) d

/-- Space has been freed, or a lock granted: reservations are tried again. -/
def retryReserve (d : Dev) : Dev := reserveAll (reserving d) d

/-- The newest buffered write that holds a block, with the device address of the block. -/
def bufferedBlock (d : Dev) (volume lba : Nat) : Option Nat :=
  (d.storage.buffer.reverse.find? fun b => decide (b.volume = volume ∧ b.lba ≤ lba ∧ lba < b.lba + b.blocks)).map
    fun b => b.addr + 4096 * (lba - b.lba)

/-- The engine that serves a queue, and its SERVICE lock: the half of the queue's home endpoint (log entry 140). -/
def cmdLock (d : Dev) (c : StorCmd) : Option Nat := some (storLock (homeOf d c.inst))

/-- Data moves to a command's buffer (R238): device memory or PCI Express. What is written to a failed stack is lost, and the command
ends POISONED (R21). -/
def toBuffer (c : StorCmd) (off : Nat) (bs : Bytes) (poison : Bool) (d : Dev) : Dev :=
  if c.space = 0 then
    (engineWrite (cmdLock d c) c.operation (c.buffer + off) bs poison d).modCmd c.id fun x =>
      { x with poison := x.poison || inFailed d (c.buffer + off) bs.length, bytes := x.bytes + bs.length }
  else (writeTlps (spacePort d c.inst c.space) c.inst (c.buffer + off) bs (if poison then [(0, bs.length)] else []) false d).modCmd c.id
    fun x => { x with bytes := x.bytes + bs.length }

/-- A command's buffer can take data now. -/
def bufferReady (d : Dev) (c : StorCmd) : Bool :=
  if c.space = 0 then canWrite d (cmdLock d c) c.buffer (4096 * c.blocks) else storMasters d c.inst c.space

/-- The wait for it is counted where it is for merge tokens. -/
def bufferNote (c : StorCmd) (d : Dev) : Dev :=
  if c.space = 0 then noteWait (cmdLock d c) c.buffer (4096 * c.blocks) d else d

/-- Runs of blocks that the write buffer does not hold: first and count, from block k of n on. -/
def missingRuns (held : Nat → Bool) : Nat → Nat → List (Nat × Nat)
  | 0, _ => []
  | n + 1, k =>
    let rest := missingRuns held n (k + 1)
    if held k then rest
    else match rest with
      | (f, m) :: t => if f = k + 1 then (k, m + 1) :: t else (k, 1) :: rest
      | [] => [(k, 1)]

/-- A READ whose lock is held moves its blocks: the buffered ones now, the rest through back-end reads (R322). -/
def startRead (c : StorCmd) (d : Dev) : Dev :=
  if bufferReady d c = false then bufferNote c d
  else
    let v := d.volume c.volume
    let d0 := d
    let d := (List.range c.blocks).foldl (fun d k =>
      match bufferedBlock d0 c.volume (c.lba + k) with
      | some a =>
        let r := memRead c.operation a 4096 d
        toBuffer c (4096 * k) r.1.1 r.1.2 (if r.1.2 then r.2.modCmd c.id fun c => { c with poison := true } else r.2)
      | none => d) d
    let runs := missingRuns (fun k => (bufferedBlock d0 c.volume (c.lba + k)).isSome) c.blocks 0
    let d := runs.foldl (fun d r => sendBack { op := 0, cmd := some c.id, first := r.1, blocks := r.2 } v (c.lba + r.1) [] d) d
    if runs = [] then d.finishCmd c.id fun c => { c with status := if c.poison then 3 else 0 }
    else d.modCmd c.id fun c => { c with phase := 5 }

/-- A DEALLOCATE whose lock is held reaches the back-end after the buffered writes that it overlaps. -/
def startDealloc (c : StorCmd) (d : Dev) : Dev :=
  if (bufferedOf d c.volume).any fun b => meets b.lba b.blocks c.lba c.blocks then d
  else sendBack { op := 3, cmd := some c.id, blocks := c.blocks } (d.volume c.volume) c.lba [] (d.modCmd c.id fun c => { c with phase := 5 })

/-- Go on with a command that has its lock. -/
def startLocked (id : Nat) (d : Dev) : Dev :=
  match d.storCmd id with
  | none => d
  | some c => if c.phase ≠ 2 then d
    else match c.opcode with
      | 1 => startRead c d
      | 4 => startDealloc c d
      | _ => retryReserve d

/-- A lock is granted. -/
def grantRange (id : Nat) (d : Dev) : Dev :=
  startLocked id ((d.modCmd id fun c => { c with phase := 2, locked := true, grant := d.storage.nextGrant }).modStorage fun s => { s with
    nextGrant := s.nextGrant + 1 })

/-- A command asks for its lock, or goes on once it has it. -/
def runCapsule (opcode id : Nat) (d : Dev) : Dev :=
  match d.storCmd id with
  | none => d
  | some c =>
    if c.opcode ≠ opcode then d
    else if c.phase = 2 then startLocked id d
    else if c.phase ≠ 0 then d
    else if lockBlocked d c ∨ tableBlocked d c then
      (d.modCmd id fun c => { c with phase := 1 }).modStorage fun s => { s with rangeWaits := satAdd (2 ^ 32 - 1) s.rangeWaits 1 }
    else grantRange id d

/-- A waiting lock is granted. -/
def rangeGrant (id : Nat) (d : Dev) : Dev :=
  match d.storCmd id with
  | none => d
  | some c => if c.phase = 1 ∧ lockBlocked d c = false ∧ tableBlocked d c = false then grantRange id d else d

/-- A command ends with a status; its lock is released unless it is a READ's, which goes with its record (R319). -/
def endCmd (id status : Nat) (d : Dev) : Dev :=
  d.finishCmd id fun c => { c with status := status, reserved := 0, locked := c.locked && decide (c.opcode = 1) }

/-- A FLUSH reaches the back-end once every buffered write that it covers is destaged (R321); it fails when one of them has been lost
(R327). -/
def runFlush (id : Nat) (d : Dev) : Dev :=
  match d.storCmd id with
  | none => d
  | some c =>
    if c.opcode ≠ 3 ∨ c.phase ≠ 0 ∨ d.storage.buffer.any (fun b => c.covers.contains b.id) then d
    else if c.status ≠ 0 then endCmd id c.status d
    else sendBack { op := 2, cmd := some id } (d.volume c.volume) 0 [] (d.modCmd id fun c => { c with phase := 5 })

/-- Poisoned write data (R239, R327): nothing of the WRITE is buffered or written. -/
def poisonWrite (c : StorCmd) (d : Dev) : Dev :=
  retryReserve (post 0x0E02 (storUnit (some c.inst)) c.operation (syn [(36, 2, c.inst), (38, 2, c.volume), (40, 8, c.cookie.toNat)])
    (endCmd c.id 3 (d.modCmd c.id fun c => { c with bytes := 0 })))

/-- The last segment has been buffered: the write buffer holds the WRITE (R321). -/
def bufferWrite (c : StorCmd) (d : Dev) : Dev :=
  let d := d.modStorage fun s => { s with buffer := s.buffer ++
    [{ id := c.id, volume := c.volume, lba := c.lba, blocks := c.blocks, addr := c.addr, fuaCmd := if c.fua then some c.id else none }] }
  if c.fua then d.modCmd c.id fun c => { c with phase := 4, reserved := 0, locked := false } else endCmd c.id 0 d

/-- A segment of a WRITE has been pulled whole: into the write buffer, or without one to the back-end (R320). -/
def endSegment (c : StorCmd) (bs : Bytes) (poison : Bool) (d : Dev) : Dev :=
  let off := 262144 * c.pulled
  let next (d : Dev) : Dev := d.modCmd c.id fun c => { c with pulled := c.pulled + 1, asked := 0, parts := [], bytes := c.bytes + bs.length }
  let last := decide (off + bs.length = 4096 * c.blocks)
  if c.reserved = 0 then
    if poison then
      if c.pulled = 0 then poisonWrite c d else d.modCmd c.id fun c => { c with poison := true, phase := 5 }
    else
      sendBack { op := 1, cmd := some c.id, first := off / 4096, blocks := bs.length / 4096, fua := c.fua } (d.volume c.volume) (c.lba + off / 4096) bs
        ((next d).modCmd c.id fun c => { c with phase := if last then 5 else 3 })
  else if poison then poisonWrite c d
  else if canWrite d (some (storLock c.half)) (c.addr + off) bs.length = false then noteWait (some (storLock c.half)) (c.addr + off) bs.length d
  else
    let d := engineWrite (some (storLock c.half)) c.operation (c.addr + off) bs false (next d)
    if last then bufferWrite c d else d

/-- The bytes of the segment in progress that a port has returned, in order, and whether some are poison; none while some are missing. -/
def segmentData (c : StorCmd) (n : Nat) : Option (Bytes × Bool) :=
  let ps := c.parts.mergeSort fun a b => decide (a.1 ≤ b.1)
  let bs := ps.flatMap fun p => p.2.1
  if bs.length = n then some (bs, ps.any fun p => p.2.2) else none

/-- A segment's transfer-ready (R320): exactly that segment is pulled, from device memory at once, from the other spaces by reads through
their port of at most `size` bytes each, the first with the tag given where it is free; it ends when its last bytes are there. -/
def transferReady (half id tag size : Nat) (d : Dev) : Dev :=
  match d.storCmd id with
  | none => d
  | some c =>
    let off := 262144 * c.pulled
    let n := min 262144 (4096 * c.blocks - off)
    if c.opcode ≠ 2 ∨ c.phase ≠ 3 ∨ storWithheld d half then d
    else
      let d := d.modCmd id fun c => { c with half := half }
      let c := { c with half := half }
      if c.space = 0 then
        let r := memRead c.operation (c.buffer + off) n d
        endSegment c r.1.1 r.1.2 r.2
      else match segmentData c n with
        | some r => endSegment c r.1 r.2 d
        | none =>
          if storMasters d c.inst c.space = false then d
          else
            let r := issueReads (spacePort d c.inst c.space) c.inst (c.buffer + off) n tag size (fun o => .pull id (off + o)) (n / 4096 + 2) c.asked d
            r.2.modCmd id fun c => { c with asked := r.1 }

/-- Bytes of a segment have come through a port. -/
def pullData (id off : Nat) (bs : Bytes) (poison : Bool) (d : Dev) : Dev :=
  match d.storCmd id with
  | none => d
  | some c =>
    if c.opcode = 2 ∧ c.phase = 3 ∧ 262144 * c.pulled ≤ off ∧ off < 262144 * (c.pulled + 1)
    then transferReady c.half id 0 4096 (d.modCmd id fun c => { c with parts := c.parts ++ [(off, bs, poison)] }) else d

/-- A read of a WRITE's data has timed out (R223): the WRITE fails, and nothing of it is buffered; R326 has no status for it (log entry
141). -/
def lostPull (id : Nat) (d : Dev) : Dev :=
  match d.storCmd id with
  | none => d
  | some c =>
    if c.opcode ≠ 2 ∨ c.phase ≠ 3 then d
    else if backOf d id = [] then retryReserve (endCmd id 6 d)
    else d.modCmd id fun c => { c with phase := 5, status := 6 }

/-- A buffered range is lost (R327); the command that waits for it fails, and so will the FLUSHes that cover it. -/
def destageLost (b : Buffered) (d : Dev) : Dev :=
  let d := d.modStorage fun s => { s with
    buffer := s.buffer.filter fun x => x.id ≠ b.id,
    cmds := s.cmds.map fun c => if c.covers.contains b.id then { c with status := 6 } else c }
  let d := match b.fuaCmd with | some id => endCmd id 6 d | none => d
  retryReserve (post 0x0E01 (storUnit (some (d.volume b.volume).inst)) 0 (syn [(32, 4, b.blocks), (36, 2, b.volume), (40, 8, b.lba)]) d)

/-- Destage a buffered write: after the overlapping ones buffered before it (R322). -/
def destage (id : Nat) (d : Dev) : Dev :=
  match d.storage.buffer.find? fun b => b.id = id with
  | none => d
  | some b =>
    let before := d.storage.buffer.takeWhile fun x => x.id ≠ id
    if b.destaging ∨ before.any (fun x => decide (x.volume = b.volume) && meets x.lba x.blocks b.lba b.blocks) then d
    else
      let r := memRead 0 b.addr (4096 * b.blocks) d
      if r.1.2 then destageLost b r.2
      else sendBack { op := 1, buffered := some id, blocks := b.blocks, fua := b.fuaCmd.isSome } (d.volume b.volume) b.lba r.1.1
        (r.2.modStorage fun s => { s with buffer := s.buffer.map fun x => if x.id = id then { x with destaging := true } else x })

/-- A command whose last back-end command has ended. -/
def settleBack (id : Nat) (d : Dev) : Dev :=
  match d.storCmd id with
  | none => d
  | some c =>
    if backOf d id ≠ [] then d
    else if c.phase = 8 then d.dropCmd id
    else if c.phase ≠ 5 then d
    else if c.opcode = 2 ∧ c.poison ∧ c.status = 0 then poisonWrite c d
    else endCmd id (if c.status ≠ 0 then c.status else if c.poison then 3 else 0) d

/-- A destage write has ended: its blocks are released, or lost. -/
def endDestage (id : Nat) (error : Bool) (d : Dev) : Dev :=
  match d.storage.buffer.find? fun b => b.id = id with
  | none => d
  | some b =>
    if error then destageLost b d
    else
      let d := d.modStorage fun s => { s with buffer := s.buffer.filter fun x => x.id ≠ id }
      retryReserve (match b.fuaCmd with | some c => endCmd c 0 d | none => d)

/-- A back-end command ends, with an error or with its data (R323); a read's data wait until the buffer can take them. -/
def endBack (b : BackCmd) (error : Bool) (data : Bytes) (d : Dev) : Dev :=
  let gone := d.modStorage fun s => { s with back := s.back.filter fun x => x.tag ≠ b.tag }
  match b.buffered, b.cmd with
  | some id, _ => endDestage id error gone
  | none, some id =>
    match d.storCmd id with
    | none => gone
    | some c =>
      if error then settleBack id (gone.modCmd id fun c => { c with status := if c.status = 0 then 6 else c.status })
      else if b.op = 0 ∧ c.phase = 5 then
        if bufferReady d c = false then bufferNote c d
        else settleBack id (toBuffer c (4096 * b.first) (fit (4096 * b.blocks) data) false gone)
      else settleBack id gone
  | none, none => gone

/-- Every command that a target or one of its connections holds fails (R323, R324), and those that waited for its queues go out. -/
def failTarget (target : Nat) (conn : Option Nat) (d : Dev) : Dev :=
  let fails (b : BackCmd) : Bool := decide (b.target = target ∧ b.waiting = none) && (conn.isNone || conn == some b.conn)
  pumpBack target ((d.storage.back.filter fails).foldl (fun d b => endBack b true [] d) d)

/-- A drive that fails its controller reset loses what is buffered for it. -/
def loseBuffered (target : Nat) (d : Dev) : Dev :=
  (d.storage.buffer.filter fun b => (d.volume b.volume).backend = target).foldl (fun d b => destageLost b d) d

/-- The 16 bytes of a completion record (R326): the phase bit is 1 in the first pass through the ring (log entry 54). -/
def storRecord (c : StorCmd) (x : StorQ) : Bytes :=
  leBytes 8 c.cookie.toNat ++ leBytes 4 c.bytes ++ leBytes 1 c.status ++ leBytes 1 (1 - x.records / 2 ^ x.n % 2) ++ leBytes 2 c.sqHead

/-- Write a command's record, in the order of completions in its ring (R326); then it is no longer outstanding. -/
def storComplete (id : Nat) (d : Dev) : Dev :=
  match d.storCmd id with
  | none => d
  | some c =>
    let x := d.storQ c.queue
    let a := x.cqBase + 16 * (x.records % 2 ^ x.n)
    let earlier (o : StorCmd) : Bool := decide (o.queue = c.queue ∧ o.phase = 6 ∧ (o.ended < c.ended ∨ (o.ended = c.ended ∧ o.id < id)))
    if c.phase ≠ 6 ∨ d.storage.cmds.any earlier then d
    else if x.state = 0 then d.dropCmd id
    else if x.space = 0 ∧ canWrite d (cmdLock d c) a 16 = false then noteWait (cmdLock d c) a 16 d
    else if storMasters d x.inst x.space = false then d
    else
      let d := (d.dropCmd id).modStorQ c.queue fun x => { x with records := x.records + 1 }
      let d := if x.space = 0 then engineWrite (cmdLock d c) c.operation a (storRecord c x) false d
        else writeTlp (homeOf d x.inst) x.inst a (storRecord c x) false false d
      if x.vector = 0xFFFF then d else raiseMsix x.inst x.vector d

/-- A drive's idle timer (R325). -/
def idleExpiry (n : Nat) (d : Dev) : Dev :=
  let x := d.drive n
  let quiet := d.uptime - x.lastCmd
  if x.state ≠ 1 ∨ (d.storage.back.any fun b => b.target = 8 + n) then d
  else if x.idle < 2 ∧ 0 < x.idle2 ∧ 62500 * x.idle2 ≤ quiet then (d.modDrive n fun x => { x with idle := 2 }).emit (.drivePower n 2)
  else if x.idle = 0 ∧ 0 < x.idle1 ∧ 1000 * x.idle1 ≤ quiet then d.modDrive n fun x => { x with idle := 1 }
  else d

/-- FLR, Bus Master Enable cleared or destruction (R327): commands without a transfer-ready are dropped without a record, partly pulled ones
abandoned; completed buffered writes stay to be destaged; a lock lasts until the back-end commands in flight end. A WRITE that has
been pulled whole is neither: it ends, with FUNCTION_STOPPED if it still waits to be durable (log entry 144). -/
def storStop (inst : Nat) (d : Dev) : Dev :=
  let mine (c : StorCmd) : Bool := decide (c.inst = inst)
  let whole (c : StorCmd) : Bool := decide (c.opcode = 2 ∧ (c.phase = 4 ∨ c.phase = 6))
  let keep (c : StorCmd) : Bool := whole c || (backOf d c.id).length != 0
  let d := (d.storage.cmds.filter fun c => mine c && decide (c.opcode = 2 ∧ c.phase = 4)).foldl (fun d c => endCmd c.id 7 d) d
  retryReserve (d.modStorage fun s => { s with
    queues := s.queues.map fun e => (e.1, if e.2.inst = inst ∧ e.2.state = 1 then { e.2 with state := 2 } else e.2),
    buffer := s.buffer.map fun b => if s.cmds.any fun c => mine c && b.fuaCmd == some c.id then { b with fuaCmd := none } else b,
    cmds := (s.cmds.filter fun c => !mine c || keep c).map fun c =>
      if mine c && !whole c then { c with phase := 8, reserved := 0 } else c })

/-- The WRITE_BUFFER region has changed at a flip (R327): WRITEs of which nothing has been pulled reserve again in the new region, and what
lies outside it is destaged. -/
def moveBuffer (old new : Option Region) (d : Dev) : Dev :=
  if old = new then d
  else
    let outside (b : Buffered) : Bool := match new with
      | some g => !decide (g.base ≤ b.addr ∧ b.addr + 4096 * b.blocks ≤ g.base + g.size)
      | none => true
    let again (c : StorCmd) : StorCmd :=
      if c.opcode = 2 ∧ c.phase = 3 ∧ c.pulled = 0 ∧ c.asked = 0 ∧ 0 < c.reserved then { c with phase := 2, reserved := 0, addr := 0 } else c
    let d := retryReserve (d.modStorage fun s => { s with cmds := s.cmds.map again })
    (d.storage.buffer.filter outside).foldl (fun d b => destage b.id d) d

/-! ### The meanings -/

/-- STORAGE_DOORBELL (R314). -/
def execStorageDoorbell (inst : Fin 1024) (index : Nat) (value : Word) (s : State) : Host.Outcome State Fault Refusal :=
  onDev (fun d => match storAt d inst.val index with | some q => storTail q value d | none => d) s

/-- CAPSULE_FETCH (R317). -/
def execCapsuleFetch (half : Bool) (tag : Fin 16384) (s : State) : Host.Outcome State Fault Refusal :=
  onDev (capsuleFetch (b2n half) tag.val) s

/-- CAPSULE_READ (R321). -/
def execCapsuleRead (id : Nat) (s : State) : Host.Outcome State Fault Refusal := onDev (runCapsule 1 id) s

/-- CAPSULE_WRITE (R320). -/
def execCapsuleWrite (id : Nat) (s : State) : Host.Outcome State Fault Refusal := onDev (runCapsule 2 id) s

/-- CAPSULE_FLUSH (R321). -/
def execCapsuleFlush (id : Nat) (s : State) : Host.Outcome State Fault Refusal := onDev (runFlush id) s

/-- CAPSULE_DEALLOCATE (R316). -/
def execCapsuleDeallocate (id : Nat) (s : State) : Host.Outcome State Fault Refusal := onDev (runCapsule 4 id) s

/-- RANGE_LOCK_GRANT (R319). -/
def execRangeLockGrant (id : Nat) (s : State) : Host.Outcome State Fault Refusal := onDev (rangeGrant id) s

/-- TRANSFER_READY (R320). -/
def execTransferReady (half : Bool) (id : Nat) (tag : Fin 16384) (size : Fin 4097) (s : State) : Host.Outcome State Fault Refusal :=
  onDev (transferReady (b2n half) id tag.val size.val) s

/-- STORAGE_COMPLETION (R326). -/
def execStorageCompletion (id : Nat) (s : State) : Host.Outcome State Fault Refusal := onDev (storComplete id) s

/-- DESTAGE (R322). -/
def execDestage (id : Nat) (s : State) : Host.Outcome State Fault Refusal := onDev (destage id) s

/-- BACKEND_COMPLETION (R323). -/
def execBackendCompletion (tag : Nat) (error : Bool) (data : Bytes) (s : State) : Host.Outcome State Fault Refusal :=
  onDev (fun d => match d.storage.back.find? fun b => decide (b.tag = tag ∧ b.waiting = none) with | some b => pumpBack b.target (endBack b error data d) | none => d) s

/-- BACKEND_TIMEOUT (R323): a drive has not answered for 2 s; `resetOk`: it passes the controller reset that follows. -/
def execBackendTimeout (drive : Fin 4) (resetOk : Bool) (s : State) : Host.Outcome State Fault Refusal :=
  onDev (fun d =>
    if (d.storage.back.any fun b => decide (b.target = 8 + drive.val ∧ b.waiting = none ∧ b.since + 2000000000 ≤ d.uptime)) = false then d
    else
      let d := failTarget (8 + drive.val) none d
      let d := if resetOk then d else loseBuffered (8 + drive.val) (d.modDrive drive.val fun x => { x with state := 2 })
      post 0x0E00 (storUnit none) 0 (syn [(32, 1, 0), (33, 1, 8 + drive.val)]) d) s

/-- REMOTE_RECONNECT_TIMEOUT (R324): a connection has not come back within 2 s. -/
def execRemoteReconnectTimeout (conn : RemoteConn) (s : State) : Host.Outcome State Fault Refusal :=
  onDev (fun d =>
    let target := conn.target.val
    if (tget {} d.storage.remotes target).conns ≤ conn.conn.val then d
    else post 0x0E00 (storUnit none) 0 (syn [(32, 1, 1), (33, 1, target)]) (failTarget (16 + target) (some conn.conn.val) d)) s

/-- IDLE_TIMER_EXPIRY (R325). -/
def execIdleTimerExpiry (drive : Fin 4) (s : State) : Host.Outcome State Fault Refusal := onDev (idleExpiry drive.val) s

/-- A queue has commands outstanding. -/
def storBusy (d : Dev) (q : Nat) : Bool := d.storage.cmds.any fun c => c.queue = q

/-- The instance to which storage queue q belongs (R212). -/
def storOwner (d : Dev) (q : Nat) : Option Nat := (d.host.inst.find? fun e => e.2.storage.contains q).map (·.1)

/-- CMD_STORAGE_QUEUE_SET (R314, R329): the doorbell is one of the sender's. -/
def execCmdStorageQueueSet (c : Cmd) (doorbell : Nat) (set : StorSet) (s : State) : Host.Outcome State Fault Refusal :=
  onDev (mailbox c { vf := true, block := some 13 } fun d =>
    let i := if c.src.val < 1024 then c.src.val else 0
    match storAt d i doorbell with
    | none => (fail .invalid, d)
    | some q =>
      if storBusy d q then (fail .busy, d)
      else match set with
      | .unbind => (ok [], d.modStorQ q fun _ => {})
      | .bind sq cq space n vector =>
        if 2 ≤ space ∨ n < 4 ∨ 12 < n ∨ 65535 < vector then (fail .invalid, d)
        else if space = 0 ∧ (mayAddress d i sq (64 * 2 ^ n) && mayAddress d i cq (16 * 2 ^ n)) = false then (fail .addressUnmapped, d)
        else (ok [], d.modStorQ q fun _ => { state := 1, inst := i, space := space, sqBase := sq, cqBase := cq, n := n, vector := vector })) s

/-- A volume has outstanding commands or buffered writes. -/
def volumeBusy (d : Dev) (v : Nat) : Bool := (d.storage.cmds.any fun c => c.volume = v) || d.storage.buffer.any fun b => b.volume = v

/-- Back-end blocks of another volume overlap: those of one drive's namespace, or of one remote target, which has no namespace ID (R318). -/
def volumeMeets (d : Dev) (v : Nat) (x : Volume) : Bool :=
  d.storage.volumes.any fun e => decide (e.1 ≠ v ∧ e.2.bound = true ∧ e.2.backend = x.backend ∧ (16 ≤ x.backend ∨ e.2.nsid = x.nsid)) &&
    meets e.2.first e.2.count x.first x.count

/-- The back-end can be bound: a drive's namespace as R323 accepts it, or a remote target. -/
def bindable (d : Dev) (backend nsid : Nat) : Bool :=
  if 8 ≤ backend ∧ backend < 12 then (d.drive (backend - 8)).namespaces.contains nsid else decide (16 ≤ backend ∧ backend < 32)

/-- CMD_VOLUME_SET (R318); none: unbind. -/
def execCmdVolumeSet (c : Cmd) (volume : Nat) (bind : Option VolumeSet) (s : State) : Host.Outcome State Fault Refusal :=
  onDev (mailbox c {} fun d =>
    let old := d.volume volume
    if 4096 ≤ volume then (fail .invalid, d)
    else if old.bound ∧ mayName c.src.val old.inst d = false then (fail .notPermitted, d)
    else if volumeBusy d volume then (fail .busy, d)
    else match bind with
    | none => (ok [], d.modStorage fun s => { s with volumes := tset {} s.volumes volume {} })
    | some b =>
      let x : Volume := { bound := true, inst := b.inst, backend := b.backend, nsid := b.nsid, first := b.first, count := b.count }
      if 1024 ≤ b.inst ∨ bindable d b.backend b.nsid = false ∨ volumeMeets d volume x then (fail .invalid, d)
      else if mayName c.src.val b.inst d = false then (fail .notPermitted, d)
      else (ok [], d.modStorage fun s => { s with volumes := tset {} s.volumes volume x })) s

/-- CMD_VOLUME_STATUS (R321, R329): every volume has a volatile write cache. -/
def execCmdVolumeStatus (c : Cmd) (volume : Nat) (s : State) : Host.Outcome State Fault Refusal :=
  onDev (query c { vf := true, i3c := true } fun d =>
    let v := d.volume volume
    if 4096 ≤ volume then fail .invalid
    else if isVf c.src ∧ (v.bound = false ∨ v.inst ≠ c.src.val) then fail .notPermitted
    else ok [b2n v.bound, v.inst, v.backend, v.nsid, v.first, v.count, ((bufferedOf d volume).map (·.blocks)).sum, 1,
      if 8 ≤ v.backend ∧ v.backend < 12 then (d.drive (v.backend - 8)).exitLatency else 0]) s

/-- CMD_STORAGE_REMOTE_SET (R324); the default TCP port is 4420. -/
def execCmdStorageRemoteSet (c : Cmd) (target : Nat) (settings : RemoteSet) (s : State) : Host.Outcome State Fault Refusal :=
  onDev (mailbox c {} fun d =>
    let q := d.netQueue settings.egress
    if 16 ≤ target ∨ 65536 ≤ settings.tcpPort.getD 4420 ∨ settings.subNqn = [] ∨ 223 < settings.subNqn.length ∨ settings.hostNqn = [] ∨
        223 < settings.hostNqn.length ∨ 8 ≤ settings.port ∨ 16384 ≤ settings.egress ∨ settings.conns = 0 ∨ 8 < settings.conns ∨
        q.bound = false ∨ 2 ≤ q.inst ∨ q.port ≠ settings.port then (fail .invalid, d)
    else
      let r : Remote := {
        ip := settings.ip, tcpPort := settings.tcpPort.getD 4420, subNqn := settings.subNqn, hostNqn := settings.hostNqn, port := settings.port,
        egress := settings.egress, conns := settings.conns }
      (ok [], pumpBack (16 + target) (d.modStorage fun s => { s with remotes := tset {} s.remotes target r }))) s

/-- Set a drive's idle timers: idle1 in µs, idle2 in units of 62.5 µs (R325). -/
def setIdle (n idle1 idle2 : Nat) (d : Dev) : Dev := d.modDrive n fun x => { x with idle1 := idle1, idle2 := idle2 }

/-- CMD_STORAGE_IDLE_SET (R325): idle1 in µs, idle2 in ms. -/
def execCmdStorageIdleSet (c : Cmd) (drive idle1 idle2 : Nat) (s : State) : Host.Outcome State Fault Refusal :=
  onDev (mailbox c { block := some 13 } fun d =>
    if drive < 8 ∨ 12 ≤ drive ∨ 2 ^ 24 ≤ idle1 ∨ 2 ^ 24 ≤ 16 * idle2 then (fail .invalid, d)
    else (ok [], setIdle (drive - 8) idle1 (16 * idle2) d)) s

end Sys2Proof.Machine
end

