-- ==== Sys2Proof/Machine/Host.lean ====
section
/-! DEFINITION. Host endpoints and virtual instances (chapter 9): creation and destruction, function level reset, Bus Master
Enable, windows, completions and their time-outs, configuration requests. -/

namespace Sys2Proof.Machine

/-- The state of an instance (R214): instances 0 and 1 are always in state 2. -/
def instState (d : Dev) (i : Nat) : Nat := if i < 2 then 2 else (d.inst i).state

/-! ### The status page (R206) -/

/-- The 48 bytes of an instance's status page. -/
def statusPage (d : Dev) (i : Nat) : Bytes :=
  let x := d.inst i
  let q := x.desc.getD {}
  leBytes 2 i ++ leBytes 2 x.gen.toNat ++ leBytes 1 (instState d i) ++ leBytes 1 (homeOf d i) ++ [0, 0] ++
    leBytes 2 0 ++ leBytes 2 x.dma.length ++ leBytes 2 x.dma.length ++ leBytes 2 x.storage.length ++
    leBytes 2 (x.dma.length + x.storage.length) ++ leBytes 2 x.tx.length ++ leBytes 4 q.connections ++ leBytes 4 q.moorings ++
    leBytes 2 q.egress ++ [0, 0] ++ leBytes 8 x.late ++ leBytes 8 x.badDoorbells

/-- Doorbells that an instance has. -/
def doorbells (d : Dev) (i : Nat) : Nat := (d.inst i).dma.length + (d.inst i).storage.length + (d.inst i).tx.length

/-! ### Resources (R207, R215, R216) -/

/-- The n lowest members of a pool that are free. -/
def takeFree (pool n : Nat) (taken : List Nat) : List Nat := ((List.range pool).filter fun k => !taken.contains k).take n

/-- Take an instance's physical resources up to the quotas of its descriptor and assign its doorbells (R215 steps 2 and 3). -/
def takeResources (i : Nat) (q : InstDesc) (d : Dev) : Dev :=
  let h := d.host
  let dma := takeFree 256 q.dma h.dmaTaken
  let stor := takeFree 4096 q.storage h.storageTaken
  let tx := takeFree 8192 q.tx h.txTaken
  let eg := takeFree 16384 q.egress h.egressTaken
  let d := d.modHost fun h => { h with
    dmaTaken := h.dmaTaken ++ dma, storageTaken := h.storageTaken ++ stor, txTaken := h.txTaken ++ tx, egressTaken := h.egressTaken ++ eg }
  let d := d.modInst i fun x => { x with dma := dma, storage := stor, tx := tx, egress := eg }
  dma.foldl (fun d c => d.modDma c fun _ => { state := 1, inst := i }) d

/-- Return an instance's resources to the pools (R216 step 4): its closed connections are free again, and its moorings and counters went
when it stopped (R289). -/
def returnResources (i : Nat) (d : Dev) : Dev :=
  let x := d.inst i
  let d := x.dma.foldl (fun d c => d.modDma c fun _ => {}) d
  let d := (x.storage.foldl (fun d q => d.modStorQ q fun _ => {}) d)
  let d := (x.tx.foldl (fun d q => d.modSendQ q fun _ => {}) d)
  let d := d.modTp fun t => { t with conns := t.conns.filter fun e => e.2.inst ≠ i }
  let d := d.modHost fun h => { h with
    dmaTaken := h.dmaTaken.filter fun k => !x.dma.contains k, storageTaken := h.storageTaken.filter fun k => !x.storage.contains k,
    txTaken := h.txTaken.filter fun k => !x.tx.contains k, egressTaken := h.egressTaken.filter fun k => !x.egress.contains k }
  d.modInst i fun x => { x with dma := [], storage := [], tx := [], egress := [] }

/-! ### Stopping an instance (R224, R226) -/

/-- The instance issues no new request: its DMA channels stop, its transport and storage work ends. An FLR and a destruction discard `all`
the frames of its queues (R269). -/
def stopRequests (v : Vault) (i : Nat) (all : Bool) (d : Dev) : Dev :=
  storStop i (tpStop v i (netStop i all ((d.inst i).dma.foldl (fun d c => dmaBeginStop c d) d)))

/-- Doorbells, queue state, MSI-X table and PBA and the instance's counts are reset (R226 step 4). -/
def resetQueues (i : Nat) (d : Dev) : Dev :=
  let x := d.inst i
  let d := x.dma.foldl (fun d c => d.modDma c fun _ => { state := 1, inst := i }) d
  let d := x.storage.foldl (fun d q => d.modStorQ q fun _ => {}) d
  let d := x.tx.foldl (fun d q => d.modSendQ q fun _ => {}) d
  (netUnbind i d).modInst i fun x => { x with
    msixTable := [], msixPending := [], msixEnable := false, msixMask := false, late := 0, badDoorbells := 0 }

/-- The sluice of an instance has ended and its channels have stopped. -/
def quiet (d : Dev) (i : Nat) : Bool :=
  !(d.locks.sluices.any fun s => s.inst == some i) && !((d.inst i).dma.any fun c => (d.dmaCh c).stopping || (d.dmaCh c).disabling)

/-- Bus Master Enable of an instance's function falls (R224); during an FLR the generation does not advance again (R228). -/
def busMasterOff (v : Vault) (i : Nat) (d : Dev) : Dev :=
  let x := d.inst i
  if x.bme then
    let d := d.modInst i fun x => { x with bme := false }
    if x.state = 3 then d else stopRequests v i false (advanceGen i d)
  else d

/-- Messages that wait in the pending array leave once nothing masks them. -/
def flushMsix (i : Nat) (d : Dev) : Dev :=
  let x := d.inst i
  x.msixPending.foldl (fun d vec => raiseMsix i vec d) (d.modInst i fun x => { x with msixPending := [] })

/-- Bus Master Enable rises: new requests are allowed, nothing restarts (R224). -/
def busMasterOn (i : Nat) (d : Dev) : Dev := flushMsix i (d.modInst i fun x => { x with bme := true })

/-- A VF FLR begins (R226); on a function in state 3 nothing further happens (R228), and a dormant VF's own configuration is
reset as PCI Express requires. -/
def vfFlr (v : Vault) (i : Nat) (d : Dev) : Dev :=
  let x := d.inst i
  if x.state = 2 then
    let d := advanceGen i (d.modInst i fun x => { x with state := 3, flr := true, bme := false, aerUnc := 0, aerCor := 0 })
    startSluice none (some i) false (stopRequests v i true d)
  else if x.state = 3 then d
  else d.modInst i fun x => { x with
    mse := false, bme := false, msixTable := [], msixPending := [], msixEnable := false, msixMask := false, aerUnc := 0, aerCor := 0 }

/-- A VF FLR ends. -/
def vfFlrEnd (i : Nat) (d : Dev) : Dev :=
  if (d.inst i).state = 3 ∧ (d.inst i).flr ∧ quiet d i then (resetQueues i d).modInst i fun x => { x with state := 2, flr := false } else d

/-- Every PF window entry tagged with an instance becomes invalid (R216 step 3). -/
def dropWindows (i : Nat) (d : Dev) : Dev :=
  let keep (e : Nat × Window) : Bool := decide (Window.tag e.2 ≠ i)
  (d.modEp 0 fun x => { x with windows := x.windows.filter keep }).modEp 1 fun x => { x with windows := x.windows.filter keep }

/-- Destruction begins (R216); a VF FLR in progress is absorbed (R228). -/
def beginDestroy (v : Vault) (i : Nat) (sender : Option (Nat × W32)) (d : Dev) : Dev :=
  let d := advanceGen i (d.modInst i fun x => { x with state := 3, flr := false, bme := false, destroySender := sender })
  dropWindows i (startSluice none (some i) false (stopRequests v i true d))

/-- Destruction ends: resources return to the pools, and the instance is declared, or undeclared when no descriptor names it. -/
def endDestroy (i : Nat) (d : Dev) : Dev :=
  let x := d.inst i
  if x.state = 3 ∧ x.flr = false ∧ quiet d i then
    let d := (returnResources i (resetQueues i d)).modInst i fun x => { x with state := if x.desc.isSome then 1 else 0, destroySender := none }
    let d := rehome i (some x.homePf) (if x.desc.isSome then some x.homePf else none) d
    match x.destroySender with
    | some (src, seq) => finishLater src 0x0901 seq (ok []) d
    | none => d
  else d

/-- The created or resetting instances of a PF. -/
def pfInsts (d : Dev) (p : Nat) : List Nat :=
  (d.host.inst.filter fun e => decide (2 ≤ e.1 ∧ e.2.homePf = p) && (decide (e.2.state = 2) || (decide (e.2.state = 3) && e.2.flr))).map (·.1)

/-- VF Enable falls: every created instance of the PF is destroyed (R216), and the configuration of its dormant functions goes with the
functions. -/
def vfEnableOff (v : Vault) (p : Nat) (d : Dev) : Dev :=
  let d := (pfInsts d p).foldl (fun d i => beginDestroy v i none d) (d.modEp p fun e => { e with vfEnable := false, dormant := [] })
  d.modHost fun h => { h with inst := h.inst.map fun e =>
    (e.1, if 2 ≤ e.1 ∧ e.2.homePf = p ∧ e.2.state = 1 then { e.2 with
      mse := false, bme := false, msixEnable := false, msixMask := false, msixTable := [], msixPending := [], aerUnc := 0, aerCor := 0 }
    else e.2) }

/-- A PF FLR (R227): the PF's own queues are reset with it, VF Enable falls, its window table is invalidated, its hold of the
shared engine ends (R347). -/
def pfFlr (v : Vault) (p : Nat) (d : Dev) : Dev :=
  let d := advanceGen p (d.modInst p fun x => { x with bme := false, mse := false, d3 := false, aerUnc := 0, aerCor := 0 })
  let d := startSluice none (some p) false (stopRequests v p true d)
  let d := (d.inst p).dma.foldl (fun d c => dmaStopped c d) d
  dropLock p <| vfEnableOff v p ((resetQueues p d).modEp p fun e => { e with windows := [] })

/-! ### Creation (R215) -/

/-- The lowest declared instance of a PF. -/
def lowestDeclared (d : Dev) (p : Nat) : Option Nat :=
  (d.host.inst.find? fun e => decide (2 ≤ e.1 ∧ e.2.homePf = p ∧ e.2.state = 1)).map (·.1)

/-- Bring a declared instance to state 2. -/
def create (i : Nat) (d : Dev) : Dev :=
  let d := advanceGen i d
  let d := takeResources i ((d.inst i).desc.getD {}) d
  d.modInst i fun x => { x with windows := [], late := 0, lateTotal := 0, ur := 0, badDoorbells := 0, state := 2 }

/-! ### Windows (R208–R211) -/

/-- The old entry of a window. -/
def windowAt (d : Dev) (p : Nat) : WinSel → Window
  | .pf n => tget 0 (d.ep p).windows n
  | .vf i n => tget 0 (d.inst i).windows n

/-- Store an entry. -/
def setWindow (p : Nat) (sel : WinSel) (w : Window) (d : Dev) : Dev :=
  match sel with
  | .pf n => d.modEp p fun e => { e with windows := tset 0 e.windows n w }
  | .vf i n => d.modInst i fun x => { x with windows := tset 0 x.windows n w }

/-- Requests in the chambers of an endpoint that an entry has translated: those of its instance inside its range. -/
def translated (d : Dev) (p inst : Nat) (w : Window) : List Waiting :=
  if Window.valid w then
    ((d.lock (epLock p false)).queue ++ (d.lock (epLock p true)).queue).filter fun q =>
      decide (q.inst = inst) && meets q.addr q.length (Window.device w) (2 ^ Window.sizeLog2 w)
  else []

/-- Why CMD_WINDOW_SET refuses an entry (R210). -/
def windowRefused (d : Dev) (p : Nat) (sel : WinSel) (w : Window) : Option MStatus :=
  match sel with
  | .pf n =>
    if 1024 ≤ n ∨ badWindow true w ∨ overlaps (d.ep p).windows n w ∨ createdThrough (Window.tag w) p d = false
    then some .invalid else none
  | .vf i n =>
    if 1024 ≤ i ∨ i < 2 ∨ 16 ≤ n then some .invalid
    else if (d.inst i).state = 3 then some .busy
    else if (d.inst i).state ≠ 2 ∨ (d.inst i).homePf ≠ p then some .invalid
    else if badWindow false w ∨ inGrant d i (Window.device w) (2 ^ Window.sizeLog2 w) = false then some .invalid else none

/-- The PF for which a window command acts: the sender's, or that of the instance it names (R215). -/
def windowPf (src : Nat) (sel : WinSel) (d : Dev) : Nat :=
  actingPf src (match sel with | .pf _ => none | .vf i _ => some i) d

/-- Set a window; none: it completes when the barges of the old entry are gone. -/
def windowSet (c : Cmd) (sel : WinSel) (w : Window) (d : Dev) : Option Reply × Dev :=
  let p := windowPf c.src.val sel d
  match windowRefused d p sel w with
  | some st => (some (fail st), d)
  | none =>
    let old := windowAt d p sel
    let inst := match sel with | .pf _ => Window.tag old | .vf i _ => i
    let waits := translated d p inst old
    let flying := d.canal.flights.any fun f => decide (f.barge.inst.toNat = inst)
    let d := setWindow p sel w d
    if Window.valid old = false ∨ (waits = [] ∧ flying = false) then (some (ok []), d)
    else (none, d.modHost fun h => { h with waits := h.waits ++
      [{ src := c.src.val, sequence := c.seq, ids := waits.map (·.id), inst := inst,
         routes := (d.lock (epLock p false)).routeMap.map (·.2) ++ (d.lock (epLock p true)).routeMap.map (·.2) }] })

/-- Barges translated by the old entry are in no chamber and on no link. -/
def windowDrained (d : Dev) (w : WindowWait) : Bool :=
  !(d.locks.tab.any fun e => e.2.queue.any fun q => w.ids.contains q.id) &&
    !(d.canal.flights.any fun f => decide (f.barge.inst.toNat = w.inst) && w.routes.contains f.barge.route.toNat) &&
    !(d.canal.deliveries.any fun f => decide (f.barge.inst.toNat = w.inst) && w.routes.contains f.barge.route.toNat)

/-! ### Completions (R223, R225) -/

/-- A completion of another generation is discarded and counted (R225). -/
def discardLate (inst : Nat) (d : Dev) : Dev :=
  (d.modInst inst fun x => { x with late := satAdd (2 ^ 64 - 1) x.late 1, lateTotal := satAdd (2 ^ 32 - 1) x.lateTotal 1 }).seen 8 0 2

/-- HOST_POISONED_TLP (R229), which AER of the function shows as well. -/
def hostPoison (ep kind inst addr : Nat) (d : Dev) : Dev :=
  aerSet inst aerPoison (post 0x0902 (unitBlock (4 + ep) 8 ep) 0 (syn [(32, 1, ep), (33, 1, kind), (36, 2, inst), (40, 8, addr)]) d)

/-- What a read has returned goes to the work that waits for it. -/
def giveWork (u : TagUse) (bs : Bytes) (poison : Bool) (d : Dev) : Dev :=
  match u with
  | .data c n off => dmaData c n off bs poison d
  | .flush c n => dmaFlushed c n d
  | .descriptor c n => dmaFetched c n (some (bs, poison)) d
  | .capsule id => fillCapsule id bs poison d
  | .pull id off => pullData id off bs poison d

/-- The work that issued a request whose completion timeout has expired fails (R223, R247). -/
def failWork (u : TagUse) (d : Dev) : Dev :=
  match u with
  | .data c n _ => dmaTimeout c n d
  | .flush c n => dmaTimeout c n d
  | .descriptor c n => dmaFetched c n none d
  | .capsule id => lostCapsule id d
  | .pull id _ => lostPull id d

/-- A completion for a request that the device issued through a port (0–1 endpoint, 2–13 root port 0–11). -/
def completionReceived (port tag : Nat) (data : Bytes) (poison : Bool) (d : Dev) : Dev :=
  match d.host.tags.find? fun t => decide (t.port = port ∧ t.tag = tag) with
  | none => d
  | some t =>
    let d := freeTag port tag d
    if t.gen ≠ (d.inst t.inst).gen then discardLate t.inst d
    else
      let d := if poison then (if port < 2 then hostPoison port 1 t.inst t.addr d else portAer (port - 2) aerPoison d) else d
      giveWork t.work (inRequest t data) poison d

/-- A completion timeout has expired: the tag is freed; for a current generation `report` is made and the work fails (R223). -/
def completionTimeout (port tag limit : Nat) (report : Tag → Dev → Dev) (d : Dev) : Dev :=
  match (portTags d port).find? fun t => t.tag = tag with
  | none => d
  | some t =>
    if limit = 0 ∨ d.uptime < t.since + limit then d
    else
      let d := freeTag port tag d
      if t.gen ≠ (d.inst t.inst).gen then d else failWork t.work (report t d)

/-! ### Host reads answered (R176, R221) -/

/-- The port (0–1 endpoint, 2–13 root port) that a lock's output serves. -/
def portOfLock (l : Nat) : Option Nat :=
  if l = 32 ∨ l = 33 then some 0 else if l = 96 ∨ l = 97 then some 1
  else (List.range 12).findSome? fun p => if portLock p false = l ∨ portLock p true = l then some (2 + p) else none

/-- Send what a read's data has reached, up to its last 64-byte boundary unless it is the last of it (R221): the read as it stands then,
and the device. -/
def sendCompletions (r : HostRead) (bs : Bytes) (poison : Bool) (d : Dev) : HostRead × Dev :=
  let a := r.addr + r.sent
  let all := r.held ++ bs
  let bad := (if r.heldPoison then [(0, r.held.length)] else []) ++ (if poison then [(r.held.length, bs.length)] else [])
  let n := if r.length ≤ r.sent + all.length then all.length else (a + all.length) / 64 * 64 - a
  ({ r with sent := r.sent + n, held := all.drop n, heldPoison := bad.any fun b => meets n (all.length - n) b.1 b.2 },
   completeBytes r a (all.take n) bad d)

/-- A data barge that has reached a lock's port belongs to the oldest read of its route there. -/
def hostReadCompletion (l : Nat) (d : Dev) : Dev :=
  let key := unitKey (lockRouter l) (l % 64)
  match tget [] d.canal.inbox key with
  | [] => d
  | x :: rest =>
    let d := { d with canal := { d.canal with inbox := tset [] d.canal.inbox key rest } }
    match d.host.reads.find? fun r => decide (some r.port = portOfLock l ∧ r.route = x.barge.route.toNat) with
    | none => d
    | some r =>
      let u := sendCompletions r (x.barge.valid.take (r.length - r.sent - r.held.length)) (decide (x.barge.kind = 2)) d
      let left (q : HostRead) : HostRead := if q.id = r.id then u.1 else q
      u.2.modHost fun h => { h with reads := if r.length ≤ u.1.sent then h.reads.filter (·.id ≠ r.id) else h.reads.map left }

/-! ### Configuration requests (R202, R214) -/

/-- The dword that a function's configuration space shows: the fields of R202 where they are given, with a Type 0 header. -/
def configRead (d : Dev) (f : HostFn) (offset : Nat) : W32 :=
  let c := fnCfg d f
  match offset with
  | 0x00 => if f.vf = 0 then 0x09401E5D#32 else 0x09411E5D#32
  | 0x04 => BitVec.ofNat 32 (2 * b2n c.mse + 4 * b2n c.bme + 0x100000)
  | 0x08 => 0x12000000#32 ||| Config.stepping.setWidth 32
  | 0x0C => 0
  | 0x3C => 0
  | o => Config.configDword f.ep.val f.vf.val o

/-- A field of a function's capabilities (R202), as PCI Express encodes it; the SR-IOV and power management fields are a physical
function's, and read 0 in a virtual one. -/
def configField (d : Dev) (f : HostFn) (x : CfgField) : Nat :=
  let c := fnCfg d f
  let e := d.ep f.ep.val
  let pf (n : Nat) : Nat := if f.vf = 0 then n else 0
  match x with
  | .serialLow => Config.deviceSerial.toNat % 2 ^ 32
  | .serialHigh => Config.deviceSerial.toNat / 2 ^ 32
  | .totalVfs => pf 1022
  | .initialVfs => pf 1022
  | .numVfs => pf e.numVfs
  | .vfEnable => pf (b2n e.vfEnable)
  | .firstVfOffset => pf 1
  | .vfStride => pf 1
  | .vfDeviceId => pf 0x0941
  | .vfPageSizes => pf 1
  | .msixTableSize => if f.vf = 0 then 2047 else 15
  | .msixEnable => b2n c.msixEnable
  | .msixMask => b2n c.msixMask
  | .maxPayload => pf e.mps
  | .completionTimeout => pf e.timeout
  | .powerState => pf (3 * b2n (d.inst f.ep.val).d3)
  | .aerUncorrectable => c.aerUnc
  | .aerCorrectable => c.aerCor
  | .ecrcGeneration => pf (b2n e.ecrcGen)
  | .ecrcChecking => pf (b2n e.ecrcCheck)

/-- Set Memory Space Enable and Bus Master Enable of an instance's function. -/
def setCommand (v : Vault) (i : Nat) (mse bme : Bool) (d : Dev) : Dev :=
  let d := d.modInst i fun x => { x with mse := mse }
  if bme then (if (d.inst i).bme then d else busMasterOn i d) else busMasterOff v i d

/-- A completion timeout that a function may set, in ns: disabled, or in one of the subranges that PCI Express gives ranges B and C
(R202, log entry 141). -/
def timeoutGood (t : Nat) : Bool :=
  decide (t = 0 ∨ (16000000 ≤ t ∧ t ≤ 55000000) ∨ (65000000 ≤ t ∧ t ≤ 210000000) ∨ (260000000 ≤ t ∧ t ≤ 900000000) ∨
    (1000000000 ≤ t ∧ t ≤ 3500000000))

/-- What a configuration write does to an instance's function (R202, R214). -/
def configWrite (v : Vault) (i : Nat) (r : CfgReq) (d : Dev) : Dev :=
  match r with
  | .write o w => if o = 4 then setCommand v i (w.getLsbD 1) (w.getLsbD 2) d else d
  | .command mse bme => setCommand v i mse bme d
  | .msix enable mask => flushMsix i (d.modInst i fun x => { x with msixEnable := enable, msixMask := mask })
  | .device mps timeout =>
    if i < 2 then d.modEp i fun e => { e with
      mps := if [128, 256, 512].contains mps then mps else e.mps, timeout := if timeoutGood timeout then timeout else e.timeout } else d
  | .power d3 => if i < 2 then (d.modInst i fun x => { x with d3 := d3 }) else d
  | .aerClear u c => d.modInst i fun x => { x with aerUnc := clearBits x.aerUnc u.toNat, aerCor := clearBits x.aerCor c.toNat }
  | .ecrc generation checking => if i < 2 then d.modEp i fun e => { e with ecrcGen := generation, ecrcCheck := checking } else d
  | _ => d

/-- What a configuration write does to a dormant function: its own bits change, and nothing else does (R214). -/
def dormantWrite (r : CfgReq) (c : DormantCfg) : DormantCfg :=
  match r with
  | .write o w => if o = 4 then { c with mse := w.getLsbD 1, bme := w.getLsbD 2 } else c
  | .command mse bme => { c with mse := mse, bme := bme }
  | .msix enable mask => { c with msixEnable := enable, msixMask := mask }
  | .aerClear u k => { c with aerUnc := clearBits c.aerUnc u.toNat, aerCor := clearBits c.aerCor k.toNat }
  | _ => c

/-- A configuration request (R214): every one completes; writes to fields that PCI Express gives the function take effect. -/
def configRequest (v : Vault) (f : HostFn) (r : CfgReq) (d : Dev) : Dev :=
  let answer (w : W32) (d : Dev) : Dev := d.emit (.configCompletion f.ep.val f.vf.val w)
  match r with
  | .read o => answer (configRead d f o) d
  | .field x => answer (BitVec.ofNat 32 (configField d f x)) d
  | _ => answer 0 (match fnConfig d f with | some i => configWrite v i r d | none => d.modDormant f (dormantWrite r))

/-! ### The meanings -/

/-- HOST_READ_COMPLETION (R176, R221). -/
def execHostReadCompletion (lock : Fin 128) (s : State) : Host.Outcome State Fault Refusal := onDev (hostReadCompletion lock.val) s

/-- CONFIG_REQUEST (R214). -/
def execConfigRequest (fn : HostFn) (r : CfgReq) (s : State) : Host.Outcome State Fault Refusal := onDevV (fun v => configRequest v fn r) s

/-- COMPLETION_RECEIVED (R223, R225). -/
def execCompletionReceived (port : Fin 14) (tag : Nat) (data : Bytes) (poison : Bool) (s : State) : Host.Outcome State Fault Refusal :=
  onDev (completionReceived port.val tag data poison) s

/-- HOST_COMPLETION_TIMEOUT (R223, R229): reported by AER and by a record. -/
def execHostCompletionTimeout (ep : Fin 2) (tag : Nat) (s : State) : Host.Outcome State Fault Refusal :=
  onDev (fun d => completionTimeout ep.val tag (d.ep ep.val).timeout (fun t d =>
    aerSet t.inst aerTimeout (post 0x0901 (unitBlock (4 + ep.val) 8 ep.val) 0
      (syn [(32, 1, ep.val), (34, 2, tag), (36, 2, t.inst), (40, 8, t.addr)]) d)) d) s

/-- PORT_COMPLETION_TIMEOUT (R223, R247, R248): 50 ms after its request. -/
def execPortCompletionTimeout (port : Fin 12) (tag : Nat) (s : State) : Host.Outcome State Fault Refusal :=
  onDev (completionTimeout (2 + port.val) tag 50000000 fun t d =>
    post 0x0A01 (portUnit port.val) 0 (syn [(32, 1, port.val), (34, 2, tag), (36, 2, t.inst), (40, 8, t.addr)])
      (portAer port.val aerTimeout (d.modPort port.val fun p => { p with timeouts := satAdd (2 ^ 24 - 1) p.timeouts 1 }))) s

/-- BUS_MASTER_DISABLE (R224). -/
def execBusMasterDisable (fn : HostFn) (s : State) : Host.Outcome State Fault Refusal :=
  onDevV (fun v d => match fnConfig d fn with | some i => busMasterOff v i d | none => d.modDormant fn fun c => { c with bme := false }) s

/-- BUS_MASTER_ENABLE (R224). -/
def execBusMasterEnable (fn : HostFn) (s : State) : Host.Outcome State Fault Refusal :=
  onDev (fun d => match fnConfig d fn with
    | some i => if (d.inst i).bme then d else busMasterOn i d
    | none => d.modDormant fn fun c => { c with bme := true }) s

/-- VF_FLR (R226); a dormant function's own configuration is reset (R214). -/
def execVfFlr (fn : HostFn) (s : State) : Host.Outcome State Fault Refusal :=
  onDevV (fun v d => match fnConfig d fn with
    | some i => if i < 2 then d else vfFlr v i d
    | none => d.modDormant fn fun _ => {}) s

/-- VF_FLR_COMPLETE (R226). -/
def execVfFlrComplete (inst : Fin 1024) (s : State) : Host.Outcome State Fault Refusal := onDev (vfFlrEnd inst.val) s

/-- PF_FLR (R227). -/
def execPfFlr (ep : Fin 2) (s : State) : Host.Outcome State Fault Refusal := onDevV (fun v => pfFlr v ep.val) s

/-- VF_ENABLE_CLEAR (R216). -/
def execVfEnableClear (ep : Fin 2) (s : State) : Host.Outcome State Fault Refusal := onDevV (fun v => vfEnableOff v ep.val) s

/-- VF_ENABLE_SET (R202, R426): ignored until full service. -/
def execVfEnableSet (ep : Fin 2) (numVfs : Nat) (s : State) : Host.Outcome State Fault Refusal :=
  onDev (fun d => if d.power.state ≠ .full ∨ 1022 < numVfs then d
    else d.modEp ep.val fun e => { e with vfEnable := true, numVfs := numVfs }) s

/-- An endpoint's link goes down, or is hot reset (R227): as a FLR of its PF, with HOST_LINK_DOWN. -/
def hostLinkDown (v : Vault) (ep : Nat) (hot : Bool) (d : Dev) : Dev :=
  let d := pfFlr v ep (d.modEp ep fun e => if hot then e else { e with up := false, speed := 0, width := 0, flit := false })
  post 0x0900 (unitBlock (4 + ep) 8 ep) 0 (syn [(32, 1, ep), (33, 1, b2n hot)]) d

/-- HOST_LINK_DOWN (R227): `hot` for a hot reset, after which the link stays trained. -/
def execHostLinkDown (ep : Fin 2) (hot : Bool) (s : State) : Host.Outcome State Fault Refusal :=
  onDevV (fun v => hostLinkDown v ep.val hot) s

/-- ENDPOINT_PERST (R427): PERST# resets the endpoint's PF; when it is released the link trains with a speed code and a width. -/
def execEndpointPerst (ep : Fin 2) (speed width : Nat) (s : State) : Host.Outcome State Fault Refusal :=
  onDevV (fun v d =>
    (pfFlr v ep.val d).modEp ep.val fun e =>
      let good := decide (1 ≤ speed ∧ speed ≤ 6) && ([4, 8, 16] : List Nat).contains width
      { e with up := good, speed := if good then speed else 0, width := if good then width else 0, flit := good && decide (speed = 6) }) s

/-- A doorbell write beyond an instance's doorbells (R206). -/
def badDoorbell (i index : Nat) (d : Dev) : Dev :=
  if doorbells d i ≤ index then d.modInst i fun x => { x with badDoorbells := satAdd (2 ^ 64 - 1) x.badDoorbells 1 } else d

/-- BAD_DOORBELL_WRITE (R206). -/
def execBadDoorbellWrite (inst : Fin 1024) (index : Nat) (s : State) : Host.Outcome State Fault Refusal :=
  onDev (badDoorbell inst.val index) s

/-- CMD_INSTANCE_CREATE (R215). -/
def execCmdInstanceCreate (c : Cmd) (inst : Nat) (s : State) : Host.Outcome State Fault Refusal :=
  onDev (mailbox c { block := some 8, also := createBlocks } fun d =>
    let p := actingPf c.src.val (if inst = 0xFFFF then none else some inst) d
    match (if inst = 0xFFFF then lowestDeclared d p else some inst) with
    | none => (fail .invalid, d)
    | some i =>
      if 1024 ≤ i ∨ i < 2 then (fail .invalid, d)
      else if (d.inst i).state = 3 then (fail .busy, d)
      else if (d.inst i).state ≠ 1 ∨ (d.inst i).homePf ≠ p ∨ (d.ep p).vfEnable = false ∨ (d.ep p).numVfs < i - 1 then (fail .invalid, d)
      else
        let e := create i d
        ({ status := .ok, result := words [i, (e.inst i).gen.toNat] ++ statusPage e i }, e)) s

/-- CMD_INSTANCE_DESTROY (R216). -/
def execCmdInstanceDestroy (c : Cmd) (inst : Nat) (s : State) : Host.Outcome State Fault Refusal :=
  onDevV (fun v => mailboxLater c { block := some 8, also := destroyBlocks } fun d =>
    if 1024 ≤ inst ∨ inst < 2 then (some (fail .invalid), d)
    else if (d.inst inst).state = 3 then (some (fail .busy), d)
    else if (d.inst inst).state ≠ 2 ∨ mayName c.src.val inst d = false then (some (fail .invalid), d)
    else (none, beginDestroy v inst (some (c.src.val, c.seq)) d)) s

/-- INSTANCE_DESTROY_COMPLETE (R216). -/
def execInstanceDestroyComplete (inst : Fin 1024) (s : State) : Host.Outcome State Fault Refusal := onDev (endDestroy inst.val) s

/-- CMD_INSTANCE_STATUS (R230). -/
def execCmdInstanceStatus (c : Cmd) (inst : Nat) (s : State) : Host.Outcome State Fault Refusal :=
  onDev (query c { vf := true, i3c := true } fun d =>
    if isVf c.src ∧ inst ≠ c.src.val then fail .notPermitted
    else if 1024 ≤ inst then fail .invalid
    else { status := .ok, result := words [instState d inst, (d.inst inst).gen.toNat] ++ statusPage d inst ++
             words [(d.inst inst).lateTotal, (d.inst inst).ur] }) s

/-- CMD_WINDOW_SET (R210, R211). -/
def execCmdWindowSet (c : Cmd) (sel : WinSel) (value : BitVec 256) (s : State) : Host.Outcome State Fault Refusal :=
  onDev (mailboxLater c { block := some 8 } (windowSet c sel value)) s

/-- WINDOW_SET_COMPLETE (R211). -/
def execWindowSetComplete (index : Nat) (s : State) : Host.Outcome State Fault Refusal :=
  onDev (fun d =>
    match d.host.waits[index]? with
    | none => d
    | some w =>
      if windowDrained d w then finishLater w.src 0x0903 w.sequence (ok []) (d.modHost fun h => { h with waits := h.waits.eraseIdx index })
      else d) s

/-- CMD_WINDOW_READ (R230). -/
def execCmdWindowRead (c : Cmd) (sel : WinSel) (s : State) : Host.Outcome State Fault Refusal :=
  onDev (query c { i3c := true } fun d =>
    let bad : Bool := match sel with | .pf n => decide (1024 ≤ n) | .vf i n => decide (i < 2 ∨ 1024 ≤ i ∨ 16 ≤ n)
    if bad then fail .invalid
    else { status := .ok, result := leBytes 32 (windowAt d (windowPf c.src.val sel d) sel).toNat }) s

/-- CMD_HOST_STATUS (R230). -/
def execCmdHostStatus (c : Cmd) (endpoint : Nat) (s : State) : Host.Outcome State Fault Refusal :=
  onDev (query c { i3c := true } fun d =>
    let e := d.ep endpoint
    if 2 ≤ endpoint then fail .invalid
    else ok [b2n e.up, e.speed, e.width, b2n e.flit, b2n e.vfEnable, e.numVfs, (portTags d endpoint).length,
      (d.inst endpoint).lateTotal, (d.inst endpoint).ur]) s

end Sys2Proof.Machine
end

