-- ==== Sys2Proof/Machine/Float.lean ====
section
/-! DEFINITION. Arithmetic bit for bit (chapter 6) and the levelled conversions (chapter 7). Finite values are exact: an
integer times a power of two; each op rounds once. -/

namespace Sys2Proof.Machine

/-! ### Exact values -/

/-- A number as the formats carry it: finite values are (−1)^neg × m × 2^e, so that zero keeps its sign. -/
inductive Fp where
  | nan
  | inf (neg : Bool)
  | fin (neg : Bool) (m : Nat) (e : Int)
  deriving DecidableEq, Repr

/-- A floating format of R130: mantissa and exponent bits, bias, code of the largest finite value, infinity, canonical
NaN. -/
structure Format where
  mbits : Nat
  ebits : Nat
  bias : Int
  largest : Nat
  inf : Option Nat
  nan : Option Nat
  deriving DecidableEq, Repr

def fp32 : Format := { mbits := 23, ebits := 8, bias := 127, largest := 0x7F7FFFFF, inf := some 0x7F800000, nan := some 0x7FC00000 }
def bf16 : Format := { mbits := 7, ebits := 8, bias := 127, largest := 0x7F7F, inf := some 0x7F80, nan := some 0x7FC0 }
def e4m3 : Format := { mbits := 3, ebits := 4, bias := 7, largest := 0x7E, inf := none, nan := some 0x7F }
def e5m2 : Format := { mbits := 2, ebits := 5, bias := 15, largest := 0x7B, inf := some 0x7C, nan := some 0x7E }
def fp4 : Format := { mbits := 1, ebits := 2, bias := 1, largest := 0x7, inf := none, nan := none }

/-- The format of a floating fmt code (R113). -/
def formatOf : Nat → Format
  | 0 => fp32
  | 1 => bf16
  | 2 => e4m3
  | 3 => e5m2
  | _ => fp4

/-- Number of bits of a code without its sign. -/
def Format.width (f : Format) : Nat := f.mbits + f.ebits

/-- Decode a code of the format (R130). A magnitude above the largest finite value is infinity or NaN. -/
def Format.decode (f : Format) (w : Nat) : Fp :=
  let neg := bit w f.width
  let mag := w % 2 ^ f.width
  if f.largest < mag then (if f.inf = some mag then .inf neg else .nan)
  else
    let e := mag / 2 ^ f.mbits
    let m := mag % 2 ^ f.mbits
    if e = 0 then .fin neg m (1 - f.bias - f.mbits) else .fin neg (2 ^ f.mbits + m) ((e : Int) - f.bias - f.mbits)

/-- A code with its sign bit. -/
def Format.signed (f : Format) (neg : Bool) (mag : Nat) : Nat := mag + b2n neg * 2 ^ f.width

/-- The canonical NaN of the format; FP4 stores +0 (R137, R140). -/
def Format.nanCode (f : Format) : Nat := f.nan.getD 0

/-- An infinity in the format: the largest finite value where it has none (R140). -/
def Format.infCode (f : Format) (neg : Bool) : Nat := f.signed neg (f.inf.getD f.largest)

/-- Round a non-zero magnitude m × 2^e into the format (R134): mode 0 nearest even, 1 truncation, 2 stochastic with random
word R (R135). -/
def Format.round (f : Format) (mode : Nat) (R : W32) (neg : Bool) (m : Nat) (e : Int) : Nat :=
  let emin : Int := 1 - f.bias
  let eff : Int := max ((Nat.log2 m : Int) + e) emin
  let q : Int := eff - f.mbits
  let sh : Nat := (q - e).toNat
  let t : Nat := if q ≤ e then m * 2 ^ (e - q).toNat else m / 2 ^ sh
  let rem : Nat := if q ≤ e then 0 else m % 2 ^ sh
  let d : Nat := if sh ≤ 32 then rem * 2 ^ (32 - sh) else rem / 2 ^ (sh - 32)
  let up : Bool :=
    if mode = 0 then decide (2 ^ sh < 2 * rem) || (decide (2 * rem = 2 ^ sh ∧ rem ≠ 0) && decide (t % 2 = 1))
    else if mode = 1 then false
    else decide (R.toNat < d)
  let code : Nat := ((eff + f.bias - 1).toNat) * 2 ^ f.mbits + (t + b2n up)
  if code ≤ f.largest then f.signed neg code
  else if mode = 1 then f.signed neg f.largest
  else f.infCode neg

/-- An exact value in the format. -/
def Format.encode (f : Format) (mode : Nat) (R : W32) : Fp → Nat
  | .nan => f.nanCode
  | .inf neg => f.infCode neg
  | .fin neg m e => if m = 0 then f.signed neg 0 else f.round mode R neg m e

/-! ### Exact operations (R137) -/

/-- The signed integer of a finite value in units of 2^base, base no larger than its exponent. -/
def scaled (base : Int) (neg : Bool) (m : Nat) (e : Int) : Int :=
  let v : Int := (m * 2 ^ (e - base).toNat : Nat)
  if neg then -v else v

/-- A signed integer in units of 2^base. -/
def ofScaled (base : Int) (v : Int) (zeroNeg : Bool) : Fp :=
  if v = 0 then .fin zeroNeg 0 base else .fin (decide (v < 0)) v.natAbs base

/-- Sum of two values: exact; a zero is +0 unless both are −0 (R134, R137). -/
def Fp.add : Fp → Fp → Fp
  | .nan, _ => .nan
  | _, .nan => .nan
  | .inf a, .inf b => if a = b then .inf a else .nan
  | .inf a, .fin _ _ _ => .inf a
  | .fin _ _ _, .inf b => .inf b
  | .fin a m e, .fin b n g =>
    if m = 0 ∧ n = 0 then .fin (a && b) 0 (min e g)
    else ofScaled (min e g) (scaled (min e g) a m e + scaled (min e g) b n g) false

/-- Negation. -/
def Fp.neg : Fp → Fp
  | .nan => .nan
  | .inf a => .inf (!a)
  | .fin a m e => .fin (!a) m e

/-- Product: exact; zero times infinity is NaN. -/
def Fp.mul : Fp → Fp → Fp
  | .nan, _ => .nan
  | _, .nan => .nan
  | .inf a, .inf b => .inf (a != b)
  | .inf a, .fin b n _ => if n = 0 then .nan else .inf (a != b)
  | .fin a m _, .inf b => if m = 0 then .nan else .inf (a != b)
  | .fin a m e, .fin b n g => .fin (a != b) (m * n) (e + g)

/-- Multiply by 2^k. -/
def Fp.scale (x : Fp) (k : Int) : Fp := match x with | .fin a m e => .fin a m (e + k) | y => y

/-- Strictly less, for values that are not NaN. -/
def Fp.lt : Fp → Fp → Bool
  | .nan, _ => false
  | _, .nan => false
  | .inf a, .inf b => a && !b
  | .inf a, .fin _ _ _ => a
  | .fin _ _ _, .inf b => !b
  | .fin a m e, .fin b n g => decide (scaled (min e g) a m e < scaled (min e g) b n g)

/-- Magnitude. -/
def Fp.abs : Fp → Fp
  | .nan => .nan
  | .inf _ => .inf false
  | .fin _ m e => .fin false m e

/-- A lane read as FP32. -/
def ofLane (w : W32) : Fp := fp32.decode w.toNat

/-- A value rounded to an FP32 lane. -/
def toLane (mode : Nat) (R : W32) (x : Fp) : W32 := BitVec.ofNat 32 (fp32.encode mode R x)

/-- A lane holds a NaN. -/
def isNanLane (w : W32) : Bool := ofLane w == .nan

/-- FP32 maximum (R141). -/
def laneMax (a b : W32) : W32 :=
  if isNanLane a || isNanLane b then 0x7FC00000#32
  else if (ofLane a).lt (ofLane b) then b
  else if (ofLane b).lt (ofLane a) then a
  else if a = b then a else 0#32

/-- FP32 minimum (R141). -/
def laneMin (a b : W32) : W32 :=
  if isNanLane a || isNanLane b then 0x7FC00000#32
  else if (ofLane a).lt (ofLane b) then a
  else if (ofLane b).lt (ofLane a) then b
  else if a = b then a else 0x80000000#32

/-! ### Random words (R135) -/

/-- The generator of R135. -/
def mix64 (z : Word) : Word :=
  let z := (z ^^^ (z >>> 30)) * 0xBF58476D1CE4E5B9#64
  let z := (z ^^^ (z >>> 27)) * 0x94D049BB133111EB#64
  z ^^^ (z >>> 31)

/-- The random word of element e. -/
def randomWord (seed : Word) (n : W32) (e : Nat) : W32 :=
  (mix64 (seed + BitVec.ofNat 64 (n.toNat * 2 ^ 16 + e))).setWidth 32

/-! ### Reciprocal square root and exponential (R141) -/

/-- ⌊√n⌋, by its bits from bit `i` − 1 down. -/
def isqrtFrom (n : Nat) : Nat → Nat → Nat
  | 0, acc => acc
  | i + 1, acc => isqrtFrom n i (if (acc + 2 ^ i) * (acc + 2 ^ i) ≤ n then acc + 2 ^ i else acc)

/-- ⌊√n⌋. -/
def isqrt (n : Nat) : Nat := isqrtFrom n (Nat.log2 n / 2 + 1) 0

/-- Truncate a magnitude to 40 significant bits. -/
def trunc40 (n : Nat) (e : Int) : Nat × Int :=
  let sh := Nat.log2 n - 39
  (n / 2 ^ sh, e + sh)

/-- y of VRSQRT for a finite positive value: 1/√(m × 2^e) truncated to 40 significant bits. -/
def rsqrt40 (m : Nat) (e : Int) : Nat × Int :=
  let q : Nat := 100 + (Nat.log2 m + e.natAbs)
  trunc40 (isqrt (2 ^ ((2 * q : Int) - e).toNat / m)) (-(q : Int))

/-- VRSQRT of a lane. -/
def laneRsqrt (mode : Nat) (R : W32) (w : W32) : W32 :=
  match ofLane w with
  | .nan => 0x7FC00000#32
  | .inf true => 0x7FC00000#32
  | .inf false => 0#32
  | .fin neg m e =>
    if m = 0 then toLane 0 0 (.inf neg)
    else if neg then 0x7FC00000#32
    else toLane mode R (.fin false (rsqrt40 m e).1 (rsqrt40 m e).2)

/-- Fraction bits of the exponential's working value. -/
def expBits : Nat := 512

/-- The Taylor terms of e^r, r in units of 2^-512, from term k on. -/
def expTerms (r : Int) : Nat → Nat → Int → Int → Int
  | 0, _, _, sum => sum
  | fuel + 1, k, term, sum =>
    let t := term * r / ((k : Int) * 2 ^ expBits)
    expTerms r fuel (k + 1) t (sum + t)

/-- Square n times, in units of 2^-512. -/
def squareTimes : Nat → Nat → Nat
  | 0, v => v
  | n + 1, v => squareTimes n (v * v / 2 ^ expBits)

/-- e^x for x = (−1)^neg × m × 2^e of magnitude below 256, in units of 2^-512: the Taylor series at x / 1,024, squared ten
times. -/
def expFixed (neg : Bool) (m : Nat) (e : Int) : Nat :=
  let x : Int := if 0 ≤ e + 502 then (m * 2 ^ (e + 502).toNat : Nat) else (m / 2 ^ (-(e + 502)).toNat : Nat)
  squareTimes 10 (expTerms (if neg then -x else x) 120 1 (2 ^ expBits) (2 ^ expBits)).toNat

/-- VEXP of a lane. Beyond ±160 only the side of the format's range matters. -/
def laneExp (mode : Nat) (R : W32) (w : W32) : W32 :=
  match ofLane w with
  | .nan => 0x7FC00000#32
  | .inf true => 0#32
  | .inf false => 0x7F800000#32
  | .fin neg m e =>
    if m = 0 then 0x3F800000#32
    else if Fp.lt (.fin false 160 0) (.fin false m e) then
      toLane mode R (.fin false 1 (if neg then -300 else 300))
    else
      let y := trunc40 (expFixed neg m e) (-(expBits : Int))
      toLane mode R (.fin false y.1 y.2)

/-! ### Levels and fixed point (R152–R155) -/

/-- The level of a block of 64 lanes (R152). -/
def blockLevel (lanes : List W32) : Nat :=
  let emax := lanes.foldl (fun m w => max m (bits w.toNat 30 23)) 0
  if emax = 255 then 127 else if 191 ≤ emax then 126 else if 65 ≤ emax then emax - 64 else 0

/-- The level lane as VFIX and VFLT take it: outside 0–127 it is 127. -/
def levelLane (w : W32) : Nat := if w.toNat ≤ 127 then w.toNat else 127

/-- The nearest integer to (−1)^neg × m × 2^k, ties to even. -/
def nearestInt (neg : Bool) (m : Nat) (k : Int) : Int :=
  let v : Nat :=
    if 0 ≤ k then m * 2 ^ k.toNat
    else
      let s := (-k).toNat
      let t := m / 2 ^ s
      let r := m % 2 ^ s
      if 2 ^ s < 2 * r ∨ (2 * r = 2 ^ s ∧ t % 2 = 1) then t + 1 else t
  if neg then -(v : Int) else v

/-- VFIX of a lane (R154). -/
def laneFix (x : W32) (lam g : Nat) : W32 :=
  if lam = 127 ∨ 31 ≤ g then 0
  else
    let bnd : Int := (2 ^ (31 - g) : Nat) - 1
    match ofLane x with
    | .nan => 0
    | .inf neg => BitVec.ofInt 32 (if neg then -bnd else bnd)
    | .fin neg m e => BitVec.ofInt 32 (max (-bnd) (min bnd (nearestInt neg m (e + (93 - (g : Int) - lam)))))

/-- VFLT of a lane (R155). -/
def laneFlt (q : W32) (lam g mode : Nat) (R : W32) : W32 :=
  if lam = 127 then 0x7FC00000#32
  else
    let v := q.toInt
    if v = 0 then 0
    else toLane mode R (.fin (decide (v < 0)) v.natAbs (-(93 - (g : Int) - lam)))

/-! ### Long elements (R144–R148) -/

/-- A long element: 320 bits. -/
abbrev Long := BitVec 320

/-- `set_inf` of R145. -/
def Long.setInf (el : Long) (neg : Bool) : Long :=
  if el.getLsbD 316 = false then (el &&& ~~~(1#320 <<< 317)) ||| (1#320 <<< 316) ||| (if neg then 1#320 <<< 317 else 0)
  else if el.getLsbD 317 ≠ neg then el ||| (1#320 <<< 318)
  else el

/-- `val` of an element, two's complement. -/
def Long.val (el : Long) : Int := (el.setWidth 316).toInt

/-- Replace `val`. -/
def Long.setVal (el : Long) (v : Int) : Long := (el >>> 316 <<< 316) ||| (BitVec.ofInt 316 v).setWidth 320

/-- `add` of R145. -/
def Long.add (el : Long) : Fp → Long
  | .nan => el ||| (1#320 <<< 318)
  | .inf neg => el.setInf neg
  | .fin neg m e =>
    if m = 0 then el
    else if (128 : Int) ≤ (Nat.log2 m : Int) + e then el.setInf neg
    else
      let k : Int := e + 155
      let q : Nat := if 0 ≤ k then m * 2 ^ k.toNat else m / 2 ^ (-k).toNat
      let lost : Bool := decide (k < 0) && decide (m % 2 ^ (-k).toNat ≠ 0)
      let el := if lost then el ||| (1#320 <<< 319) else el
      let t : Int := el.val + (if neg then -(q : Int) else q)
      let el := if t < -(2 ^ 315) ∨ 2 ^ 315 ≤ t then el.setInf (decide (t < 0)) else el
      el.setVal t

/-- `read` of R148. -/
def Long.read (el : Long) (mode : Nat) (R : W32) : W32 :=
  if el.getLsbD 318 then 0x7FC00000#32
  else if el.getLsbD 316 then toLane 0 0 (.inf (el.getLsbD 317))
  else
    let v := el.val
    if v = 0 then 0 else toLane mode R (.fin (decide (v < 0)) v.natAbs (-155))

/-! ### Digests (R163) -/

/-- The coefficient of lane l: mix64(l) or 1. -/
def digestCoef (l : Nat) : Word := mix64 (BitVec.ofNat 64 l) ||| 1#64

/-- The sum over lanes l, l + 1, … of coefficient times sign-extended lane. -/
def digestSum : Nat → List Int → Word
  | _, [] => 0
  | l, v :: vs => digestCoef l * BitVec.ofInt 64 v + digestSum (l + 1) vs

/-- One group step. -/
def digestStep (d s : Word) : Word := d * 0x9E3779B97F4A7C15#64 + s

end Sys2Proof.Machine
end

