-- ==== Sys2Proof/Machine/TileOps.lean ====
section
/-! DEFINITION. Tiles as a stream sees them (chapters 5 to 7): how an op issues, when it is undefined or faults, and what
the sequencer, matrix and vector ops do. -/

namespace Sys2Proof.Machine

/-! ### A tile's parts (R103) -/

/-- Index register i: x0 reads 0 (R103). -/
def Stream.xr (s : Stream) (i : Nat) : W32 := if i = 0 then 0 else tget 0 s.x i

/-- Write index register i: x0 ignores it. -/
def Stream.setX (s : Stream) (i : Nat) (v : W32) : Stream := if i = 0 then s else { s with x := tset 0 s.x i v }

/-- Vector register r. -/
def Tile.vec (t : Tile) (r : Nat) : List W32 := tspan 0 t.v (256 * r) 256

/-- Write vector register r. -/
def Tile.setVec (t : Tile) (r : Nat) (lanes : List W32) : Tile := { t with v := tputs 0 t.v (256 * r) lanes }

/-- Add to a counter of the tile's set, modulo 2^32 (R412). -/
def Tile.count (t : Tile) (i n : Nat) : Tile := { t with counters := tmod 0 t.counters i fun c => c + BitVec.ofNat 32 n }

/-- The clock of a tile's cluster in MHz. -/
def Dev.tileMhz (d : Dev) (n : Nat) : Nat := (tget {} d.power.domains (clusterOf n)).mhz

/-- Tile cycles counted so far: counter 0. -/
def Dev.tileCycles (d : Dev) (n : Nat) : Nat :=
  let t := d.tile n
  t.cycles + (d.uptime - t.cyclesAt) * d.tileMhz n / 1000

/-- Counter i of a tile's set (R412). -/
def Dev.tileCounter (d : Dev) (n i : Nat) : W32 :=
  if i = 0 then (if (d.tile n).logical.isSome then BitVec.ofNat 32 (d.tileCycles n) else 0) else tget 0 (d.tile n).counters i

/-- An op as its 64-bit word (R112). -/
def encodeOp (opc : Nat) (o : StreamOp) : Word :=
  BitVec.ofNat 64 (opc + at_ 8 o.fmt.toNat + at_ 12 o.round.toNat + at_ 16 o.dst.toNat + at_ 24 o.s1.toNat +
    at_ 32 o.s2.toNat + at_ 40 o.imm.toNat)

/-- What the op store holds at an index: all ones beyond a loaded image (R120), 0 before any load (R129). -/
def Tile.op (t : Tile) (i : Nat) : Word := tget t.opFill t.ops i

/-- Sign-extended immediate. -/
def opImm (o : StreamOp) : W32 := o.imm.signExtend 32

/-! ### Undefined ops (R114, R136) -/

/-- The kinds of operand of R115. -/
inductive OperandKind where
  | unused | x | xEven | v | acc | accLong
  deriving DecidableEq, Repr

/-- The operand number is one that the kind admits. -/
def OperandKind.admits (k : OperandKind) (b : Nat) : Bool :=
  match k with
  | .unused => decide (b = 0)
  | .x => decide (b < 16)
  | .xEven => decide (b < 16 ∧ b % 2 = 0)
  | .v => decide (b < 32)
  | .acc => decide (b < 8)
  | .accLong => decide (b = 0 ∨ b = 3)

/-- The form of an op: operands, formats, the formats for which it rounds, and the bits of imm that it reads. -/
structure OpForm where
  dst : OperandKind := .unused
  s1 : OperandKind := .unused
  s2 : OperandKind := .unused
  fmts : List Nat := [0]
  rounds : List Nat := []
  imm : Nat := 0
  deriving DecidableEq, Repr

/-- The form of each opcode (R115); none for a reserved one. ACCRD and VRED depend on imm[0]. -/
def opForm (opc : Nat) (imm0 : Bool) : Option OpForm :=
  match opc with
  | 0x00 | 0x01 | 0x0A => some {}
  | 0x02 => some { dst := .x, imm := 0xFFFFFF }
  | 0x03 => some { dst := .x, imm := 0xFFFF }
  | 0x04 => some { dst := .x, s1 := .x, s2 := .x, imm := 0xFFFFFF }
  | 0x05 => some { dst := .x, s1 := .x, s2 := .x }
  | 0x06 | 0x07 => some { s1 := .x, imm := 0xFFFFFF }
  | 0x08 => some { s1 := .x, s2 := .x, imm := 0xFFFFFF }
  | 0x09 => some { imm := 0x7FF }
  | 0x0B | 0x0C => some { imm := 0x1F }
  | 0x0D => some { fmts := [0, 1], imm := 0xFFFF }
  | 0x10 => some { dst := .acc, s1 := .x, s2 := .x, fmts := [1, 2, 3, 4, 5, 7], rounds := [1, 2, 3, 4], imm := 1 }
  | 0x11 => some { dst := .accLong, s1 := .x, s2 := .x, fmts := [1, 2, 3, 4], imm := 1 }
  | 0x12 => some { dst := .v, s1 := if imm0 then .accLong else .acc, s2 := .x, rounds := if imm0 then [0] else [], imm := 1 }
  | 0x13 => some { dst := .acc, s1 := .v, s2 := .x }
  | 0x14 => some { dst := .accLong, s1 := .v, s2 := .x }
  | 0x15 => some { dst := .acc }
  | 0x20 => some { dst := .v, s1 := .x, fmts := [0, 1, 2, 3, 4, 5, 6] }
  | 0x21 => some { dst := .x, s1 := .v, fmts := [0, 1, 2, 3, 4, 5, 6], rounds := [0, 1, 2, 3, 4] }
  | 0x22 | 0x23 | 0x24 | 0x25 => some { dst := .v, s1 := .v, s2 := .v, rounds := [0] }
  | 0x26 | 0x27 | 0x2B => some { dst := .v, s1 := .v, s2 := .v }
  | 0x28 | 0x29 => some { dst := .v, s1 := .v, rounds := [0] }
  | 0x2A => some { dst := .v, s1 := .v, rounds := if imm0 then [] else [0], imm := 1 }
  | 0x2C => some { dst := .v, s1 := .v }
  | 0x2D => some { dst := .v, s1 := .v, s2 := .v, imm := 0x3F }
  | 0x2E => some { dst := .v, s1 := .v, s2 := .v, rounds := [0], imm := 0x3F }
  | 0x2F => some { dst := .v, s1 := .v, s2 := .v, imm := 0xF }
  | 0x30 => some { dst := .xEven, s1 := .v }
  | 0x31 => some { s1 := .xEven }
  | 0x40 => some { s1 := .x, s2 := .x, imm := 0xFFF }
  | 0x41 => some { dst := .x, s2 := .x, imm := 0xFFF }
  | 0x42 => some { dst := .x, s1 := .xEven, s2 := .x, imm := 0xFFFFFF }
  | 0x43 => some { dst := .xEven, s1 := .x, s2 := .x, imm := 0xFFF }
  | 0x44 => some { dst := .x, s1 := .x, s2 := .x, imm := 0xFFF }
  | 0x45 => some { dst := .x, s1 := .x, s2 := .x, imm := 0xFFFFFF }
  | _ => none

/-- An op word is undefined (R114). -/
def undefinedWord (w : Word) : Bool :=
  let n := w.toNat
  match opForm (bits n 7 0) (bit n 40) with
  | none => true
  | some f =>
    !f.fmts.contains (bits n 11 8) || decide (bits n 15 14 ≠ 0) ||
      decide (bits n 13 12 = 3) || (decide (bits n 13 12 ≠ 0) && !f.rounds.contains (bits n 11 8)) ||
      !f.dst.admits (bits n 23 16) || !f.s1.admits (bits n 31 24) || !f.s2.admits (bits n 39 32) ||
      decide (bits n 63 40 &&& (0xFFFFFF - f.imm) ≠ 0)

/-! ### Faults (R124–R127) -/

/-- The op of a stream faults: it does not complete and changes nothing (R127). -/
def opFault (cls : Nat) (o : StreamOp) (w : Word) (d : Dev) : Dev :=
  tileFault cls o.tile.val (some o.stream.val) ((d.tile o.tile.val).stream o.stream.val).pc.toNat w
    [o.stream.val] d

/-! ### Issue -/

/-- What an op's operands ask before it issues: a bound or an alignment broken, and the basin spans it reads. -/
structure Plan where
  bounds : Bool := false
  align : Bool := false
  reads : List (Nat × Nat) := []
  deriving DecidableEq, Repr

/-- A stream may issue the op word: the canal runs and work is not held, the tile is bound and in service, the stream runs (or
waits for room in an engine), core debug does not hold it (R333), and the op store holds that word at its pc. -/
def canIssue (n s : Nat) (w : Word) (d : Dev) : Bool :=
  let t := d.tile n
  let st := t.stream s
  d.canal.aligned && !d.manifest.workHeld && t.logical.isSome && !t.failed && !t.starting && !t.follower &&
    (!t.debugHeld || t.debugStep == some s) && (st.state == 1 || (st.state == 2 && st.wait == .engine)) && t.op st.pc.toNat == w

/-- The stream after an op has issued: next pc, count of ops. -/
def Stream.advance (st : Stream) : Stream :=
  { st with pc := st.pc + 1, issued := st.issued + 1, state := 1, wait := .none }

/-- The tile after an op has issued (R112, R135, R412): counters, pc, the op's own effect, one draw if it rounds
stochastically. -/
def issued (o : StreamOp) (mbusy vbusy : Nat) (effect : Tile → Tile) (t : Tile) : Tile :=
  let s := o.stream.val
  let t := effect ((((t.count 1 1).count 2 mbusy).count 3 vbusy).modStream s Stream.advance)
  let t := { t with debugStep := none }
  if o.round = 2 then t.modStream s fun st => { st with draws := st.draws + 1 } else t

/-- An op of a stream: not issued while the stream cannot; undefined, out of bounds, misaligned or reading poison, it halts
its stream; otherwise it has its effect. -/
def issueOp (opc : Nat) (plan : Dev → Tile → Stream → Plan) (busy : StreamOp → Nat × Nat)
    (effect : StreamOp → Tile → Tile) (after : Dev → Dev) (o : StreamOp) (d : Dev) : Dev :=
  let n := o.tile.val
  let w := encodeOp opc o
  if !canIssue n o.stream.val w d then d
  else if undefinedWord w then opFault 0x500 o w d
  else
    let t := d.tile n
    let p := plan d t (t.stream o.stream.val)
    if p.bounds then opFault 0x501 o w d
    else if p.align then opFault 0x502 o w d
    else
      let d := readSpans n (some o.stream.val) (t.stream o.stream.val).pc.toNat w p.reads d
      if p.reads.any fun r => (d.tile n).poisoned r.1 r.2 then opFault 0x503 o w d
      else after (d.modTile n (issued o (busy o).1 (busy o).2 (effect o)))

/-- An op of unit S that asks nothing of its operands. -/
def scalarOp (opc : Nat) (effect : StreamOp → Stream → Stream) (o : StreamOp) (d : Dev) : Dev :=
  issueOp opc (fun _ _ _ => {}) (fun _ => (0, 0)) (fun o t => t.modStream o.stream.val (effect o)) id o d

/-- An op of unit V over registers alone. -/
def vectorOp (opc busy : Nat) (effect : StreamOp → Tile → Tile) (o : StreamOp) (d : Dev) : Dev :=
  issueOp opc (fun _ _ _ => {}) (fun _ => (0, busy)) effect id o d

/-! ### Waiting (R115) -/

/-- The lockage counts from slot 0 of scheduled lockage L on: L is a step-start lockage of the running manifest. -/
def isStepStart (d : Dev) (L : Nat) : Bool :=
  d.stepLockages = 0 || decide ((L - d.canal.cycleStart) % d.stepLockages = 0)

/-- The first step-start lockage after lockage L. -/
def nextStepStart (d : Dev) (L : Nat) : Nat :=
  if d.stepLockages = 0 then L + 1
  else d.canal.cycleStart + ((L - d.canal.cycleStart) / d.stepLockages + 1) * d.stepLockages

/-- WAITSLOT's target: the next scheduled lockage, or the next step-start lockage. -/
def slotTarget (d : Dev) (stepStart : Bool) : Nat :=
  if stepStart then nextStepStart d d.canal.lockage else d.canal.lockage + 1

/-- Earlier ops of the stream that have not completed: those of its engines. -/
def Tile.outstanding (t : Tile) (s : Nat) : Bool :=
  t.sends.any (fun x => x.stream == s) || t.recvs.any fun x => x.stream == s

/-- The stream waits from now on. -/
def Tile.await (t : Tile) (s : Nat) (w : StreamWait) (lockage : Nat) : Tile :=
  t.modStream s fun st => { st with state := 2, wait := w, waitSince := lockage }

/-- The wait of a stream ends. -/
def Tile.resume (t : Tile) (s : Nat) : Tile := t.modStream s fun st => { st with state := 1, wait := .none }

/-- Event bit b is 1. -/
def Tile.event (t : Tile) (b : Nat) : Bool := t.events.getLsbD b

/-- Clear event bit b. -/
def Tile.clearEvent (t : Tile) (b : Nat) : Tile := { t with events := t.events &&& ~~~(BitVec.ofNat 32 (2 ^ b)) }

/-- Set event bit b. -/
def Tile.setEvent (t : Tile) (b : Nat) : Tile := { t with events := t.events ||| BitVec.ofNat 32 (2 ^ b) }

/-! ### Counter records (R413, R414) -/

/-- The step field of a record (R414): 0 without a step structure. -/
def Dev.stepField (d : Dev) : Nat := if d.rel.phase = 0 then 0 else (d.rel.step + 1) % 2 ^ 31 + 2 ^ 31 * (d.rel.attempt % 2)

/-- The 64 bytes of a counter record. -/
def counterRecord (d : Dev) (kind stream : Nat) (unit : W32) (command logical : Nat) (counters : List W32) : Bytes :=
  leBytes 2 3 ++ leBytes 1 kind ++ leBytes 1 stream ++ leBytes 4 unit.toNat ++ leBytes 2 command ++ leBytes 2 logical ++
    leBytes 4 0 ++ leBytes 8 d.time.ns.toNat ++ leBytes 4 d.canal.lockage ++ leBytes 4 d.stepField ++
    counters.flatMap fun c => leBytes 4 c.toNat

/-- MARK latches the tile's counters (R413). -/
def latchTile (o : StreamOp) (d : Dev) : Dev :=
  let n := o.tile.val
  traceRecord 0 (counterRecord d (o.fmt.toNat % 2) o.stream.val (d.unitTile n) (o.imm.toNat % 65536)
    ((d.tile n).logical.getD 0) ((List.range 8).map (d.tileCounter n))) d

/-! ### Elements (R113, R131, R139, R140) -/

/-- Bytes of 256 elements of a format. -/
def blockBytes (fmt : Nat) : Nat :=
  if fmt = 4 then 128 else if fmt = 1 then 512 else if fmt = 0 ∨ fmt = 6 then 1024 else 256

/-- Cut a byte string into fields of n bytes, `count` of them. -/
def cut (n : Nat) : Nat → Bytes → List Nat
  | 0, _ => []
  | count + 1, bs => leNat (bs.take n) :: cut n count (bs.drop n)

/-- The codes of `count` packed elements of a format; FP4 is packed two to a byte (R131). -/
def codes (fmt count : Nat) (bs : Bytes) : List Nat :=
  if fmt = 4 then (bs.flatMap fun b => [b.toNat % 16, b.toNat / 16]).take count
  else cut (blockBytes fmt / 256) count bs

/-- Widen an element to a lane (R139). -/
def widen (fmt code : Nat) : W32 :=
  if fmt ≤ 4 then toLane 0 0 ((formatOf fmt).decode code)
  else if fmt = 5 then (BitVec.ofNat 8 code).signExtend 32
  else BitVec.ofNat 32 code

/-- Narrow a lane to an element (R140). -/
def narrow (fmt mode : Nat) (R : W32) (lane : W32) : Nat :=
  if fmt ≤ 4 then (formatOf fmt).encode mode R (ofLane lane)
  else if fmt = 5 then (BitVec.ofInt 8 (max (-128) (min 127 lane.toInt))).toNat
  else lane.toNat

/-- Pack the elements of a format. -/
def pack (fmt : Nat) (cs : List Nat) : Bytes :=
  if fmt = 4 then (List.range (cs.length / 2)).map fun i => BitVec.ofNat 8 (cs.getD (2 * i) 0 + 16 * cs.getD (2 * i + 1) 0)
  else cs.flatMap fun c => leBytes (blockBytes fmt / 256) c

/-- NaNs among lanes. -/
def nans (lanes : List W32) : Nat := (lanes.filter isNanLane).length

/-- Write a vector register and count the NaNs written (R138). -/
def Tile.setVecNan (t : Tile) (r : Nat) (lanes : List W32) : Tile := (t.setVec r lanes).count 6 (nans lanes)

/-- The random word of element e for an op of a stream (R135). -/
def Stream.random (st : Stream) (e : Nat) : W32 := randomWord st.seed st.draws e

/-- The lanes numbered. -/
def numbered {α : Type} (l : List α) : List (Nat × α) := (List.range l.length).zip l

/-! ### Matrix unit (R116, R117, R142–R150) -/

/-- K of an MMA (R116) and of an MMAX (R117). -/
def mmaK (fmt : Nat) : Nat := if fmt = 4 then 128 else if fmt = 1 then 16 else 64
def mmaxK (fmt : Nat) : Nat := if fmt = 1 then 16 else 64

/-- Bytes of an operand of `rows` rows of K elements, block scales included (R131). -/
def operandBytes (fmt rows k : Nat) : Nat := rows * k * (blockBytes fmt) / 256 + (if fmt = 4 then rows * (k / 32) else 0)

/-- The rows of an operand as codes, and its scale bytes. -/
def operandRows (fmt rows k : Nat) (bs : Bytes) : List (List Nat) :=
  let cs := codes fmt (rows * k) bs
  (List.range rows).map fun r => (cs.drop (r * k)).take k

/-- The rows of a floating operand as exact values; an FP4 element carries its block's scale (R131). -/
def operandValues (fmt rows k : Nat) (bs : Bytes) : List (List Fp) :=
  let scales := bs.drop (rows * k / 2)
  (numbered (operandRows fmt rows k bs)).map fun r =>
    (numbered r.2).map fun c =>
      let x := (formatOf fmt).decode c.2
      if fmt = 4 then
        let s := (scales.getD (k / 32 * r.1 + c.1 / 32) 0).toNat
        if s = 255 then .nan else x.scale ((s : Int) - 127)
      else x

/-- The exact sum of a start value and the products of two rows. -/
def dotFp (start : Fp) (a b : List Fp) : Fp := (List.zipWith Fp.mul a b).foldl Fp.add start

/-- The 16,384 elements of an accumulator. -/
def Tile.accElems (t : Tile) (acc : Nat) : List W32 := (cut 4 16384 (tspan 0 t.acc (65536 * acc) 65536)).map (BitVec.ofNat 32)

/-- Write elements of an accumulator from element e on. -/
def Tile.setAcc (t : Tile) (acc e : Nat) (els : List W32) : Tile :=
  { t with acc := tputs 0 t.acc (65536 * acc + 4 * e) (els.flatMap fun w => leBytes 4 w.toNat) }

/-- The new elements of an accumulator after an MMA (R142, R143, R150). -/
def mmaElems (fmt mode : Nat) (rnd : Nat → W32) (zero : Bool) (old : List W32) (a b : Bytes) : List W32 :=
  let prev (e : Nat) : W32 := if zero then 0 else old.getD e 0
  if fmt ≤ 4 then
    let A := operandValues fmt 128 (mmaK fmt) a
    let B := operandValues fmt 128 (mmaK fmt) b
    (numbered A).flatMap fun i => (numbered B).map fun j =>
      let e := 128 * i.1 + j.1
      toLane mode (if mode = 2 then rnd e else 0) (dotFp (ofLane (prev e)) i.2 j.2)
  else if fmt = 5 then
    let rows (bs : Bytes) : List (List Int) := (operandRows 5 128 64 bs).map fun r => r.map fun c => sext 8 c
    (numbered (rows a)).flatMap fun i => (numbered (rows b)).map fun j =>
      prev (128 * i.1 + j.1) + BitVec.ofInt 32 (List.zipWith (· * ·) i.2 j.2).sum
  else
    let rows (bs : Bytes) : List (List Byte) := (operandRows 7 128 64 bs).map fun r => r.map (BitVec.ofNat 8)
    (numbered (rows a)).flatMap fun i => (numbered (rows b)).map fun j =>
      ((List.zipWith gfMul i.2 j.2).foldl (· ^^^ ·) ((prev (128 * i.1 + j.1)).setWidth 8)).setWidth 32

/-- MMA's effect. -/
def mmaEffect (o : StreamOp) (t : Tile) : Tile :=
  let st := t.stream o.stream.val
  let n := operandBytes o.fmt.toNat 128 (mmaK o.fmt.toNat)
  let els := mmaElems o.fmt.toNat o.round.toNat st.random (o.imm.getLsbD 0) (t.accElems o.dst.toNat)
    (t.bytes (st.xr o.s1.toNat).toNat n) (t.bytes (st.xr o.s2.toNat).toNat n)
  (t.setAcc o.dst.toNat 0 els).count 6 (if o.fmt.toNat ≤ 4 then nans els else 0)

/-- A basin span breaks the bounds of R109. -/
def pastBasin (a n : Nat) : Bool := decide (0x200000 < a + n)

/-- The plan of a matrix op with operands of na and nb bytes. -/
def matrixPlan (na nb : Nat) (o : StreamOp) (st : Stream) : Plan :=
  let a := (st.xr o.s1.toNat).toNat
  let b := (st.xr o.s2.toNat).toNat
  { bounds := pastBasin a na || pastBasin b nb, align := decide (a % 512 ≠ 0 ∨ b % 512 ≠ 0), reads := [(a, na), (b, nb)] }

/-- The 8,192 long elements of acc_d to acc_d+4 (R144), from element e on. -/
def Tile.longElems (t : Tile) (acc e count : Nat) : List Long :=
  (cut 40 count (tspan 0 t.acc (65536 * acc + 40 * e) (40 * count))).map (BitVec.ofNat 320)

/-- Write long elements from element e on. -/
def Tile.setLong (t : Tile) (acc e : Nat) (els : List Long) : Tile :=
  { t with acc := tputs 0 t.acc (65536 * acc + 40 * e) (els.flatMap fun w => leBytes 40 w.toNat) }

/-- Write long elements and count those that are NaN (R138). -/
def Tile.setLongNan (t : Tile) (acc e : Nat) (els : List Long) : Tile :=
  (t.setLong acc e els).count 6 (els.filter fun w => w.getLsbD 318).length

/-- MMAX's effect (R117, R145). -/
def mmaxEffect (o : StreamOp) (t : Tile) : Tile :=
  let st := t.stream o.stream.val
  let fmt := o.fmt.toNat
  let k := mmaxK fmt
  let A := operandValues fmt 64 k (t.bytes (st.xr o.s1.toNat).toNat (operandBytes fmt 64 k))
  let B := operandValues fmt 128 k (t.bytes (st.xr o.s2.toNat).toNat (operandBytes fmt 128 k))
  let old := t.longElems o.dst.toNat 0 8192
  let els := (numbered A).flatMap fun i => (numbered B).map fun j =>
    (List.zipWith Fp.mul i.2 j.2).foldl Long.add (if o.imm.getLsbD 0 then 0 else old.getD (128 * i.1 + j.1) 0)
  t.setLongNan o.dst.toNat 0 els

/-- ACCRD's effect: a row pair copied, or 256 long elements rounded once (R148). -/
def accrdEffect (o : StreamOp) (t : Tile) : Tile :=
  let st := t.stream o.stream.val
  let p := (st.xr o.s2.toNat).toNat
  if o.imm.getLsbD 0 then
    let els := t.longElems o.s1.toNat (256 * p) 256
    let lanes := (numbered els).map fun e => e.2.read o.round.toNat (if o.round = 2 then st.random e.1 else 0)
    (t.setVecNan o.dst.toNat lanes).count 7 (els.filter fun e => e.getLsbD 319).length
  else t.setVecNan o.dst.toNat (((t.accElems o.s1.toNat).drop (256 * p)).take 256)

/-- A row pair is within its view (R124). -/
def pairPlan (o : StreamOp) (long : Bool) (st : Stream) : Plan :=
  { bounds := decide ((if long then 32 else 64) ≤ (st.xr o.s2.toNat).toNat) }

/-- ACCWR's effect. -/
def accwrEffect (o : StreamOp) (t : Tile) : Tile :=
  let lanes := t.vec o.s1.toNat
  (t.setAcc o.dst.toNat (256 * ((t.stream o.stream.val).xr o.s2.toNat).toNat) lanes).count 6 (nans lanes)

/-- ACCX's effect (R145). -/
def accxEffect (o : StreamOp) (t : Tile) : Tile :=
  let p := ((t.stream o.stream.val).xr o.s2.toNat).toNat
  t.setLongNan o.dst.toNat (256 * p)
    (List.zipWith (fun el w => Long.add el (ofLane w)) (t.longElems o.dst.toNat (256 * p) 256) (t.vec o.s1.toNat))

/-- ACCZ's effect. -/
def acczEffect (o : StreamOp) (t : Tile) : Tile :=
  { t with acc := tclear t.acc (65536 * o.dst.toNat) (65536 * o.dst.toNat + 65536) }

/-! ### Vector unit (R139–R141, R153–R155, R163) -/

/-- The plan of VLD and VST: b bytes at the address in register r. -/
def vldPlan (o : StreamOp) (st : Stream) : Plan :=
  let a := (st.xr o.s1.toNat).toNat
  let b := blockBytes o.fmt.toNat
  { bounds := pastBasin a b, align := decide (a % b ≠ 0), reads := [(a, b)] }

def vstPlan (o : StreamOp) (st : Stream) : Plan :=
  let a := (st.xr o.dst.toNat).toNat
  let b := blockBytes o.fmt.toNat
  { bounds := pastBasin a b, align := decide (a % b ≠ 0) }

/-- VLD's effect. -/
def vldEffect (o : StreamOp) (t : Tile) : Tile :=
  let a := ((t.stream o.stream.val).xr o.s1.toNat).toNat
  let lanes := (codes o.fmt.toNat 256 (t.bytes a (blockBytes o.fmt.toNat))).map (widen o.fmt.toNat)
  if o.fmt.toNat ≤ 4 then t.setVecNan o.dst.toNat lanes else t.setVec o.dst.toNat lanes

/-- VST's effect. -/
def vstEffect (o : StreamOp) (t : Tile) : Tile :=
  let st := t.stream o.stream.val
  let lanes := t.vec o.s1.toNat
  let cs := (numbered lanes).map fun e => narrow o.fmt.toNat o.round.toNat (if o.round = 2 then st.random e.1 else 0) e.2
  (t.store (st.xr o.dst.toNat).toNat (pack o.fmt.toNat cs)).count 6 (if o.fmt.toNat ≤ 4 then nans lanes else 0)

/-- An op on lanes that rounds each result once. -/
def lanesRounded (f : Tile → Nat → Fp) (o : StreamOp) (t : Tile) : Tile :=
  let st := t.stream o.stream.val
  t.setVecNan o.dst.toNat ((List.range 256).map fun l =>
    toLane o.round.toNat (if o.round = 2 then st.random l else 0) (f t l))

/-- Lane l of a register as an exact value. -/
def laneVal (t : Tile) (r l : Nat) : Fp := ofLane (tget 0 t.v (256 * r + l))

/-- An op on lanes with its mode and random word. -/
def lanesModed (f : Nat → W32 → W32 → W32) (o : StreamOp) (t : Tile) : Tile :=
  let st := t.stream o.stream.val
  t.setVecNan o.dst.toNat ((numbered (t.vec o.s1.toNat)).map fun e =>
    f o.round.toNat (if o.round = 2 then st.random e.1 else 0) e.2)

/-- An op on pairs of lanes that does not round. -/
def lanesPaired (f : W32 → W32 → W32) (o : StreamOp) (t : Tile) : Tile :=
  t.setVecNan o.dst.toNat (List.zipWith f (t.vec o.s1.toNat) (t.vec o.s2.toNat))

/-- One level of VRED's tree: adjacent results joined, numbered within the level. -/
def redLevel (f : Nat → W32 → W32 → W32) : Nat → List W32 → List W32
  | m, a :: b :: rest => f m a b :: redLevel f (m + 1) rest
  | _, l => l

/-- VRED's tree: levels 1 to 8 (R141). -/
def redTree (f : Nat → W32 → W32 → W32) (lanes : List W32) : W32 :=
  ((List.range 8).foldl (fun l L => redLevel (fun m => f (256 - 2 ^ (8 - L) + m)) 0 l) lanes).getD 0 0

/-- VRED's effect. -/
def vredEffect (o : StreamOp) (t : Tile) : Tile :=
  let st := t.stream o.stream.val
  let sum (e : Nat) (a b : W32) : W32 :=
    toLane o.round.toNat (if o.round = 2 then st.random e else 0) ((ofLane a).add (ofLane b))
  let r := redTree (if o.imm.getLsbD 0 then fun _ => laneMax else sum) (t.vec o.s1.toNat)
  t.setVecNan o.dst.toNat (r :: List.replicate 255 0)

/-- VLEVEL's effect (R153). -/
def vlevelEffect (o : StreamOp) (t : Tile) : Tile :=
  let lanes := t.vec o.s1.toNat
  t.setVec o.dst.toNat ((List.range 4).map (fun g => BitVec.ofNat 32 (blockLevel ((lanes.drop (64 * g)).take 64))) ++
    List.replicate 252 0)

/-- The level that lane l takes from v[s2] (R154). -/
def levelOf (t : Tile) (o : StreamOp) (l : Nat) : Nat := levelLane (tget 0 t.v (256 * o.s2.toNat + l / 64))

/-- VFIX's effect (R154). -/
def vfixEffect (o : StreamOp) (t : Tile) : Tile :=
  t.setVec o.dst.toNat ((numbered (t.vec o.s1.toNat)).map fun e => laneFix e.2 (levelOf t o e.1) (o.imm.toNat % 64))

/-- VFLT's effect (R155). -/
def vfltEffect (o : StreamOp) (t : Tile) : Tile :=
  let st := t.stream o.stream.val
  t.setVecNan o.dst.toNat ((numbered (t.vec o.s1.toNat)).map fun e =>
    laneFlt e.2 (levelOf t o e.1) (o.imm.toNat % 64) o.round.toNat (if o.round = 2 then st.random e.1 else 0))

/-- VTHR's effect: lanes of smaller magnitude than lane 0 of v[s2] become 0, the others are counted. A lane that is kept is NaN when it or
the threshold is NaN (R137). -/
def vthrEffect (o : StreamOp) (t : Tile) : Tile :=
  let thr := laneVal t o.s2.toNat 0
  let kept (w : W32) : Bool := !((ofLane w).abs.lt thr)
  let lanes := t.vec o.s1.toNat
  (t.setVecNan o.dst.toNat (lanes.map fun w =>
      if !kept w then 0 else if thr = .nan ∨ isNanLane w then 0x7FC00000#32 else w)).modStream o.stream.val fun st =>
    st.setX (o.imm.toNat % 16) (BitVec.ofNat 32 (lanes.filter kept).length)

/-- VDIGEST's effect: one group step (R163). -/
def vdigestEffect (o : StreamOp) (t : Tile) : Tile :=
  let sum := digestSum 0 ((t.vec o.s1.toNat).map (·.toInt))
  t.modStream o.stream.val fun st =>
    let d := digestStep (st.xr (o.dst.toNat + 1) ++ st.xr o.dst.toNat) sum
    (st.setX o.dst.toNat (d.setWidth 32)).setX (o.dst.toNat + 1) ((d >>> 32).setWidth 32)

/-! ### The commands: sequencer -/

/-- NOP (R115). -/
def execNop (o : StreamOp) (s : State) : Host.Outcome State Fault Refusal := onDev (scalarOp 0x00 (fun _ st => st) o) s

/-- HALT (R115): the stream ends in state done. -/
def execHalt (o : StreamOp) (s : State) : Host.Outcome State Fault Refusal :=
  onDev (scalarOp 0x01 (fun _ st => { st with state := 3 }) o) s

/-- XLI (R115). -/
def execXli (o : StreamOp) (s : State) : Host.Outcome State Fault Refusal :=
  onDev (scalarOp 0x02 (fun o st => st.setX o.dst.toNat (opImm o)) o) s

/-- XLIH (R115). -/
def execXlih (o : StreamOp) (s : State) : Host.Outcome State Fault Refusal :=
  onDev (scalarOp 0x03 (fun o st => st.setX o.dst.toNat (o.imm.setWidth 16 ++ (st.xr o.dst.toNat).setWidth 16)) o) s

/-- XADD (R115). -/
def execXadd (o : StreamOp) (s : State) : Host.Outcome State Fault Refusal :=
  onDev (scalarOp 0x04 (fun o st => st.setX o.dst.toNat (st.xr o.s1.toNat + st.xr o.s2.toNat + (opImm o))) o) s

/-- XMUL (R115). -/
def execXmul (o : StreamOp) (s : State) : Host.Outcome State Fault Refusal :=
  onDev (scalarOp 0x05 (fun o st => st.setX o.dst.toNat (st.xr o.s1.toNat * st.xr o.s2.toNat)) o) s

/-- A taken branch: the pc of the branch plus the immediate, modulo 4,096 (R115). -/
def Stream.branch (st : Stream) (o : StreamOp) : Stream := { st with pc := st.pc - 1 + (opImm o).setWidth 12 }

/-- BNZ (R115). -/
def execBnz (o : StreamOp) (s : State) : Host.Outcome State Fault Refusal :=
  onDev (scalarOp 0x06 (fun o st => if st.xr o.s1.toNat ≠ 0 then st.branch o else st) o) s

/-- BZ (R115). -/
def execBz (o : StreamOp) (s : State) : Host.Outcome State Fault Refusal :=
  onDev (scalarOp 0x07 (fun o st => if st.xr o.s1.toNat = 0 then st.branch o else st) o) s

/-- BLT (R115). -/
def execBlt (o : StreamOp) (s : State) : Host.Outcome State Fault Refusal :=
  onDev (scalarOp 0x08 (fun o st => if (st.xr o.s1.toNat).slt (st.xr o.s2.toNat) then st.branch o else st) o) s

/-- WAITSLOT (R115). -/
def execWaitslot (o : StreamOp) (s : State) : Host.Outcome State Fault Refusal :=
  onDev (fun d => issueOp 0x09 (fun _ _ _ => {}) (fun _ => (0, 0))
    (fun o t => t.await o.stream.val (.slot (o.imm.toNat % 1024) (slotTarget d (o.imm.getLsbD 10))) d.canal.lockage) id o d) s

/-- WAITSLOT_RELEASE (R115): the stream resumes at the start of its slot. -/
def execWaitslotRelease (tile : Fin 528) (stream : Fin 4) (s : State) : Host.Outcome State Fault Refusal :=
  onDev (fun d =>
    match ((d.tile tile.val).stream stream.val).wait with
    | .slot slot L =>
      if d.canal.dwell = false ∧ L * 1024 + slot ≤ d.canal.lockage * 1024 + d.canal.slot
      then d.modTile tile.val fun t => t.resume stream.val else d
    | _ => d) s

/-- FENCE (R115): the stream waits until its earlier ops have completed. -/
def execFence (o : StreamOp) (s : State) : Host.Outcome State Fault Refusal :=
  onDev (fun d => issueOp 0x0A (fun _ _ _ => {}) (fun _ => (0, 0))
    (fun o t => if t.outstanding o.stream.val then t.await o.stream.val .fence d.canal.lockage else t) id o d) s

/-- FENCE_RELEASE (R115). -/
def execFenceRelease (tile : Fin 528) (stream : Fin 4) (s : State) : Host.Outcome State Fault Refusal :=
  onDev (fun d =>
    let t := d.tile tile.val
    if (t.stream stream.val).wait = .fence ∧ t.outstanding stream.val = false
    then d.modTile tile.val fun t => t.resume stream.val else d) s

/-- SIGNAL (R115). -/
def execSignal (o : StreamOp) (s : State) : Host.Outcome State Fault Refusal :=
  onDev (issueOp 0x0B (fun _ _ _ => {}) (fun _ => (0, 0)) (fun o t => t.setEvent (o.imm.toNat % 32)) id o) s

/-- WAITEV (R115): waits until the event bit is 1, then clears it. -/
def execWaitev (o : StreamOp) (s : State) : Host.Outcome State Fault Refusal :=
  onDev (fun d => issueOp 0x0C (fun _ _ _ => {}) (fun _ => (0, 0))
    (fun o t =>
      let b := o.imm.toNat % 32
      if t.event b then t.clearEvent b else t.await o.stream.val (.event b) d.canal.lockage) id o d) s

/-- WAITEV_RELEASE (R115). -/
def execWaitevRelease (tile : Fin 528) (stream : Fin 4) (s : State) : Host.Outcome State Fault Refusal :=
  onDev (fun d =>
    let t := d.tile tile.val
    match (t.stream stream.val).wait with
    | .event b => if t.event b then d.modTile tile.val fun t => (t.clearEvent b).resume stream.val else d
    | _ => d) s

/-- MARK (R413): the counters are latched as they stand when the op issues. -/
def execMark (o : StreamOp) (s : State) : Host.Outcome State Fault Refusal :=
  onDev (issueOp 0x0D (fun _ _ _ => {}) (fun _ => (0, 0)) (fun _ t => t) (latchTile o) o) s

/-! ### The commands: matrix -/

/-- MMA (R116, R142, R143, R150). -/
def execMma (o : StreamOp) (s : State) : Host.Outcome State Fault Refusal :=
  onDev (issueOp 0x10
    (fun _ _ st => let n := operandBytes o.fmt.toNat 128 (mmaK o.fmt.toNat); matrixPlan n n o st)
    (fun _ => (128, 0)) mmaEffect id o) s

/-- MMAX (R117, R144–R147). -/
def execMmax (o : StreamOp) (s : State) : Host.Outcome State Fault Refusal :=
  onDev (issueOp 0x11
    (fun _ _ st => let k := mmaxK o.fmt.toNat
      matrixPlan (operandBytes o.fmt.toNat 64 k) (operandBytes o.fmt.toNat 128 k) o st)
    (fun _ => (128, 0)) mmaxEffect id o) s

/-- ACCRD (R115, R148). -/
def execAccrd (o : StreamOp) (s : State) : Host.Outcome State Fault Refusal :=
  onDev (issueOp 0x12 (fun _ _ st => pairPlan o (o.imm.getLsbD 0) st)
    (fun o => (if o.imm.getLsbD 0 then 8 else 2, 0)) accrdEffect id o) s

/-- ACCWR (R115). -/
def execAccwr (o : StreamOp) (s : State) : Host.Outcome State Fault Refusal :=
  onDev (issueOp 0x13 (fun _ _ st => pairPlan o false st) (fun _ => (2, 0)) accwrEffect id o) s

/-- ACCX (R115, R145). -/
def execAccx (o : StreamOp) (s : State) : Host.Outcome State Fault Refusal :=
  onDev (issueOp 0x14 (fun _ _ st => pairPlan o true st) (fun _ => (4, 0)) accxEffect id o) s

/-- ACCZ (R115). -/
def execAccz (o : StreamOp) (s : State) : Host.Outcome State Fault Refusal :=
  onDev (issueOp 0x15 (fun _ _ _ => {}) (fun _ => (16, 0)) acczEffect id o) s

/-! ### The commands: vector -/

/-- Busy cycles of VLD and VST. -/
def moveBusy (o : StreamOp) : Nat × Nat := (0, (blockBytes o.fmt.toNat + 255) / 256)

/-- VLD (R139). -/
def execVld (o : StreamOp) (s : State) : Host.Outcome State Fault Refusal :=
  onDev (issueOp 0x20 (fun _ _ st => vldPlan o st) moveBusy vldEffect id o) s

/-- VST (R140). -/
def execVst (o : StreamOp) (s : State) : Host.Outcome State Fault Refusal :=
  onDev (issueOp 0x21 (fun _ _ st => vstPlan o st) moveBusy vstEffect id o) s

/-- VADD (R115, R137). -/
def execVadd (o : StreamOp) (s : State) : Host.Outcome State Fault Refusal :=
  onDev (vectorOp 0x22 1 (lanesRounded fun t l => (laneVal t o.s1.toNat l).add (laneVal t o.s2.toNat l)) o) s

/-- VSUB (R115, R137). -/
def execVsub (o : StreamOp) (s : State) : Host.Outcome State Fault Refusal :=
  onDev (vectorOp 0x23 1 (lanesRounded fun t l => (laneVal t o.s1.toNat l).add (laneVal t o.s2.toNat l).neg) o) s

/-- VMUL (R115, R137). -/
def execVmul (o : StreamOp) (s : State) : Host.Outcome State Fault Refusal :=
  onDev (vectorOp 0x24 1 (lanesRounded fun t l => (laneVal t o.s1.toNat l).mul (laneVal t o.s2.toNat l)) o) s

/-- VFMA (R115): rounded once. -/
def execVfma (o : StreamOp) (s : State) : Host.Outcome State Fault Refusal :=
  onDev (vectorOp 0x25 1 (lanesRounded fun t l =>
    (laneVal t o.dst.toNat l).add ((laneVal t o.s1.toNat l).mul (laneVal t o.s2.toNat l))) o) s

/-- VMAX (R141). -/
def execVmax (o : StreamOp) (s : State) : Host.Outcome State Fault Refusal :=
  onDev (vectorOp 0x26 1 (lanesPaired laneMax) o) s

/-- VMIN (R141). -/
def execVmin (o : StreamOp) (s : State) : Host.Outcome State Fault Refusal :=
  onDev (vectorOp 0x27 1 (lanesPaired laneMin) o) s

/-- VRSQRT (R141). -/
def execVrsqrt (o : StreamOp) (s : State) : Host.Outcome State Fault Refusal :=
  onDev (vectorOp 0x28 2 (lanesModed laneRsqrt) o) s

/-- VEXP (R141). -/
def execVexp (o : StreamOp) (s : State) : Host.Outcome State Fault Refusal :=
  onDev (vectorOp 0x29 2 (lanesModed laneExp) o) s

/-- VRED (R141). -/
def execVred (o : StreamOp) (s : State) : Host.Outcome State Fault Refusal := onDev (vectorOp 0x2A 1 vredEffect o) s

/-- VIADD (R115): INT32 add, modulo 2^32. -/
def execViadd (o : StreamOp) (s : State) : Host.Outcome State Fault Refusal :=
  onDev (vectorOp 0x2B 1 (fun o t => t.setVec o.dst.toNat (List.zipWith (· + ·) (t.vec o.s1.toNat) (t.vec o.s2.toNat))) o) s

/-- VLEVEL (R153). -/
def execVlevel (o : StreamOp) (s : State) : Host.Outcome State Fault Refusal := onDev (vectorOp 0x2C 1 vlevelEffect o) s

/-- VFIX (R154). -/
def execVfix (o : StreamOp) (s : State) : Host.Outcome State Fault Refusal := onDev (vectorOp 0x2D 1 vfixEffect o) s

/-- VFLT (R155). -/
def execVflt (o : StreamOp) (s : State) : Host.Outcome State Fault Refusal := onDev (vectorOp 0x2E 1 vfltEffect o) s

/-- VTHR (R115). -/
def execVthr (o : StreamOp) (s : State) : Host.Outcome State Fault Refusal := onDev (vectorOp 0x2F 1 vthrEffect o) s

/-- VDIGEST (R163). -/
def execVdigest (o : StreamOp) (s : State) : Host.Outcome State Fault Refusal := onDev (vectorOp 0x30 1 vdigestEffect o) s

/-- VSEED (R135). -/
def execVseed (o : StreamOp) (s : State) : Host.Outcome State Fault Refusal :=
  onDev (vectorOp 0x31 1 (fun o t => t.modStream o.stream.val fun st =>
    { st with seed := st.xr (o.s1.toNat + 1) ++ st.xr o.s1.toNat, draws := 0 }) o) s

/-- UNDEFINED_STREAM_OP (R114): an undefined op at the stream's pc halts it with TILE_ILLEGAL_OP. -/
def execUndefinedStreamOp (tile : Fin 528) (stream : Fin 4) (word : Word) (s : State) : Host.Outcome State Fault Refusal :=
  onDev (fun d =>
    if canIssue tile.val stream.val word d && undefinedWord word
    then tileFault 0x500 tile.val (some stream.val) ((d.tile tile.val).stream stream.val).pc.toNat word
      [stream.val] d else d) s

end Sys2Proof.Machine
end

