-- ==== Sys2Proof/Machine/Ring.lean ====
section
/-! DEFINITION. Ring links, the bypass and cluster time (chapter 13), and the coalescing of fault reports (R401–R403). The
flip at lockage 0 (R307) stands in Machine/Boundary.lean. -/

namespace Sys2Proof.Machine

/-! ### Positions (R293, R294) -/

/-- Positions and size of this device on a ring: 0 the member ring, 1 the trunk ring; size 0 where it is on none. -/
def ringPos (d : Dev) (ring : Nat) : Nat × Nat :=
  if ring = 0 then (d.ring.memberPos, d.ring.memberSize) else (d.ring.trunkPos, d.ring.trunkSize)

/-- The lower position of the ring link that link k of this device ends (R301). -/
def lowerPos (d : Dev) (k : Nat) : Nat :=
  let (p, n) := ringPos d (linkRing k)
  if k < 2 then p else if p = 0 then n - 1 else p - 1

/-- The other link of the same ring. -/
def otherLink (k : Nat) : Nat := if k < 2 then k + 2 else k - 2

/-- A link is up. -/
def linkUp (d : Dev) (k : Nat) : Bool := decide ((d.link k).state = 2)

/-- The way from position p toward position z of a ring of n, as its link's offset (0 the next position's link, 2 the previous
one's) and its hops: the shorter way, a tie over the previous one's; an open ring has one way (R309). -/
def wayTo (z p n : Nat) (isOpen : Bool) : Nat × Nat :=
  let back := (p + n - z) % max n 1
  if isOpen then (if z ≤ p then (2, p - z) else (0, z - p)) else if back ≤ n - back then (2, back) else (0, n - back)

/-- The upstream link and the hops to the root (R309). In a chain whose root is not at its position 0 the tree leads to the root (log
entry 136). -/
def upstreamOf (d : Dev) : Nat × Nat :=
  let r := d.ring
  let m := wayTo r.rootAt r.memberPos r.memberSize (r.chains.contains 0)
  let t := wayTo 0 r.trunkPos r.trunkSize (r.chains.contains 1)
  let hops := (if r.memberPos = r.rootAt then 0 else m.2) + (if r.trunkPos = 0 then 0 else t.2)
  if r.memberPos ≠ r.rootAt then (m.1, hops) else if r.trunkPos ≠ 0 then (t.1 + 1, hops) else (0, 0)

/-! ### The coalescing table (R401–R403) -/

/-- Send the report of an identity: the root posts one record of operation 0 with the count, another member sends a cell. -/
def forwardReport (r : ErrorRecord) (count : Nat) (d : Dev) : Dev :=
  if d.ring.root then publish { r with operation := 0, duplicates := BitVec.ofNat 32 count } d
  else sendCell d.time.upstream 5 (linkRing d.time.upstream) 0 d.deviceId (faultPayload r false count) d

/-- The gather of an identity ends. -/
def gatherEnd (id : Word) (d : Dev) : Dev :=
  match d.rel.coal.find? fun e => e.identity == id with
  | none => d
  | some e =>
    if e.forwarded.isSome ∨ d.uptime < e.since + 5000 then d
    else
      let d := d.modRel fun m => { m with coal := m.coal.map fun x => if x.identity == id then { x with forwarded := some x.count } else x }
      forwardReport e.record e.count d

/-- An identity's entry is freed; a count that grew after forwarding goes on as one update. -/
def entryEnd (id : Word) (d : Dev) : Dev :=
  match d.rel.coal.find? fun e => e.identity == id with
  | none => d
  | some e =>
    if d.uptime < e.since + 10000000 then d
    else
      let d := d.modRel fun m => { m with coal := m.coal.filter fun x => !(x.identity == id) }
      let grown := e.count - e.forwarded.getD e.count
      if grown = 0 then d
      else if d.ring.root then d.modRel fun m => { m with suppressed := satAdd (2 ^ 32 - 1) m.suppressed grown }
      else sendCell d.time.upstream 5 (linkRing d.time.upstream) 0 d.deviceId (faultPayload e.record true grown) d

/-- The record that a FAULT_REPORT cell describes. -/
def FaultCell.record (c : FaultCell) : ErrorRecord :=
  { cls := c.cls, unit := c.unit, timeNs := c.timeNs, timeFrac := c.timeFrac, temperature := c.temperature,
    voltage := c.voltage, syndrome := fit 16 (leBytes 4 c.syndrome.toNat), identity := c.identity }

/-- A report arrives: an update adds to the root's count and passes through every other member. -/
def faultReport (c : FaultCell) (d : Dev) : Dev :=
  if c.update then
    if d.ring.root then d.modRel fun m => { m with suppressed := satAdd (2 ^ 32 - 1) m.suppressed c.duplicates.toNat }
    else sendCell d.time.upstream 5 (linkRing d.time.upstream) 0 d.deviceId (faultPayload (FaultCell.record c) true c.duplicates.toNat) d
  else coalesce (FaultCell.record c) c.duplicates.toNat d

/-! ### The bypass (R304) -/

/-- The lowest cause for which pair p may not be held open, if any. -/
def holdCause (d : Dev) (p : Nat) : Option Nat :=
  let pair := tget {} d.ring.pairs p
  let stale (k : Nat) : Bool := match (d.link k).lastTx with | some t => decide (t + 300000 < d.uptime) | none => true
  if !d.power.pwrGood || d.power.tripped then some 0
  else if pair.open_ && (stale p || stale (p + 2)) then some 1
  else if pair.commanded then some 2
  else if !d.boot.passed then some 4
  else if !d.power.ringJoin then some 5
  else if d.ring.deviceFailed then some 6
  else none

/-- Open each pair that may be held open; its links begin to train and to send heartbeats (R301, R304). -/
def openPairs (d : Dev) : Dev :=
  [0, 1].foldl (fun d p =>
    if (tget {} d.ring.pairs p).open_ ∨ (holdCause d p).isSome then d
    else
      let start (l : RingLink) : RingLink := { l with state := 1, lastTx := some d.uptime, sendDue := nextBeat d.beat }
      let d := (d.modLink p start).modLink (p + 2) start
      (d.modRing fun r => { r with pairs := tmod {} r.pairs p fun b => { b with open_ := true, closing := false } }).emit (.pin (bypPin p) false)) d

/-- The switches of a pair have closed: light passes the device. -/
def switchClosed (p : Nat) (d : Dev) : Dev :=
  if (tget {} d.ring.pairs p).closing then
    let d := d.modRing fun r => { r with pairs := tmod {} r.pairs p fun b => { b with closing := false } }
    (d.modLink p fun l => { l with state := 4 }).modLink (p + 2) fun l => { l with state := 4 }
  else d

/-! ### Assembly (R305–R307) -/

/-- The IDs of a roster as R295 takes their CRC. -/
def rosterId (ids : List (BitVec 20)) : Nat := (crc32 (ids.flatMap fun i => leBytes 4 i.toNat)).toNat

/-- Every other member of the roster has reported its timebase locked (R305 step 5). -/
def groupLocked (d : Dev) : Bool := d.time.counting && d.ring.roster.all fun i => i.toNat == d.deviceId || d.ring.lockedMembers.contains i.toNat

/-- The root tells every member when lockage 0 begins, once the roster is checked, the timebase of the whole group has locked and its
own load waits for it (R305 step 6): 1 ms ahead (log entry 66). -/
def announceZero (d : Dev) : Dev :=
  if d.ring.root ∧ d.ring.rosterOk ∧ groupLocked d ∧ d.manifest.stage = 5 ∧ 1 < d.loadGroup ∧ d.ring.zeroTime = none ∧ d.ring.ready = false then
    let t := d.time.ns + 1000000#64
    broadcast (.zero t) (d.modRing fun r => { r with zeroTime := some t })
  else d

/-- The columns that have reached the root agree with the member rosters: the member at trunk position t of the trunk ring at member
position m is member m of member ring t, so that all members of a trunk ring have one m and its neighbours are next to one another
in t (R294). -/
def columnsAgree (r : Ring) : Bool :=
  r.columns.all fun c => decide (c.2.length = r.trunkSize) && (List.range r.trunkSize).all fun t =>
    (tget [] r.memberRosters t)[c.1]? == c.2[t]?

/-- The root checks the assembled roster against its header (R295): a difference, or a cabling that breaks R294, fails every member's
load. -/
def checkRoster (d : Dev) : Dev :=
  match d.loading with
  | none => d
  | some m =>
    if !d.ring.root || d.ring.roster.isEmpty || decide (m.groupSize = 1) then d
    else if m.groupId = rosterId d.ring.roster ∧ m.groupSize = d.ring.roster.length ∧ columnsAgree d.ring = true then
      announceZero (d.modRing fun r => { r with rosterOk := true })
    else
      let d := broadcast .topology d
      if 1 ≤ d.manifest.stage ∧ d.manifest.stage ≤ 5 then failLoad 0x10 0xFF 60 d else d

/-- The lowest ID of the own member ring; the own one without a ring. -/
def ringLow (d : Dev) : Nat := (tget [] d.ring.taken 0).foldl (fun m i => min m i.toNat) d.deviceId

/-- This device's place is known on its rings: shape, root, upstream and hops follow (R293, R294, R309). The group root is the lowest ID
of the group; before the trunk ring has assembled no member of a ring with a trunk link knows it. -/
def placed (d : Dev) : Dev :=
  let r := d.ring
  let waits := decide (r.trunkSize ≤ 1) && (linkUp d 1 || linkUp d 3)
  let low := if 1 < r.trunkSize then r.lowId else ringLow d
  let shape := if 1 < r.trunkSize then 3 else if r.memberSize ≤ 1 then 0 else if r.chains.contains 0 then 1 else 2
  let at_ := (tget [] r.taken 0).idxOf (BitVec.ofNat 20 low)
  let d := d.modRing fun r => { r with shape := shape, lowId := low, root := !waits && decide (low = d.deviceId),
                                       rootAt := if at_ < r.memberSize then at_ else 0 }
  let u := upstreamOf d
  let d := d.modTime fun t => { t with upstream := u.1, hops := u.2 }
  if d.ring.root then startRootTime d
  else d.modTime fun t => { t with source := 3, state := if t.state = 0 then 1 else t.state }

/-- The whole roster at the root: the member ring's own for one ring, the member rosters by trunk position for a tree, once every
trunk ring has reported too. -/
def wholeRoster (d : Dev) : Option (List (BitVec 20)) :=
  let r := d.ring
  if r.trunkSize ≤ 1 then some (tget [] r.memberRosters 0)
  else if ((List.range r.trunkSize).all fun t => (tfind r.memberRosters t).isSome) &&
      (List.range r.memberSize).all fun m => (tfind r.columns m).isSome then
    some ((List.range r.trunkSize).flatMap fun t => tget [] r.memberRosters t)
  else none

/-- The root takes up what rosters have reached it. -/
def rootRoster (d : Dev) : Dev :=
  if !d.ring.root then d
  else match wholeRoster d with
    | some ids => checkRoster (d.modRing fun r => { r with roster := ids })
    | none => d

/-- The payloads of the ROSTER cells that carry a list, in runs of 8 IDs: the count of IDs up to and with the run, what the list is (0
gathered, 1 a member ring's, 2 a trunk ring's), its position, the IDs (log entry 67). -/
def rosterRuns (kind pos : Nat) (ids : List (BitVec 20)) : List Bytes :=
  (List.range ((ids.length + 7) / 8)).map fun j =>
    leBytes 2 (min (8 * j + 8) ids.length) ++ leBytes 1 kind ++ leBytes 1 pos ++ ((ids.drop (8 * j)).take 8).flatMap fun i => leBytes 4 i.toNat

/-- Send a list of IDs on a link that is up. -/
def sendRoster (link hops origin kind pos : Nat) (ids : List (BitVec 20)) (d : Dev) : Dev :=
  if linkUp d link then (rosterRuns kind pos ids).foldl (fun d p => sendCell link 3 (linkRing link) hops origin p d) d else d

/-- Send a gathered list on, with the lows that go with it on a trunk ring, each behind its ID. -/
def sendGather (link hops : Nat) (ids lows : List (BitVec 20)) (d : Dev) : Dev :=
  sendRoster link hops d.deviceId 0 0 (if lows = [] then ids else (ids.zip lows).flatMap fun e => [e.1, e.2]) d

/-- The lows that a list of the own ID starts with: the lowest ID of the member ring, on a trunk ring. -/
def ownLows (ring : Nat) (d : Dev) : List (BitVec 20) := if ring = 1 then [BitVec.ofNat 20 (ringLow d)] else []

/-- The assembly of a ring starts (again): every member sends its own ID along the ring; a device without a previous
neighbour is position 0 of a chain and sends the roster (R306). -/
def startAssembly (ring : Nat) (d : Dev) : Dev :=
  let own := BitVec.ofNat 20 d.deviceId
  let d := d.modRing fun r => { r with lowest := tset 0 r.lowest ring 0, taken := tset [] r.taken ring [], rosterOk := false, roster := [],
                                       chains := delSet ring r.chains }
  if linkUp d ring = false then d
  else if (d.link (ring + 2)).state = 2 then sendCell ring 2 ring 0 d.deviceId (leBytes 4 own.toNat) d
  else sendGather ring 0 [own] (ownLows ring d) (d.modRing fun r => { r with chains := addSet ring r.chains })

/-- An ASSEMBLE cell: its return makes position 0; else it goes on if its ID is lower than the own one and than every one
forwarded so far. One that comes when the ring stands assembled says that the ring assembles again (R306). -/
def assemble (link : Nat) (id : BitVec 20) (hops : Nat) (d : Dev) : Dev :=
  let ring := linkRing link
  let d := if d.ring.ready = false ∧ tget [] d.ring.taken ring ≠ [] then startAssembly ring d else d
  let low := tget 0 d.ring.lowest ring
  if id.toNat = d.deviceId then sendGather ring 0 [id] (ownLows ring d) d
  else if id.toNat < d.deviceId ∧ (low = 0 ∨ id.toNat + 1 < low) then
    let d := d.modRing fun r => { r with lowest := tset 0 r.lowest ring (id.toNat + 1) }
    if linkUp d ring then sendCell ring 2 ring (hops + 1) id.toNat (leBytes 4 id.toNat) d else d
  else d

/-- A list from its place z on, around. -/
def rotate (z : Nat) (ids : List (BitVec 20)) : List (BitVec 20) := ids.drop z ++ ids.take z

/-- The place in a trunk ring's list of the member that lies in the group root's member ring: the one whose member ring has the lowest
ID (R294). -/
def rootPlace (lows : List (BitVec 20)) : Nat := lows.idxOf (lows.foldl (fun m i => if i.toNat < m.toNat then i else m) (lows.headD 0))

/-- A member ring's roster gives this device its m, and its trunk ring assembles. -/
def takeMember (ids : List (BitVec 20)) (d : Dev) : Dev :=
  let d := d.modRing fun r => { r with memberPos := ids.idxOf (BitVec.ofNat 20 d.deviceId), memberSize := ids.length, taken := tset [] r.taken 0 ids,
                                       memberRosters := tput r.memberRosters r.trunkPos ids }
  let d := placed d
  if linkUp d 1 then startAssembly 1 d else d

/-- A trunk ring's list gives this device its t; in the root's member ring it goes on to the root as a column. -/
def takeTrunk (ids lows : List (BitVec 20)) (d : Dev) : Dev :=
  let column := rotate (rootPlace lows) ids
  let p := column.idxOf (BitVec.ofNat 20 d.deviceId)
  let d := d.modRing fun r => { r with trunkPos := p, trunkSize := ids.length, taken := tset [] r.taken 1 ids,
                                       lowId := ((lows[rootPlace lows]?).getD 0).toNat,
                                       memberRosters := tput r.memberRosters p (tget [] r.taken 0) }
  let d := placed d
  if p ≠ 0 then d
  else if d.ring.root then d.modRing fun r => { r with columns := tput r.columns r.memberPos column }
  else sendRoster d.time.upstream 0 d.deviceId 2 d.ring.memberPos column d

/-- A complete list of a ring gives this device its place there. The roster of a member ring goes up the time tree to the root, and so
does the report of a timebase that is locked already (R305). -/
def takeRoster (ring : Nat) (ids lows : List (BitVec 20)) (d : Dev) : Dev :=
  let d := if ring = 0 then takeMember ids d else takeTrunk ids lows d
  let d := if d.ring.memberPos = 0 ∧ d.ring.trunkPos ≠ 0 ∧ ring = 1 then
      sendRoster d.time.upstream 0 d.deviceId 1 d.ring.trunkPos (tget [] d.ring.taken 0) d
    else d
  let d := if d.time.locked && !d.ring.root then reportRoot .locked d else d
  rootRoster d

/-- A list that goes to the root: every member notes it on its way, since the root may not know yet that it is; any but the root passes
it on up the time tree. -/
def passRoster (kind pos hops : Nat) (ids : List (BitVec 20)) (take : Ring → Ring) (d : Dev) : Dev :=
  let d := d.modRing take
  if d.ring.root then rootRoster d else sendRoster d.time.upstream (hops + 1) d.deviceId kind pos ids d

/-- The ROSTER cells of a list. A member that finds itself missing takes the next place and passes the list on; the last of a chain
turns it back. A member that finds itself in it takes the complete list, once, and passes it on (log entry 67). -/
def roster (link : Nat) (c : RosterCell) (hops : Nat) (d : Dev) : Dev :=
  let ring := linkRing link
  let own := BitVec.ofNat 20 d.deviceId
  match c with
  | .report t ids => passRoster 1 t hops ids (fun r => { r with memberRosters := tput r.memberRosters t ids }) d
  | .column m ids => passRoster 2 m hops ids (fun r => { r with columns := tput r.columns m ids }) d
  | .gather ids lows =>
    if own ∈ ids then
      if tget [] d.ring.taken ring = ids then d
      else sendGather (otherLink link) (hops + 1) ids lows (takeRoster ring ids lows d)
    else
      let all := ids ++ [own]
      let allLows := lows ++ ownLows ring d
      if linkUp d ring then sendGather ring (hops + 1) all allLows d
      else sendGather (ring + 2) (hops + 1) all allLows
        (takeRoster ring all allLows (d.modRing fun r => { r with chains := addSet ring r.chains }))

/-- The root takes back the time of lockage 0 that it has broadcast; it gives a new one once the roster is checked again (R307). -/
def takeBackZero (d : Dev) : Dev :=
  let was := d.ring.zeroTime.isSome
  let d := d.modRing fun r => { r with zeroTime := none, rosterOk := false, roster := [] }
  if was then broadcast .zeroAbort d else d

/-- A link is lost before lockage 0 (R303, R307): it trains again, upon which its ring assembles again, and the root hears of it. -/
def lostEarly (k : Nat) (d : Dev) : Dev :=
  let d := d.modLink k fun l => { l with state := 1, missed := 0 }
  if d.ring.root then takeBackZero d else reportRoot .lost d

/-! ### Links (R298, R301–R303) -/

/-- The identity of a ring link's failure (R402): the device for which it is link 0 or 1 is its origin. -/
def linkIdentity (d : Dev) (k : Nat) : Word :=
  identityOf (if k < 2 then d.deviceId else (d.link k).peer.toNat) (unitBlock 4 12 (linkRing k)) d.rel.groupEpoch

/-- RING_LINK_FAIL of link k. -/
def postLinkFail (k cause : Nat) (d : Dev) : Dev :=
  let r := mkRecord 0x0D00 (unitBlock (if k < 2 then 4 else 5) 12 k) 0
    (syn [(32, 1, k), (33, 1, cause), (36, 4, (d.link k).peer.toNat), (40, 8, d.canal.lockage)]) d
  postRecord { r with identity := linkIdentity d k } false d

/-- A training of link k ends (R298): the link comes up within both latency limits, else RING_LINK_FAIL with cause 1 or 2. A span across
two or more closed bypasses is a failed link (R304), with cause 1 (log entry 136). -/
def linkTraining (k : Nat) (t : Training) (d : Dev) : Dev :=
  if (tget {} d.ring.pairs (linkRing k)).open_ = false then d
  else
    let good := t.ok && decide (t.bypasses < 2) && decide (t.barge ≤ 300) && decide (t.cell ≤ if t.bypasses = 1 then 100 else 50)
    let again := decide (0 < (d.link k).nextDue)
    let d := d.modLink k fun l => { l with
                                    state := if good then 2 else if t.ok && decide (2 ≤ t.bypasses) then 3 else 0, missed := 0, latency := if t.ok then t.barge else l.latency,
                                    cellLatency := if t.ok then t.cell else l.cellLatency, asym := if t.ok then t.asym else l.asym,
                                    peer := if t.ok then t.peer else l.peer, nextDue := nextBeat d.beat,
                                    retrains := satAdd 65535 l.retrains (b2n again) }
    let d := if good then d.modManifest fun m => { m with unhealthy := delSet (0x400 + k) m.unhealthy } else d
    let d := d.onLane fun c => (CellLane.restart k c, [])
    if good then (if d.ring.ready then d else startAssembly (linkRing k) d)
    else postLinkFail k (if t.ok && decide (t.bypasses < 2) then 2 else 1) d

/-- Send the heartbeats that have fallen due on the links of open pairs (R301). -/
def sendHeartbeats (d : Dev) : Dev :=
  let now := d.beat
  [0, 1, 2, 3].foldl (fun d k =>
    if (tget {} d.ring.pairs (linkRing k)).open_ = false ∨ now < (d.link k).sendDue ∨ (tget {} d.power.domains (53 + k)).state = 3 ∨
        (2 ≤ k ∧ d.ctrl.eastStopped = true) then d
    else
      let l := d.link k
      let d := sendCell k 1 (linkRing k) 0 d.deviceId (leBytes 4 d.time.frac.toNat ++ leBytes 8 l.lastRx.toNat ++ leBytes 4 l.lastRxFrac.toNat) d
      let d := d.modLink k fun l => { l with lastTx := some d.uptime, sendDue := nextBeat now }
      if k = d.time.upstream then d.modTime fun t => { t with lastTx := t.ns, lastTxFrac := t.frac } else d) d

/-- A detour is armed for lockage L on this member (R301–R303): a notice for both links of one device with one L means that
device has failed and takes no detour; a second failure of an open ring is a split. -/
def armDetour (alternate ring lower L : Nat) (d : Dev) : Dev :=
  let (p, n) := ringPos d ring
  let neighbour := d.ring.armed.find? fun a => a.2.1 = ring ∧ a.2.2.2 = L ∧
    ((lower + 1) % max n 1 = a.2.2.1 ∨ (a.2.2.1 + 1) % max n 1 = lower) ∧ a.2.2.1 ≠ lower
  match neighbour with
  | some a =>
    let dead := if (lower + 1) % max n 1 = a.2.2.1 then a.2.2.1 else lower
    let d := d.modRing fun r => { r with armed := r.armed.filter fun b => !(b.2.1 == ring && b.2.2.1 == a.2.2.1) }
    if dead = p then failDevice 6 d
    else
      -- the partners of the failed device see one fault, of that device (R402)
      let k := if (dead + 1) % max n 1 = p then ring + 2 else ring
      if (dead + 1) % max n 1 = p ∨ (p + 1) % max n 1 = dead then
        let was := linkIdentity d k
        let now := identityOf (d.link k).peer.toNat unitDevice d.rel.groupEpoch
        d.modRel fun m => { m with coal := m.coal.map fun e =>
                                   if e.identity == was && e.forwarded.isNone then { e with identity := now, record := { e.record with identity := now, unit := unitDevice } } else e }
      else d
  | none =>
    let same := d.ring.armed.find? fun a => a.2.1 = ring ∧ a.2.2.1 = lower
    let L := match same with | some a => max L a.2.2.2 | none => L
    let split := d.ring.chains.contains ring && same.isNone
    let d := d.modRing fun r => { r with armed := (r.armed.filter fun b => !(b.2.1 == ring && b.2.2.1 == lower)) ++ [(alternate, ring, lower, L)] }
    if split then post 0x0D03 (unitBlock 4 12 127) 0 (syn [(32, 1, ring), (34, 2, lower), (40, 8, L)]) d else d

/-- The program alternate that R301 chooses under R44 for a failed ring link: its coverage holds the whole failed set, the link's code
with it. -/
def linkAlternate (d : Dev) : Option Nat :=
  smallestCover d.manifest.failedSet (d.alternates.filter fun a => a.2.kind = 1 ∧ a.2.base = d.program)

/-- The detour of link k by alternate a is noticed over the ring's other link and over the failed one, and armed here, for lockage L =
k + 3 (R301). -/
def noticeDetour (k a : Nat) (d : Dev) : Dev :=
  let L := d.canal.lockage + 3
  let low := lowerPos d k
  let body := leBytes 8 a ++ leBytes 8 low ++ leBytes 8 L
  let d := sendCell (otherLink k) 4 (linkRing k) 0 d.deviceId body d
  let d := sendCell k 4 (linkRing k) 0 d.deviceId body d
  armDetour a (linkRing k) low L (d.modRing fun r => { r with noticed := r.noticed ++ [(linkRing k, low, L)] })

/-- Link k has failed after lockage 0 (R301): RING_LINK_FAIL, its unit code held failed, the detour chosen and noticed, the step suspect
(R302's table). Without a covering program alternate the device has failed (R28). -/
def declareLink (k : Nat) (d : Dev) : Dev :=
  let d := postLinkFail k 0 d
  let d := suspect 4 0xFFFF (d.modLink k fun l => { l with state := 3, missed := 3 })
  let code := 0x400 + k
  let d := d.modManifest fun m => { m with heldFailed := addSet code m.heldFailed, failedSet := addSet code m.failedSet,
                                           unhealthy := addSet code m.unhealthy }
  match linkAlternate d with
  | none => failDevice 6 d
  | some a => noticeDetour k a d

/-- A heartbeat of link k has not come by its due time (R301). -/
def heartbeatMiss (k : Nat) (d : Dev) : Dev :=
  let l := d.link k
  let due := l.nextDue + 10000 + (if l.missed = 2 then 0 else l.cellLatency)
  if l.state ≠ 2 ∨ d.beat < due then d
  else if l.missed < 2 then d.modLink k fun l => { l with missed := l.missed + 1, nextDue := l.nextDue + 100000 }
  else if d.ring.ready then declareLink k (d.modLink k fun l => { l with nextDue := l.nextDue + 100000 })
  else lostEarly k d

/-- A DETOUR_NOTICE (R301, R302): passed on once, then armed; a notice that comes after lockage L has begun, or whose
alternate is absent or no program alternate, makes this member a failed device. -/
def detourNotice (link a low L origin hops : Nat) (d : Dev) : Dev :=
  let ring := linkRing link
  if (ring, low, L) ∈ d.ring.noticed then d
  else
    let d := d.modRing fun r => { r with noticed := r.noticed ++ [(ring, low, L)] }
    let d := sendCell (otherLink link) 4 ring (hops + 1) origin (leBytes 8 a ++ leBytes 8 low ++ leBytes 8 L) d
    let syndrome := syn [(32, 1, ring), (33, 1, a), (40, 8, L)]
    let kind := match d.alternates[a]? with | some x => some x.2.kind | none => none
    if kind ≠ some 1 then failDevice 6 (post 0x0D01 (unitBlock 4 12 127) 0 syndrome d)
    else if L ≤ d.canal.lockage then failDevice 6 (post 0x0D02 (unitBlock 4 12 127) 0 syndrome d)
    else armDetour a ring low L d

/-! ### Cluster time (R308–R311) -/

/-- One nanosecond passes: cluster time, once it counts, follows its source's corrections, at most 10 ppm after lockage 0, and never
runs backward (R308). At a whole second the PTP masters send (R310). -/
def tick (d : Dev) : Dev :=
  let d := { d with uptime := d.uptime + 1 }
  if d.time.counting = false then d
  else
    let limit : Int := if d.canal.aligned then 42949 else 4294967296
    let c := max (-limit) (min limit d.time.slew)
    let was := d.time.ns.toNat / 1000000000
    let d := d.modTime fun t => { t.advance (4294967296 + c).toNat with slew := t.slew - c }
    if d.time.ns.toNat / 1000000000 = was then d else ptpSecond d

/-- A step with no command waiting: one nanosecond passes; cluster time runs while the device has power (log entry 99). -/
def idle (s : State) : State :=
  { s with dev := if s.dev.power.state = .off then { s.dev with uptime := s.dev.uptime + 1 } else tick s.dev }

/-- The due time of a heartbeat that arrives: the multiple of 100 µs nearest to its own time; before lockage 0 ends' times may still differ,
and the next one due is meant (log entry 68). -/
def heartbeatDue (h : Heartbeat) (d : Dev) : Nat :=
  if d.ring.ready then (h.time.toNat + 50000) / 100000 * 100000 else nextBeat (d.beat - min d.beat 100000)

/-- The first heartbeat of an upstream neighbour whose time counts starts the own count there (log entry 68). -/
def startMemberTime (k : Nat) (h : Heartbeat) (d : Dev) : Dev :=
  d.modTime fun t => { t.advance (h.time.toNat * 4294967296 + h.frac.toNat + (d.link k).cellLatency * 4294967296) with counting := true }

/-- A heartbeat arrives on a link that is up (R301, R309), or a cell that is dropped and counted in its place (R300, log entry 129). -/
def heartbeatReceive (k : Nat) (h : Heartbeat) (d : Dev) : Dev :=
  let l := d.link k
  if l.state ≠ 2 then d
  else if h.bad then d.modLink k fun l => { l with fecCorrected := satAdd (2 ^ 32 - 1) l.fecCorrected h.fec, crcCells := satAdd 65535 l.crcCells 1 }
  else
    let d := if h.fec = 0 then d else d.modLink k fun l => { l with fecCorrected := satAdd (2 ^ 32 - 1) l.fecCorrected h.fec }
    let d := h.grants.foldl (fun d ty => d.onLane (CellLane.grant k ty)) d
    let due := heartbeatDue h d
    let inTime := if d.ring.ready then decide (l.nextDue ≤ due ∧ d.beat < due + 10000 + l.cellLatency) else true
    let t2 := stampOf d.time.ns d.time.frac
    let t3 := stampOf d.time.lastTx d.time.lastTxFrac
    let d := d.modLink k fun l => { l with lastRx := d.time.ns, lastRxFrac := d.time.frac,
                                           missed := if inTime then 0 else l.missed, nextDue := if inTime then due + 100000 else l.nextDue }
    if d.ring.root ∨ k ≠ d.time.upstream ∨ d.time.source ≠ 3 ∨ h.time = 0 then d
    else if d.time.counting = false then startMemberTime k h d
    else if d.time.lastTx = 0 ∨ h.stamp = 0 then d
    else steer (((t2 - stampOf h.time h.frac) - (stampOf h.stamp h.stampFrac - t3) - l.asym * 4294967296 / 1000) / 2) d

/-- The root loses the source it follows (R308). -/
def sourceLost (d : Dev) : Dev :=
  if d.ring.root = false ∨ (d.time.source ≠ 1 ∧ d.time.source ≠ 2) then d
  else
    let lost := d.time.source
    let d := d.modTime fun t => { t with ppsOk := t.ppsOk && decide (lost ≠ 1), ptpOk := t.ptpOk && decide (lost ≠ 2) }
    let next := nextSource d.time
    let d := d.modTime fun t => { t with source := next, state := if next = 4 then 3 else 1, good := 0 }
    post 0x0D06 (unitBlock 4 12 127) 0 (syn [(32, 1, lost), (33, 1, d.time.state), (40, 8, (BitVec.ofInt 64 d.time.offset).toNat)]) d

/-- A PPS edge at the input, with the 10 MHz input running or not: the root whose TAI second is known follows the two; elsewhere they are
only monitored (R308). -/
def ppsIn (tenMhz : Bool) (d : Dev) : Dev :=
  let d := d.modTime fun t => { t with ppsOk := tenMhz }
  if d.ring.root = false ∨ d.time.secondKnown = false ∨ tenMhz = false then d
  else
    let d := d.modTime fun t => { t with source := 1, state := if t.source = 1 then t.state else 1, counting := true }
    let second : Int := 1000000000 * 4294967296
    let x := stampOf d.time.ns d.time.frac % second
    steer (if x * 2 < second then x else x - second) d

/-- A PPS output falls. -/
def ppsFall (o : Nat) (d : Dev) : Dev := (d.modTime fun t => { t with ppsHigh := tset 0 t.ppsHigh o 0 }).emit (.ppsEdge o false)

/-- A PPS output rises or falls (R311): mode 1 rises at a whole second and falls 100 ms later, mode 2 rises at slot 0 of a step-start
lockage (when a marker falls: log entry 138); a device that is not locked drives no pulse. -/
def ppsOutput (o : Nat) (d : Dev) : Dev :=
  let mode := tget 0 d.time.pps o
  let rose := tget 0 d.time.ppsHigh o
  if rose ≠ 0 then (if mode ≠ 1 ∨ d.time.state ≠ 2 ∨ rose - 1 + 100000000 ≤ d.time.ns.toNat then ppsFall o d else d)
  else if d.time.state ≠ 2 then d
  else if mode = 1 then
    (if d.time.ns.toNat % 1000000000 = 0 then (d.modTime fun t => { t with ppsHigh := tset 0 t.ppsHigh o (t.ns.toNat + 1) }).emit (.ppsEdge o true) else d)
  else if decide (mode = 2) && d.canal.aligned && decide (d.canal.slot = 0) && isStepStart d d.canal.lockage then d.emit (.ppsEdge o true)
  else d

/-! ### BROADCAST (R299, R46, R75, R307) -/

/-- The root names the flip lockage of a group reload once every member is ready (R46): with a step structure the first
step-start lockage at least 1 ms ahead, else or with rollback the first lockage so far ahead (log entry 69). -/
def announceFlip (d : Dev) : Dev :=
  if d.ring.root ∧ d.ring.ready ∧ d.manifest.stage = 5 ∧ d.loadGroup ≤ d.manifest.membersReady ∧ d.manifest.flipLockage = none then
    let L := d.canal.lockage + 1 + 195 * d.canal.f / 1024
    let L := if d.manifest.rollback then L else if isStepStart d L then L else nextStepStart d L
    broadcast (.flip L) (d.modManifest fun m => { m with flipLockage := some L })
  else d

/-- A member's report of ready reaches the root (or is the root's own). -/
def countReady (d : Dev) : Dev :=
  announceFlip (d.modManifest fun m => { m with membersReady := m.membersReady + 1,
                                                firstReady := match m.firstReady with | some t => some t | none => some d.uptime })

/-- The root aborts the group's load (R46): its own ends with ABORTED, which every member hears; where it has none in stages 1 to 5, only
the others' do. -/
def abortGroup (d : Dev) : Dev :=
  if 1 ≤ d.manifest.stage ∧ d.manifest.stage ≤ 5 then failLoad 0x11 0xFF 0 d
  else broadcast .abort (d.modManifest fun m => { m with membersReady := 0, firstReady := none, flipLockage := none })

/-- The smallest factor that the group demands, broadcast by the root for a boundary within 2 ms (R75; the boundary: log entry
69). -/
def announceStretch (f : Nat) (d : Dev) : Dev :=
  let L := d.canal.lockage + 1 + 195 * d.canal.f / 1024
  broadcast (.stretch f L) (d.modCanal fun c => { c with stretchDue := some (L, f) })

/-- The factor that this device's own causes demand. -/
def Power.ownDemand (p : Power) : Nat :=
  min (min (min p.demJunction p.demCoolant) (min p.demCap p.demThrottle)) (min p.demVoltage p.demCurrent)

/-- A member's demand reaches the root. -/
def memberDemand (origin f : Nat) (d : Dev) : Dev :=
  let d := d.modPower fun p =>
    let t := tset 1024 p.demMembers origin f
    { p with demMembers := t, demGroup := t.foldl (fun m e => min m e.2) 1024 }
  let want := min d.power.ownDemand d.power.demGroup
  if want = (match d.canal.stretchDue with | some s => s.2 | none => d.canal.f) then d else announceStretch want d

/-- What a message to every member does here. -/
def hear (origin : Nat) (b : Bcast) (d : Dev) : Dev :=
  match b with
  | .flip L => if d.manifest.stage = 5 then d.modManifest fun m => { m with flipLockage := some L } else d
  | .stretch f L => d.modCanal fun c => { c with stretchDue := some (L, f) }
  | .abort => if 1 ≤ d.manifest.stage ∧ d.manifest.stage ≤ 5 then failLoad 0x11 0xFF 0 d else d
  | .topology => if 1 ≤ d.manifest.stage ∧ d.manifest.stage ≤ 5 then failLoad 0x10 0xFF 60 d else d
  | .zero t => d.modRing fun r => { r with zeroTime := some t }
  | .zeroAbort => d.modRing fun r => { r with zeroTime := none }
  | .ready => if d.ring.ready then countReady d else d
  | .failed => if d.ring.ready then abortGroup d else d
  | .demand f => memberDemand origin f d
  | .lost => if d.ring.ready then d else takeBackZero d
  | .locked => announceZero (d.modRing fun r => { r with lockedMembers := addSet origin r.lockedMembers })

/-- Goes from a member to the root. -/
def Bcast.isReport : Bcast → Bool
  | .ready => true
  | .failed => true
  | .demand _ => true
  | .lost => true
  | .locked => true
  | _ => false

/-- A BROADCAST cell: a report goes up the time tree to the root; a message goes on along its ring, from the trunk into each
member ring, until it comes back to position 0 (log entry 65). -/
def broadcastCell (link origin hops : Nat) (b : Bcast) (d : Dev) : Dev :=
  if Bcast.isReport b then
    if d.ring.root then hear origin b d else sendBcast d.time.upstream (hops + 1) origin b d
  else if origin = d.deviceId ∨ (ringPos d (linkRing link)).1 = 0 then d
  else
    let d := sendBcast (otherLink link) (hops + 1) origin b d
    let d := if linkRing link = 1 then sendBcast 0 (hops + 1) origin b d else d
    hear origin b d

/-! ### Commands -/

def execHeartbeatSend (s : State) : Host.Outcome State Fault Refusal := onDev sendHeartbeats s

def execHeartbeatReceive (link : Fin 4) (h : Heartbeat) (s : State) : Host.Outcome State Fault Refusal :=
  onDev (heartbeatReceive link.val h) s

def execHeartbeatMiss (link : Fin 4) (s : State) : Host.Outcome State Fault Refusal := onDev (heartbeatMiss link.val) s

def execAssemble (link : Fin 4) (id : BitVec 20) (hops : Nat) (s : State) : Host.Outcome State Fault Refusal :=
  onDev (assemble link.val id hops) s

def execRoster (link : Fin 4) (r : RosterCell) (hops : Nat) (s : State) : Host.Outcome State Fault Refusal :=
  onDev (roster link.val r hops) s

def execDetourNotice (link : Fin 4) (alternate lower lockage : Nat) (origin : BitVec 20) (hops : Nat) (s : State) :
    Host.Outcome State Fault Refusal := onDev (detourNotice link.val alternate lower lockage origin.toNat hops) s

def execFaultReport (_link : Fin 4) (r : FaultCell) (s : State) : Host.Outcome State Fault Refusal := onDev (faultReport r) s

def execFaultGatherExpiry (identity : Word) (s : State) : Host.Outcome State Fault Refusal := onDev (gatherEnd identity) s

def execCoalesceEntryExpiry (identity : Word) (s : State) : Host.Outcome State Fault Refusal := onDev (entryEnd identity) s

def nowBroadcast (link : Fin 4) (origin : BitVec 20) (hops : Nat) (b : Bcast) (s : State) : Host.Outcome State Fault Refusal :=
  onDev (broadcastCell link.val origin.toNat hops b) s

/-- The same; it waits while the core that serves it restarts (R353). -/
def execBroadcast (link : Fin 4) (origin : BitVec 20) (hops : Nat) (b : Bcast) (s : State) : Host.Outcome State Fault Refusal :=
  whileUp 2 (.broadcast link origin hops b) (nowBroadcast link origin hops b) s

def execLinkTraining (link : Fin 4) (t : Training) (s : State) : Host.Outcome State Fault Refusal := onDev (linkTraining link.val t) s

def execBypassHoldLapse (pair : Fin 2) (s : State) : Host.Outcome State Fault Refusal :=
  onDev (fun d => match holdCause d pair.val with | some c => lapse c pair.val d | none => d) s

def execBypassSwitchClosed (pair : Fin 2) (s : State) : Host.Outcome State Fault Refusal := onDev (switchClosed pair.val) s

def execTimeSourceLost (s : State) : Host.Outcome State Fault Refusal := onDev sourceLost s

/-- PPS_IN (R308); whether the 10 MHz input runs is drawn (log entry 147). -/
def execPpsIn (s : State) : Host.Outcome State Fault Refusal :=
  onDev (fun d => let k := d.draw Config.tenMhz; ppsIn k.1 k.2) s

def execPpsOutput (output : Fin 4) (s : State) : Host.Outcome State Fault Refusal := onDev (ppsOutput output.val) s

/-- CMD_RING_STATUS: shape, coordinates, sizes, root, link states, detours in force. -/
def execCmdRingStatus (c : Cmd) (s : State) : Host.Outcome State Fault Refusal :=
  onDev (query c { i3c := true } fun d => ok ([d.ring.shape, d.ring.trunkPos, d.ring.memberPos, d.ring.trunkSize, d.ring.memberSize, b2n d.ring.root] ++
    ([0, 1, 2, 3].map fun k => (d.link k).state) ++ [maskOf d.ring.folded])) s

/-- CMD_RING_LINK_STATUS: state, latency, peer ID, counts. -/
def execCmdRingLinkStatus (c : Cmd) (link : Nat) (s : State) : Host.Outcome State Fault Refusal :=
  onDev (query c { i3c := true } fun d =>
    let l := d.link link
    if 3 < link then fail .invalid else ok [l.state, l.latency, l.peer.toNat, l.fecCorrected, l.crcCells, l.retrains]) s

/-- CMD_RING_BYPASS: the pair closes (R304, cause 2). -/
def execCmdRingBypass (c : Cmd) (pair : Nat) (s : State) : Host.Outcome State Fault Refusal :=
  onDev (mailbox c { block := some 12 } fun d =>
    if 1 < pair then (fail .invalid, d)
    else (ok [], lapse 2 pair (d.modRing fun r => { r with pairs := tmod {} r.pairs pair fun b => { b with commanded := true } }))) s

/-- CMD_TIME_STATUS: time with its fraction, state, source, offset, upstream, hops to the root. -/
def execCmdTimeStatus (c : Cmd) (s : State) : Host.Outcome State Fault Refusal :=
  onDev (query c { i3c := true } fun d => ok [d.time.ns.toNat, d.time.frac.toNat, d.time.state, d.time.source, (BitVec.ofInt 64 d.time.offset).toNat, d.time.upstream, d.time.hops]) s

/-- CMD_TIME_SET: at the root and before lockage 0; time never runs backward (R308, R313). -/
def execCmdTimeSet (c : Cmd) (ns : Word) (s : State) : Host.Outcome State Fault Refusal :=
  onDev (mailbox c { block := some 12 } fun d =>
    if d.ring.root = false ∨ d.canal.aligned ∨ ns.toNat < d.time.ns.toNat then (fail .invalid, d)
    else (ok [], d.modTime fun t => { t with ns := ns, frac := 0, slew := 0, secondKnown := true, counting := true })) s

/-- CMD_PTP_SET (R310): only the root has a slave port, and one. -/
def execCmdPtpSet (c : Cmd) (port role domain transport : Nat) (s : State) : Host.Outcome State Fault Refusal :=
  onDev (mailbox c {} fun d =>
    let taken := (List.range 8).any fun p => decide (p ≠ port ∧ (tget (0, 0, 0) d.time.ptp p).1 = 2)
    if 2 < role ∨ 7 < port ∨ 127 < domain ∨ 2 < transport ∨ (role = 2 ∧ (d.ring.root = false ∨ taken = true)) then (fail .invalid, d)
    else
      let slave := decide ((tget (0, 0, 0) d.time.ptp port).1 = 2)
      (ok [], (d.modTime fun t => { t with ptp := tset (0, 0, 0) t.ptp port (role, domain, transport), slave := if slave || decide (role = 2) then {} else t.slave,
                                           ptpOk := t.ptpOk && !slave }).emit (.ptpRole port role))) s

/-- Set the mode of a PPS output (R311): one that leaves mode 1 while its pulse is high falls. -/
def setPps (o mode : Nat) (d : Dev) : Dev :=
  let d := d.modTime fun t => { t with pps := tset 0 t.pps o mode }
  if tget 0 d.time.ppsHigh o ≠ 0 ∧ mode ≠ 1 then ppsFall o d else d

/-- CMD_PPS_SET. -/
def execCmdPpsSet (c : Cmd) (output mode : Nat) (s : State) : Host.Outcome State Fault Refusal :=
  onDev (mailbox c { block := some 12 } fun d =>
    if 3 < output ∨ 2 < mode then (fail .invalid, d) else (ok [], setPps output mode d)) s

end Sys2Proof.Machine
end

