-- ==== Sys2Proof/Machine/Control.lean ====
section
/-! DEFINITION. The control complex (chapter 16): cores and their restarts, watchdogs, stewardship, the ledger, the management
ports and the console. What a core executes stands in Machine/Volil.lean. -/

namespace Sys2Proof.Machine

/-- The control state of core k. -/
def Dev.coreCtl (d : Dev) (k : Nat) : CoreCtl := tget {} d.ctrl.cores k

/-- Change the control state of core k. -/
def Dev.modCoreCtl (d : Dev) (k : Nat) (f : CoreCtl → CoreCtl) : Dev :=
  d.modCtrl fun c => { c with cores := tmod {} c.cores k f }

/-- The die of a core (R351). -/
def coreDie (k : Nat) : Nat := if k = 1 then 5 else if k < 3 then 4 else (k - 3) / 4

/-! ### Restarts and watchdogs (R353–R355) -/

/-- A core restarts: its own state is cleared and runs again from code memory; a restart of the lock-keeper ends a load between
stage 1 and its flip (R353). -/
def restartCore (k : Nat) (d : Dev) : Dev :=
  let d := d.modCoreCtl k fun c => { c with state := 2, since := d.uptime, restarts := satAdd 65535 c.restarts 1 }
  let d := d.modCore k Core.atReset
  if k = 2 ∧ 1 ≤ d.manifest.stage ∧ d.manifest.stage ≤ 5 then failLoad 0x11 0xFF 0 d else d

/-- Watchdog expiries of a core within the last 60 s. -/
def recentExpiries (d : Dev) (k : Nat) : Nat := ((d.coreCtl k).expiries.filter fun t => decide (d.uptime < t + 60000000000)).length

/-- The watchdog period of a core: 10 ms until it is set (R354). -/
def watchdogPeriod (d : Dev) (k : Nat) : Nat := let p := (d.coreCtl k).period; if p = 0 then 10 else p

/-- A core's watchdog expires (R354, R355), or a trap within a trap resets the core as an expiry does (R380). -/
def watchdog (k : Nat) (d : Dev) : Dev :=
  if (d.coreCtl k).state ≠ 1 then d
  else
    let recent := ((d.coreCtl k).expiries.filter fun t => decide (d.uptime < t + 60000000000)) ++ [d.uptime]
    let d := d.modCoreCtl k fun c => { c with expiries := recent }
    let d := post 0x1000 (unitBlock (coreDie k) 15 k) 0 (syn [(32, 1, k), (33, 1, recent.length)]) d
    if 3 ≤ recent.length then failCore k 1 d else restartCore k d

/-- WATCHDOG_EXPIRY takes place no earlier than the period after the core began to run; what a core's firmware does to its watchdog before
that is its own matter. Core debug that holds the core holds the count (R354). -/
def watchdogExpiry (k : Nat) (d : Dev) : Dev :=
  if (d.coreCtl k).wdFrom + 1000000 * watchdogPeriod d k ≤ d.uptime then watchdog k d else d

/-- A restart that has not finished within 20 ms fails the core (R355). -/
def restartTooLong (k : Nat) (d : Dev) : Dev :=
  if (d.coreCtl k).state = 2 ∧ (d.coreCtl k).since + 20000000 < d.uptime then failCore k 0 d else d

/-- A restarted core runs again within its bound: the records that waited for it are posted (R127), and the lock-keeper's broadcasts leave. -/
def restartDone (k : Nat) (d : Dev) : Dev :=
  let c := d.coreCtl k
  if c.state ≠ 2 then d
  else if c.since + 20000000 < d.uptime then failCore k 0 d
  else
    let d := d.modCoreCtl k fun c => { c with state := 1, lastRestart := (d.uptime - c.since) / 1000, waiting := [], wdFrom := d.uptime }
    let d := if k = 2 then sendUnsent d else d
    c.waiting.foldl (fun d r => postRecord r (decide (3 ≤ (d.policy r.cls.toNat 1).action)) d) d

/-! ### Stewardship (R361, R362) -/

/-- A claim: the first makes its half steward; of two claims the higher epoch wins, the west half on equal epochs, and the loser
posts STEWARD_CONFLICT. The winning epoch is recorded in the key area. The west half claims only after its self-test has passed. -/
def claim (east : Bool) (epoch : W32) (d : Dev) : Dev :=
  if east = false ∧ Config.romSelfTest = false then d
  else
    let win (e : Bool) (n : W32) (d : Dev) : Dev :=
      keyAreaWrite ((d.modCtrl fun c => { c with steward := e, epoch := n, followerUp := !c.linkFailed }).modLedger fun l => { l with epoch := n })
    let other := d.ctrl.claims.find? fun c => c.1 != east
    let d := d.modCtrl fun c => { c with claims := (c.claims.filter fun x => x.1 != east) ++ [(east, epoch)] }
    match other with
    | none => win east epoch d
    | some o =>
      let newWins := decide (o.2.toNat < epoch.toNat) || (decide (o.2 = epoch) && !east)
      let w := if newWins then (east, epoch) else o
      let l := if newWins then o else (east, epoch)
      win w.1 w.2 (post 0x1002 (unitBlock (if l.1 then 5 else 4) 15 127) 0
        (syn [(32, 1, b2n l.1), (36, 4, w.2.toNat), (40, 4, l.2.toNat)]) d)

/-- One heartbeat of the control link: received, or missed (R362). -/
def controlHeartbeat (received : Bool) (d : Dev) : Dev :=
  if d.ctrl.linkFailed then d
  else (if received then d.raiseLine 0 3 else d).modCtrl fun c => { c with linkMissed := if received then 0 else c.linkMissed + 1 }

/-- Three missed heartbeats fail the control link: the east half stops driving endpoint 1 and links 2 and 3, the west half is
steward, the device is handled as failed (R362, R303). -/
def controlLinkFail (v : Vault) (d : Dev) : Dev :=
  if d.ctrl.linkMissed < 3 ∨ d.ctrl.linkFailed then d
  else
    let d := d.modCtrl fun c => { c with linkFailed := true, eastStopped := true, followerUp := false,
                                         steward := false, epoch := if c.steward then c.epoch + 1 else c.epoch }
    let d := if d.ledger.epoch = d.ctrl.epoch then d else keyAreaWrite (d.modLedger fun l => { l with epoch := d.ctrl.epoch })
    let d := if (d.ep 1).up then hostLinkDown v 1 false d else d
    let d := (d.modLink 2 fun l => { l with state := 0 }).modLink 3 fun l => { l with state := 0 }
    failDevice 6 (post 0x1003 (unitBlock 4 15 127) 0 (syn [(32, 1, 0)]) d)

/-! ### The ledger (R363–R365) -/

/-- The data blocks whose header names a logical block. -/
def Ledger.naming (l : Ledger) (x : Nat) : List (Nat × LedgerBlock) := l.blocks.filter fun e => e.2.logical == x

/-- The one of the highest sequence number. -/
def newest (bs : List (Nat × LedgerBlock)) : Option (Nat × LedgerBlock) :=
  bs.foldl (fun a e => match a with | some x => if x.2.seq < e.2.seq then some e else some x | none => some e) none

/-- Reconcile one logical block (R365): the highest sequence number wins and the others wait for their erase; a map entry that
points to an erased block is repaired, with LEDGER_REPAIR. -/
def reconcile (x : Nat) (d : Dev) : Dev :=
  match newest (d.ledger.naming x) with
  | none => d
  | some b =>
    let old := tget 0 d.ledger.map x
    let erased := decide (old ≠ b.1 + 1) && (tfind d.ledger.blocks (old - 1)).isNone
    let losers := ((d.ledger.naming x).filter fun e => e.1 ≠ b.1).map (·.1)
    let d := d.modLedger fun l => { l with map := tput l.map x (b.1 + 1), eraseQueue := l.eraseQueue ++ losers,
                                           blocks := l.blocks.filter fun e => !losers.contains e.1 }
    if erased then
      post 0x1004 (unitBlock d.stewardDie 15 127) 0 (syn [(32, 4, x), (40, 8, b.2.seq)])
        (d.modLedger fun l => { l with repairs := satAdd (2 ^ 32 - 1) l.repairs 1 })
    else d

/-- The data log is mounted (R365). -/
def mountLedger (d : Dev) : Dev :=
  if d.ledger.state ≠ 1 ∨ d.ledger.mountSince + 400000000 < d.uptime then d
  else
    let d := d.modLedger fun l => { l with state := 2, spares := 164 - l.retired.length, mountMs := (d.uptime - l.mountSince) / 1000000 }
    let d := (d.ledger.blocks.map fun e => e.2.logical).eraseDups.foldl (fun d x => reconcile x d) d
    d.modLedger fun l => l.early.foldl Ledger.append { l with early := [] }

/-- A mount that exceeds 400 ms leaves the data log read-only until warm reset (R365). -/
def mountTimeout (d : Dev) : Dev :=
  if d.ledger.state = 1 ∧ d.ledger.mountSince + 400000000 < d.uptime then
    post 0x1005 (unitBlock d.stewardDie 15 127) 0 (syn [(32, 1, 1)]) (d.modLedger fun l => { l with state := 3, mountMs := 400, early := [] })
  else d

/-- A page program failure retires its block; the last spare leaves the ledger read-only (R364). -/
def retireBlock (b : Nat) (d : Dev) : Dev :=
  let d := d.modLedger fun l => { l with retired := addSet b l.retired, spares := l.spares - 1 }
  if d.ledger.spares = 0 then
    post 0x1005 (unitBlock d.stewardDie 15 127) 0 (syn [(32, 1, 0)]) (d.modLedger fun l => { l with state := 3 })
  else d

/-- Garbage collection (R364): the block of fewest valid pages is copied to a free block under a new sequence number, erased, and
the map journalled; blocks that a mount has queued are erased too (R365). `fails`: a page program of the free block fails, and that
block retires. -/
def collect (fails : Bool) (d : Dev) : Dev :=
  let d := if d.ledger.state = 2 then d.modLedger fun l => { l with eraseQueue := [] } else d
  let least := d.ledger.blocks.foldl (fun (a : Option (Nat × LedgerBlock)) e =>
    match a with | some x => if e.2.valid < x.2.valid then some e else some x | none => some e) none
  match d.ledger.state, least, d.ledger.free with
  | 2, some b, some n =>
    if fails then retireBlock n d
    else d.modLedger fun l => { l with
                                blocks := tput (tdel l.blocks b.1) n { b.2 with seq := l.nextSeq }, nextSeq := l.nextSeq + 1,
                                map := tput l.map b.2.logical (n + 1) }
  | _, _, _ => d

/-! ### Frames written byte by byte (R356, R357) -/

/-- The command codes whose names end in STATUS, READ, INFO or LOG: the queries of R359 and R366. -/
def queryCodes : List Nat :=
  [0x0102, 0x0300, 0x0400, 0x0404, 0x0500, 0x0700, 0x0800, 0x0802, 0x0808, 0x0812, 0x0902, 0x0904, 0x0905, 0x0A00,
   0x0A05, 0x0B00, 0x0B09, 0x0C02, 0x0C08, 0x0D00, 0x0D01, 0x0D03, 0x0E02, 0x0F00, 0x0F07, 0x0F08, 0x1000, 0x1001,
   0x1004, 0x1100, 0x1101, 0x1201, 0x1203, 0x1300, 0x1303]

/-- The command codes that the chapters' tables give. -/
def commandCodes : List Nat :=
  [0x0100, 0x0101, 0x0102, 0x0103, 0x0104, 0x0105, 0x0110, 0x0111, 0x0112, 0x0300, 0x0301, 0x0302, 0x0303, 0x0400,
   0x0401, 0x0402, 0x0403, 0x0404, 0x0500, 0x0501, 0x0502, 0x0700, 0x0701, 0x0800, 0x0801, 0x0802, 0x0803, 0x0804,
   0x0808, 0x0810, 0x0811, 0x0812, 0x0900, 0x0901, 0x0902, 0x0903, 0x0904, 0x0905, 0x0A00, 0x0A01, 0x0A02, 0x0A03,
   0x0A04, 0x0A05, 0x0B00, 0x0B01, 0x0B02, 0x0B03, 0x0B04, 0x0B05, 0x0B06, 0x0B07, 0x0B08, 0x0B09, 0x0C00, 0x0C01,
   0x0C02, 0x0C03, 0x0C04, 0x0C05, 0x0C06, 0x0C07, 0x0C08, 0x0D00, 0x0D01, 0x0D02, 0x0D03, 0x0D04, 0x0D05, 0x0D06,
   0x0E00, 0x0E01, 0x0E02, 0x0E03, 0x0E04, 0x0F00, 0x0F01, 0x0F02, 0x0F03, 0x0F04, 0x0F05, 0x0F06, 0x0F07, 0x0F08,
   0x0F09, 0x1000, 0x1001, 0x1002, 0x1003, 0x1004, 0x1005, 0x1006, 0x1010, 0x1100, 0x1101, 0x1102, 0x1103, 0x1104,
   0x1200, 0x1201, 0x1202, 0x1203, 0x1300, 0x1301, 0x1302, 0x1303]

/-- Bytes 0–1,023 of a frame as a byte string. -/
def Frame.head (f : Frame) : Bytes :=
  leBytes 2 f.code.toNat ++ leBytes 2 f.paramLength.toNat ++ leBytes 4 f.sequence.toNat ++ leBytes 8 f.rsvd.toNat ++ tspan 0 f.params 16 1008

/-- A frame as it is read (R356). -/
def Frame.bytes (f : Frame) : Bytes :=
  f.head ++ [f.status, f.detail] ++ leBytes 2 f.result.length ++ leBytes 4 f.sequenceEcho.toNat ++ List.replicate 8 0 ++
    fit 3048 f.result ++ leBytes 8 (b2n f.busy + 2 * b2n f.done)

/-- Put bytes 0–1,023 into a frame. -/
def Frame.setHead (f : Frame) (bs : Bytes) : Frame :=
  { f with code := BitVec.ofNat 16 (fieldLe bs 0 2), paramLength := BitVec.ofNat 16 (fieldLe bs 2 2),
           sequence := BitVec.ofNat 32 (fieldLe bs 4 4), rsvd := BitVec.ofNat 64 (fieldLe bs 8 8),
           params := tputs 0 [] 16 (slice bs 16 1008) }

/-- Write bytes of a frame at an offset: bytes 0–1,023 unless the frame is busy; bit 0 of the doorbell is go, which clears done
sets busy and raises line 0 of the lock-keeper (R379); a second go is counted (R357). Every other byte is read-only. -/
def frameWrite (src off : Nat) (bs : Bytes) (d : Dev) : Dev :=
  let f := d.frame src
  let d := if f.busy ∨ 1024 ≤ off then d
    else
      let h := f.head
      let n := min bs.length (1024 - off)
      d.modMailbox fun m => { m with frames := tmod {} m.frames src fun f => f.setHead (h.take off ++ bs.take n ++ h.drop (off + n)) }
  if off ≤ 4088 ∧ 4088 < off + bs.length ∧ (bs.getD (4088 - off) 0).getLsbD 0 then
    if f.busy then overrun d
    else (d.raiseLine 2 0).modMailbox fun m => { m with frames := tmod {} m.frames src fun f => { f with busy := true, done := false } }
  else d

/-! ### The management ports (R366) -/

/-- The key of a slot, if the slot holds one. -/
def slotKey (v : Vault) (slot : Nat) : Option Bytes := (tfind v.keys slot).map fun x => keyBytes x.key

/-- The key of the manifest in force, for the towpath: none without a manifest, or one that its slot no longer holds. -/
def towKey (v : Vault) (d : Dev) : Option (Option Bytes) := d.manifest.active.map fun m => slotKey v m.keySlot

/-- A datagram: sealed under the active manifest's key with a rising counter; without a manifest an unsealed query. Its frame
bytes become the towpath's command (R366; the seal covers the frame bytes as text: log entry 76). -/
def towDatagram (v : Vault) (counter : Word) (frame tag : Bytes) (d : Dev) : Dev :=
  if (d.frame 1024).busy then d
  else
    let go (h : Bytes) (d : Dev) : Dev := frameWrite 1024 4088 [1] (frameWrite 1024 0 (fit 1024 h) d)
    match towKey v d with
    | some none => d
    | some (some k) =>
      if counter.toNat ≤ d.ledger.towCounter.toNat then d
      else match gcmOpen k (leBytes 8 counter.toNat ++ [0, 0, 0, 3]) [] (fit 1024 frame) (fit 16 tag) with
        | none => d
        | some h => go h (keyAreaWrite (d.modLedger fun l => { l with towCounter := counter }))
    | none => if fieldLe frame 0 2 ∈ queryCodes then go frame d else d

/-- An I3C private write of frame bytes: a go for anything but a query or CMD_NOR_WRITE is not permitted (R366). -/
def i3cWrite (off : Nat) (bs : Bytes) (d : Dev) : Dev :=
  let was := (d.frame 1025).busy
  let d := frameWrite 1025 off bs d
  let f := d.frame 1025
  if !was && f.busy && !queryCodes.contains f.code.toNat && decide (f.code ≠ 0x1005#16) then
    complete 1025 f.sequence (fail .notPermitted) d
  else d

/-! ### The console (R367) -/

/-- The majority of samples 7, 8 and 9 of bit b. -/
def uartBit (line : List Bool) (b : Nat) : Bool :=
  decide (2 ≤ ([7, 8, 9].filter fun k => line.getD (16 * b + k) true).length)

/-- The line falls again by sample 9 of the stop bit, after it has been high there. -/
def fallsEarly (line : List Bool) : Bool :=
  ((List.range 9).any fun k => line.getD (144 + k) true && !line.getD (145 + k) true)

/-- A character, from the samples taken from its start edge on. -/
def uartCharacter (line : List Bool) (d : Dev) : Dev :=
  if !uartBit line 9 || fallsEarly line then d.modCtrl fun c => { c with frameErrors := satAdd (2 ^ 32 - 1) c.frameErrors 1 }
  else if 64 ≤ d.ctrl.uartFifo.length then d.modCtrl fun c => { c with uartOverruns := satAdd 65535 c.uartOverruns 1 }
  else
    let v := (List.range 8).foldl (fun n i => n + 2 ^ i * b2n (uartBit line (i + 1))) 0
    d.modCtrl fun c => { c with uartFifo := c.uartFifo ++ [BitVec.ofNat 8 v] }

/-! ### NOR (R369, R334) -/

/-- Bytes of a NOR image. -/
def norRead (d : Dev) (image off n : Nat) : Bytes := tspan 0 d.boot.nor (image * 2 ^ 26 + off) n

/-! ### Commands -/

def execWatchdogExpiry (core : Fin 19) (s : State) : Host.Outcome State Fault Refusal := onDev (watchdogExpiry core.val) s

def execCtrlCoreFail (core : Fin 19) (s : State) : Host.Outcome State Fault Refusal := onDev (restartTooLong core.val) s

/-- A claim that waits while the security core restarts (R353). -/
def nowStewardshipClaim (east : Bool) (epoch : W32) (s : State) : Host.Outcome State Fault Refusal := onDev (claim east epoch) s

def execStewardshipClaim (east : Bool) (epoch : W32) (s : State) : Host.Outcome State Fault Refusal :=
  whileUp 0 (.stewardshipClaim east epoch) (nowStewardshipClaim east epoch) s

def execControlLinkHeartbeat (received : Bool) (s : State) : Host.Outcome State Fault Refusal := onDev (controlHeartbeat received) s

def execCtrlLinkFail (s : State) : Host.Outcome State Fault Refusal := onDevV controlLinkFail s

def execLedgerMount (s : State) : Host.Outcome State Fault Refusal := onDev mountLedger s

def execLedgerMountTimeout (s : State) : Host.Outcome State Fault Refusal := onDev mountTimeout s

def execLedgerGarbageCollect (fails : Bool) (s : State) : Host.Outcome State Fault Refusal := onDev (collect fails) s

def execTowpathDatagram (counter : Word) (frame tag : Bytes) (s : State) : Host.Outcome State Fault Refusal :=
  onDevV (fun v => towDatagram v counter frame tag) s

/-- I3C_PRIVATE_WRITE: the device ID during stage 1 of local boot, or frame bytes (R366). -/
def execI3cPrivateWrite (w : I3cWrite) (s : State) : Host.Outcome State Fault Refusal :=
  onDev (fun d => match w with
    | .deviceId id => if d.boot.stage = 1 then d.modBoot fun b => { b with deviceId := some id } else d
    | .frame off bs => i3cWrite off bs d) s

def execI3cPrivateRead (off length : Nat) (s : State) : Host.Outcome State Fault Refusal :=
  onDev (fun d => d.emit (.i3c (((d.frame 1025).bytes.drop off).take length))) s

def execUartCharacter (line : List Bool) (s : State) : Host.Outcome State Fault Refusal := onDev (uartCharacter line) s

def execCmdUartSet (c : Cmd) (baud : Nat) (s : State) : Host.Outcome State Fault Refusal :=
  onDev (mailbox c { block := some 15 } fun d =>
    if baud < 9600 ∨ 3000000 < baud then (fail .invalid, d) else (ok [], d.modCtrl fun x => { x with baud := baud })) s

/-- CMD_CTRL_STATUS: service level (0 reduced, 1 full), steward, epoch, core states, device ID. -/
def execCmdCtrlStatus (c : Cmd) (s : State) : Host.Outcome State Fault Refusal :=
  onDev (query c { reduced := true, i3c := true } fun d =>
    ok ([b2n (decide (d.power.state = .full)), b2n d.ctrl.steward, d.ctrl.epoch.toNat] ++ ((List.range 19).map fun k => (d.coreCtl k).state) ++ [d.deviceId])) s

def execCmdCoreStatus (c : Cmd) (core : Nat) (s : State) : Host.Outcome State Fault Refusal :=
  onDev (query c { i3c := true } fun d =>
    if 18 < core then fail .invalid else ok [(d.coreCtl core).state, (d.coreCtl core).restarts, recentExpiries d core, watchdogPeriod d core]) s

/-- CMD_CORE_RESTART: a running core, or one that core debug holds; cores 0–2 from debug level 2 on (R369). -/
def execCmdCoreRestart (c : Cmd) (core : Nat) (s : State) : Host.Outcome State Fault Refusal :=
  onDevV (fun v => mailbox c { block := some 15 } fun d =>
    if 18 < core then (fail .invalid, d)
    else if core ≤ 2 ∧ v.debug < 2 then (fail .notPermitted, d)
    else if (d.coreCtl core).state ≠ 1 ∧ (d.coreCtl core).state ≠ 4 then (fail .invalid, d)
    else (ok [], restartCore core d)) s

/-- CMD_EVENT_QUEUE_SET: the sender's PF gets an event ring (R360). -/
def execCmdEventQueueSet (c : Cmd) (base n headAddr vector : Nat) (s : State) : Host.Outcome State Fault Refusal :=
  onDev (mailbox c {} fun d =>
    if n < 6 ∨ 16 < n ∨ 2048 ≤ vector then (fail .invalid, d)
    else
      let r : EventRing := { base := base, n := n, headAddr := headAddr, vector := vector }
      (ok [], d.modMailbox fun m => { m with rings := tput m.rings (actingPf c.src.val none d) r })) s

def execCmdLedgerStatus (c : Cmd) (s : State) : Host.Outcome State Fault Refusal :=
  onDev (query c { reduced := true, i3c := true } fun d => ok [d.ledger.state, d.ledger.spares, d.ledger.mountMs, d.ledger.repairs]) s

/-- CMD_NOR_WRITE (R369): refused for the image that booted while the other has failed verification. The bytes come from device
memory, or from the host space or the I3C frame as fetched. -/
def execCmdNorWrite (c : Cmd) (image offset length space address : Nat) (fetched : Bytes) (s : State) : Host.Outcome State Fault Refusal :=
  onDev (mailbox c { reduced := true, i3c := true } fun d =>
    let booted := decide (2 ≤ d.boot.stage) && (if d.boot.image then decide (image = 1) else decide (image = 0))
    let otherFailed := if image = 0 then d.boot.bFailed else d.boot.aFailed
    if 1 < image ∨ 2 ^ 26 < offset + length ∨ 9 < space ∨ (booted = true ∧ otherFailed = true) then (fail .invalid, d)
    else if 0 < length ∧ spaceMapped d (actingPf c.src.val none d) true space address length = false then (fail .addressUnmapped, d)
    else
      let bs := if space = 0 then (memRead 0 address length d).1.1 else fit length fetched
      (ok [], d.modBoot fun b => { b with nor := tputs 0 b.nor (image * 2 ^ 26 + offset) bs })) s

/-- UNKNOWN_COMMAND (R358): a go whose code names no command. -/
def execUnknownCommand (src : Source) (s : State) : Host.Outcome State Fault Refusal :=
  onDev (fun d =>
    let f := d.frame src.val
    if f.busy ∧ f.running = false ∧ f.code.toNat ∉ commandCodes then complete src.val f.sequence (fail .unknownCommand) d else d) s

end Sys2Proof.Machine
end

