-- ==== Sys2Proof/Machine/ManifestParse.lean ====
section
/-! DEFINITION. What a manifest image says and what makes a load fail (R29–R43, R69–R71, R89, R90, R106, R107, R119, R120, R125,
R189–R192, R212, R213, R339, R407, R408, R423, R444). Checks run in the order of the image, and the first failure is reported
(R37); the offset reported is that of the field or entry that fails (log entry 83). -/

namespace Sys2Proof.Machine

/-! ### Validation codes (R39) -/

/-- Validation codes. -/
inductive VCode where
  | badMagic | badVersion | wrongPart | badLength | keySlot | authFail | serialStale | sectionMissing | sectionCrc
  | reservedValue | placementConflict | slotConflict | capacity | integritySlots | alternateInvalid | topology | aborted
  deriving DecidableEq, Repr

/-- The code of R39. -/
def VCode.code : VCode → Nat
  | .badMagic => 0x01
  | .badVersion => 0x02
  | .wrongPart => 0x03
  | .badLength => 0x04
  | .keySlot => 0x05
  | .authFail => 0x06
  | .serialStale => 0x07
  | .sectionMissing => 0x08
  | .sectionCrc => 0x09
  | .reservedValue => 0x0A
  | .placementConflict => 0x0B
  | .slotConflict => 0x0C
  | .capacity => 0x0D
  | .integritySlots => 0x0E
  | .alternateInvalid => 0x0F
  | .topology => 0x10
  | .aborted => 0x11

/-- A check of a load: what it reads, or the code and the byte offset of the failure. -/
abbrev Chk (α : Type) := Except (VCode × Nat) α

/-- A condition that must hold. -/
def need (ok : Bool) (v : VCode) (off : Nat) : Chk Unit := if ok then .ok () else .error (v, off)

/-- A check for every number below n. -/
def eachOf (n : Nat) (f : Nat → Chk Unit) : Chk Unit := (List.range n).forM f

/-- Read n entries. -/
def readAll {α : Type} (n : Nat) (f : Nat → Chk α) : Chk (List α) := (List.range n).mapM f

/-! ### Header and signature block (R30, R33) -/

/-- The header's checks: what the image is, and whether this device and this group may run it. R30 forbids the device_id 0xF_FFFF in a
group and names no code; the model's is TOPOLOGY, the code of a device_id that does not fit (log entry 134). -/
def headerCheck (d : Dev) (b : Bytes) : Chk Unit := do
  let total := fieldLe b 16 8
  let group := fieldLe b 64 4
  let device := fieldLe b 56 4
  need (128 ≤ b.length && fieldLe b 0 4 == 0x464D5154) .badMagic 0
  need (fieldLe b 4 2 == 2) .badVersion 4
  need (fieldLe b 6 2 == 128) .badLength 6
  need (fieldLe b 8 2 == 0x0940) .wrongPart 8
  need (decide (fieldLe b 10 2 ≤ Config.stepping.toNat)) .wrongPart 10
  need (decide (1 ≤ fieldLe b 12 4 ∧ fieldLe b 12 4 ≤ 32)) .badLength 12
  need (decide (total ≤ 0x2000000 ∧ total ≤ b.length ∧ 128 + 32 * fieldLe b 12 4 + 64 ≤ total)) .badLength 16
  need (decide (fieldLe b 48 4 % 32 = 0 ∧ 128 ≤ fieldLe b 48 4 ∧ fieldLe b 48 4 + 32 * fieldLe b 12 4 ≤ total - 64)) .badLength 48
  need (decide (fieldLe b 52 4 = total - 64)) .badLength 52
  need (decide (device < 2 ^ 20)) .reservedValue 56
  need (decide (1 ≤ group ∧ group ≤ 1048576)) .badLength 64
  need (decide (fieldLe b 68 4 < 2)) .reservedValue 68
  need (zeros b 76 52) .reservedValue 76
  need (if device = 0xFFFFF then decide (group = 1) else decide (device = d.deviceId)) .topology 56
  need (decide (group = 1) || d.ring.roster.isEmpty ||
    (fieldLe b 60 4 == rosterId d.ring.roster && group == d.ring.roster.length)) .topology 60

/-- The image proper: total_length bytes. -/
def imageOf (b : Bytes) : Bytes := b.take (fieldLe b 16 8)

/-- The signature block's checks: fields, key slot, serial, tag (R33–R36). -/
def signatureCheck (v : Vault) (d : Dev) (b : Bytes) : Chk Unit := do
  let sig := fieldLe b 52 4
  let slot := fieldLe b (sig + 6) 2
  let serial := fieldLe b 24 8
  need (fieldLe b sig 4 == 0x47535154) .badMagic sig
  need (fieldLe b (sig + 4) 2 == 1) .reservedValue (sig + 4)
  need (zeros b (sig + 32) 32) .reservedValue (sig + 32)
  need (decide (slot < 256 ∧ (tget {} v.keys slot).use = 2)) .keySlot (sig + 6)
  need ((tget {} v.keys slot).identity.toNat == fieldLe b (sig + 8) 8) .keySlot (sig + 8)
  need (decide ((tget 0 d.manifest.serials slot).toNat ≤ serial)) .serialStale 24
  need (gcmTag (keyBytes (tget {} v.keys slot).key) (leBytes 8 serial ++ [0, 0, 0, 1]) (b.take (sig + 16)) [] == slice b (sig + 16) 16)
    .authFail (sig + 16)

/-! ### Sections (R31, R32) -/

/-- A section table entry. -/
structure Sect where
  index : Nat
  type : Nat
  off : Nat
  length : Nat
  crc : Nat
  deriving DecidableEq, Repr

/-- The entries of the section table. -/
def sectionTable (b : Bytes) : List Sect :=
  (List.range (fieldLe b 12 4)).map fun i =>
    let e := fieldLe b 48 4 + 32 * i
    { index := i, type := fieldLe b e 2, off := fieldLe b (e + 8) 8, length := fieldLe b (e + 16) 8, crc := fieldLe b (e + 24) 4 }

/-- The checks of one table entry, against the table and the entries before it. -/
def tableEntryCheck (b : Bytes) (s : Sect) : Chk Unit := do
  let e := fieldLe b 48 4 + 32 * s.index
  let before := (sectionTable b).take s.index
  need (decide (s.type ≠ 0 ∧ (s.type ≤ 0xB ∨ 0x8000 ≤ s.type))) .reservedValue e
  need (fieldLe b (e + 2) 2 == 1) .badVersion (e + 2)
  need (zeros b (e + 4) 4) .reservedValue (e + 4)
  need (decide (s.off % 64 = 0 ∧ 128 ≤ s.off)) .badLength (e + 8)
  need (decide (s.off + s.length ≤ fieldLe b 52 4)) .badLength (e + 16)
  need (!meets s.off s.length (fieldLe b 48 4) (32 * fieldLe b 12 4) && !before.any fun t => meets s.off s.length t.off t.length) .badLength (e + 8)
  need (zeros b (e + 28) 4) .reservedValue (e + 28)
  need (decide (0x8000 ≤ s.type) || !before.any fun t => t.type == s.type) .sectionMissing e

/-- The required types (R32). -/
def requiredTypes : List Nat := [1, 2, 3, 4, 6, 8, 9, 0xB]

/-! ### PLACEMENT (R106, R107) -/

/-- A logical tile's entry. -/
def placeEntry (b : Bytes) (t : Nat) : TilePlace :=
  let e := 144 + 16 * t
  { physical := fieldLe b e 2, partner := fieldLe b (e + 2) 2, inst := fieldLe b (e + 4) 2, spillSize := fieldLe b (e + 6) 2,
    spillBase := fieldLe b (e + 8) 8 }

/-- A physical tile number, or none. -/
def tileCode (n : Nat) : Bool := decide (n < 528 ∨ n = 0xFFFF)

/-- The physical tiles that an entry uses. -/
def TilePlace.uses (p : TilePlace) : List Nat := [p.physical, p.partner].filter fun n => decide (n < 528)

/-- The checks of a logical tile's entry; `used`: what the entries before it use. -/
def placeCheck (paired : Bool) (used : List Nat) (base t : Nat) (p : TilePlace) : Chk Unit := do
  let e := base + 144 + 16 * t
  let placed := decide (p.physical < 528)
  need (tileCode p.physical) .reservedValue e
  need (tileCode p.partner) .reservedValue (e + 2)
  need (decide (p.spillSize ≤ 512)) .badLength (e + 6)
  need (decide (p.spillBase % 0x200000 = 0 ∧ (p.spillSize = 0 → p.spillBase = 0))) .badLength (e + 8)
  need (!(paired && placed && decide (256 ≤ t))) .placementConflict e
  need (if paired && placed then decide (p.partner < 528) else decide (p.partner = 0xFFFF)) .placementConflict (e + 2)
  need (decide (p.partner = 0xFFFF ∨ (p.partner / 33 = p.physical / 33 ∧ p.partner ≠ p.physical))) .placementConflict (e + 2)
  need (!(TilePlace.uses p).any fun n => used.contains n || Config.tileFuse n) .placementConflict e

/-- PLACEMENT: the clusters' DVFS points and the binding of logical tiles. -/
def readPlacement (paired : Bool) (b : Bytes) (base : Nat) : Chk (List Nat × Tab TilePlace) := do
  need (b.length == 8336) .badLength base
  need (decide (fieldLe b 0 4 < 2)) .reservedValue base
  need (zeros b 4 12) .reservedValue (base + 4)
  need (decide (fieldLe b 0 4 = b2n paired)) .placementConflict base
  let dvfs ← readAll 16 fun c => do
    let v := fieldLe b (16 + 8 * c) 1
    need (decide (24 ≤ v ∧ v ≤ 80)) .reservedValue (base + 16 + 8 * c)
    need (zeros b (17 + 8 * c) 7) .reservedValue (base + 17 + 8 * c)
    pure v
  let entries := (List.range 512).map (placeEntry b)
  eachOf 512 fun t => placeCheck paired ((entries.take t).flatMap TilePlace.uses) base t (entries.getD t {})
  pure (dvfs, (numbered entries).filter fun e => decide (e.2.physical < 528))

/-! ### CANAL_PROGRAMS (R69, R70, R298) -/

/-- A route record. -/
def routeRecord (w : Nat) : RouteRec :=
  { slot := bits w 9 0, router := bits w 14 10, output := bits w 20 15, source := bits w 27 21, mark := bits w 29 28, route := bits w 41 30 }

/-- The router is a memory router. -/
def memoryRouter (r : Nat) : Bool := decide (r < 28 ∧ 4 ≤ r % 7 ∧ r % 7 < 6)

/-- The record's mark obeys R68. -/
def markGood (x : RouteRec) : Bool :=
  (decide (x.mark = 0 ∨ x.mark = 3) || (memoryRouter x.router && (decide (64 ≤ x.source) || decide (20 ≤ x.output ∧ 20 ≤ x.source)))) &&
    (decide (64 ≤ x.source) || decide ((3840 ≤ x.route) = (x.mark = 3)))

/-- What the record carries has come over R56's hops, and goes on or is delivered within the lockage (R64). -/
def hopGood (recs : List RouteRec) (x : RouteRec) : Bool :=
  decide (64 ≤ x.source) ||
    ((match attach x.router x.source with
      | .router r p c => decide (hopSlots c ≤ x.slot) &&
          recs.any fun y => decide (y.router = r ∧ y.output = p ∧ y.slot + hopSlots c = x.slot ∧ y.source < 64 ∧ y.route = x.route)
      | _ => true) &&
     (match attach x.router x.output with
      | .router _ _ c => decide (x.slot + hopSlots c ≤ 1023)
      | _ => decide (x.slot + 1 ≤ 1023)))

/-- Two records contradict each other: one output twice, two marks of one entry, two routes at one input. -/
def recordsClash (x y : RouteRec) : Bool :=
  decide (x.router = y.router ∧ x.slot = y.slot) &&
    (decide (x.output = y.output) || decide (x.mark ≠ y.mark) || decide (x.source = y.source ∧ x.source < 64 ∧ x.route ≠ y.route))

/-- One program's records. -/
def readProgram (b : Bytes) (base i : Nat) (count : Nat) : Chk (List RouteRec) := do
  let e := 8 + 16 * i
  let off := fieldLe b (e + 8) 4
  let n := fieldLe b (e + 12) 4
  need (fieldLe b e 1 == i) .badLength (base + e)
  need (zeros b (e + 1) 7) .reservedValue (base + e + 1)
  need (decide (off % 8 = 0 ∧ 8 + 16 * count ≤ off ∧ off + 8 * n ≤ b.length)) .badLength (base + e + 8)
  let ws := cut 8 n (b.drop off)
  let recs := ws.map routeRecord
  eachOf n fun j => do
    let w := ws.getD j 0
    let x := recs.getD j {}
    need (decide (x.router < 30 ∧ x.source ≤ 64 ∧ w < 2 ^ 42)) .reservedValue (base + off + 8 * j)
    need (!(recs.take j).any (recordsClash x)) .slotConflict (base + off + 8 * j)
    need (hopGood recs x) .badLength (base + off + 8 * j)
    need (markGood x) .integritySlots (base + off + 8 * j)
  need ([0, 1, 2, 3].all fun k => decide (2 * (recs.filter fun x => decide (x.router = 28 + k / 2 ∧ x.source < 64 ∧
    (x.output = 46 + 2 * (k % 2) ∨ x.output = 47 + 2 * (k % 2)))).length ≤ 4032)) .capacity (base + e + 12)
  pure recs

/-- CANAL_PROGRAMS. -/
def readPrograms (b : Bytes) (base : Nat) : Chk (List (List RouteRec)) := do
  let count := fieldLe b 0 8
  need (decide (1 ≤ count ∧ count ≤ 8 ∧ 8 + 16 * count ≤ b.length)) .badLength base
  readAll count fun i => readProgram b base i count

/-! ### GATE_TABLES (R89, R90) -/

/-- A destination code of R83. -/
def destCode (c : Nat) : Bool :=
  decide (c < 8) || decide (0x10 ≤ c ∧ c ≤ 0x1B) || decide (0x100 ≤ c ∧ c ≤ 0x2FF) || decide (0x400 ≤ c ∧ c ≤ 0x47F)

/-- A program injects a route at a lock's port in a slot. -/
def injects (recs : List RouteRec) (l slot route : Nat) : Bool :=
  recs.any fun x => decide (x.router = lockRouter l ∧ x.source = l % 64 ∧ x.slot = slot ∧ x.route = route)

/-- A program delivers a route into an attached unit. -/
def delivers (recs : List RouteRec) (route : Nat) : Bool :=
  recs.any fun x => decide (x.source < 64 ∧ x.route = route) && decide (attach x.router x.output = .unit)

/-- A gate entry's own checks (R84, R85, R90). -/
def gateCheck (e off : Nat) : Chk Unit :=
  need (!bit e 31 && decide (bits e 1 0 = 0 → e = 0) && decide (bits e 1 0 = 3 → bits e 11 8 = 0)) .reservedValue off

/-- A gate entry against the program's routes and the size of the configuration (R85, R90). -/
def gateFits (recs : List RouteRec) (large : Bool) (l slot e off : Nat) : Chk Unit := do
  need (decide (bits e 1 0 = 2 → large = true)) .reservedValue off
  need (decide (bits e 1 0 = 0) || (injects recs l slot (bits e 23 12) && delivers recs (bits e 23 12))) .slotConflict off

/-- Reads a lock's descriptor with its route map and the gate tables of so many programs. -/
def readLock (b : Bytes) (base programs : Nat) (i : Nat) : Chk LockDesc := do
  let e := 32 + 32 * i
  let l := fieldLe b e 2
  let eth := decide (lockKind l = some .eth)
  let granules := fieldLe b (e + 4) 4
  let map := fieldLe b (e + 12) 4
  let count := fieldLe b (e + 16) 4
  let gate := fieldLe b (e + 20) 4
  let on := fieldLe b (e + 8) 2
  let off := fieldLe b (e + 10) 2
  need ((lockKind l).isSome && !(List.range i).any fun j => fieldLe b (32 + 32 * j) 2 == l) .reservedValue (base + e)
  need (decide (fieldLe b (e + 2) 1 ≤ b2n eth)) .reservedValue (base + e + 2)
  need (zeros b (e + 3) 1) .reservedValue (base + e + 3)
  need (decide (1 ≤ granules ∧ granules ≤ 2048)) .badLength (base + e + 4)
  need (if eth then decide (fieldLe b (e + 2) 1 = 0 ∨ (on ≠ 0 ∧ on ≤ granules ∧ off < on)) else decide (on = 0 ∧ off = 0)) .badLength (base + e + 8)
  need (decide (map % 4 = 0 ∧ 1 ≤ count ∧ count ≤ 1024 ∧ map + 4 * count ≤ b.length)) .badLength (base + e + 12)
  need (decide (gate + 4096 * programs ≤ b.length)) .badLength (base + e + 20)
  need (zeros b (e + 24) 8) .reservedValue (base + e + 24)
  let routes := cut 4 count (b.drop map)
  eachOf count fun j => do
    let r := routes.getD j 0
    need (destCode (bits r 15 0) && decide (r < 2 ^ 28)) .reservedValue (base + map + 4 * j)
    need (!(routes.take j).any fun x => bits x 15 0 == bits r 15 0) .slotConflict (base + map + 4 * j)
  let gates := cut 4 (1024 * programs) (b.drop gate)
  eachOf (1024 * programs) fun j => gateCheck (gates.getD j 0) (base + gate + 4 * j)
  pure { lock := l, pauseEn := decide (fieldLe b (e + 2) 1 = 1), granules, pauseOn := on, pauseOff := off,
         routeMap := routes.map fun r => (bits r 15 0, bits r 27 16), gates := tlist 0 0 (gates.map (BitVec.ofNat 32)) }

/-- The members of a pool list's bit map. -/
def poolMembers (b : Bytes) : List Nat := (List.range 1024).filter fun i => (b.getD (i / 8) 0).getLsbD (i % 8)

/-- GATE_TABLES: locks, rotation rows, pool lists. -/
def readGates (b : Bytes) (base programs : Nat) : Chk (List LockDesc × List (List Nat) × List (List Nat)) := do
  let n := fieldLe b 0 4
  let rows := fieldLe b 4 4
  let lists := fieldLe b 8 4
  let rowOff := fieldLe b 16 4
  let listOff := fieldLe b 20 4
  need (decide (1 ≤ n ∧ n ≤ 45 ∧ 32 + 32 * n ≤ b.length)) .badLength base
  need (decide (rows ≤ 1024)) .badLength (base + 4)
  need (decide (lists ≤ 64)) .badLength (base + 8)
  need (zeros b 12 4) .reservedValue (base + 12)
  need (decide (rowOff % 32 = 0 ∧ rowOff + 32 * rows ≤ b.length)) .badLength (base + 16)
  need (decide (listOff % 128 = 0 ∧ listOff + 128 * lists ≤ b.length)) .badLength (base + 20)
  need (zeros b 24 8) .reservedValue (base + 24)
  let locks ← readAll n (readLock b base programs)
  need (decide ((locks.map (·.granules)).sum ≤ 2048)) .capacity base
  let rotation := (List.range rows).map fun r => cut 2 16 (b.drop (rowOff + 32 * r))
  eachOf rows fun r => need ((rotation.getD r []).all fun i => decide (i < 1024)) .reservedValue (base + rowOff + 32 * r)
  pure (locks, rotation, (List.range lists).map fun r => poolMembers (slice b (listOff + 128 * r) 128))

/-- Every gate entry fits the programs and the PARTITION: one of the checks across sections (R37, R90). -/
def gatesFit (b : Bytes) (base : Nat) (programs : List (List RouteRec)) (large : Bool) (locks : List LockDesc) : Chk Unit :=
  (numbered locks).forM fun x => x.2.gates.forM fun g =>
    gateFits (programs.getD (g.1 / 1024) []) large x.2.lock (g.1 % 1024) g.2.toNat (base + fieldLe b (52 + 32 * x.1) 4 + 4 * g.1)

/-! ### PARTITION (R212, R213) -/

/-- Reads an instance's descriptor and grants. -/
def readInst (b : Bytes) (base i : Nat) : Chk InstDesc := do
  let e := 8 + 32 * i
  let n := fieldLe b e 2
  let home := fieldLe b (e + 2) 1
  let count := fieldLe b (e + 24) 1
  let off := fieldLe b (e + 20) 4
  need (decide (n < 1024)) .badLength (base + e)
  need (!(List.range i).any fun j => fieldLe b (8 + 32 * j) 2 == n) .reservedValue (base + e)
  need (decide (home < 2 ∧ (n < 2 → home = n))) .reservedValue (base + e + 2)
  need (zeros b (e + 3) 1) .reservedValue (base + e + 3)
  need (decide (fieldLe b (e + 4) 2 + fieldLe b (e + 6) 2 + fieldLe b (e + 8) 2 ≤ 4096)) .capacity (base + e + 4)
  need (decide (off % 16 = 0 ∧ off + 16 * count ≤ b.length)) .badLength (base + e + 20)
  need (decide (count ≤ 8)) .badLength (base + e + 24)
  need (decide (n < 2 → count = 0)) .reservedValue (base + e + 24)
  need (zeros b (e + 25) 7) .reservedValue (base + e + 25)
  let grants := (List.range count).map fun g => (fieldLe b (off + 16 * g) 8, fieldLe b (off + 16 * g + 8) 8)
  eachOf count fun g =>
    let x := grants.getD g (0, 0)
    need (decide (x.1 % 65536 = 0 ∧ x.2 % 65536 = 0 ∧ x.2 ≠ 0)) .badLength (base + off + 16 * g)
  pure { inst := n, homePf := home, dma := fieldLe b (e + 4) 2, storage := fieldLe b (e + 6) 2, tx := fieldLe b (e + 8) 2,
         egress := fieldLe b (e + 10) 2, connections := fieldLe b (e + 12) 4, moorings := fieldLe b (e + 16) 4, grants }

/-- PARTITION. -/
def readPartition (b : Bytes) (base : Nat) : Chk (List InstDesc) := do
  let n := fieldLe b 0 4
  need (decide (n ≤ 1024 ∧ 8 + 32 * n ≤ b.length)) .badLength base
  need (zeros b 4 4) .reservedValue (base + 4)
  let ds ← readAll n (readInst b base)
  let total (f : InstDesc → Nat) : Nat := (ds.map f).sum
  need (decide (total (·.dma) ≤ 256 ∧ total (·.storage) ≤ 4096 ∧ total (·.tx) ≤ 8192 ∧ total (·.egress) ≤ 16384 ∧
    total (·.connections) ≤ 65536 ∧ total (·.moorings) ≤ 1048576)) .capacity base
  pure ds

/-- The large configuration: 65 or more descriptors of instances 2–1023 (R212). -/
def isLarge (p : List InstDesc) : Bool := decide (65 ≤ (p.filter fun x => decide (2 ≤ x.inst)).length)

/-- The instance exists under a PARTITION: a physical function's, or a declared one (R213). -/
def inPartition (p : List InstDesc) (i : Nat) : Bool := decide (i < 2) || p.any fun x => x.inst == i

/-! ### SEALER_MODES (R339) -/

/-- SEALER_MODES. -/
def readSealers (v : Vault) (b : Bytes) (base : Nat) : Chk (List SealerEntry) := do
  need (b.length == 768) .badLength base
  readAll 48 fun i => do
    let e := 16 * i
    let k := tget {} v.keys (fieldLe b (e + 2) 2)
    let mode := fieldLe b e 1
    let inst := fieldLe b (e + 4) 2
    need (decide (mode < 3)) .reservedValue (base + e)
    need (decide (fieldLe b (e + 1) 1 < 3)) .reservedValue (base + e + 1)
    need (zeros b (e + 6) 10) .reservedValue (base + e + 6)
    need (decide (mode ≠ 0) || zeros b (e + 1) 5) .reservedValue (base + e + 1)
    need (decide (mode = 0 ∨ (16 ≤ fieldLe b (e + 2) 2 ∧ k.use = 4 ∧ (k.inst = 0xFFFF ∨ k.inst = inst)))) .keySlot (base + e + 2)
    pure { mode, user := fieldLe b (e + 1) 1, keySlot := fieldLe b (e + 2) 2, inst }

/-! ### HBM_SLOT_PLAN (R189, R190) -/

/-- The tier of a region kind: wharf allowed, HBM allowed. -/
def tierAllows (kind : Nat) (wharf : Bool) : Bool :=
  if kind = 1 ∨ kind = 7 then true else if kind = 6 then wharf else !wharf

/-- Slot s of a plan half is marked. -/
def planBit (b : Bytes) (off s : Nat) : Bool := (b.getD (off + s / 8) 0).getLsbD (s % 8)

/-- HBM_SLOT_PLAN: regions, merge tokens, refresh and scrub marks. -/
def readPlan (d : Dev) (b : Bytes) (base : Nat) : Chk (List Region × Tab Nat × Tab Nat) := do
  let p := fieldLe b 0 4
  let r := fieldLe b 4 4
  let tok := 16 + 24 * r
  need (decide (1 ≤ p ∧ p ≤ 8)) .badLength base
  need (decide (r ≤ 7)) .badLength (base + 4)
  need (zeros b 8 8) .reservedValue (base + 8)
  need (decide (b.length = 16 + 24 * r + 1024 + 2048 * p)) .badLength base
  let regions ← readAll r fun i => do
    let e := 16 + 24 * i
    let x : Region := { kind := fieldLe b e 2, base := fieldLe b (e + 8) 8, size := fieldLe b (e + 16) 8 }
    need (decide (1 ≤ x.kind ∧ x.kind ≤ 7) && !(List.range i).any fun j => fieldLe b (16 + 24 * j) 2 == x.kind) .reservedValue (base + e)
    need (zeros b (e + 2) 6) .reservedValue (base + e + 2)
    need (decide (x.base % 65536 = 0)) .badLength (base + e + 8)
    need (decide (x.size % 65536 = 0 ∧ x.size ≠ 0)) .badLength (base + e + 16)
    need (tierAllows x.kind (decide (wharfBase ≤ x.base)) && decide ((wharfBase ≤ x.base) = (wharfBase < x.base + x.size)) &&
      decide (x.base < basinBase) && spanMapped d x.base x.size && !meetsGranule x.base x.size && !meets x.base x.size d.stagingBase 0x4000000 &&
      !(List.range i).any fun j => meets x.base x.size (fieldLe b (24 + 24 * j) 8) (fieldLe b (32 + 24 * j) 8)) .capacity (base + e + 8)
    need (decide (x.kind ≠ 2 ∨ x.base / 2 ^ 36 = (x.base + x.size - 1) / 2 ^ 36)) .capacity (base + e + 8)
    need (decide (x.kind ≠ 3 ∨ 0x200000 ≤ x.size)) .capacity (base + e + 16)
    pure x
  let tokens := (slice b tok 1024).map (·.toNat)
  eachOf 1024 fun j => need (decide (tokens.getD j 0 = 0) || (lockKind (j % 128)).isSome) .reservedValue (base + tok + j)
  eachOf 8 fun k => need (decide (((tokens.drop (128 * k)).take 128).sum ≤ 64)) .capacity (base + tok + 128 * k)
  let marks ← readAll (8 * p) fun j => do
    let e := tok + 1024 + 256 * j
    let row := (List.range 1024).map fun s => b2n (planBit b e s) + 2 * b2n (planBit b (e + 128) s)
    let mapped := (d.ctl (j % 8)).logical.isSome
    need (!row.contains 3 && (!mapped || decide (32 ≤ row.count 1 ∧ 1 ≤ row.count 2))) .integritySlots (base + e)
    pure row
  pure (regions, tlist 0 0 tokens, tlist 0 0 marks.flatten)

/-! ### ALTERNATES (R41–R43, R71) -/

/-- A unit code (R42). -/
def unitCode (u : Nat) : Bool := decide (u < 528 ∨ (0x400 ≤ u ∧ u < 0x404))

/-- The router and the ports at which a unit is attached (R55). -/
def codePorts (u : Nat) : Nat × List Nat :=
  if u < 528 then (7 * (u / 33 / 4) + u / 33 % 4, [u % 33]) else (28 + (u - 0x400) / 2, [46 + 2 * (u % 2), 47 + 2 * (u % 2)])

/-- A schedule entry names a port as a source or as an output. -/
def entryNames (e : BitVec 512) (p : Nat) : Bool :=
  decide (entrySource e p < 64) || (List.range 64).any fun o => entrySource e o == p

/-- An alternate uses a unit: in a patch's entries, or in the records of the program that it takes. -/
def alternateUses (programs : List (List RouteRec)) (a : Alternate) (u : Nat) : Bool :=
  let (r, ports) := codePorts u
  if a.kind = 0 then a.patch.any fun e => e.router == r && ports.any (entryNames e.entry)
  else (programs.getD a.target []).any fun x => x.router == r && decide (x.source < 64) && (ports.contains x.output || ports.contains x.source)

/-- Reads a patch entry. -/
def readPatchEntry (b : Bytes) (base o : Nat) : Chk PatchEntry := do
  let e := BitVec.ofNat 512 (fieldLe b (o + 8) 64)
  need (zeros b (o + 3) 5) .reservedValue (base + o + 3)
  need (decide (fieldLe b o 2 < 1024 ∧ fieldLe b (o + 2) 1 < 30)) .alternateInvalid (base + o)
  need (decide (e.toNat < 2 ^ 450) && (List.range 64).all fun k => decide (entrySource e k ≤ 64)) .reservedValue (base + o + 8)
  pure { slot := fieldLe b o 2, router := fieldLe b (o + 2) 1, entry := e }

/-- Reads one alternate. -/
def readAlternate (b : Bytes) (base : Nat) (i : Nat) : Chk Alternate := do
  let e := 8 + 24 * i
  let kind := fieldLe b (e + 2) 1
  let prog := fieldLe b (e + 3) 1
  let target := fieldLe b (e + 4) 1
  let cov := fieldLe b (e + 8) 4
  let count := fieldLe b (e + 12) 2
  let off := fieldLe b (e + 16) 4
  let n := fieldLe b (e + 20) 4
  need (fieldLe b e 2 == i) .badLength (base + e)
  need (decide (kind < 2)) .reservedValue (base + e + 2)
  need (decide (prog < 8)) .badLength (base + e + 3)
  need (decide (kind = 1 ∨ target = 0)) .badLength (base + e + 4)
  need (zeros b (e + 5) 3) .reservedValue (base + e + 5)
  need (decide (cov + 2 * count ≤ b.length)) .badLength (base + e + 8)
  need (decide (1 ≤ count ∧ count ≤ 64)) .badLength (base + e + 12)
  need (zeros b (e + 14) 2) .reservedValue (base + e + 14)
  need (if kind = 0 then decide (off + 72 * n ≤ b.length) else decide (off = 0)) .badLength (base + e + 16)
  need (if kind = 0 then decide (1 ≤ n ∧ n ≤ 4096) else decide (n = 0)) .badLength (base + e + 20)
  let coverage := cut 2 count (b.drop cov)
  eachOf count fun j => need (unitCode (coverage.getD j 0)) .reservedValue (base + cov + 2 * j)
  let patch ← readAll n fun j => readPatchEntry b base (off + 72 * j)
  pure { kind, base := prog, target, coverage, patch }

/-- An alternate against the resident programs: its base and target are among them, and it uses no unit of its own coverage (R43). -/
def alternateFits (b : Bytes) (base : Nat) (programs : List (List RouteRec)) (x : Nat × Alternate) : Chk Unit := do
  let e := 8 + 24 * x.1
  need (decide (x.2.base < programs.length)) .alternateInvalid (base + e + 3)
  need (decide (x.2.kind = 0 ∨ x.2.target < programs.length)) .alternateInvalid (base + e + 4)
  need (!x.2.coverage.any (alternateUses programs x.2)) .alternateInvalid (base + fieldLe b (e + 8) 4)

/-- The two patches of one base program have disjoint coverage and write a router entry in common (R43). -/
def patchesClash (a c : Alternate) : Bool :=
  decide (a.kind = 0 ∧ c.kind = 0 ∧ a.base = c.base) && !(a.coverage.any c.coverage.contains) &&
    a.patch.any fun e => c.patch.any fun f => decide (e.slot = f.slot ∧ e.router = f.router)

/-- ALTERNATES. -/
def readAlternates (b : Bytes) (base : Nat) : Chk (List Alternate) := do
  let n := fieldLe b 0 8
  need (decide (n ≤ 64 ∧ 8 + 24 * n ≤ b.length)) .badLength base
  let as ← readAll n (readAlternate b base)
  eachOf n fun i => need (!(as.take i).any (patchesClash (as.getD i {}))) .alternateInvalid (base + 8 + 24 * i)
  eachOf 30 fun r => need (decide ((as.map fun a => (a.patch.filter fun e => e.router == r).length).sum ≤ 8192)) .capacity base
  pure as

/-- The primary program uses ring link k. -/
def usesLink (programs : List (List RouteRec)) (k : Nat) : Bool :=
  (programs.getD 0 []).any fun x => decide (x.router = 28 + k / 2 ∧ x.source < 64) &&
    ([x.output, x.source].any fun p => decide (p = 46 + 2 * (k % 2) ∨ p = 47 + 2 * (k % 2)))

/-- A patch leaves the injections at the lock ports as its base program has them (R90). -/
def patchKeepsLocks (programs : List (List RouteRec)) (a : Alternate) : Bool :=
  decide (a.kind = 1) || a.patch.all fun e =>
    (List.range 64).all fun p =>
      decide (e.router < 28) || (lockKind (64 * (e.router - 28) + p)).isNone ||
        (List.range 64).all fun o =>
          decide ((entrySource e.entry o = p) ↔
            ((programs.getD a.base []).any fun x => decide (x.router = e.router ∧ x.slot = e.slot ∧ x.output = o ∧ x.source = p)) = true)

/-! ### FAULT_POLICIES (R125, R126, R166, R200) -/

/-- The actions that a class admits; none: the class has no policy. -/
def classActions (c : Nat) : List Nat :=
  if 0x500 ≤ c ∧ c ≤ 0x506 then [1, 2, 3, 4]
  else if 0x700 ≤ c ∧ c ≤ 0x702 then [2, 3, 4]
  else if c = 0x800 ∨ c = 0x803 ∨ c = 0x804 ∨ c = 0x806 then [2, 4]
  else []

/-- FAULT_POLICIES. -/
def readPolicies (b : Bytes) (base : Nat) : Chk (List Policy) := do
  let n := fieldLe b 0 8
  need (decide (8 + 16 * n ≤ b.length)) .badLength base
  let ps ← readAll n fun i => do
    let e := 8 + 16 * i
    let c := fieldLe b e 2
    let action := fieldLe b (e + 2) 1
    let restart := fieldLe b (e + 3) 1
    let param := fieldLe b (e + 4) 4
    let tile := decide (0x500 ≤ c ∧ c ≤ 0x506)
    need (!(classActions c).isEmpty && !(List.range i).any fun j => fieldLe b (8 + 16 * j) 2 == c) .reservedValue (base + e)
    need ((classActions c).contains action) .reservedValue (base + e + 2)
    need (decide (restart = 0) || (tile && decide (restart = 1 ∧ action < 3))) .reservedValue (base + e + 3)
    need (if c = 0x506 then decide (1 ≤ param ∧ param ≤ 2 ^ 20) else decide (param = 0)) .badLength (base + e + 4)
    need (zeros b (e + 8) 8) .reservedValue (base + e + 8)
    pure ({ cls := c, action, restart := decide (restart = 1), param } : Policy)
  need ((List.range 7).all fun i => ps.any fun p => p.cls == 0x500 + i) .sectionMissing base
  pure ps

/-! ### THRESHOLDS (R407, R408, R423) -/

/-- A route field: reserved bits clear; 0 or an integrity route; named where the job needs it (R408). -/
def routeField (b : Bytes) (base o : Nat) (wanted : Bool) : Chk Nat := do
  let r := fieldLe b o 2
  need (decide (r < 4096)) .reservedValue (base + o)
  need (if r = 0 then !wanted else decide (3840 ≤ r)) .integritySlots (base + o)
  pure r

/-- A limit with a range and a default that 0 stands for (R423). -/
def limitField (b : Bytes) (base o n lo hi dflt : Nat) : Chk Nat := do
  let x := fieldLe b o n
  need (decide (x = 0 ∨ (lo ≤ x ∧ x ≤ hi))) .reservedValue (base + o)
  pure (if x = 0 then dflt else x)

/-- Reads a band. -/
def readBand (b : Bytes) (base o : Nat) : Chk Band := do
  let low := BitVec.ofNat 32 (fieldLe b (o + 8) 4)
  let high := BitVec.ofNat 32 (fieldLe b (o + 12) 4)
  need (!isNanLane low && !isNanLane high && !Fp.lt (ofLane high) (ofLane low)) .reservedValue (base + o + 8)
  pure { line := fieldLe b o 8, low, high }

/-- The chunks that a coordinate entry's run touches in master space: first and last; its fmt gives the element size. -/
def coordChunks (c : Bytes) : Nat × Nat :=
  let first := fieldLe c 40 8
  let n := fieldLe c 24 8 * blockBytes (fieldLe c 32 1) / 256
  (first / 65536, (first + max n 1 - 1) / 65536)

/-- No chunk is covered by more than 80 coordinate entries (R408). -/
def coordsFit (cs : List Bytes) : Bool :=
  let spans := cs.map coordChunks
  spans.all fun s => decide ((spans.filter fun t => decide (t.1 ≤ s.1 ∧ s.1 ≤ t.2)).length ≤ 80)

/-- The offsets of a step cycle (R407); all zero without one. -/
def offsetsGood (steps verdict replay lockages delay : Nat) : Bool :=
  if steps = 0 then decide (verdict = 0 ∧ replay = 0 ∧ lockages = 0 ∧ delay = 0)
  else decide (1 ≤ verdict ∧ verdict ≤ steps - 1 ∧ verdict + delay ≤ replay ∧ 1 ≤ lockages ∧ replay + lockages < steps ∧ 1 ≤ delay ∧ delay ≤ 64)

/-- THRESHOLDS; `steps` and `group` come from the header. -/
def readThresholds (steps group : Nat) (b : Bytes) (base : Nat) : Chk Thresholds := do
  let nb := fieldLe b 0 4
  let nm := fieldLe b 4 4
  let nc := fieldLe b 8 4
  let k := fieldLe b 72 1
  let many := decide (1 < group)
  need (decide (nb ≤ 64 ∧ (steps = 0 → nb = 0))) .badLength base
  need (decide (nm ≤ 16 ∧ (steps = 0 → nm = 0))) .badLength (base + 4)
  need (decide (nc ≤ 65536)) .badLength (base + 8)
  need (decide (128 + 16 * nb + 24 * nm + 48 * nc ≤ b.length)) .badLength base
  need (offsetsGood steps (fieldLe b 12 4) (fieldLe b 16 4) (fieldLe b 20 4) (fieldLe b 24 2)) .badLength (base + 12)
  need (decide (fieldLe b 26 1 < 4)) .reservedValue (base + 26)
  need (decide (fieldLe b 27 1 < 2)) .reservedValue (base + 27)
  need (decide (fieldLe b 28 4 < 2 ^ 20)) .reservedValue (base + 28)
  need (decide (fieldLe b 56 4 < fieldLe b 44 4)) .reservedValue (base + 44)
  let junctionLimit ← limitField b base 60 2 480 800 760
  let coolantLimit ← limitField b base 62 2 160 360 320
  let powerCap ← limitField b base 64 4 1000 4000 4000
  need (decide (k ≤ 32 ∧ (steps = 0 → k = 0) ∧ (k = 0 → fieldLe b 68 4 = 0))) .badLength (base + 68)
  need (decide (fieldLe b 73 1 ≤ 8)) .badLength (base + 73)
  need (decide (k ≠ 0) || zeros b 73 7) .badLength (base + 73)
  need (decide (fieldLe b 74 2 < 4096)) .badLength (base + 74)
  need (decide (k = 0 ∨ fieldLe b 74 2 + k + fieldLe b 73 1 - 1 ≤ 4095)) .capacity (base + 74)
  let codingOut ← routeField b base 76 (decide (0 < k))
  let codingIn ← routeField b base 78 (decide (0 < k))
  need (decide (fieldLe b 80 8 % 256 = 0)) .badLength (base + 80)
  let wordOut ← routeField b base 88 (many && decide (0 < steps))
  let wordIn ← routeField b base 90 (many && decide (0 < steps))
  let buddyOut ← routeField b base 92 (many && decide (0 < nm))
  let buddyIn ← routeField b base 94 (many && decide (0 < nm))
  need (zeros b 96 32) .reservedValue (base + 96)
  let bands ← readAll nb fun i => readBand b base (128 + 16 * i)
  let masters ← readAll nm fun i => do
    let o := 128 + 16 * nb + 24 * i
    need (decide (fieldLe b (o + 16) 8 % 65536 = 0 ∧ fieldLe b (o + 16) 8 ≠ 0)) .badLength (base + o + 16)
    pure ({ base := fieldLe b o 8, twin := fieldLe b (o + 8) 8, size := fieldLe b (o + 16) 8 } : MasterRegion)
  need (decide ((masters.map (·.size)).sum ≤ 2 ^ 37)) .capacity (base + 4)
  let coords := (List.range nc).map fun i => slice b (128 + 16 * nb + 24 * nm + 48 * i) 48
  eachOf nc fun i => do
    let o := 128 + 16 * nb + 24 * nm + 48 * i
    need (decide (fieldLe b (o + 32) 1 < 8)) .reservedValue (base + o + 32)
    need (decide (fieldLe b (o + 33) 1 < 4)) .reservedValue (base + o + 33)
    need (zeros b (o + 34) 2) .reservedValue (base + o + 34)
  need (coordsFit coords) .capacity (base + 8)
  pure { bands, masters, coords, verdictOffset := fieldLe b 12 4, replayOffset := fieldLe b 16 4, replayLockages := fieldLe b 20 4,
         wordDelay := fieldLe b 24 2, role := fieldLe b 26 1, reseed := fieldLe b 27 1, takeoverFrom := fieldLe b 28 4,
         nanLimit := fieldLe b 32 4, hbmCeLimit := fieldLe b 36 4, wharfCeLimit := fieldLe b 40 4, kvHigh := fieldLe b 44 4,
         kvLow := fieldLe b 56 4, hbmWeir := fieldLe b 48 8, junctionLimit, coolantLimit, powerCap, ckptInterval := fieldLe b 68 4,
         ckptK := k, ckptM := fieldLe b 73 1, ckptVolume := fieldLe b 74 2, codingOut, codingIn, stepLine := fieldLe b 80 8,
         wordOut, wordIn, buddyOut, buddyIn }

/-! ### WEIGHTS and STREAM_CODE (R88, R119, R120) -/

/-- WEIGHTS: the weight of each instance; 1 is what an instance not listed has. -/
def readWeights (b : Bytes) (base : Nat) : Chk (Tab Nat) := do
  need (b.length == 2048) .badLength base
  let ws := cut 2 1024 b
  eachOf 1024 fun i => need (decide (ws.getD i 0 ≠ 0)) .reservedValue (base + 2 * i)
  pure (tlist 1 0 ws)

/-- Reads a code image. -/
def readImage (b : Bytes) (base images i : Nat) : Chk CodeImage := do
  let e := 1032 + 16 * i
  let off := fieldLe b e 4
  let n := fieldLe b (e + 4) 4
  need (decide (off % 8 = 0 ∧ 1032 + 16 * images ≤ off ∧ off + 8 * n ≤ b.length)) .badLength (base + e)
  need (decide (1 ≤ n ∧ n ≤ 4096)) .badLength (base + e + 4)
  let entries := cut 2 4 (b.drop (e + 8))
  eachOf 4 fun s => need (decide (entries.getD s 0 = 0xFFFF ∨ entries.getD s 0 < n)) .badLength (base + e + 8 + 2 * s)
  let ops := (cut 8 n (b.drop off)).map (BitVec.ofNat 64)
  eachOf n fun j => need (!undefinedWord (ops.getD j 0)) .reservedValue (base + off + 8 * j)
  pure { ops, entries }

/-- STREAM_CODE: images, and the image of each logical tile. -/
def readCode (b : Bytes) (base : Nat) : Chk (List CodeImage × Tab Nat) := do
  let n := fieldLe b 0 4
  need (decide (1 ≤ n ∧ n ≤ 512 ∧ 1032 + 16 * n ≤ b.length)) .badLength base
  need (zeros b 4 4) .reservedValue (base + 4)
  let map := cut 2 512 (b.drop 8)
  eachOf 512 fun t => need (decide (map.getD t 0 = 0xFFFF ∨ map.getD t 0 < n)) .badLength (base + 8 + 2 * t)
  let images ← readAll n (readImage b base n)
  pure (images, (numbered map).filter fun e => decide (e.2 ≠ 0xFFFF))

/-! ### Cross-section checks -/

/-- The plan marks exactly the refresh and scrub slots that the programs mark at each memory router (R70). -/
def planAgrees (m : Manifest) (q k : Nat) : Bool :=
  let r := 7 * (k / 2) + 4 + k % 2
  let recs := (m.programs.getD q []).filter fun x => x.router == r
  let mark (s : Nat) : Nat := match recs.find? fun x => x.slot == s with | some x => x.mark % 3 | none => 0
  (List.range 1024).all fun s => tget (0 : Nat) m.plan ((8 * q + k) * 1024 + s) == mark s

/-- The reserved spans of a manifest: declared regions, twins, and what the device reserves itself. -/
def manifestReserved (d : Dev) (m : Manifest) (a n : Nat) : Bool :=
  meetsGranule a n || meets a n d.stagingBase 0x4000000 || m.regions.any (fun r => meets a n r.base r.size) ||
    m.thr.masters.any (fun r => meets a n r.twin r.size)

/-- A placed tile's spill region: mapped, apart from the others and from reserved regions (R107). -/
def spillsGood (d : Dev) (m : Manifest) : Bool :=
  let spills := (m.place.filter fun e => decide (e.2.spillSize ≠ 0)).map fun e => (e.1, e.2.spillBase, e.2.spillSize * 0x200000)
  spills.all fun s => spanMapped d s.2.1 s.2.2 && decide (s.2.1 < basinBase) && !manifestReserved d m s.2.1 s.2.2 &&
    spills.all fun t => decide (t.1 = s.1) || !meets s.2.1 s.2.2 t.2.1 t.2.2

/-- Bytes of HBM that the spill regions take (R192). -/
def hbmSpill (m : Manifest) : Nat := ((m.place.filter fun e => decide (e.2.spillBase < 2 ^ 39)).map fun e => e.2.spillSize * 0x200000).sum

/-- The grants: mapped, outside reserved regions and the grants of other instances (R213). -/
def grantsGood (d : Dev) (m : Manifest) : Bool :=
  let all := m.partition.flatMap fun p => p.grants.map fun g => (p.inst, g)
  all.all fun g => spanMapped d g.2.1 g.2.2 && !meetsGranule g.2.1 g.2.2 &&
    !meets g.2.1 g.2.2 d.stagingBase 0x4000000 && !(m.regions.any fun r => meets g.2.1 g.2.2 r.base r.size) &&
    all.all fun h => decide (h.1 = g.1) || !meets g.2.1 g.2.2 h.2.1 h.2.2

/-- The master regions and their twins: mapped, in one tier, apart from each other and from every other reserved region (R387,
R408). -/
def mastersGood (d : Dev) (m : Manifest) : Bool :=
  let spans := (numbered m.thr.masters).flatMap fun e => [(2 * e.1, e.2.base, e.2.size), (2 * e.1 + 1, e.2.twin, e.2.size)]
  (m.thr.masters.all fun r => decide ((r.base < wharfBase) = (r.twin < wharfBase))) &&
    spans.all fun s => spanMapped d s.2.1 s.2.2 && decide (s.2.1 < basinBase) && !meetsGranule s.2.1 s.2.2 &&
      !meets s.2.1 s.2.2 d.stagingBase 0x4000000 && !(m.regions.any fun r => meets s.2.1 s.2.2 r.base r.size) &&
      spans.all fun t => decide (t.1 = s.1) || !meets s.2.1 s.2.2 t.2.1 t.2.2

/-- The buddy region holds two copies of as much as the own master space (R393); a checkpoint has its staging region. -/
def relRegionsGood (m : Manifest) : Bool :=
  let total := (m.thr.masters.map (·.size)).sum
  (decide (m.groupSize ≤ 1 ∨ m.thr.masters = []) || m.regions.any fun r => decide (r.kind = 1 ∧ 2 * total ≤ r.size)) &&
    (decide (m.thr.ckptK = 0) || m.regions.any fun r => r.kind == 7)

/-- Every instance that gates, rows and pools name is in the PARTITION, every row and list exists (R90). -/
def gatesNamed (m : Manifest) : Bool :=
  let known := inPartition m.partition
  (m.rotation.all fun r => r.all known) && (m.pools.all fun p => p.all known) &&
    m.locks.all fun l => l.gates.all fun g =>
      let e := g.2.toNat
      (if bits e 1 0 = 1 then known (bits e 11 2) else if bits e 1 0 = 2 then decide (bits e 11 2 < m.rotation.length)
       else if bits e 1 0 = 3 then decide (bits e 7 2 < m.pools.length) else true) &&
        (!bit e 30 || decide (bits e 1 0 = 3) || decide (bits e 29 24 < m.pools.length))

/-- A lock whose route map names HBM controller k has a merge token of it (R190). -/
def tokensGood (m : Manifest) : Bool :=
  m.locks.all fun l => l.routeMap.all fun r => decide (8 ≤ r.1) || decide (1 ≤ tget 0 m.tokens (128 * r.1 + l.lock))

/-- The images of the tiles placed in a cluster fit its code shelf of 1 MiB (R108). -/
def shelfGood (m : Manifest) (c : Nat) : Bool :=
  let used := ((m.place.filter fun e => e.2.physical / 33 == c).filterMap fun e => tfind m.imageMap e.1).dedup
  decide ((used.map fun i => 8 * ((m.images.getD i {}).ops.length)).sum ≤ 2 ^ 20)

/-- Checks across sections, each charged to the section it concerns: code, section type, condition. -/
def crossChecks (d : Dev) (m : Manifest) : List (VCode × Nat × Bool) :=
  [(.integritySlots, 2, (List.range m.programs.length).all fun q => (List.range 8).all fun k => planAgrees m q k),
   (.capacity, 1, m.place.all fun e => inPartition m.partition e.2.inst),
   (.capacity, 1, spillsGood d m),
   (.capacity, 1, decide (hbmSpill m ≤ m.thr.hbmWeir)),
   (.capacity, 3, gatesNamed m),
   (.capacity, 4, grantsGood d m),
   (.capacity, 5, m.sealers.all fun s => decide (s.mode = 0) || inPartition m.partition s.inst),
   (.capacity, 6, tokensGood m),
   (.alternateInvalid, 7, m.alternates.all (patchKeepsLocks m.programs)),
   (.alternateInvalid, 7, (List.range 4).all fun k => !usesLink m.programs k ||
     m.alternates.any fun a => decide (a.kind = 1 ∧ a.base = 0) && a.coverage.contains (0x400 + k)),
   (.capacity, 9, mastersGood d m),
   (.capacity, 9, relRegionsGood m),
   (.badLength, 11, m.place.all fun e => (tfind m.imageMap e.1).isSome),
   (.capacity, 11, (List.range 16).all (shelfGood m))]

/-! ### The whole image -/

/-- What a load fails with: code, section index, byte offset. -/
abbrev Bad := VCode × Nat × Nat

/-- A section's check under its index. -/
def under {α : Type} (i : Nat) (c : Chk α) : Except Bad α := match c with | .ok x => .ok x | .error e => .error (e.1, i, e.2)

/-- Stage 2's checks (R36). -/
def authenticate (v : Vault) (d : Dev) (b : Bytes) : Except Bad Unit :=
  under 0xFF (do headerCheck d b; signatureCheck v d (imageOf b))

/-- A section's body. -/
def Sect.body (b : Bytes) (s : Sect) : Bytes := (b.drop s.off).take s.length

/-- The section of a type. -/
def sectionOf (b : Bytes) (type : Nat) : Option Sect := (sectionTable b).find? fun s => s.type == type

/-- How many programs the image says it has: as many gate tables does each lock descriptor bring (R89). A count out of range is reported
in its own section's turn. -/
def programCount (b : Bytes) : Nat :=
  match sectionOf b 2 with
  | some s => let n := fieldLe (Sect.body b s) 0 8; if n ≤ 8 then n else 0
  | none => 0

/-- One section adds what it says to the manifest. -/
def readSection (v : Vault) (d : Dev) (b : Bytes) (m : Manifest) (s : Sect) : Except Bad Manifest := under s.index (do
  let body := Sect.body b s
  need (decide ((crc32 body).toNat = s.crc)) .sectionCrc s.off
  match s.type with
  | 1 => let x ← readPlacement m.paired body s.off; pure { m with dvfs := x.1, place := x.2 }
  | 2 => let x ← readPrograms body s.off; pure { m with programs := x }
  | 3 => let x ← readGates body s.off (programCount b); pure { m with locks := x.1, rotation := x.2.1, pools := x.2.2 }
  | 4 => let x ← readPartition body s.off; pure { m with partition := x }
  | 5 => let x ← readSealers v body s.off; pure { m with sealers := x }
  | 6 => let x ← readPlan d body s.off; pure { m with regions := x.1, tokens := x.2.1, plan := x.2.2 }
  | 7 => let x ← readAlternates body s.off; pure { m with alternates := x }
  | 8 => let x ← readPolicies body s.off; pure { m with policies := x }
  | 9 => let x ← readThresholds m.stepLockages m.groupSize body s.off; pure { m with thr := x }
  | 10 => let x ← readWeights body s.off; pure { m with weights := x }
  | 11 => let x ← readCode body s.off; pure { m with images := x.1, imageMap := x.2 }
  | _ => pure m)

/-- What the header says (R30, R33). -/
def headerOf (b : Bytes) : Manifest :=
  { serial := BitVec.ofNat 64 (fieldLe b 24 8), jobId := BitVec.ofNat 64 (fieldLe b 32 8), keySlot := fieldLe b (fieldLe b 52 4 + 6) 2,
    deviceId := fieldLe b 56 4, groupId := fieldLe b 60 4, groupSize := fieldLe b 64 4, paired := bit (fieldLe b 68 4) 0,
    stepLockages := fieldLe b 72 4 }

/-- Stage 3 (R37): the section table, each section in table order, then the checks across sections. -/
def validate (v : Vault) (d : Dev) (image : Bytes) : Except Bad Manifest := do
  let b := imageOf image
  let table := sectionTable b
  table.forM fun s => under s.index (tableEntryCheck b s)
  under 0xFF (need (requiredTypes.all fun t => table.any fun s => s.type == t) .sectionMissing (fieldLe b 48 4))
  let m ← table.foldlM (readSection v d b) (headerOf b)
  let place (type : Nat) : Nat × Nat := match sectionOf b type with | some s => (s.index, s.off) | none => (0xFF, 0)
  let body (type : Nat) : Bytes := match sectionOf b type with | some s => Sect.body b s | none => []
  under (place 3).1 (gatesFit (body 3) (place 3).2 m.programs (isLarge m.partition) m.locks)
  under (place 6).1 (need (fieldLe (body 6) 0 4 == m.programs.length) .badLength (place 6).2)
  under (place 7).1 ((numbered m.alternates).forM (alternateFits (body 7) (place 7).2 m.programs))
  (crossChecks d m).forM fun c => under (place c.2.1).1 (need c.2.2 c.1 (place c.2.1).2)
  pure m

end Sys2Proof.Machine
end

