-- ==== Sys2Proof/Machine/Tiles.lean ====
section
/-! DEFINITION. The send and receive engines of a tile (R103, R118, R158–R164), its basin window (R19), its checkers
(R122, R123), the stall (R125) and the mailbox commands of chapters 5 and 7. -/

namespace Sys2Proof.Machine

/-! ### Lane routes (R157, R158) -/

/-- The kind of a lane route: level, L32 or L24. -/
inductive Lanes where
  | level | l32 | l24
  deriving DecidableEq, Repr

/-- The kind of a route, and whether its RECV merges or sums; none for an ordinary route. -/
def laneKind (route : Nat) : Option (Lanes × Bool) :=
  if route < 2048 then none
  else if route < 2304 then some (.level, true)
  else if route < 2560 then some (.level, false)
  else if route < 2816 then some (.l32, true)
  else if route < 3072 then some (.l32, false)
  else if route < 3328 then some (.l24, true)
  else if route < 3584 then some (.l24, false)
  else none

/-- Basin bytes of a group. -/
def Lanes.group : Lanes → Nat
  | .level => 16384
  | _ => 1024

/-- Data barges for a transfer of n bytes. -/
def Lanes.barges (k : Lanes) (n : Nat) : Nat :=
  match k with
  | .level => n / 16384
  | .l32 => n / 256
  | .l24 => 3 * n / 1024

/-! ### Issue of D ops (R115, R157) -/

/-- A length and a basin address break R115 or R157. -/
def badTransfer (lane : Bool) (basin n route : Nat) : Bool :=
  decide (n % 256 ≠ 0 ∨ n < 256 ∨ 0x200000 < n ∨ basin % 256 ≠ 0) ||
    (match laneKind route with
     | some (k, _) => !lane || decide (n % k.group ≠ 0)
     | none => false)

/-- The 48-bit device address in a register pair, and whether its high register has bits that must be 0. -/
def devAddr (st : Stream) (r : Nat) : Nat × Bool :=
  let hi := (st.xr (r + 1)).toNat
  ((st.xr r).toNat + 2 ^ 32 * (hi % 65536), decide (65536 ≤ hi))

/-- The op as the send engine holds it. -/
def sendOp (kind : Nat) (o : StreamOp) (st : Stream) (basin addr response : Nat) : SendOp :=
  { stream := o.stream.val, pc := (st.pc - 1).toNat, kind := kind, basin := basin, length := (st.xr o.s2.toNat).toNat,
    route := o.imm.toNat % 4096, addr := addr, response := response }

/-- The op as the receive engine holds it. -/
def recvOp (kind : Nat) (o : StreamOp) (st : Stream) (route : Nat) : RecvOp :=
  { stream := o.stream.val, pc := (st.pc - 1).toNat, kind := kind, basin := (st.xr o.dst.toNat).toNat,
    length := (st.xr o.s2.toNat).toNat, route := route }

/-- The send engine holds 16 ops, or the receive engine does (R103). -/
def Tile.engineFull (t : Tile) (receive : Bool) : Bool :=
  if receive then decide (16 ≤ t.recvs.length) else decide (16 ≤ (t.sends.filter fun x => x.kind ≤ 2).length)

/-- An op of unit D: while its engine is full the stream waits with the op not yet issued. -/
def engineOp (opc : Nat) (receive : Bool) (plan : Dev → Tile → Stream → Plan) (effect : Tile → Stream → Tile)
    (after : Dev → Dev) (o : StreamOp) (d : Dev) : Dev :=
  let n := o.tile.val
  let s := o.stream.val
  let w := encodeOp opc o
  if canIssue n s w d && !undefinedWord w && (d.tile n).engineFull receive then
    if ((d.tile n).stream s).state = 2 then d else d.modTile n fun t => t.await s .engine d.canal.lockage
  else issueOp opc plan (fun _ => (0, 0)) (fun o t => effect t (t.stream o.stream.val)) after o d

/-- Push onto the send engine. -/
def Tile.pushSend (t : Tile) (x : SendOp) : Tile := { t with sends := t.sends ++ [x] }

/-- Push onto the receive engine. -/
def Tile.pushRecv (t : Tile) (x : RecvOp) : Tile := { t with recvs := t.recvs ++ [x] }

/-- The plan of SEND and RECV. -/
def streamPlan (basin : Nat) (o : StreamOp) (st : Stream) : Plan :=
  let n := (st.xr o.s2.toNat).toNat
  { bounds := pastBasin basin n, align := badTransfer true basin n (o.imm.toNat % 4096) }

/-- The plan of an op that reaches device memory at an address. -/
def memoryPlan (d : Dev) (basin addr n : Nat) (badHigh : Bool) (routes : List Nat) : Plan :=
  { bounds := pastBasin basin n || !spanMapped d addr n,
    align := badHigh || decide (addr % 256 ≠ 0) || routes.any fun r => badTransfer false basin n r }

/-- The plan of SPILL and FILL: the span lies in the spill region (R111). -/
def spillPlan (d : Dev) (t : Tile) (basin off n : Nat) (routes : List Nat) : Plan :=
  { bounds := pastBasin basin n || decide (t.spillSize * 0x200000 < off + n) || !spanMapped d (t.spillBase + off) n,
    align := decide (off % 256 ≠ 0) || routes.any fun r => badTransfer false basin n r }

/-- The two routes of an MRD or FILL. -/
def readRoutes (o : StreamOp) : Nat × Nat := (o.imm.toNat % 4096, o.imm.toNat / 4096)

/-! ### Reduction records (R164–R166) -/

/-- Post a reduction record: counted, latched as the last one, and the step is suspect. Actions 3 and 4 and the wait for the cluster
control core are those of a tile's faults (R126, R127, R166). -/
def reduceRecord (cls n : Nat) (bytes : Bytes) (d : Dev) : Dev :=
  let a := tileAction cls 2 n d
  let r := mkRecord cls (d.unitTile n) 0 bytes d
  let d := d.modReduce fun x => { x with
    digest := if cls = 0x700 then satAdd (2 ^ 32 - 1) x.digest 1 else x.digest,
    sumCheck := if cls = 0x701 then satAdd (2 ^ 32 - 1) x.sumCheck 1 else x.sumCheck,
    laneRange := if cls = 0x702 then satAdd (2 ^ 32 - 1) x.laneRange 1 else x.laneRange,
    last := some r }
  suspect 0 0xFFFF (postTile n r (decide (3 ≤ a)) (demandAction a n d))

/-! ### Injection (R118, R158–R160, R446) -/

/-- What the send engine forms next for an op: the barge, the op after it (none: it has completed), the basin span read, and
the first lane out of range, if the barge brings one. -/
structure Formed where
  barge : Barge
  next : Option SendOp
  reads : List (Nat × Nat) := []
  range : Option (Nat × W32) := none
  deriving DecidableEq, Repr

/-- A data barge of an ordinary transfer. -/
def formPlain (t : Tile) (x : SendOp) : Formed :=
  let a := x.basin + x.read
  let done := decide (x.length ≤ x.read + 256)
  { barge := mkBarge 1 x.route t.inst (t.bytes a 256) done, reads := [(a, 256)],
    next := if done then none else some { x with sent := x.sent + 1, read := x.read + 256 } }

/-- The digest barge that ends a lane transfer (R159). -/
def formDigest (t : Tile) (x : SendOp) : Formed :=
  { barge := mkBarge 1 x.route t.inst (leBytes 8 x.digest.toNat) true, next := none }

/-- A barge of level bytes: byte 4m + i is byte i of line m of the group. -/
def formLevel (t : Tile) (x : SendOp) : Formed :=
  let a := x.basin + x.read
  let body := (List.range 64).flatMap fun m => t.bytes (a + 256 * m) 4
  { barge := mkBarge 1 x.route t.inst body false, reads := (List.range 64).map fun m => (a + 256 * m, 4),
    next := some { x with sent := x.sent + 1, read := x.read + 16384,
                          digest := digestStep x.digest (digestSum 0 (body.map fun b => (b.toNat : Int))) } }

/-- The lanes of the basin from an address on. -/
def Tile.lanes (t : Tile) (a n : Nat) : List W32 := (cut 4 n (t.bytes a (4 * n))).map (BitVec.ofNat 32)

/-- Close the group of a digest that has reached its end. -/
def closeGroup (read : Nat) (x : SendOp) : SendOp :=
  if read % 1024 = 0 then { x with digest := digestStep x.digest x.part, part := 0 } else x

/-- A barge of 64 lanes of an L32 route. -/
def formL32 (t : Tile) (x : SendOp) : Formed :=
  let a := x.basin + x.read
  let sum := digestSum (x.read % 1024 / 4) ((t.lanes a 64).map (·.toInt))
  { barge := mkBarge 1 x.route t.inst (t.bytes a 256) false, reads := [(a, 256)],
    next := some (closeGroup (x.read + 256) { x with sent := x.sent + 1, read := x.read + 256, part := x.part + sum }) }

/-- A lane lies outside the 24-bit range (R160). -/
def outOfRange (w : W32) : Bool := decide (w.toInt < -(2 ^ 23) ∨ 2 ^ 23 ≤ w.toInt)

/-- A barge of packed 24-bit lanes: as many lanes are read as its 256 bytes need. -/
def formL24 (t : Tile) (x : SendOp) : Formed :=
  let a := x.basin + x.read
  let n := (256 - x.packed.length + 2) / 3
  let lanes := t.lanes a n
  let bytes := x.packed ++ lanes.flatMap fun w => leBytes 3 (w.toNat % 2 ^ 24)
  let sum := digestSum (x.read % 1024 / 4) (lanes.map fun w => sext 24 (w.toNat % 2 ^ 24))
  { barge := mkBarge 1 x.route t.inst (bytes.take 256) false, reads := [(a, 4 * n)],
    range := ((numbered lanes).find? fun e => outOfRange e.2).map fun e => (x.read / 4 + e.1, e.2),
    next := some (closeGroup (x.read + 4 * n)
      { x with sent := x.sent + 1, read := x.read + 4 * n, packed := bytes.drop 256, part := x.part + sum }) }

/-- The next barge of an op. -/
def formNext (t : Tile) (x : SendOp) : Formed :=
  if 3 ≤ x.kind then
    { barge := mkBarge 1 x.route t.inst (commandBody x.addr x.length 0 x.response 0) false, next := none }
  else if 1 ≤ x.kind ∧ x.sent = 0 then
    { barge := mkBarge 1 x.route t.inst (commandBody x.addr x.length 1 0 0) false, next := some { x with sent := 1 } }
  else match laneKind x.route with
    | none => formPlain t x
    | some (k, _) =>
      if x.length ≤ x.read then formDigest t x
      else match k with
        | .level => formLevel t x
        | .l32 => formL32 t x
        | .l24 => formL24 t x

/-- A write op that has sent nothing meets a hold (R388, R395, R397): it is held from now on. -/
def holdSend (n : Nat) (x : SendOp) (d : Dev) : Dev :=
  if (x.kind ≠ 1 ∧ x.kind ≠ 2) ∨ 0 < x.sent ∨ (d.locks.holds.any fun h => h.tile == some n && h.id == x.pc) = true then d
  else match writeHold d x.addr x.length with
    | none => d
    | some (kind, c) =>
      let h : Hold := { kind := kind, chunk := c, inst := (d.tile n).inst, id := x.pc, tile := some n, route := x.route,
                        since := d.uptime }
      let fill (r : Rel) : Rel := if kind = .fill then { r with filling := addSet c r.filling } else r
      countHold kind ((d.modLocks fun k => { k with holds := k.holds ++ [h] }).modRel fill)

/-- The op cannot inject now: it is held, or its command waits for the new stack map (R21). -/
def sendBlocked (n : Nat) (x : SendOp) (d : Dev) : Bool :=
  (d.locks.holds.any fun h => h.tile == some n && h.id == x.pc) ||
    (decide (1 ≤ x.kind ∧ x.sent = 0) && d.hbm.awaitingMap && decide (x.addr < 2 ^ 39))

/-- The cluster router and input port of a tile (R17, R55). -/
def tileRouter (n : Nat) : Nat := 7 * (n / 33 / 4) + n / 33 % 4
def tilePort (n : Nat) : Nat := n % 33

/-- The route that the running program gives a tile in the current slot. -/
def slotRoute (n : Nat) (d : Dev) : Option Nat :=
  ((programRecords d d.program).find? fun x => decide (x.router = tileRouter n ∧ x.slot = d.canal.slot ∧
    x.source = recordPort d (tileRouter n) (tilePort n))).map (·.route)

/-- Replace the first element that a test names; none drops it. -/
def replaceFirst {α : Type} (p : α → Bool) (f : α → Option α) : List α → List α
  | [] => []
  | a :: l => if p a then (f a).toList ++ l else a :: replaceFirst p f l

/-- The send engine injects the next barge of its oldest op on a route; a poisoned source line sends it with kind 2 (R110), and so do
basin requests that were not served in time (R446). -/
def injectSend (n route : Nat) (half served : Bool) (d : Dev) : Option Dev :=
  match (d.tile n).sends.find? fun x => x.route = route with
  | none => none
  | some x =>
    let d := holdSend n x d
    if sendBlocked n x d then none
    else
      let f := formNext (d.tile n) x
      let d := readSpans n (some x.stream) x.pc ((d.tile n).op x.pc) f.reads d
      let bad := f.reads.any fun r => !served || (d.tile n).poisoned r.1 r.2
      let next := f.next.map fun y => { y with ranged := y.ranged || f.range.isSome }
      let d := d.modTile n fun t =>
        { t with sends := replaceFirst (fun y => decide (y.route = route)) (fun _ => next) t.sends }.count 4 1
      let d := match f.range with
        | some (l, w) => if x.ranged then d
            else reduceRecord 0x702 n (syn [(32, 1, x.stream), (34, 2, x.pc), (36, 2, route), (40, 4, l), (44, 4, w.toNat)]) d
        | none => d
      some (inject (tileRouter n) (tilePort n) half (if bad then { f.barge with kind := 2 } else f.barge) d)

/-- Held read data after its first barge has left. -/
def dropHead (h : Held) (rest : List Barge) (hs : List Held) : List Held :=
  replaceFirst (fun y => decide (y.id = h.id)) (fun y => if rest = [] then none else some { y with barges := rest }) hs

/-- The window service sends the next barge of read data on a route. -/
def injectWindow (n route : Nat) (half served : Bool) (d : Dev) : Dev :=
  match (d.tile n).windowReads.find? fun h => decide (h.route = route ∧ h.barges ≠ []) with
  | none => d
  | some h =>
    match h.barges with
    | [] => d
    | b :: rest =>
      inject (tileRouter n) (tilePort n) half (if served then b else { b with kind := 2 }) (d.modTile n fun t =>
        ({ t with windowReads := dropHead h rest t.windowReads }).count 4 1)

/-- A tile's injection in the current slot: barge A, then barge B, of the slot's route. `a` and `b`: the basin has served the requests of
that barge before the slot (R446). -/
def bargeInjection (n : Nat) (a b : Bool) (d : Dev) : Dev :=
  let t := d.tile n
  if d.canal.aligned = false ∨ d.canal.dwell ∨ 1024 ≤ d.canal.slot ∨ t.failed ∨ t.starting ∨ t.follower ∨
      (d.canal.flights.any fun f => decide (f.router = tileRouter n ∧ f.port = tilePort n ∧ f.slot = d.canal.slot)) = true
  then d
  else match slotRoute n d with
    | none => d
    | some r =>
      let one (half served : Bool) (d : Dev) : Dev := (injectSend n r half served d).getD (injectWindow n r half served d)
      one true b (one false a d)

/-! ### Receiving (R118, R158–R164) -/

/-- The lines of a basin span become poisoned. -/
def Tile.poisonLines (t : Tile) (a n : Nat) : Tile :=
  { t with poison := ((List.range ((a + n + 63) / 64 - a / 64)).foldl (fun p i => tset 0 p (a / 64 + i) 1) t.poison) }

/-- Bytes written by the receive engine: whole lines of a copy clear their poison; a sum or merge keeps it. -/
def Tile.writeLanes (t : Tile) (keep : Bool) (a : Nat) (bs : Bytes) : Tile :=
  if keep then { t with basin := tputs 0 t.basin a bs } else t.store a bs

/-- A data barge of an ordinary transfer: written, poisoned with the barge. -/
def takePlain (b : Barge) (x : RecvOp) (t : Tile) : RecvOp × Tile :=
  let a := x.basin + x.written
  let bs := fit 256 b.body
  let t := t.store a bs
  ({ x with taken := x.taken + 1, written := x.written + 256 }, if b.kind = 2 then t.poisonLines a 256 else t)

/-- One group step of each of a transfer's digests. -/
def RecvOp.fold (x : RecvOp) : RecvOp :=
  { x with dIn := digestStep x.dIn x.pIn, dOld := digestStep x.dOld x.pOld, dNew := digestStep x.dNew x.pNew,
           pIn := 0, pOld := 0, pNew := 0 }

/-- Close the open group when its end is reached. -/
def RecvOp.close (x : RecvOp) (group : Nat) : RecvOp := if x.written % group = 0 then x.fold else x

/-- A barge of levels: bytes 0–3 of each line merge with the old ones or replace them, bytes 4–255 become zero. -/
def takeLevel (merge : Bool) (b : Barge) (x : RecvOp) (t : Tile) : RecvOp × Tile :=
  let a := x.basin + x.written
  let body : Bytes := fit 256 b.body
  let line (m : Nat) : Bytes :=
    let new := slice body (4 * m) 4
    let old := t.bytes (a + 256 * m) 4
    (if merge then List.zipWith (fun p q => if p.toNat < q.toNat then q else p) old new else new) ++ List.replicate 252 0
  let x := { x with taken := x.taken + 1, written := x.written + 16384,
                    pIn := digestSum 0 (body.map fun (v : Byte) => (v.toNat : Int)) }.fold
  if b.kind = 2 then ({ x with poisoned := true }, t.poisonLines a 16384)
  else (x, t.writeLanes merge a ((List.range 64).flatMap line))

/-- Lanes that arrive at the current position of a transfer: added to the old ones, or in their place. -/
def takeLanes (sum bad : Bool) (new : List Int) (x : RecvOp) (t : Tile) : RecvOp × Tile :=
  let a := x.basin + x.written
  let n := new.length
  let l := x.written % 1024 / 4
  let old := (t.lanes a n).map (·.toInt)
  let out := if sum then List.zipWith (fun p q => (BitVec.ofInt 32 (p + q)).toInt) old new else new
  let x := { x with written := x.written + 4 * n, pIn := x.pIn + digestSum l new, pOld := x.pOld + digestSum l old,
                    pNew := x.pNew + digestSum l out, poisoned := x.poisoned || bad }
  (x.close 1024,
    if bad then t.poisonLines a (4 * n) else t.writeLanes sum a (out.flatMap fun v => leBytes 4 (BitVec.ofInt 32 v).toNat))

/-- A data barge of an L32 or L24 route. -/
def takeWords (l24 sum : Bool) (b : Barge) (x : RecvOp) (t : Tile) : RecvOp × Tile :=
  let x := { x with taken := x.taken + 1 }
  if l24 then
    let bytes := x.partialBytes ++ fit 256 b.body
    let n := bytes.length / 3
    takeLanes sum (b.kind == 2) ((cut 3 n bytes).map (sext 24)) { x with partialBytes := bytes.drop (3 * n) } t
  else takeLanes sum (b.kind == 2) ((cut 4 64 (fit 256 b.body)).map (sext 32)) x t

/-- A well-formed digest barge (R159). -/
def digestBarge (b : Barge) : Bool :=
  (b.kind == 1) && b.last && (b.fill == 7) && (fit 256 b.body).drop 8 == List.replicate 248 0

/-- The syndrome of a reduction record of a RECV (R165). -/
def recvSyn (x : RecvOp) (v : Nat) : Bytes := syn [(32, 1, x.stream), (34, 2, x.pc), (36, 2, x.route), (40, 8, v)]

/-- The barge after the data barges of a lane transfer: the checks of R164. -/
def checkDigest (n : Nat) (sum : Bool) (b : Barge) (x : RecvOp) (d : Dev) : Dev :=
  if b.kind = 2 then suspect 0 0xFFFF d
  else if !digestBarge b then reduceRecord 0x700 n (recvSyn x 0) d
  else
    let got := fieldLe b.body 0 8
    let d := if x.poisoned ∨ x.dIn.toNat = got then d else reduceRecord 0x700 n (recvSyn x got) d
    if sum ∧ x.poisoned = false ∧ x.dNew ≠ x.dOld + x.dIn then reduceRecord 0x701 n (recvSyn x x.dNew.toNat) d else d

/-- The old bytes that a summing or merging RECV reads for a data barge (R158, R161). -/
def oldSpans (k : Lanes) (merge : Bool) (x : RecvOp) : List (Nat × Nat) :=
  let a := x.basin + x.written
  if merge = false then []
  else match k with
    | .level => (List.range 64).map fun m => (a + 256 * m, 4)
    | .l32 => [(a, 256)]
    | .l24 => [(a, 4 * ((x.partialBytes.length + 256) / 3))]

/-- The receive op takes a barge: what remains of the op (none: it has completed). -/
def takeOp (n : Nat) (b : Barge) (x : RecvOp) (d : Dev) : Option RecvOp × Dev :=
  let put (r : RecvOp × Tile) : Dev := d.modTile n fun _ => r.2
  match laneKind x.route with
  | none =>
    let r := takePlain b x (d.tile n)
    (if x.length ≤ r.1.written then none else some r.1, put r)
  | some (k, sum) =>
    if k.barges x.length ≤ x.taken then (none, checkDigest n (sum && k != .level) b x d)
    else if b.kind ≠ 2 ∧ b.last then (none, reduceRecord 0x700 n (recvSyn x 0) d)
    else
      let d := readSpans n (some x.stream) x.pc ((d.tile n).op x.pc) (oldSpans k sum x) d
      let put (r : RecvOp × Tile) : Dev := d.modTile n fun _ => r.2
      let r := if k = .level then takeLevel sum b x (d.tile n) else takeWords (decide (k = .l24)) sum b x (d.tile n)
      (some r.1, if b.kind = 2 then suspect 0 0xFFFF (put r) else put r)

/-- The oldest op that waits for a route takes a barge. -/
def giveOp (n : Nat) (b : Barge) (d : Dev) : Option Dev :=
  match (d.tile n).recvs.find? fun x => x.route = b.route.toNat with
  | none => none
  | some x =>
    let r := takeOp n b x d
    some (r.2.modTile n fun t => { t with
      recvs := replaceFirst (fun y => decide (y.route = b.route.toNat)) (fun _ => r.1) t.recvs })

/-- Barges in the landing buffer that match an op are taken, oldest first (R118). -/
def drainLanding : Nat → Nat → Dev → Dev
  | 0, _, d => d
  | fuel + 1, n, d =>
    match (d.tile n).landing.find? fun b => (d.tile n).recvs.any fun x => x.route = b.route.toNat with
    | none => d
    | some b =>
      match giveOp n b d with
      | none => d
      | some d => drainLanding fuel n (d.modTile n fun t => { t with landing := t.landing.erase b })

/-- A barge of the tile's inbox belongs to the basin window: its route is one that a lock's route map gives a basin. -/
def windowRoute (d : Dev) (route : Nat) : Bool :=
  d.locks.tab.any fun e => e.2.routeMap.any fun m => decide (m.2 = route ∧ 0x100 ≤ m.1 ∧ m.1 < 0x300)

/-- The first delivery of an inbox that a test names, and the rest. -/
def takeInbox (key : Nat) (p : Delivery → Bool) (d : Dev) : Option (Delivery × Dev) :=
  match (tget [] d.canal.inbox key).find? p with
  | none => none
  | some x => some (x, d.modCanal fun c => { c with inbox := tmod [] c.inbox key fun l => l.erase x })

/-- An arriving stream barge: taken by the oldest matching op, else kept in the landing buffer, else lost (R118). A tile out
of service and a follower, which shares its leader's state, keep nothing. -/
def bargeReceive (n : Nat) (d : Dev) : Dev :=
  match takeInbox (unitKey (tileRouter n) (tilePort n)) (fun x => !windowRoute d x.barge.route.toNat) d with
  | none => d
  | some (x, d) =>
    let t := d.tile n
    if t.failed ∨ t.follower ∨ t.logical = none then d
    else
      let d := d.modTile n fun t => t.count 5 1
      match (if t.landing.any fun b => b.route == x.barge.route then none else giveOp n x.barge d) with
      | some d => d
      | none =>
        if t.landing.length < 64 then d.modTile n fun t => { t with landing := t.landing ++ [x.barge] }
        else tileFault 0x505 n none 0 0 [] d

/-! ### The basin window (R19, R83) -/

/-- The window service of a tile takes one barge of a lock's route: it continues an open write, or it is a command. A
command outside the tile's own window is handled as unmapped: a write is discarded and a read answered with poison. -/
def windowAccess (n : Nat) (d : Dev) : Dev :=
  match takeInbox (unitKey (tileRouter n) (tilePort n)) (fun x => windowRoute d x.barge.route.toNat) d with
  | none => d
  | some (x, d) =>
    let t := d.tile n
    let r := x.barge.route.toNat
    if t.follower then d
    else
      let d := d.modTile n fun t => t.count 5 1
      match t.windowWrites.find? fun w => w.route = r with
      | some w =>
        let w := { w with bytes := w.bytes ++ fit 256 x.barge.body, count := w.count + 1,
                          poisoned := if x.barge.kind = 2 then w.poisoned ++ [w.count] else w.poisoned }
        let keep (ws : List OpenWrite) : List OpenWrite := replaceFirst (fun y => decide (y.route = r))
          (fun _ => if x.barge.last then none else some w) ws
        let d := d.modTile n fun t => { t with windowWrites := keep t.windowWrites }
        if x.barge.last ∧ w.rejected = false then
          ((linePieces w.length (w.addr % 0x200000) w.length).foldl (fun (acc : Nat × Dev) p =>
            (acc.1 + p.2, basinWrite n p.1 ((w.bytes.drop acc.1).take p.2)
              (w.poisoned.any fun j => decide (acc.1 / 256 ≤ j ∧ j ≤ (acc.1 + p.2 - 1) / 256)) acc.2)) (0, d)).2
        else d
      | none =>
        let (a, len, op, resp, operation, clean) := commandFields x.barge.body
        let inst := x.barge.inst.toNat
        let good := clean && decide (op < 2 ∧ 0 < len ∧ len ≤ 2097152) && (x.barge.kind == 1) && !t.failed &&
          (match place d a with | .basin m off => decide (m = n ∧ off + len ≤ 0x200000) | _ => false)
        if op = 0 then
          let r := if good then readBarges (len + 1) operation resp inst a len d else (poisonBarges resp inst len, d)
          r.2.modTile n fun t => { t with windowReads := t.windowReads ++
            [{ route := resp, inst := inst, barges := r.1, ready := d.now, addr := a, operation := operation,
               id := (t.windowReads.map (·.id)).foldl max 0 + 1 }] }
        else if x.barge.last then d
        else d.modTile n fun t => { t with windowWrites := t.windowWrites ++
          [{ route := r, addr := a, length := len, inst := inst, operation := operation, rejected := !good }] }

/-! ### Views of a tile's registers (chapter 5) -/

/-- TILES_BINDING. -/
def tileBinding (d : Dev) (n : Nat) : Nat :=
  let t := d.tile n
  t.logical.getD 0 + at_ 10 (b2n t.logical.isSome) + at_ 11 (b2n t.follower) + at_ 12 (t.pair.getD 0) +
    at_ 24 ((match d.manifest.active with | some m => m.dvfs.getD (clusterOf n) 0 | none => 0)) + at_ 32 (d.tileMhz n / 25)

/-- TILES_SPILL. -/
def tileSpill (d : Dev) (n : Nat) : Nat := (d.tile n).spillBase / 2 ^ 21 + at_ 27 (d.tile n).spillSize

/-- TILES_STREAM0–3. -/
def tileStream (d : Dev) (n s : Nat) : Nat :=
  let st := (d.tile (d.leader n)).stream s
  st.pc.toNat + at_ 12 st.state + at_ 16 st.fault.toNat + at_ 32 st.issued.toNat

/-- TILES_FAULT. -/
def tileFaultReg (d : Dev) (n : Nat) : Nat :=
  match (d.tile n).lastFault with
  | none => 0
  | some (cls, s, pc, opc) => cls.toNat + at_ 16 (s.getD 0) + at_ 18 (b2n s.isNone) + at_ 20 pc + at_ 32 opc.toNat

/-- TILES_ERR_COUNT. -/
def tileErrCount (d : Dev) (n : Nat) : Nat :=
  (d.tile n).corrected + at_ 32 (d.tile n).checks + at_ 48 (d.tile n).poisons

/-! ### Stream restart (R125, R129) -/

/-- A stream starts at its entry point. -/
def Stream.start (st : Stream) : Stream :=
  match st.entry with
  | some e => { st with pc := BitVec.ofNat 12 e, state := 1, wait := .none, policyRestart := false }
  | none => { st with state := 0, wait := .none, policyRestart := false }

/-- A stream that has been halted or has ended. -/
def Stream.ended (st : Stream) : Bool := st.state == 3 || st.state == 4 || st.state == 5

/-! ### The commands: unit D -/

/-- SEND (R115, R158). -/
def execSend (o : StreamOp) (s : State) : Host.Outcome State Fault Refusal :=
  onDev (engineOp 0x40 false (fun _ _ st => streamPlan (st.xr o.s1.toNat).toNat o st)
    (fun t st => t.pushSend (sendOp 0 o st (st.xr o.s1.toNat).toNat 0 0)) id o) s

/-- RECV (R118, R158). -/
def execRecv (o : StreamOp) (s : State) : Host.Outcome State Fault Refusal :=
  onDev (engineOp 0x41 true (fun _ _ st => streamPlan (st.xr o.dst.toNat).toNat o st)
    (fun t st => t.pushRecv (recvOp 0 o st (o.imm.toNat % 4096))) (drainLanding 64 o.tile.val) o) s

/-- MRD (R115): its command barge goes out on the request route, its data comes in on the response route. -/
def execMrd (o : StreamOp) (s : State) : Host.Outcome State Fault Refusal :=
  onDev (engineOp 0x42 true
    (fun d _ st => let a := devAddr st o.s1.toNat
      memoryPlan d (st.xr o.dst.toNat).toNat a.1 (st.xr o.s2.toNat).toNat a.2 [(readRoutes o).1, (readRoutes o).2])
    (fun t st => (t.pushRecv (recvOp 1 o st (readRoutes o).2)).pushSend
      (sendOp 3 o st 0 (devAddr st o.s1.toNat).1 (readRoutes o).2)) (drainLanding 64 o.tile.val) o) s

/-- MWR (R115). -/
def execMwr (o : StreamOp) (s : State) : Host.Outcome State Fault Refusal :=
  onDev (engineOp 0x43 false
    (fun d _ st => let a := devAddr st o.dst.toNat
      memoryPlan d (st.xr o.s1.toNat).toNat a.1 (st.xr o.s2.toNat).toNat a.2 [o.imm.toNat % 4096])
    (fun t st => t.pushSend (sendOp 1 o st (st.xr o.s1.toNat).toNat (devAddr st o.dst.toNat).1 0)) id o) s

/-- SPILL (R111, R115): MWR into the spill region. -/
def execSpill (o : StreamOp) (s : State) : Host.Outcome State Fault Refusal :=
  onDev (engineOp 0x44 false
    (fun d t st => spillPlan d t (st.xr o.s1.toNat).toNat (st.xr o.dst.toNat).toNat (st.xr o.s2.toNat).toNat [o.imm.toNat % 4096])
    (fun t st => t.pushSend (sendOp 2 o st (st.xr o.s1.toNat).toNat (t.spillBase + (st.xr o.dst.toNat).toNat) 0)) id o) s

/-- FILL (R111, R115): MRD from the spill region. -/
def execFill (o : StreamOp) (s : State) : Host.Outcome State Fault Refusal :=
  onDev (engineOp 0x45 true
    (fun d t st => spillPlan d t (st.xr o.dst.toNat).toNat (st.xr o.s1.toNat).toNat (st.xr o.s2.toNat).toNat
      [(readRoutes o).1, (readRoutes o).2])
    (fun t st => (t.pushRecv (recvOp 2 o st (readRoutes o).2)).pushSend
      (sendOp 4 o st 0 (t.spillBase + (st.xr o.s1.toNat).toNat) (readRoutes o).2)) (drainLanding 64 o.tile.val) o) s

/-! ### The commands: engines, checkers, stall -/

/-- BARGE_INJECTION (R118, R446). -/
def execBargeInjection (turn : SendTurn) (s : State) : Host.Outcome State Fault Refusal :=
  onDev (bargeInjection turn.tile.val turn.servedA turn.servedB) s

/-- TILE_BARGE_RECEIVE (R118). -/
def execTileBargeReceive (tile : Fin 528) (s : State) : Host.Outcome State Fault Refusal := onDev (bargeReceive tile.val) s

/-- BASIN_WINDOW_ACCESS (R19). -/
def execBasinWindowAccess (tile : Fin 528) (s : State) : Host.Outcome State Fault Refusal := onDev (windowAccess tile.val) s

/-- SIGNATURE_COMPARE (R122): a pair whose signatures differ halts all its streams, which leader and follower share, and posts TILE_CHECK; the comparison interval
ends. -/
def execSignatureCompare (tile : Fin 528) (mismatch : Bool) (s : State) : Host.Outcome State Fault Refusal :=
  onDev (fun d =>
    let n := tile.val
    match (d.tile n).pair with
    | none => d
    | some m =>
      if (d.tile n).follower ∨ (d.tile n).failed then d
      else
        let d := if mismatch then tileFault 0x504 n none 0 0 (List.range 4) d else d
        [n, m].foldl (fun d k => d.modTile k fun t => { t with reported := false }) d) s

/-- TILE_CHECK (R123): a checker of a tile reports an op of a stream, which halts. -/
def execTileCheck (tile : Fin 528) (stream : Fin 4) (pc : Fin 4096) (s : State) : Host.Outcome State Fault Refusal :=
  onDev (fun d =>
    let n := tile.val
    if (d.tile n).logical = none ∨ (d.tile n).failed then d
    else tileFault 0x504 n (some stream.val) pc.val ((d.tile (d.leader n)).op pc.val) [stream.val]
      (d.modTile n fun t => { t with reported := t.reported || t.pair.isSome })) s

/-- TILE_STALL (R125): a wait in WAITEV, FENCE or a D op has lasted for the policy's limit of whole scheduled lockages. It is detected at
the boundary that ends the last of them, before the first slot after it, and its record has the time of that boundary. -/
def execTileStall (tile : Fin 528) (stream : Fin 4) (s : State) : Host.Outcome State Fault Refusal :=
  onDev (fun d =>
    let n := tile.val
    let st := (d.tile n).stream stream.val
    let waits : Bool := match st.wait with | .fence => true | .event _ => true | .engine => true | _ => false
    if st.state = 2 ∧ waits = true ∧ st.waitSince + 1 + (d.policy 0x506 1).param = d.canal.lockage ∧ d.canal.slot = 0 ∧
        d.canal.dwell = false then
      let pc := if st.wait = .engine then st.pc else st.pc - 1
      tileFault 0x506 n (some stream.val) pc.toNat ((d.tile n).op pc.toNat) [stream.val] d
        fun r => { r with timeNs := d.canal.beganNs, timeFrac := d.canal.beganFrac }
    else d) s

/-- SPARE_START (R108): the copy of the image and the zeroing are done; the spare's streams start at their entry points. -/
def execSpareStart (tile : Fin 528) (s : State) : Host.Outcome State Fault Refusal :=
  onDev (fun d =>
    if (d.tile tile.val).starting then
      d.modTile tile.val fun t =>
        (List.range 4).foldl (fun t i => t.modStream i Stream.start) { t with starting := false }
    else d) s

/-! ### The mailbox commands (R128, R171) -/

/-- The leader that runs a logical tile. -/
def Dev.leaderOf (d : Dev) (logical : Nat) : Option Nat := d.tileOf logical

/-- The sender did not create the instance of a tile (R128). -/
def notMine (src : Nat) (n : Nat) (d : Dev) : Bool :=
  (d.tile n).logical.isSome && !createdThrough (d.tile n).inst (actingPf src (some (d.tile n).inst) d) d

/-- CMD_TILE_STATUS (R128): binding, spill region, streams, last fault and counts, as their registers show them. -/
def nowCmdTileStatus (c : Cmd) (tile : Nat) (s : State) : Host.Outcome State Fault Refusal :=
  onDev (query c { i3c := true } fun d =>
    if 528 ≤ tile then fail .invalid
    else if notMine c.src tile d then fail .notPermitted
    else ok ([tileBinding d tile] ++ (List.range 4).map (tileStream d tile) ++ [tileFaultReg d tile, tileErrCount d tile])) s

/-- The same; it waits while the core that serves it restarts (R353). -/
def execCmdTileStatus (c : Cmd) (tile : Nat) (s : State) : Host.Outcome State Fault Refusal :=
  whileUp (3 + tile / 33) (.cmdTileStatus c tile) (nowCmdTileStatus c tile) s

/-- CMD_TILE_RESTART (R128). -/
def nowCmdTileRestart (c : Cmd) (logical mask : Nat) (s : State) : Host.Outcome State Fault Refusal :=
  onDev (mailbox c { block := some 5 } fun d =>
    match d.leaderOf logical with
    | none => (fail .invalid, d)
    | some n =>
      let named := (List.range 4).filter fun i => bit mask i
      if 16 ≤ mask then (fail .invalid, d)
      else if notMine c.src n d then (fail .notPermitted, d)
      else if named.any fun i => decide (((d.tile n).stream i).state = 1 ∨ ((d.tile n).stream i).state = 2) then (fail .invalid, d)
      else (ok [], d.modTile n fun t => named.foldl (fun t i => t.modStream i fun st =>
        if st.ended then { st with policyRestart := true } else st) t)) s

/-- The same; it waits while the core that serves it restarts (R353). -/
def execCmdTileRestart (c : Cmd) (logical mask : Nat) (s : State) : Host.Outcome State Fault Refusal :=
  whileUp (3 + (s.dev.leaderOf logical).getD 0 / 33) (.cmdTileRestart c logical mask) (nowCmdTileRestart c logical mask) s

/-- CMD_TILE_READ_OPS (R128). -/
def nowCmdTileReadOps (c : Cmd) (logical first count : Nat) (s : State) : Host.Outcome State Fault Refusal :=
  onDev (query c {} fun d =>
    match d.leaderOf logical with
    | none => fail .invalid
    | some n =>
      if count = 0 ∨ 64 < count ∨ 4096 < first + count then fail .invalid
      else if notMine c.src n d then fail .notPermitted
      else ok ((List.range count).map fun i => ((d.tile n).op (first + i)).toNat)) s

/-- The same; it waits while the core that serves it restarts (R353). -/
def execCmdTileReadOps (c : Cmd) (logical first count : Nat) (s : State) : Host.Outcome State Fault Refusal :=
  whileUp (3 + (s.dev.leaderOf logical).getD 0 / 33) (.cmdTileReadOps c logical first count) (nowCmdTileReadOps c logical first count) s

/-- CMD_REDUCE_STATUS (R171). -/
def execCmdReduceStatus (c : Cmd) (s : State) : Host.Outcome State Fault Refusal :=
  onDev (query c { i3c := true } fun d =>
    { status := .ok, result := words [d.reduce.digest, d.reduce.sumCheck, d.reduce.laneRange] ++
        (match d.reduce.last with | some r => r.bytes | none => List.replicate 64 0) }) s

/-- CMD_REDUCE_CLEAR (R171). -/
def execCmdReduceClear (c : Cmd) (s : State) : Host.Outcome State Fault Refusal :=
  onDev (mailbox c {} fun d =>
    (ok [], d.modReduce fun r => { r with digest := 0, sumCheck := 0, laneRange := 0 })) s

end Sys2Proof.Machine
end

