-- ==== Sys2Proof/Machine/Rel.lean ====
section
/-! DEFINITION. Reliability and checkpoint (chapter 18): step words, fills, buddy copies, checkpoints and their restoration. What
happens at a lockage boundary stands in Machine/Boundary.lean. -/

namespace Sys2Proof.Machine

/-! ### Sending on a route of THRESHOLDS -/

/-- Where and when the running program next takes a route's barges in this lockage: router, port, slot. In a dwell lockage no source
injects (R74). -/
def routeSlot (d : Dev) (route : Nat) : Option (Nat × Nat × Nat) :=
  if d.canal.dwell then none
  else
  let fit (x : RouteRec) : Bool := x.route == route && decide (x.source < 64 ∧ d.canal.slot ≤ x.slot) && decide (attach x.router x.source = .unit)
  ((programRecords d d.program).filter fit).foldl (fun best x =>
    match best with
    | none => some (x.router, x.source, x.slot)
    | some y => if x.slot < y.2.2 then some (x.router, x.source, x.slot) else best) none

/-- Inject a barge at a port in a slot of this lockage. -/
def injectAt (router port slot : Nat) (half : Bool) (b : Barge) (d : Dev) : Dev :=
  let now := d.canal.slot
  (inject router port half b (d.modCanal fun c => { c with slot := slot })).modCanal fun c => { c with slot := now }

/-- Send a barge on a route in its next slot, if this lockage has one left. -/
def sendOn (route : Nat) (b : Barge) (d : Dev) : Dev :=
  match routeSlot d route with
  | some (r, p, s) => injectAt r p s false b d
  | none => d

/-! ### The step word (R390, R391) -/

/-- Own word's byte 8. -/
def Rel.own (r : Rel) : Nat := b2n r.suspect + 2 * b2n r.ready + 4 * b2n r.deltaDone + 8 * b2n r.replay

/-- The number of the step that runs (R389). -/
def Rel.current (r : Rel) : Nat := r.step + 1

/-- The 16 bytes of the own word. -/
def wordBytes (d : Dev) : Bytes := leBytes 8 d.rel.current ++ leBytes 1 d.rel.own ++ List.replicate 3 0 ++ leBytes 4 1

/-- A word counts: it came whole and is of the step that runs. -/
def StepWord.counts (w : StepWord) (step : Nat) : Bool := w.good && w.step.toNat == step

/-- Byte 8 of the group word: OR of suspect and replay, AND of ready and delta_done; what does not count is suspect. -/
def combineBits (step own : Nat) (ws : List StepWord) : Nat :=
  let any (i : Nat) : Bool := bit own i || ws.any fun w => w.good && bit w.bits.toNat i
  let all (i : Nat) : Bool := bit own i && ws.all fun w => StepWord.counts w step && bit w.bits.toNat i
  b2n (any 0 || ws.any fun w => !StepWord.counts w step) + 2 * b2n (all 1) + 4 * b2n (all 2) + 8 * b2n (any 3)

/-- Delta holds end once the group word shows delta_done (R395). -/
def deltaShown (d : Dev) : Dev :=
  if d.rel.deltaSeen then d
  else endHolds (fun h => h.kind == .delta) (d.modRel fun r => { r with deltaSeen := true })

/-- Words are exchanged: the own word goes out, the words that have come give the group word, and an incomplete or suspect one
makes this member suspect. During a replay a group word of the first run, which shows no replay, says nothing (log entry 84). -/
def stepWord (arrived : List StepWord) (d : Dev) : Dev :=
  if d.rel.phase = 0 then d
  else
    let n := d.groupSize
    let ws := if n ≤ 1 then [] else arrived
    let d := if n ≤ 1 then d else sendOn d.thr.wordOut (mkBarge 1 d.thr.wordOut 0 (wordBytes d) true) d
    let bits := combineBits d.rel.current d.rel.own ws
    let members := 1 + ((ws.filter fun w => StepWord.counts w d.rel.current).map (·.members)).sum
    let complete := decide (members = max n 1)
    let d := d.modRel fun r => { r with groupStep := r.current, groupBits := bits, groupMembers := members, groupComplete := complete }
    let d := if complete && bit bits 2 then deltaShown d else d
    let late := d.rel.replay && !bit bits 3
    if (!complete || bit bits 0) && !late && !d.manifest.workHeld && decide (d.rel.phase ≠ 5) then suspect 5 0xFFFF d else d

/-- A fill ends: the held first write of the chunk may proceed (R388). -/
def fillEnds (c : Nat) (d : Dev) : Dev :=
  if d.rel.filling.contains c then endHolds (fun h => h.kind == .fill && h.chunk == c) (fillChunk c d) else d

/-! ### Buddy copies (R393–R395, R405) -/

/-- Address of a buddy chunk's copy 0 or 1: two copies of as much as the own master space (log entry 85). -/
def buddyCopy (d : Dev) (c copy : Nat) : Nat := ((d.region 1).getD {}).base + copy * (65536 * d.chunks) + 65536 * c

/-- The committed copy of a buddy chunk. -/
def buddyBit (d : Dev) (c : Nat) : Nat := tget 0 d.rel.buddyCommitted c

/-- Begin to send a delta: the chunks, from the own committed copies or from the buddy copy. -/
def startDelta (cs : List Nat) (buddy : Bool) (d : Dev) : Dev :=
  if d.thr.buddyOut = 0 then d
  else d.modRel fun r => { r with deltaOut := cs, deltaSent := 0, deltaActive := true, deltaCount := cs.length, deltaBuddy := buddy }

/-- The address from which a chunk of the delta is sent. -/
def deltaSource (d : Dev) (c : Nat) : Nat := if d.rel.deltaBuddy then buddyCopy d c (buddyBit d c) else chunkCopy d c (committed d c)

/-- The header barge of a chunk, or the end barge of a delta (R394). -/
def deltaHead (d : Dev) (first : Nat) (crc : Nat) (ends : Bool) : Barge :=
  mkBarge 1 d.thr.buddyOut 0 (fit 256 (leBytes 8 first ++ leBytes 8 d.rel.step ++ leBytes 4 crc ++ leBytes 1 (b2n ends))) ends

/-- The delta's next barge, and the device after it. -/
def nextDelta (d : Dev) : Option (Barge × Dev) :=
  if d.rel.deltaActive = false then none
  else match d.rel.deltaOut with
    | [] =>
      let done (r : Rel) : Rel := { r with deltaActive := false, deltaDone := r.deltaDone || decide (d.manifest.stage = 6) }
      some (deltaHead d d.rel.deltaCount 0 true, d.modRel done)
    | c :: rest =>
      let a := deltaSource d c
      if d.rel.deltaSent = 0 then
        let x := rawRead a 65536 d
        some (deltaHead x.2 c (crc32c 0xFFFFFFFF#32 x.1.1).toNat false, x.2.modRel fun r => { r with deltaSent := 1 })
      else
        let x := rawRead (a + 256 * (d.rel.deltaSent - 1)) 256 d
        let on (r : Rel) : Rel := if r.deltaSent = 256 then { r with deltaOut := rest, deltaSent := 0 } else { r with deltaSent := r.deltaSent + 1 }
        some (mkBarge (if x.1.2 then 2 else 1) d.thr.buddyOut 0 x.1.1 false, x.2.modRel on)

/-- In a slot that the program gives buddy_out, the next two barges of the delta leave. -/
def deltaSend (d : Dev) : Dev :=
  match routeSlot d d.thr.buddyOut with
  | none => d
  | some (r, p, s) =>
    if s ≠ d.canal.slot then d
    else match nextDelta d with
      | none => d
      | some (a, d) =>
        let d := inject r p false a d
        match nextDelta d with
        | none => d
        | some (b, d) => inject r p true b d

/-- A chunk of the sender's delta has arrived whole. A delta that has been applied already changes nothing when it comes again.
The taker of stage 6 writes into its own committed copies (R405). -/
def buddyChunk (c step : Nat) (crc : W32) (data : Bytes) (poison : Bool) (d : Dev) : Dev :=
  let taker := decide (d.manifest.stage = 6 ∧ d.thr.role = 2)
  if (d.region 1).isNone && !taker then d
  else if d.rel.buddyApplied = some step ∧ taker = false then d
  else
    let begins := !d.rel.buddyOpen || decide (d.rel.buddyStep ≠ step)
    let good := !poison && crc32c 0xFFFFFFFF#32 (fit 65536 data) == crc && decide (c < d.chunks)
    let d := if begins then d.modRel fun r => { r with buddyOpen := true, buddyStep := step, buddyPending := [], buddyGood := true, deltaDone := false } else d
    if good then
      (rawWrite (if taker then chunkCopy d c (committed d c) else buddyCopy d c (1 - buddyBit d c)) (fit 65536 data) false d).modRel
        fun r => { r with buddyPending := addSet c r.buddyPending }
    else d.modRel fun r => { r with buddyGood := false }

/-- The end barge of a delta: with every chunk present and good its chunks flip and delta_done is set. -/
def buddyEnd (sent step : Nat) (poison : Bool) (d : Dev) : Dev :=
  if d.rel.buddyApplied = some step ∧ ¬(d.manifest.stage = 6 ∧ d.thr.role = 2) then d
  else
    let fresh := !d.rel.buddyOpen || decide (d.rel.buddyStep ≠ step)
    let got := if fresh then [] else d.rel.buddyPending
    let good := !poison && (fresh || d.rel.buddyGood) && decide (got.length = sent)
    let taker := decide (d.manifest.stage = 6 ∧ d.thr.role = 2)
    let flip (t : Tab Nat) : Tab Nat := if taker then t else got.foldl (fun t c => tset 0 t c (1 - tget 0 t c)) t
    if good then
      d.modRel fun r => { r with buddyCommitted := flip r.buddyCommitted, buddyOpen := false, buddyPending := [], buddyLast := got,
                                 buddyApplied := some step, buddySeeded := true, deltaDone := true }
    else d.modRel fun r => { r with buddyOpen := false, buddyPending := [], deltaDone := false }

/-! ### Checkpoints (R396–R399) -/

/-- Blocks of a slot with N stripes. -/
def slotBlocks (stripes : Nat) : Nat := 1 + 17 * stripes

/-- The volume of shard j. -/
def shardVolume (d : Dev) (j : Nat) : Volume := tget {} d.storage.volumes (d.thr.ckptVolume + j)

/-- Shards of a stripe: k of data and m of parity. -/
def Dev.shards (d : Dev) : Nat := d.thr.ckptK + d.thr.ckptM

/-- The committed state of step S becomes the snapshot, or the snapshot is skipped (R396). -/
def takeSnapshot (d : Dev) : Dev :=
  let k := d.thr.ckptK
  let due := decide (0 < d.thr.ckptInterval) && decide (d.rel.step % d.thr.ckptInterval = 0)
  if k = 0 ∨ (due || d.rel.ckptNow) = false then d
  else
    let skipped (cause : Nat) (d : Dev) : Dev := post 0x1103 (unitBlock 4 16 127) 0 (syn [(32, 1, cause), (40, 8, d.rel.step)]) d
    let stripes := (d.chunks + k - 1) / k
    let slot := d.rel.ckptCount % 2
    let d := d.modRel fun r => { r with ckptNow := false }
    if d.rel.ckptState ≠ 0 then skipped 0 d
    else if (List.range d.shards).any fun j => decide ((shardVolume d j).count < (slot + 1) * slotBlocks stripes) then skipped 1 d
    else d.modRel fun r => { r with ckptState := 1, ckptSlot := slot, ckptStep := r.step, ckptCount := r.ckptCount + 1, ckptStripes := stripes,
                                    stripe := 0, snapshot := List.range d.chunks, snapBits := r.committed, staged := [] }

/-- The coefficient c(j, i) of the Cauchy matrix. -/
def coefficient (m j i : Nat) : Byte := gfInv (BitVec.ofNat 8 (Nat.xor j (m + i)))

/-- Parity shard j of data shards (R398). -/
def parityShard (m j : Nat) (data : List Bytes) : Bytes :=
  (numbered data).foldl (fun p e => List.zipWith (fun a b => a ^^^ gfMul (coefficient m j e.1) b) p e.2) (List.replicate 65536 0)

/-- Bits of one element of a format. -/
def elementBits (fmt : Nat) : Nat := blockBytes fmt / 32

/-- The extent that a coordinate entry gives in chunk c, if its run touches it (R399). -/
def extentIn (c : Nat) (entry : Bytes) : Option Bytes :=
  let e := elementBits (fieldLe entry 32 1)
  let start := 8 * fieldLe entry 40 8
  let n := fieldLe entry 24 8
  let up (x : Nat) : Nat := if x ≤ start then 0 else min n ((x - start + e - 1) / e)
  let i0 := up (c * 524288)
  let i1 := up ((c + 1) * 524288)
  if i1 ≤ i0 then none
  else some (slice entry 0 16 ++ leBytes 8 (fieldLe entry 16 8 + i0) ++ leBytes 8 (i1 - i0) ++ slice entry 32 2 ++ [0, 0] ++
    leBytes 4 ((start + i0 * e) / 8 - c * 65536) ++ leBytes 8 0)

/-- The extents of a chunk. -/
def extentsOf (d : Dev) (c : Nat) : List Bytes := (d.thr.coords.filterMap (extentIn c)).take 80

/-- A block with its CRC-32 in bytes 4,092–4,095. -/
def sealBlock (bs : Bytes) : Bytes := let b := fit 4092 bs; b ++ leBytes 4 (crc32 b).toNat

/-- The job, device and group that a checkpoint names. -/
def jobOf (d : Dev) : Manifest := d.manifest.active.getD {}

/-- The header of shard j of a stripe. -/
def shardHeader (d : Dev) (t j : Nat) (payload : Bytes) : Bytes :=
  let k := d.thr.ckptK
  let c := t * k + j
  let data := decide (j < k)
  let ext := if data && decide (c < d.chunks) then extentsOf d c else []
  sealBlock (leBytes 4 0x4B435154 ++ leBytes 2 1 ++ leBytes 1 k ++ leBytes 1 d.thr.ckptM ++ leBytes 1 j ++
    leBytes 1 (b2n (data && decide (d.chunks ≤ c))) ++ leBytes 2 ext.length ++ leBytes 4 (crc32c 0xFFFFFFFF#32 payload).toNat ++
    leBytes 8 d.rel.ckptStep ++ leBytes 8 (jobOf d).jobId.toNat ++ leBytes 8 t ++ leBytes 8 (if data then c else t * k) ++
    leBytes 4 d.deviceId ++ leBytes 4 (jobOf d).groupId ++ leBytes 8 0 ++ ext.flatten)

/-- The seal block of shard j. -/
def sealOf (d : Dev) (j : Nat) : Bytes :=
  sealBlock (leBytes 4 0x4C535154 ++ leBytes 2 1 ++ leBytes 1 d.thr.ckptK ++ leBytes 1 d.thr.ckptM ++ leBytes 1 j ++ List.replicate 3 0 ++
    leBytes 4 d.rel.ckptStripes ++ leBytes 8 d.rel.ckptStep ++ leBytes 8 (jobOf d).jobId.toNat ++ leBytes 8 d.chunks ++
    leBytes 4 d.deviceId ++ leBytes 4 (jobOf d).groupId)

/-- The checkpoint's own command to a volume's back-end (log entry 86). -/
def ckptSend (j op lba blocks : Nat) (bytes : Bytes) (d : Dev) : Dev :=
  sendBack { op := op, first := lba, blocks := blocks } (shardVolume d j) lba bytes d

/-- The data of a snapshot chunk: from its staging chunk if it was copied early, else from the snapshot copy; zeros past the
last. -/
def snapshotData (c : Nat) (d : Dev) : Bytes × Dev :=
  if d.chunks ≤ c then (List.replicate 65536 0, d)
  else
    let a := match d.rel.staged.find? fun s => s.1 == c with
      | some s => ((d.region 7).getD {}).base + 65536 * s.2
      | none => chunkCopy d c (decide (tget 0 d.rel.snapBits c = 1))
    let x := rawRead a 65536 d
    (x.1.1, x.2)

/-- The next stripe is coded and its shards go to their volumes; the snapshot bits of its chunks clear. -/
def ckptStripe (d : Dev) : Dev :=
  let k := d.thr.ckptK
  let t := d.rel.stripe
  if d.rel.ckptState ≠ 1 ∨ d.rel.ckptStripes ≤ t then d
  else
    let cs := (List.range k).map (t * k + ·)
    let x := cs.foldl (fun (acc : List Bytes × Dev) c => let r := snapshotData c acc.2; (acc.1 ++ [r.1], r.2)) ([], d)
    let shards := x.1 ++ (List.range d.thr.ckptM).map fun j => parityShard d.thr.ckptM j x.1
    let lba := d.rel.ckptSlot * slotBlocks d.rel.ckptStripes + 1 + 17 * t
    let d := (numbered shards).foldl (fun d e => ckptSend e.1 1 lba 17 (shardHeader d t e.1 e.2 ++ e.2) d) x.2
    d.modRel fun r => { r with stripe := t + 1, snapshot := r.snapshot.filter fun c => !cs.contains c,
                               staged := r.staged.filter fun s => !cs.contains s.1 }

/-- No command of the checkpoint is at a back-end. -/
def ckptQuiet (d : Dev) : Bool :=
  d.storage.back.all fun b => b.cmd.isSome || b.buffered.isSome || (List.range d.shards).all fun j => decide ((shardVolume d j).backend ≠ b.target)

/-- FLUSH on every volume. -/
def ckptFlush (d : Dev) : Dev := (List.range d.shards).foldl (fun d j => ckptSend j 2 0 0 [] d) d

/-- The next part of the end of a checkpoint, each once the one before it has completed: FLUSH, the seal blocks, FLUSH, then
REL_CKPT_DONE. -/
def ckptSeal (d : Dev) : Dev :=
  if ckptQuiet d = false then d
  else match d.rel.ckptState with
    | 1 => if d.rel.stripe < d.rel.ckptStripes then d else ckptFlush (d.modRel fun r => { r with ckptState := 2 })
    | 2 => (List.range d.shards).foldl (fun d j => ckptSend j 1 (d.rel.ckptSlot * slotBlocks d.rel.ckptStripes) 1 (sealOf d j) d)
        (ckptFlush (d.modRel fun r => { r with ckptState := 3 }))
    | 3 => post 0x1102 (unitBlock 4 16 127) 0 (syn [(32, 4, d.rel.ckptStripes), (36, 1, d.rel.ckptSlot), (40, 8, d.rel.ckptStep)])
        (d.modRel fun r => { r with ckptState := 0 })
    | _ => d

/-! ### Restoring from checkpoints (R400) -/

/-- The block of a volume, as its back-end returned it. -/
def blockOf (bs : List VolumeBlock) (volume lba : Nat) : Option Bytes :=
  (bs.find? fun b => b.volume == volume && b.lba == lba).map fun b => fit 4096 b.bytes

/-- The block carries a magic number and its CRC is good. -/
def blockGood (magic : Nat) (b : Bytes) : Bool := fieldLe b 0 4 == magic && (crc32 (b.take 4092)).toNat == fieldLe b 4092 4

/-- A good seal block at an lba of a volume. -/
def sealAt (bs : List VolumeBlock) (volume lba : Nat) : Option Bytes :=
  match blockOf bs volume lba with | some b => if blockGood 0x4C535154 b then some b else none | none => none

/-- The checkpoints sealed on a set: slot base and seal. The second slot begins after the first one's N stripes. -/
def seals (d : Dev) (bs : List VolumeBlock) (set : Nat) : List (Nat × Bytes) :=
  let first (lba : Nat) : Option Bytes := (List.range 40).findSome? fun j => sealAt bs (set + j) lba
  let n := match first 0 with
    | some s => fieldLe s 12 4
    | none => (d.chunks + d.thr.ckptK - 1) / max d.thr.ckptK 1
  [0, slotBlocks n].filterMap fun lba => (first lba).map fun s => (lba, s)

/-- The seal of a step on a set. -/
def sealFor (d : Dev) (bs : List VolumeBlock) (set step : Nat) : Option (Nat × Bytes) := (seals d bs set).find? fun s => fieldLe s.2 16 8 == step

/-- The step to restore: the one named, or the latest that is sealed on every set. -/
def restoreStep (d : Dev) (bs : List VolumeBlock) (sets : List Nat) (step : Nat) : Option Nat :=
  let onAll (s : Nat) : Bool := sets.all fun v => (sealFor d bs v s).isSome
  let known := sets.flatMap fun v => (seals d bs v).map fun s => fieldLe s.2 16 8
  if step ≠ 0 then (if onAll step then some step else none)
  else (known.filter onAll).foldl (fun best s => match best with | some b => some (max b s) | none => some s) none

/-- A shard of a stripe with good header and payload: header, payload. -/
def shardAt (bs : List VolumeBlock) (base volume t step : Nat) : Option (Bytes × Bytes) :=
  match blockOf bs volume (base + 1 + 17 * t) with
  | none => none
  | some h =>
    let parts := (List.range 16).map fun i => blockOf bs volume (base + 2 + 17 * t + i)
    let payload := parts.flatMap fun p => p.getD []
    if parts.all (·.isSome) && blockGood 0x4B435154 h && fieldLe h 16 8 == step && (crc32c 0xFFFFFFFF#32 payload).toNat == fieldLe h 12 4
    then some (h, payload) else none

/-- Subtract a multiple of one row from another. -/
def rowSub (f : Byte) (a b : Bytes) : Bytes := List.zipWith (fun x y => x ^^^ gfMul f y) a b

/-- Gauss–Jordan elimination over GF(2^8): rows of k coefficients with what they stand for. -/
def solveRows : Nat → Nat → List (Bytes × Bytes) → List (Bytes × Bytes)
  | 0, _, rows => rows
  | fuel + 1, i, rows =>
    match (rows.drop i).find? fun r => r.1.getD i 0 != 0 with
    | none => rows
    | some pivot =>
      let inv := gfInv (pivot.1.getD i 0)
      let p : Bytes × Bytes := (pivot.1.map (gfMul inv), pivot.2.map (gfMul inv))
      let others := (rows.take i) ++ (rows.drop i).erase pivot
      let clear (r : Bytes × Bytes) : Bytes × Bytes := (rowSub (r.1.getD i 0) r.1 p.1, rowSub (r.1.getD i 0) r.2 p.2)
      let rest := others.map clear
      solveRows fuel (i + 1) (rest.take i ++ p :: rest.drop i)

/-- The row of shard j in terms of the k data shards. -/
def shardRow (k m j : Nat) : Bytes :=
  if j < k then (List.range k).map fun i => if i = j then 1 else 0 else (List.range k).map fun i => coefficient m (j - k) i

/-- The data shards of a stripe, rebuilt from any k good shards; none when fewer are good. -/
def stripeData (k m : Nat) (shards : List (Option (Bytes × Bytes))) : Option (List Bytes) :=
  let good := ((numbered shards).filterMap fun e => e.2.map fun s => (shardRow k m e.1, s.2)).take k
  if good.length < k then none else some ((solveRows k 0 good).map (·.2))

/-- An extent of a stripe: set, stripe, shard, the extent's bytes. -/
structure Found where
  set : Nat
  stripe : Nat
  shard : Nat
  extent : Bytes
  deriving DecidableEq, Repr

/-- The extents of every data shard of a set's checkpoint: its header's, or where the header is lost those that this device's
own coordinate entries give the chunk (log entry 87). -/
def foundIn (d : Dev) (bs : List VolumeBlock) (set base step : Nat) (s : Bytes) : List Found :=
  let k := fieldLe s 6 1
  (List.range (fieldLe s 12 4)).flatMap fun t => (List.range k).flatMap fun i =>
    let exts := match blockOf bs (set + i) (base + 1 + 17 * t) with
      | some h => if blockGood 0x4B435154 h && fieldLe h 16 8 == step then (List.range (fieldLe h 10 2)).map fun x => slice h (64 + 48 * x) 48
          else extentsOf d (t * k + i)
      | none => extentsOf d (t * k + i)
    exts.map fun e => { set, stripe := t, shard := i, extent := e }

/-- The runs that cover elements first to last of a tensor, in order: where each lies, its first element there and its count;
none when some element is not covered. -/
def coverRuns (fs : List Found) : Nat → Nat → Nat → Option (List (Found × Nat × Nat))
  | 0, a, z => if z ≤ a then some [] else none
  | fuel + 1, a, z =>
    if z ≤ a then some []
    else match fs.find? fun f => decide (fieldLe f.extent 16 8 ≤ a ∧ a < fieldLe f.extent 16 8 + fieldLe f.extent 24 8) with
      | none => none
      | some f =>
        let stop := min z (fieldLe f.extent 16 8 + fieldLe f.extent 24 8)
        (coverRuns fs fuel stop z).map fun rest => (f, a, stop - a) :: rest

/-- The bytes of one run, or the set and stripe whose shards are lost. -/
def runBytes (d : Dev) (bs : List VolumeBlock) (step fmt : Nat) (r : Found × Nat × Nat) : Except (Nat × Nat) Bytes :=
  match sealFor d bs r.1.set step with
  | none => .error (r.1.set, r.1.stripe)
  | some (base, s) =>
    let k := fieldLe s 6 1
    let m := fieldLe s 7 1
    let off := fieldLe r.1.extent 36 4 + (r.2.1 - fieldLe r.1.extent 16 8) * elementBits fmt / 8
    let n := r.2.2 * elementBits fmt / 8
    match stripeData k m ((List.range (k + m)).map fun j => shardAt bs base (r.1.set + j) r.1.stripe step) with
    | none => .error (r.1.set, r.1.stripe)
    | some data => .ok (slice (data.getD r.1.shard []) off n)

/-- Post REL_RESTORE_FAIL. -/
def restoreFail (cause set stripe : Nat) (d : Dev) : Reply × Dev :=
  (fail .capacity, post 0x1104 (unitBlock 4 16 127) 0 (syn [(32, 1, cause), (36, 2, set), (40, 8, stripe)]) d)

/-- The entry's place in its tensor is allowed: blocks of 64 elements, or up to the tensor's end. -/
def entryAligned (fs : List Found) (e : RestoreEntry) : Bool :=
  decide (e.first % 64 = 0) && (decide (e.count % 64 = 0) ||
    fs.any fun f => fieldLe f.extent 0 8 == e.tensor.toNat && fieldLe f.extent 8 8 == e.first + e.count)

/-- One plan entry is restored into the committed copy at its master address. -/
def restoreEntry (bs : List VolumeBlock) (fs : List Found) (step set : Nat) (acc : Except (Reply × Dev) Dev) (e : RestoreEntry) :
    Except (Reply × Dev) Dev :=
  match acc with
  | .error x => .error x
  | .ok d =>
    let mine := fs.filter fun f => fieldLe f.extent 0 8 == e.tensor.toNat && fieldLe f.extent 32 1 == e.fmt
    match coverRuns mine (mine.length + 1) e.first (e.first + e.count) with
    | none => .error (restoreFail 2 set 0 d)
    | some runs =>
      let put (acc : Except (Nat × Nat) Bytes) (r : Found × Nat × Nat) : Except (Nat × Nat) Bytes :=
        match acc, runBytes d bs step e.fmt r with
        | .ok x, .ok y => .ok (x ++ y)
        | .error x, _ => .error x
        | _, .error y => .error y
      match runs.foldl put (.ok []) with
      | .error (v, t) => .error (restoreFail 0 v t d)
      | .ok bytes =>
        let spans := (linePieces bytes.length e.addr bytes.length)
        .ok ((spans.foldl (fun (acc : Bytes × Dev) p => (acc.1.drop p.2, writePiece (readAt acc.2 p.1) (acc.1.take p.2) false none 0 acc.2)) (bytes, d)).2)

/-- The entry's master addresses all lie in master space. -/
def entryInMaster (d : Dev) (e : RestoreEntry) : Bool :=
  let n := e.count * elementBits e.fmt / 8
  (linePieces n e.addr n).all fun p => (chunkOf d p.1).isSome

/-- Restore by a plan (R400). -/
def restore (sets : List Nat) (step : Nat) (plan : List RestoreEntry) (bs : List VolumeBlock) (d : Dev) : Reply × Dev :=
  if d.manifest.stage ≠ 6 ∨ d.manifest.workHeld = false then (fail .busy, d)
  else if sets = [] ∨ 64 < sets.length ∨ (sets.any fun v => decide (4095 < v)) = true then (fail .invalid, d)
  else match restoreStep d bs sets step with
    | none => restoreFail 1 (sets.headD 0) 0 d
    | some s =>
      let fs := sets.flatMap fun v => match sealFor d bs v s with | some x => foundIn d bs v x.1 s x.2 | none => []
      if plan.all (fun e => entryAligned fs e && entryInMaster d e) = false then (fail .invalid, d)
      else match plan.foldl (restoreEntry bs fs s (sets.headD 0)) (.ok d) with
        | .error x => x
        | .ok d => (ok [], d.modRel fun r => { r with step := s, attempt := 0, deltaDone := true })

/-! ### Commands -/

def execStepWord (words : List StepWord) (s : State) : Host.Outcome State Fault Refusal := onDev (stepWord words) s

def execFillComplete (chunk : Nat) (s : State) : Host.Outcome State Fault Refusal := onDev (fillEnds chunk) s

def execBuddyDeltaSend (s : State) : Host.Outcome State Fault Refusal := onDev deltaSend s

def execBuddyHeaderBarge (chunk : Nat) (step : Word) (crc : W32) (data : Bytes) (poison : Bool) (s : State) : Host.Outcome State Fault Refusal :=
  onDev (buddyChunk chunk step.toNat crc data poison) s

def execBuddyEndBarge (sent : Nat) (step : Word) (poison : Bool) (s : State) : Host.Outcome State Fault Refusal :=
  onDev (buddyEnd sent step.toNat poison) s

def execCkptStripe (s : State) : Host.Outcome State Fault Refusal := onDev ckptStripe s

def execCkptSeal (s : State) : Host.Outcome State Fault Refusal := onDev ckptSeal s

/-- CMD_REL_STATUS: step, phase and attempt, own and group word, members, checkpoint state, slot, remaining, step, the holds. -/
def execCmdRelStatus (c : Cmd) (s : State) : Host.Outcome State Fault Refusal :=
  onDev (query c { i3c := true } fun d =>
    let r := d.rel
    ok [r.step, r.phase, r.attempt, r.own, r.groupBits, r.groupMembers, r.ckptState, r.ckptSlot, r.snapshot.length, r.ckptStep,
      r.cbwHolds, r.cbwOverruns, r.deltaHolds, r.fills]) s

/-- CMD_REL_FAULT_STATUS: overflows, then each held identity with its count. -/
def execCmdRelFaultStatus (c : Cmd) (s : State) : Host.Outcome State Fault Refusal :=
  onDev (query c { i3c := true } fun d => ok (d.rel.overflows :: d.rel.coal.flatMap fun e => [e.identity.toNat, e.count])) s

def execCmdCkptNow (c : Cmd) (s : State) : Host.Outcome State Fault Refusal :=
  onDev (mailbox c { block := some 16 } fun d =>
    if d.thr.ckptK = 0 then (fail .invalid, d) else (ok [], d.modRel fun r => { r with ckptNow := true })) s

def execCmdRelRestore (c : Cmd) (sets : List Nat) (step : Word) (plan : List RestoreEntry) (blocks : List VolumeBlock) (s : State) :
    Host.Outcome State Fault Refusal := onDev (mailbox c { block := some 16 } (restore sets step.toNat plan blocks)) s

/-- CMD_REL_FORCE (R391, cause 6). -/
def execCmdRelForce (c : Cmd) (s : State) : Host.Outcome State Fault Refusal :=
  onDev (mailbox c { block := some 16 } fun d => (ok [], suspect 6 0xFFFF d)) s

end Sys2Proof.Machine
end

