-- ==== Sys2Proof/Machine/Manifest.lean ====
section
/-! DEFINITION. Loading a manifest (chapter 2): the commands, stages 1 to 4, the ready reports of a group, alternates on command.
The flip stands in Machine/Boundary.lean. -/

namespace Sys2Proof.Machine

/-! ### What a rollback gives up (R48, R392, R404) -/

/-- A held write is dropped: at a lock it is sluiced and answered, in a send engine its op goes. -/
def dropHeldWrite (d : Dev) (h : Hold) : Dev :=
  match h.lock with
  | some l =>
    let gone := (d.lock l).queue.filter fun w => w.id == h.id
    gone.foldl (fun d w => answerDiscarded w d) (d.modLock l fun k => { k with queue := k.queue.filter fun w => w.id != h.id })
  | none => match h.tile with
    | some n => d.modTile n fun t => { t with sends := t.sends.filter fun x => !(x.pc == h.id && x.route == h.route) }
    | none => d

/-- The pending copies are given up: fills end, dirty bits clear, the writes held for them are dropped. -/
def discardPending (d : Dev) : Dev :=
  let held := d.locks.holds
  let d := held.foldl dropHeldWrite d
  let d := endHolds (fun _ => true) d
  d.modRel fun r => { r with dirty := [], filled := [], filling := [] }

/-! ### Starting a load (R36, R50) -/

/-- The stack map that follows a stack failure: the healthy controllers take the logical stacks from 0 on, the region is 448 GiB,
and every chamber is sluiced (R172, R21, R48). -/
def takeStackMap (d : Dev) : Dev :=
  let healthy := (List.range 8).filter fun k => !(d.ctl k).failed
  let d := (List.range 8).foldl (fun d k => d.modCtl k fun c => { c with logical := if c.failed then none else some (healthy.idxOf k) }) d
  let d := d.modHbm fun h => { h with awaitingMap := false, reducedMap := true }
  startSluice none none false (d.modManifest fun m => { m with mapReload := true })

/-- A rollback stops the commanded scrubs (R187), as it begins (log entry 140). -/
def stopScrubs (d : Dev) : Dev := (List.range 8).foldl (fun d k => endScrub k 2 d) d

/-- Stage 1 begins. With rollback, scheduled work is held and the uncommitted step given up (R48). -/
def startLoad (sender : Option (Nat × W32)) (reload rollback : Bool) (source address length : Nat) (d : Dev) : Dev :=
  let d := if d.hbm.awaitingMap then takeStackMap d else d
  let d := if rollback then startSluice none none false ((discardPending (stopScrubs d)).modManifest fun m => { m with workHeld := true }) else d
  d.modManifest fun m => { m with
                           stage := 1, source := source, address := address, length := length, reload := reload,
                           rollback := rollback, sender := sender, staging := [], parsed := none, shadow := none, flipLockage := none }

/-- A load command's checks and start. -/
def loadCommand (c : Cmd) (reload rollback : Bool) (source address length : Nat) (d : Dev) : Reply × Dev :=
  if 1 ≤ d.manifest.stage ∧ d.manifest.stage ≤ 5 then (fail .busy, d)
  else if reload ∧ rollback = false ∧ d.manifest.active.isSome ∧ d.stepLockages = 0 then
    ({ status := .invalid, detail := VCode.badLength.code }, d)
  else if 3 < source then (fail .invalid, d)
  else if source = 3 ∧ spanMapped d address length = false then (fail .addressUnmapped, d)
  else (fail .accepted, startLoad (some (c.src.val, c.seq)) reload rollback source address length d)

/-- Stage 1 ends: the image is in the staging copy, at most 32 MiB of it; `data` is what the endpoint read of host memory. -/
def fetch (data : Bytes) (d : Dev) : Dev :=
  if d.manifest.stage ≠ 1 then d
  else
    let m := d.manifest
    let n := min m.length 0x2000000
    let x : Bytes × Dev :=
      if m.source = 0 then (data.take n, d)
      else if m.source = 3 then let r := memRead 0 m.address n d; (r.1.1, r.2)
      else (norRead d (m.source - 1) m.address n, d)
    x.2.modManifest fun m => { m with staging := x.1, stage := 2 }

/-- End a load with what a check found. -/
def failWith (e : Bad) (d : Dev) : Dev := failLoad e.1.code e.2.1 e.2.2 d

/-- Stage 2 ends. -/
def authenticateStage (v : Vault) (d : Dev) : Dev :=
  if d.manifest.stage ≠ 2 then d
  else match authenticate v d d.manifest.staging with
    | .error e => failWith e d
    | .ok () => d.modManifest fun m => { m with stage := 3 }

/-- Stage 3 ends. -/
def validateStage (v : Vault) (d : Dev) : Dev :=
  if d.manifest.stage ≠ 3 then d
  else match validate v d d.manifest.staging with
    | .error e => failWith e d
    | .ok x => d.modManifest fun m => { m with stage := 4, parsed := some x }

/-! ### Stage 4 (R36, R66) -/

/-- Put a source or the mark into an entry. -/
def setField (e : BitVec 512) (lo width v : Nat) : BitVec 512 :=
  (e &&& ~~~(BitVec.ofNat 512 ((2 ^ width - 1) * 2 ^ lo))) ||| BitVec.ofNat 512 (v * 2 ^ lo)

/-- One route record enters a bank. -/
def putRecord (q : Nat) (t : Tab (BitVec 512)) (x : RouteRec) : Tab (BitVec 512) :=
  tmod idleEntry t (bankIndex x.router q x.slot) fun e => setField (setField e (7 * x.output) 7 x.source) 448 2 x.mark

/-- The banks that a manifest's programs fill. -/
def bankOf (m : Manifest) : Tab (BitVec 512) := (numbered m.programs).foldl (fun t e => e.2.foldl (putRecord e.1) t) []

/-- The gate tables of a manifest's locks. -/
def gatesOf (m : Manifest) : Tab W32 :=
  m.locks.foldl (fun t l => l.gates.foldl (fun t e => tput t (l.lock * 8192 + e.1) e.2) t) []

/-- Every shadow table is written and every unlocked block relocks; then the load waits for its flip, and a group's members report
ready (R46). A device on its own is its group's root and starts its timebase (R308). The device counts as having passed local boot with the first load that comes so far (R426). -/
def shadowWrite (d : Dev) : Dev :=
  if d.manifest.stage ≠ 4 then d
  else match d.manifest.parsed with
    | none => d
    | some m =>
      let d := relockAll d
      let d := d.modCanal fun c => { c with shadow := bankOf m }
      let d := d.modLocks fun k => { k with gatesShadow := gatesOf m }
      let d := d.modManifest fun x => { x with shadow := some m, stage := 5 }
      let d := if d.boot.passed then d else openPairs (d.modBoot fun b => { b with passed := true })
      if m.groupSize ≤ 1 then startRootTime (d.modRing fun r => { r with root := true })
      else if d.ring.ready then
        if d.ring.root then countReady d else reportRoot .ready d
      else checkRoster (announceZero d)

/-- The root gives up a group reload 2 s after the first ready report (R46). -/
def readyTimeout (d : Dev) : Dev :=
  match d.manifest.firstReady with
  | none => d
  | some t =>
    if d.ring.root ∧ d.manifest.flipLockage = none ∧ d.manifest.membersReady < d.loadGroup ∧ t + 2000000000 ≤ d.uptime then abortGroup d
    else d

/-! ### Rollback restore (R48, R405) -/

/-- Write arriving chunks into the own committed copies. -/
def takeChunks (chunks : List (Nat × Bytes)) (d : Dev) : Dev :=
  chunks.foldl (fun d e => if e.1 < d.chunks then rawWrite (chunkCopy d e.1 (committed d e.1)) (fit 65536 e.2) false d else d) d

/-- Stage 6: the taker takes what the holder sends; the holder sends its buddy copy; a member that reseeds sends its whole
committed space; any other restores in place. -/
def rollbackRestore (chunks : List (Nat × Bytes)) (d : Dev) : Dev :=
  if d.manifest.stage ≠ 6 then d
  else
    let all := List.range d.chunks
    if d.thr.role = 2 then
      let d := takeChunks chunks d
      if all.all fun c => chunks.any fun e => e.1 == c then d.modRel fun r => { r with deltaDone := true } else d
    else if d.rel.deltaActive then d
    else if d.thr.role = 3 then startDelta all true d
    else if d.thr.reseed = 1 then startDelta all false d
    else d.modRel fun r => { r with deltaDone := true }

/-! ### Alternates on command (R45, R50) -/

/-- Apply an alternate as if its coverage had failed (R50): its units join the failed set, healthy as they are, and R44 covers the set: the
alternate named where it covers it alone, else what R44 chooses, else the device has failed (R28). A program alternate that detours a
ring link is agreed with the ring as a failed link's is (R301). One whose base is not the running program is refused (log entry 107). -/
def selectAlternate (i : Nat) (d : Dev) : Reply × Dev :=
  match d.alternates[i]? with
  | none => (fail .invalid, d)
  | some (_, a) =>
    if a.base ≠ d.program then (fail .invalid, d)
    else
      let add (old : List Nat) : List Nat := a.coverage.foldl (fun l u => addSet u l) old
      let d := d.modManifest fun m => { m with heldFailed := add m.heldFailed, failedSet := add m.failedSet }
      let d := a.coverage.foldl (fun d u => if u < 528 then d.modTile u fun t => { t with failed := true } else d) d
      let chosen := if within d.manifest.failedSet a.coverage then some [i] else chooseAlternates d.manifest.failedSet d
      let link := [0, 1, 2, 3].find? fun k => a.coverage.contains (0x400 + k)
      match chosen, link with
      | none, _ => (ok [], failDevice 6 d)
      | some [j], some k =>
        if (d.alternates[j]?.map fun x => x.2.kind) = some 1 ∧ d.ring.ready then (ok [], noticeDetour k j d)
        else (ok [], d.modManifest fun m => { m with altDue := some [j] })
      | some as, _ => (ok [], d.modManifest fun m => { m with altDue := some as })

/-- Ask for the primary again: something has been applied, and no failed unit is unhealthy. -/
def askRevert (d : Dev) : Reply × Dev :=
  let m := d.manifest
  if (m.altActive = [] ∧ d.program = 0) ∨ (m.failedSet.any m.unhealthy.contains) = true then (fail .invalid, d)
  else (ok [], d.modManifest fun m => { m with revertDue := true })

/-! ### Commands -/

def execCmdManifestLoad (c : Cmd) (source address length : Nat) (s : State) : Host.Outcome State Fault Refusal :=
  onDev (mailbox c {} (loadCommand c false false source address length)) s

def execCmdManifestReload (c : Cmd) (source address length mode : Nat) (s : State) : Host.Outcome State Fault Refusal :=
  onDev (mailbox c {} fun d => if 1 < mode then (fail .invalid, d) else loadCommand c true (decide (mode = 1)) source address length d) s

def execFetch (data : Bytes) (s : State) : Host.Outcome State Fault Refusal := onDev (fetch data) s

def execAuthenticate (s : State) : Host.Outcome State Fault Refusal := onDevV authenticateStage s

def execValidate (s : State) : Host.Outcome State Fault Refusal := onDevV validateStage s

def execShadowWrite (s : State) : Host.Outcome State Fault Refusal := onDev shadowWrite s

def execGroupReadyTimeout (s : State) : Host.Outcome State Fault Refusal := onDev readyTimeout s

def execRollbackRestore (chunks : List (Nat × Bytes)) (s : State) : Host.Outcome State Fault Refusal := onDev (rollbackRestore chunks) s

/-- CMD_MANIFEST_STATUS: serial, job, stage, code, program, the failed set and the held-failed units outside it, each with its
count. -/
def execCmdManifestStatus (c : Cmd) (s : State) : Host.Outcome State Fault Refusal :=
  onDev (query c { reduced := true, i3c := true } fun d =>
    let m := d.manifest
    let outside := m.heldFailed.filter fun u => !m.failedSet.contains u
    let id : Nat × Nat := match m.active with | some a => (a.serial.toNat, a.jobId.toNat) | none => (0, 0)
    ok ([id.1, id.2, m.stage, m.code, d.program, m.failedSet.length] ++ m.failedSet ++ outside.length :: outside)) s

/-- CMD_MANIFEST_CANCEL: BUSY after the flip of a group has been broadcast; INVALID with no load before its flip. -/
def execCmdManifestCancel (c : Cmd) (s : State) : Host.Outcome State Fault Refusal :=
  onDev (mailbox c {} fun d =>
    if d.manifest.stage = 0 ∨ 5 < d.manifest.stage then (fail .invalid, d)
    else if d.manifest.flipLockage.isSome ∨ (d.ring.zeroTime.isSome ∧ d.ring.ready = false) then (fail .busy, d)
    else (ok [], failLoad VCode.aborted.code 0xFF 0 d)) s

def execCmdAltSelect (c : Cmd) (index : Nat) (s : State) : Host.Outcome State Fault Refusal := onDev (mailbox c { also := switchBlocks } (selectAlternate index)) s

def execCmdAltRevert (c : Cmd) (s : State) : Host.Outcome State Fault Refusal := onDev (mailbox c { also := switchBlocks } askRevert) s

end Sys2Proof.Machine
end

