-- ==== Sys2Proof/Machine/Power.lean ====
section
/-! DEFINITION. Power, clocks and resets (chapters 20 and 21): readings, demands, trips, pins, the reset types. -/

namespace Sys2Proof.Machine

/-! ### Readings and demands (R424, R75–R77) -/

/-- The highest junction temperature and its die, the lowest die on a tie. -/
def hottest (d : Dev) : Int × Nat :=
  [1, 2, 3, 4, 5].foldl (fun b k => if b.1 < tget 0 d.power.junction k then (tget 0 d.power.junction k, k) else b) (tget 0 d.power.junction 0, 0)

/-- Junction and coolant limits in force, in 0.125 °C (R423). -/
def junctionLimit (d : Dev) : Nat := if d.thr.junctionLimit = 0 then 760 else d.thr.junctionLimit
def coolantLimit (d : Dev) : Nat := if d.thr.coolantLimit = 0 then 320 else d.thr.coolantLimit

/-- A step up of a demand that recovers. -/
def recover (x : Nat) : Nat := min 1024 (x + 32)

/-- The demands of R424 after one update. -/
def updateDemands (d : Dev) : Power :=
  let p := d.power
  let hot := (hottest d).1
  let jl : Int := junctionLimit d
  let cl : Int := coolantLimit d
  { p with
    demJunction := if jl < hot then max 256 (p.demJunction - 32) else if hot < jl - 16 then recover p.demJunction else p.demJunction
    demCoolant := if cl < p.coolant then max 256 (1024 - 64 * ((p.coolant - cl + 7) / 8).toNat) else 1024
    demCap := if p.capW < p.inputW then max 1 (p.demCap * p.capW / p.inputW)
      else if 100 * p.inputW < 95 * p.capW then recover p.demCap else p.demCap
    demThrottle := if p.throttleIn then p.throttleFactor else 1024
    demVoltage := if p.inputMv < 46000 then 512 else if 47000 ≤ p.inputMv then 1024 else p.demVoltage
    demCurrent := if 900 < p.railMilli then max 1 (p.demCurrent - 64) else if p.railMilli < 800 then recover p.demCurrent else p.demCurrent }

/-- The smallest factor demanded and its cause (R75, R77); the lowest code among equal demands. -/
def demanded (p : Power) : Nat × Nat :=
  [(p.demCoolant, 2), (min p.demCap p.demThrottle, 3), (p.demVoltage, 4), (p.demCurrent, 5), (p.demGroup, 6)].foldl
    (fun b x => if x.1 < b.1 then x else b) (p.demJunction, 1)

/-- The factor demanded goes to the next boundary on a device alone, and through the root in a group (R75). -/
def demandChanged (was : Nat) (d : Dev) : Dev :=
  if d.groupSize ≤ 1 then
    let f := (demanded d.power).1
    if f = d.canal.f then d.modCanal fun c => { c with stretchDue := none }
    else d.modCanal fun c => { c with stretchDue := some (c.lockage + 1, f) }
  else if d.ring.root then
    let want := min d.power.ownDemand d.power.demGroup
    if want = (match d.canal.stretchDue with | some s => s.2 | none => d.canal.f) then d else announceStretch want d
  else if d.power.ownDemand = was then d
  else reportRoot (.demand d.power.ownDemand) d

/-- The power core updates its demands (R424), while it runs and has a reading. -/
def demandUpdate (d : Dev) : Dev :=
  if (d.coreCtl 1).state ≠ 1 ∨ d.power.haveReading = false then d
  else demandChanged d.power.ownDemand { d with power := updateDemands d }

/-- Readings of the sensors: input power and voltage, junction and core rail of each die, the largest rail current, the coolant. -/
def takeReading (r : Reading) (d : Dev) : Dev :=
  d.modPower fun p => { p with haveReading := true, inputW := r.inputW, inputMv := r.inputMv,
                               junction := (List.range 6).zip (r.junction.take 6), railMv := (List.range 6).zip (r.railMv.take 6),
                               railMilli := r.railMilli, coolant := r.coolant }

/-! ### Trips and power loss (R425, R438) -/

/-- The condition of a trip holds for a reading (R425). -/
def tripHolds (cause : Nat) (reading : Int) : Bool :=
  if cause = 0 then decide (920 ≤ reading)
  else if cause = 1 then decide (1000 < reading)
  else if cause = 2 then decide (reading < 42000 ∨ 57000 < reading)
  else decide (440 ≤ reading)

/-- Power-good falls: the bypass holds lapse, the device is handled as failed, nothing more acts in it. -/
def powerOff (d : Dev) : Dev :=
  let d := failDevice 0 (lapseBoth 0 (d.modPower fun p => { p with pwrGood := false }))
  (d.modPower fun p => { p with state := .off }).emit (.pin "PWRGD" false)

/-- A trip (R425): PWR_TRIP, RING_BYPASS with cause 0 for each open pair, power-good deasserted. -/
def trip (cause index : Nat) (reading : Int) (d : Dev) : Dev :=
  if d.power.state = .off then d
  else
    let d := post 0x1300 (unitBlock 5 18 127) 0
      (syn [(32, 1, cause), (33, 1, if cause < 2 then index else 0), (34, 2, (BitVec.ofInt 16 reading).toNat)]) d
    powerOff (d.modPower fun p => { p with tripped := true })

/-- PWR_EN is deasserted (R438). -/
def powerDisable (d : Dev) : Dev :=
  let d := d.modPower fun p => { p with pwrEn := false, pwrEnLow := if p.pwrEn then some d.uptime else p.pwrEnLow }
  if d.power.state = .off then d else powerOff d

/-- P48 is lost: a trip on input voltage while PWR_EN is asserted (R438). -/
def p48Loss (mv : Nat) (d : Dev) : Dev :=
  let d := d.modPower fun p => { p with p48 := false }
  if d.power.pwrEn then trip 2 0 mv d else d

/-- PWR_EN is asserted (R437, R438): ignored without standby power; after a trip it must have been low for 100 ms. -/
def powerEnable (p48 standby : Bool) (d : Dev) : Dev :=
  let d := d.modPower fun p => { p with p48 := p48, standby := standby }
  if standby = false then d
  else
    let long := match d.power.pwrEnLow with | some t => decide (t + 100000000 ≤ d.uptime) | none => false
    d.modPower fun p => { p with pwrEn := true, tripped := p.tripped && !long, pwrEnLow := none }

/-! ### Resets (R427, R437–R440) -/

/-- What stays in the ledger through any reset (R363, R427): whole pages; it is unmounted, and the records of a page not yet written are
lost, like those of a torn one (R365). -/
def keepLedger (l : Ledger) : Ledger :=
  { l with state := 0, spares := 0, mountSince := 0, mountMs := 0, early := [], log := l.log.take (l.log.length - l.logged % 256),
           logged := l.logged - l.logged % 256 }

/-- The debug level that a reset leaves (R332). -/
def debugAtReset (lifecycle : Nat) : Nat := if lifecycle = 0 ∨ lifecycle = 3 then 3 else 0

/-- Cold reset (R427): everything volatile is cleared; the ledger, the fuses and the NOR images stay. The straps and the ring join
grant are sampled (R439, R440). Key slots are restored at stage 1 (R335). -/
def coldReset (straps : Nat) (v : Vault) (d : Dev) : Vault × Dev :=
  let p := d.power
  if p.pwrGood ∨ p.pwrEn = false ∨ p.p48 = false ∨ p.standby = false ∨ p.tripped then (v, d)
  else
    let n : Dev := { Dev.atReset with
                     uptime := d.uptime, out := d.out, fresh := d.fresh, ledger := { keepLedger d.ledger with repairs := 0 } }
    let n := n.modPower fun q => { q with throttleIn := p.throttleIn, warmPinLow := p.warmPinLow, ringJoinPin := p.ringJoinPin,
                                          ringJoin := p.ringJoinPin, strap := straps }
    let n := n.modBoot fun b => { b with nor := d.boot.nor }
    let n := n.modManifest fun m => { m with serials := d.ledger.serials }
    let n := n.modSec fun s => { s with testDue := d.uptime + 2048000 }
    let n := if straps = 3 then n.seen 15 0 0 else n
    ({ v with keys := [], debug := debugAtReset v.lifecycle }, n.emit (.pin "PWRGD" true))

/-- What a warm reset keeps of an HBM controller: its error counts and log (R184). -/
def keepCtl (c : HbmCtl) : HbmCtl := { ceCount := c.ceCount, ueCount := c.ueCount, poisonMerge := c.poisonMerge, log := c.log }

/-- What it keeps of an instance: its generation (R217). -/
def keepInst (i : Inst) : Inst := { gen := i.gen }

/-- What it keeps of a core: the code memory; the extension store clears (R383). -/
def keepCore (c : Core) : Core := Core.atReset { code := c.code, codeErr := c.codeErr }

/-- Warm reset (R427): manifest, tables, queues, instances, extension stores and the entropy latch are cleared; generations,
correctable-error logs, key slots, rule sets and memory contents stay, and so do the counts that run since cold reset. Local boot
starts again with the bypass pairs closed. The challenge counter of R52 starts at 0 again, as at cold reset (log entry 145). -/
def warmReset (cause : Nat) (v : Vault) (d : Dev) : Vault × Dev :=
  let d := lapseBoth 4 (if d.sec.owner = 1 ∨ d.sec.owner = 2 then abortJob d else d)
  let p := d.power
  let n : Dev := { Dev.atReset with
                   uptime := d.uptime, out := d.out, fresh := d.fresh, ledger := keepLedger d.ledger, mem := d.mem,
                   cores := d.cores.map fun e => (e.1, keepCore e.2) }
  let n := n.modPower fun q => { q with state := .warmReset, throttleIn := p.throttleIn, warmPinLow := p.warmPinLow,
                                        ringJoinPin := p.ringJoinPin, ringJoin := p.ringJoinPin, strap := p.strap,
                                        warmCount := satAdd 65535 p.warmCount 1, lastReset := cause }
  let n := n.modBoot fun b => { b with nor := d.boot.nor }
  let n := n.modManifest fun m => { m with serials := d.ledger.serials }
  let n := n.modHbm fun h => { h with check := d.hbm.check, found := d.hbm.found, ctl := d.hbm.ctl.map fun e => (e.1, keepCtl e.2) }
  let n := n.modWharf fun w => { w with poison := d.wharf.poison, err := d.wharf.err }
  let n := n.modHost fun h => { h with inst := (d.host.inst.map fun e => (e.1, keepInst e.2)).filter fun e => decide (e.2 ≠ {}),
                                       ep := d.host.ep.map fun e => (e.1, { e.2 with vfEnable := false, numVfs := 0, windows := [], dormant := [] }) }
  let n := n.modNet fun x => { x with halves := d.net.halves }
  let n := n.modCanal fun c => { c with links := d.canal.links.map fun e => (e.1, { total := e.2.total }) }
  let n := n.modSec fun s => { s with failures := d.sec.failures, testDue := d.uptime + 2048000 }
  let n := n.modCtrl fun c => { c with cores := d.ctrl.cores.map fun e => (e.1, { restarts := e.2.restarts }) }
  let n := n.modRing fun r => { r with pairs := d.ring.pairs.map fun e => (e.1, { e.2 with open_ := false, commanded := false }) }
  ({ v with debug := debugAtReset v.lifecycle }, n)

/-- A warm reset that has been ordered takes place (R427, R433); after a failure of the control link it carries cause 3 (log
entry 78). One that comes during a warm reset is absorbed. -/
def warmDue (v : Vault) (d : Dev) : Vault × Dev :=
  if d.power.state = .warmReset ∨ d.power.state = .off then (v, d)
  else match d.power.warmDue with
    | some c => warmReset c v d
    | none => if d.ctrl.linkFailed then warmReset 3 v d else (v, d)

/-- Order a warm reset. -/
def orderWarm (cause : Nat) (d : Dev) : Dev :=
  d.modPower fun p => { p with warmDue := match p.warmDue with | some c => some c | none => some cause }

/-- The WARM_RESET# pin: low for `ns` so far, or released. One warm reset for each low of at least 1 µs (R438). -/
def warmPin (low : Bool) (ns : Nat) (d : Dev) : Dev :=
  if low = false then d.modPower fun p => { p with warmPinLow := false }
  else if ns < 1000 ∨ d.power.warmPinLow then d
  else orderWarm 2 (d.modPower fun p => { p with warmPinLow := true })

/-! ### Clock loss (R431) -/

/-- The die of a clock domain. -/
def domainDie (n : Nat) : Nat :=
  if n < 16 then n / 4 else if n < 22 then n - 16 else if n < 30 then (n - 22) / 2 else if n < 32 then 4 else if n < 34 then 5
  else if n < 36 then n - 30 else if n < 40 then 4 else if n < 45 then 5 else if n < 49 then 4 else if n < 53 then 5
  else if n < 55 then 4 else if n < 57 then 5 else if n = 57 then 5 else 4

/-- A domain is lost: CLK_LOSS, and what depends on it fails. The always-on domain has no monitor. -/
def clockLoss (n : Nat) (frequency : Bool) (v : Vault) (d : Dev) : Dev :=
  if n = 59 then d
  else
    let d := d.modPower fun p => { p with domains := tmod {} p.domains n fun x => { x with state := 3, losses := satAdd 65535 x.losses 1 } }
    let d := post 0x1301 (unitBlock (domainDie n) 18 n) 0 (syn [(32, 1, n), (33, 1, b2n frequency)]) d
    if n < 16 then failUnits (clusterTiles n) d
    else if n < 34 ∨ n = 57 ∨ n = 58 then failDevice 6 d
    else if n < 36 then (if (d.ep (n - 34)).up then hostLinkDown v (n - 34) false d else d)
    else if n < 44 then portLinkDown (n - 36) d
    else if n = 44 then [8, 9, 10, 11].foldl (fun d p => portLinkDown p d) d
    else if n < 53 then netLinkDown (n - 45) d
    else if d.ring.ready ∨ (d.link (n - 53)).state ≠ 2 then d else lostEarly (n - 53) d

/-! ### Commands -/

def execSensorReading (r : Reading) (s : State) : Host.Outcome State Fault Refusal := onDev (takeReading r) s

def execDemandUpdate (s : State) : Host.Outcome State Fault Refusal := onDev demandUpdate s

/-- TRIP (R425): `index` the die of cause 0 or the rail of cause 1. -/
def execTrip (cause : Fin 4) (index : Nat) (reading : Int) (s : State) : Host.Outcome State Fault Refusal :=
  onDev (fun d => if tripHolds cause.val reading then trip cause.val index reading d else d) s

def execThrottleIn (asserted : Bool) (s : State) : Host.Outcome State Fault Refusal :=
  always (fun d => d.modPower fun p => { p with throttleIn := asserted }) s

def execPowerDisable (s : State) : Host.Outcome State Fault Refusal := always powerDisable s

def execP48Loss (mv : Nat) (s : State) : Host.Outcome State Fault Refusal := always (p48Loss mv) s

def execPowerEnable (p48 standby : Bool) (s : State) : Host.Outcome State Fault Refusal := always (powerEnable p48 standby) s

def execWarmResetPin (low : Bool) (ns : Nat) (s : State) : Host.Outcome State Fault Refusal := always (warmPin low ns) s

def execColdReset (straps : Fin 4) (s : State) : Host.Outcome State Fault Refusal := alwaysV (coldReset straps.val) s

def execWarmReset (s : State) : Host.Outcome State Fault Refusal := onVault warmDue s

/-- RING_JOIN_FALL (R440, R304): in service the holds lapse and the device is handled as failed. -/
def execRingJoinFall (s : State) : Host.Outcome State Fault Refusal :=
  always (fun d =>
    let d := d.modPower fun p => { p with ringJoinPin := false }
    if d.power.ringJoin = false ∨ d.power.state = .off then d
    else failDevice 6 (lapseBoth 5 (d.modPower fun p => { p with ringJoin := false }))) s

/-- RING_JOIN_RISE (R440): it takes effect at the next local boot. -/
def execRingJoinRise (s : State) : Host.Outcome State Fault Refusal :=
  always (fun d => d.modPower fun p => { p with ringJoinPin := true }) s

def execClockLoss (domain : Fin 60) (frequency : Bool) (s : State) : Host.Outcome State Fault Refusal :=
  onDevV (fun v => clockLoss domain.val frequency v) s

/-- CMD_POWER_STATUS: input power and voltage, temperatures, every demand and cause, the THROTTLE pins. -/
def nowCmdPowerStatus (c : Cmd) (s : State) : Host.Outcome State Fault Refusal :=
  onDev (query c { i3c := true } fun d =>
    let p := d.power
    ok [p.inputW, p.inputMv, (BitVec.ofInt 64 (hottest d).1).toNat, (hottest d).2, (BitVec.ofInt 64 p.coolant).toNat, p.demJunction, p.demCoolant,
        min p.demCap p.demThrottle, p.demVoltage, p.demCurrent, p.demGroup, d.canal.cause, b2n p.throttleIn, b2n p.throttleOut]) s

/-- CMD_POWER_CAP_SET: 1,000–4,000 W. -/
def nowCmdPowerCapSet (c : Cmd) (watts : Nat) (s : State) : Host.Outcome State Fault Refusal :=
  onDev (mailbox c { block := some 18 } fun d =>
    if watts < 1000 ∨ 4000 < watts then (fail .invalid, d) else (ok [], d.modPower fun p => { p with capW := watts })) s

/-- CMD_RESET_WARM: OK, then warm reset. -/
def nowCmdResetWarm (c : Cmd) (s : State) : Host.Outcome State Fault Refusal :=
  onDev (mailbox c { block := some 18 } fun d => (ok [], orderWarm 1 d)) s

/-- CMD_CLOCK_STATUS: state, frequency, losses of a domain. -/
def nowCmdClockStatus (c : Cmd) (domain : Nat) (s : State) : Host.Outcome State Fault Refusal :=
  onDev (query c { i3c := true } fun d =>
    let x := tget {} d.power.domains domain
    if 59 < domain then fail .invalid else ok [x.state, x.mhz, x.losses]) s

/-- The POWERCLK commands wait while the power core restarts (R353). -/
def execCmdPowerStatus (c : Cmd) (s : State) : Host.Outcome State Fault Refusal := whileUp 1 (.cmdPowerStatus c) (nowCmdPowerStatus c) s

def execCmdPowerCapSet (c : Cmd) (watts : Nat) (s : State) : Host.Outcome State Fault Refusal :=
  whileUp 1 (.cmdPowerCapSet c watts) (nowCmdPowerCapSet c watts) s

def execCmdResetWarm (c : Cmd) (s : State) : Host.Outcome State Fault Refusal := whileUp 1 (.cmdResetWarm c) (nowCmdResetWarm c) s

def execCmdClockStatus (c : Cmd) (domain : Nat) (s : State) : Host.Outcome State Fault Refusal :=
  whileUp 1 (.cmdClockStatus c domain) (nowCmdClockStatus c domain) s

end Sys2Proof.Machine
end

