-- ==== Sys2Proof/Machine/Boot.lean ====
section
/-! DEFINITION. Local boot (R335): the ROM stage, image verification, the start of the firmware processors, the default manifest. -/

namespace Sys2Proof.Machine

/-! ### Stage 1 -/

/-- The channels that m populated channels are (R174). -/
def wharfSet (m : Nat) : List Nat := List.range (m / 2) ++ (List.range (m / 2)).map (· + 6)

/-- A conforming choice: each of its channels has trained and holds a DIMM of one capacity. -/
def wharfFits (dimms : List (Nat × Bool)) (m cap : Nat) : Bool := (wharfSet m).all fun c => dimms.getD c (0, false) == (cap, true)

/-- The largest conforming subset; of equal totals the one with more channels. -/
def wharfChoice (dimms : List (Nat × Bool)) : Nat × Nat :=
  let all := ([12, 10, 8, 6, 4, 2] : List Nat).flatMap fun m => ([32, 64, 128, 256] : List Nat).map fun cap => (m, cap)
  (all.filter fun x => wharfFits dimms x.1 x.2).foldl (fun best x => if best.1 * best.2 < x.1 * x.2 then x else best) (0, 0)

/-- The wharf's channels after training (R174, WHARF_CONFIG). -/
def trainWharf (dimms : List (Nat × Bool)) (rate : Nat) (d : Dev) : Dev :=
  let used := wharfSet (wharfChoice dimms).1
  let one (d : Dev) (c : Nat) : Dev :=
    let x := dimms.getD c (0, false)
    d.modWharfCh c fun w => { w with capacity := x.1, state := if used.contains c then 2 else if x.1 = 0 then 0 else 1 }
  ((List.range 12).foldl one d).modWharf fun w => { w with rate := rate % 2 ^ 14 }

/-- What a fused slot holds (R331, R337): in BLANK slot 0 is empty, and its unprogrammed fuses read as they read (log entry 7). -/
def fusedSlot (lifecycle k : Nat) : KeySlot :=
  if lifecycle = 4 then {}
  else if lifecycle = 0 then (if k = 0 then { key := Config.fusedKey 0 } else {})
  else { key := Config.fusedKey k, identity := Config.fusedIdentity k, use := if k = 0 then 1 else 3, origin := 1, inst := 0xFFFF }

/-- The key store after the fuses are read and the owner slots are restored from the ledger. -/
def restoreKeys (v : Vault) : Vault :=
  let fused := ([0, 1, 2] : List Nat).foldl (fun t k => tset {} t k (fusedSlot v.lifecycle k)) v.keys
  { v with keys := v.keyCopy.foldl (fun t e => tset {} t e.1 e.2) fused }

/-- Local boot ends after stage 1 (R439). -/
def recovery (v : Vault) (d : Dev) : Bool := decide (d.power.strap = 1 ∨ (d.power.strap = 2 ∧ v.lifecycle = 0))

/-- Stage 1 ends; stage 2 begins, and with it the mount of the ledger's data log (R365). -/
def romStage (dimms : List (Nat × Bool)) (rate : Nat) (v : Vault) (d : Dev) : Vault × Dev :=
  if d.boot.stage ≠ 1 ∨ (d.power.state ≠ .reduced ∧ d.power.state ≠ .warmReset) then (v, d)
  else
    let w := restoreKeys v
    let d := (trainWharf dimms rate d).modPower fun p => { p with state := .reduced }
    let d := (List.range 8).foldl (fun d k => d.modCtl k fun c => { c with logical := some k }) d
    let d :=
      if recovery w d then d.modBoot fun b => { b with stage := 0 }
      else (d.modBoot fun b => { b with stage := 2 }).modLedger fun l => { l with state := 1, mountSince := d.uptime }
    (w, setVisible w d)

/-! ### Stages 2 and 3 (R334, R335) -/

/-- What is wrong with a boot image: 0 header, 1 tag, 2 rollback. -/
def imageFault (v : Vault) (d : Dev) (image : Nat) : Option Nat :=
  let h := norRead d image 0 64
  let n := fieldLe h 12 4
  if fieldLe h 0 4 ≠ 0x49425154 ∨ fieldLe h 4 2 ≠ 1 ∨ fieldLe h 6 2 ≠ 0 ∨ n = 0 ∨ 16777152 < n ∨ zeros h 24 8 = false ∨ zeros h 48 16 = false then some 0
  else if v.lifecycle = 4 then some 1
  else
    let key := keyBytes (tget {} v.keys 0).key
    if gcmTag key (slice h 16 8 ++ [0, 0, 0, 2]) (h.take 32 ++ norRead d image 64 n) [] ≠ slice h 32 16 then some 1
    else if fieldLe h 8 4 < v.minVersion then some 2
    else none

/-- One image is tried: A first, then B. -/
def imageStage (v : Vault) (d : Dev) : Dev :=
  if d.boot.stage ≠ 2 then d
  else
    let image := b2n d.boot.image
    match imageFault v d image with
    | none => d.modBoot fun b => { b with stage := 4, imageVersion := BitVec.ofNat 32 (fieldLe (norRead d image 0 64) 8 4) }
    | some cause =>
      let d := post 0x0F00 (unitBlock 4 14 127) 0 (syn [(32, 1, image), (33, 1, cause)]) d
      if d.boot.image then d.modBoot fun b => { b with bFailed := true, stage := 0 }
      else d.modBoot fun b => { b with aFailed := true, image := true }

/-! ### Stages 4 and 5 -/

/-- A device below a root port is enumerated (R233): the largest payload size that both ends support, its BARs in the upper space, and for
a drive its namespaces (R323). Below an NVMe port the storage service has by then written the inbound table (R234), so bus mastering is enabled with it. -/
def enumerate (x : PortDevice) (d : Dev) : Dev :=
  let mps := if 512 ≤ x.mps then 512 else if 256 ≤ x.mps then 256 else 128
  let good := x.bars.filter fun a => decide (2 ^ 47 ≤ a ∧ a < 2 ^ 48)
  let b := decide (8 ≤ x.port.val)
  if (d.port x.port.val).up then
    (d.modPort x.port.val fun p => { p with mps := mps, bars := tlist 0 0 good, ptm := Config.ptmBelow x.port.val,
                                            busMaster := p.busMaster || b }).modStorage fun s => if b then { s with drives := tmod {} s.drives (x.port.val - 8) fun y => { y with namespaces := x.namespaces } } else s
  else d

/-- The code of core k is copied into its code memory and the core runs (R352). -/
def startCore (k : Nat) (code : Bytes) (d : Dev) : Dev :=
  (d.modCore k fun c => Core.atReset { c with code := tlist 0 0 (code.take 0x80000), codeErr := [] }).modCoreCtl k fun c =>
    { c with state := 1, since := d.uptime, wdFrom := d.uptime }

/-- Stage 4 (R335, R426): full service begins, no earlier than WARM_RESET# is released (R438). -/
def firmwareStage (code : List Bytes) (devices : List PortDevice) (v : Vault) (d : Dev) : Dev :=
  if d.boot.stage ≠ 4 ∨ d.power.state ≠ .reduced ∨ d.power.warmPinLow then d
  else
    let d := (List.range 19).foldl (fun d k => startCore k (code.getD k []) d) d
    let d := (d.modPower fun p => { p with state := .full }).modBoot fun b => { b with stage := 5 }
    setVisible v (devices.foldl (fun d x => enumerate x d) d)

/-- Stage 5 (R335): the default manifest, at 16 MiB of the image that passed, is loaded as an initial load (R36). -/
def defaultStage (d : Dev) : Dev :=
  if d.boot.stage ≠ 5 ∨ (1 ≤ d.manifest.stage ∧ d.manifest.stage ≤ 5) then d
  else startLoad none false false (1 + b2n d.boot.image) 0x1000000 0x2000000 (d.modBoot fun b => { b with stage := 6 })

/-- ROM_SELF_TEST (R335, R337, R174): what training finds at each wharf channel and the rate it reaches are the command's (log
entry 97). -/
def execRomSelfTest (dimms : List (Nat × Bool)) (rate : Nat) (s : State) : Host.Outcome State Fault Refusal := onVault (romStage dimms rate) s

/-- IMAGE_VERIFICATION (R334, R335). -/
def execImageVerification (s : State) : Host.Outcome State Fault Refusal := onDevV imageStage s

/-- FIRMWARE_START (R335, R352, R233): the code of cores 0–18, whose layout in the image the manual does not give, is the command's (log
entry 98). -/
def execFirmwareStart (code : List Bytes) (devices : List PortDevice) (s : State) : Host.Outcome State Fault Refusal :=
  onDevV (firmwareStage code devices) s

/-- DEFAULT_MANIFEST_LOAD (R335). -/
def execDefaultManifestLoad (s : State) : Host.Outcome State Fault Refusal := onDev defaultStage s

end Sys2Proof.Machine
end

