-- ==== Sys2Proof/Machine/Flip.lean ====
section
/-! DEFINITION. The flip (R36, R46–R48) and the changes of program and overlays (R44, R45, R71, R72): what every block takes over
from the manifest at a lockage boundary. -/

namespace Sys2Proof.Machine

/-! ### Whether a load may flip (R47) -/

/-- The unit codes of the physical tiles that a manifest places. -/
def placedTiles (m : Manifest) : List Nat :=
  m.place.flatMap fun e => e.2.physical :: (if m.paired then [e.2.partner] else [])

/-- The ring link behind a gate router's port (R55). -/
def ringLinkAt (r p : Nat) : Option Nat := if isRingPort r p then some (2 * (r - 28) + (p - 46) / 2) else none

/-- The unit codes of the ring links that a program uses. -/
def programLinks (recs : List RouteRec) : List Nat :=
  recs.foldl (fun l x => [x.output, x.source].foldl (fun l p =>
    match ringLinkAt x.router p with | some k => addSet (0x400 + k) l | none => l) l) []

/-- The held-failed units that the primary placement and program of a manifest use. -/
def usedFailed (m : Manifest) (held : List Nat) : List Nat :=
  held.filter fun u => (placedTiles m).contains u || (programLinks (m.programs.headD [])).contains u

/-- What the flip's own check finds: the alternates to apply with it, or none when the load must end. -/
def flipCheck (m : Manifest) (d : Dev) : Option (List Nat) :=
  match usedFailed m d.manifest.heldFailed with
  | [] => some []
  | used =>
    chooseAlternates used ((d.modManifest fun x => { x with active := some m }).modCanal fun c => { c with program := 0 })

/-! ### Tiles (R105–R108, R119) -/

/-- Tile cycles are counted up to now: the clock is about to change. -/
def foldCycles (n : Nat) (d : Dev) : Dev :=
  let now := d.tileCycles n
  d.modTile n fun t => { t with cycles := now, cyclesAt := d.uptime }

/-- The code image of a logical tile. -/
def tileImage (m : Manifest) (t : Nat) : CodeImage :=
  match tfind m.imageMap t with
  | some i => m.images.getD i {}
  | none => {}

/-- The op store that an image gives. -/
def opStore (i : CodeImage) : Tab Word := (numbered i.ops).foldl (fun t e => tset (BitVec.allOnes 64) t e.1 e.2) []

/-- The entry point of stream s in an image. -/
def entryOf (i : CodeImage) (s : Nat) : Option Nat :=
  match i.entries[s]? with | some e => if e = 0xFFFF then none else some e | none => none

/-- Give a tile the streams of an image, at their entry points. -/
def loadStreams (i : CodeImage) (t : Tile) : Tile :=
  (List.range 4).foldl (fun t s => t.modStream s fun st => ({ st with entry := entryOf i s }).start)
    { t with ops := opStore i, opFill := BitVec.allOnes 64 }

/-- A tile without a logical tile: its streams are idle. -/
def unbound (t : Tile) : Tile :=
  { loadStreams {} t with logical := none, follower := false, pair := none, starting := false, spillBase := 0, spillSize := 0, actionDue := 0 }

/-- What a first flip leaves of a tile: registers, accumulators, events, basin, engines and counters are zero (R105, R412). -/
def fresh (t : Tile) : Tile :=
  { failed := t.failed, basinErr := t.basinErr, lastFault := t.lastFault, corrected := t.corrected, checks := t.checks, poisons := t.poisons }

/-- Bind a logical tile to a physical one as leader or follower. -/
def bindTile (m : Manifest) (l : Nat) (p : TilePlace) (n : Nat) (lead : Bool) (t : Tile) : Tile :=
  let t := { unbound t with logical := some l, follower := !lead, pair := if m.paired then some (if lead then p.partner else p.physical) else none,
                            inst := p.inst, spillBase := p.spillBase, spillSize := p.spillSize, cyclesAt := t.cyclesAt }
  if lead && decide (n = p.physical) then loadStreams (tileImage m l) t else t

/-- The logical tile that a manifest places on physical tile n, and whether n leads. -/
def homeOfTile (m : Manifest) (n : Nat) : Option (Nat × TilePlace × Bool) :=
  (m.place.find? fun e => e.2.physical == n || (m.paired && e.2.partner == n)).map fun e => (e.1, e.2, e.2.physical == n)

/-- Physical tile n takes what the manifest gives it. -/
def flipTile (m : Manifest) (first : Bool) (d : Dev) (n : Nat) : Dev :=
  let d := foldCycles n d
  d.modTile n fun t =>
    let t := if first then { fresh t with cyclesAt := d.uptime } else t
    match homeOfTile m n with
    | none => if decide (t = {}) then t else unbound t
    | some (l, p, lead) => bindTile m l p n lead t

/-! ### Spares (R445, R108) -/

/-- The patch's entries name the port of tile n at its cluster router. -/
def namesPort (a : Alternate) (n : Nat) : Bool :=
  a.patch.any fun e => e.router == tileRouter n &&
    ((List.range 64).any (fun o => entrySource e.entry o == tilePort n) || entrySource e.entry (tilePort n) != 64)

/-- The spares that a patch may give to failed tiles of cluster c. -/
def spares (d : Dev) (a : Alternate) (c : Nat) : List Nat :=
  (clusterTiles c).filter fun n => (d.tile n).logical.isNone && !d.manifest.heldFailed.contains n && !Config.tileFuse n && namesPort a n

/-- A spare takes over from a failed tile: it copies the image, zeroes its state and starts its counters at zero. -/
def takeOver (m : Manifest) (failed spare : Nat) (d : Dev) : Dev :=
  let old := d.tile failed
  let d := d.modTile failed fun t => unbound t
  let d := foldCycles spare d
  match old.logical with
  | none => d
  | some l =>
    let keep : Tile := { fresh (d.tile spare) with
                         logical := some l, inst := old.inst, spillBase := old.spillBase, spillSize := old.spillSize, pair := old.pair,
                         follower := old.follower, cyclesAt := d.uptime, starting := true, ops := opStore (tileImage m l),
                         opFill := BitVec.allOnes 64 }
    let ready (t : Tile) : Tile := (List.range 4).foldl (fun t s => t.modStream s fun st => { st with entry := entryOf (tileImage m l) s }) t
    let d := d.modTile spare fun _ => if old.follower then { keep with starting := false, ops := [] } else ready keep
    match old.pair with | some q => d.modTile q fun t => { t with pair := some spare } | none => d

/-- The failed tiles of a patch's coverage that run a logical tile hand it to spares of their cluster; one for which none remains
leaves its logical tile unplaced. -/
def handOver (m : Manifest) (a : Alternate) (d : Dev) : Dev :=
  (List.range 16).foldl (fun d c =>
    let failed := (clusterTiles c).filter fun n => a.coverage.contains n && (d.tile n).failed && (d.tile n).logical.isSome
    let ss := spares d a c
    (numbered failed).foldl (fun d e => match ss[e.1]? with
      | some s => takeOver m e.2 s d
      | none => d.modTile e.2 unbound) d) d

/-! ### Programs and overlays (R44, R45, R71, R72) -/

/-- Every source and every receiver restarts its counts (R60). -/
def restartCounts (d : Dev) : Dev := d.modCanal fun c => { c with sendSeq := [], recvSeq := [] }

/-- Change the running program: overlays of the old one no longer match. -/
def runProgram (q : Nat) (d : Dev) : Dev :=
  restartCounts (d.modCanal fun c => { c with program := q, overlays := c.overlays.filter fun i =>
                                              match d.alternates[i]? with | some a => decide (a.2.base = q) | none => false })

/-- The rings whose links a coverage names. -/
def coveredRings (a : Alternate) : List Nat := [0, 1, 2, 3].foldl (fun l k => if a.coverage.contains (0x400 + k) then addSet (linkRing k) l else l) []

/-- A detour is in force on the rings that an alternate covers a link of, and for those links. -/
def foldRings (a : Alternate) (d : Dev) : Dev :=
  let d := [0, 1, 2, 3].foldl (fun d k => if a.coverage.contains (0x400 + k) then d.modLink k fun l => { l with detoured := true } else d) d
  d.modRing fun r => { r with folded := (coveredRings a).foldl (fun l x => addSet x l) r.folded,
                              chains := (coveredRings a).foldl (fun l x => addSet x l) r.chains }

/-- Apply alternates: patches put their overlays in force and move tiles to spares; a program alternate switches the program. -/
def applyAlternates (as : List Nat) (d : Dev) : Dev :=
  as.foldl (fun d i =>
    match d.alternates[i]?, d.manifest.active with
    | some (_, a), some m =>
      let d := d.modManifest fun x => { x with altActive := addSet i x.altActive }
      if a.kind = 1 then foldRings a (runProgram a.target d)
      else handOver m a (restartCounts (d.modCanal fun c => { c with overlays := addSet i c.overlays }))
    | _, _ => d) d

/-- No detour is in force for any link. -/
def endDetours (d : Dev) : Dev := [0, 1, 2, 3].foldl (fun d k => d.modLink k fun l => { l with detoured := false }) d

/-- The patches in force give way to a newly chosen set (R44). -/
def replaceAlternates (as : List Nat) (d : Dev) : Dev :=
  let isPatch (i : Nat) : Bool := match d.alternates[i]? with | some a => decide (a.2.kind = 0) | none => false
  applyAlternates as ((d.modCanal fun c => { c with overlays := [] }).modManifest fun x =>
    { x with altActive := x.altActive.filter fun i => !isPatch i, altDue := none })

/-- The primary comes back (R45): the units of the failed set are in service again, tiles return to where the manifest places
them and start as a spare does (log entry 90). Held-failed units outside the failed set stay held (log entry 145). -/
def revert (d : Dev) : Dev :=
  match d.manifest.active with
  | none => d.modManifest fun x => { x with revertDue := false }
  | some m =>
    let back := d.manifest.failedSet
    let d := d.modManifest fun x => { x with revertDue := false, failedSet := [], altActive := [],
                                             heldFailed := x.heldFailed.filter fun u => !back.contains u }
    let d := back.foldl (fun d u => if u < 528 then d.modTile u fun t => { t with failed := false } else d) d
    let moved := (List.range 528).filter fun n => (d.tile n).logical != (homeOfTile m n).map (·.1)
    let home (d : Dev) (n : Nat) : Dev :=
      let d := foldCycles n d
      match homeOfTile m n with
      | none => d.modTile n unbound
      | some (l, p, lead) =>
        d.modTile n fun t =>
          let b := bindTile m l p n lead { fresh t with cyclesAt := d.uptime }
          if lead then (List.range 4).foldl (fun t s => t.modStream s fun st => { st with state := 0 }) { b with starting := true } else b
    let d := moved.foldl home d
    runProgram 0 ((endDetours (d.modCanal fun c => { c with overlays := [] })).modRing fun r => { r with folded := [], chains := r.chains.filter fun x => !r.folded.contains x })

/-! ### Instances (R218, R207) -/

/-- A descriptor keeps an instance as it is: home PF, quotas and grants are the same. -/
def sameDesc (a b : Option InstDesc) : Bool := decide (a = b)

/-- The descriptor of instance i in a manifest. -/
def descOf (m : Manifest) (i : Nat) : Option InstDesc := m.partition.find? fun q => q.inst == i

/-- Instance i at a flip. What a dropped instance and a physical function whose descriptor changes have held is back in the pools at once,
so that it can be taken again in the same flip (log entry 141). -/
def flipInst (v : Vault) (m : Manifest) (d : Dev) (i : Nat) : Dev :=
  let x := d.inst i
  let new := descOf m i
  let same := sameDesc x.desc new
  let home := match new with | some q => q.homePf | none => 0
  if i < 2 then
    if same then d
    else (returnResources i (resetQueues i (stopRequests v i true d))).modInst i fun x => { x with desc := new }
  else if x.state = 2 ∧ same then d.modInst i fun x =>
    { x with windows := x.windows.filter fun w => inGrant d i (Window.device w.2) (2 ^ Window.sizeLog2 w.2) || !Window.valid w.2 }
  else if x.state = 2 ∨ (x.state = 3 ∧ x.flr ∧ !same) then
    let d := beginDestroy v i none d
    let d := post 0x0903 (unitBlock (4 + x.homePf) 8 x.homePf (some i)) 0 (syn [(36, 2, i), (38, 2, (d.inst i).gen.toNat)]) d
    let d := returnResources i (x.dma.foldl (fun d c => dmaStopped c d) d)
    rehome i (some x.homePf) (some home) (d.modInst i fun x => { x with desc := new, homePf := home })
  else if x.state = 3 then
    if x.flr then d.modInst i fun x => { x with desc := new }
    else rehome i (some x.homePf) (some home) (d.modInst i fun x => { x with desc := new, homePf := home })
  else rehome i (if x.state = 1 then some x.homePf else none) (if new.isSome then some home else none)
    (d.modInst i fun x => { x with desc := new, homePf := home, state := if new.isSome then 1 else 0 })

/-- The resources that a physical function's new descriptor gives it are taken (R207); `d0` is the device before the flip. -/
def flipTake (m : Manifest) (d0 d : Dev) (p : Nat) : Dev :=
  if sameDesc (d0.inst p).desc (descOf m p) then d
  else match descOf m p with | some q => takeResources p q d | none => d

/-- The instances that a flip concerns: those that have something and those that a descriptor names. -/
def flipInsts (m : Manifest) (d : Dev) : List Nat :=
  (d.host.inst.map (·.1) ++ m.partition.map (·.inst)).foldl (fun l i => addSet i l) []

/-! ### Locks (R82, R89, R98) -/

/-- A lock takes its descriptor; one without is closed, and what waits in it is sluiced. -/
def flipLock (m : Manifest) (d : Dev) (l : Nat) : Dev :=
  match m.locks.find? fun x => x.lock == l with
  | some x => d.modLock l fun k => { k with size := x.granules, described := true, routeMap := x.routeMap, pauseOn := x.pauseOn, pauseOff := x.pauseOff,
                                            pauseEn := x.pauseEn }
  | none =>
    if (d.lock l).described then
      startSluice (some l) none false (d.modLock l fun k => { k with size := 0, described := false, routeMap := [], paused := false })
    else d

/-- Every lock of R81. -/
def allLocks : List Nat := (List.range 128).filter fun l => (lockKind l).isSome

/-! ### Steps across a flip (R387, R389, R404) -/

/-- Where the chunks of a new region were before, if the same region stood in the old manifest: first chunk new, first chunk old,
count. -/
def keptChunks (old new : List MasterRegion) : List (Nat × Nat × Nat) :=
  let starts (rs : List MasterRegion) : List (MasterRegion × Nat) :=
    (rs.foldl (fun (acc : List (MasterRegion × Nat) × Nat) r => (acc.1 ++ [(r, acc.2)], acc.2 + r.size / 65536)) ([], 0)).1
  (starts new).filterMap fun n => ((starts old).find? fun o => decide (o.1 = n.1)).map fun o => (n.2, o.2, n.1.size / 65536)

/-- A chunk's new number. -/
def newChunk (kept : List (Nat × Nat × Nat)) (c : Nat) : Option Nat :=
  kept.findSome? fun k => if k.2.1 ≤ c ∧ c < k.2.1 + k.2.2 then some (k.1 + (c - k.2.1)) else none

/-- A table by chunk under the new numbers. -/
def renumber (kept : List (Nat × Nat × Nat)) (t : Tab Nat) : Tab Nat :=
  t.foldl (fun r e => match newChunk kept e.1 with | some c => tput r c e.2 | none => r) []

/-- The target step of a rollback is brought about in the own and in the buddy copy (R404). -/
def toTarget (r : Rel) : Rel :=
  let flip (t : Tab Nat) (cs : List Nat) : Tab Nat := cs.foldl (fun t c => tset 0 t c (1 - tget 0 t c)) t
  let r := { r with dirty := [], filled := [], filling := [], attempt := 0, discards := 0 }
  if r.deltaSeen ∨ r.step = 0 then r
  else
    let held := decide (r.buddyApplied = some r.step)
    { r with committed := flip r.committed r.lastFlip, step := r.step - 1, lastFlip := [],
             buddyCommitted := if held then flip r.buddyCommitted r.buddyLast else r.buddyCommitted,
             buddyLast := if held then [] else r.buddyLast, buddyApplied := if held then none else r.buddyApplied, deltaSeen := true }

/-- The step machine at a flip. -/
def flipRel (m : Manifest) (old : List MasterRegion) (initial rollback : Bool) (r : Rel) : Rel :=
  let r := if rollback then toTarget r else r
  let kept := keptChunks old m.thr.masters
  let chunks (l : List Nat) : List Nat := l.filterMap (newChunk kept)
  let r : Rel := if initial then { r with step := 0, attempt := 0, discards := 0, committed := [], dirty := [], filled := [], filling := [],
                                          lastFlip := [], deltaSeen := true, ckptState := 0, snapshot := [], staged := [], buddyCommitted := [],
                                          buddySeeded := false, buddyApplied := none, buddyLast := [] }
    else { r with committed := renumber kept r.committed, lastFlip := chunks r.lastFlip, dirty := chunks r.dirty, filled := chunks r.filled,
                  filling := chunks r.filling, snapshot := chunks r.snapshot, snapBits := renumber kept r.snapBits, deltaOut := chunks r.deltaOut }
  { r with phase := if m.stepLockages = 0 then 0 else 1, suspect := false, ready := false, replay := false, posted := false, replayDue := false,
           commitDue := false, attempt := if r.phase = 5 then 0 else r.attempt, discards := if r.phase = 5 then 0 else r.discards,
           deltaDone := !rollback, groupStep := 0, groupBits := 0, groupMembers := 0, groupComplete := false, nanLimit := m.thr.nanLimit,
           deltaActive := r.deltaActive && !rollback && !initial, buddyOpen := r.buddyOpen && !rollback && !initial }

/-! ### The flip -/

/-- The lanes that SEALER_MODES gives. -/
def flipLanes (m : Manifest) (d : Dev) : Dev :=
  (List.range 48).foldl (fun d n =>
    let e := m.sealers.getD n {}
    d.modLane n fun x => { x with mode := e.mode, user := e.user, keySlot := e.keySlot, inst := e.inst }) d

/-- Clusters with a placed tile run at their DVFS point; the others are gated (R106, R429). -/
def flipClocks (m : Manifest) (d : Dev) : Dev :=
  let used (c : Nat) : Bool := (placedTiles m).any fun n => n / 33 == c
  (List.range 16).foldl (fun d c => d.modPower fun p => { p with domains := tmod {} p.domains c fun x =>
                                                                 if x.state = 3 then x else { x with state := if used c then 1 else 2, mhz := if used c then 25 * m.dvfs.getD c 24 else 600 } }) d

/-- A flip that changes or removes the TRACE region turns the trace off; what was buffered is lost (R420). -/
def flipTrace (old new : Option Region) (d : Dev) : Dev :=
  if old = new ∨ old = none ∨ d.obs.mode = 0 then d
  else
    let n := d.obs.buffer.length
    let d := d.modObs fun o => { o with mode := 0, stopped := true, buffer := [], lost := satAdd (2 ^ 32 - 1) o.lost n }
    if n = 0 then d else d.seen 17 0 2

/-- Everything but the tiles' and instances' part. -/
def flipTables (m : Manifest) (L : Nat) (d : Dev) : Dev :=
  let d := d.modCanal fun c => { c with
                                 active := c.shadow, shadow := c.active, program := 0, resident := List.range m.programs.length, overlays := [],
                                 switchDue := none, cycleStart := L }
  let d := d.modLocks fun k => { k with
                                 gates := k.gatesShadow, gatesShadow := k.gates, rotation := m.rotation, pools := m.pools, weights := m.weights,
                                 weightsDue := [], large := isLarge m.partition }
  let cap (p : Power) : Power := { p with capW := if m.thr.powerCap = 0 then 4000 else m.thr.powerCap }
  restartCounts (flipClocks m (flipLanes m (d.modPower cap)))

/-- The manifest that flips changes a KV_TABLES, KV_POOL or KV_WHARF region (R198). -/
def changesKv (m : Manifest) (d : Dev) : Bool :=
  [4, 5, 6].any fun k => decide (d.region k ≠ m.regions.find? fun r => r.kind == k)

/-- The serial of an accepted manifest is the highest of its key slot; the ledger's key area records it, unless nothing of the ledger can be
written (R35, R363, R364). -/
def recordSerial (m : Manifest) (d : Dev) : Dev :=
  let d := d.modManifest fun x => { x with serials := tput x.serials m.keySlot m.serial }
  if ledgerWorn d ∨ m.serial.toNat ≤ (tget 0 d.ledger.serials m.keySlot).toNat then d
  else keyAreaWrite (d.modLedger fun l => { l with serials := tput l.serials m.keySlot m.serial })

/-- Take the shadow copies over at the boundary of lockage L, with the alternates that go with them (R36 stage 5, R47). -/
def flip (v : Vault) (m : Manifest) (as : List Nat) (L : Nat) (d : Dev) : Dev :=
  let first := !d.canal.aligned
  let x := d.manifest
  let initial := x.active.isNone || !x.reload
  let held := if x.rollback then x.workHeld else false
  let old := d.thr.masters
  let buffer := d.region 3
  let used := usedFailed m x.heldFailed
  let d := if x.rollback || changesKv m d then dropReaches d else d
  let d := flipTrace (d.region 2) (m.regions.find? fun r => r.kind == 2) d
  let d := d.modRel (flipRel m old initial x.rollback)
  let d := d.modManifest fun x => { x with
                                    active := some m, stage := if x.rollback ∧ !initial then 6 else 0, code := 0, parsed := none, shadow := none,
                                    reload := false, rollback := false, sender := none, flipLockage := none, firstReady := none,
                                    membersReady := 0, mapReload := false, altDue := none, revertDue := false,
                                    altActive := [], failedSet := used,
                                    workHeld := if initial then false else held }
  let d := (List.range 528).foldl (flipTile m first) (flipTables m L (recordSerial m d))
  let d := [0, 1].foldl (flipTake m d) ((flipInsts m d).foldl (flipInst v m) d)
  let d := allLocks.foldl (flipLock m) d
  let d := allLocks.foldl (fun d l => pauseCheck l (reroute l d)) d
  let d := (endDetours d).modRing fun r => { r with folded := [], root := r.root || decide (m.groupSize ≤ 1) }
  let d := if 1 < m.groupSize then d.modRel fun r => { r with groupEpoch := r.groupEpoch + 1 } else d
  let d := moveBuffer buffer (d.region 3) (applyAlternates as d)
  match x.sender with
  | some (src, seq) => completionEvent src (if x.reload then 0x0101 else 0x0100) seq 0 0 (words [0]) d
  | none => d

/-- A load whose check fails at the flip ends (R47): outside a ready ring the member reports it all the same. -/
def flipOrEnd (v : Vault) (m : Manifest) (L : Nat) (d : Dev) : Dev :=
  match flipCheck m d with
  | some as => flip v m as L d
  | none => failLoad VCode.placementConflict.code 0xFF 0 d

end Sys2Proof.Machine
end

