-- ==== Sys2Proof/Machine/Boundary.lean ====
section
/-! DEFINITION. The lockage boundary (R63): fault actions, the step machine of R392, the flip, changes of program, stretch and
weights, and the lockage that begins. -/

namespace Sys2Proof.Machine

/-! ### Fault actions (R127) -/

/-- What a tile's faults have demanded takes effect: of the demands on the members of one logical tile, the highest (R127). -/
def tileActions (d : Dev) : Dev :=
  let due := (d.tiles.filter fun e => decide (3 ≤ e.2.actionDue)).map fun e =>
    (e.1, e.2.actionDue, max e.2.actionDue (match e.2.pair with | some m => (d.tile m).actionDue | none => 0))
  due.foldl (fun d e =>
    let d := d.modTile e.1 fun t => { t with actionDue := 0 }
    if e.2.1 < e.2.2 then d else if e.2.1 = 3 then failUnits [e.1] d else failDevice 3 d) d

/-- FAIL_TILE and FAIL_DEVICE take effect at the first boundary after detection. -/
def faultActions (d : Dev) : Dev :=
  let d := tileActions d
  if d.manifest.failDue then failDevice 3 (d.modManifest fun m => { m with failDue := false }) else d

/-! ### The step machine (R389–R392) -/

/-- Lockages from the step's start to the boundary of lockage L. -/
def stepOffset (d : Dev) (L : Nat) : Nat := if d.stepLockages = 0 then 0 else (L - d.canal.cycleStart) % d.stepLockages

/-- The group word as this member holds it for the step that runs: whether it is complete, and byte 8. -/
def groupWord (d : Dev) : Bool × Nat :=
  if d.groupSize ≤ 1 then (true, d.rel.own)
  else if d.rel.groupStep = d.rel.current then (d.rel.groupComplete, d.rel.groupBits) else (false, 0)

/-- During a replay only a word that shows it counts (log entry 84). -/
def wordInForce (d : Dev) : Bool := d.rel.phase != 3 || bit (groupWord d).2 3

/-- The complete group word lets the step commit. -/
def mayCommit (d : Dev) : Bool :=
  let w := groupWord d
  w.1 && bit w.2 1 && bit w.2 2 && !bit w.2 0 && wordInForce d

/-- The group word shows suspect. -/
def shownSuspect (d : Dev) : Bool := bit (groupWord d).2 0 && wordInForce d

/-- The placed tiles that run a logical tile. -/
def runningTiles (d : Dev) : List Nat := (d.tiles.filter fun e => e.2.logical.isSome && !e.2.follower && !e.2.failed).map (·.1)

/-- Change the event word of every placed tile. -/
def eventsAll (f : Tile → Tile) (d : Dev) : Dev := (runningTiles d).foldl (fun d n => d.modTile n f) d

/-- The step commits (R392 rule 1): every dirty chunk flips, event bit 31 is set, the commit may become the snapshot, and the delta
of the flipped chunks begins (R394). -/
def commitStep (d : Dev) : Dev :=
  let buddies := decide (1 < d.groupSize) && decide (d.thr.buddyIn ≠ 0)
  let alone := decide (d.groupSize ≤ 1)
  let flipped := d.rel.dirty
  let done (r : Rel) : Rel :=
    { r with committed := flipped.foldl (fun t c => tset 0 t c (1 - tget 0 t c)) r.committed, lastFlip := flipped, dirty := [], filled := [],
             step := r.step + 1, attempt := 0, discards := 0, suspect := false, ready := false, replay := false, posted := false,
             replayDue := false, commitDue := false, phase := 1, deltaSeen := alone, deltaDone := r.deltaDone && !buddies }
  let d := eventsAll (fun t => t.setEvent 31) (d.modRel done)
  let sorted := (List.range d.chunks).filter flipped.contains
  startDelta sorted false (takeSnapshot d)

/-- The 256 bytes of the step line (R389). -/
def stepLine (d : Dev) : Dev :=
  if d.rel.phase = 0 ∨ d.thr.stepLine = 0 then d
  else engineWrite none 0 d.thr.stepLine (fit 256 (leBytes 8 d.rel.current ++ leBytes 1 d.rel.attempt ++ leBytes 1 (b2n d.rel.replay))) false d

/-- The step is discarded (R392 rules 3 and 4) and runs again with attempt 1, or streams stay idle. -/
def discardStep (reason : Nat) (d : Dev) : Dev :=
  let final := decide (1 ≤ d.rel.discards)
  let d := post 0x1101 (unitBlock 4 16 127) 0 (syn [(32, 1, d.rel.attempt), (33, 1, b2n final), (34, 1, reason), (40, 8, d.rel.current)]) d
  let again (r : Rel) : Rel :=
    { r with phase := if final then 5 else 1, attempt := 1, discards := r.discards + 1, suspect := false, ready := false, replay := false,
             posted := false, replayDue := false, commitDue := false }
  let restart (st : Stream) : Stream := if final then { st with state := 0, wait := .none, policyRestart := false } else st.start
  let tile (t : Tile) : Tile := (List.range 4).foldl (fun t s => t.modStream s restart) ((t.clearEvent 30).clearEvent 31)
  eventsAll tile ((discardPending d).modRel again)

/-- The check line of a band lies outside it (R391 cause 2). -/
def bandFails (b : Band) (bs : Bytes) (poison : Bool) : Bool :=
  let x := fp32.decode (fieldLe bs 0 4)
  poison || x == .nan || Fp.lt x (fp32.decode b.low.toNat) || Fp.lt (fp32.decode b.high.toNat) x

/-- The bands are read. -/
def readBands (d : Dev) : Dev :=
  (numbered d.thr.bands).foldl (fun d e =>
    let x := memRead 0 e.2.line 4 d
    if bandFails e.2 x.1.1 x.1.2 then suspect 2 e.1 x.2 else x.2) d

/-- NaNs counted by the device's tiles since the step began (R391 cause 3). -/
def nansSince (d : Dev) : Nat :=
  ((d.tiles.filter fun e => e.2.logical.isSome).map fun e => (tget 0 e.2.counters 6 - e.2.nanAtStart).toNat).sum

/-- The verdict lockage begins (R391): the causes that are read at it, then ready. A word that shows delta_done clear has the last
delta sent again (R394). -/
def verdict (d : Dev) : Dev :=
  let d := d.modRel fun r => { r with phase := 2 }
  if d.manifest.workHeld then d
  else
    let d := readBands d
    let d := if d.rel.nanLimit ≠ 0xFFFFFFFF ∧ d.rel.nanLimit < nansSince d then suspect 3 0xFFFF d else d
    let again := decide (1 < d.groupSize) && (groupWord d).1 && !bit (groupWord d).2 2 && !d.rel.deltaActive
    let d := d.modRel fun r => { r with ready := true }
    if again then startDelta ((List.range d.chunks).filter d.rel.lastFlip.contains) false d else d

/-- Replay begins (R392 rule 2). -/
def startReplay (d : Dev) : Dev :=
  let on (r : Rel) : Rel := { r with phase := 3, suspect := false, ready := false, replay := true, replayDue := false }
  stepLine (eventsAll (fun t => t.setEvent 30) (d.modRel on))

/-- A commit that is due takes place once its fills are complete; a word that has become suspect meanwhile ends it. -/
def commitPart (d : Dev) : Dev :=
  if d.rel.commitDue = false then d
  else if d.rel.filling = [] then commitStep d
  else if shownSuspect d then d.modRel fun r => { r with commitDue := false, phase := if r.replay then 3 else 2 }
  else d

/-- What the step machine does at the boundary of lockage L before anything changes. -/
def stepDecision (L : Nat) (d : Dev) : Dev :=
  let off := stepOffset d L
  let t := d.thr
  if d.rel.phase = 0 ∨ d.rel.phase = 5 ∨ L ≤ d.canal.cycleStart then d
  else
    let d := commitPart d
    if off = 0 then
      if d.rel.phase = 1 ∨ d.manifest.workHeld then d
      else discardStep (if d.rel.phase = 3 ∧ shownSuspect d then 0 else 1) d
    else
      let d := if off = t.verdictOffset ∧ d.rel.phase = 1 then verdict d else d
      if d.manifest.workHeld ∨ d.rel.phase = 1 ∨ d.rel.commitDue then d
      else
        let d := if d.rel.phase = 2 ∧ off ≤ t.replayOffset ∧ shownSuspect d then d.modRel fun r => { r with replayDue := true } else d
        if d.rel.phase = 2 ∧ d.rel.replayDue then (if off = t.replayOffset then startReplay d else d)
        else
          let d := if d.rel.phase = 3 ∧ off = t.replayOffset + t.replayLockages ∧ d.rel.suspect = false
            then d.modRel fun r => { r with ready := true } else d
          if mayCommit d then d.modRel fun r => { r with commitDue := true, phase := 4 } else d

/-- Work that was held since a rollback may start (R405): the complete group word shows delta_done. -/
def releaseWork (d : Dev) : Dev :=
  let shown := if d.rel.phase = 0 then d.rel.deltaDone else (groupWord d).1 && bit (groupWord d).2 2
  if d.manifest.stage = 6 ∧ shown then d.modManifest fun m => { m with stage := 0, workHeld := false } else d

/-- A step-start lockage begins: held work may start, halted streams with the restart flag restart (R125), the NaN counts are noted,
the step line is written. -/
def startStep (d : Dev) : Dev :=
  let d := releaseWork d
  let again (st : Stream) : Stream := if st.policyRestart then st.start else st
  let tile (t : Tile) : Tile :=
    { (if d.rel.phase = 5 then t else (List.range 4).foldl (fun t s => t.modStream s again) t) with nanAtStart := tget 0 t.counters 6 }
  stepLine (eventsAll tile d)

/-! ### Stretching (R25, R26, R74–R77) -/

/-- The causes on this device that demand a factor. -/
def causesOf (p : Power) (f : Nat) : List Nat :=
  ([(p.demJunction, 1), (p.demCoolant, 2), (min p.demCap p.demThrottle, 3), (p.demVoltage, 4), (p.demCurrent, 5)].filter fun x => x.1 = f).map (·.2)

/-- The cause that governs a factor: the one named already if it still demands it, else the lowest. Another member's demand is known to
the root; on any other member a new factor that no own cause demands is another's, and a factor that stays keeps its cause until the
root names a new one (R75). -/
def causeOf (d : Dev) (f : Nat) : Nat :=
  if 1024 ≤ f then 0
  else
    let others := if d.power.demGroup = f then [6] else []
    match causesOf d.power f ++ others with
    | [] => if f = d.canal.f then d.canal.cause else 6
    | c :: cs => if (c :: cs).contains d.canal.cause then d.canal.cause else c

/-- f_c and n of a factor (R74). -/
def stretchOf (f : Nat) : Nat × Nat := if 256 ≤ f then (f, 0) else let n := (256 + f - 1) / max 1 f - 1; (f * (n + 1), n)

/-- The instances with an owned or rotated slot or pool membership at a lock in the running program (R99). -/
def derated (d : Dev) : List Nat :=
  let mine := d.locks.gates.filter fun e => decide (e.1 / 1024 % 8 = d.program) && !(d.lock (e.1 / 8192)).closed
  let add (l : List Nat) (xs : List Nat) : List Nat := xs.foldl (fun l i => addSet i l) l
  mine.foldl (fun l e =>
    let w := e.2.toNat
    let l := if bits w 1 0 = 1 then addSet (bits w 11 2) l
      else if bits w 1 0 = 2 then add l (d.locks.rotation.getD (bits w 11 2) [])
      else if bits w 1 0 = 3 then add l (poolList d (bits w 7 2)) else l
    if bits w 1 0 ≠ 0 ∧ bits w 1 0 ≠ 3 ∧ bit w 30 then add l (poolList d (bits w 29 24)) else l) []

/-- THROTTLE_OUT# follows the applied factor (R424). -/
def throttlePin (d : Dev) : Dev :=
  let on := decide (d.canal.f < 1024)
  if d.power.throttleOut = on then d else (d.modPower fun p => { p with throttleOut := on }).emit (.pin "THROTTLE_OUT" on)

/-- The canal clocks run at f_c × 1.5625 MHz. -/
def canalClocks (fc : Nat) (p : Power) : Power :=
  { p with domains := (List.range 6).foldl (fun t i => tmod {} t (16 + i) fun x => { x with mhz := fc * 25 / 16 }) p.domains }

/-- A factor or a governing cause that has changed takes effect at the boundary of lockage L. -/
def stretchPart (L : Nat) (d : Dev) : Dev :=
  let due := match d.canal.stretchDue with | some s => if s.1 ≤ L then some s.2 else none | none => none
  let f := due.getD d.canal.f
  let cause := causeOf d f
  let d := if due.isSome then d.modCanal fun c => { c with stretchDue := none } else d
  if f = d.canal.f ∧ cause = d.canal.cause then d
  else
    let prev := d.canal.f
    let x := stretchOf f
    let d := (d.modCanal fun c => { c with f := f, fc := x.1, n := x.2, cause := cause }).modPower (canalClocks x.1)
    throttlePin (postDerate f prev cause (derated d) d)

/-! ### Changes of program (R72) -/

/-- The rings of some armed detours are open from now on, and the links that they name are detoured. -/
def openRings (due : List (Nat × Nat × Nat × Nat)) (d : Dev) : Dev :=
  due.foldl (fun d a =>
    let named (k : Nat) : Bool := decide (linkRing k = a.2.1 ∧ lowerPos d k = a.2.2.1)
    let d := [0, 1, 2, 3].foldl (fun d k => if named k then d.modLink k fun l => { l with detoured := true } else d) d
    d.modRing fun r => { r with folded := addSet a.2.1 r.folded, chains := addSet a.2.1 r.chains }) d

/-- Detours armed for lockage L are taken (R301). -/
def takeDetours (L : Nat) (d : Dev) : Dev :=
  let due := d.ring.armed.filter fun a => decide (a.2.2.2 ≤ L)
  if due = [] then d
  else openRings due <| applyAlternates (due.map (·.1)) ((d.seen 12 0 3).modRing fun r => { r with armed := r.armed.filter fun a => !decide (a.2.2.2 ≤ L) })

/-- CANAL_SCHED_CTRL. -/
def schedCtrl : Nat := 0x1000010

/-- An expert switch is requested. -/
def expertSwitch (d : Dev) : Bool := (d.csrGet schedCtrl).getLsbD 4

/-- The request bit clears. -/
def endSwitch (d : Dev) : Dev := d.csrSet schedCtrl (d.csrGet schedCtrl &&& ~~~16#64)

/-- The entries of program q in one bank, with those of every other program in another. -/
def withBank {α : Type} (q : Nat) (own rest : Tab α) : Tab α :=
  (own.filter fun e => decide (e.1 / 1024 % 8 = q)).foldl (fun t e => tput t e.1 e.2) (rest.filter fun e => !decide (e.1 / 1024 % 8 = q))

/-- A program's shadow bank becomes its active bank, and every lock's shadow gate table for it with it (R80, R102); the banks
change places, as at a flip (log entry 89). -/
def takeShadow (q : Nat) (d : Dev) : Dev :=
  (d.modCanal fun c => { c with
                        active := withBank q c.shadow c.active, shadow := withBank q c.active c.shadow }).modLocks fun k =>
    { k with gates := withBank q k.gatesShadow k.gates, gatesShadow := withBank q k.gates k.gatesShadow }

/-- Switches on command and at expert level (R79, R80): discarded when a higher cause has changed the program at this boundary, and
the expert one also when a commanded one is taken. -/
def switchPart (L : Nat) (higher : Bool) (d : Dev) : Dev :=
  let commanded := if isStepStart d L then d.canal.switchDue else none
  let lost := expertSwitch d && (higher || commanded.isSome)
  let d := if commanded.isSome then d.modCanal fun c => { c with switchDue := none } else d
  let d := if lost then (endSwitch d).seen 3 0 5 else d
  match commanded with
  | some q => if higher then d else runProgram q d
  | none =>
    if expertSwitch d then
      let w := (d.csrGet schedCtrl).toNat
      let d := if bit w 3 then takeShadow (bits w 2 0) d else d
      runProgram (bits w 2 0) (endSwitch d)
    else d

/-- A revert that is due takes place unless an alternate has been applied at this boundary or a unit has become unhealthy. -/
def revertPart (L : Nat) (higher : Bool) (d : Dev) : Dev :=
  if d.manifest.revertDue = false ∨ isStepStart d L = false then d
  else if higher ∨ (d.manifest.failedSet.any d.manifest.unhealthy.contains) = true then d.modManifest fun m => { m with revertDue := false }
  else revert d

/-- A load in stage 5 flips at the boundary of lockage L (R36, R46, R48): a reload without rollback at a step start, any other at the
next boundary; one by CMD_MANIFEST_LOAD is an initial load, also with a manifest in force (log entry 105). -/
def flipNow (m : Manifest) (L : Nat) (d : Dev) : Bool :=
  if 1 < m.groupSize then d.ring.ready && (match d.manifest.flipLockage with | some x => decide (x ≤ L) | none => false)
  else d.manifest.active.isNone || d.manifest.rollback || !d.manifest.reload || isStepStart d L

/-- The flip part: the load that flips, if one does. -/
def flipDue (L : Nat) (d : Dev) : Option Manifest :=
  if d.manifest.stage ≠ 5 then none
  else match d.manifest.shadow with
    | some m => if flipNow m L d then some m else none
    | none => none

/-- Held read data for whose route the new program has no slot is discarded at the boundary (R176). -/
def dropAtSwitch (flipped : Bool) (before d : Dev) : Dev :=
  if flipped || decide (d.canal.program ≠ before.canal.program ∨ d.canal.overlays ≠ before.canal.overlays) then
    (List.range 20).foldl (fun d u => dropSlotless u d) d
  else d

/-- Flip, alternates and detours, revert and switches, in the order of R72. -/
def programPart (v : Vault) (L : Nat) (d : Dev) : Dev :=
  let before := d
  let m := flipDue L d
  let flipped := match m with | some m => (flipCheck m d).isSome | none => false
  let d := match m with | some m => flipOrEnd v m L d | none => d
  let alt := d.manifest.altDue
  let armed := d.ring.armed.any fun a => decide (a.2.2.2 ≤ L)
  let d := match alt with | some as => if flipped then d.modManifest fun x => { x with altDue := none } else replaceAlternates as d | none => d
  let d := takeDetours L d
  let higher := flipped || alt.isSome || armed
  let back := d.manifest.revertDue && isStepStart d L
  dropAtSwitch flipped before (switchPart L (higher || back) (revertPart L higher d))

/-- Weights set by command take effect at admission and egress together (R88). -/
def weightsPart (d : Dev) : Dev :=
  d.modLocks fun k => { k with weights := k.weightsDue.foldl (fun t e => tset 1 t e.1 e.2) k.weights, weightsDue := [] }

/-! ### The boundary (R63, R73, R74) -/

/-- Slot 0 of a lockage comes next: barges still on a link, which a checked program has none of, keep their order. -/
def newLockage (dwell : Bool) (d : Dev) : Dev :=
  d.modCanal fun c => { c with slot := 0, dwell := dwell,
                               flights := c.flights.map fun f => { f with slot := f.slot - 1024 },
                               deliveries := c.deliveries.map fun x => { x with slot := x.slot - 1024 } }

/-- Ring-ready is reached: a factor that the device demanded while it had no group goes to the root from now on (R75). -/
def groupDemand (d : Dev) : Dev := demandChanged 1024 (d.modCanal fun c => { c with stretchDue := none })

/-- The first flip aligns the slot counters: lockage 0 begins at a cluster time. -/
def firstFlip (v : Vault) (m : Manifest) (epoch : Word) (ring : Bool) (d : Dev) : Dev :=
  match flipCheck m d with
  | none => failLoad VCode.placementConflict.code 0xFF 0 (d.modRing fun r => { r with zeroTime := none })
  | some as =>
    let d := flip v m as 0 d
    let d := d.modCanal fun c => { c with aligned := true, lockage := 0, slot := 0, dwell := false, epoch := epoch, dwellLeft := c.n,
                                          beganNs := d.time.ns, beganFrac := d.time.frac }
    let d := if ring then groupDemand ((d.modRing fun r => { r with ready := true, zeroTime := none }).modRel fun r => { r with groupEpoch := 0 }) else d
    startStep d

/-- A scheduled lockage begins. -/
def scheduledBoundary (v : Vault) (d : Dev) : Dev :=
  let L := d.canal.lockage + 1
  let d := weightsPart (stepDecision L (faultActions d))
  let d := stretchPart L (programPart v L d)
  let d := newLockage false (d.modCanal fun c => { c with lockage := L, dwellLeft := c.n, beganNs := d.time.ns, beganFrac := d.time.frac })
  if isStepStart d L then startStep d else d

/-- LOCKAGE_BOUNDARY: a dwell lockage begins while some are left; otherwise a scheduled one. Before the first flip nothing is
aligned, and only the initial load of a device on its own acts. -/
def boundary (v : Vault) (d : Dev) : Dev :=
  if d.canal.aligned = false then
    match d.manifest.shadow with
    | some m => if d.manifest.stage = 5 ∧ m.groupSize ≤ 1 then firstFlip v m d.time.ns false d else d
    | none => d
  else if d.canal.slot < 1024 then d
  else if 0 < d.canal.dwellLeft then newLockage true (faultActions (d.modCanal fun c => { c with dwellLeft := c.dwellLeft - 1 }))
  else scheduledBoundary v d

/-- LOCKAGE_ZERO (R307): the broadcast time of lockage 0 has come. -/
def lockageZero (v : Vault) (d : Dev) : Dev :=
  match d.ring.zeroTime, d.manifest.shadow with
  | some t, some m =>
    if d.manifest.stage = 5 ∧ 1 < m.groupSize ∧ d.ring.ready = false ∧ t.toNat ≤ d.time.ns.toNat then firstFlip v m t true d else d
  | _, _ => d

def execLockageBoundary (s : State) : Host.Outcome State Fault Refusal := onDevV boundary s

def execLockageZero (s : State) : Host.Outcome State Fault Refusal := onDevV lockageZero s

end Sys2Proof.Machine
end

