-- ==== Sys2Proof/Machine/Observe.lean ====
section
/-! DEFINITION. Counters, samples and the trace (chapter 19). -/

namespace Sys2Proof.Machine

/-! ### Counters (R412) -/

/-- Counter i of core k's set: counters 0–2 are the low halves of CYCLE, RETIRED and WRONGPATH_FETCH. -/
def coreCounter (d : Dev) (k i : Nat) : W32 :=
  let c := d.core k
  if i = 0 then c.cycle.setWidth 32 else if i = 1 then c.retired.setWidth 32 else if i = 2 then c.wrongpath.setWidth 32
  else tget 0 c.counters i

/-- Core k latches its counters (R413). -/
def latchCore (k : Nat) (command : Nat) (ends : Bool) (d : Dev) : Dev :=
  traceRecord 0 (counterRecord d (2 + b2n ends) 255 (unitBlock (coreDie k) 15 k) command 0xFFFF ((List.range 8).map (coreCounter d k))) d

/-! ### Samples (R415, R416) -/

/-- The stall code of a stream: what only timing decides is free. -/
def stallOf (st : Stream) (d : Dev) : Nat × Dev :=
  if st.state = 1 then let x := d.draw Config.streamStall; (x.1.val, x.2)
  else if st.state = 2 then
    (match st.wait with | .slot _ _ => 5 | .event _ => 6 | .fence => 7 | .engine => 4 | .none => 8, d)
  else (8, d)

/-- The stall code of a core. -/
def coreStallOf (k : Nat) (d : Dev) : Nat × Dev :=
  let s := (d.coreCtl k).state
  if s = 2 then (21, d)
  else if s = 4 then (22, d)
  else if s = 1 then
    if (d.core k).waiting then (17, d)
    else let x := d.draw Config.coreStall; ([16, 18, 19, 20].getD x.1.val 16, x.2)
  else let x := d.draw Config.deadCoreStall; (x.1.toNat, x.2)

/-- Bytes 16–63 of a sample. -/
def sampleTail (d : Dev) (stalls : Bytes) : Bytes :=
  leBytes 8 d.time.ns.toNat ++ fit 4 stalls ++ leBytes 4 d.stepField ++ List.replicate 32 0

/-- One tile forms its sample. -/
def sampleTile (d : Dev) (n : Nat) : Dev :=
  let st (s : Nat) : Stream := (d.tile n).stream s
  let x := (List.range 4).foldl (fun (acc : Bytes × Dev) s => let r := stallOf (st s) acc.2; (acc.1 ++ leBytes 1 r.1, r.2)) ([], d)
  traceRecord 1 (leBytes 2 4 ++ [0, 0] ++ leBytes 4 (d.unitTile n).toNat ++ ((List.range 4).flatMap fun s => leBytes 2 (st s).pc.toNat) ++
    sampleTail d x.1) x.2

/-- One core forms its sample. -/
def sampleCore (d : Dev) (k : Nat) : Dev :=
  let x := coreStallOf k d
  traceRecord 1 (leBytes 2 4 ++ [1, 0] ++ leBytes 4 (unitBlock (coreDie k) 15 k).toNat ++ leBytes 8 (d.core k).pc.toNat ++
    sampleTail d (leBytes 1 x.1)) x.2

/-- At slot 0 of a scheduled lockage whose count is a multiple of the period, every selected unit forms one sample. -/
def sampleInstant (d : Dev) : Dev :=
  let o := d.obs
  if d.canal.aligned = false ∨ d.canal.dwell ∨ d.canal.slot ≠ 0 ∨ o.period = 0 ∨ d.canal.lockage % o.period ≠ 0 ∨ o.sampledAt = d.canal.lockage + 1 then d
  else
    let tiles := (d.tiles.filter fun e => e.2.logical.isSome && !e.2.follower && o.clusters.getLsbD (clusterOf e.1)).map (·.1)
    let cores := (List.range 19).filter fun k => o.coreMask.getLsbD k
    let d := d.modObs fun o => { o with sampledAt := d.canal.lockage + 1 }
    if d.obs.visible then cores.foldl sampleCore (tiles.foldl sampleTile d) else d

/-! ### The trace (R417, R418) -/

/-- A trace starts: the region is zeroed and the position returns to record 0. -/
def startTrace (d : Dev) : Dev :=
  let d := d.modObs fun o => { o with next := 0, wraps := 0, stopped := false, buffer := [] }
  match d.region 2 with | some g => zeroSpan g.base g.size d | none => d

/-- Set mode and sources; a mode that writes starts a trace. -/
def setTrace (mode sources : Nat) (start : Bool) (d : Dev) : Dev :=
  let d := d.modObs fun o => { o with mode := mode, sources := sources % 8 }
  if start ∨ mode ≠ 0 then startTrace d else d

/-- Set what is sampled, and how often. -/
def setSamples (period : Nat) (clusters : BitVec 16) (cores : BitVec 19) (d : Dev) : Dev :=
  d.modObs fun o => { o with period := period, clusters := clusters, coreMask := cores }

/-! ### Commands -/

def execSampleInstant (s : State) : Host.Outcome State Fault Refusal := onDev sampleInstant s

/-- CMD_TRACE_SET: without a TRACE region there is nothing to start (log entry 91). -/
def execCmdTraceSet (c : Cmd) (mode sources : Nat) (s : State) : Host.Outcome State Fault Refusal :=
  onDev (mailbox c { block := some 17 } fun d =>
    if d.obs.visible = false ∨ 2 < mode ∨ 7 < sources ∨ (mode ≠ 0 ∧ d.region 2 = none) then (fail .invalid, d)
    else (ok [], setTrace mode sources false d)) s

def execCmdTraceStatus (c : Cmd) (s : State) : Host.Outcome State Fault Refusal :=
  onDev (query c { i3c := true } fun d =>
    let o := d.obs
    if o.visible = false then fail .invalid else ok [o.mode, o.next, o.wraps.toNat, o.lost, b2n o.stopped]) s

def execCmdSampleSet (c : Cmd) (period clusters cores : Nat) (s : State) : Host.Outcome State Fault Refusal :=
  onDev (mailbox c { block := some 17 } fun d =>
    if d.obs.visible = false ∨ 65535 < period ∨ 2 ^ 16 ≤ clusters ∨ 2 ^ 19 ≤ cores then (fail .invalid, d)
    else (ok [], setSamples period (BitVec.ofNat 16 clusters) (BitVec.ofNat 19 cores) d)) s

/-- CMD_COUNTERS_READ: of a physical tile, or of a core. -/
def execCmdCountersRead (c : Cmd) (core : Bool) (unit : Nat) (s : State) : Host.Outcome State Fault Refusal :=
  onDev (query c { i3c := true } fun d =>
    if d.obs.visible = false ∨ (if core then 18 else 527) < unit then fail .invalid
    else ok ((List.range 8).map fun i => (if core then coreCounter d unit i else d.tileCounter unit i).toNat)) s

end Sys2Proof.Machine
end

