-- ==== Sys2Proof/Machine/RegMap.lean ====
section
/-! DEFINITION. The register maps of every block: for each register its offset in the block (or in the window of a unit), the bits
that are not reserved, and its fields that a write can reach. Fields that are not listed are read-only. -/

namespace Sys2Proof.Machine

/-- Access codes of fields that a write can reach (R6). The maps have no RWM, W1S or RWS field. -/
inductive Acc where
  | rw | rwx | w1c | wo
  deriving DecidableEq, Repr

/-- A field: its highest and lowest bit. -/
structure Fld where
  hi : Nat
  lo : Nat
  acc : Acc
  deriving DecidableEq, Repr

/-- A register of a map: offset, mask of the bits that are not reserved, fields that a write can reach. -/
structure RegRow where
  off : Nat
  defined : Nat
  fields : List Fld
  deriving DecidableEq, Repr

/-- The registers of IDENT. -/
def regsIdent : List RegRow :=
  [⟨0x0, 0xFFFFFFFFFF, []⟩,  -- IDENT_ID
   ⟨0x8, 0x3, [⟨0, 0, .w1c⟩, ⟨1, 1, .w1c⟩]⟩,  -- IDENT_STATUS
   ⟨0x10, 0xF0FFF1F03FF, []⟩,  -- IDENT_CAPACITY
   ⟨0x18, 0xFFFFFFFFFFFFFFFF, []⟩,  -- IDENT_TILE_FUSE0
   ⟨0x20, 0xFFFFFFFFFFFFFFFF, []⟩,  -- IDENT_TILE_FUSE1
   ⟨0x28, 0xFFFFFFFFFFFFFFFF, []⟩,  -- IDENT_TILE_FUSE2
   ⟨0x30, 0xFFFFFFFFFFFFFFFF, []⟩,  -- IDENT_TILE_FUSE3
   ⟨0x38, 0xFFFFFFFFFFFFFFFF, []⟩,  -- IDENT_TILE_FUSE4
   ⟨0x40, 0xFFFFFFFFFFFFFFFF, []⟩,  -- IDENT_TILE_FUSE5
   ⟨0x48, 0xFFFFFFFFFFFFFFFF, []⟩,  -- IDENT_TILE_FUSE6
   ⟨0x50, 0xFFFFFFFFFFFFFFFF, []⟩,  -- IDENT_TILE_FUSE7
   ⟨0x58, 0xFFFF, []⟩,  -- IDENT_TILE_FUSE8
   ⟨0x60, 0xFFFFFFFFFFFFFFFF, []⟩]  -- IDENT_SERIAL

/-- The registers of MAILBOX. -/
def regsMailbox : List RegRow :=
  [⟨0x0, 0xFFFFFF, []⟩,  -- MAILBOX_ID
   ⟨0x8, 0xFFFFFFFF00000003, [⟨0, 0, .w1c⟩, ⟨1, 1, .w1c⟩]⟩]  -- MAILBOX_STATUS

/-- The registers of MANIFEST. -/
def regsManifest : List RegRow :=
  [⟨0x0, 0xFFFFFFFF, []⟩,  -- MANIFEST_ID
   ⟨0x8, 0x1F, [⟨0, 0, .w1c⟩, ⟨1, 1, .w1c⟩, ⟨2, 2, .w1c⟩]⟩,  -- MANIFEST_STATUS
   ⟨0x10, 0xFFFFFFFFFFFFFFFF, []⟩,  -- MANIFEST_ACTIVE_SERIAL
   ⟨0x18, 0xFFFFFFFFFFFFFFFF, []⟩,  -- MANIFEST_ACTIVE_JOB
   ⟨0x20, 0xFFFFFF0F, []⟩,  -- MANIFEST_LOAD_STATE
   ⟨0x28, 0x1FFFFFF, []⟩,  -- MANIFEST_ERROR_OFFSET
   ⟨0x30, 0xFFFFFFFFFFFFFFFF, []⟩,  -- MANIFEST_ALT_ACTIVE
   ⟨0x38, 0x7, []⟩,  -- MANIFEST_PROGRAM
   ⟨0x40, 0x7FFFF, []⟩]  -- MANIFEST_EXPERT_STATE

/-- The registers of CANAL. -/
def regsCanal : List RegRow :=
  [⟨0x0, 0xFFFFFFFF, []⟩,  -- CANAL_ID
   ⟨0x8, 0x7F, [⟨0, 0, .w1c⟩, ⟨1, 1, .w1c⟩, ⟨2, 2, .w1c⟩, ⟨3, 3, .w1c⟩, ⟨4, 4, .w1c⟩, ⟨5, 5, .w1c⟩]⟩,  -- CANAL_STATUS
   ⟨0x10, 0x1F, [⟨2, 0, .rwx⟩, ⟨3, 3, .rwx⟩, ⟨4, 4, .rwx⟩]⟩,  -- CANAL_SCHED_CTRL
   ⟨0x18, 0x3FF0FF7, []⟩,  -- CANAL_SCHED_STATE
   ⟨0x20, 0xFFFFFFFFFFFFFFFF, []⟩,  -- CANAL_LOCKAGE_COUNT
   ⟨0x28, 0xFFFF07FF07FF, []⟩,  -- CANAL_STRETCH
   ⟨0x30, 0x3FFFFF, [⟨2, 0, .rwx⟩, ⟨12, 3, .rwx⟩, ⟨17, 13, .rwx⟩, ⟨20, 18, .rwx⟩, ⟨21, 21, .rwx⟩]⟩,  -- CANAL_TBL_ADDR
   ⟨0x38, 0xFFFFFFFFFFFFFFFF, [⟨63, 0, .rwx⟩]⟩,  -- CANAL_TBL_DATA
   ⟨0x40, 0xFFFFFFFFFFFFFFFF, []⟩,  -- CANAL_ERR_COUNT
   ⟨0x48, 0xFFFFFFFFFF7FFFFF, []⟩,  -- CANAL_ERR_LAST
   ⟨0x50, 0xFFFFFFFFFFFFFFFF, []⟩,  -- CANAL_LOCKAGE_EPOCH
   ⟨0x58, 0x7FF, [⟨4, 0, .rw⟩, ⟨10, 5, .rw⟩]⟩,  -- CANAL_LINK_SELECT
   ⟨0x60, 0xFFFFFFFFFF, []⟩]  -- CANAL_LINK_CRC

/-- The registers of LOCKS. -/
def regsLocks : List RegRow :=
  [⟨0x0, 0xFFFFFFFF, []⟩,  -- LOCKS_ID
   ⟨0x8, 0x1F, [⟨0, 0, .w1c⟩, ⟨1, 1, .w1c⟩, ⟨2, 2, .w1c⟩, ⟨3, 3, .w1c⟩]⟩,  -- LOCKS_STATUS
   ⟨0x10, 0xFFF0001, []⟩,  -- LOCKS_CONFIG
   ⟨0x18, 0x7F, [⟨6, 0, .rw⟩]⟩,  -- LOCKS_SELECT
   ⟨0x20, 0x7FFFFFF, []⟩,  -- LOCKS_CHAMBER
   ⟨0x28, 0x1FFFFFF, [⟨11, 0, .rwx⟩, ⟨23, 12, .rwx⟩, ⟨24, 24, .rwx⟩]⟩,  -- LOCKS_PRESSURE
   ⟨0x30, 0xFFFFFFFFFFFFFFFF, []⟩,  -- LOCKS_COUNTS
   ⟨0x38, 0x1FFFFF, [⟨9, 0, .rwx⟩, ⟨16, 10, .rwx⟩, ⟨19, 17, .rwx⟩, ⟨20, 20, .rwx⟩]⟩,  -- LOCKS_GATE_ADDR
   ⟨0x40, 0xFFFFFFFF, [⟨31, 0, .rwx⟩]⟩,  -- LOCKS_GATE_DATA
   ⟨0x48, 0xFFF, [⟨9, 0, .rwx⟩, ⟨10, 10, .rwx⟩, ⟨11, 11, .rwx⟩]⟩,  -- LOCKS_SLUICE
   ⟨0x50, 0xFFFFFFFF00FF07FF, []⟩,  -- LOCKS_DERATE
   ⟨0x80, 0xFFFFFFFFFFFFFFFF, []⟩,  -- LOCKS_DERATE_SET0
   ⟨0x88, 0xFFFFFFFFFFFFFFFF, []⟩,  -- LOCKS_DERATE_SET1
   ⟨0x90, 0xFFFFFFFFFFFFFFFF, []⟩,  -- LOCKS_DERATE_SET2
   ⟨0x98, 0xFFFFFFFFFFFFFFFF, []⟩,  -- LOCKS_DERATE_SET3
   ⟨0xA0, 0xFFFFFFFFFFFFFFFF, []⟩,  -- LOCKS_DERATE_SET4
   ⟨0xA8, 0xFFFFFFFFFFFFFFFF, []⟩,  -- LOCKS_DERATE_SET5
   ⟨0xB0, 0xFFFFFFFFFFFFFFFF, []⟩,  -- LOCKS_DERATE_SET6
   ⟨0xB8, 0xFFFFFFFFFFFFFFFF, []⟩,  -- LOCKS_DERATE_SET7
   ⟨0xC0, 0xFFFFFFFFFFFFFFFF, []⟩,  -- LOCKS_DERATE_SET8
   ⟨0xC8, 0xFFFFFFFFFFFFFFFF, []⟩,  -- LOCKS_DERATE_SET9
   ⟨0xD0, 0xFFFFFFFFFFFFFFFF, []⟩,  -- LOCKS_DERATE_SET10
   ⟨0xD8, 0xFFFFFFFFFFFFFFFF, []⟩,  -- LOCKS_DERATE_SET11
   ⟨0xE0, 0xFFFFFFFFFFFFFFFF, []⟩,  -- LOCKS_DERATE_SET12
   ⟨0xE8, 0xFFFFFFFFFFFFFFFF, []⟩,  -- LOCKS_DERATE_SET13
   ⟨0xF0, 0xFFFFFFFFFFFFFFFF, []⟩,  -- LOCKS_DERATE_SET14
   ⟨0xF8, 0xFFFFFFFFFFFFFFFF, []⟩]  -- LOCKS_DERATE_SET15

/-- The registers of TILES. -/
def regsTiles : List RegRow :=
  [⟨0x0, 0xF03FFFFFF, []⟩,  -- TILES_ID
   ⟨0x8, 0x3F, [⟨0, 0, .w1c⟩, ⟨1, 1, .w1c⟩, ⟨2, 2, .w1c⟩, ⟨3, 3, .w1c⟩, ⟨4, 4, .w1c⟩]⟩,  -- TILES_STATUS
   ⟨0x10, 0xFFFF3FFFFF, []⟩,  -- TILES_BINDING
   ⟨0x18, 0x1FFFFFFFFF, []⟩,  -- TILES_SPILL
   ⟨0x20, 0xFFFFFFFFFFFF7FFF, []⟩,  -- TILES_STREAM0
   ⟨0x28, 0xFFFFFFFFFFFF7FFF, []⟩,  -- TILES_STREAM1
   ⟨0x30, 0xFFFFFFFFFFFF7FFF, []⟩,  -- TILES_STREAM2
   ⟨0x38, 0xFFFFFFFFFFFF7FFF, []⟩,  -- TILES_STREAM3
   ⟨0x40, 0xFF, [⟨3, 0, .rwx⟩, ⟨7, 4, .rwx⟩]⟩,  -- TILES_STREAM_CTRL
   ⟨0x48, 0xFFFFF7FFFF, []⟩,  -- TILES_FAULT
   ⟨0x50, 0xFFFFFFFFFFFFFFFF, []⟩,  -- TILES_ERR_COUNT
   ⟨0x58, 0xFFF, [⟨11, 0, .rwx⟩]⟩,  -- TILES_OPSTORE_ADDR
   ⟨0x60, 0xFFFFFFFFFFFFFFFF, [⟨63, 0, .rwx⟩]⟩]  -- TILES_OPSTORE_DATA

/-- The registers of HBM. -/
def regsHbm : List RegRow :=
  [⟨0x0, 0xFF0007FFFF, []⟩,  -- HBM_ID
   ⟨0x8, 0x7F, [⟨0, 0, .w1c⟩, ⟨1, 1, .w1c⟩, ⟨2, 2, .w1c⟩, ⟨3, 3, .w1c⟩, ⟨4, 4, .w1c⟩]⟩,  -- HBM_STATUS
   ⟨0x10, 0x3FF03FF001F, []⟩,  -- HBM_CONFIG
   ⟨0x18, 0xFFFFFFFFFFFFFFFF, []⟩,  -- HBM_ERR_COUNT
   ⟨0x20, 0x1F, [⟨4, 0, .rw⟩]⟩,  -- HBM_CE_LOG_SEL
   ⟨0x28, 0x80FFFFFFFFFFFFFF, []⟩,  -- HBM_CE_LOG_ENTRY
   ⟨0x30, 0xFFFFFFFFFFFFFFFF, []⟩,  -- HBM_CE_LOG_TIME
   ⟨0x38, 0x7, [⟨0, 0, .rwx⟩, ⟨2, 1, .rwx⟩]⟩,  -- HBM_SCRUB_CTRL
   ⟨0x40, 0x7FFFFF007FFFFF, [⟨22, 0, .rwx⟩, ⟨54, 32, .rwx⟩]⟩,  -- HBM_SCRUB_RANGE
   ⟨0x48, 0xFFFFFFFF00FFFFFF, []⟩,  -- HBM_SCRUB_STATE
   ⟨0x50, 0xFFFFFFFFFFFFFFFF, []⟩,  -- HBM_SCRUB_SUMMARY0
   ⟨0x58, 0xFFFFFFFFFFFFFFFF, []⟩,  -- HBM_SCRUB_SUMMARY1
   ⟨0x60, 0xFFFFFFFFFFFFFFFF, []⟩,  -- HBM_SCRUB_SUMMARY2
   ⟨0x68, 0xFFFFFFFFFFFFFFFF, []⟩,  -- HBM_SCRUB_SUMMARY3
   ⟨0x70, 0xFFFFFFFFFFFFFFFF, []⟩,  -- HBM_SCRUB_SUMMARY4
   ⟨0x78, 0xFFFFFFFFFFFFFFFF, []⟩,  -- HBM_SCRUB_SUMMARY5
   ⟨0x80, 0xFFFFFFFFFFFFFFFF, []⟩,  -- HBM_SCRUB_SUMMARY6
   ⟨0x88, 0xFFFFFFFFFFFFFFFF, []⟩,  -- HBM_SCRUB_SUMMARY7
   ⟨0x90, 0xFFFFFFFFFF7F, []⟩,  -- HBM_MERGE
   ⟨0x98, 0xFFFFFFFFFFFF, [⟨9, 0, .rwx⟩, ⟨10, 10, .rwx⟩, ⟨12, 11, .rwx⟩, ⟨13, 13, .rwx⟩]⟩,  -- HBM_TEST_CTRL
   ⟨0xA0, 0xFFFFFFFFFFFFFFFF, [⟨63, 0, .rwx⟩]⟩,  -- HBM_TEST_DATA0
   ⟨0xA8, 0xFFFFFFFFFFFFFFFF, [⟨63, 0, .rwx⟩]⟩,  -- HBM_TEST_DATA1
   ⟨0xB0, 0xFFFFFFFFFFFFFFFF, [⟨63, 0, .rwx⟩]⟩,  -- HBM_TEST_DATA2
   ⟨0xB8, 0xFFFFFFFFFFFFFFFF, [⟨63, 0, .rwx⟩]⟩,  -- HBM_TEST_DATA3
   ⟨0xC0, 0xFFFFFFFFFFFFFFFF, [⟨63, 0, .rwx⟩]⟩,  -- HBM_TEST_DATA4
   ⟨0xC8, 0xFFFFFFFFFFFFFFFF, [⟨63, 0, .rwx⟩]⟩,  -- HBM_TEST_DATA5
   ⟨0xD0, 0xFFFFFFFFFFFFFFFF, [⟨63, 0, .rwx⟩]⟩,  -- HBM_TEST_DATA6
   ⟨0xD8, 0xFFFFFFFFFFFFFFFF, [⟨63, 0, .rwx⟩]⟩,  -- HBM_TEST_DATA7
   ⟨0xE0, 0xFFFFFFFF, [⟨31, 0, .rwx⟩]⟩]  -- HBM_TEST_CHECK

/-- The registers of WHARF. -/
def regsWharf : List RegRow :=
  [⟨0x0, 0xFFFFFF, []⟩,  -- WHARF_ID
   ⟨0x8, 0x1F, [⟨0, 0, .w1c⟩, ⟨1, 1, .w1c⟩, ⟨2, 2, .w1c⟩, ⟨3, 3, .w1c⟩, ⟨4, 4, .w1c⟩]⟩,  -- WHARF_STATUS
   ⟨0x10, 0x3FFF01FF0FFF, []⟩,  -- WHARF_CONFIG
   ⟨0x18, 0xF, [⟨3, 0, .rw⟩]⟩,  -- WHARF_SELECT
   ⟨0x20, 0xFFFFFFFFFFFF0F07, []⟩,  -- WHARF_CHANNEL
   ⟨0x28, 0x80007FFFFFFFFFFF, []⟩]  -- WHARF_CE_LAST

/-- The registers of HOSTEP. -/
def regsHostep : List RegRow :=
  [⟨0x0, 0x3FF00FFFFFF, []⟩,  -- HOSTEP_ID
   ⟨0x8, 0x3F, [⟨0, 0, .w1c⟩, ⟨1, 1, .w1c⟩, ⟨2, 2, .w1c⟩, ⟨3, 3, .w1c⟩, ⟨4, 4, .w1c⟩, ⟨5, 5, .w1c⟩]⟩,  -- HOSTEP_STATUS
   ⟨0x10, 0x3FF07FF, []⟩,  -- HOSTEP_LINK0
   ⟨0x18, 0x3FF07FF, []⟩,  -- HOSTEP_LINK1
   ⟨0x20, 0x3FF03FF0001, []⟩,  -- HOSTEP_CONFIG
   ⟨0x28, 0x3FF, [⟨9, 0, .rw⟩]⟩,  -- HOSTEP_INST_SELECT
   ⟨0x30, 0xFFFF07FF, []⟩,  -- HOSTEP_INST_STATE
   ⟨0x38, 0xFFFFFFFFFFFFFFFF, []⟩,  -- HOSTEP_INST_COUNTS
   ⟨0x40, 0x3FFF, [⟨1, 0, .rwx⟩, ⟨11, 2, .rwx⟩, ⟨13, 12, .rwx⟩]⟩,  -- HOSTEP_WIN_ADDR
   ⟨0x48, 0xFFFFFFFFFFFFFFFF, [⟨63, 0, .rwx⟩]⟩,  -- HOSTEP_WIN_DATA
   ⟨0x50, 0x3FFF3FFF3FFF3FFF, []⟩]  -- HOSTEP_TAGS

/-- The registers of ACCDMA. -/
def regsAccdma : List RegRow :=
  [⟨0x0, 0x1FFFFFFFFFF, []⟩,  -- ACCDMA_ID
   ⟨0x8, 0x1F, [⟨0, 0, .w1c⟩, ⟨1, 1, .w1c⟩, ⟨2, 2, .w1c⟩, ⟨3, 3, .w1c⟩, ⟨4, 4, .w1c⟩]⟩,  -- ACCDMA_STATUS
   ⟨0x10, 0xF, [⟨3, 0, .rw⟩]⟩,  -- ACCDMA_PORT_SELECT
   ⟨0x18, 0x7FF, []⟩,  -- ACCDMA_PORT_LINK
   ⟨0x20, 0xFFFFFFFFFFFF3FFF, []⟩,  -- ACCDMA_PORT_COUNTS
   ⟨0x28, 0xFF, [⟨7, 0, .rw⟩]⟩,  -- ACCDMA_CH_SELECT
   ⟨0x30, 0xFFFFFFFF0003FF07, []⟩,  -- ACCDMA_CH_STATE
   ⟨0x38, 0xFFFFFFFFFFFFFFFF, []⟩,  -- ACCDMA_CH_COUNTS
   ⟨0x40, 0x3, [⟨0, 0, .rwx⟩, ⟨1, 1, .rwx⟩]⟩]  -- ACCDMA_CH_CTRL

/-- The registers of NETENG. -/
def regsNeteng : List RegRow :=
  [⟨0x0, 0xFFFF00FFFFFF, []⟩,  -- NETENG_ID
   ⟨0x8, 0x3F, [⟨0, 0, .w1c⟩, ⟨1, 1, .w1c⟩, ⟨2, 2, .w1c⟩, ⟨3, 3, .w1c⟩]⟩,  -- NETENG_STATUS
   ⟨0x10, 0x7, [⟨2, 0, .rw⟩]⟩,  -- NETENG_PORT_SELECT
   ⟨0x18, 0x1F, []⟩,  -- NETENG_PORT_LINK
   ⟨0x20, 0xFFFFFFFFFFFFFFFF, []⟩,  -- NETENG_PORT_COUNTS
   ⟨0x28, 0xFFFFFFFF, []⟩,  -- NETENG_VERSION
   ⟨0x30, 0x3FFF, [⟨13, 0, .rw⟩]⟩,  -- NETENG_QUEUE_SELECT
   ⟨0x38, 0xFFFFFFFFFFFF3FFF, []⟩,  -- NETENG_QUEUE_STATE
   ⟨0x40, 0xFFFFFFFFFFFF, [⟨23, 0, .rwx⟩, ⟨47, 24, .rwx⟩]⟩,  -- NETENG_QUEUE_SHAPER
   ⟨0x48, 0x1, [⟨0, 0, .rwx⟩]⟩]  -- NETENG_FLOWFAIR

/-- The registers of TRANSPORT. -/
def regsTransport : List RegRow :=
  [⟨0x0, 0x1FFFFFFFFFFFFF, []⟩,  -- TRANSPORT_ID
   ⟨0x8, 0x1F, [⟨0, 0, .w1c⟩, ⟨1, 1, .w1c⟩, ⟨2, 2, .w1c⟩, ⟨3, 3, .w1c⟩, ⟨4, 4, .w1c⟩]⟩,  -- TRANSPORT_STATUS
   ⟨0x10, 0xFFFF, [⟨15, 0, .rw⟩]⟩,  -- TRANSPORT_CONN_SELECT
   ⟨0x18, 0xFFFFFFFFFFFFFF, []⟩,  -- TRANSPORT_CONN_STATE
   ⟨0x20, 0xFFFFFFFFFFFFFFFF, []⟩,  -- TRANSPORT_CONN_SEQ
   ⟨0x28, 0x1FFFFF, [⟨9, 0, .rwx⟩, ⟨13, 10, .rwx⟩, ⟨20, 14, .rwx⟩]⟩,  -- TRANSPORT_CONN_TIMER
   ⟨0x30, 0xFFFFFFFFFFFFFFFF, []⟩,  -- TRANSPORT_CONN_COUNTS
   ⟨0x38, 0xFFF7FFF0001FFFF, []⟩]  -- TRANSPORT_INFLIGHT

/-- The registers of RINGTIME. -/
def regsRingtime : List RegRow :=
  [⟨0x0, 0xFFFFFF, []⟩,  -- RINGTIME_ID
   ⟨0x8, 0x1F, [⟨0, 0, .w1c⟩, ⟨1, 1, .w1c⟩, ⟨2, 2, .w1c⟩, ⟨3, 3, .w1c⟩]⟩,  -- RINGTIME_STATUS
   ⟨0x10, 0x7FFFFFFFFFFFFF, []⟩,  -- RINGTIME_TOPO
   ⟨0x18, 0x3, [⟨1, 0, .rw⟩]⟩,  -- RINGTIME_LINK_SELECT
   ⟨0x20, 0xFFFFFFFFF, []⟩,  -- RINGTIME_LINK_STATE
   ⟨0x28, 0xFFFFFFFFFFFFFFFF, []⟩,  -- RINGTIME_LINK_COUNTS
   ⟨0x30, 0xFFFFFFFFFFFFFFFF, []⟩,  -- RINGTIME_TIME_NS
   ⟨0x38, 0xFFFFFFFF, []⟩,  -- RINGTIME_TIME_FRAC
   ⟨0x40, 0xFFFFFFFFFFFF, []⟩,  -- RINGTIME_TIME_STATE
   ⟨0x48, 0xFF, [⟨7, 0, .rwx⟩]⟩]  -- RINGTIME_PPS_CTRL

/-- The registers of STORAGE. -/
def regsStorage : List RegRow :=
  [⟨0x0, 0xFFFFFFFFFFFFFFFF, []⟩,  -- STORAGE_ID
   ⟨0x8, 0x1F, [⟨0, 0, .w1c⟩, ⟨1, 1, .w1c⟩, ⟨2, 2, .w1c⟩, ⟨3, 3, .w1c⟩, ⟨4, 4, .w1c⟩]⟩,  -- STORAGE_STATUS
   ⟨0x10, 0xFFFFFFFF1FFF7FFF, []⟩,  -- STORAGE_OCCUPANCY
   ⟨0x18, 0xFFF, [⟨11, 0, .rw⟩]⟩,  -- STORAGE_QUEUE_SELECT
   ⟨0x20, 0xFFFFFFFFF, []⟩,  -- STORAGE_QUEUE_STATE
   ⟨0x28, 0x3, [⟨1, 0, .rw⟩]⟩,  -- STORAGE_DRIVE_SELECT
   ⟨0x30, 0xFFFFFFFF000F, []⟩,  -- STORAGE_DRIVE_STATE
   ⟨0x38, 0xFFFFFF00FFFFFF, [⟨23, 0, .rwx⟩, ⟨55, 32, .rwx⟩]⟩,  -- STORAGE_IDLE_CTRL
   ⟨0x40, 0xFFFFFFFFFFFFFFFF, []⟩]  -- STORAGE_COUNTS

/-- The registers of SECURITY. -/
def regsSecurity : List RegRow :=
  [⟨0x0, 0x1FF00FFFFFF, []⟩,  -- SECURITY_ID
   ⟨0x8, 0x3F, [⟨0, 0, .w1c⟩, ⟨1, 1, .w1c⟩, ⟨2, 2, .w1c⟩, ⟨3, 3, .w1c⟩, ⟨4, 4, .w1c⟩]⟩,  -- SECURITY_STATUS
   ⟨0x10, 0x7FFFFFFFFF0337, []⟩,  -- SECURITY_LIFECYCLE
   ⟨0x18, 0xFFFFFFFFFFFFFF0F, []⟩,  -- SECURITY_RNG
   ⟨0x20, 0xFF, [⟨7, 0, .rw⟩]⟩,  -- SECURITY_KEY_SELECT
   ⟨0x28, 0x7FFFFF03FF, []⟩,  -- SECURITY_KEY_INFO
   ⟨0x30, 0xFFFFFFFFFFFFFFFF, []⟩,  -- SECURITY_KEY_IDENTITY
   ⟨0x38, 0x3F, [⟨5, 0, .rw⟩]⟩,  -- SECURITY_LANE_SELECT
   ⟨0x40, 0xFFFFFFFFFF7FFFFF, []⟩,  -- SECURITY_LANE_STATE
   ⟨0x48, 0x3FF, [⟨8, 8, .wo⟩, ⟨9, 9, .wo⟩]⟩,  -- SECURITY_SHARED_LOCK
   ⟨0x50, 0x8000FFFFFFFFFFFF, [⟨47, 0, .rw⟩, ⟨63, 63, .rw⟩]⟩]  -- SECURITY_SHARED_JOB

/-- The registers of CONTROL. -/
def regsControl : List RegRow :=
  [⟨0x0, 0xFFFFFF, []⟩,  -- CONTROL_ID
   ⟨0x8, 0x3F, [⟨0, 0, .w1c⟩, ⟨1, 1, .w1c⟩, ⟨2, 2, .w1c⟩, ⟨3, 3, .w1c⟩]⟩,  -- CONTROL_STATUS
   ⟨0x10, 0xFFFFFFFF00000003, []⟩,  -- CONTROL_STEWARD
   ⟨0x18, 0x1F, [⟨4, 0, .rw⟩]⟩,  -- CONTROL_CORE_SELECT
   ⟨0x20, 0xFFFFFFFFFFFFFF07, []⟩,  -- CONTROL_CORE_STATE
   ⟨0x28, 0x3FF, [⟨9, 0, .rwx⟩]⟩,  -- CONTROL_WATCHDOG
   ⟨0x30, 0x1, [⟨0, 0, .rwx⟩]⟩,  -- CONTROL_CORE_CTRL
   ⟨0x38, 0xFFFFFFFFFFFFFF03, []⟩,  -- CONTROL_LEDGER
   ⟨0x40, 0x1FFFFF, []⟩,  -- CONTROL_BOARD
   ⟨0x48, 0x3FFFFF, [⟨21, 0, .rwx⟩]⟩,  -- CONTROL_UART
   ⟨0x50, 0xFFFFFFFFFFFF, []⟩]  -- CONTROL_UART_COUNTS

/-- The registers of RELIABILITY. -/
def regsReliability : List RegRow :=
  [⟨0x0, 0x1FF00FFFFFF, []⟩,  -- RELIABILITY_ID
   ⟨0x8, 0x7F, [⟨0, 0, .w1c⟩, ⟨1, 1, .w1c⟩, ⟨2, 2, .w1c⟩, ⟨3, 3, .w1c⟩]⟩,  -- RELIABILITY_STATUS
   ⟨0x10, 0xFFFFFFFFFFFFFFFF, []⟩,  -- RELIABILITY_STEP
   ⟨0x18, 0x1FFFFF00FFFF0F, []⟩,  -- RELIABILITY_STEP_STATE
   ⟨0x20, 0xFFFFFFFFFFFFFF07, []⟩,  -- RELIABILITY_CKPT
   ⟨0x28, 0xFFFFFFFFFFFFFFFF, []⟩,  -- RELIABILITY_HOLDS
   ⟨0x30, 0xFFFFFFFFFFFF01FF, []⟩,  -- RELIABILITY_COALESCE
   ⟨0x38, 0xFFFFFFFF, [⟨31, 0, .rwx⟩]⟩,  -- RELIABILITY_NAN_LIMIT
   ⟨0x40, 0x1, [⟨0, 0, .rwx⟩]⟩]  -- RELIABILITY_FORCE

/-- The registers of OBSERVE. -/
def regsObserve : List RegRow :=
  [⟨0x0, 0x3FF00FFFFFF, []⟩,  -- OBSERVE_ID
   ⟨0x8, 0x1F, [⟨0, 0, .w1c⟩, ⟨1, 1, .w1c⟩, ⟨2, 2, .w1c⟩]⟩,  -- OBSERVE_STATUS
   ⟨0x10, 0x3F, [⟨1, 0, .rwx⟩, ⟨4, 2, .rwx⟩, ⟨5, 5, .rwx⟩]⟩,  -- OBSERVE_TRACE_CTRL
   ⟨0x18, 0xFFFFFFFFFFFFFFFF, []⟩,  -- OBSERVE_TRACE_PTR
   ⟨0x20, 0xFFFFFFFF, []⟩,  -- OBSERVE_TRACE_LOST
   ⟨0x28, 0x7FFFFFFFFFFFF, [⟨15, 0, .rwx⟩, ⟨31, 16, .rwx⟩, ⟨50, 32, .rwx⟩]⟩,  -- OBSERVE_SAMPLE_CTRL
   ⟨0x30, 0x1FFFF, [⟨15, 0, .wo⟩, ⟨16, 16, .wo⟩]⟩]  -- OBSERVE_MARK

/-- The registers of POWERCLK. -/
def regsPowerclk : List RegRow :=
  [⟨0x0, 0xFFFFFF, []⟩,  -- POWERCLK_ID
   ⟨0x8, 0x1F, [⟨0, 0, .w1c⟩, ⟨1, 1, .w1c⟩, ⟨2, 2, .w1c⟩]⟩,  -- POWERCLK_STATUS
   ⟨0x10, 0xFFFFFFFFFFFF, []⟩,  -- POWERCLK_POWER
   ⟨0x18, 0xFFFF0007FFFF, []⟩,  -- POWERCLK_THERMAL
   ⟨0x20, 0x7FF00FFFF, [⟨15, 0, .rwx⟩, ⟨34, 24, .rwx⟩]⟩,  -- POWERCLK_CAP
   ⟨0x28, 0xFFFF0007, []⟩,  -- POWERCLK_RESET_CAUSE
   ⟨0x30, 0x1, [⟨0, 0, .rwx⟩]⟩,  -- POWERCLK_RESET_CTRL
   ⟨0x38, 0x3F, [⟨5, 0, .rw⟩]⟩,  -- POWERCLK_DOMAIN_SELECT
   ⟨0x40, 0xFFFFFFF3, []⟩]  -- POWERCLK_DOMAIN_STATE

/-- The register map of a block (R22). -/
def regMap : Nat → List RegRow
  | 0 => regsIdent
  | 1 => regsMailbox
  | 2 => regsManifest
  | 3 => regsCanal
  | 4 => regsLocks
  | 5 => regsTiles
  | 6 => regsHbm
  | 7 => regsWharf
  | 8 => regsHostep
  | 9 => regsAccdma
  | 10 => regsNeteng
  | 11 => regsTransport
  | 12 => regsRingtime
  | 13 => regsStorage
  | 14 => regsSecurity
  | 15 => regsControl
  | 16 => regsReliability
  | 17 => regsObserve
  | 18 => regsPowerclk
  | _ => []

end Sys2Proof.Machine
end

