-- ==== Sys2Proof/Machine/RegView.lean ====
section
/-! DEFINITION. What every register reads: the fields of the register maps, as views of the state (chapters 1–20). -/

namespace Sys2Proof.Machine

/-! ### Places in register space (R22) -/

/-- Where a register-space offset lies: block code, unit within the block, offset in the block or in the unit's window. -/
structure RegPlace where
  block : Nat
  unit : Nat
  off : Nat
  deriving DecidableEq, Repr

/-- The block ranges of R22: base, end, block code. -/
def blockRanges : List (Nat × Nat × Nat) :=
  [(0x0000000, 0x0010000, 0), (0x0010000, 0x0100000, 1), (0x0100000, 0x1000000, 2), (0x1000000, 0x2000000, 3),
   (0x2000000, 0x3000000, 4), (0x3000000, 0x3840000, 5), (0x4000000, 0x4800000, 6), (0x4800000, 0x5000000, 7),
   (0x5000000, 0x5400000, 8), (0x5400000, 0x6000000, 9), (0x6000000, 0x6800000, 10), (0x6800000, 0x7000000, 11),
   (0x7000000, 0x7800000, 12), (0x7800000, 0x8000000, 13), (0x8000000, 0x8800000, 14), (0x8800000, 0x9000000, 15),
   (0x9000000, 0x9800000, 16), (0x9800000, 0xA000000, 17), (0xA000000, 0xA800000, 18)]

/-- The place of an offset: none in the reserved ranges. -/
def regPlace (off : Nat) : Option RegPlace :=
  (blockRanges.find? fun r => decide (r.1 ≤ off ∧ off < r.2.1)).map fun r =>
    let o := off - r.1
    let size := if r.2.2 = 5 then 0x4000 else if r.2.2 = 6 then 0x100000 else 2 ^ 28
    { block := r.2.2, unit := o / size, off := o % size }

/-- The map row of a place, if a register lies there. -/
def regRow (p : RegPlace) : Option RegRow := (regMap p.block).find? fun r => r.off == p.off

/-- Fields packed into a register: bit position, width, value. -/
def packed (fs : List (Nat × Nat × Nat)) : Nat := (fs.map fun f => f.2.2 % 2 ^ f.2.1 * 2 ^ f.1).sum

/-- The stored word of a register of a block. -/
def Dev.stored (d : Dev) (block off : Nat) : Nat := (d.csrGet (blockBase block + off)).toNat

/-- Field of a stored register. -/
def Dev.field (d : Dev) (block off hi lo : Nat) : Nat := bits (d.stored block off) hi lo

/-! ### The views, block by block -/

/-- IDENT (chapter 1). -/
def viewIdent (d : Dev) (off : Nat) : Nat :=
  if off = 0 then packed [(16, 16, 0x0940), (32, 8, Config.stepping.toNat)]
  else if off = 8 then d.stored 0 8
  else if off = 0x10 then packed [(0, 10, 528), (16, 5, 16), (24, 4, 8), (28, 8, 64), (40, 4, 12)]
  else if off = 0x60 then Config.deviceSerial.toNat
  else ((List.range 64).map fun b => if 64 * ((off - 0x18) / 8) + b < 528 then b2n (Config.tileFuse (64 * ((off - 0x18) / 8) + b)) * 2 ^ b else 0).sum

/-- MAILBOX (chapter 16). -/
def viewMailbox (d : Dev) (off : Nat) : Nat :=
  if off = 0 then packed [(0, 16, 1), (16, 8, 2)]
  else packed [(0, 2, d.stored 1 8), (32, 16, d.mailbox.overruns), (48, 16, d.mailbox.eventsLost)]

/-- MANIFEST (chapter 2). -/
def viewManifest (d : Dev) (off : Nat) : Nat :=
  let m := d.manifest
  if off = 0 then packed [(0, 16, 2), (16, 16, 2)]
  else if off = 8 then packed [(0, 3, d.stored 2 8), (3, 1, b2n (decide (1 ≤ m.stage ∧ m.stage ≤ 5))), (4, 1, b2n m.active.isSome)]
  else if off = 0x10 then (match m.active with | some a => a.serial.toNat | none => 0)
  else if off = 0x18 then (match m.active with | some a => a.jobId.toNat | none => 0)
  else if off = 0x20 then packed [(0, 4, m.stage), (8, 8, m.code), (16, 8, m.sect), (24, 8, m.source)]
  else if off = 0x28 then m.errorOffset % 2 ^ 25
  else if off = 0x30 then maskOf m.altActive
  else if off = 0x38 then d.program % 8
  else maskOf d.expert.unlocked

/-- The entry that CANAL_TBL_ADDR addresses, as stored (R80). -/
def tblEntry (d : Dev) : BitVec 512 :=
  let i := bankIndex (d.field 3 0x30 17 13) (d.field 3 0x30 20 18) (d.field 3 0x30 12 3)
  tget idleEntry (if d.field 3 0x30 21 21 = 1 then d.canal.shadow else d.canal.active) i

/-- CANAL (chapter 3). -/
def viewCanal (d : Dev) (off : Nat) : Nat :=
  let c := d.canal
  if off = 0 then packed [(0, 16, 3), (16, 8, 30), (24, 8, 8)]
  else if off = 8 then packed [(0, 6, d.stored 3 8), (6, 1, b2n c.dwell)]
  else if off = 0x18 then packed [(0, 3, c.program), (4, 8, maskOf c.resident), (16, 10, c.slot)]
  else if off = 0x20 then c.lockage % 2 ^ 64
  else if off = 0x28 then (if c.aligned then packed [(0, 11, c.f), (16, 11, c.fc), (32, 8, c.n), (40, 8, c.cause)] else 0)
  else if off = 0x38 then bits (tblEntry d).toNat (64 * d.field 3 0x30 2 0 + 63) (64 * d.field 3 0x30 2 0)
  else if off = 0x40 then packed [(0, 32, c.crcCount), (32, 16, c.misrouteCount), (48, 16, c.slipCount)]
  else if off = 0x48 then packed [(0, 5, c.last.router), (5, 6, c.last.port), (11, 10, c.last.slot), (21, 2, c.last.kind), (24, 40, c.last.lockage)]
  else if off = 0x50 then c.epoch.toNat
  else if off = 0x60 then
    let l := tget {} c.links (unitKey (d.field 3 0x58 4 0) (d.field 3 0x58 10 5))
    packed [(0, 32, l.total), (32, 7, l.window), (39, 1, b2n l.failed)]
  else d.stored 3 off

/-- The gate entry that LOCKS_GATE_ADDR addresses. -/
def gateAt (d : Dev) : W32 :=
  tget 0 (if d.field 4 0x38 20 20 = 1 then d.locks.gatesShadow else d.locks.gates)
    (gateIndex (d.field 4 0x38 16 10) (d.field 4 0x38 19 17) (d.field 4 0x38 9 0))

/-- LOCKS (chapter 4). -/
def viewLocks (d : Dev) (off : Nat) : Nat :=
  let l := d.field 4 0x18 6 0
  let k := d.lock l
  let eth := lockKind l == some .eth
  if off = 0 then packed [(0, 16, 4), (16, 8, 45), (24, 8, 64)]
  else if off = 8 then packed [(0, 4, d.stored 4 8), (4, 1, b2n (d.locks.sluices.length != 0))]
  else if off = 0x10 then packed [(0, 1, b2n d.locks.large), (16, 12, (d.locks.tab.map fun e => e.2.size).sum)]
  else if off = 0x20 then
    packed [(0, 12, k.size), (12, 12, k.fill), (24, 1, b2n (if eth then k.paused else !k.closed && !k.room 512)),
      (25, 1, b2n (d.locks.holds.any fun h => h.lock == some l && h.kind == .copyBeforeWrite)), (26, 1, b2n k.closed)]
  else if off = 0x28 then (if eth then packed [(0, 12, k.pauseOn), (12, 12, k.pauseOff), (24, 1, b2n k.pauseEn)] else 0)
  else if off = 0x30 then packed [(0, 32, k.drops), (32, 16, k.holds), (48, 16, k.overruns)]
  else if off = 0x40 then (gateAt d).toNat
  else if off = 0x50 then packed [(0, 11, d.locks.derateF), (16, 8, d.locks.derateCause), (32, 32, d.locks.derateSeq)]
  else if 0x80 ≤ off then bits (maskOf d.locks.derateSet) (64 * ((off - 0x80) / 8) + 63) (64 * ((off - 0x80) / 8))
  else d.stored 4 off

/-- The stored word of a register of tile n, and of HBM controller k. -/
def Dev.tileReg (d : Dev) (n off : Nat) : Nat := d.stored 5 (n * 0x4000 + off)
def Dev.ctlReg (d : Dev) (k off : Nat) : Nat := d.stored 6 (k * 0x100000 + off)

/-- TILES (chapter 5). -/
def viewTile (d : Dev) (n off : Nat) : Nat :=
  if off = 0 then packed [(0, 16, 5), (16, 10, n), (32, 4, 4)]
  else if off = 8 then packed [(0, 5, d.tileReg n 8), (5, 1, b2n (d.tile n).failed)]
  else if off = 0x10 then tileBinding d n
  else if off = 0x18 then tileSpill d n
  else if off = 0x20 ∨ off = 0x28 ∨ off = 0x30 ∨ off = 0x38 then tileStream d n ((off - 0x20) / 8)
  else if off = 0x40 then 0
  else if off = 0x48 then tileFaultReg d n
  else if off = 0x50 then tileErrCount d n
  else if off = 0x60 then ((d.tile (d.leader n)).op (d.tileReg n 0x58 % 4096)).toNat
  else d.tileReg n off

/-- HBM (chapter 8). -/
def viewHbm (d : Dev) (k off : Nat) : Nat :=
  let c := d.ctl k
  let e := c.log[d.ctlReg k 0x20 % 32]?
  if off = 0 then packed [(0, 16, 6), (16, 3, k), (32, 8, 64)]
  else if off = 8 then packed [(0, 5, d.ctlReg k 8), (5, 1, b2n c.failed), (6, 1, b2n c.scrub.isSome)]
  else if off = 0x10 then
    packed [(0, 3, c.logical.getD 0), (3, 1, b2n c.logical.isSome), (4, 1, b2n c.hot), (16, 10, planCount d k 1), (32, 10, planCount d k 2)]
  else if off = 0x18 then packed [(0, 32, c.ceCount), (32, 16, c.ueCount), (48, 16, c.poisonMerge)]
  else if off = 0x28 then (match e with | some e => e.word | none => 0)
  else if off = 0x30 then (match e with | some e => e.time.toNat | none => 0)
  else if off = 0x48 then
    (match c.scrub with
     | some s => packed [(0, 23, s.next), (32, 32, s.next - s.first)]
     | none => packed [(0, 23, c.patrol), (23, 1, b2n (c.logical.isSome && !c.failed))])
  else if 0x50 ≤ off ∧ off ≤ 0x88 then fieldLe c.summary (off - 0x50) 8
  else if off = 0x90 then packed [(0, 7, c.merge.length), (8, 8, c.mergePeak), (16, 32, c.mergeHolds)]
  else if off = 0x98 then packed [(0, 13, d.ctlReg k 0x98), (14, 2, c.testOutcome), (16, 32, c.testSyndrome.toNat)]
  else d.ctlReg k off

/-- WHARF (chapter 8). -/
def viewWharf (d : Dev) (off : Nat) : Nat :=
  let n := d.field 7 0x18 3 0
  let w := d.wharfCh n
  if off = 0 then packed [(0, 16, 7), (16, 8, 12)]
  else if off = 0x10 then packed [(0, 12, maskOf d.wharfUsed), (16, 9, d.wharfCapacity), (32, 14, d.wharf.rate)]
  else if off = 0x20 then
    packed [(0, 3, w.state), (8, 4, (d.wharfUsed.findIdx? fun c => c == n).getD 0), (16, 32, w.ceCount), (48, 16, w.ueCount)]
  else if off = 0x28 then packed [(0, 42, (w.ceLast.getD (0, 0)).1), (42, 5, (w.ceLast.getD (0, 0)).2), (63, 1, b2n w.ceLast.isSome)]
  else d.stored 7 off

/-- HOSTEP_LINK0 and HOSTEP_LINK1. -/
def linkWord (e : Endpoint) : Nat :=
  packed [(0, 1, b2n e.up), (1, 3, e.speed), (4, 5, e.width), (9, 1, b2n e.flit), (10, 1, b2n e.vfEnable), (16, 10, e.numVfs)]

/-- Tags that are stale at an endpoint: of older generations (R223). -/
def staleTags (d : Dev) (e : Nat) : Nat := ((portTags d e).filter fun t => t.gen != (d.inst t.inst).gen).length

/-- The window entry that HOSTEP_WIN_ADDR addresses: none for table 3, and beyond entry 15 of table 2. -/
def winAt (d : Dev) : Option Window :=
  let i := d.field 8 0x40 11 2
  match d.field 8 0x40 13 12 with
  | 0 => some (tget 0 (d.ep 0).windows i)
  | 1 => some (tget 0 (d.ep 1).windows i)
  | 2 => if i < 16 then some (tget 0 (d.inst (d.field 8 0x28 9 0)).windows i) else none
  | _ => none

/-- HOSTEP (chapter 9). -/
def viewHostep (d : Dev) (off : Nat) : Nat :=
  let n := d.field 8 0x28 9 0
  let i := d.inst n
  let vfs := d.host.inst.filter fun e => decide (2 ≤ e.1)
  if off = 0 then packed [(0, 16, 8), (16, 8, 2), (32, 10, 1022)]
  else if off = 0x10 then linkWord (d.ep 0)
  else if off = 0x18 then linkWord (d.ep 1)
  else if off = 0x20 then
    packed [(0, 1, b2n d.locks.large), (16, 10, (vfs.filter fun e => decide (e.2.state ≠ 0)).length),
      (32, 10, (vfs.filter fun e => decide (e.2.state = 2)).length)]
  else if off = 0x30 then
    packed [(0, 8, instState d n), (8, 1, homeOf d n), (9, 1, b2n i.bme), (10, 1, b2n i.mse), (16, 16, i.gen.toNat)]
  else if off = 0x38 then packed [(0, 32, i.lateTotal), (32, 32, i.ur)]
  else if off = 0x48 then
    (match winAt d with | some w => bits w.toNat (64 * d.field 8 0x40 1 0 + 63) (64 * d.field 8 0x40 1 0) | none => 0)
  else if off = 0x50 then
    packed [(0, 14, (portTags d 0).length), (16, 14, staleTags d 0), (32, 14, (portTags d 1).length), (48, 14, staleTags d 1)]
  else d.stored 8 off

/-- ACCDMA (chapter 10). -/
def viewAccdma (d : Dev) (off : Nat) : Nat :=
  let p := d.field 9 0x10 3 0
  let c := d.dmaCh (d.field 9 0x28 7 0)
  if off = 0 then packed [(0, 16, 9), (16, 8, 8), (24, 8, 4), (32, 9, 256)]
  else if off = 0x18 then portLink d p
  else if off = 0x20 then portCounts d p
  else if off = 0x30 then packed [(0, 3, c.state), (8, 10, c.inst), (32, 16, c.head), (48, 16, c.tail)]
  else if off = 0x38 then packed [(0, 32, c.descDone.toNat), (32, 32, c.bytes / 4096)]
  else if off = 0x40 then 0
  else d.stored 9 off

/-- The rate and burst that NETENG_QUEUE_SHAPER shows: stored for the next refill, or in force. -/
def shaperShown (s : Shaper) : Nat × Nat := s.due.getD (s.rate, s.burst)

/-- NETENG (chapter 11). -/
def viewNeteng (d : Dev) (off : Nat) : Nat :=
  let n := d.field 10 0x10 2 0
  let p := d.netPort n
  let q := d.netQueue (d.field 10 0x30 13 0)
  if off = 0 then packed [(0, 16, 10), (16, 8, 8), (32, 16, 0x4000)]
  else if off = 8 then packed [(0, 4, d.stored 10 8), (4, 1, b2n (d.netHalf 0).commit.isSome), (5, 1, b2n (d.netHalf 1).commit.isSome)]
  else if off = 0x18 then
    packed [(0, 1, b2n p.up), (1, 1, b2n p.fecLock), (2, 1, b2n (d.lock (ethLock n)).paused),
      (3, 1, b2n (p.pauseRx.any fun t => decide (d.uptime < t))), (4, 1, b2n p.flowFair)]
  else if off = 0x20 then packed [(0, 32, p.rxDrops), (32, 16, p.fcsErrors), (48, 8, p.recircLimit), (56, 8, p.ruleDrops)]
  else if off = 0x28 then packed [(0, 16, (d.netHalf 0).version.toNat), (16, 16, (d.netHalf 1).version.toNat)]
  else if off = 0x38 then
    packed [(0, 3, q.port), (3, 1, b2n q.bound), (4, 10, (queueOwner d (d.field 10 0x30 13 0)).getD 0), (16, 16, q.weight),
      (32, 32, min (2 ^ 32 - 1) (q.frames.map EgressFrame.cost).sum)]
  else if off = 0x40 then
    let s := shaperShown q.shaper
    let low := if d.field 10 0x40 0 0 = 1 then d.field 10 0x40 31 24 else s.2 % 256
    packed [(0, 24, s.1), (24, 8, low), (32, 16, s.2 / 256)]
  else if off = 0x48 then b2n (p.flowFairDue.getD p.flowFair)
  else d.stored 10 off

/-- TRANSPORT (chapter 12). -/
def viewTransport (d : Dev) (off : Nat) : Nat :=
  let c := d.conn (d.field 11 0x10 15 0)
  if off = 0 then packed [(0, 16, 11), (16, 16, 0x2000), (32, 21, 0x100000)]
  else if off = 0x18 then
    packed [(0, 3, c.state), (3, 1, b2n c.lane.isSome), (4, 6, c.lane.getD 0), (10, 10, c.inst), (20, 3, c.port), (23, 1, b2n c.hold),
      (24, 16, c.epoch.toNat), (40, 16, c.peer.toNat)]
  else if off = 0x20 then packed [(0, 32, c.una.toNat), (32, 32, c.expected.toNat)]
  else if off = 0x28 then
    let t := c.timerDue.getD (c.rtoMin / 1000, c.retryLimit, c.reorder)
    packed [(0, 10, t.1), (10, 4, t.2.1), (14, 7, t.2.2)]
  else if off = 0x30 then packed [(0, 16, c.badHeader), (16, 16, c.stale), (32, 16, c.sealFail), (48, 16, c.windowDrops)]
  else if off = 0x38 then packed [(0, 17, opsInFlight d), (32, 15, towStore d), (48, 12, d.tp.stalled.length)]
  else d.stored 11 off

/-- The device ID that registers show: the one received, or none (0xF_FFFF) once stage 1 of local boot has ended (R366). -/
def boardId (d : Dev) : Nat := if d.boot.stage = 1 then (d.boot.deviceId.getD 0).toNat else d.deviceId

/-- RINGTIME (chapter 13). -/
def viewRingtime (d : Dev) (off : Nat) : Nat :=
  let n := d.field 12 0x18 1 0
  let l := d.link n
  let r := d.ring
  let t := d.time
  if off = 0 then packed [(0, 16, 12), (16, 8, 4)]
  else if off = 8 then packed [(0, 4, d.stored 12 8), (4, 1, b2n r.ready)]
  else if off = 0x10 then
    packed [(0, 20, boardId d), (20, 8, r.memberPos), (28, 8, r.memberSize - 1), (36, 8, r.trunkPos), (44, 8, r.trunkSize - 1),
      (52, 2, r.shape), (54, 1, b2n r.root)]
  else if off = 0x20 then
    packed [(0, 3, l.state), (3, 1, b2n l.detoured), (4, 2, l.missed), (6, 10, l.latency), (16, 20, l.peer.toNat)]
  else if off = 0x28 then packed [(0, 32, l.fecCorrected), (32, 16, l.crcCells), (48, 16, l.retrains)]
  else if off = 0x30 then t.ns.toNat
  else if off = 0x38 then t.latched.toNat
  else if off = 0x40 then
    packed [(0, 3, t.state), (3, 3, t.source), (6, 2, t.upstream), (8, 8, t.hops), (16, 32, (BitVec.ofInt 32 t.offset).toNat)]
  else if off = 0x48 then packed ((List.range 4).map fun o => (2 * o, 2, tget 0 t.pps o))
  else d.stored 12 off

/-- STORAGE (chapter 14). -/
def viewStorage (d : Dev) (off : Nat) : Nat :=
  let q := tget {} d.storage.queues (d.field 13 0x18 11 0)
  let x := tget {} d.storage.drives (d.field 13 0x28 1 0)
  if off = 0 then packed [(0, 16, 13), (16, 16, 0x1000), (32, 16, 0x1000), (48, 16, 0x4000)]
  else if off = 0x10 then
    packed [(0, 15, d.storage.cmds.length), (16, 13, (d.storage.cmds.filter fun c => c.locked).length),
      (32, 32, ((d.storage.buffer.map fun b => 4096 * b.blocks).sum + (d.storage.cmds.map fun c => c.reserved).sum + 65535) / 65536)]
  else if off = 0x20 then packed [(0, 2, q.state), (2, 10, (storOwner d (d.field 13 0x18 11 0)).getD 0), (12, 12, q.head), (24, 12, q.tail)]
  else if off = 0x30 then packed [(0, 2, x.state), (2, 2, x.idle), (16, 32, x.exitLatency)]
  else if off = 0x38 then packed [(0, 24, x.idle1), (32, 24, x.idle2)]
  else if off = 0x40 then packed [(0, 32, d.storage.rangeWaits), (32, 32, d.storage.trWaits)]
  else d.stored 13 off

/-- SECURITY (chapter 15). -/
def viewSecurity (v : Vault) (d : Dev) (off : Nat) : Nat :=
  let s := d.sec
  let n := d.field 14 0x20 7 0
  let k := tget {} v.keys n
  let l := d.lane (d.field 14 0x38 5 0)
  if off = 0 then packed [(0, 16, 14), (16, 8, 48), (32, 9, 256)]
  else if off = 8 then packed [(0, 5, d.stored 14 8), (5, 1, b2n (decide (s.rng = 3)))]
  else if off = 0x10 then
    packed [(0, 3, v.lifecycle), (4, 2, v.debug), (8, 1, b2n d.boot.image), (9, 1, b2n (d.boot.aFailed && d.boot.bFailed)),
      (16, 32, d.boot.imageVersion.toNat), (48, 7, v.minVersion)]
  else if off = 0x18 then
    packed [(0, 2, s.rng), (2, 2, s.consecutive), (8, 8, min 255 s.held.length), (16, 32, s.failures), (48, 16, s.reseeds.toNat)]
  else if off = 0x28 then
    packed [(0, 8, k.use), (8, 2, k.origin), (16, 16, k.inst), (32, 6, slotLanes d n), (38, 1, b2n (slotShared d n))]
  else if off = 0x30 then k.identity.toNat
  else if off = 0x40 then
    packed [(0, 2, l.mode), (2, 2, l.user), (4, 8, l.keySlot), (12, 10, l.inst), (22, 1, b2n l.busy), (24, 16, l.parity), (40, 24, l.jobs)]
  else if off = 0x48 then s.owner % 256
  else if off = 0x50 then packed [(0, 48, s.jobAddr), (63, 1, b2n s.jobGo)]
  else d.stored 14 off

/-- CONTROL (chapter 16). -/
def viewControl (d : Dev) (off : Nat) : Nat :=
  let n := d.field 15 0x18 4 0
  let c := d.coreCtl n
  let t := d.ctrl
  if off = 0 then packed [(0, 16, 15), (16, 8, 19)]
  else if off = 8 then packed [(0, 4, d.stored 15 8), (4, 1, b2n t.linkFailed), (5, 1, b2n (decide (d.power.state ≠ .full)))]
  else if off = 0x10 then packed [(0, 1, b2n t.steward), (1, 1, b2n t.followerUp), (32, 32, t.epoch.toNat)]
  else if off = 0x20 then packed [(0, 3, c.state), (8, 8, recentExpiries d n), (16, 16, c.restarts), (32, 32, c.lastRestart)]
  else if off = 0x28 then watchdogPeriod d n
  else if off = 0x30 then 0
  else if off = 0x38 then packed [(0, 2, d.ledger.state), (8, 8, d.ledger.spares), (16, 16, d.ledger.mountMs), (32, 32, d.ledger.repairs)]
  else if off = 0x40 then packed [(0, 20, boardId d), (20, 1, b2n d.boot.deviceId.isSome)]
  else if off = 0x48 then t.baud % 2 ^ 22
  else if off = 0x50 then packed [(0, 32, t.frameErrors), (32, 16, t.uartOverruns)]
  else d.stored 15 off

/-- RELIABILITY (chapter 18). -/
def viewReliability (d : Dev) (off : Nat) : Nat :=
  let r := d.rel
  if off = 0 then packed [(0, 16, 16), (16, 8, 16), (32, 9, 256)]
  else if off = 8 then
    packed [(0, 4, d.stored 16 8), (4, 1, b2n (decide (r.ckptState ≠ 0))), (5, 1, b2n r.buddySeeded), (6, 1, b2n (decide (r.phase = 5)))]
  else if off = 0x10 then r.step % 2 ^ 64
  else if off = 0x18 then packed [(0, 3, r.phase), (3, 1, r.attempt), (8, 8, r.own), (16, 8, r.groupBits), (32, 21, r.groupMembers)]
  else if off = 0x20 then packed [(0, 2, r.ckptState), (2, 1, r.ckptSlot), (8, 24, r.snapshot.length), (32, 32, r.ckptStep)]
  else if off = 0x28 then packed [(0, 16, r.cbwHolds), (16, 16, r.cbwOverruns), (32, 16, r.deltaHolds), (48, 16, r.fills)]
  else if off = 0x30 then packed [(0, 9, r.coal.length), (16, 32, r.suppressed), (48, 16, r.overflows)]
  else if off = 0x38 then r.nanLimit % 2 ^ 32
  else if off = 0x40 then 0
  else d.stored 16 off

/-- OBSERVE (chapter 19): all but its identity and status read 0 while the letter O is unavailable (R419). -/
def viewObserve (d : Dev) (off : Nat) : Nat :=
  let o := d.obs
  if off = 0 then packed [(0, 16, 17), (16, 8, 8), (32, 10, 528)]
  else if off = 8 then packed [(0, 3, d.stored 17 8), (3, 1, b2n o.stopped), (4, 1, b2n o.visible)]
  else if o.visible = false then 0
  else if off = 0x10 then packed [(0, 2, o.mode), (2, 3, o.sources)]
  else if off = 0x18 then packed [(0, 32, o.next), (32, 32, o.wraps.toNat)]
  else if off = 0x20 then o.lost % 2 ^ 32
  else if off = 0x28 then packed [(0, 16, o.period), (16, 16, o.clusters.toNat), (32, 19, o.coreMask.toNat)]
  else 0

/-- POWERCLK (chapter 20). -/
def viewPowerclk (d : Dev) (off : Nat) : Nat :=
  let p := d.power
  let x := tget {} p.domains (d.field 18 0x38 5 0)
  if off = 0 then packed [(0, 16, 18), (16, 8, 60)]
  else if off = 8 then packed [(0, 3, d.stored 18 8), (3, 1, b2n p.throttleIn), (4, 1, b2n p.throttleOut)]
  else if off = 0x10 then packed [(0, 16, p.inputW), (16, 16, p.inputMv), (32, 16, p.capW)]
  else if off = 0x18 then
    packed [(0, 16, (BitVec.ofInt 16 (hottest d).1).toNat), (16, 3, (hottest d).2), (32, 16, (BitVec.ofInt 16 p.coolant).toNat)]
  else if off = 0x20 then packed [(0, 16, p.capW), (24, 11, d.field 18 0x20 34 24)]
  else if off = 0x28 then packed [(0, 3, p.lastReset), (16, 16, p.warmCount)]
  else if off = 0x30 then 0
  else if off = 0x40 then packed [(0, 2, x.state), (4, 12, x.mhz), (16, 16, x.losses)]
  else d.stored 18 off

/-- The 64 bits of a register (R4, R6): one sample of all its fields (R430). -/
def regWord (v : Vault) (d : Dev) (p : RegPlace) : Word :=
  BitVec.ofNat 64 (match p.block with
    | 0 => viewIdent d p.off
    | 1 => viewMailbox d p.off
    | 2 => viewManifest d p.off
    | 3 => viewCanal d p.off
    | 4 => viewLocks d p.off
    | 5 => viewTile d p.unit p.off
    | 6 => viewHbm d p.unit p.off
    | 7 => viewWharf d p.off
    | 8 => viewHostep d p.off
    | 9 => viewAccdma d p.off
    | 10 => viewNeteng d p.off
    | 11 => viewTransport d p.off
    | 12 => viewRingtime d p.off
    | 13 => viewStorage d p.off
    | 14 => viewSecurity v d p.off
    | 15 => viewControl d p.off
    | 16 => viewReliability d p.off
    | 17 => viewObserve d p.off
    | _ => viewPowerclk d p.off)

end Sys2Proof.Machine
end

