-- ==== Sys2Proof/Machine/Regs.lean ====
section
/-! DEFINITION. Register accesses (R6–R11, R14, R23): which fields of a write take effect, what follows from them, and the reads
that change something. A register command of the table performs the access of its own register. -/

namespace Sys2Proof.Machine

/-! ### Halves (R7) -/

/-- The mask of the bits that an access addresses. -/
def halfMask : Half → Nat
  | .both => 2 ^ 64 - 1
  | .low => 2 ^ 32 - 1
  | .high => 2 ^ 64 - 2 ^ 32

/-- A written value at its place in the register. -/
def halfPlace (h : Half) (value : Word) : Nat :=
  match h with
  | .both => value.toNat
  | .low => value.toNat % 2 ^ 32
  | .high => value.toNat % 2 ^ 32 * 2 ^ 32

/-- The part of a register that an access reads. -/
def halfPick (h : Half) (w : Word) : Word :=
  match h with
  | .both => w
  | .low => BitVec.ofNat 64 (w.toNat % 2 ^ 32)
  | .high => BitVec.ofNat 64 (w.toNat / 2 ^ 32)

/-- The half of an access that R7 supports: 64 bits aligned to 8 bytes, or 32 bits aligned to 4. -/
def halfOf (off size : Nat) : Option Half :=
  if size = 8 ∧ off % 8 = 0 then some .both
  else if size = 4 ∧ off % 8 = 0 then some .low
  else if size = 4 ∧ off % 8 = 4 then some .high
  else none

/-! ### One field, one register -/

/-- The mask of a field. -/
def Fld.mask (f : Fld) : Nat := 2 ^ (f.hi + 1) - 2 ^ f.lo

/-- A field spans both halves. -/
def Fld.spans (f : Fld) : Bool := decide (f.lo < 32 ∧ 31 < f.hi)

/-- An access reaches a field. -/
def Fld.reached (f : Fld) (h : Half) : Bool := f.mask &&& halfMask h != 0

/-- An access sets off a field's side effect: for a field that spans both halves, only when it reaches the upper one (R7). -/
def Fld.fires (f : Fld) (h : Half) : Bool := f.reached h && !(f.spans && h == .low)

/-- The bits of `new` under a mask, the other bits of `old`. -/
def blend (old new mask : Nat) : Nat := (old &&& (mask ^^^ (2 ^ 64 - 1))) ||| (new &&& mask)

/-- A field's value in a register's word. -/
def Fld.of (f : Fld) (w : Nat) : Nat := bits w f.hi f.lo

/-- The values that are no reserved encodings, by block, offset and field (R11): select registers, modes, and the ranges that the
register maps give. -/
def encodingOk (block off lo value : Nat) : Bool :=
  match block, off, lo with
  | 3, 0x30, 13 => decide (value < 30)
  | 3, 0x58, 0 => decide (value < 30)
  | 4, 0x18, 0 => (lockKind value).isSome
  | 4, 0x38, 10 => (lockKind value).isSome
  | 6, 0x38, 1 => decide (value < 2)
  | 6, 0x98, 11 => decide (value < 3)
  | 7, 0x18, 0 => decide (value < 12)
  | 8, 0x40, 12 => decide (value < 3)
  | 9, 0x10, 0 => decide (value < 12)
  | 10, 0x40, 24 => decide (9236 ≤ value)
  | 11, 0x28, 0 => decide (8 ≤ value ∧ value ≤ 1000)
  | 11, 0x28, 10 => decide (1 ≤ value)
  | 11, 0x28, 14 => decide (1 ≤ value ∧ value ≤ 64)
  | 12, 0x48, 0 => (List.range 4).all fun o => bits value (2 * o + 1) (2 * o) != 3
  | 14, 0x38, 0 => decide (value < 48)
  | 14, 0x50, 0 => value % 64 == 0
  | 15, 0x18, 0 => decide (value < 19)
  | 15, 0x28, 0 => decide (1 ≤ value ∧ value ≤ 1000)
  | 15, 0x48, 0 => decide (9600 ≤ value ∧ value ≤ 3000000)
  | 17, 0x10, 0 => decide (value < 3)
  | 18, 0x20, 0 => decide (1000 ≤ value ∧ value ≤ 4000)
  | 18, 0x20, 24 => decide (1 ≤ value ∧ value ≤ 1024)
  | 18, 0x38, 0 => decide (value < 60)
  | _, _, _ => true

/-- What a write does to a register's word, field by field: the word after it, the fields (by lowest bit) whose write took effect
and whose side effect falls on this access, and whether access_denied and rsvd_write are set. -/
structure Taken where
  word : Nat
  hits : List Nat := []
  denied : Bool := false
  rsvd : Bool := false
  deriving DecidableEq, Repr

/-- One field takes a write (R6, R9, R11). The encoding of a field that spans both halves is checked when its upper half is written. -/
def takeField (block off : Nat) (locked : Bool) (h : Half) (new : Nat) (t : Taken) (f : Fld) : Taken :=
  let word := blend t.word new (f.mask &&& halfMask h)
  let hit : List Nat := if f.fires h then [f.lo] else []
  let ok := encodingOk block off f.lo (f.of word) || (f.spans && h == .low)
  if !f.reached h then t
  else match f.acc with
    | .w1c => { t with word := blend t.word 0 (f.mask &&& halfMask h &&& new), hits := t.hits ++ hit }
    | .wo => { t with word := word, hits := t.hits ++ hit }
    | .rw => if ok then { t with word := word, hits := t.hits ++ hit } else { t with rsvd := true }
    | .rwx =>
      if locked then { t with denied := true }
      else if ok then { t with word := word, hits := t.hits ++ hit } else { t with rsvd := true }

/-- A write of a register (R10, R11): its reserved bits are ignored and reported, its fields are treated one by one. -/
def takeWrite (block : Nat) (row : RegRow) (locked : Bool) (h : Half) (new old : Nat) : Taken :=
  row.fields.foldl (takeField block row.off locked h new)
    { word := old, rsvd := new &&& halfMask h &&& (row.defined ^^^ (2 ^ 64 - 1)) != 0 }

/-- A field of the written word whose write took effect. -/
def Taken.hit (t : Taken) (lo : Nat) : Bool := t.hits.contains lo

/-! ### Side effects -/

/-- Set access_denied of the block at a place. -/
def deny (p : RegPlace) (d : Dev) : Dev := d.seen p.block p.unit 1

/-- Set rsvd_write of the block at a place. -/
def reservedWrite (p : RegPlace) (d : Dev) : Dev := d.seen p.block p.unit 0

/-- The windowed index after an access of CANAL_TBL_DATA: the next word, after word 7 the next slot. -/
def tblAdvance (d : Dev) : Dev :=
  let a := d.stored 3 0x30
  let w := a % 8 + 1
  d.csrSet (blockBase 3 + 0x30) (BitVec.ofNat 64 (if w < 8 then a / 8 * 8 + w
    else a / 2 ^ 13 * 2 ^ 13 + 8 * ((bits a 12 3 + 1) % 1024)))

/-- A written entry keeps the previous source of every output whose written value is reserved (above 64); all four marks are
defined; bits 511:450 read 0 (R66–R68, R80). A source field that straddles two words is tested at each word's write, on the value that
the entry then holds: a choice of the model (log entry 115). -/
def cleanEntry (old new : BitVec 512) : BitVec 512 × Bool :=
  let outs := (List.range 64).filter fun o => decide (64 < entrySource new o)
  let keep := (outs.map fun o => 127 * 2 ^ (7 * o)).sum
  let n := new.toNat % 2 ^ 450
  (BitVec.ofNat 512 (n - (n &&& keep) + (old.toNat &&& keep)), outs != [] || decide (2 ^ 450 ≤ new.toNat))

/-- CANAL_TBL_DATA: a write reaches the shadow bank only (R80). -/
def writeTbl (p : RegPlace) (word : Nat) (advance : Bool) (d : Dev) : Dev :=
  if d.field 3 0x30 21 21 = 0 then deny p d
  else
    let i := bankIndex (d.field 3 0x30 17 13) (d.field 3 0x30 20 18) (d.field 3 0x30 12 3)
    let old := tblEntry d
    let j := d.field 3 0x30 2 0
    let e := cleanEntry old (BitVec.ofNat 512 (old.toNat - bits old.toNat (64 * j + 63) (64 * j) * 2 ^ (64 * j) + word * 2 ^ (64 * j)))
    let d := d.modCanal fun c => { c with shadow := tset idleEntry c.shadow i e.1 }
    let d := if e.2 then reservedWrite p d else d
    if advance then tblAdvance d else d

/-- The slot of LOCKS_GATE_ADDR advances. -/
def gateAdvance (d : Dev) : Dev :=
  let a := d.stored 4 0x38
  d.csrSet (blockBase 4 + 0x38) (BitVec.ofNat 64 (a / 1024 * 1024 + (a + 1) % 1024))

/-- LOCKS_GATE_DATA: a write reaches the shadow table only (R102); reserved bits of an entry stay 0 (R84). -/
def writeGate (p : RegPlace) (word : Nat) (d : Dev) : Dev :=
  if d.field 4 0x38 20 20 = 0 then deny p d
  else
    let i := gateIndex (d.field 4 0x38 16 10) (d.field 4 0x38 19 17) (d.field 4 0x38 9 0)
    let rsvd := if word % 4 = 3 then 0x80000F00 else 0x80000000
    let d := d.modLocks fun k => { k with gatesShadow := tset 0 k.gatesShadow i (BitVec.ofNat 32 (word - (word &&& rsvd))) }
    gateAdvance (if word &&& rsvd = 0 then d else reservedWrite p d)

/-- LOCKS_PRESSURE of an ETH lock (R92). -/
def writePressure (word : Nat) (d : Dev) : Dev :=
  let l := d.field 4 0x18 6 0
  pauseCheck l (d.modLock l fun k => { k with pauseOn := bits word 11 0, pauseOff := bits word 23 12, pauseEn := bit word 24 })

/-- LOCKS_SLUICE: go starts a sluice of one or all instances at the selected lock (R97); it stays set until that completes. -/
def writeSluice (old word : Nat) (go : Bool) (d : Dev) : Dev :=
  if go && bit word 11 && !bit old 11 then
    startSluice (some (d.field 4 0x18 6 0)) (if bit word 10 then none else some (bits word 9 0)) true
      (d.csrSet (blockBase 4 + 0x48) (BitVec.ofNat 64 word))
  else d.csrSet (blockBase 4 + 0x48) (BitVec.ofNat 64 (word - (word &&& 0x800) + (old &&& 0x800)))

/-- TILES_STREAM_CTRL: halt and restart streams (R129). -/
def haltStreams (n mask : Nat) (d : Dev) : Dev :=
  let halt (st : Stream) : Stream := if st.state = 1 ∨ st.state = 2 then { st with state := 5, wait := .none } else st
  d.modTile (d.leader n) fun t => ((List.range 4).filter (bit mask)).foldl (fun t s => t.modStream s halt) t

def restartStreams (n mask : Nat) (d : Dev) : Dev :=
  d.modTile (d.leader n) fun t => ((List.range 4).filter (bit mask)).foldl (fun t s =>
    t.modStream s fun st => if st.ended then st.start else st) t

/-- The index of TILES_OPSTORE_ADDR advances. -/
def opAdvance (n : Nat) (d : Dev) : Dev :=
  d.csrSet (blockBase 5 + n * 0x4000 + 0x58) (BitVec.ofNat 64 ((d.tileReg n 0x58 + 1) % 4096))

/-- TILES_OPSTORE_DATA: an op-store write while a stream of the tile runs or waits is ignored (R129); the streams and the op store of a
paired follower are its leader's. -/
def writeOp (p : RegPlace) (word : Nat) (advance : Bool) (d : Dev) : Dev :=
  let n := d.leader p.unit
  if (List.range 4).any fun s => decide (((d.tile n).stream s).state = 1 ∨ ((d.tile n).stream s).state = 2) then deny p d
  else
    let d := d.modTile n fun t => { t with ops := tset t.opFill t.ops (d.tileReg p.unit 0x58 % 4096) (BitVec.ofNat 64 word) }
    if advance then opAdvance p.unit d else d

/-- HBM_SCRUB_CTRL: go starts a scrub of HBM_SCRUB_RANGE, unless one runs or the controller serves no stack (R186); an empty range
is complete at once. -/
def writeScrub (k old word : Nat) (go : Bool) (d : Dev) : Dev :=
  let off := hbmReg k 0x38
  let first := bits (d.ctlReg k 0x40) 22 0
  let last := bits (d.ctlReg k 0x40) 54 32
  if go && bit word 0 && (d.ctl k).scrub.isNone && (d.ctl k).logical.isSome && !(d.ctl k).failed && decide (first ≤ last) then
    startScrub k first last (bits word 2 1) none (d.csrSet off (BitVec.ofNat 64 word))
  else d.csrSet off (BitVec.ofNat 64 (word - word % 2 + old % 2))

/-- HBM_TEST_CTRL (R188): clearing test_en ends test mode; go performs op on the line while test mode is on. -/
def writeTest (k old word : Nat) (d : Dev) : Dev :=
  let d := d.csrSet (hbmReg k 0x98) (BitVec.ofNat 64 (word % 2 ^ 13))
  if bit old 10 && !bit word 10 then testEnd k d
  else if bit word 13 && bit word 10 then
    if bits word 12 11 = 1 then testWrite k d else if bits word 12 11 = 2 then testRead k d else d
  else d

/-- HOSTEP_WIN_ADDR advances: the next word, after word 3 the next entry. -/
def winAdvance (d : Dev) : Dev :=
  let a := d.stored 8 0x40
  let w := a % 4 + 1
  d.csrSet (blockBase 8 + 0x40) (BitVec.ofNat 64 (if w < 4 then a / 4 * 4 + w
    else a / 2 ^ 12 * 2 ^ 12 + 4 * ((bits a 11 2 + 1) % 1024)))

/-- HOSTEP_WIN_DATA: the entry changes for the next TLP, unchecked (R231). -/
def writeWin (word : Nat) (advance : Bool) (d : Dev) : Dev :=
  let i := d.field 8 0x40 11 2
  let j := d.field 8 0x40 1 0
  let d := match winAt d with
    | none => d
    | some w =>
      let n : Window := BitVec.ofNat 256 (w.toNat - bits w.toNat (64 * j + 63) (64 * j) * 2 ^ (64 * j) + word * 2 ^ (64 * j))
      match d.field 8 0x40 13 12 with
      | 2 => d.modInst (d.field 8 0x28 9 0) fun x => { x with windows := tset 0 x.windows i n }
      | e => d.modEp e fun x => { x with windows := tset 0 x.windows i n }
  if advance then winAdvance d else d

/-- ACCDMA_CH_CTRL acts as the doorbell bits of R244 (R250): enable keeps the last tail. Both bits together are a reserved
encoding. -/
def writeChannel (p : RegPlace) (word : Nat) (d : Dev) : Dev :=
  let c := d.field 9 0x28 7 0
  if bit word 0 && bit word 1 then reservedWrite p d
  else if bit word 0 then dmaDisable c d
  else if bit word 1 then dmaEnable c (d.dmaCh c).tail d
  else d

/-- NETENG_QUEUE_SHAPER (R272): rate and burst for the next refill. Bits 31:24 written alone are held until the upper half of burst
is written (R7). -/
def writeShaper (word : Nat) (t : Taken) (h : Half) (d : Dev) : Dev :=
  let q := d.field 10 0x30 13 0
  let was := shaperShown (d.netQueue q).shaper
  let hold := blockBase 10 + 0x40
  let d := if h = .low ∧ t.denied = false
    then d.csrSet hold (BitVec.ofNat 64 (1 + bits word 31 24 * 2 ^ 24))
    else if t.hit 24 then d.csrSet hold 0 else d
  if t.hit 0 || t.hit 24 then
    storeShaper (.queue q) (if t.hit 0 then bits word 23 0 else was.1) (if t.hit 24 then bits word 47 24 else was.2) d
  else d

/-- TRANSPORT_CONN_TIMER: the settings act at the connection's next timer expiry (R292). -/
def writeTimer (word : Nat) (d : Dev) : Dev :=
  d.modConn (d.field 11 0x10 15 0) fun c => { c with timerDue := some (bits word 9 0, bits word 13 10, bits word 20 14) }

/-- SECURITY_SHARED_JOB: the owner's descriptor, and go (R347); ignored from any other requester, and while a job runs. -/
def writeJob (r : Nat) (p : RegPlace) (word : Nat) (go : Bool) (d : Dev) : Dev :=
  if r = 0 ∨ d.sec.owner ≠ r then deny p d
  else if d.sec.jobGo then d
  else
    let d := d.modSec fun s => { s with jobAddr := word % 2 ^ 48 }
    if go && bit word 63 && word % 64 == 0 then startJob (word % 2 ^ 48) d else d

/-- CONTROL_CORE_CTRL.restart: the selected core restarts as CMD_CORE_RESTART has it; for cores 0–2 below debug level 2 the write is
ignored. -/
def writeRestart (p : RegPlace) (v : Vault) (word : Nat) (d : Dev) : Dev :=
  let k := d.field 15 0x18 4 0
  if bit word 0 = false then d
  else if k ≤ 2 ∧ v.debug < 2 then deny p d
  else if (d.coreCtl k).state = 1 ∨ (d.coreCtl k).state = 4 then restartCore k d
  else d

/-- OBSERVE_MARK: a core latches its counters; a physical function's write is ignored (R413). -/
def writeMark (r : Nat) (p : RegPlace) (word : Nat) (d : Dev) : Dev :=
  if r < 3 then deny p d else latchCore (r - 3) (bits word 15 0) (bit word 16) d

/-- What a register's accepted fields do. `r` the requester's code (R347), `word` the register's bits after the write, `old` before. -/
def regEffect (r : Nat) (v : Vault) (p : RegPlace) (h : Half) (t : Taken) (old : Nat) (d : Dev) : Dev :=
  let word := t.word
  let fire := h != .low
  let store := d.csrSet (blockBase p.block + (if p.block = 5 then p.unit * 0x4000 else if p.block = 6 then p.unit * 0x100000 else 0) + p.off)
    (BitVec.ofNat 64 word)
  match p.block, p.off with
  | 3, 0x10 =>
    if t.hit 4 && bit word 4 && decide (1 < d.groupSize) then deny p d
    else d.csrSet schedCtrl (BitVec.ofNat 64 (word ||| (old &&& 16)))
  | 3, 0x38 => if t.denied then d else writeTbl p word fire d
  | 4, 0x28 => if t.hits = [] then d else writePressure word d
  | 4, 0x40 => if t.hit 0 then writeGate p word d else d
  | 4, 0x48 => if t.hits = [] then d else writeSluice old word (t.hit 11) d
  | 5, 0x40 =>
    let d := if t.hit 0 then haltStreams p.unit (bits word 3 0) d else d
    if t.hit 4 then restartStreams p.unit (bits word 7 4) d else d
  | 5, 0x60 => if t.denied then d else writeOp p word fire d
  | 6, 0x38 => if t.hits = [] then d else writeScrub p.unit old word (t.hit 0) d
  | 6, 0x98 => if t.hits = [] then d else writeTest p.unit old word d
  | 8, 0x48 => if t.denied then d else writeWin word fire d
  | 9, 0x40 => if t.hits = [] then d else writeChannel p word d
  | 10, 0x30 => store.csrSet (blockBase 10 + 0x40) 0
  | 10, 0x40 => writeShaper word t h d
  | 10, 0x48 => if t.hit 0 then d.modNetPort (d.field 10 0x10 2 0) fun x => { x with flowFairDue := some (bit word 0) } else d
  | 11, 0x28 => if t.hits = [] then d else writeTimer word d
  | 12, 0x48 => if t.hit 0 then (List.range 4).foldl (fun d o => setPps o (bits word (2 * o + 1) (2 * o)) d) d else d
  | 13, 0x38 => if t.hits = [] then d else setIdle (d.field 13 0x28 1 0) (bits word 23 0) (bits word 55 32) d
  | 14, 0x48 =>
    let d := if t.hit 8 && bit word 8 then claimLock r d else d
    if t.hit 9 && bit word 9 then releaseLock r d else d
  | 14, 0x50 => writeJob r p word (t.hit 63) d
  | 15, 0x28 => if t.hit 0 then d.modCoreCtl (d.field 15 0x18 4 0) fun c => { c with period := bits word 9 0 } else d
  | 15, 0x30 => if t.hit 0 then writeRestart p v word d else d
  | 15, 0x48 => if t.hit 0 then d.modCtrl fun c => { c with baud := bits word 21 0 } else d
  | 16, 0x38 => if t.hit 0 then d.modRel fun x => { x with nanLimit := bits word 31 0 } else d
  | 16, 0x40 => if t.hit 0 && bit word 0 then suspect 6 0 d else d
  | 17, 0x10 =>
    if t.hits = [] ∨ d.obs.visible = false then d else setTrace (bits word 1 0) (bits word 4 2) (t.hit 5 && bit word 5) d
  | 17, 0x28 => if d.obs.visible = false then d else setSamples (bits word 15 0) (BitVec.ofNat 16 (bits word 31 16)) (BitVec.ofNat 19 (bits word 50 32)) d
  | 17, 0x30 => if t.hit 0 then writeMark r p word d else d
  | 18, 0x20 =>
    let d := if t.hit 0 then d.modPower fun x => { x with capW := bits word 15 0 } else d
    let d := d.csrSet (blockBase 18 + 0x20) (BitVec.ofNat 64 word)
    if t.hit 24 then d.modPower fun x => { x with throttleFactor := bits word 34 24 } else d
  | 18, 0x30 => if t.hit 0 && bit word 0 then orderWarm 1 d else d
  | _, _ => store

/-! ### Accesses -/

/-- The block is not expert-unlocked, or a manifest load is under way (R9, R14). -/
def blockLocked (d : Dev) (block : Nat) : Bool :=
  !d.expert.unlocked.contains block || decide (1 ≤ d.manifest.stage ∧ d.manifest.stage ≤ 5)

/-- The fields of a row as they stand: those of LOCKS_PRESSURE are reserved unless the selected lock is an ETH lock. -/
def rowNow (d : Dev) (p : RegPlace) (row : RegRow) : RegRow :=
  if p.block = 4 ∧ p.off = 0x28 ∧ lockKind (d.field 4 0x18 6 0) ≠ some .eth then { row with defined := 0, fields := [] } else row

/-- The bits that a status register's W1C fields store; for every other register what it reads. -/
def storedOrShown (v : Vault) (d : Dev) (p : RegPlace) : Nat :=
  if p.off = 8 then (d.csrGet (statusOff p.block p.unit)).toNat else (regWord v d p).toNat

/-- A write that R7 accepts, of a register that exists. -/
def writeReg (r : Nat) (p : RegPlace) (row : RegRow) (h : Half) (value : Word) (v : Vault) (d : Dev) : Dev :=
  let old := storedOrShown v d p
  let t := takeWrite p.block (rowNow d p row) (blockLocked d p.block) h (halfPlace h value) old
  let d := regEffect r v p h t old d
  let d := if t.denied then deny p d else d
  if t.rsvd then reservedWrite p d else d

/-- The doorbell j of an instance (R206): of a DMA channel, a storage queue or a send queue, or beyond them. The tails stand in the
low half; a write of the upper half alone keeps a channel's tail. -/
def ringDoorbell (inst j : Nat) (h : Half) (value : Word) (d : Dev) : Dev :=
  match (d.inst inst).dma[j]? with
  | some c => dmaDoorbell c (if h = .high then BitVec.ofNat 64 (halfPlace h value + (d.dmaCh c).tail) else BitVec.ofNat 64 (halfPlace h value)) d
  | none => match storAt d inst j with
    | some q => if h = .high then d else storTail q (BitVec.ofNat 64 (halfPlace h value)) d
    | none => match txAt d inst j with
      | some q => if h = .high then d else txTail q (BitVec.ofNat 64 (halfPlace h value)) d
      | none => badDoorbell inst j d

/-- The PF whose page or frame lies at an offset of a block: PF pages at HOSTEP offsets 0x1_0000 and 0x2_0000 (R207), frames at
MAILBOX offsets 0x1000 and 0x2000 (R356). -/
def pfPage (p : RegPlace) : Option (Nat × Nat) :=
  if p.block = 8 ∧ 0x10000 ≤ p.off ∧ p.off < 0x30000 then some (p.off / 0x10000 - 1, p.off % 0x10000) else none
def pfFrame (p : RegPlace) : Option (Nat × Nat) :=
  if p.block = 1 ∧ 0x1000 ≤ p.off ∧ p.off < 0x3000 then some (p.off / 0x1000 - 1, p.off % 0x1000) else none

/-- A requester that is the other physical function. -/
def otherPf (r pf : Nat) : Bool := decide ((r = 1 ∨ r = 2) ∧ r ≠ pf + 1)

/-- A write of `size` bytes at a register-space offset (R7, R9, R23). -/
def regWrite (r off size : Nat) (value : Word) (v : Vault) (d : Dev) : Dev :=
  match regPlace off with
  | none => d.seen 0 0 1
  | some p =>
    match halfOf off size with
    | none => deny p d
    | some h =>
      match pfPage p, pfFrame p with
      | some (pf, o), _ =>
        if otherPf r pf then deny p d
        else if 0x2000 ≤ o ∧ o < 0xA000 then ringDoorbell pf ((o - 0x2000) / 8) h value d
        else d
      | _, some (pf, o) => if otherPf r pf then deny p d else frameWrite pf o (leBytes size value.toNat) d
      | none, none =>
        let p := { p with off := p.off / 8 * 8 }
        match regRow p with
        | none => d.seen 0 0 1
        | some row => writeReg r p row h value v d

/-- What a read of a register changes (R7): a windowed index advances, RINGTIME_TIME_NS latches the fraction. -/
def readEffect (p : RegPlace) (h : Half) (d : Dev) : Dev :=
  let fire := h != .low
  match p.block, p.off with
  | 3, 0x38 => if fire then tblAdvance d else d
  | 4, 0x40 => if h != .high then gateAdvance d else d
  | 5, 0x60 => if fire then opAdvance p.unit d else d
  | 8, 0x48 => if fire then winAdvance d else d
  | 12, 0x30 => if fire then d.modTime fun t => { t with latched := t.frac } else d
  | _, _ => d

/-- A read of `size` bytes at a register-space offset: what R7 rejects and what no block decodes reads 0. -/
def regRead (off size : Nat) (v : Vault) (d : Dev) : Word × Dev :=
  match regPlace off, halfOf off size with
  | some p, some h =>
    match pfPage p, pfFrame p with
    | some (pf, o), _ => (BitVec.ofNat 64 (if o < 0x1000 then fieldLe (statusPage d pf) o size else 0), d)
    | _, some (pf, o) => (BitVec.ofNat 64 (fieldLe (d.frame pf).bytes o size), d)
    | none, none =>
      let p := { p with off := p.off / 8 * 8 }
      match regRow p with
      | none => (0, d)
      | some _ => (halfPick h (regWord v d p), readEffect p h d)
  | _, _ => (0, d)

/-! ### The commands -/

/-- REGISTER_WRITE (R7). -/
def execRegisterWrite (req : Req) (addr size : Nat) (value : Word) (s : State) : Host.Outcome State Fault Refusal :=
  onDevV (fun v d => regWrite req.val addr size value v d) s

/-- A write of the register at an offset by its own command. -/
def regCommand (off : Nat) (w : RegW) (s : State) : Host.Outcome State Fault Refusal :=
  onDevV (fun v d => regWrite w.req.val (off + (if w.half = .high then 4 else 0)) (if w.half = .both then 8 else 4) w.value v d) s

/-- An access, write or read, of a windowed data register. -/
def regAccess (off : Nat) (w : RegRW) (s : State) : Host.Outcome State Fault Refusal :=
  let o := off + (if w.half = .high then 4 else 0)
  let n := if w.half = .both then 8 else 4
  onDevV (fun v d => if w.write then regWrite w.req.val o n w.value v d else (regRead o n v d).2) s

/-- CANAL_SCHED_CTRL_SWITCH (R80). -/
def execCanalSchedCtrlSwitch (w : RegW) (s : State) : Host.Outcome State Fault Refusal := regCommand 0x1000010 w s

/-- CANAL_TBL_DATA_ACCESS (R80). -/
def execCanalTblDataAccess (w : RegRW) (s : State) : Host.Outcome State Fault Refusal := regAccess 0x1000038 w s

/-- LOCKS_SLUICE_GO (R97). -/
def execLocksSluiceGo (w : RegW) (s : State) : Host.Outcome State Fault Refusal := regCommand 0x2000048 w s

/-- LOCKS_GATE_DATA_ACCESS (R102). -/
def execLocksGateDataAccess (w : RegRW) (s : State) : Host.Outcome State Fault Refusal := regAccess 0x2000040 w s

/-- TILES_STREAM_CTRL_HALT: a write of TILES_STREAM_CTRL whose halt bits are set. -/
def execTilesStreamCtrlHalt (tile : Fin 528) (w : RegW) (s : State) : Host.Outcome State Fault Refusal :=
  regCommand (0x3000040 + tile.val * 0x4000) w s

/-- TILES_STREAM_CTRL_RESTART: a write of TILES_STREAM_CTRL whose restart bits are set. -/
def execTilesStreamCtrlRestart (tile : Fin 528) (w : RegW) (s : State) : Host.Outcome State Fault Refusal :=
  regCommand (0x3000040 + tile.val * 0x4000) w s

/-- TILES_OPSTORE_DATA_ACCESS (R129). -/
def execTilesOpstoreDataAccess (tile : Fin 528) (w : RegRW) (s : State) : Host.Outcome State Fault Refusal :=
  regAccess (0x3000060 + tile.val * 0x4000) w s

/-- HBM_SCRUB_CTRL_GO (R186). -/
def execHbmScrubCtrlGo (ctl : Fin 8) (w : RegW) (s : State) : Host.Outcome State Fault Refusal := regCommand (hbmReg ctl.val 0x38) w s

/-- HBM_TEST_RAW_WRITE (R188): a write of HBM_TEST_CTRL with op 1 and go. -/
def execHbmTestRawWrite (ctl : Fin 8) (w : RegW) (s : State) : Host.Outcome State Fault Refusal := regCommand (hbmReg ctl.val 0x98) w s

/-- HBM_TEST_RAW_READ (R188): a write of HBM_TEST_CTRL with op 2 and go. -/
def execHbmTestRawRead (ctl : Fin 8) (w : RegW) (s : State) : Host.Outcome State Fault Refusal := regCommand (hbmReg ctl.val 0x98) w s

/-- HBM_TEST_DISABLE (R188): a write of HBM_TEST_CTRL that clears test_en. -/
def execHbmTestDisable (ctl : Fin 8) (w : RegW) (s : State) : Host.Outcome State Fault Refusal := regCommand (hbmReg ctl.val 0x98) w s

/-- HOSTEP_WIN_DATA_ACCESS (R231). -/
def execHostepWinDataAccess (w : RegRW) (s : State) : Host.Outcome State Fault Refusal := regAccess 0x5000048 w s

/-- What a doorbell write of a DMA channel asks for (R244). -/
inductive DmaAsk where
  | tail | enable | disable | nothing
  deriving DecidableEq, Repr

/-- The bits 63 and 62 of a doorbell value decide. -/
def dmaAsk (value : Word) : DmaAsk :=
  match bit value.toNat 62, bit value.toNat 63 with
  | false, false => .tail
  | true, false => .enable
  | false, true => .disable
  | true, true => .nothing

/-- A doorbell of the kind the command names, of a channel that the instance has; or ACCDMA_CH_CTRL (R250). -/
def dmaCommand (ask : DmaAsk) (w : DoorbellWrite) (s : State) : Host.Outcome State Fault Refusal :=
  match w with
  | .doorbell i j value =>
    onDev (fun d => match (d.inst i.val).dma[j]? with
      | some c => if dmaAsk value = ask then dmaDoorbell c value d else d
      | none => d) s
  | .register w => regCommand 0x5400040 w s

/-- DMA_DOORBELL_TAIL (R244). -/
def execDmaDoorbellTail (w : DoorbellWrite) (s : State) : Host.Outcome State Fault Refusal := dmaCommand .tail w s

/-- DMA_CHANNEL_ENABLE (R244, R250). -/
def execDmaChannelEnable (w : DoorbellWrite) (s : State) : Host.Outcome State Fault Refusal := dmaCommand .enable w s

/-- DMA_CHANNEL_DISABLE (R245, R250). -/
def execDmaChannelDisable (w : DoorbellWrite) (s : State) : Host.Outcome State Fault Refusal := dmaCommand .disable w s

/-- NETENG_QUEUE_SHAPER_WRITE (R272). -/
def execNetengQueueShaperWrite (w : RegW) (s : State) : Host.Outcome State Fault Refusal := regCommand 0x6000040 w s

/-- NETENG_FLOWFAIR_WRITE (R272). -/
def execNetengFlowfairWrite (w : RegW) (s : State) : Host.Outcome State Fault Refusal := regCommand 0x6000048 w s

/-- TRANSPORT_CONN_TIMER_WRITE (R292). -/
def execTransportConnTimerWrite (w : RegW) (s : State) : Host.Outcome State Fault Refusal := regCommand 0x6800028 w s

/-- RINGTIME_PPS_CTRL_WRITE (R313). -/
def execRingtimePpsCtrlWrite (w : RegW) (s : State) : Host.Outcome State Fault Refusal := regCommand 0x7000048 w s

/-- RINGTIME_TIME_NS_READ: cluster time is read and its fraction latched. -/
def execRingtimeTimeNsRead (req : Req) (half : Half) (s : State) : Host.Outcome State Fault Refusal :=
  regAccess 0x7000030 { req := req, write := false, half := half, value := 0 } s

/-- STORAGE_IDLE_CTRL_WRITE (R330). -/
def execStorageIdleCtrlWrite (w : RegW) (s : State) : Host.Outcome State Fault Refusal := regCommand 0x7800038 w s

/-- CONTROL_CORE_CTRL_RESTART (R353). -/
def execControlCoreCtrlRestart (w : RegW) (s : State) : Host.Outcome State Fault Refusal := regCommand 0x8800030 w s

/-- RELIABILITY_NAN_LIMIT_WRITE (R411). -/
def execReliabilityNanLimitWrite (w : RegW) (s : State) : Host.Outcome State Fault Refusal := regCommand 0x9000038 w s

/-- RELIABILITY_FORCE_WRITE (R411). -/
def execReliabilityForceWrite (w : RegW) (s : State) : Host.Outcome State Fault Refusal := regCommand 0x9000040 w s

/-- OBSERVE_MARK_WRITE (R413). -/
def execObserveMarkWrite (w : RegW) (s : State) : Host.Outcome State Fault Refusal := regCommand 0x9800030 w s

/-- OBSERVE_TRACE_CTRL_WRITE (R422). -/
def execObserveTraceCtrlWrite (w : RegW) (s : State) : Host.Outcome State Fault Refusal := regCommand 0x9800010 w s

/-- OBSERVE_SAMPLE_CTRL_WRITE (R422). -/
def execObserveSampleCtrlWrite (w : RegW) (s : State) : Host.Outcome State Fault Refusal := regCommand 0x9800028 w s

/-- POWERCLK_CAP_WRITE (R433). -/
def execPowerclkCapWrite (w : RegW) (s : State) : Host.Outcome State Fault Refusal := regCommand 0xA000020 w s

/-- POWERCLK_RESET_CTRL_WARM (R433). -/
def execPowerclkResetCtrlWarm (w : RegW) (s : State) : Host.Outcome State Fault Refusal := regCommand 0xA000030 w s

end Sys2Proof.Machine
end

