-- ==== Sys2Proof/Machine/HostReq.lean ====
section
/-! DEFINITION. Memory requests of the hosts (chapter 9): register space and MSI-X of a physical function, the 64 KiB BAR0 of a
virtual one, and windows. A posted write of register space or of a window is taken at once or held on its link. -/

namespace Sys2Proof.Machine

/-! ### MSI-X tables (R204, R205, log entry 12) -/

/-- Word k of an MSI-X table before anything writes it: vector control is masked. -/
def msixDefault (k : Nat) : W32 := if k % 4 = 3 then 1 else 0

/-- Byte o of an instance's MSI-X table. -/
def msixByte (x : Inst) (o : Nat) : Byte := (tget (msixDefault (o / 4)) x.msixTable (o / 4)).extractLsb' (8 * (o % 4)) 8

/-- Byte o of its pending array. -/
def pbaByte (x : Inst) (o : Nat) : Byte :=
  BitVec.ofNat 8 (((List.range 8).map fun b => if x.msixPending.contains (8 * o + b) then 2 ^ b else 0).sum)

/-- Whole words written to a table of `n` vectors; what is unmasked then leaves the pending array. -/
def msixWrite (i n off : Nat) (bs : Bytes) (d : Dev) : Dev :=
  let put (t : Tab W32) (k : Nat) : Tab W32 :=
    if 4 * n ≤ off / 4 + k then t
    else tset (msixDefault (off / 4 + k)) t (off / 4 + k) (BitVec.ofNat 32 (fieldLe bs (4 * k) 4))
  if off % 4 ≠ 0 ∨ bs.length % 4 ≠ 0 then d
  else flushMsix i (d.modInst i fun x => { x with msixTable := (List.range (bs.length / 4)).foldl put x.msixTable })

/-! ### What the BARs hold (R204, R205) -/

/-- Bytes that a BAR of a function covers; 0 where it has none. -/
def barSize (f : HostFn) : Bar → Nat
  | .bar0 => if f.vf = 0 then 2 ^ 28 else 2 ^ 16
  | .bar2 => if f.vf = 0 then 2 ^ 42 else 2 ^ 40
  | .bar4 => if f.vf = 0 then 2 ^ 16 else 0

/-- Byte o of a VF's BAR0. -/
def vfByte (d : Dev) (i o : Nat) : Byte :=
  if o < 0x1000 then (statusPage d i).getD o 0
  else if o < 0x2000 then (d.frame i).bytes.getD (o - 0x1000) 0
  else if 0xE000 ≤ o ∧ o < 0xE100 then msixByte (d.inst i) (o - 0xE000)
  else if 0xF000 ≤ o ∧ o < 0xF008 then pbaByte (d.inst i) (o - 0xF000)
  else 0

/-- Byte o of a PF's BAR4. -/
def bar4Byte (d : Dev) (i o : Nat) : Byte :=
  if o < 0x8000 then msixByte (d.inst i) o else if o < 0x8100 then pbaByte (d.inst i) (o - 0x8000) else 0

/-- A write to a VF's BAR0: its mailbox frame, a doorbell or its MSI-X table; everything else is ignored. -/
def vfWrite (i o : Nat) (bs : Bytes) (d : Dev) : Dev :=
  if 0x1000 ≤ o ∧ o < 0x2000 then frameWrite i (o - 0x1000) bs d
  else if 0x2000 ≤ o ∧ o < 0xA000 then
    (match halfOf o bs.length with
     | some h => ringDoorbell i ((o - 0x2000) / 8) h (BitVec.ofNat 64 (leNat bs)) d
     | none => d)
  else if 0xE000 ≤ o ∧ o < 0xE100 then msixWrite i 16 (o - 0xE000) bs d
  else d

/-! ### Requests (R203, R209, R214, R220) -/

/-- AER of a function shows an uncorrectable error, wherever its configuration stands. -/
def fnAer (f : HostFn) (b : Nat) (d : Dev) : Dev :=
  match fnConfig d f with
  | some i => aerSet i b d
  | none => d.modDormant f fun c => { c with aerUnc := c.aerUnc ||| 2 ^ b }

/-- A request completes with Unsupported Request: counted for its instance, shown by AER, and answered if it is a read, whose tag and
Relaxed Ordering attribute `tag` gives. -/
def refuseHost (f : HostFn) (tag : Option (Nat × Bool)) (d : Dev) : Dev :=
  let d := match fnConfig d f with | some i => countUr i d | none => fnAer f aerUr d
  match tag with | some t => d.emit (.completion f.ep.val t.1 .unsupported [] false t.2) | none => d

/-- A TLP that no BAR is asked about (R203): an AtomicOp or an unsupported prefix is refused, and one with a wrong ECRC is discarded
while checking is enabled and shown by AER (log entry 141). -/
def strangeTlp (f : HostFn) (form : TlpForm) (tag : Option (Nat × Bool)) (d : Dev) : Option Dev :=
  match form with
  | .plain => none
  | .badEcrc => if (d.ep f.ep.val).ecrcCheck then some (fnAer f aerEcrc d) else none
  | _ => some (refuseHost f tag d)

/-- An earlier posted write of the function has not been delivered: it waits in a chamber or its last barge is on the canal. -/
def behindWrite (d : Dev) (f : HostFn) : Bool :=
  let key := orderKey f.ep.val f.vf.val
  (d.locks.tab.any fun e => e.2.queue.any fun w => w.order == some key && decide (w.kind = .write)) ||
    decide (0 < tget 0 d.locks.orderSlot key ∧ d.now ≤ tget 0 d.locks.orderSlot key)

/-- The instance for which a function's memory requests act: none while the function or its memory space is not enabled, or its
physical function is in D3hot (R202). -/
def requester (d : Dev) (f : HostFn) : Option Nat :=
  match fnInst d f with
  | some i => if (f.vf = 0 ∧ (d.inst i).mse = false) ∨ (d.inst f.ep.val).d3 then none else some i
  | none => none

/-- A span that a host request may reach; a read of a TRACE region only by a PF while the letter O holds (R191, R333). -/
def hostSpan (v : Vault) (d : Dev) (f : HostFn) (isRead : Bool) (a n : Nat) : Bool :=
  outsideSpan d (isRead && decide (f.vf = 0) && letterO v d) a n

/-- A posted write through a window. With no room in the chamber the link holds it. -/
def windowWrite (f : HostFn) (off : Nat) (bs : Bytes) (relaxed poison second : Bool) (v : Vault) (d : Dev) : Dev :=
  match translate d f off bs.length true with
  | none => refuseHost f none d
  | some x =>
    let noted (d : Dev) : Dev := if poison then hostPoison f.ep.val 0 x.inst x.addr d else d
    if !hostSpan v d f false x.addr bs.length then refuseHost f none d
    else if inFailed d x.addr bs.length then noted d
    else match lockArrive (epLock f.ep.val second) x.inst (some (orderKey f.ep.val f.vf.val)) (relaxed && !x.strict)
        (.write x.addr bs poison 0) d with
      | (.waits _, d) => noted d
      | (.unmapped, d) => refuseHost f none d
      | (.failed, d) => noted d
      | (.full, _) => d

/-- A read through a window: its completions follow from the data barges (HOST_READ_COMPLETION). -/
def windowRead (f : HostFn) (off n tag : Nat) (relaxed second : Bool) (v : Vault) (d : Dev) : Dev :=
  match translate d f off n false with
  | none => refuseHost f (some (tag, relaxed)) d
  | some x =>
    let l := epLock f.ep.val second
    let r : HostRead := { port := f.ep.val, tag := tag, inst := x.inst, addr := off, length := n, relaxed := relaxed,
                          route := readRoute d l x.addr }
    let poisoned (d : Dev) : Dev := completeBytes r off (List.replicate n 0) [(0, n)] d
    if !hostSpan v d f true x.addr n then refuseHost f (some (tag, relaxed)) d
    else if inFailed d x.addr n then poisoned d
    else match lockArrive l x.inst (some (orderKey f.ep.val f.vf.val)) false (.read x.addr n 0) d with
      | (.waits id, e) => e.modHost fun h => { h with reads := h.reads ++ [{ r with id := id }] }
      | (.unmapped, d) => refuseHost f (some (tag, relaxed)) d
      | (.failed, d) => poisoned d
      | (.full, _) => d

/-- A host's posted write. One that would pass an earlier write of its function is held on the link. -/
def hostWrite (f : HostFn) (bar : Bar) (off : Nat) (bs : Bytes) (relaxed poison second : Bool) (form : TlpForm) (v : Vault) (d : Dev) : Dev :=
  if (d.ep f.ep.val).up = false ∨ bs = [] then d
  else match strangeTlp f form none d with
  | some d => d
  | none => match requester d f with
    | none => refuseHost f none d
    | some i =>
      if barSize f bar < off + bs.length then refuseHost f none d
      else match bar with
        | .bar2 => windowWrite f off bs relaxed poison second v d
        | .bar0 =>
          if behindWrite d f ∧ relaxed = false then d
          else if poison then hostPoison f.ep.val 0 i off d
          else if f.vf = 0 then regWrite (f.ep.val + 1) off bs.length (BitVec.ofNat 64 (leNat bs)) v d
          else vfWrite i off bs d
        | .bar4 =>
          if behindWrite d f ∧ relaxed = false then d
          else if poison then hostPoison f.ep.val 0 i off d
          else if off < 0x8000 then msixWrite i 2048 off bs d
          else d

/-- A host's read. -/
def hostRead (f : HostFn) (bar : Bar) (off n tag : Nat) (relaxed second : Bool) (form : TlpForm) (v : Vault) (d : Dev) : Dev :=
  if (d.ep f.ep.val).up = false ∨ n = 0 ∨ 4096 < n then d
  else match strangeTlp f form (some (tag, relaxed)) d with
  | some d => d
  | none => match requester d f with
    | none => refuseHost f (some (tag, relaxed)) d
    | some i =>
      let answer (bs : Bytes) (d : Dev) : Dev :=
        completeBytes { port := f.ep.val, tag := tag, inst := i, addr := off, length := n, relaxed := relaxed } off bs [] d
      if barSize f bar < off + n then refuseHost f (some (tag, relaxed)) d
      else match bar with
        | .bar2 => windowRead f off n tag relaxed second v d
        | .bar0 =>
          if behindWrite d f then d
          else if f.vf = 0 then
            let r := regRead off n v d
            answer (fit n (leBytes 8 r.1.toNat)) r.2
          else answer ((List.range n).map fun k => vfByte d i (off + k)) d
        | .bar4 => if behindWrite d f then d else answer ((List.range n).map fun k => bar4Byte d i (off + k)) d

/-- HOST_MEMORY_WRITE (R203–R209, R220, R222): a posted write of a function to a BAR; `second` says which of the endpoint's two
locks takes it (log entry 96). -/
def execHostMemoryWrite (fn : HostFn) (bar : Bar) (off : Nat) (bytes : Bytes) (relaxed poison : Bool) (how : WriteForm) (s : State) :
    Host.Outcome State Fault Refusal :=
  onDevV (hostWrite fn bar off bytes relaxed poison how.second how.form) s

/-- HOST_MEMORY_READ (R203–R209, R220). -/
def execHostMemoryRead (fn : HostFn) (bar : Bar) (off length tag : Nat) (how : ReadForm) (s : State) :
    Host.Outcome State Fault Refusal :=
  onDevV (hostRead fn bar off length tag how.relaxed how.second how.form) s

end Sys2Proof.Machine
end

