-- ==== Sys2Proof/Machine/VolilCode.lean ====
section
/-! DEFINITION. Volil instructions and their encoding (R371–R376, R383): what the bytes at an address say. -/

namespace Sys2Proof.Machine

/-- The two-operand operations of R376. -/
inductive AluOp where
  | mov | add | adc | sub | sbc | and | or | xor | shl | shr | sar | mul | mulhu | divu | remu | cmp
  deriving DecidableEq, Repr

/-- The operations of format RR beyond them. -/
inductive RrOp where
  | not | neg | tst | mfc | mtc | callr | jmpr | sext
  deriving DecidableEq, Repr

/-- The operations of format M. -/
inductive MemOp where
  | ld | lds | st | sti | lea | swap
  deriving DecidableEq, Repr

/-- An instruction; operands stand as the formats encode them (R373), with the core that executes it. -/
inductive VInstr where
  | nop
  | wait
  | tret
  | ret
  | fence
  | sys (imm : Byte)
  | brk
  | alu (op : AluOp) (o : VolilRR)
  | aluImm (op : AluOp) (o : VolilRI)
  | rr (op : RrOp) (o : VolilRR)
  | bcc (cc : Fin 16) (wide : Bool) (disp : W32)
  | call (disp : W32)
  | mem (op : MemOp) (o : VolilM)
  | ext (x : Byte)
  deriving DecidableEq, Repr

/-- What a byte string says: more bytes are needed, an undefined encoding, or an instruction and its length. -/
inductive Decoded where
  | more
  | undefined
  | found (i : VInstr) (length : Nat)
  deriving DecidableEq, Repr

/-- The prefixes met before the opcode (R372). -/
structure Prefixes where
  size : Option VSize := none
  sync : Bool := false
  deriving DecidableEq, Repr

/-- Operand size in bits, and an access size in bytes. -/
def vBits : VSize → Nat
  | .s8 => 8
  | .s16 => 16
  | .s32 => 32
  | .s64 => 64

def vBytes (z : VSize) : Nat := vBits z / 8

/-- A nibble of a byte as a register number. -/
def hiNibble (b : Byte) : Fin 16 := ⟨b.toNat / 16 % 16, Nat.mod_lt _ (by decide)⟩
def loNibble (b : Byte) : Fin 16 := ⟨b.toNat % 16, Nat.mod_lt _ (by decide)⟩

/-- `n` bytes of operands: complete, still missing, or beyond the 15 bytes of R375. -/
def operands (used n : Nat) (rest : Bytes) (f : Bytes → Decoded) : Decoded :=
  if 15 < used + n then .undefined
  else if rest.length < n then .more
  else f (rest.take n)

/-- The operations 0x10–0x1F and 0x20–0x2F by their low nibble. -/
def aluOp : Nat → AluOp
  | 0 => .mov
  | 1 => .add
  | 2 => .adc
  | 3 => .sub
  | 4 => .sbc
  | 5 => .and
  | 6 => .or
  | 7 => .xor
  | 8 => .shl
  | 9 => .shr
  | 10 => .sar
  | 11 => .mul
  | 12 => .mulhu
  | 13 => .divu
  | 14 => .remu
  | _ => .cmp

/-- Format RR (R373): the register byte. -/
def decodeRr (core : Fin 19) (p : Prefixes) (used : Nat) (rest : Bytes) (ok : VolilRR → Bool) (f : VolilRR → VInstr) : Decoded :=
  operands used 1 rest fun b =>
    let o : VolilRR := { core := core, size := p.size.getD .s64, d := hiNibble (b.getD 0 0), s := loNibble (b.getD 0 0) }
    if p.sync then .undefined else if ok o then .found (f o) (used + 1) else .undefined

/-- Format RI (R373): an immediate of 2^isz bytes, not above the operand size. -/
def decodeRi (core : Fin 19) (op : AluOp) (p : Prefixes) (used : Nat) (rest : Bytes) : Decoded :=
  operands used 1 rest fun b =>
    let z := p.size.getD .s64
    let isz : Fin 4 := ⟨(b.getD 0 0).toNat / 4 % 4, Nat.mod_lt _ (by decide)⟩
    if p.sync ∨ (b.getD 0 0).toNat % 4 ≠ 0 ∨ vBytes z < 2 ^ isz.val then .undefined
    else operands (used + 1) (2 ^ isz.val) (rest.drop 1) fun i =>
      .found (.aluImm op { core := core, size := z, d := hiNibble (b.getD 0 0), isz := isz, imm := BitVec.ofNat 64 (leNat i) })
        (used + 1 + 2 ^ isz.val)

/-- Displacement bytes of a mode byte (R374). -/
def dispBytes : Nat → Nat
  | 0 => 0
  | 1 => 1
  | 2 => 2
  | _ => 4

/-- Format M (R373, R374). -/
def decodeM (core : Fin 19) (op : MemOp) (p : Prefixes) (used : Nat) (rest : Bytes) : Decoded :=
  operands used 2 rest fun b =>
    let m := (b.getD 1 0).toNat
    let o : VolilM := { core := core, size := p.size.getD .s64, sync := p.sync, d := hiNibble (b.getD 0 0), base := loNibble (b.getD 0 0),
                        index := hiNibble (b.getD 1 0), indexEn := bit m 3, pcrel := bit m 2,
                        dsz := ⟨m % 4, Nat.mod_lt _ (by decide)⟩, disp := 0, imm := 0 }
    let n := dispBytes (m % 4)
    let k := if op = .sti then vBytes o.size else 0
    if (o.pcrel && o.base != 0) || (op == .sti && o.d != 0) || ((op == .lea || op == .swap) && p.size.isSome) then .undefined
    else operands (used + 2) (n + k) (rest.drop 2) fun e =>
      .found (.mem op { o with disp := BitVec.ofNat 32 (leNat (e.take n)), imm := BitVec.ofNat 64 (leNat (e.drop n)) }) (used + 2 + n + k)

/-- The opcode map (R376): `used` bytes are read with the opcode. -/
def decodeOpcode (core : Fin 19) (p : Prefixes) (op used : Nat) (rest : Bytes) : Decoded :=
  let bare := decide (p = {})
  let plain (i : VInstr) : Decoded := if bare then .found i used else .undefined
  if op = 0x00 then plain .nop
  else if op = 0x01 then plain .wait
  else if op = 0x02 then plain .tret
  else if op = 0x03 then plain .ret
  else if op = 0x04 then plain .fence
  else if op = 0x05 then (if bare then operands used 1 rest fun b => .found (.sys (b.getD 0 0)) (used + 1) else .undefined)
  else if op = 0x06 then plain .brk
  else if 0x10 ≤ op ∧ op ≤ 0x1F then decodeRr core p used rest (fun _ => true) (.alu (aluOp (op % 16)))
  else if (0x20 ≤ op ∧ op ≤ 0x2B) ∨ op = 0x2F then decodeRi core (aluOp (op % 16)) p used rest
  else if op = 0x30 then decodeRr core p used rest (fun o => o.s == 0) (.rr .not)
  else if op = 0x31 then decodeRr core p used rest (fun o => o.s == 0) (.rr .neg)
  else if op = 0x32 then decodeRr core p used rest (fun _ => true) (.rr .tst)
  else if op = 0x33 then decodeRr core p used rest (fun o => p.size.isNone && decide (o.s.val < 10)) (.rr .mfc)
  else if op = 0x34 then decodeRr core p used rest (fun o => p.size.isNone && [0, 1, 2, 3, 4, 9].contains o.d.val) (.rr .mtc)
  else if op = 0x35 then decodeRr core p used rest (fun o => p.size.isNone && o.d == 0) (.rr .callr)
  else if op = 0x36 then decodeRr core p used rest (fun o => p.size.isNone && o.d == 0) (.rr .jmpr)
  else if op = 0x37 then decodeRr core p used rest (fun _ => p.size.isSome) (.rr .sext)
  else if 0x40 ≤ op ∧ op ≤ 0x5F then
    let wide := decide (0x50 ≤ op)
    let n := if wide then 4 else 2
    if bare = false ∨ op % 16 = 15 then .undefined
    else operands used n rest fun b =>
      .found (.bcc ⟨op % 16, Nat.mod_lt _ (by decide)⟩ wide (BitVec.ofNat 32 (leNat b))) (used + n)
  else if op = 0x60 then (if bare then operands used 4 rest fun b => .found (.call (BitVec.ofNat 32 (leNat b))) (used + 4) else .undefined)
  else if op = 0x70 then decodeM core .ld p used rest
  else if op = 0x71 then decodeM core .lds p used rest
  else if op = 0x72 then decodeM core .st p used rest
  else if op = 0x73 then decodeM core .sti p used rest
  else if op = 0x74 then decodeM core .lea p used rest
  else if op = 0x75 then decodeM core .swap p used rest
  else .undefined

/-- Prefixes, then the opcode (R372): any order, none twice, at most one size; EXT alone. -/
def decodeFrom (core : Fin 19) : Prefixes → Nat → Bytes → Decoded
  | _, _, [] => .more
  | p, used, b :: rest =>
    let sized (z : VSize) : Decoded := if p.size.isSome then .undefined else decodeFrom core { p with size := some z } (used + 1) rest
    if b = 0xE0#8 then sized .s8
    else if b = 0xE1#8 then sized .s16
    else if b = 0xE2#8 then sized .s32
    else if b = 0xE5#8 then (if p.sync then .undefined else decodeFrom core { p with sync := true } (used + 1) rest)
    else if b = 0xE4#8 then
      (if p = {} then operands (used + 1) 1 rest fun x => .found (.ext (x.getD 0 0)) (used + 2) else .undefined)
    else decodeOpcode core p b.toNat (used + 1) rest

/-- The instruction that a byte string begins with. -/
def decodeVolil (core : Fin 19) (bs : Bytes) : Decoded := decodeFrom core {} 0 bs

/-! ### Encoding (R371–R376) -/

/-- The low nibble of an operation's opcode. -/
def aluCode : AluOp → Nat
  | .mov => 0
  | .add => 1
  | .adc => 2
  | .sub => 3
  | .sbc => 4
  | .and => 5
  | .or => 6
  | .xor => 7
  | .shl => 8
  | .shr => 9
  | .sar => 10
  | .mul => 11
  | .mulhu => 12
  | .divu => 13
  | .remu => 14
  | .cmp => 15

def rrCode : RrOp → Nat
  | .not => 0
  | .neg => 1
  | .tst => 2
  | .mfc => 3
  | .mtc => 4
  | .callr => 5
  | .jmpr => 6
  | .sext => 7

def memCode : MemOp → Nat
  | .ld => 0
  | .lds => 1
  | .st => 2
  | .sti => 3
  | .lea => 4
  | .swap => 5

/-- The size prefix: none for 64 bits (R372). -/
def sizePrefix : VSize → Bytes
  | .s8 => [0xE0#8]
  | .s16 => [0xE1#8]
  | .s32 => [0xE2#8]
  | .s64 => []

/-- Two register numbers in a byte. -/
def nibbles (hi lo : Nat) : Byte := BitVec.ofNat 8 (16 * hi + lo)

/-- The bytes of an instruction, its size prefix before SYNC (R372, R373, R376). -/
def encodeVolil : VInstr → Bytes
  | .nop => [0x00#8]
  | .wait => [0x01#8]
  | .tret => [0x02#8]
  | .ret => [0x03#8]
  | .fence => [0x04#8]
  | .sys imm => [0x05#8, imm]
  | .brk => [0x06#8]
  | .alu op o => sizePrefix o.size ++ [BitVec.ofNat 8 (0x10 + aluCode op), nibbles o.d.val o.s.val]
  | .aluImm op o =>
    sizePrefix o.size ++ [BitVec.ofNat 8 (0x20 + aluCode op), nibbles o.d.val (4 * o.isz.val)] ++ leBytes (2 ^ o.isz.val) o.imm.toNat
  | .rr op o => sizePrefix o.size ++ [BitVec.ofNat 8 (0x30 + rrCode op), nibbles o.d.val o.s.val]
  | .bcc cc wide disp => BitVec.ofNat 8 ((if wide then 0x50 else 0x40) + cc.val) :: leBytes (if wide then 4 else 2) disp.toNat
  | .call disp => 0x60#8 :: leBytes 4 disp.toNat
  | .mem op o =>
    sizePrefix o.size ++ (if o.sync then [0xE5#8] else []) ++
      [BitVec.ofNat 8 (0x70 + memCode op), nibbles o.d.val o.base.val,
       nibbles o.index.val (8 * b2n o.indexEn + 4 * b2n o.pcrel + o.dsz.val)] ++
      leBytes (dispBytes o.dsz.val) o.disp.toNat ++ (if op = .sti then leBytes (vBytes o.size) o.imm.toNat else [])
  | .ext x => [0xE4#8, x]

/-- An instruction that an encoding of R371–R376 stands for: core `core`'s, its fields within their widths, at most 15 bytes. -/
def VInstr.wf (core : Fin 19) (i : VInstr) : Bool :=
  decide ((encodeVolil i).length ≤ 15) &&
  match i with
  | .alu _ o => o.core == core
  | .aluImm op o =>
    o.core == core && op != .mulhu && op != .divu && op != .remu && decide (2 ^ o.isz.val ≤ vBytes o.size) &&
      decide (o.imm.toNat < 2 ^ (8 * 2 ^ o.isz.val))
  | .rr op o =>
    o.core == core &&
    (match op with
     | .not => o.s == 0
     | .neg => o.s == 0
     | .tst => true
     | .mfc => o.size == .s64 && decide (o.s.val < 10)
     | .mtc => o.size == .s64 && [0, 1, 2, 3, 4, 9].contains o.d.val
     | .callr => o.size == .s64 && o.d == 0
     | .jmpr => o.size == .s64 && o.d == 0
     | .sext => o.size != .s64)
  | .bcc cc wide disp => cc != 15 && (wide || decide (disp.toNat < 2 ^ 16))
  | .mem op o =>
    o.core == core && !(o.pcrel && o.base != 0) && !(op == .sti && o.d != 0) && !((op == .lea || op == .swap) && o.size != .s64) &&
      decide (o.disp.toNat < 2 ^ (8 * dispBytes o.dsz.val)) &&
      (if op = .sti then decide (o.imm.toNat < 2 ^ (8 * vBytes o.size)) else o.imm == 0)
  | _ => true

/-! ### Bodies of the extension store (R383) -/

/-- An instruction that an extension body may hold. -/
def bodyAllows : VInstr → Bool
  | .ext _ => false
  | .bcc _ _ _ => false
  | .call _ => false
  | .rr .callr _ => false
  | .rr .jmpr _ => false
  | .ret => false
  | .tret => false
  | .wait => false
  | .sys _ => false
  | .brk => false
  | _ => true

/-- The instructions of a body with their offsets: none where one is undefined or forbidden, or they do not end at its end. -/
def bodyCode (core : Fin 19) : Nat → Nat → Bytes → Option (List (Nat × VInstr × Nat))
  | 0, _, bs => if bs = [] then some [] else none
  | fuel + 1, off, bs =>
    if bs = [] then some []
    else match decodeVolil core bs with
      | .found i n => if bodyAllows i then (bodyCode core fuel (off + n) (bs.drop n)).map fun l => (off, i, n) :: l else none
      | _ => none

end Sys2Proof.Machine
end

