-- ==== Sys2Proof/Machine/Volil.lean ====
section
/-! DEFINITION. The Volilnos cores (chapter 17): fetching, what each instruction does, traps, interrupts, prediction, core debug. An
instruction's command acts when the bytes at the core's pc say that instruction. -/

namespace Sys2Proof.Machine

/-! ### Registers and flags (R370, R371) -/

/-- General register n. -/
def Core.gr (c : Core) (n : Nat) : Word := tget 0 c.g n

/-- Write general register n. -/
def Core.setGr (c : Core) (n : Nat) (w : Word) : Core := { c with g := tset 0 c.g n w }

/-- Flags C, V, Z, N, I, T. -/
def Core.flag (c : Core) (n : Nat) : Bool := c.fl.getLsbD n

/-- Code memory and data memory (R378). -/
def codeBase : Nat := 0xF00000000000
def dataBase : Nat := 0xF00000100000

/-- An address in code memory, and a span in data memory. -/
def inCode (a : Nat) : Bool := decide (codeBase ≤ a ∧ a < codeBase + 0x80000)
def inData (a n : Nat) : Bool := decide (dataBase ≤ a ∧ a + n ≤ dataBase + 0x40000)

/-- FL after an operation at w bits: N and Z from the result, C and V as given; I and T unchanged. -/
def flagsAfter (fl : Word) (w r : Nat) (c v : Bool) : Word :=
  BitVec.ofNat 64 ((fl.toNat &&& 0x30) + b2n c + 2 * b2n v + 4 * b2n (decide (r = 0)) + 8 * b2n (bit r (w - 1)))

/-- What an operation gives: a result, and C and V where it sets flags. -/
structure AluOut where
  value : Nat
  flags : Option (Bool × Bool) := none
  writes : Bool := true
  deriving DecidableEq, Repr

/-- Sum at w bits with a carry in. -/
def addAt (w a b c : Nat) : AluOut :=
  let r := (a + b + c) % 2 ^ w
  { value := r, flags := some (decide (2 ^ w ≤ a + b + c), bit a (w - 1) == bit b (w - 1) && bit a (w - 1) != bit r (w - 1)) }

/-- Difference at w bits with a borrow in. -/
def subAt (w a b c : Nat) : AluOut :=
  let r := (a + 2 ^ (w + 1) - b - c) % 2 ^ w
  { value := r, flags := some (decide (a < b + c), bit a (w - 1) != bit b (w - 1) && bit a (w - 1) != bit r (w - 1)) }

/-- A shift at w bits by n < w; `out` the last bit shifted out. -/
def shiftAt (r n : Nat) (out : Bool) : AluOut := { value := r, flags := some (if n = 0 then false else out, false) }

/-- The operations of 0x10–0x1F at w bits; none: division by zero (R371, R376). -/
def aluAt (op : AluOp) (w a b c : Nat) : Option AluOut :=
  let n := b % w
  match op with
  | .mov => some { value := b }
  | .add => some (addAt w a b 0)
  | .adc => some (addAt w a b c)
  | .sub => some (subAt w a b 0)
  | .sbc => some (subAt w a b c)
  | .and => some { value := a &&& b, flags := some (false, false) }
  | .or => some { value := a ||| b, flags := some (false, false) }
  | .xor => some { value := a ^^^ b, flags := some (false, false) }
  | .shl => some (shiftAt (a * 2 ^ n % 2 ^ w) n (bit a (w - n)))
  | .shr => some (shiftAt (a / 2 ^ n) n (bit a (n - 1)))
  | .sar => some (shiftAt ((sext w a / 2 ^ n) % (2 ^ w : Nat)).toNat n (bit a (n - 1)))
  | .mul => some { value := a * b % 2 ^ w, flags := some (false, false) }
  | .mulhu => some { value := a * b / 2 ^ w, flags := some (false, false) }
  | .divu => if b = 0 then none else some { value := a / b }
  | .remu => if b = 0 then none else some { value := a % b }
  | .cmp => some { subAt w a b 0 with writes := false }

/-- The core with an operation's result and flags. -/
def Core.take (c : Core) (w d : Nat) (r : AluOut) : Core :=
  let c := match r.flags with | some f => { c with fl := flagsAfter c.fl w r.value f.1 f.2 } | none => c
  if r.writes then c.setGr d (BitVec.ofNat 64 r.value) else c

/-- A condition (R377). -/
def holds (fl : Word) (cc : Nat) : Bool :=
  let c := fl.getLsbD 0
  let v := fl.getLsbD 1
  let z := fl.getLsbD 2
  let n := fl.getLsbD 3
  let base := match cc % 8 with
    | 0 => z
    | 1 => n
    | 2 => c
    | 3 => v
    | 4 => c || z
    | 5 => n != v
    | 6 => z || n != v
    | _ => true
  if 8 ≤ cc then !base else base

/-- Control register n as MFC reads it. -/
def Core.ctl (c : Core) (k n : Nat) : Nat :=
  match n with
  | 0 => c.epc.toNat
  | 1 => c.efl.toNat
  | 2 => c.cause.toNat
  | 3 => c.badaddr.toNat
  | 4 => c.vbase.toNat
  | 5 => k
  | 6 => c.cycle.toNat
  | 7 => c.retired.toNat
  | 8 => c.wrongpath.toNat
  | _ => c.timecmp.toNat

/-- MTC: none where the value makes it undefined. -/
def Core.setCtl (c : Core) (n : Nat) (w : Word) : Option Core :=
  match n with
  | 0 => some { c with epc := w.setWidth 48 }
  | 1 => some { c with efl := w }
  | 2 => some { c with cause := BitVec.ofNat 64 (w.toNat % 2 ^ 24) }
  | 3 => some { c with badaddr := w.setWidth 48 }
  | 4 => if inCode w.toNat ∧ w.toNat % 256 = 0 then some { c with vbase := w.setWidth 48 } else none
  | _ => some { c with timecmp := w }

/-! ### Fetching (R375, R378, R379) -/

/-- What stands at the pc: a fetch fault with its address, an undefined encoding, an instruction and its length. -/
inductive Fetched where
  | fault (a : Nat)
  | undefined
  | found (i : VInstr) (length : Nat)
  deriving DecidableEq, Repr

/-- Bytes of code memory from an address on that can be fetched, at most 15. -/
def Core.fetchable (c : Core) (a : Nat) : Nat :=
  ((List.range 15).takeWhile fun i => inCode (a + i) && decide (tget 0 c.codeErr ((a + i - codeBase) / 8) = 0)).length

/-- Core k fetches at its pc. -/
def fetchAt (d : Dev) (k : Fin 19) : Fetched :=
  let c := d.core k.val
  let a := c.pc.toNat
  let n := c.fetchable a
  match decodeVolil k (tspan 0 c.code (a - codeBase) n) with
  | .found i l => .found i l
  | .undefined => .undefined
  | .more => if n < 15 then .fault (a + n) else .undefined

/-! ### What an instruction comes to -/

/-- A next pc (with a misprediction or not), a trap, or a wait for the target of an access. -/
inductive VOut where
  | next (pc : Nat) (missed : Bool) (d : Dev)
  | trap (vector imm : Nat) (addr : Option Nat) (d : Dev)
  | wait (store : Option (Nat × Nat))

/-- The lock through which core k reaches device memory (R81; which CONTROL lock is a core's is log entry 95). -/
def coreLock (k : Nat) : Nat := if k = 0 then 58 else if k = 1 then 124 else 59

/-- Device memory that a core may address: mapped and outside the reserved ranges (R378). -/
def deviceMemory (d : Dev) (a n : Nat) : Bool := decide (a < csrBase) && outsideSpan d false a n

/-- An address in register space. -/
def inRegisters (a n : Nat) : Bool := decide (csrBase ≤ a ∧ a + n ≤ csrBase + 2 ^ 28)

/-- A load of n bytes: value, a trap, or a wait, of a store with its address and length. -/
inductive LoadOut where
  | value (w : Nat) (d : Dev)
  | trap (vector : Nat)
  | wait (store : Option (Nat × Nat))

/-- Data at an address of core k (R378, R379): the misaligned access before the access fault. -/
def loadAt (v : Vault) (k a n : Nat) (d : Dev) : LoadOut :=
  let c := d.core k
  if a % n ≠ 0 then .trap 4
  else if inCode a then
    if tget 0 c.codeErr ((a - codeBase) / 8) = 0 then .value (leNat (tspan 0 c.code (a - codeBase) n)) d else .trap 7
  else if inData a n then
    if tget 0 c.dataErr ((a - dataBase) / 8) = 0 then .value (leNat (tspan 0 c.data (a - dataBase) n)) d else .trap 7
  else if inRegisters a n then
    let r := regRead (a - csrBase) n v d
    .value r.1.toNat r.2
  else if deviceMemory d a n then
    if withheld d (coreLock k) || hbmWaits d a n then .wait none
    else
      let r := memRead 0 a n d
      if r.1.2 then .trap 7 else .value (leNat r.1.1) r.2
  else .trap 3

/-- A store of bytes: the device after it, a trap, or a wait. -/
def storeAt (v : Vault) (k a : Nat) (bs : Bytes) (d : Dev) : LoadOut :=
  let n := bs.length
  if a % n ≠ 0 then .trap 4
  else if inData a n then
    .value 0 (d.modCore k fun c => { c with data := tputs 0 c.data (a - dataBase) bs,
                                            dataErr := if n = 8 then tset 0 c.dataErr ((a - dataBase) / 8) 0 else c.dataErr })
  else if inRegisters a n then .value 0 (regWrite (k + 3) (a - csrBase) n (BitVec.ofNat 64 (leNat bs)) v d)
  else if !inCode a && deviceMemory d a n then
    if withheld d (coreLock k) || !canWrite d (some (coreLock k)) a n then .wait (some (a, n))
    else .value 0 (engineWrite (some (coreLock k)) 0 a bs false d)
  else .trap 3

/-- Effective address (R374). -/
def vEa (c : Core) (next : Nat) (o : VolilM) : Nat :=
  let disp : Int := if o.dsz = 0 then 0 else sext (8 * dispBytes o.dsz.val) o.disp.toNat
  let base := if o.pcrel then next else (c.gr o.base.val).toNat
  let index := if o.indexEn then (c.gr o.index.val).toNat * vBytes o.size else 0
  ((((base + index : Nat) : Int) + disp) % (2 ^ 48 : Nat)).toNat

/-- Count one of the core's counters (R412). -/
def Core.count (c : Core) (i : Nat) : Core := { c with counters := tset 0 c.counters i (tget 0 c.counters i + 1) }

/-- Format M (R376): LD, LDS, ST, STI, LEA, SWAP. -/
def runMem (v : Vault) (k next : Nat) (op : MemOp) (o : VolilM) (d : Dev) : VOut :=
  let c := d.core k
  let a := vEa c next o
  let n := vBytes o.size
  let put (w : Nat) (i : Nat) (d : Dev) : VOut := .next next false (d.modCore k fun c => (c.count i).setGr o.d.val (BitVec.ofNat 64 w))
  let stored (r : LoadOut) : VOut := match r with
    | .value _ d => .next next false (d.modCore k fun c => c.count 6)
    | .trap vec => .trap vec 0 (some a) d
    | .wait x => .wait x
  match op with
  | .lea => .next next false (d.modCore k fun c => c.setGr o.d.val (BitVec.ofNat 64 a))
  | .st => stored (storeAt v k a (leBytes n (c.gr o.d.val).toNat) d)
  | .sti => stored (storeAt v k a (leBytes n o.imm.toNat) d)
  | .ld => match loadAt v k a n d with
    | .value w d => put w 5 d
    | .trap vec => .trap vec 0 (some a) d
    | .wait x => .wait x
  | .lds => match loadAt v k a n d with
    | .value w d => put (BitVec.ofInt 64 (sext (8 * n) w)).toNat 5 d
    | .trap vec => .trap vec 0 (some a) d
    | .wait x => .wait x
  | .swap =>
    if a % 8 ≠ 0 then .trap 4 0 (some a) d
    else if !inData a 8 && !inRegisters a 8 then .trap 3 0 (some a) d
    else match loadAt v k a 8 d with
      | .value w e => match storeAt v k a (leBytes 8 (c.gr o.d.val).toNat) e with
        | .value _ e => put w 5 e
        | .trap vec => .trap vec 0 (some a) d
        | .wait x => .wait x
      | .trap vec => .trap vec 0 (some a) d
      | .wait x => .wait x

/-- The predictor's counter for a pc (R382). -/
def predictIndex (pc : Nat) : Nat := pc / 4 % 512

/-- A conditional branch trains its counter. -/
def Core.train (c : Core) (pc : Nat) (taken : Bool) : Core :=
  let i := predictIndex pc
  let p := tget 0 c.predict i
  { c with predict := tset 0 c.predict i (if taken then (if p = 3 then 3 else p + 1) else (if p = 0 then 0 else p - 1)) }

/-- A call pushes its return address and links g14. -/
def Core.call (c : Core) (next : Nat) : Core :=
  { c.setGr 14 (BitVec.ofNat 64 next) with rstack := ((BitVec.ofNat 48 next) :: c.rstack).take 8 }

/-- next + disp modulo 2^48, with a displacement of n bytes. -/
def target (next n : Nat) (disp : W32) : Nat := (((next : Int) + sext (8 * n) disp.toNat) % (2 ^ 48 : Nat)).toNat

/-- An operand at operand size. -/
def atSize (z : VSize) (w : Word) : Nat := w.toNat % 2 ^ vBits z

/-- An instruction other than EXT, at pc, with `next` the address after it (R376). -/
def runBase (v : Vault) (k pc next : Nat) (i : VInstr) (d : Dev) : VOut :=
  let c := d.core k
  let upd (f : Core → Core) : VOut := .next next false (d.modCore k f)
  match i with
  | .nop => upd id
  | .fence => upd id
  | .wait => .wait none
  | .ext _ => .trap 6 0 none d
  | .sys imm => .trap 8 imm.toNat none d
  | .brk => .trap 9 0 none d
  | .tret => .next c.epc.toNat false (d.modCore k fun c => { c with fl := c.efl &&& 63#64 })
  | .ret =>
    let goal := (c.gr 14).toNat % 2 ^ 48
    .next goal (c.rstack.head? != some (BitVec.ofNat 48 goal)) (d.modCore k fun c => { c with rstack := c.rstack.drop 1 })
  | .alu op o =>
    (match aluAt op (vBits o.size) (atSize o.size (c.gr o.d.val)) (atSize o.size (c.gr o.s.val)) (b2n (c.flag 0)) with
     | some r => upd fun c => c.take (vBits o.size) o.d.val r
     | none => .trap 5 0 none d)
  | .aluImm op o =>
    let b := atSize o.size (BitVec.ofInt 64 (sext (8 * 2 ^ o.isz.val) o.imm.toNat))
    (match aluAt op (vBits o.size) (atSize o.size (c.gr o.d.val)) b (b2n (c.flag 0)) with
     | some r => upd fun c => c.take (vBits o.size) o.d.val r
     | none => .trap 5 0 none d)
  | .rr op o =>
    let w := vBits o.size
    let a := atSize o.size (c.gr o.d.val)
    let b := atSize o.size (c.gr o.s.val)
    let goal := (c.gr o.s.val).toNat % 2 ^ 48
    (match op with
     | .not => upd fun c => c.take w o.d.val { value := 2 ^ w - 1 - a, flags := some (false, false) }
     | .neg => upd fun c => c.take w o.d.val (subAt w 0 a 0)
     | .tst => upd fun c => c.take w o.d.val { value := a &&& b, flags := some (false, false), writes := false }
     | .mfc => upd fun c => c.setGr o.d.val (BitVec.ofNat 64 (c.ctl k o.s.val))
     | .mtc => (match c.setCtl o.d.val (c.gr o.s.val) with
       | some c' => upd fun _ => c'
       | none => .trap 6 0 none d)
     | .callr => .next goal (decide (goal ≠ next)) (d.modCore k fun c => c.call next)
     | .jmpr => .next goal (decide (goal ≠ next)) d
     | .sext => upd fun c => c.setGr o.d.val (BitVec.ofInt 64 (sext w b)))
  | .bcc cc wide disp =>
    let taken := holds c.fl cc.val
    let predicted := decide (2 ≤ (tget 0 c.predict (predictIndex pc)).toNat)
    .next (if taken then target next (if wide then 4 else 2) disp else next) (taken != predicted) (d.modCore k fun c => c.train pc taken)
  | .call disp => .next (target next 4 disp) false (d.modCore k fun c => c.call next)
  | .mem op o => runMem v k next op o d

/-- What a body comes to: its end, a trap with the offset of the faulting instruction, or a wait. -/
inductive BodyOut where
  | done (d : Dev)
  | trap (vector off : Nat) (addr : Option Nat) (d : Dev)
  | wait (store : Option (Nat × Nat))

/-- The instructions of an extension body in turn; the changes of those before a fault remain (R383). -/
def runBody (v : Vault) (k pc next : Nat) : List (Nat × VInstr × Nat) → Dev → BodyOut
  | [], d => .done d
  | (off, i, _) :: rest, d =>
    match runBase v k pc next i d with
    | .next _ _ d => runBody v k pc next rest d
    | .trap vec _ addr d => .trap vec off addr d
    | .wait x => .wait x

/-! ### Traps, interrupts, retiring (R379–R382) -/

/-- Trap entry (R380), in one step; a trap while T = 1 resets the core as its watchdog does. BADADDR after a trap that no access
caused is a free value (log entry 93); so are the cycles it takes (log entry 94). -/
def trapEntry (k vector imm off epc : Nat) (addr : Option Nat) (d : Dev) : Dev :=
  if (d.core k).flag 5 then watchdog k d
  else
    let bad : BitVec 48 × Dev := match addr with | some a => (BitVec.ofNat 48 a, d) | none => d.draw Config.badAddr
    let x := bad.2.draw Config.coreCycles
    x.2.modCore k fun c =>
      { (c.count (if 16 ≤ vector then 4 else 3)) with
          epc := BitVec.ofNat 48 epc, efl := c.fl, fl := (c.fl &&& 0xF#64) ||| 0x20#64,
          cause := BitVec.ofNat 64 (vector + imm * 2 ^ 8 + off * 2 ^ 16), badaddr := bad.1, pc := BitVec.ofNat 48 (c.vbase.toNat + 16 * vector),
          cycle := c.cycle + x.1.setWidth 64, waiting := false, debugStep := false }

/-- Cycles beyond the first are free for an instruction that reaches outside the core's own memories. -/
def slow : VInstr → Bool
  | .mem .lea _ => false
  | .mem _ _ => true
  | .fence => true
  | .wait => true
  | .ext _ => true
  | _ => false

/-- An instruction retires (R370, R382): pc, RETIRED, CYCLE; a misprediction costs 3 cycles and its discarded blocks are a free value
(log entry 4). Where the instruction has stopped its own core, that stands. -/
def retire (k pc : Nat) (missed isSlow : Bool) (before d : Dev) : Dev :=
  if (d.coreCtl k).state ≠ (before.coreCtl k).state ∨ d.power.state ≠ before.power.state then d
  else
    let x : W32 × Dev := if isSlow then d.draw Config.coreCycles else (0, d)
    let y : Word × Dev := if missed then x.2.draw Config.wrongPathBlocks else (0, x.2)
    y.2.modCore k fun c =>
      { (if missed then c.count 7 else c) with
          pc := BitVec.ofNat 48 pc, retired := c.retired + 1, waiting := false, debugStep := false,
          cycle := c.cycle + 1 + x.1.setWidth 64 + (if missed then 3 else 0), wrongpath := c.wrongpath + y.1 }

/-- Core k executes: it runs and does not wait, or core debug steps it. -/
def executing (d : Dev) (k : Nat) : Bool :=
  decide ((d.coreCtl k).state = 1) || (decide ((d.coreCtl k).state = 4) && (d.core k).debugStep)

/-- Interrupt lines pending: those raised, and the timer while CYCLE ≥ TIMECMP (R370, R379). -/
def Core.pendingLines (c : Core) : List Nat :=
  (List.range 16).filter fun l => c.lines.contains l || (l == 1 && decide (c.timecmp.toNat ≤ c.cycle.toNat))

/-- A core's access waits: a store that waits for merge tokens is counted (R183). -/
def coreWaits (k : Nat) (store : Option (Nat × Nat)) (d : Dev) : Dev :=
  match store with
  | some x => noteWait (some (coreLock k)) x.1 x.2 d
  | none => d

/-- EXT x (R383). -/
def runExt (v : Vault) (k : Fin 19) (pc next x : Nat) (d : Dev) : Dev :=
  let body := tget [] (d.core k.val).ext x
  match bodyCode k 65 0 body with
  | some (e :: es) =>
    if k.val < 3 ∨ 64 ≤ x then trapEntry k.val 6 0 0 pc none d
    else match runBody v k.val pc next (e :: es) d with
      | .done e => retire k.val next false true d e
      | .trap vec off addr e => trapEntry k.val vec 0 off pc addr e
      | .wait x => coreWaits k.val x d
  | _ => trapEntry k.val 6 0 0 pc none d

/-- WAIT (R376, R381): goes on when an interrupt is pending, whether or not interrupts are enabled. -/
def runWait (k pc : Nat) (d : Dev) : Dev :=
  if (d.core k).pendingLines = [] then d.modCore k fun c => { c with waiting := true, debugStep := false }
  else retire k (pc + 1) false true d d

/-- One instruction, fetched at pc with its length. -/
def runInstr (v : Vault) (k : Fin 19) (i : VInstr) (length : Nat) (d : Dev) : Dev :=
  let pc := (d.core k.val).pc.toNat
  let next := (pc + length) % 2 ^ 48
  match i with
  | .wait => runWait k.val pc d
  | .ext x => runExt v k pc next x.toNat d
  | _ => match runBase v k.val pc next i d with
    | .next goal missed e => retire k.val goal missed (slow i) d e
    | .trap vec imm addr e => trapEntry k.val vec imm 0 (if vec = 8 then next else pc) addr
        (if vec = 8 then e.modCore k.val fun c => { c with retired := c.retired + 1, cycle := c.cycle + 1 } else e)
    | .wait x => coreWaits k.val x d

/-- An instruction's command: it acts when core k executes and its pc holds that instruction. -/
def volil (k : Fin 19) (i : VInstr) (s : State) : Host.Outcome State Fault Refusal :=
  onDevV (fun v d => if executing d k.val then
    (match fetchAt d k with
     | .found j n => if j = i then runInstr v k i n d else d
     | _ => d)
    else d) s

/-! ### The commands -/

def execVolilNop (core : Fin 19) (s : State) : Host.Outcome State Fault Refusal := volil core .nop s
def execWait (core : Fin 19) (s : State) : Host.Outcome State Fault Refusal := volil core .wait s
def execTret (core : Fin 19) (s : State) : Host.Outcome State Fault Refusal := volil core .tret s
def execRet (core : Fin 19) (s : State) : Host.Outcome State Fault Refusal := volil core .ret s

/-- FENCE: every access of this model has completed at its target when its instruction retires. -/
def execVolilFence (core : Fin 19) (s : State) : Host.Outcome State Fault Refusal := volil core .fence s
def execSys (core : Fin 19) (imm : Byte) (s : State) : Host.Outcome State Fault Refusal := volil core (.sys imm) s
def execBrk (core : Fin 19) (s : State) : Host.Outcome State Fault Refusal := volil core .brk s
def execMov (o : VolilRR) (s : State) : Host.Outcome State Fault Refusal := volil o.core (.alu .mov o) s
def execAdd (o : VolilRR) (s : State) : Host.Outcome State Fault Refusal := volil o.core (.alu .add o) s
def execAdc (o : VolilRR) (s : State) : Host.Outcome State Fault Refusal := volil o.core (.alu .adc o) s
def execSub (o : VolilRR) (s : State) : Host.Outcome State Fault Refusal := volil o.core (.alu .sub o) s
def execSbc (o : VolilRR) (s : State) : Host.Outcome State Fault Refusal := volil o.core (.alu .sbc o) s
def execAnd (o : VolilRR) (s : State) : Host.Outcome State Fault Refusal := volil o.core (.alu .and o) s
def execOr (o : VolilRR) (s : State) : Host.Outcome State Fault Refusal := volil o.core (.alu .or o) s
def execXor (o : VolilRR) (s : State) : Host.Outcome State Fault Refusal := volil o.core (.alu .xor o) s
def execShl (o : VolilRR) (s : State) : Host.Outcome State Fault Refusal := volil o.core (.alu .shl o) s
def execShr (o : VolilRR) (s : State) : Host.Outcome State Fault Refusal := volil o.core (.alu .shr o) s
def execSar (o : VolilRR) (s : State) : Host.Outcome State Fault Refusal := volil o.core (.alu .sar o) s
def execMul (o : VolilRR) (s : State) : Host.Outcome State Fault Refusal := volil o.core (.alu .mul o) s
def execMulhu (o : VolilRR) (s : State) : Host.Outcome State Fault Refusal := volil o.core (.alu .mulhu o) s
def execDivu (o : VolilRR) (s : State) : Host.Outcome State Fault Refusal := volil o.core (.alu .divu o) s
def execRemu (o : VolilRR) (s : State) : Host.Outcome State Fault Refusal := volil o.core (.alu .remu o) s
def execCmp (o : VolilRR) (s : State) : Host.Outcome State Fault Refusal := volil o.core (.alu .cmp o) s
def execMovi (o : VolilRI) (s : State) : Host.Outcome State Fault Refusal := volil o.core (.aluImm .mov o) s
def execAddi (o : VolilRI) (s : State) : Host.Outcome State Fault Refusal := volil o.core (.aluImm .add o) s
def execAdci (o : VolilRI) (s : State) : Host.Outcome State Fault Refusal := volil o.core (.aluImm .adc o) s
def execSubi (o : VolilRI) (s : State) : Host.Outcome State Fault Refusal := volil o.core (.aluImm .sub o) s
def execSbci (o : VolilRI) (s : State) : Host.Outcome State Fault Refusal := volil o.core (.aluImm .sbc o) s
def execAndi (o : VolilRI) (s : State) : Host.Outcome State Fault Refusal := volil o.core (.aluImm .and o) s
def execOri (o : VolilRI) (s : State) : Host.Outcome State Fault Refusal := volil o.core (.aluImm .or o) s
def execXori (o : VolilRI) (s : State) : Host.Outcome State Fault Refusal := volil o.core (.aluImm .xor o) s
def execShli (o : VolilRI) (s : State) : Host.Outcome State Fault Refusal := volil o.core (.aluImm .shl o) s
def execShri (o : VolilRI) (s : State) : Host.Outcome State Fault Refusal := volil o.core (.aluImm .shr o) s
def execSari (o : VolilRI) (s : State) : Host.Outcome State Fault Refusal := volil o.core (.aluImm .sar o) s
def execMuli (o : VolilRI) (s : State) : Host.Outcome State Fault Refusal := volil o.core (.aluImm .mul o) s
def execCmpi (o : VolilRI) (s : State) : Host.Outcome State Fault Refusal := volil o.core (.aluImm .cmp o) s
def execNot (o : VolilRR) (s : State) : Host.Outcome State Fault Refusal := volil o.core (.rr .not o) s
def execNeg (o : VolilRR) (s : State) : Host.Outcome State Fault Refusal := volil o.core (.rr .neg o) s
def execTst (o : VolilRR) (s : State) : Host.Outcome State Fault Refusal := volil o.core (.rr .tst o) s
def execMfc (o : VolilRR) (s : State) : Host.Outcome State Fault Refusal := volil o.core (.rr .mfc o) s
def execMtc (o : VolilRR) (s : State) : Host.Outcome State Fault Refusal := volil o.core (.rr .mtc o) s
def execCallr (o : VolilRR) (s : State) : Host.Outcome State Fault Refusal := volil o.core (.rr .callr o) s
def execJmpr (o : VolilRR) (s : State) : Host.Outcome State Fault Refusal := volil o.core (.rr .jmpr o) s
def execSext (o : VolilRR) (s : State) : Host.Outcome State Fault Refusal := volil o.core (.rr .sext o) s
def execBcc (core : Fin 19) (cc : Fin 16) (wide : Bool) (disp : W32) (s : State) : Host.Outcome State Fault Refusal :=
  volil core (.bcc cc wide disp) s
def execCall (core : Fin 19) (disp : W32) (s : State) : Host.Outcome State Fault Refusal := volil core (.call disp) s
def execLd (o : VolilM) (s : State) : Host.Outcome State Fault Refusal := volil o.core (.mem .ld o) s
def execLds (o : VolilM) (s : State) : Host.Outcome State Fault Refusal := volil o.core (.mem .lds o) s
def execSt (o : VolilM) (s : State) : Host.Outcome State Fault Refusal := volil o.core (.mem .st o) s
def execSti (o : VolilM) (s : State) : Host.Outcome State Fault Refusal := volil o.core (.mem .sti o) s
def execLea (o : VolilM) (s : State) : Host.Outcome State Fault Refusal := volil o.core (.mem .lea o) s
def execSwap (o : VolilM) (s : State) : Host.Outcome State Fault Refusal := volil o.core (.mem .swap o) s
def execExt (core : Fin 19) (x : Byte) (s : State) : Host.Outcome State Fault Refusal := volil core (.ext x) s

/-- UNDEFINED_ENCODING (R13, R376): what stands at the pc is undefined, and traps to vector 0x06. -/
def execUndefinedEncoding (core : Fin 19) (s : State) : Host.Outcome State Fault Refusal :=
  onDev (fun d =>
    if executing d core.val ∧ fetchAt d core = .undefined then trapEntry core.val 6 0 0 (d.core core.val).pc.toNat none d else d) s

/-- FETCH_FAULT (R379): a fetch on the committed path outside code memory, or of bytes with an uncorrectable error. -/
def execFetchFault (core : Fin 19) (s : State) : Host.Outcome State Fault Refusal :=
  onDev (fun d =>
    match fetchAt d core with
    | .fault a => if executing d core.val then trapEntry core.val 2 0 0 (d.core core.val).pc.toNat (some a) d else d
    | _ => d) s

/-- INTERRUPT_TAKEN (R379–R381): the lowest pending line, if interrupts are enabled; a pending line ends WAIT in any case. -/
def execInterruptTaken (core : Fin 19) (s : State) : Host.Outcome State Fault Refusal :=
  onDev (fun d =>
    let k := core.val
    match (d.core k).pendingLines with
    | [] => d
    | l :: _ =>
      if executing d k = false then d
      else
        let d := if (d.core k).waiting then retire k ((d.core k).pc.toNat + 1) false true d d else d
        if (d.core k).flag 4 then
          trapEntry k (16 + l) 0 0 (d.core k).pc.toNat none (d.modCore k fun c => { c with lines := c.lines.filter (· ≠ l) })
        else d) s

/-- TIMECMP_EXPIRY (R370): CYCLE reaches TIMECMP while the core runs or waits; line 1 is raised while it stands at or above it. -/
def execTimecmpExpiry (core : Fin 19) (s : State) : Host.Outcome State Fault Refusal :=
  onDev (fun d =>
    if (d.coreCtl core.val).state = 1 then
      d.modCore core.val fun c => { c with cycle := if c.cycle.toNat < c.timecmp.toNat then c.timecmp else c.cycle }
    else d) s

/-! ### Core debug (R333) -/

/-- Bytes of a core's memories that core debug reads, and the data memory that it writes; code memory is the security core's alone
(R352). -/
def debugCore (k : Nat) (op : DebugOp) (d : Dev) : Dev :=
  let st := (d.coreCtl k).state
  match op with
  | .halt => if st = 1 then d.modCoreCtl k fun c => { c with state := 4, haltedAt := d.uptime } else d
  | .resume =>
    if st = 4 then (d.modCoreCtl k fun c => { c with state := 1, wdFrom := c.wdFrom + (d.uptime - c.haltedAt) }).modCore k fun c => { c with debugStep := false } else d
  | .step _ => if st = 4 then d.modCore k fun c => { c with debugStep := true } else d
  | .read a n =>
    if inData a n then d.emit (.jtag (tspan 0 (d.core k).data (a - dataBase) n))
    else if inCode a ∧ a + n ≤ codeBase + 0x80000 then d.emit (.jtag (tspan 0 (d.core k).code (a - codeBase) n))
    else d
  | .write a bs => if inData a bs.length then d.modCore k fun c => { c with data := tputs 0 c.data (a - dataBase) bs } else d

/-- A tile under core debug: its streams issue nothing while it is held; its memory is the basin. -/
def debugTile (n : Nat) (op : DebugOp) (d : Dev) : Dev :=
  match op with
  | .halt => d.modTile n fun t => { t with debugHeld := true, debugStep := none }
  | .resume => d.modTile n fun t => { t with debugHeld := false, debugStep := none }
  | .step s => if (d.tile n).debugHeld then d.modTile n fun t => { t with debugStep := some s.val } else d
  | .read a len => if a + len ≤ 0x200000 then (let r := basinRead n a len d; r.2.emit (.jtag r.1.1)) else d
  | .write a bs => if a + bs.length ≤ 0x200000 then basinWrite n a bs false d else d

/-- JTAG_CORE_DEBUG: where the letter C is available (R333). -/
def execJtagCoreDebug (target : DebugUnit) (op : DebugOp) (s : State) : Host.Outcome State Fault Refusal :=
  onDevV (fun v d =>
    if letterC v d = false then d
    else match target with
      | .core k => debugCore k.val op d
      | .tile n => debugTile n.val op d) s

/-! ### Loading the extension store (R384) -/

/-- A reserved value in an extension image. -/
def badExtImage (b : Bytes) : Bool :=
  let n := fieldLe b 4 2
  let e (i : Nat) : Bytes := slice b (48 + 72 * i) 72
  let idx := (List.range n).map fun i => fieldLe (e i) 0 1
  fieldLe b 0 4 != 0x58565154 || decide (n = 0 ∨ 64 < n) || decide (fieldLe b 6 2 = 0) || !zeros b 16 16 ||
    b.length != 48 + 72 * n || decide (idx.eraseDups.length ≠ n) ||
    (List.range n).any fun i =>
      let len := fieldLe (e i) 1 1
      decide (63 < fieldLe (e i) 0 1 ∨ len = 0 ∨ 64 < len) || !zeros (e i) 2 6 || !zeros (e i) (8 + len) (64 - len) ||
        (bodyCode 3 65 0 (slice (e i) 8 len)).isNone

/-- The entries go to the cores of the clusters named. -/
def loadExt (b : Bytes) (d : Dev) : Dev :=
  let put (t : Tab Bytes) (i : Nat) : Tab Bytes :=
    let e := slice b (48 + 72 * i) 72
    tset [] t (fieldLe e 0 1) (slice e 8 (fieldLe e 1 1))
  ((List.range 16).filter (bit (fieldLe b 6 2))).foldl (fun d c =>
    d.modCore (3 + c) fun x => { x with ext := (List.range (fieldLe b 4 2)).foldl put x.ext }) d

/-- CMD_CORE_EXT_LOAD (R384). -/
def execCmdCoreExtLoad (c : Cmd) (space address length : Nat) (fetched : Bytes) (s : State) : Host.Outcome State Fault Refusal :=
  onDevV (fun v => mailbox c {} fun d =>
    if 9 < space then (fail .invalid, d)
    else if 0 < length ∧ spaceMapped d (actingPf c.src.val none d) true space address length = false then (fail .addressUnmapped, d)
    else
      let b := if space = 0 then (memRead 0 address length d).1.1 else fit length fetched
      if badExtImage b then (fail .reservedValue, d)
      else match d.manifest.active with
        | none => (fail .invalid, d)
        | some m =>
          let serial := fieldLe b 8 8
          match (slotKey v m.keySlot).bind fun k => gcmOpen k (slice b 8 8 ++ [0, 0, 0, 5]) (slice b 0 32 ++ b.drop 48) [] (slice b 32 16) with
          | none => (fail .authFail, d)
          | some _ =>
            if serial < (tget 0 d.ledger.extSerials m.keySlot).toNat then (fail .invalid, d)
            else if ledgerWorn d then (fail .capacity, d)
            else (ok [], loadExt b (keyAreaWrite (d.modLedger fun l =>
              { l with extSerials := tset 0 l.extSerials m.keySlot (BitVec.ofNat 64 serial) })))) s

end Sys2Proof.Machine
end

