-- ==== Sys2Proof/Machine/Waiting.lean ====
section
/-! DEFINITION. A core's restart ends (R127, R353): its records are posted, and the commands that waited for it complete. -/

namespace Sys2Proof.Machine

/-- A command that waited, now. -/
def resume : HeldCmd → State → Host.Outcome State Fault Refusal
  | .cmdSecStatus c => nowCmdSecStatus c
  | .cmdSecChallenge c code => nowCmdSecChallenge c code
  | .cmdSecDebugSet c level tag => nowCmdSecDebugSet c level tag
  | .cmdSecLifecycle c target tag => nowCmdSecLifecycle c target tag
  | .cmdSecVersionCommit c tag => nowCmdSecVersionCommit c tag
  | .cmdKeyLoad c target wrapping space address fetched => nowCmdKeyLoad c target wrapping space address fetched
  | .cmdRngRead c length => nowCmdRngRead c length
  | .cmdExpertChallenge c block => nowCmdExpertChallenge c block
  | .stewardshipClaim east epoch => nowStewardshipClaim east epoch
  | .broadcast link origin hops b => nowBroadcast link origin hops b
  | .cmdTileStatus c tile => nowCmdTileStatus c tile
  | .cmdTileRestart c logical mask => nowCmdTileRestart c logical mask
  | .cmdTileReadOps c logical first count => nowCmdTileReadOps c logical first count
  | .cmdPowerStatus c => nowCmdPowerStatus c
  | .cmdPowerCapSet c watts => nowCmdPowerCapSet c watts
  | .cmdResetWarm c => nowCmdResetWarm c
  | .cmdClockStatus c domain => nowCmdClockStatus c domain

/-- The commands that waited, oldest first. -/
def resumeAll : List HeldCmd → State → Host.Outcome State Fault Refusal
  | [], s => .next s
  | c :: cs, s =>
    match resume c { s with dev := unhold c s.dev } with
    | .next s => resumeAll cs s
    | r => r

/-- The commands that wait for core k leave the list. -/
def takeHeld (k : Nat) (s : State) : State :=
  { s with dev := { s.dev with heldCmds := s.dev.heldCmds.filter fun e => e.1 ≠ k } }

/-- The commands that wait for core k. -/
def heldFor (k : Nat) (d : Dev) : List HeldCmd := (d.heldCmds.filter fun e => e.1 = k).map (·.2)

/-- CORE_RESTART_COMPLETE (R353, R355, R127): a restart longer than 20 ms fails the core instead. -/
def execCoreRestartComplete (core : Fin 19) (s : State) : Host.Outcome State Fault Refusal :=
  if s.dev.power.state = .off then .next s
  else match onDev (restartDone core.val) s with
  | .next t => if (t.dev.coreCtl core.val).state = 1 then resumeAll (heldFor core.val t.dev) (takeHeld core.val t) else .next t
  | r => r

end Sys2Proof.Machine
end

