-- ==== Sys2Proof/Machine/Dispatch.lean ====
section
/-! DEFINITION. One arm per command: the meaning it has. -/

namespace Sys2Proof.Machine

def exec (i : Instr) (s : State) : Host.Outcome State Fault Refusal :=
  match i with
  | .registerWrite req addr size value => Sys2Proof.Machine.execRegisterWrite req addr size value s
  | .cmdManifestLoad c source address length => Sys2Proof.Machine.execCmdManifestLoad c source address length s
  | .cmdManifestReload c source address length mode => Sys2Proof.Machine.execCmdManifestReload c source address length mode s
  | .fetch data => Sys2Proof.Machine.execFetch data s
  | .authenticate => Sys2Proof.Machine.execAuthenticate s
  | .validate => Sys2Proof.Machine.execValidate s
  | .shadowWrite => Sys2Proof.Machine.execShadowWrite s
  | .groupReadyTimeout => Sys2Proof.Machine.execGroupReadyTimeout s
  | .rollbackRestore chunks => Sys2Proof.Machine.execRollbackRestore chunks s
  | .cmdManifestStatus c => Sys2Proof.Machine.execCmdManifestStatus c s
  | .cmdManifestCancel c => Sys2Proof.Machine.execCmdManifestCancel c s
  | .cmdAltSelect c index => Sys2Proof.Machine.execCmdAltSelect c index s
  | .cmdAltRevert c => Sys2Proof.Machine.execCmdAltRevert c s
  | .cmdExpertChallenge c block => Sys2Proof.Machine.execCmdExpertChallenge c block s
  | .cmdExpertUnlock c block seconds tag => Sys2Proof.Machine.execCmdExpertUnlock c block seconds tag s
  | .cmdExpertLock c block => Sys2Proof.Machine.execCmdExpertLock c block s
  | .expertExpiry block => Sys2Proof.Machine.execExpertExpiry block s
  | .lockoutExpiry security => Sys2Proof.Machine.execLockoutExpiry security s
  | .lockageBoundary => Sys2Proof.Machine.execLockageBoundary s
  | .holdDerateRepeat index => Sys2Proof.Machine.execHoldDerateRepeat index s
  | .routerSlot => Sys2Proof.Machine.execRouterSlot s
  | .crcWindowClose router port => Sys2Proof.Machine.execCrcWindowClose router port s
  | .bargeDelivery => Sys2Proof.Machine.execBargeDelivery s
  | .canalSlip router port wander => Sys2Proof.Machine.execCanalSlip router port wander s
  | .cmdCanalStatus c => Sys2Proof.Machine.execCmdCanalStatus c s
  | .cmdCanalReadEntry c program bank router slot => Sys2Proof.Machine.execCmdCanalReadEntry c program bank router slot s
  | .cmdCanalSwitch c program => Sys2Proof.Machine.execCmdCanalSwitch c program s
  | .cmdCanalClearCounts c => Sys2Proof.Machine.execCmdCanalClearCounts c s
  | .canalSchedCtrlSwitch w => Sys2Proof.Machine.execCanalSchedCtrlSwitch w s
  | .canalTblDataAccess w => Sys2Proof.Machine.execCanalTblDataAccess w s
  | .lockArrival lock inst r => Sys2Proof.Machine.execLockArrival lock inst r s
  | .gateOpening lock => Sys2Proof.Machine.execGateOpening lock s
  | .pauseRepeat lock => Sys2Proof.Machine.execPauseRepeat lock s
  | .holdEnd chunk => Sys2Proof.Machine.execHoldEnd chunk s
  | .holdAllowanceExpiry index => Sys2Proof.Machine.execHoldAllowanceExpiry index s
  | .sluiceComplete index => Sys2Proof.Machine.execSluiceComplete index s
  | .locksSluiceGo w => Sys2Proof.Machine.execLocksSluiceGo w s
  | .locksGateDataAccess w => Sys2Proof.Machine.execLocksGateDataAccess w s
  | .cmdLockStatus c lock => Sys2Proof.Machine.execCmdLockStatus c lock s
  | .cmdLockSluice c inst => Sys2Proof.Machine.execCmdLockSluice c inst s
  | .cmdLockReadGate c program bank lock slot => Sys2Proof.Machine.execCmdLockReadGate c program bank lock slot s
  | .cmdWeightSet c inst weight => Sys2Proof.Machine.execCmdWeightSet c inst weight s
  | .cmdDerateStatus c => Sys2Proof.Machine.execCmdDerateStatus c s
  | .nop o => Sys2Proof.Machine.execNop o s
  | .halt o => Sys2Proof.Machine.execHalt o s
  | .xli o => Sys2Proof.Machine.execXli o s
  | .xlih o => Sys2Proof.Machine.execXlih o s
  | .xadd o => Sys2Proof.Machine.execXadd o s
  | .xmul o => Sys2Proof.Machine.execXmul o s
  | .bnz o => Sys2Proof.Machine.execBnz o s
  | .bz o => Sys2Proof.Machine.execBz o s
  | .blt o => Sys2Proof.Machine.execBlt o s
  | .waitslot o => Sys2Proof.Machine.execWaitslot o s
  | .waitslotRelease tile stream => Sys2Proof.Machine.execWaitslotRelease tile stream s
  | .fence o => Sys2Proof.Machine.execFence o s
  | .fenceRelease tile stream => Sys2Proof.Machine.execFenceRelease tile stream s
  | .signal o => Sys2Proof.Machine.execSignal o s
  | .waitev o => Sys2Proof.Machine.execWaitev o s
  | .waitevRelease tile stream => Sys2Proof.Machine.execWaitevRelease tile stream s
  | .mark o => Sys2Proof.Machine.execMark o s
  | .mma o => Sys2Proof.Machine.execMma o s
  | .mmax o => Sys2Proof.Machine.execMmax o s
  | .accrd o => Sys2Proof.Machine.execAccrd o s
  | .accwr o => Sys2Proof.Machine.execAccwr o s
  | .accx o => Sys2Proof.Machine.execAccx o s
  | .accz o => Sys2Proof.Machine.execAccz o s
  | .vld o => Sys2Proof.Machine.execVld o s
  | .vst o => Sys2Proof.Machine.execVst o s
  | .vadd o => Sys2Proof.Machine.execVadd o s
  | .vsub o => Sys2Proof.Machine.execVsub o s
  | .vmul o => Sys2Proof.Machine.execVmul o s
  | .vfma o => Sys2Proof.Machine.execVfma o s
  | .vmax o => Sys2Proof.Machine.execVmax o s
  | .vmin o => Sys2Proof.Machine.execVmin o s
  | .vrsqrt o => Sys2Proof.Machine.execVrsqrt o s
  | .vexp o => Sys2Proof.Machine.execVexp o s
  | .vred o => Sys2Proof.Machine.execVred o s
  | .viadd o => Sys2Proof.Machine.execViadd o s
  | .vlevel o => Sys2Proof.Machine.execVlevel o s
  | .vfix o => Sys2Proof.Machine.execVfix o s
  | .vflt o => Sys2Proof.Machine.execVflt o s
  | .vthr o => Sys2Proof.Machine.execVthr o s
  | .vdigest o => Sys2Proof.Machine.execVdigest o s
  | .vseed o => Sys2Proof.Machine.execVseed o s
  | .send o => Sys2Proof.Machine.execSend o s
  | .recv o => Sys2Proof.Machine.execRecv o s
  | .mrd o => Sys2Proof.Machine.execMrd o s
  | .mwr o => Sys2Proof.Machine.execMwr o s
  | .spill o => Sys2Proof.Machine.execSpill o s
  | .fill o => Sys2Proof.Machine.execFill o s
  | .undefinedStreamOp tile stream word => Sys2Proof.Machine.execUndefinedStreamOp tile stream word s
  | .bargeInjection turn => Sys2Proof.Machine.execBargeInjection turn s
  | .tileBargeReceive tile => Sys2Proof.Machine.execTileBargeReceive tile s
  | .basinWindowAccess tile => Sys2Proof.Machine.execBasinWindowAccess tile s
  | .signatureCompare tile mismatch => Sys2Proof.Machine.execSignatureCompare tile mismatch s
  | .tileCheck tile stream pc => Sys2Proof.Machine.execTileCheck tile stream pc s
  | .tileStall tile stream => Sys2Proof.Machine.execTileStall tile stream s
  | .spareStart tile => Sys2Proof.Machine.execSpareStart tile s
  | .cmdTileStatus c tile => Sys2Proof.Machine.execCmdTileStatus c tile s
  | .cmdTileRestart c logical mask => Sys2Proof.Machine.execCmdTileRestart c logical mask s
  | .cmdTileReadOps c logical first count => Sys2Proof.Machine.execCmdTileReadOps c logical first count s
  | .tilesStreamCtrlHalt tile w => Sys2Proof.Machine.execTilesStreamCtrlHalt tile w s
  | .tilesStreamCtrlRestart tile w => Sys2Proof.Machine.execTilesStreamCtrlRestart tile w s
  | .tilesOpstoreDataAccess tile w => Sys2Proof.Machine.execTilesOpstoreDataAccess tile w s
  | .cmdReduceStatus c => Sys2Proof.Machine.execCmdReduceStatus c s
  | .cmdReduceClear c => Sys2Proof.Machine.execCmdReduceClear c s
  | .memCommand unit => Sys2Proof.Machine.execMemCommand unit s
  | .mergeRetire ctl => Sys2Proof.Machine.execMergeRetire ctl s
  | .readDataSend unit => Sys2Proof.Machine.execReadDataSend unit s
  | .hbmStackFail ctl parity => Sys2Proof.Machine.execHbmStackFail ctl parity s
  | .scrubSlot ctl => Sys2Proof.Machine.execScrubSlot ctl s
  | .refreshSlot ctl => Sys2Proof.Machine.execRefreshSlot ctl s
  | .wharfPatrol ch => Sys2Proof.Machine.execWharfPatrol ch s
  | .wharfChannelFail ch => Sys2Proof.Machine.execWharfChannelFail ch s
  | .hbmScrubCtrlGo ctl w => Sys2Proof.Machine.execHbmScrubCtrlGo ctl w s
  | .hbmTestRawWrite ctl w => Sys2Proof.Machine.execHbmTestRawWrite ctl w s
  | .hbmTestRawRead ctl w => Sys2Proof.Machine.execHbmTestRawRead ctl w s
  | .hbmTestDisable ctl w => Sys2Proof.Machine.execHbmTestDisable ctl w s
  | .kvSweep reach => Sys2Proof.Machine.execKvSweep reach s
  | .kvMove reach page => Sys2Proof.Machine.execKvMove reach page s
  | .cmdHbmStatus c ctl => Sys2Proof.Machine.execCmdHbmStatus c ctl s
  | .cmdHbmScrub c ctl first end_ mode => Sys2Proof.Machine.execCmdHbmScrub c ctl first end_ mode s
  | .cmdHbmCeLog c ctl => Sys2Proof.Machine.execCmdHbmCeLog c ctl s
  | .cmdHbmClear c ctl => Sys2Proof.Machine.execCmdHbmClear c ctl s
  | .cmdHbmCheckerTest c ctl => Sys2Proof.Machine.execCmdHbmCheckerTest c ctl s
  | .cmdWharfStatus c ch => Sys2Proof.Machine.execCmdWharfStatus c ch s
  | .cmdKvReachCreate c inst tokenSize r => Sys2Proof.Machine.execCmdKvReachCreate c inst tokenSize r s
  | .cmdKvReachDestroy c reach => Sys2Proof.Machine.execCmdKvReachDestroy c reach s
  | .cmdKvStatus c reach => Sys2Proof.Machine.execCmdKvStatus c reach s
  | .hostMemoryWrite fn bar off bytes relaxed poison how => Sys2Proof.Machine.execHostMemoryWrite fn bar off bytes relaxed poison how s
  | .hostMemoryRead fn bar off length tag how => Sys2Proof.Machine.execHostMemoryRead fn bar off length tag how s
  | .hostReadCompletion lock => Sys2Proof.Machine.execHostReadCompletion lock s
  | .configRequest fn r => Sys2Proof.Machine.execConfigRequest fn r s
  | .completionReceived port tag data poison => Sys2Proof.Machine.execCompletionReceived port tag data poison s
  | .hostCompletionTimeout ep tag => Sys2Proof.Machine.execHostCompletionTimeout ep tag s
  | .busMasterDisable fn => Sys2Proof.Machine.execBusMasterDisable fn s
  | .busMasterEnable fn => Sys2Proof.Machine.execBusMasterEnable fn s
  | .vfFlr fn => Sys2Proof.Machine.execVfFlr fn s
  | .vfFlrComplete inst => Sys2Proof.Machine.execVfFlrComplete inst s
  | .pfFlr ep => Sys2Proof.Machine.execPfFlr ep s
  | .vfEnableClear ep => Sys2Proof.Machine.execVfEnableClear ep s
  | .vfEnableSet ep numVfs => Sys2Proof.Machine.execVfEnableSet ep numVfs s
  | .hostLinkDown ep hot => Sys2Proof.Machine.execHostLinkDown ep hot s
  | .endpointPerst ep speed width => Sys2Proof.Machine.execEndpointPerst ep speed width s
  | .badDoorbellWrite inst index => Sys2Proof.Machine.execBadDoorbellWrite inst index s
  | .cmdInstanceCreate c inst => Sys2Proof.Machine.execCmdInstanceCreate c inst s
  | .cmdInstanceDestroy c inst => Sys2Proof.Machine.execCmdInstanceDestroy c inst s
  | .cmdInstanceStatus c inst => Sys2Proof.Machine.execCmdInstanceStatus c inst s
  | .cmdWindowSet c sel value => Sys2Proof.Machine.execCmdWindowSet c sel value s
  | .windowSetComplete index => Sys2Proof.Machine.execWindowSetComplete index s
  | .cmdWindowRead c sel => Sys2Proof.Machine.execCmdWindowRead c sel s
  | .cmdHostStatus c endpoint => Sys2Proof.Machine.execCmdHostStatus c endpoint s
  | .hostepWinDataAccess w => Sys2Proof.Machine.execHostepWinDataAccess w s
  | .portInboundRequest port second r => Sys2Proof.Machine.execPortInboundRequest port second r s
  | .ptmRequest port => Sys2Proof.Machine.execPtmRequest port s
  | .portLinkDown port => Sys2Proof.Machine.execPortLinkDown port s
  | .portErrMessage port severity requester => Sys2Proof.Machine.execPortErrMessage port severity requester s
  | .portCompletionTimeout port tag => Sys2Proof.Machine.execPortCompletionTimeout port tag s
  | .dmaDoorbellTail w => Sys2Proof.Machine.execDmaDoorbellTail w s
  | .dmaChannelEnable w => Sys2Proof.Machine.execDmaChannelEnable w s
  | .dmaChannelDisable w => Sys2Proof.Machine.execDmaChannelDisable w s
  | .dmaDisableComplete ch => Sys2Proof.Machine.execDmaDisableComplete ch s
  | .dmaStopComplete ch => Sys2Proof.Machine.execDmaStopComplete ch s
  | .dmaDescriptorStart ch tag => Sys2Proof.Machine.execDmaDescriptorStart ch tag s
  | .dmaHalfRecord ch => Sys2Proof.Machine.execDmaHalfRecord ch s
  | .dmaFullRecord ch => Sys2Proof.Machine.execDmaFullRecord ch s
  | .cmdPortStatus c port => Sys2Proof.Machine.execCmdPortStatus c port s
  | .cmdAccelWindowSet c port entry value => Sys2Proof.Machine.execCmdAccelWindowSet c port entry value s
  | .cmdAccelRangeSet c port entry addr size inst => Sys2Proof.Machine.execCmdAccelRangeSet c port entry addr size inst s
  | .cmdAccelCfg c port fn offset write value answer => Sys2Proof.Machine.execCmdAccelCfg c port fn offset write value answer s
  | .cmdDmaRingSet c doorbell space base n completions => Sys2Proof.Machine.execCmdDmaRingSet c doorbell space base n completions s
  | .cmdDmaStatus c doorbell => Sys2Proof.Machine.execCmdDmaStatus c doorbell s
  | .frameReceive port frame => Sys2Proof.Machine.execFrameReceive port frame s
  | .rxRecordWrite queue => Sys2Proof.Machine.execRxRecordWrite queue s
  | .pauseReceive port time => Sys2Proof.Machine.execPauseReceive port time s
  | .transmitOpportunity port => Sys2Proof.Machine.execTransmitOpportunity port s
  | .shaperRefill => Sys2Proof.Machine.execShaperRefill s
  | .netSample port => Sys2Proof.Machine.execNetSample port s
  | .commitComplete half => Sys2Proof.Machine.execCommitComplete half s
  | .netLinkDown port => Sys2Proof.Machine.execNetLinkDown port s
  | .cmdNetPortStatus c port => Sys2Proof.Machine.execCmdNetPortStatus c port s
  | .cmdNetExtractSet c half profile entry value => Sys2Proof.Machine.execCmdNetExtractSet c half profile entry value s
  | .cmdNetRuleSet c half index rule => Sys2Proof.Machine.execCmdNetRuleSet c half index rule s
  | .cmdNetIndirSet c half table first queues => Sys2Proof.Machine.execCmdNetIndirSet c half table first queues s
  | .cmdNetCommit c half => Sys2Proof.Machine.execCmdNetCommit c half s
  | .cmdNetQueueSet c queue set => Sys2Proof.Machine.execCmdNetQueueSet c queue set s
  | .cmdNetShaperSet c node rate burst => Sys2Proof.Machine.execCmdNetShaperSet c node rate burst s
  | .cmdNetFlowfairSet c port enable cap => Sys2Proof.Machine.execCmdNetFlowfairSet c port enable cap s
  | .cmdNetSampleSet c port ring => Sys2Proof.Machine.execCmdNetSampleSet c port ring s
  | .cmdNetQueueStatus c queue => Sys2Proof.Machine.execCmdNetQueueStatus c queue s
  | .netengQueueShaperWrite w => Sys2Proof.Machine.execNetengQueueShaperWrite w s
  | .netengFlowfairWrite w => Sys2Proof.Machine.execNetengFlowfairWrite w s
  | .transportWrite half => Sys2Proof.Machine.execTransportWrite half s
  | .transportReadReq half => Sys2Proof.Machine.execTransportReadReq half s
  | .transportReadResp half => Sys2Proof.Machine.execTransportReadResp half s
  | .transportAck half => Sys2Proof.Machine.execTransportAck half s
  | .transportNak half => Sys2Proof.Machine.execTransportNak half s
  | .transportClose half => Sys2Proof.Machine.execTransportClose half s
  | .packetSend conn => Sys2Proof.Machine.execPacketSend conn s
  | .rtoExpiry conn => Sys2Proof.Machine.execRtoExpiry conn s
  | .ackTimer conn => Sys2Proof.Machine.execAckTimer conn s
  | .pageRetryResend conn => Sys2Proof.Machine.execPageRetryResend conn s
  | .stallFallback index => Sys2Proof.Machine.execStallFallback index s
  | .txQueueDoorbell inst index value => Sys2Proof.Machine.execTxQueueDoorbell inst index value s
  | .wrWrite queue tow => Sys2Proof.Machine.execWrWrite queue tow s
  | .wrRead queue tow => Sys2Proof.Machine.execWrRead queue tow s
  | .wrRawFrame queue tow => Sys2Proof.Machine.execWrRawFrame queue tow s
  | .wrAdd queue tow => Sys2Proof.Machine.execWrAdd queue tow s
  | .wrTow queue tow => Sys2Proof.Machine.execWrTow queue tow s
  | .txCompletionRecord queue => Sys2Proof.Machine.execTxCompletionRecord queue s
  | .mooringDeregComplete mooring => Sys2Proof.Machine.execMooringDeregComplete mooring s
  | .cmdConnSet c conn inst settings => Sys2Proof.Machine.execCmdConnSet c conn inst settings s
  | .cmdConnClose c conn => Sys2Proof.Machine.execCmdConnClose c conn s
  | .cmdConnStatus c conn => Sys2Proof.Machine.execCmdConnStatus c conn s
  | .cmdTxQueueSet c doorbell base n completions vector => Sys2Proof.Machine.execCmdTxQueueSet c doorbell base n completions vector s
  | .cmdMooringReg c m => Sys2Proof.Machine.execCmdMooringReg c m s
  | .cmdMooringDereg c key => Sys2Proof.Machine.execCmdMooringDereg c key s
  | .cmdMooringPage c key first count present => Sys2Proof.Machine.execCmdMooringPage c key first count present s
  | .cmdCounterAlloc c inst free => Sys2Proof.Machine.execCmdCounterAlloc c inst free s
  | .cmdCounterRead c counter => Sys2Proof.Machine.execCmdCounterRead c counter s
  | .transportConnTimerWrite w => Sys2Proof.Machine.execTransportConnTimerWrite w s
  | .heartbeatSend => Sys2Proof.Machine.execHeartbeatSend s
  | .heartbeatReceive link h => Sys2Proof.Machine.execHeartbeatReceive link h s
  | .heartbeatMiss link => Sys2Proof.Machine.execHeartbeatMiss link s
  | .assemble link id hops => Sys2Proof.Machine.execAssemble link id hops s
  | .roster link r hops => Sys2Proof.Machine.execRoster link r hops s
  | .detourNotice link alternate lower lockage origin hops => Sys2Proof.Machine.execDetourNotice link alternate lower lockage origin hops s
  | .faultReport link r => Sys2Proof.Machine.execFaultReport link r s
  | .faultGatherExpiry identity => Sys2Proof.Machine.execFaultGatherExpiry identity s
  | .coalesceEntryExpiry identity => Sys2Proof.Machine.execCoalesceEntryExpiry identity s
  | .broadcast link origin hops b => Sys2Proof.Machine.execBroadcast link origin hops b s
  | .linkTraining link t => Sys2Proof.Machine.execLinkTraining link t s
  | .lockageZero => Sys2Proof.Machine.execLockageZero s
  | .bypassHoldLapse pair => Sys2Proof.Machine.execBypassHoldLapse pair s
  | .bypassSwitchClosed pair => Sys2Proof.Machine.execBypassSwitchClosed pair s
  | .timeSourceLost => Sys2Proof.Machine.execTimeSourceLost s
  | .ppsIn => Sys2Proof.Machine.execPpsIn s
  | .ppsOutput output => Sys2Proof.Machine.execPpsOutput output s
  | .cmdRingStatus c => Sys2Proof.Machine.execCmdRingStatus c s
  | .cmdRingLinkStatus c link => Sys2Proof.Machine.execCmdRingLinkStatus c link s
  | .cmdRingBypass c pair => Sys2Proof.Machine.execCmdRingBypass c pair s
  | .cmdTimeStatus c => Sys2Proof.Machine.execCmdTimeStatus c s
  | .cmdTimeSet c ns => Sys2Proof.Machine.execCmdTimeSet c ns s
  | .cmdPtpSet c port role domain transport => Sys2Proof.Machine.execCmdPtpSet c port role domain transport s
  | .cmdPpsSet c output mode => Sys2Proof.Machine.execCmdPpsSet c output mode s
  | .ringtimePpsCtrlWrite w => Sys2Proof.Machine.execRingtimePpsCtrlWrite w s
  | .storageDoorbell inst index value => Sys2Proof.Machine.execStorageDoorbell inst index value s
  | .capsuleFetch half tag => Sys2Proof.Machine.execCapsuleFetch half tag s
  | .capsuleRead id => Sys2Proof.Machine.execCapsuleRead id s
  | .capsuleWrite id => Sys2Proof.Machine.execCapsuleWrite id s
  | .capsuleFlush id => Sys2Proof.Machine.execCapsuleFlush id s
  | .capsuleDeallocate id => Sys2Proof.Machine.execCapsuleDeallocate id s
  | .rangeLockGrant id => Sys2Proof.Machine.execRangeLockGrant id s
  | .transferReady half id tag size => Sys2Proof.Machine.execTransferReady half id tag size s
  | .storageCompletion id => Sys2Proof.Machine.execStorageCompletion id s
  | .destage id => Sys2Proof.Machine.execDestage id s
  | .backendCompletion tag error data => Sys2Proof.Machine.execBackendCompletion tag error data s
  | .backendTimeout drive resetOk => Sys2Proof.Machine.execBackendTimeout drive resetOk s
  | .remoteReconnectTimeout conn => Sys2Proof.Machine.execRemoteReconnectTimeout conn s
  | .idleTimerExpiry drive => Sys2Proof.Machine.execIdleTimerExpiry drive s
  | .cmdStorageQueueSet c doorbell set => Sys2Proof.Machine.execCmdStorageQueueSet c doorbell set s
  | .cmdVolumeSet c volume bind => Sys2Proof.Machine.execCmdVolumeSet c volume bind s
  | .cmdVolumeStatus c volume => Sys2Proof.Machine.execCmdVolumeStatus c volume s
  | .cmdStorageRemoteSet c target settings => Sys2Proof.Machine.execCmdStorageRemoteSet c target settings s
  | .cmdStorageIdleSet c drive idle1 idle2 => Sys2Proof.Machine.execCmdStorageIdleSet c drive idle1 idle2 s
  | .storageIdleCtrlWrite w => Sys2Proof.Machine.execStorageIdleCtrlWrite w s
  | .laneSeal lane user j => Sys2Proof.Machine.execLaneSeal lane user j s
  | .laneOpen lane user j tag => Sys2Proof.Machine.execLaneOpen lane user j tag s
  | .laneRawBlock lane user decrypt blocks parity operation => Sys2Proof.Machine.execLaneRawBlock lane user decrypt blocks parity operation s
  | .sharedSeal parity => Sys2Proof.Machine.execSharedSeal parity s
  | .sharedOpen parity => Sys2Proof.Machine.execSharedOpen parity s
  | .sharedBlockEncrypt parity => Sys2Proof.Machine.execSharedBlockEncrypt parity s
  | .sharedBlockDecrypt parity => Sys2Proof.Machine.execSharedBlockDecrypt parity s
  | .sharedLockClaim req => Sys2Proof.Machine.execSharedLockClaim req s
  | .sharedLockRelease req => Sys2Proof.Machine.execSharedLockRelease req s
  | .secSharedPreempt => Sys2Proof.Machine.execSecSharedPreempt s
  | .entropyTestFail proportion => Sys2Proof.Machine.execEntropyTestFail proportion s
  | .startupTestComplete pass => Sys2Proof.Machine.execStartupTestComplete pass s
  | .entropyHoldExpiry => Sys2Proof.Machine.execEntropyHoldExpiry s
  | .drbgReseed => Sys2Proof.Machine.execDrbgReseed s
  | .generatorReseed unit => Sys2Proof.Machine.execGeneratorReseed unit s
  | .cmdSecStatus c => Sys2Proof.Machine.execCmdSecStatus c s
  | .cmdSecChallenge c code => Sys2Proof.Machine.execCmdSecChallenge c code s
  | .cmdSecDebugSet c level tag => Sys2Proof.Machine.execCmdSecDebugSet c level tag s
  | .cmdSecLifecycle c target tag => Sys2Proof.Machine.execCmdSecLifecycle c target tag s
  | .cmdSecVersionCommit c tag => Sys2Proof.Machine.execCmdSecVersionCommit c tag s
  | .cmdKeyLoad c target wrapping space address fetched => Sys2Proof.Machine.execCmdKeyLoad c target wrapping space address fetched s
  | .cmdKeyErase c slot tag => Sys2Proof.Machine.execCmdKeyErase c slot tag s
  | .cmdKeyInfo c slot => Sys2Proof.Machine.execCmdKeyInfo c slot s
  | .cmdRngRead c length => Sys2Proof.Machine.execCmdRngRead c length s
  | .cmdSharedJob c address => Sys2Proof.Machine.execCmdSharedJob c address s
  | .watchdogExpiry core => Sys2Proof.Machine.execWatchdogExpiry core s
  | .coreRestartComplete core => Sys2Proof.Machine.execCoreRestartComplete core s
  | .ctrlCoreFail core => Sys2Proof.Machine.execCtrlCoreFail core s
  | .stewardshipClaim east epoch => Sys2Proof.Machine.execStewardshipClaim east epoch s
  | .controlLinkHeartbeat received => Sys2Proof.Machine.execControlLinkHeartbeat received s
  | .ctrlLinkFail => Sys2Proof.Machine.execCtrlLinkFail s
  | .ledgerMount => Sys2Proof.Machine.execLedgerMount s
  | .ledgerMountTimeout => Sys2Proof.Machine.execLedgerMountTimeout s
  | .ledgerGarbageCollect fails => Sys2Proof.Machine.execLedgerGarbageCollect fails s
  | .towpathDatagram counter frame tag => Sys2Proof.Machine.execTowpathDatagram counter frame tag s
  | .i3cPrivateWrite w => Sys2Proof.Machine.execI3cPrivateWrite w s
  | .i3cPrivateRead off length => Sys2Proof.Machine.execI3cPrivateRead off length s
  | .uartCharacter line => Sys2Proof.Machine.execUartCharacter line s
  | .cmdCtrlStatus c => Sys2Proof.Machine.execCmdCtrlStatus c s
  | .cmdCoreStatus c core => Sys2Proof.Machine.execCmdCoreStatus c core s
  | .cmdCoreRestart c core => Sys2Proof.Machine.execCmdCoreRestart c core s
  | .controlCoreCtrlRestart w => Sys2Proof.Machine.execControlCoreCtrlRestart w s
  | .cmdEventQueueSet c base n headAddr vector => Sys2Proof.Machine.execCmdEventQueueSet c base n headAddr vector s
  | .cmdLedgerStatus c => Sys2Proof.Machine.execCmdLedgerStatus c s
  | .cmdNorWrite c image offset length space address fetched => Sys2Proof.Machine.execCmdNorWrite c image offset length space address fetched s
  | .cmdUartSet c baud => Sys2Proof.Machine.execCmdUartSet c baud s
  | .cmdCoreExtLoad c space address length fetched => Sys2Proof.Machine.execCmdCoreExtLoad c space address length fetched s
  | .volilNop core => Sys2Proof.Machine.execVolilNop core s
  | .wait core => Sys2Proof.Machine.execWait core s
  | .tret core => Sys2Proof.Machine.execTret core s
  | .ret core => Sys2Proof.Machine.execRet core s
  | .volilFence core => Sys2Proof.Machine.execVolilFence core s
  | .sys core imm => Sys2Proof.Machine.execSys core imm s
  | .brk core => Sys2Proof.Machine.execBrk core s
  | .mov o => Sys2Proof.Machine.execMov o s
  | .add o => Sys2Proof.Machine.execAdd o s
  | .adc o => Sys2Proof.Machine.execAdc o s
  | .sub o => Sys2Proof.Machine.execSub o s
  | .sbc o => Sys2Proof.Machine.execSbc o s
  | .and o => Sys2Proof.Machine.execAnd o s
  | .or o => Sys2Proof.Machine.execOr o s
  | .xor o => Sys2Proof.Machine.execXor o s
  | .shl o => Sys2Proof.Machine.execShl o s
  | .shr o => Sys2Proof.Machine.execShr o s
  | .sar o => Sys2Proof.Machine.execSar o s
  | .mul o => Sys2Proof.Machine.execMul o s
  | .mulhu o => Sys2Proof.Machine.execMulhu o s
  | .divu o => Sys2Proof.Machine.execDivu o s
  | .remu o => Sys2Proof.Machine.execRemu o s
  | .cmp o => Sys2Proof.Machine.execCmp o s
  | .movi o => Sys2Proof.Machine.execMovi o s
  | .addi o => Sys2Proof.Machine.execAddi o s
  | .adci o => Sys2Proof.Machine.execAdci o s
  | .subi o => Sys2Proof.Machine.execSubi o s
  | .sbci o => Sys2Proof.Machine.execSbci o s
  | .andi o => Sys2Proof.Machine.execAndi o s
  | .ori o => Sys2Proof.Machine.execOri o s
  | .xori o => Sys2Proof.Machine.execXori o s
  | .shli o => Sys2Proof.Machine.execShli o s
  | .shri o => Sys2Proof.Machine.execShri o s
  | .sari o => Sys2Proof.Machine.execSari o s
  | .muli o => Sys2Proof.Machine.execMuli o s
  | .cmpi o => Sys2Proof.Machine.execCmpi o s
  | .not o => Sys2Proof.Machine.execNot o s
  | .neg o => Sys2Proof.Machine.execNeg o s
  | .tst o => Sys2Proof.Machine.execTst o s
  | .mfc o => Sys2Proof.Machine.execMfc o s
  | .mtc o => Sys2Proof.Machine.execMtc o s
  | .callr o => Sys2Proof.Machine.execCallr o s
  | .jmpr o => Sys2Proof.Machine.execJmpr o s
  | .sext o => Sys2Proof.Machine.execSext o s
  | .bcc core cc wide disp => Sys2Proof.Machine.execBcc core cc wide disp s
  | .call core disp => Sys2Proof.Machine.execCall core disp s
  | .ld o => Sys2Proof.Machine.execLd o s
  | .lds o => Sys2Proof.Machine.execLds o s
  | .st o => Sys2Proof.Machine.execSt o s
  | .sti o => Sys2Proof.Machine.execSti o s
  | .lea o => Sys2Proof.Machine.execLea o s
  | .swap o => Sys2Proof.Machine.execSwap o s
  | .ext core x => Sys2Proof.Machine.execExt core x s
  | .undefinedEncoding core => Sys2Proof.Machine.execUndefinedEncoding core s
  | .interruptTaken core => Sys2Proof.Machine.execInterruptTaken core s
  | .timecmpExpiry core => Sys2Proof.Machine.execTimecmpExpiry core s
  | .stepWord words => Sys2Proof.Machine.execStepWord words s
  | .fillComplete chunk => Sys2Proof.Machine.execFillComplete chunk s
  | .buddyDeltaSend => Sys2Proof.Machine.execBuddyDeltaSend s
  | .buddyHeaderBarge chunk step crc data poison => Sys2Proof.Machine.execBuddyHeaderBarge chunk step crc data poison s
  | .buddyEndBarge sent step poison => Sys2Proof.Machine.execBuddyEndBarge sent step poison s
  | .ckptStripe => Sys2Proof.Machine.execCkptStripe s
  | .ckptSeal => Sys2Proof.Machine.execCkptSeal s
  | .cmdRelStatus c => Sys2Proof.Machine.execCmdRelStatus c s
  | .cmdRelFaultStatus c => Sys2Proof.Machine.execCmdRelFaultStatus c s
  | .cmdCkptNow c => Sys2Proof.Machine.execCmdCkptNow c s
  | .cmdRelRestore c sets step plan blocks => Sys2Proof.Machine.execCmdRelRestore c sets step plan blocks s
  | .cmdRelForce c => Sys2Proof.Machine.execCmdRelForce c s
  | .reliabilityNanLimitWrite w => Sys2Proof.Machine.execReliabilityNanLimitWrite w s
  | .reliabilityForceWrite w => Sys2Proof.Machine.execReliabilityForceWrite w s
  | .sampleInstant => Sys2Proof.Machine.execSampleInstant s
  | .observeMarkWrite w => Sys2Proof.Machine.execObserveMarkWrite w s
  | .observeTraceCtrlWrite w => Sys2Proof.Machine.execObserveTraceCtrlWrite w s
  | .observeSampleCtrlWrite w => Sys2Proof.Machine.execObserveSampleCtrlWrite w s
  | .cmdTraceSet c mode sources => Sys2Proof.Machine.execCmdTraceSet c mode sources s
  | .cmdTraceStatus c => Sys2Proof.Machine.execCmdTraceStatus c s
  | .cmdSampleSet c period clusters cores => Sys2Proof.Machine.execCmdSampleSet c period clusters cores s
  | .cmdCountersRead c core unit => Sys2Proof.Machine.execCmdCountersRead c core unit s
  | .sensorReading r => Sys2Proof.Machine.execSensorReading r s
  | .demandUpdate => Sys2Proof.Machine.execDemandUpdate s
  | .trip cause index reading => Sys2Proof.Machine.execTrip cause index reading s
  | .throttleIn asserted => Sys2Proof.Machine.execThrottleIn asserted s
  | .powerEnable p48 standby => Sys2Proof.Machine.execPowerEnable p48 standby s
  | .coldReset straps => Sys2Proof.Machine.execColdReset straps s
  | .powerDisable => Sys2Proof.Machine.execPowerDisable s
  | .p48Loss mv => Sys2Proof.Machine.execP48Loss mv s
  | .warmResetPin low ns => Sys2Proof.Machine.execWarmResetPin low ns s
  | .warmReset => Sys2Proof.Machine.execWarmReset s
  | .ringJoinFall => Sys2Proof.Machine.execRingJoinFall s
  | .ringJoinRise => Sys2Proof.Machine.execRingJoinRise s
  | .clockLoss domain frequency => Sys2Proof.Machine.execClockLoss domain frequency s
  | .powerclkCapWrite w => Sys2Proof.Machine.execPowerclkCapWrite w s
  | .powerclkResetCtrlWarm w => Sys2Proof.Machine.execPowerclkResetCtrlWarm w s
  | .cmdPowerStatus c => Sys2Proof.Machine.execCmdPowerStatus c s
  | .cmdPowerCapSet c watts => Sys2Proof.Machine.execCmdPowerCapSet c watts s
  | .cmdResetWarm c => Sys2Proof.Machine.execCmdResetWarm c s
  | .cmdClockStatus c domain => Sys2Proof.Machine.execCmdClockStatus c domain s
  | .romSelfTest dimms rate => Sys2Proof.Machine.execRomSelfTest dimms rate s
  | .imageVerification => Sys2Proof.Machine.execImageVerification s
  | .firmwareStart code devices => Sys2Proof.Machine.execFirmwareStart code devices s
  | .defaultManifestLoad => Sys2Proof.Machine.execDefaultManifestLoad s
  | .instanceDestroyComplete inst => Sys2Proof.Machine.execInstanceDestroyComplete inst s
  | .fetchFault core => Sys2Proof.Machine.execFetchFault core s
  | .unknownCommand src => Sys2Proof.Machine.execUnknownCommand src s
  | .ringtimeTimeNsRead req half => Sys2Proof.Machine.execRingtimeTimeNsRead req half s
  | .jtagCoreDebug target op => Sys2Proof.Machine.execJtagCoreDebug target op s
  | .netLinkUp port => Sys2Proof.Machine.execNetLinkUp port s
  | .portLinkUp port speed width => Sys2Proof.Machine.execPortLinkUp port speed width s

end Sys2Proof.Machine
end

