-- ==== Sys2Proof/Safety.lean ====
section
/-! DEFINITION. The words in which claims are stated: what a command answers, what a legal vault is, what a step may not change. -/

namespace Sys2Proof.Machine

/-- The device has power (R426): no command but a power event reaches one that is off. -/
abbrev State.On (s : State) : Prop := s.dev.power.state ≠ .off

/-- The device in full service (R426). -/
abbrev State.Full (s : State) : Prop := s.dev.power.state = .full

/-- The same queue and vault around another device. -/
def State.withDev (s : State) (d : Dev) : State := { s with dev := d }

/-- A command answers the next state in which the device is `d` and the queue and the vault are as before. -/
abbrev Gives (i : Instr) (s : State) (d : Dev) : Prop := exec i s = .next (s.withDev d)

/-- The source of a command runs no other (R359). -/
abbrev Free (c : Cmd) (s : State) : Prop := (s.dev.frame c.src.val).running = false

/-- No guard turns a mailbox command away (R359, R14, the virtual-function rules), and its source runs no other: `g` names its class. -/
abbrev Serves (g : Guard) (c : Cmd) (s : State) : Prop := s.On ∧ guardStatus g c.src.val s.dev = none ∧ Free c s

/-- A mailbox command answers with a reply in its source's frame, and leaves the device otherwise as `d`. -/
abbrev Answers (i : Instr) (c : Cmd) (s : State) (r : Reply) (d : Dev) : Prop :=
  exec i s = .next (s.withDev (complete c.src.val c.seq r d))

/-- A mailbox command answers with a reply in its source's frame, and leaves the vault as `v` and the device otherwise as `d`. -/
abbrev AnswersV (i : Instr) (c : Cmd) (s : State) (r : Reply) (v : Vault) (d : Dev) : Prop :=
  exec i s = .next { s with vault := v, dev := complete c.src.val c.seq r d }

/-- A stream issues the op (R112, R114): its word stands in the op store at the stream's pc, the stream runs, and the word is
defined. -/
abbrev Issues (opc : Nat) (o : StreamOp) (s : State) : Prop :=
  s.On ∧ canIssue o.tile.val o.stream.val (encodeOp opc o) s.dev = true ∧ undefinedWord (encodeOp opc o) = false

/-- An op's operands are in bounds, aligned and unpoisoned, and reading them leaves the device as `d` (R110, R114). -/
abbrev Accepts (p : Plan) (opc : Nat) (o : StreamOp) (s : State) (d : Dev) : Prop :=
  p.bounds = false ∧ p.align = false ∧
  readSpans o.tile.val (some o.stream.val) ((s.dev.tile o.tile.val).stream o.stream.val).pc.toNat (encodeOp opc o) p.reads s.dev = d ∧
  (p.reads.any fun r => (d.tile o.tile.val).poisoned r.1 r.2) = false

/-- Stream `o.stream` of tile `o.tile`. -/
def Dev.streamOf (d : Dev) (o : StreamOp) : Stream := (d.tile o.tile.val).stream o.stream.val

/-- The device after an op of a tile has issued with an effect on the tile (R112, R135, R412). -/
def Dev.runOp (d : Dev) (o : StreamOp) (mbusy vbusy : Nat) (effect : Tile → Tile) : Dev :=
  d.modTile o.tile.val (issued o mbusy vbusy effect)

/-- The device after an op of unit S has issued with an effect on its stream. -/
def Dev.runScalar (d : Dev) (o : StreamOp) (effect : Stream → Stream) : Dev :=
  d.runOp o 0 0 fun t => t.modStream o.stream.val effect

/-- A 64-bit write of the register at a place is accepted and every one of its fields takes effect: `t` is what it does to the
register's word (R6, R7, R9–R11). -/
abbrev Takes (p : RegPlace) (w : RegW) (s : State) (t : Taken) : Prop :=
  s.On ∧ w.half = .both ∧ t.denied = false ∧ t.rsvd = false ∧
  ((regRow p).map fun row =>
    takeWrite p.block (rowNow s.dev p row) (blockLocked s.dev p.block) .both w.value.toNat (storedOrShown s.vault s.dev p)) = some t

/-- Core `k` executes, and the `n` bytes at its pc say the instruction (R372–R376, R379). -/
abbrev Runs (k : Fin 19) (i : VInstr) (n : Nat) (s : State) : Prop :=
  s.On ∧ executing s.dev k.val = true ∧ fetchAt s.dev k = .found i n

/-- The address after an instruction of `n` bytes at core k's pc. -/
def Dev.after (d : Dev) (k n : Nat) : Nat := ((d.core k).pc.toNat + n) % 2 ^ 48

/-- The device after an instruction of `n` bytes that changes its core by `f` and goes on behind itself (R370, R376). -/
def Dev.stepsOn (d : Dev) (k n : Nat) (f : Core → Core) : Dev := retire k (d.after k n) false false d (d.modCore k f)

/-- The same for an instruction with a result and flags at its operand size (R371). -/
def Dev.computes (d : Dev) (k n : Nat) (z : VSize) (dst : Fin 16) (r : AluOut) : Dev :=
  d.stepsOn k n fun c => c.take (vBits z) dst.val r

/-- A general register of core k at an operand size. -/
def Dev.operand (d : Dev) (k : Nat) (z : VSize) (r : Fin 16) : Nat := atSize z ((d.core k).gr r.val)

/-- An immediate at an operand size: sign-extended from its own width (R373). -/
def immediate (o : VolilRI) : Nat := atSize o.size (BitVec.ofInt 64 (sext (8 * 2 ^ o.isz.val) o.imm.toNat))

/-- Core k's carry flag as a number. -/
def Dev.carry (d : Dev) (k : Nat) : Nat := b2n ((d.core k).flag 0)

/-- The class of a mailbox command: who may send it, whether reduced service executes it, the block that an expert lock guards. -/
def commandClass : Instr → Option (Cmd × Guard)
  | .cmdManifestLoad c _ _ _ => some (c, {})
  | .cmdManifestReload c _ _ _ _ => some (c, {})
  | .cmdManifestStatus c => some (c, { reduced := true, i3c := true })
  | .cmdManifestCancel c => some (c, {})
  | .cmdAltSelect c _ => some (c, { also := switchBlocks })
  | .cmdAltRevert c => some (c, { also := switchBlocks })
  | .cmdExpertChallenge c _ => some (c, {})
  | .cmdExpertUnlock c _ _ _ => some (c, {})
  | .cmdExpertLock c _ => some (c, {})
  | .cmdCanalStatus c => some (c, { i3c := true })
  | .cmdCanalReadEntry c _ _ _ _ => some (c, {})
  | .cmdCanalSwitch c _ => some (c, { block := some 3 })
  | .cmdCanalClearCounts c => some (c, { block := some 3 })
  | .cmdLockStatus c _ => some (c, { i3c := true })
  | .cmdLockSluice c _ => some (c, { block := some 4 })
  | .cmdLockReadGate c _ _ _ _ => some (c, {})
  | .cmdWeightSet c _ _ => some (c, {})
  | .cmdDerateStatus c => some (c, { i3c := true })
  | .cmdTileStatus c _ => some (c, { i3c := true })
  | .cmdTileRestart c _ _ => some (c, { block := some 5 })
  | .cmdTileReadOps c _ _ _ => some (c, {})
  | .cmdReduceStatus c => some (c, { i3c := true })
  | .cmdReduceClear c => some (c, {})
  | .cmdHbmStatus c _ => some (c, { i3c := true })
  | .cmdHbmScrub c _ _ _ _ => some (c, { block := some 6 })
  | .cmdHbmCeLog c _ => some (c, { i3c := true })
  | .cmdHbmClear c _ => some (c, { block := some 6 })
  | .cmdHbmCheckerTest c _ => some (c, {})
  | .cmdWharfStatus c _ => some (c, { i3c := true })
  | .cmdKvReachCreate c _ _ _ => some (c, { vf := true })
  | .cmdKvReachDestroy c _ => some (c, { vf := true })
  | .cmdKvStatus c _ => some (c, { vf := true, i3c := true })
  | .cmdInstanceCreate c _ => some (c, { block := some 8, also := createBlocks })
  | .cmdInstanceDestroy c _ => some (c, { block := some 8, also := destroyBlocks })
  | .cmdInstanceStatus c _ => some (c, { vf := true, i3c := true })
  | .cmdWindowSet c _ _ => some (c, { block := some 8 })
  | .cmdWindowRead c _ => some (c, { i3c := true })
  | .cmdHostStatus c _ => some (c, { i3c := true })
  | .cmdPortStatus c _ => some (c, { i3c := true })
  | .cmdAccelWindowSet c _ _ _ => some (c, {})
  | .cmdAccelRangeSet c _ _ _ _ _ => some (c, {})
  | .cmdAccelCfg c _ _ _ _ _ _ => some (c, {})
  | .cmdDmaRingSet c _ _ _ _ _ => some (c, { vf := true, block := some 9 })
  | .cmdDmaStatus c _ => some (c, { vf := true, i3c := true })
  | .cmdNetPortStatus c _ => some (c, { i3c := true })
  | .cmdNetExtractSet c _ _ _ _ => some (c, {})
  | .cmdNetRuleSet c _ _ _ => some (c, {})
  | .cmdNetIndirSet c _ _ _ _ => some (c, {})
  | .cmdNetCommit c _ => some (c, { block := some 10 })
  | .cmdNetQueueSet c _ _ => some (c, { vf := true, block := some 10 })
  | .cmdNetShaperSet c _ _ _ => some (c, { block := some 10 })
  | .cmdNetFlowfairSet c _ _ _ => some (c, { block := some 10 })
  | .cmdNetSampleSet c _ _ => some (c, {})
  | .cmdNetQueueStatus c _ => some (c, { vf := true, i3c := true })
  | .cmdConnSet c _ _ _ => some (c, { vf := true, block := some 11 })
  | .cmdConnClose c _ => some (c, { vf := true, block := some 11 })
  | .cmdConnStatus c _ => some (c, { vf := true, i3c := true })
  | .cmdTxQueueSet c _ _ _ _ _ => some (c, { vf := true, block := some 11 })
  | .cmdMooringReg c _ => some (c, { vf := true })
  | .cmdMooringDereg c _ => some (c, { vf := true })
  | .cmdMooringPage c _ _ _ _ => some (c, { vf := true, block := some 11 })
  | .cmdCounterAlloc c _ _ => some (c, { vf := true })
  | .cmdCounterRead c _ => some (c, { vf := true, i3c := true })
  | .cmdRingStatus c => some (c, { i3c := true })
  | .cmdRingLinkStatus c _ => some (c, { i3c := true })
  | .cmdRingBypass c _ => some (c, { block := some 12 })
  | .cmdTimeStatus c => some (c, { i3c := true })
  | .cmdTimeSet c _ => some (c, { block := some 12 })
  | .cmdPtpSet c _ _ _ _ => some (c, {})
  | .cmdPpsSet c _ _ => some (c, { block := some 12 })
  | .cmdStorageQueueSet c _ _ => some (c, { vf := true, block := some 13 })
  | .cmdVolumeSet c _ _ => some (c, {})
  | .cmdVolumeStatus c _ => some (c, { vf := true, i3c := true })
  | .cmdStorageRemoteSet c _ _ => some (c, {})
  | .cmdStorageIdleSet c _ _ _ => some (c, { block := some 13 })
  | .cmdSecStatus c => some (c, { reduced := true, i3c := true })
  | .cmdSecChallenge c _ => some (c, { reduced := true })
  | .cmdSecDebugSet c _ _ => some (c, {})
  | .cmdSecLifecycle c _ _ => some (c, {})
  | .cmdSecVersionCommit c _ => some (c, {})
  | .cmdKeyLoad c _ _ _ _ _ => some (c, {})
  | .cmdKeyErase c _ _ => some (c, {})
  | .cmdKeyInfo c _ => some (c, { i3c := true })
  | .cmdRngRead c _ => some (c, { vf := true, i3c := true })
  | .cmdSharedJob c _ => some (c, {})
  | .cmdCtrlStatus c => some (c, { reduced := true, i3c := true })
  | .cmdCoreStatus c _ => some (c, { i3c := true })
  | .cmdCoreRestart c _ => some (c, { block := some 15 })
  | .cmdEventQueueSet c _ _ _ _ => some (c, {})
  | .cmdLedgerStatus c => some (c, { reduced := true, i3c := true })
  | .cmdNorWrite c _ _ _ _ _ _ => some (c, { reduced := true, i3c := true })
  | .cmdUartSet c _ => some (c, { block := some 15 })
  | .cmdCoreExtLoad c _ _ _ _ => some (c, {})
  | .cmdRelStatus c => some (c, { i3c := true })
  | .cmdRelFaultStatus c => some (c, { i3c := true })
  | .cmdCkptNow c => some (c, { block := some 16 })
  | .cmdRelRestore c _ _ _ _ => some (c, { block := some 16 })
  | .cmdRelForce c => some (c, { block := some 16 })
  | .cmdTraceSet c _ _ => some (c, { block := some 17 })
  | .cmdTraceStatus c => some (c, { i3c := true })
  | .cmdSampleSet c _ _ _ => some (c, { block := some 17 })
  | .cmdCountersRead c _ _ => some (c, { i3c := true })
  | .cmdPowerStatus c => some (c, { i3c := true })
  | .cmdPowerCapSet c _ => some (c, { block := some 18 })
  | .cmdResetWarm c => some (c, { block := some 18 })
  | .cmdClockStatus c _ => some (c, { i3c := true })
  | _ => none

/-- The core that serves a command and makes it wait while it restarts (R353). -/
def waitsFor (d : Dev) : Instr → Option Nat
  | .cmdExpertChallenge _ _ => some 0
  | .cmdTileStatus _ tile => some (3 + tile / 33)
  | .cmdTileRestart _ logical _ => some (3 + (d.leaderOf logical).getD 0 / 33)
  | .cmdTileReadOps _ logical _ _ => some (3 + (d.leaderOf logical).getD 0 / 33)
  | .broadcast _ _ _ _ => some 2
  | .cmdSecStatus _ => some 0
  | .cmdSecChallenge _ _ => some 0
  | .cmdSecDebugSet _ _ _ => some 0
  | .cmdSecLifecycle _ _ _ => some 0
  | .cmdSecVersionCommit _ _ => some 0
  | .cmdKeyLoad _ _ _ _ _ _ => some 0
  | .cmdRngRead _ _ => some 0
  | .stewardshipClaim _ _ => some 0
  | .cmdPowerStatus _ => some 1
  | .cmdPowerCapSet _ _ => some 1
  | .cmdResetWarm _ => some 1
  | .cmdClockStatus _ _ => some 1
  | _ => none

/-- The debug level that a lifecycle state allows (R332): 3 in BLANK and RMA, 0 in SCRAPPED, at most 1 in PROVISIONED and at most
3 in OWNED. -/
def levelLegal (lifecycle level : Nat) : Prop :=
  match lifecycle with
  | 0 => level = 3
  | 1 => level ≤ 1
  | 2 => level ≤ 3
  | 3 => level = 3
  | 4 => level = 0
  | _ => False

/-- The vault invariant (R331, R332, R335): a lifecycle state that is not reserved, a level that it allows, and a fuse counter
of at most 64. -/
def Vault.Legal (v : Vault) : Prop := levelLegal v.lifecycle v.debug ∧ v.minVersion ≤ 64

/-- A power event (R425–R428): what reaches a device that is off. -/
def powerEvent : Instr → Bool
  | .throttleIn _ => true
  | .powerDisable => true
  | .p48Loss _ => true
  | .powerEnable _ _ => true
  | .warmResetPin _ _ => true
  | .coldReset _ => true
  | .ringJoinFall => true
  | .ringJoinRise => true
  | _ => false

/-- A command that may change the fuses or the key store: those of R331–R338, a reset, and the commands that a core has held. -/
def mayTouchVault : Instr → Bool
  | .romSelfTest _ _ => true
  | .coldReset _ => true
  | .warmReset => true
  | .cmdSecDebugSet _ _ _ => true
  | .cmdSecLifecycle _ _ _ => true
  | .cmdSecVersionCommit _ _ => true
  | .cmdKeyLoad _ _ _ _ _ _ => true
  | .cmdKeyErase _ _ _ => true
  | .coreRestartComplete _ => true
  | _ => false

end Sys2Proof.Machine
end

