-- ==== Sys2Proof/Certificates/Slice0/Obligations.lean ====
section
/-! DEFINITION. The statements for the provers, each a named proposition about the model; a statement named …Complete says, command by
command, under which conditions on the state and the operands a command answers which next state. -/

open Sys2Proof Sys2Proof.Machine

/-- O1. A step of a state with command c at the front of its queue is exec of c on that state with the queue's rest. The queue
of waiting commands is the model's form of the hardware's order of work (R359). -/
def Obligations.StepRunsFront : Prop :=
  ∀ (c : Instr) (rest : List Instr) (s : State), step { s with pending := c :: rest } = exec c { s with pending := rest }

/-- O2. A step with an empty queue passes one nanosecond of uptime and changes nothing but uptime, cluster time and what leaves the
device; a device without power keeps its cluster time and sends nothing, and without a PTP master port nothing leaves (R310). This is
the model's choice (log entry 99), no rule of the spec. -/
def Obligations.IdlePassesTime : Prop :=
  ∀ (s : State), s.pending = [] → ∃ time sent,
    step s = .next (s.withDev { s.dev with uptime := s.dev.uptime + 1, time := time, out := s.dev.out ++ sent }) ∧
    (s.dev.power.state = .off → time = s.dev.time ∧ sent = []) ∧ ((∀ e ∈ s.dev.time.ptp, e.2.1 ≠ 1) → sent = [])

/-- O3. Every command answers a next state, from every state and on all operands, and leaves the queue as it stands: what the
spec turns away (R9, R12, R23, R359) it turns away in the next state. -/
def Obligations.EveryCommandCompletes : Prop :=
  ∀ (c : Instr) (s : State), ∃ t, exec c s = .next t ∧ t.pending = s.pending

/-- O4. No step leads back to an earlier lifecycle state (R331). -/
def Obligations.LifecycleNeverReturns : Prop :=
  ∀ (s t : State), step s = .next t → s.vault.lifecycle ≤ t.vault.lifecycle

/-- O5. No step lowers the fuse counter of image versions (R335). -/
def Obligations.MinVersionNeverFalls : Prop :=
  ∀ (s t : State), step s = .next t → s.vault.minVersion ≤ t.vault.minVersion

/-- O6. A step from a state with a legal vault leaves the vault legal: a lifecycle state that is not reserved, a debug level
that it allows, a fuse counter of at most 64 (R331, R332, R335). -/
def Obligations.VaultStaysLegal : Prop :=
  ∀ (s t : State), s.vault.Legal → step s = .next t → t.vault.Legal

/-- O7. The vault is legal at reset. The lifecycle state at reset, BLANK, is the model's choice (log entry 11). -/
def Obligations.ResetVaultLegal : Prop :=
  State.reset.vault.Legal

/-- O8. (R331–R338): the commands that `mayTouchVault` lists are the only ones that change the fuses, the key store, the
lifecycle state or the debug level. -/
def Obligations.OnlySecurityTouchesVault : Prop :=
  ∀ (c : Instr) (s t : State), mayTouchVault c = false → exec c s = .next t → t.vault = s.vault

/-- O9. (R426): nothing but a power event reaches a device that is off. -/
def Obligations.PoweredOffIgnores : Prop :=
  ∀ (c : Instr) (s : State), ¬ s.On → powerEvent c = false → exec c s = .next s

/-- O10. (R14, R359, R353): a mailbox command that its guard turns away, sent while its source runs no other, completes with the guard's
status and changes nothing else: REDUCED outside full service, NOT_PERMITTED from a virtual function or from I3C that may not send it, BLOCK_EXPERT while
its block is expert-unlocked. -/
def Obligations.GuardsRefuse : Prop :=
  ∀ (i : Instr) (c : Cmd) (g : Guard) (s : State) (st : MStatus), commandClass i = some (c, g) → s.On →
    guardStatus g c.src.val s.dev = some st → Free c s →
    (∀ k, waitsFor s.dev i = some k → s.Full → s.dev.restarting k = false) →
    Answers i c s (fail st) s.dev

/-- O11. (R353, R359): a command whose serving core restarts waits, its source busy with it, and once that core is up it does what the
command does. -/
def Obligations.HeldWhileRestarting : Prop :=
  ∀ (i : Instr) (k : Nat) (s : State), waitsFor s.dev i = some k → s.Full → s.dev.restarting k = true →
    (∀ c g, commandClass i = some (c, g) → Free c s) →
    ∃ (h : HeldCmd) (d : Dev), Gives i s d ∧ d.heldCmds = s.dev.heldCmds ++ [(k, h)] ∧ d.mem = s.dev.mem ∧ d.out = s.dev.out ∧
      (∀ c g, commandClass i = some (c, g) → (d.frame c.src.val).running = true ∧ (d.frame c.src.val).busy = true) ∧
      ∀ u : State, (∀ j, waitsFor u.dev i = some j → u.dev.restarting j = false) → resume h u = exec i u

/-- O12. (R23): an access to an offset that no block decodes, in the reserved range or inside a block, completes: a read
answers 0 and changes nothing, a write changes nothing but access_denied in IDENT_STATUS. -/
def Obligations.UndecodedOffsets : Prop :=
  ∀ (off size : Nat), (size = 8 ∧ off % 8 = 0 ∨ size = 4 ∧ off % 4 = 0) →
    (regPlace off = none ∨ ∃ p, regPlace off = some p ∧ pfPage p = none ∧ pfFrame p = none ∧ regRow { p with off := p.off / 8 * 8 } = none) →
    (∀ (v : Vault) (d : Dev), regRead off size v d = (0, d)) ∧
    (∀ (r : Req) (value : Word) (s : State), s.On →
      Gives (.registerWrite r off size value) s (s.dev.csrSet 8 (s.dev.csrGet 8 ||| 2#64)) ∧
      (s.dev.csrSet 8 (s.dev.csrGet 8 ||| 2#64)).csrGet 8 = s.dev.csrGet 8 ||| 2#64)

/-- O13. (R8): every block's map has its ID register at 0x0000, read-only, and its STATUS register at 0x0008, whose bits 0 and
1 are W1C and read 0 at reset. -/
def Obligations.StatusRegisters : Prop :=
  ∀ b : Fin 19, (∃ row ∈ regMap b.val, row.off = 0 ∧ row.fields = []) ∧
    (∃ row ∈ regMap b.val, row.off = 8 ∧ { hi := 0, lo := 0, acc := Acc.w1c } ∈ row.fields ∧ { hi := 1, lo := 1, acc := Acc.w1c } ∈ row.fields) ∧
    ∀ u : Nat, u < (if b.val = 5 then 528 else if b.val = 6 then 8 else 1) →
      bits (State.reset.dev.csrGet (statusOff b.val u)).toNat 1 0 = 0

/-- O14. (R9–R11): the fields of a register are treated one by one: each one that the access reaches takes its own written bits
as its access code allows, keeps its value where it is locked or the encoding is reserved, and clears written bits where it is
W1C; a bit of no field that a write can reach keeps its value; access_denied and rsvd_write tell of a locked field and of a
reserved bit or encoding. -/
def Obligations.FieldsOneByOne : Prop :=
  ∀ (b : Nat) (row : RegRow) (locked : Bool) (h : Half) (new old : Nat) (t : Taken), row ∈ regMap b → new < 2 ^ 64 → old < 2 ^ 64 →
    takeWrite b row locked h new old = t →
    (∀ f ∈ row.fields, f.of t.word =
      if f.reached h = false then f.of old
      else if f.acc = .w1c then f.of (blend old 0 (halfMask h &&& new))
      else if f.acc = .rwx ∧ locked = true then f.of old
      else if f.acc ≠ .wo ∧ (encodingOk b row.off f.lo (f.of (blend old new (halfMask h))) || (f.spans && h == .low)) = false then f.of old
      else f.of (blend old new (halfMask h))) ∧
    (∀ i, i < 64 → (∀ f ∈ row.fields, i < f.lo ∨ f.hi < i) → bit t.word i = bit old i) ∧
    (t.denied = true ↔ ∃ f ∈ row.fields, f.reached h = true ∧ f.acc = .rwx ∧ locked = true) ∧
    (t.rsvd = true ↔ new &&& halfMask h &&& (row.defined ^^^ (2 ^ 64 - 1)) ≠ 0 ∨
      ∃ f ∈ row.fields, f.reached h = true ∧ (f.acc = .rw ∨ f.acc = .rwx ∧ locked = false) ∧
        encodingOk b row.off f.lo (f.of (blend old new (halfMask h))) = false ∧ (f.spans && h == .low) = false)

/-- O15. (R53): an unlock uses up the block's challenge, a new challenge supersedes the old one, and the eighth AUTH_FAIL in a
row locks the command out for 60 s, in which every CMD_EXPERT_UNLOCK answers LOCKED_OUT. -/
def Obligations.ExpertChallengeRules : Prop :=
  (∀ (v : Vault) (b seconds : Nat) (tag : Bytes) (d e : Dev) (r : Option MStatus), twf ({} : Challenge) d.expert.challenges = true →
    unlockLockedOut d = false → authoriseUnlock v b seconds tag d = (r, e) →
    tfind e.expert.challenges b = none ∧
    (r = some .authFail ∧ 7 ≤ d.expert.fails → e.expert.lockedUntil = some (d.uptime + 60000000000) ∧ e.expert.fails = 0) ∧
    (r = some .authFail ∧ d.expert.fails < 7 → e.expert.fails = d.expert.fails + 1 ∧ e.expert.lockedUntil = none) ∧
    (r = none → e.expert.fails = 0)) ∧
  (∀ (b : Nat) (d : Dev), ∃ ch : Challenge, tfind (serveEntropy 2 b d).2.expert.challenges b = some ch ∧
    ch.counter = d.expert.counter + 1 ∧ ch.issued = d.uptime) ∧
  (∀ (c : Cmd) (b seconds until_ : Nat) (tag : Bytes) (s : State), Serves {} c s → s.dev.expert.lockedUntil = some until_ →
    s.dev.uptime < until_ → Answers (.cmdExpertUnlock c b seconds tag) c s (fail .lockedOut) s.dev)

/-- O16. (R225): a completion whose recorded generation is not its instance's is discarded: its tag is free, both counts of the
instance advance, and no data arrives anywhere. -/
def Obligations.LateCompletionDiscarded : Prop :=
  ∀ (port : Fin 14) (tag : Nat) (data : Bytes) (poison : Bool) (t : Tag) (s : State), s.On →
    (s.dev.host.tags.find? fun t => decide (t.port = port.val ∧ t.tag = tag)) = some t → t.gen ≠ (s.dev.inst t.inst).gen →
    ∃ d, Gives (.completionReceived port tag data poison) s d ∧
      (d.host.tags.find? fun t => decide (t.port = port.val ∧ t.tag = tag)) = none ∧
      (d.inst t.inst).late = satAdd (2 ^ 64 - 1) (s.dev.inst t.inst).late 1 ∧
      (d.inst t.inst).lateTotal = satAdd (2 ^ 32 - 1) (s.dev.inst t.inst).lateTotal 1 ∧
      (∀ i, i ≠ t.inst → d.inst i = s.dev.inst i) ∧
      d.mem = s.dev.mem ∧ d.tiles = s.dev.tiles ∧ d.acc = s.dev.acc ∧ d.out = s.dev.out ∧ d.hbm = s.dev.hbm ∧ d.wharf = s.dev.wharf

/-- O17. (R49): a manifest in force whose step_lockages is 0 is not reloaded without rollback: INVALID with detail BAD_LENGTH, and
nothing changes. -/
def Obligations.ReloadNeedsSteps : Prop :=
  ∀ (c : Cmd) (source address length : Nat) (m : Manifest) (s : State), Serves {} c s →
    (s.dev.manifest.stage = 0 ∨ 5 < s.dev.manifest.stage) → s.dev.manifest.active = some m → m.stepLockages = 0 →
    Answers (.cmdManifestReload c source address length 0) c s { status := .invalid, detail := VCode.badLength.code } s.dev

/-- O18. (R375): no instruction is longer than 15 bytes; the one encoding that would be, SYNC STI with an 8-byte immediate and
a 4-byte displacement, takes 16 and is undefined. -/
def Obligations.VolilLengthLimit : Prop :=
  (∀ (core : Fin 19) (bs : Bytes) (i : VInstr) (n : Nat), decodeVolil core bs = .found i n → n ≤ 15) ∧
  (∀ (o : VolilM) (core : Fin 19) (rest : Bytes), o.size = .s64 → o.sync = true → o.dsz = 3 →
    (encodeVolil (.mem .sti o)).length = 16 ∧ decodeVolil core (encodeVolil (.mem .sti o) ++ rest) = .undefined) ∧
  (∀ i : VInstr, 15 < (encodeVolil i).length → ∃ o : VolilM, i = .mem .sti o ∧ o.size = .s64 ∧ o.sync = true ∧ o.dsz = 3)

/-- O19. (R372–R376): the decoder reads back every well-formed Volil instruction from its encoding, whatever follows it. -/
def Obligations.VolilRoundTrip : Prop :=
  ∀ (core : Fin 19) (i : VInstr) (rest : Bytes), i.wf core = true →
    decodeVolil core (encodeVolil i ++ rest) = .found i (encodeVolil i).length

/-- O20. (R380): trap entry saves the pc and the flags, disables interrupts, sets T, writes CAUSE and the address, and goes to
the vector; the general registers, the other cores and memory are unchanged. A trap taken while T is set resets the core. -/
def Obligations.TrapEntry : Prop :=
  ∀ (k vector imm off epc : Nat) (addr : Option Nat) (d : Dev),
    ((d.core k).flag 5 = true → trapEntry k vector imm off epc addr d = watchdog k d) ∧
    ((d.core k).flag 5 = false → ∃ c : Core, (trapEntry k vector imm off epc addr d).core k = c ∧
      c.epc = BitVec.ofNat 48 epc ∧ c.efl = (d.core k).fl ∧ c.flag 4 = false ∧ c.flag 5 = true ∧
      (∀ i, i < 4 → c.flag i = (d.core k).flag i) ∧
      c.cause = BitVec.ofNat 64 (vector + imm * 2 ^ 8 + off * 2 ^ 16) ∧ (∀ a, addr = some a → c.badaddr = BitVec.ofNat 48 a) ∧
      c.pc = BitVec.ofNat 48 ((d.core k).vbase.toNat + 16 * vector) ∧ (∀ r, c.gr r = (d.core k).gr r) ∧
      (∀ j, j ≠ k → (trapEntry k vector imm off epc addr d).core j = d.core j) ∧
      (trapEntry k vector imm off epc addr d).mem = d.mem)

/-- O21. (R371): ADD and ADC, SUB and SBC at operand size: the result modulo 2^w; C the carry out, for a subtraction the
borrow; V the signed overflow. -/
def Obligations.CarryAndOverflow : Prop :=
  ∀ (z : VSize) (a b c : Nat) (w : Nat), w = vBits z → a < 2 ^ w → b < 2 ^ w → c ≤ 1 →
    addAt w a b c = { value := (a + b + c) % 2 ^ w,
                      flags := some (decide (2 ^ w ≤ a + b + c), decide (sext w a + sext w b + c ≠ sext w ((a + b + c) % 2 ^ w))) } ∧
    ((subAt w a b c).value : Int) = ((a : Int) - b - c) % (2 ^ w : Nat) ∧
    (subAt w a b c).flags = some (decide ((a : Int) - b - c < 0), decide (sext w a - sext w b - c ≠ sext w (subAt w a b c).value))

/-- O22. An op that faults changes nothing but what its fault posts (R127): operands out of bounds come before misaligned ones,
and these before a poisoned line (R110). Said of the ops that read or write the basin in units M and V: MMA, MMAX, VLD, VST. -/
def Obligations.OpFaultsInOrder : Prop :=
  ∀ (o : StreamOp) (s : State) (i : Instr) (opc : Nat) (p : Plan) (d : Dev),
    (i = .vld o ∧ opc = 0x20 ∧ p = vldPlan o (s.dev.streamOf o) ∨ i = .vst o ∧ opc = 0x21 ∧ p = vstPlan o (s.dev.streamOf o) ∨
      i = .mma o ∧ opc = 0x10 ∧ p = matrixPlan (operandBytes o.fmt.toNat 128 (mmaK o.fmt.toNat))
        (operandBytes o.fmt.toNat 128 (mmaK o.fmt.toNat)) o (s.dev.streamOf o) ∨
      i = .mmax o ∧ opc = 0x11 ∧ p = matrixPlan (operandBytes o.fmt.toNat 64 (mmaxK o.fmt.toNat))
        (operandBytes o.fmt.toNat 128 (mmaxK o.fmt.toNat)) o (s.dev.streamOf o)) →
    Issues opc o s →
    (p.bounds = true → Gives i s (opFault 0x501 o (encodeOp opc o) s.dev)) ∧
    (p.bounds = false → p.align = true → Gives i s (opFault 0x502 o (encodeOp opc o) s.dev)) ∧
    (p.bounds = false → p.align = false →
      readSpans o.tile.val (some o.stream.val) (s.dev.streamOf o).pc.toNat (encodeOp opc o) p.reads s.dev = d →
      (p.reads.any fun r => (d.tile o.tile.val).poisoned r.1 r.2) = true → Gives i s (opFault 0x503 o (encodeOp opc o) d))

/-- O23. What is sealed under a key opens under the same key, nonce and additional data to the text that was sealed, and with
another tag it opens to nothing (R340). The cipher's steps are those of the standards that R3 names (PRESUMED, log entry 9). -/
def Obligations.SealOpens : Prop :=
  ∀ key iv aad text tag : Bytes, key.length = 32 → iv.length = 12 →
    gcmOpen key iv aad (gcmSeal key iv aad text).1 (gcmSeal key iv aad text).2 = some text ∧
    (tag ≠ (gcmSeal key iv aad text).2 → gcmOpen key iv aad (gcmSeal key iv aad text).1 tag = none)

/-- O24. (R178, R179): a stored HBM line reads clean; an error in one of its 68 symbols is corrected where it stands; a line
stored as poison reads as poison. -/
def Obligations.EccCorrectsOneSymbol : Prop :=
  ∀ data : Bytes, data.length = 64 →
    classify (syndromes (checkBytes data) data) = .clean ∧
    (∀ (i : Nat) (p : Byte), i < 68 → p ≠ 0 →
      classify (syndromes (if i < 4 then xorAt (checkBytes data) i p else checkBytes data)
        (if i < 4 then data else xorAt data (i - 4) p)) = .corrected i p) ∧
    classify (syndromes (poisonCheck data) data) = .poisoned

/-- O25. (R178, R182): a line that a write covers reads back as it was written, and every other line and its check bytes are as
they were. -/
def Obligations.HbmLineReadBack : Prop :=
  ∀ (k off : Nat) (bs : Bytes) (lock : Option Nat) (op : Word) (d e : Dev), k < 8 → off < 2 ^ 36 → off % 64 = 0 →
    bs.length = 64 → twf 0 d.mem = true → twf 0 d.hbm.check = true → twf ({} : HbmCtl) d.hbm.ctl = true → (d.ctl k).failed = false → ((d.ctl k).merge.all fun e => e.line != off / 64) = true →
    hbmWrite k off bs false lock op d = e →
    (hbmRead k off 64 op e).1 = (bs, false) ∧
    ∀ j line : Nat, j < 8 → line < 2 ^ 30 → (j, line) ≠ (k, off / 64) →
      lineData e j line = lineData d j line ∧ lineCheck e j line = lineCheck d j line

/-- O26. (R110): bytes written to a tile's basin read back, and every other byte of it, every other tile and device memory are
as they were, unless a word written only in part holds a double error, whose detection posts. -/
def Obligations.BasinReadBack : Prop :=
  ∀ (n off : Nat) (bs : Bytes) (poison : Bool) (d e : Dev), twf ({} : Tile) d.tiles = true → twf 0 (d.tile n).basin = true →
    ((partWords off bs.length).all fun r => ((d.tile n).errors r.1 r.2 2).isEmpty) = true → basinWrite n off bs poison d = e →
    (basinRead n off bs.length e).1.1 = bs ∧
    (∀ a : Nat, a < off ∨ off + bs.length ≤ a → tget 0 (e.tile n).basin a = tget 0 (d.tile n).basin a) ∧
    (∀ m, m ≠ n → e.tile m = d.tile m) ∧ e.mem = d.mem

/-- O27. What reset leaves: no command waits, no manifest is in force and none loads, no block is expert-unlocked, nothing has
left the device, memory and tiles list nothing, the device is in reduced service at boot stage 1, and no core executes. That
memory lists nothing and a core's pc is 0 are the model's choices (log entries 10 and 100). -/
def Obligations.ResetState : Prop :=
  State.reset.pending = [] ∧ State.reset.dev.manifest.active = none ∧ State.reset.dev.manifest.stage = 0 ∧
  State.reset.dev.expert.unlocked = [] ∧ State.reset.dev.out = [] ∧ State.reset.dev.mem = [] ∧ State.reset.dev.tiles = [] ∧
  State.reset.dev.power.state = .reduced ∧ State.reset.dev.boot.stage = 1 ∧
  ∀ k : Fin 19, (State.reset.dev.core k.val).pc = 0 ∧ executing State.reset.dev k.val = false

/-- O28. The canal. A slot advances the slot counter up to the boundary within its lockage (R63, R64); a good in-sequence data
barge that a unit expects enters the unit's inbox and advances its route's count (R60); a CRC window closes 1 ms after its
first error (R59); a slip beyond 16 slots at a die crossing is counted, recorded with its place, and fails the device (R56).
CMD_CANAL_STATUS answers the program, the resident set, the lockage, f and f_c, the cause, the counts and the last error,
CMD_CANAL_READ_ENTRY an entry of a bank; CMD_CANAL_SWITCH orders a switch to a resident program of a device alone in its group;
CMD_CANAL_CLEAR_COUNTS clears the three counts (R80). Where the next state is written out, nothing else changes. -/
def Obligations.CanalComplete : Prop :=
  (∀ s : State, s.On →
     (∃ d, Gives .routerSlot s d ∧ d.canal.slot = min 1024 (s.dev.canal.slot + 1) ∧ d.canal.lockage = s.dev.canal.lockage) ∧
     (∀ (x : Delivery) (rest : List Delivery), s.dev.canal.deliveries = x :: rest → x.barge.kind = 1 → x.barge.restart = false →
       expected (s.dev.modCanal fun c => { c with deliveries := rest }) x.router x.port x.slot = some x.barge.route.toNat →
       tget 0 s.dev.canal.recvSeq (unitKey x.router x.port * 4096 + x.barge.route.toNat) = x.barge.seq →
       Gives .bargeDelivery s (s.dev.modCanal fun c => { c with
         deliveries := rest, recvSeq := tset 0 c.recvSeq (unitKey x.router x.port * 4096 + x.barge.route.toNat) (x.barge.seq + 1),
         inbox := tmod [] c.inbox (unitKey x.router x.port) (· ++ [x]) })) ∧
     (∀ (r : Fin 30) (p : Fin 64) (t : Nat), (tget {} s.dev.canal.links (r.val * 64 + p.val)).opened = some t →
       t + 1000000 ≤ s.dev.uptime →
       Gives (.crcWindowClose r p) s (s.dev.modCanal fun c => { c with
         links := tmod {} c.links (r.val * 64 + p.val) fun l => { l with window := 0, opened := none } })) ∧
     (∀ (r : Fin 30) (p : Fin 64) (w : Int) (r' p' : Nat), attach r.val p.val = .router r' p' true → 16 < w.natAbs →
       ∃ d, Gives (.canalSlip r p w) s d ∧ d.canal.slipCount = satAdd 65535 s.dev.canal.slipCount 1 ∧ d.ring.deviceFailed = true ∧
         d.canal.last.router = r.val ∧ d.canal.last.port = p.val ∧ d.canal.last.kind = 2)) ∧
  (∀ (c : Cmd) (s : State),
     (Serves { i3c := true } c s → Answers (.cmdCanalStatus c) c s
       (ok ([s.dev.canal.program, maskOf s.dev.canal.resident, s.dev.canal.lockage,
         if s.dev.canal.aligned then s.dev.canal.f else 0, if s.dev.canal.aligned then s.dev.canal.fc else 0, s.dev.canal.n,
         s.dev.canal.cause, s.dev.canal.crcCount, s.dev.canal.misrouteCount, s.dev.canal.slipCount] ++ s.dev.canal.last.fields)) s.dev) ∧
     (∀ program router slot : Nat, Serves {} c s → program ∈ s.dev.canal.resident → router < 30 → slot < 1024 →
       Answers (.cmdCanalReadEntry c program 1 router slot) c s
         { status := .ok, result := leBytes 64 (tget idleEntry s.dev.canal.shadow (bankIndex router program slot)).toNat } s.dev ∧
       Answers (.cmdCanalReadEntry c program 0 router slot) c s
         { status := .ok, result := leBytes 64 (if program = s.dev.program then activeEntry s.dev router program slot
             else tget idleEntry s.dev.canal.active (bankIndex router program slot)).toNat } s.dev) ∧
     (∀ program : Nat, Serves { block := some 3 } c s → s.dev.groupSize ≤ 1 → program ∈ s.dev.canal.resident →
       Answers (.cmdCanalSwitch c program) c s (ok []) (s.dev.modCanal fun k => { k with switchDue := some program })) ∧
     (Serves { block := some 3 } c s → Answers (.cmdCanalClearCounts c) c s (ok [])
       (s.dev.modCanal fun k => { k with crcCount := 0, misrouteCount := 0, slipCount := 0 })))

/-- O29. The locks. A request with a route and room waits in the chamber (R83); a gate that opens takes its owner's ready
requests (R86); PAUSE repeats every 100 µs while the fill stays at pause_off (R92); a held copy that finds a staging chunk ends its holds (R95); a hold past its
allowance is marked and derates, and again after 1 ms (R96, R25); a sluice that ends answers what it discarded (R97).
CMD_LOCK_STATUS, CMD_LOCK_READ_GATE and CMD_DERATE_STATUS answer what they name; CMD_LOCK_SLUICE starts a sluice and
CMD_WEIGHT_SET orders a weight of an instance that the source may name (R101). -/
def Obligations.LocksComplete : Prop :=
  (∀ s : State, s.On →
     (∀ (l : Fin 128) (i : Fin 1024) (dest : Nat) (bs : Bytes) (e : Nat × Nat),
       lockKind l.val ≠ none → lockKind l.val ≠ some .eth → (s.dev.lock l.val).closed = false →
       (dest < 8 → (s.dev.ctl dest).failed = false) →
       ((s.dev.lock l.val).routeMap.find? fun e => e.1 = dest) = some e →
       (s.dev.lock l.val).room (waitingOf s.dev l.val i.val dest e.2 none false (.data dest bs false)).size = true →
       Gives (.lockArrival l i (.data dest bs false)) s
         ((s.dev.modLocks fun k => { k with nextId := k.nextId + 1 }).modLock l.val fun k =>
           { backlog i.val k with queue := k.queue ++ [waitingOf s.dev l.val i.val dest e.2 none false (.data dest bs false)] })) ∧
     (∀ (l : Fin 128) (e : Nat) (d : Dev), (s.dev.lock l.val).closed = false → s.dev.canal.dwell = false → s.dev.canal.slot < 1024 →
       (s.dev.lock l.val).openedAt ≠ s.dev.now + 1 →
       (tget 0 s.dev.locks.gates (gateIndex l.val s.dev.program s.dev.canal.slot)).toNat = e → bits e 1 0 = 1 →
       d = prepare l.val (bits e 11 2) (bits e 23 12)
         (borrow l.val (bits e 11 2) (bits e 23 12) (s.dev.modLock l.val fun k => { k with openedAt := s.dev.now + 1 })) →
       ready d l.val (bits e 11 2) (bits e 23 12) = true →
       Gives (.gateOpening l) s (pauseCheck l.val (takeTwo l.val (bits e 11 2) (bits e 23 12) d))) ∧
     (∀ l : Fin 128, (s.dev.lock l.val).paused = true → (s.dev.lock l.val).pauseEn = true → (s.dev.lock l.val).closed = false →
       (s.dev.lock l.val).pauseOff ≤ (s.dev.lock l.val).fill → (s.dev.lock l.val).pauseAt ≤ s.dev.uptime →
       Gives (.pauseRepeat l) s
         ((s.dev.modLock l.val fun k => { k with pauseAt := s.dev.uptime + 100000 }).emit (.pauseFrame l.val 0xFFFF))) ∧
     (∀ (chunk : Nat) (d : Dev), (s.dev.locks.holds.any fun h => h.kind == .copyBeforeWrite && h.chunk == chunk) = true →
       stageChunk chunk s.dev = some d →
       Gives (.holdEnd chunk) s (endHolds (fun h => h.kind == .copyBeforeWrite && h.chunk == chunk) d)) ∧
     (∀ (n : Nat) (h : Hold), s.dev.locks.holds[n]? = some h → h.overrun = false → h.since + allowance s.dev h.kind < s.dev.uptime →
       h.kind = .delta → h.lock = none →
       Gives (.holdAllowanceExpiry n) s
         (let d := s.dev.modLocks fun k => { k with holds := k.holds.set n { h with overrun := true, repeatDue := s.dev.uptime + 1000000 } }
          postHoldDerate (holdFactor d h) (heldInstances d) d)) ∧
     (∀ (n : Nat) (h : Hold), s.dev.locks.holds[n]? = some h → h.overrun = true → h.repeatDue ≤ s.dev.uptime →
       Gives (.holdDerateRepeat n) s (postHoldDerate (holdFactor s.dev h) (heldInstances s.dev) (s.dev.modLocks fun k =>
         { k with holds := k.holds.set n { h with repeatDue := s.dev.uptime + 1000000 } }))) ∧
     (∀ (n : Nat) (x : Sluice), s.dev.locks.sluices[n]? = some x → x.byRegister = false →
       Gives (.sluiceComplete n) s (x.removed.foldl (fun d r => answerDiscarded r.2 d)
         (s.dev.modLocks fun k => { k with sluices := k.sluices.eraseIdx n })))) ∧
  (∀ (c : Cmd) (s : State),
     (∀ (lock : Nat) (k : LockKind), Serves { i3c := true } c s → lockKind lock = some k →
       Answers (.cmdLockStatus c lock) c s (ok [k.code, (s.dev.lock lock).size, (s.dev.lock lock).fill,
         b2n (if k = .eth then (s.dev.lock lock).paused else (s.dev.lock lock).closed || !(s.dev.lock lock).room 512),
         (s.dev.lock lock).drops, (s.dev.lock lock).holds, (s.dev.lock lock).overruns,
         (s.dev.locks.holds.filter fun h => h.lock == some lock).length]) s.dev) ∧
     (∀ inst : Nat, Serves { block := some 4 } c s → inst < 1024 →
       createdThrough inst (actingPf c.src.val (some inst) s.dev) s.dev = true →
       Answers (.cmdLockSluice c inst) c s (ok []) (startSluice none (some inst) false s.dev)) ∧
     (∀ program bank lock slot : Nat, Serves {} c s → program ∈ s.dev.canal.resident → bank < 2 → slot < 1024 → lockKind lock ≠ none →
       Answers (.cmdLockReadGate c program bank lock slot) c s
         (ok [if (s.dev.lock lock).described = false then 0
           else (tget 0 (if bank = 1 then s.dev.locks.gatesShadow else s.dev.locks.gates) (gateIndex lock program slot)).toNat]) s.dev) ∧
     (∀ inst weight : Nat, Serves {} c s → inst < 1024 → 1 ≤ weight → weight ≤ 65535 →
       createdThrough inst (actingPf c.src.val (some inst) s.dev) s.dev = true →
       Answers (.cmdWeightSet c inst weight) c s (ok [])
         (s.dev.modLocks fun k => { k with weightsDue := k.weightsDue ++ [(inst, weight)] })) ∧
     (Serves { i3c := true } c s → Answers (.cmdDerateStatus c) c s
       { status := .ok, result := words [s.dev.locks.derateCause, s.dev.locks.derateF, s.dev.locks.deratePrev,
           s.dev.locks.derateSet.length, s.dev.locks.derateSeq] ++ leBytes 128 (maskOf s.dev.locks.derateSet) } s.dev))

/-- O30. The memories. A unit takes its next barge and performs the command that ends with it (R175, R176); read data that is
ready leaves in its route's slot (R176); the oldest merge entry retires (R182); a stack failure is posted and holds work (R185,
R21); a scrub slot patrols one unit (R186) and a refresh slot refreshes when one is due (R183); a wharf line is patrolled and a
channel fails (R181, R200). Key/value paging: a sweep of a release line that asks for nothing leaves the counts, a home moves
to the wharf while the pool drains, its page in state 3 between the move's two steps, and the reach commands create, destroy and report, a virtual function's on its own reaches
(R193, R195, R201). -/
def Obligations.MemoryEventsComplete : Prop :=
  (∀ s : State, s.On →
     (∀ (u : Fin 20) (x : Delivery) (d e : Dev), nextBarge (memPorts u.val).1 (memPorts u.val).2.1 (memPorts u.val).2.2 s.dev = some (x, d) →
       takeBarge u.val x d = (true, e) → Gives (.memCommand u) s e) ∧
     (∀ (u : Fin 20) (h : Held) (b : Barge) (p : Nat), s.dev.canal.dwell = false → s.dev.canal.slot < 1024 →
       dropReady u.val s.dev = s.dev → heldOf s.dev u.val = [h] → h.barges = [b] → h.slotless = false → h.ready ≤ s.dev.now →
       sendPort s.dev u.val h.route = some p →
       (s.dev.canal.flights.any fun f => decide (f.router = (memPorts u.val).1 ∧ f.port = p ∧ f.slot = s.dev.canal.slot) && (f.half == false)) = false →
       Gives (.readDataSend u) s (inject (memPorts u.val).1 p false b (setHeld u.val [] s.dev))) ∧
     (∀ (k : Fin 8) (e : MergeEntry) (es : List MergeEntry), (s.dev.ctl k.val).merge = e :: es →
       Gives (.mergeRetire k) s (retireEntry k.val e (s.dev.modCtl k.val fun c => { c with merge := es }))) ∧
     (∀ (k : Fin 8) (parity : Bool), (s.dev.ctl k.val).failed = false →
       Gives (.hbmStackFail k parity) s (completeFailed k.val (abortLoad (dropBuffered k.val (endScrub k.val 1 (holdWork (Dev.modHbm
         (post 0x0802 (unitBlock (k.val / 2) 6 k.val) 0 (syn [(32, 1, k.val), (33, 1, if parity then 2 else 1)])
           (s.dev.modCtl k.val fun c => { c with failed := true })) fun h => { h with awaitingMap := true }))))))) ∧
     (∀ (k : Fin 8), planMark s.dev k.val = 2 → (s.dev.ctl k.val).failed = false → (s.dev.ctl k.val).logical ≠ none →
       (s.dev.ctl k.val).scrub = none →
       Gives (.scrubSlot k) s ((scrubUnit k.val (s.dev.ctl k.val).patrol true true s.dev).modCtl k.val fun c =>
         { c with patrol := (c.patrol + 1) % 2 ^ 23 })) ∧
     (∀ (k : Fin 8), planMark s.dev k.val = 1 → (s.dev.ctl k.val).failed = false → (s.dev.ctl k.val).refreshDue ≤ s.dev.uptime →
       Gives (.refreshSlot k) s (s.dev.modCtl k.val fun c => { c with refreshDue := s.dev.uptime + (if c.hot then 640 else 1280) })) ∧
     (∀ (c : Fin 12) (j : Nat), (s.dev.wharfUsed.findIdx? fun x => x = c.val) = some j → (s.dev.wharfCh c.val).state = 2 →
       Gives (.wharfPatrol c) s ((wharfRead c.val (wharfBase + j * s.dev.wharfCapacity + (s.dev.wharfCh c.val).patrol) 64 0 s.dev).2.modWharfCh c.val
         fun x => { x with patrol := (x.patrol + 64) % max 64 s.dev.wharfCapacity })) ∧
     (∀ (c : Fin 12), (s.dev.wharfCh c.val).state = 2 →
       Gives (.wharfChannelFail c) s (postPolicy 0x0806 (memUnit (8 + c.val)) 0 (syn [(32, 1, c.val)])
         (s.dev.modWharfCh c.val fun x => { x with state := 3 })))) ∧
  (∀ s : State,
     (∀ (n : Nat) (r : Reach), s.On → s.dev.reach n = some r → r.sweptAt ≠ s.dev.canal.lockage + 1 →
       zeros (rawRead (s.dev.regionBase 4 + r.releaseLines) 256 s.dev).1.1 12 244 = true →
       fieldLe (rawRead (s.dev.regionBase 4 + r.releaseLines) 256 s.dev).1.1 8 4 = 0xFFFFFFFF →
       fieldLe (rawRead (s.dev.regionBase 4 + r.releaseLines) 256 s.dev).1.1 0 4 = r.consumed →
       fieldLe (rawRead (s.dev.regionBase 4 + r.releaseLines) 256 s.dev).1.1 4 4 ≤ r.consumed →
       ∃ d, Gives (.kvSweep n) s d ∧ d.kv.released = s.dev.kv.released ∧ d.kv.poolUsed = s.dev.kv.poolUsed) ∧
     (∀ (n page f : Nat) (r : Reach) (d : Dev), s.On → s.dev.kv.moving = none → s.dev.kv.draining = true →
       moveCandidate s.dev = some (n, page) → s.dev.reach n = some r → freeWharf s.dev = some f →
       setPage n page (3, (tget (0, 0) r.pages page).2) s.dev = some d →
       Gives (.kvMove n page) s (d.modKv fun k => { k with moving := some (n, page, f), wharfUsed := addSet f k.wharfUsed })) ∧
     (∀ (n page f : Nat) (r : Reach) (d : Dev), s.On → s.dev.kv.moving = some (n, page, f) → s.dev.reach n = some r →
       setPage n page (2, f) ((rawCopy (homeAddr s.dev (1, (tget (0, 0) r.pages page).2)) (homeAddr s.dev (2, f)) 65536 s.dev).modKv
         fun k => { k with moving := none }) = some d →
       Gives (.kvMove n page) s (checkWeirs (d.modKv fun k => { k with
         poolUsed := delSet (tget (0, 0) r.pages page).2 k.poolUsed, moves := k.moves + 1 }))) ∧
     (∀ (c : Cmd) (inst z r n : Nat) (d : Dev) (x : Reach), Serves { vf := true } c s → inst < 1024 →
       (isVf c.src.val = true → inst = c.src.val) → ((List.range 11).any fun i => 64 * 2 ^ i = z) = true → 2 ≤ r → r ≤ 12 →
       s.dev.kv.reaches.length < 65536 → createReach inst z r s.dev = some (n, d) → d.reach n = some x →
       Answers (.cmdKvReachCreate c inst z r) c s
         (ok [n, ringSlot d x 0, d.regionBase 4 + x.fillLines, d.regionBase 4 + x.releaseLines]) d) ∧
     (∀ (c : Cmd) (n : Nat) (r : Reach), Serves { vf := true } c s → s.dev.reach n = some r →
       (isVf c.src.val = true → r.inst = c.src.val) →
       Answers (.cmdKvReachDestroy c n) c s (ok []) (dropReach n s.dev)) ∧
     (∀ (c : Cmd) (n : Nat) (r : Reach), Serves { vf := true, i3c := true } c s → n ≠ 0xFFFFFFFF → s.dev.reach n = some r →
       (isVf c.src.val = true → r.inst = c.src.val) →
       Answers (.cmdKvStatus c n) c s
         (ok [r.count 1, r.count 2, s.dev.kv.poolUsed.length, s.dev.thr.kvHigh, s.dev.thr.kvLow, s.dev.kv.moves]) s.dev))

/-- O31. The memory commands (R201): CMD_HBM_STATUS, CMD_HBM_CE_LOG and CMD_WHARF_STATUS answer what they name; CMD_HBM_SCRUB
of a range in the controller's own stack is accepted and starts; CMD_HBM_CLEAR clears the counts and the log;
CMD_HBM_CHECKER_TEST outside test mode answers the checker's verdict and leaves the granule clean. -/
def Obligations.MemoryCommandsComplete : Prop :=
  ∀ (c : Cmd) (s : State),
    (∀ ctl : Nat, Serves { i3c := true } c s → ctl < 8 →
      Answers (.cmdHbmStatus c ctl) c s (ok [(s.dev.ctl ctl).logical.getD 0, b2n (s.dev.ctl ctl).logical.isSome, b2n (s.dev.ctl ctl).hot,
        planCount s.dev ctl 1, planCount s.dev ctl 2, (s.dev.ctl ctl).ceCount, (s.dev.ctl ctl).ueCount, (s.dev.ctl ctl).poisonMerge,
        b2n (s.dev.ctl ctl).failed, b2n (s.dev.ctl ctl).scrub.isSome, (s.dev.ctl ctl).merge.length, (s.dev.ctl ctl).mergePeak,
        (s.dev.ctl ctl).mergeHolds]) s.dev ∧
      Answers (.cmdHbmCeLog c ctl) c s (ok ((List.range 32).flatMap fun i => match (s.dev.ctl ctl).log[i]? with
        | some e => [e.word, e.time.toNat]
        | none => [0, 0])) s.dev) ∧
    (∀ ctl L first end_ mode : Nat, Serves { block := some 6 } c s → ctl < 8 → (s.dev.ctl ctl).logical = some L → mode < 2 →
      first % 8192 = 0 → end_ % 8192 = 0 → first < end_ → first / 2 ^ 36 = L → (end_ - 1) / 2 ^ 36 = L →
      (s.dev.ctl ctl).failed = false → (s.dev.ctl ctl).scrub = none →
      Answers (.cmdHbmScrub c ctl first end_ mode) c s (fail .accepted)
        (startScrub ctl (first % 2 ^ 36 / 8192) ((end_ - 1) % 2 ^ 36 / 8192) mode (some (c.src.val, c.seq)) s.dev)) ∧
    (∀ ctl : Nat, Serves { block := some 6 } c s → ctl < 8 →
      Answers (.cmdHbmClear c ctl) c s (ok []) (s.dev.modCtl ctl fun k => { k with
        ceCount := 0, ueCount := 0, poisonMerge := 0, log := [], mergePeak := k.merge.length })) ∧
    (∀ ctl : Nat, Serves {} c s → ctl < 8 → bit (s.dev.csrGet (hbmReg ctl 0x98)).toNat 10 = false →
      Answers (.cmdHbmCheckerTest c ctl) c s (ok [b2n (checkerPasses && !(s.dev.ctl ctl).failed)]) (testEnd ctl s.dev)) ∧
    (∀ ch : Nat, Serves { i3c := true } c s → ch < 12 →
      Answers (.cmdWharfStatus c ch) c s (ok [(s.dev.wharfCh ch).state, (s.dev.wharfCh ch).capacity, (s.dev.wharfCh ch).ceCount,
        (s.dev.wharfCh ch).ueCount, ((s.dev.wharfCh ch).ceLast.getD (0, 0)).1, ((s.dev.wharfCh ch).ceLast.getD (0, 0)).2,
        b2n (s.dev.wharfCh ch).ceLast.isSome]) s.dev)

/-- O32. A load's stages (R36): stage 1 takes an image from a host into the staging copy, stages 2 and 3 pass an image that
authenticates and validates and end the load otherwise, stage 4 writes the shadow tables and relocks every block (R14), the
boundary of a device alone in its group flips, as does lockage zero of a group; a group that is not ready within 2 s ends the
load; rollback takes its chunks. The commands: a load or a reload with rollback is accepted and stage 1 begins,
CMD_MANIFEST_STATUS answers what it names, CMD_MANIFEST_CANCEL ends a load with ABORTED, an alternate of tiles that
covers the failed set is selected for the next boundary, its tiles failed, and what has been applied reverts. -/
def Obligations.ManifestComplete : Prop :=
  (∀ s : State, s.On →
     (∀ data : Bytes, s.dev.manifest.stage = 1 → s.dev.manifest.source = 0 →
       Gives (.fetch data) s (s.dev.modManifest fun m => { m with staging := data.take (min m.length 0x2000000), stage := 2 })) ∧
     (∀ r : Except Bad Unit, s.dev.manifest.stage = 2 → authenticate s.vault s.dev s.dev.manifest.staging = r →
       Gives .authenticate s (match r with
         | .ok () => s.dev.modManifest fun m => { m with stage := 3 }
         | .error e => failWith e s.dev)) ∧
     (∀ r : Except Bad Manifest, s.dev.manifest.stage = 3 → validate s.vault s.dev s.dev.manifest.staging = r →
       Gives .validate s (match r with
         | .ok m => s.dev.modManifest fun x => { x with stage := 4, parsed := some m }
         | .error e => failWith e s.dev)) ∧
     (∀ m : Manifest, s.dev.manifest.stage = 4 → s.dev.manifest.parsed = some m → m.groupSize ≤ 1 → s.dev.boot.passed = true →
       (relockAll s.dev).boot.passed = true →
       Gives .shadowWrite s (startRootTime (((((relockAll s.dev).modCanal fun c => { c with shadow := bankOf m }).modLocks fun k =>
         { k with gatesShadow := gatesOf m }).modManifest fun x => { x with shadow := some m, stage := 5 }).modRing
           fun r => { r with root := true }))) ∧
     (∀ m : Manifest, s.dev.canal.aligned = false → s.dev.manifest.stage = 5 → s.dev.manifest.shadow = some m → m.groupSize ≤ 1 →
       Gives .lockageBoundary s (firstFlip s.vault m s.dev.time.ns false s.dev)) ∧
     (s.dev.canal.aligned = true → s.dev.canal.slot = 1024 → s.dev.canal.dwellLeft = 0 →
       Gives .lockageBoundary s (scheduledBoundary s.vault s.dev)) ∧
     (∀ (t : Word) (m : Manifest), s.dev.ring.zeroTime = some t → s.dev.manifest.shadow = some m → s.dev.manifest.stage = 5 →
       1 < m.groupSize → s.dev.ring.ready = false → t.toNat ≤ s.dev.time.ns.toNat →
       Gives .lockageZero s (firstFlip s.vault m t true s.dev)) ∧
     (∀ t : Nat, s.dev.manifest.firstReady = some t → s.dev.ring.root = true → s.dev.manifest.flipLockage = none →
       1 ≤ s.dev.manifest.stage → s.dev.manifest.stage ≤ 5 → s.dev.manifest.membersReady < s.dev.loadGroup →
       t + 2000000000 ≤ s.dev.uptime →
       Gives .groupReadyTimeout s (failLoad VCode.aborted.code 0xFF 0 s.dev)) ∧
     (∀ chunks : List (Nat × Bytes), s.dev.manifest.stage = 6 → s.dev.thr.role ≠ 2 → s.dev.thr.role ≠ 3 → s.dev.thr.reseed ≠ 1 →
       s.dev.rel.deltaActive = false →
       Gives (.rollbackRestore chunks) s (s.dev.modRel fun r => { r with deltaDone := true }))) ∧
  (∀ (c : Cmd) (s : State),
     (∀ source address length : Nat, Serves {} c s → (s.dev.manifest.stage = 0 ∨ 5 < s.dev.manifest.stage) → source < 3 →
       Answers (.cmdManifestLoad c source address length) c s (fail .accepted)
         (startLoad (some (c.src.val, c.seq)) false false source address length s.dev) ∧
       Answers (.cmdManifestReload c source address length 1) c s (fail .accepted)
         (startLoad (some (c.src.val, c.seq)) true true source address length s.dev)) ∧
     (Serves { reduced := true, i3c := true } c s → Answers (.cmdManifestStatus c) c s
       (ok ([(s.dev.manifest.active.map fun a => a.serial.toNat).getD 0, (s.dev.manifest.active.map fun a => a.jobId.toNat).getD 0,
           s.dev.manifest.stage, s.dev.manifest.code, s.dev.program, s.dev.manifest.failedSet.length] ++ s.dev.manifest.failedSet ++
         (s.dev.manifest.heldFailed.filter fun u => !s.dev.manifest.failedSet.contains u).length ::
           s.dev.manifest.heldFailed.filter fun u => !s.dev.manifest.failedSet.contains u)) s.dev) ∧
     (Serves {} c s → 1 ≤ s.dev.manifest.stage → s.dev.manifest.stage ≤ 5 → s.dev.manifest.flipLockage = none → s.dev.ring.zeroTime = none →
       Answers (.cmdManifestCancel c) c s (ok []) (failLoad VCode.aborted.code 0xFF 0 s.dev)) ∧
     (∀ (n k : Nat) (a : Alternate), Serves { also := switchBlocks } c s → s.dev.alternates[n]? = some (k, a) → a.base = s.dev.program →
       (∀ u ∈ a.coverage, u < 528) → (∀ u ∈ s.dev.manifest.failedSet, u ∈ a.coverage) →
       Answers (.cmdAltSelect c n) c s (ok [])
         ((a.coverage.foldl (fun d u => d.modTile u fun t => { t with failed := true }) (s.dev.modManifest fun m => { m with
           heldFailed := a.coverage.foldl (fun l u => addSet u l) m.heldFailed,
           failedSet := a.coverage.foldl (fun l u => addSet u l) m.failedSet })).modManifest fun m => { m with altDue := some [n] })) ∧
     (Serves { also := switchBlocks } c s → (s.dev.manifest.altActive ≠ [] ∨ s.dev.program ≠ 0) → (s.dev.manifest.failedSet.any s.dev.manifest.unhealthy.contains) = false →
       Answers (.cmdAltRevert c) c s (ok []) (s.dev.modManifest fun m => { m with revertDue := true })))

/-- O33. Replay and checkpoint: the step word of a device alone in its group, the end of a fill, a delta barge, a chunk and the
end barge of the buddy's delta, a stripe and the seal of a checkpoint. The commands: CMD_REL_STATUS and CMD_REL_FAULT_STATUS
answer what they name, CMD_CKPT_NOW orders a checkpoint, CMD_REL_FORCE marks the step suspect, and CMD_REL_RESTORE performs a
plan whose every entry is good. -/
def Obligations.ReliabilityComplete : Prop :=
  (∀ s : State, s.On →
     (∀ words : List StepWord, s.dev.rel.phase = 5 → s.dev.groupSize ≤ 1 →
       bit (combineBits s.dev.rel.current s.dev.rel.own []) 2 = false →
       Gives (.stepWord words) s (s.dev.modRel fun r => { r with
         groupStep := r.current, groupBits := combineBits r.current r.own [], groupMembers := 1, groupComplete := true })) ∧
     (∀ chunk : Nat, s.dev.rel.filling.contains chunk = true →
       Gives (.fillComplete chunk) s (endHolds (fun h => h.kind == .fill && h.chunk == chunk) (fillChunk chunk s.dev))) ∧
     (∀ (r p : Nat) (a b : Barge) (d e : Dev), routeSlot s.dev s.dev.thr.buddyOut = some (r, p, s.dev.canal.slot) →
       nextDelta s.dev = some (a, d) → nextDelta (inject r p false a d) = some (b, e) →
       Gives .buddyDeltaSend s (inject r p true b e)) ∧
     (∀ (chunk : Nat) (step : Word) (crc : W32) (data : Bytes), s.dev.region 1 ≠ none → s.dev.manifest.stage ≠ 6 →
       s.dev.rel.buddyApplied ≠ some step.toNat → s.dev.rel.buddyOpen = true → s.dev.rel.buddyStep = step.toNat →
       crc32c 0xFFFFFFFF#32 (fit 65536 data) = crc → chunk < s.dev.chunks →
       Gives (.buddyHeaderBarge chunk step crc data false) s
         ((rawWrite (buddyCopy s.dev chunk (1 - buddyBit s.dev chunk)) (fit 65536 data) false s.dev).modRel fun r =>
           { r with buddyPending := addSet chunk r.buddyPending })) ∧
     (∀ (sent : Nat) (step : Word), s.dev.manifest.stage ≠ 6 → s.dev.rel.buddyApplied ≠ some step.toNat → s.dev.rel.buddyOpen = true →
       s.dev.rel.buddyStep = step.toNat → s.dev.rel.buddyGood = true → s.dev.rel.buddyPending.length = sent →
       Gives (.buddyEndBarge sent step false) s (s.dev.modRel fun r => { r with
         buddyCommitted := r.buddyPending.foldl (fun t c => tset 0 t c (1 - tget 0 t c)) r.buddyCommitted, buddyOpen := false,
         buddyPending := [], buddyLast := r.buddyPending, buddyApplied := some step.toNat, buddySeeded := true, deltaDone := true })) ∧
     (s.dev.rel.ckptState = 1 → s.dev.rel.stripe < s.dev.rel.ckptStripes →
       ∃ d, Gives .ckptStripe s d ∧ d.rel.stripe = s.dev.rel.stripe + 1) ∧
     (s.dev.rel.ckptState = 3 → ckptQuiet s.dev = true →
       Gives .ckptSeal s (post 0x1102 (unitBlock 4 16 127) 0
         (syn [(32, 4, s.dev.rel.ckptStripes), (36, 1, s.dev.rel.ckptSlot), (40, 8, s.dev.rel.ckptStep)])
         (s.dev.modRel fun r => { r with ckptState := 0 })))) ∧
  (∀ (c : Cmd) (s : State),
     (Serves { i3c := true } c s → Answers (.cmdRelStatus c) c s
       (ok [s.dev.rel.step, s.dev.rel.phase, s.dev.rel.attempt, s.dev.rel.own, s.dev.rel.groupBits, s.dev.rel.groupMembers, s.dev.rel.ckptState,
         s.dev.rel.ckptSlot, s.dev.rel.snapshot.length, s.dev.rel.ckptStep, s.dev.rel.cbwHolds, s.dev.rel.cbwOverruns,
         s.dev.rel.deltaHolds, s.dev.rel.fills]) s.dev) ∧
     (Serves { i3c := true } c s → Answers (.cmdRelFaultStatus c) c s
       (ok (s.dev.rel.overflows :: s.dev.rel.coal.flatMap fun e => [e.identity.toNat, e.count])) s.dev) ∧
     (Serves { block := some 16 } c s → s.dev.thr.ckptK ≠ 0 →
       Answers (.cmdCkptNow c) c s (ok []) (s.dev.modRel fun r => { r with ckptNow := true })) ∧
     (Serves { block := some 16 } c s → Answers (.cmdRelForce c) c s (ok []) (suspect 6 0xFFFF s.dev)) ∧
     (∀ (sets : List Nat) (step : Word) (plan : List RestoreEntry) (blocks : List VolumeBlock) (x : Nat) (d : Dev),
       Serves { block := some 16 } c s → s.dev.manifest.stage = 6 → s.dev.manifest.workHeld = true → sets ≠ [] → sets.length ≤ 64 →
       (∀ v ∈ sets, v < 4096) → restoreStep s.dev blocks sets step.toNat = some x →
       (plan.all fun e => entryAligned (sets.flatMap fun v => match sealFor s.dev blocks v x with
           | some y => foundIn s.dev blocks v y.1 x y.2
           | none => []) e && entryInMaster s.dev e) = true →
       plan.foldl (restoreEntry blocks (sets.flatMap fun v => match sealFor s.dev blocks v x with
           | some y => foundIn s.dev blocks v y.1 x y.2
           | none => []) x (sets.headD 0)) (.ok s.dev) = .ok d →
       Answers (.cmdRelRestore c sets step plan blocks) c s (ok []) (d.modRel fun r => { r with step := x, attempt := 0, deltaDone := true })))

/-- O34. An op of unit S that issues has its effect on its stream's index registers, pc and state or on the tile's event bits
(R115), the tile's counters advance with the op (R412), and nothing else changes; MARK latches. A wait of unit S ends when what
it waits for holds: the slot of the lockage, no outstanding op, the event bit, which the wait clears. -/
def Obligations.ScalarOpsComplete : Prop :=
  (∀ (o : StreamOp) (s : State),
     (Issues 0x00 o s → Gives (.nop o) s (s.dev.runScalar o fun st => st)) ∧
     (Issues 0x01 o s → Gives (.halt o) s (s.dev.runScalar o fun st => { st with state := 3 })) ∧
     (Issues 0x02 o s → Gives (.xli o) s (s.dev.runScalar o fun st => st.setX o.dst.toNat (o.imm.signExtend 32))) ∧
     (Issues 0x03 o s → Gives (.xlih o) s
       (s.dev.runScalar o fun st => st.setX o.dst.toNat (o.imm.setWidth 16 ++ (st.xr o.dst.toNat).setWidth 16))) ∧
     (Issues 0x04 o s → Gives (.xadd o) s
       (s.dev.runScalar o fun st => st.setX o.dst.toNat (st.xr o.s1.toNat + st.xr o.s2.toNat + o.imm.signExtend 32))) ∧
     (Issues 0x05 o s → Gives (.xmul o) s
       (s.dev.runScalar o fun st => st.setX o.dst.toNat (st.xr o.s1.toNat * st.xr o.s2.toNat))) ∧
     (Issues 0x06 o s → Gives (.bnz o) s (s.dev.runScalar o fun st => if st.xr o.s1.toNat ≠ 0 then st.branch o else st)) ∧
     (Issues 0x07 o s → Gives (.bz o) s (s.dev.runScalar o fun st => if st.xr o.s1.toNat = 0 then st.branch o else st)) ∧
     (Issues 0x08 o s → Gives (.blt o) s
       (s.dev.runScalar o fun st => if (st.xr o.s1.toNat).slt (st.xr o.s2.toNat) then st.branch o else st)) ∧
     (Issues 0x09 o s → Gives (.waitslot o) s (s.dev.runScalar o fun st => { st with
       state := 2, wait := .slot (o.imm.toNat % 1024) (slotTarget s.dev (o.imm.getLsbD 10)), waitSince := s.dev.canal.lockage })) ∧
     (Issues 0x0A o s → Gives (.fence o) s (s.dev.runOp o 0 0 fun t =>
       if t.outstanding o.stream.val then t.await o.stream.val .fence s.dev.canal.lockage else t)) ∧
     (Issues 0x0B o s → Gives (.signal o) s (s.dev.runOp o 0 0 fun t => t.setEvent (o.imm.toNat % 32))) ∧
     (Issues 0x0C o s → Gives (.waitev o) s (s.dev.runOp o 0 0 fun t =>
       if t.event (o.imm.toNat % 32) then t.clearEvent (o.imm.toNat % 32)
       else t.await o.stream.val (.event (o.imm.toNat % 32)) s.dev.canal.lockage)) ∧
     (Issues 0x0D o s → Gives (.mark o) s (latchTile o (s.dev.runOp o 0 0 fun t => t)))) ∧
  (∀ (n : Fin 528) (i : Fin 4) (s : State), s.On →
     (∀ slot lockage : Nat, ((s.dev.tile n.val).stream i.val).wait = .slot slot lockage → s.dev.canal.dwell = false →
       lockage * 1024 + slot ≤ s.dev.canal.lockage * 1024 + s.dev.canal.slot →
       Gives (.waitslotRelease n i) s (s.dev.modTile n.val fun t => t.resume i.val)) ∧
     (((s.dev.tile n.val).stream i.val).wait = .fence → (s.dev.tile n.val).outstanding i.val = false →
       Gives (.fenceRelease n i) s (s.dev.modTile n.val fun t => t.resume i.val)) ∧
     (∀ b : Nat, ((s.dev.tile n.val).stream i.val).wait = .event b → (s.dev.tile n.val).event b = true →
       Gives (.waitevRelease n i) s (s.dev.modTile n.val fun t => (t.clearEvent b).resume i.val)))

/-- O35. An op of unit M whose operands are accepted has its effect on its accumulator or register (R116, R117, R148), with the
busy cycles that R135 counts. -/
def Obligations.MatrixOpsComplete : Prop :=
  ∀ (o : StreamOp) (s : State) (d : Dev),
    (Issues 0x10 o s → Accepts (matrixPlan (operandBytes o.fmt.toNat 128 (mmaK o.fmt.toNat))
        (operandBytes o.fmt.toNat 128 (mmaK o.fmt.toNat)) o (s.dev.streamOf o)) 0x10 o s d →
      Gives (.mma o) s (d.runOp o 128 0 (mmaEffect o))) ∧
    (Issues 0x11 o s → Accepts (matrixPlan (operandBytes o.fmt.toNat 64 (mmaxK o.fmt.toNat))
        (operandBytes o.fmt.toNat 128 (mmaxK o.fmt.toNat)) o (s.dev.streamOf o)) 0x11 o s d →
      Gives (.mmax o) s (d.runOp o 128 0 (mmaxEffect o))) ∧
    (Issues 0x12 o s → o.imm.getLsbD 0 = false → ((s.dev.streamOf o).xr o.s2.toNat).toNat < 64 →
      Gives (.accrd o) s (s.dev.runOp o 2 0 (accrdEffect o))) ∧
    (Issues 0x12 o s → o.imm.getLsbD 0 = true → ((s.dev.streamOf o).xr o.s2.toNat).toNat < 32 →
      Gives (.accrd o) s (s.dev.runOp o 8 0 (accrdEffect o))) ∧
    (Issues 0x13 o s → ((s.dev.streamOf o).xr o.s2.toNat).toNat < 64 → Gives (.accwr o) s (s.dev.runOp o 2 0 (accwrEffect o))) ∧
    (Issues 0x14 o s → ((s.dev.streamOf o).xr o.s2.toNat).toNat < 32 → Gives (.accx o) s (s.dev.runOp o 4 0 (accxEffect o))) ∧
    (Issues 0x15 o s → Gives (.accz o) s (s.dev.runOp o 16 0 fun t =>
      { t with acc := tclear t.acc (65536 * o.dst.toNat) (65536 * o.dst.toNat + 65536) }))

/-- O36. An op of unit V that issues writes the 256 lanes that its formula gives, from the lanes its operands held, with the
busy cycles that R135 counts (R119, R139); VSEED sets the stream's seed. -/
def Obligations.VectorOpsComplete : Prop :=
  ∀ (o : StreamOp) (s : State) (d : Dev),
    (Issues 0x20 o s → Accepts (vldPlan o (s.dev.streamOf o)) 0x20 o s d →
      Gives (.vld o) s (d.runOp o 0 ((blockBytes o.fmt.toNat + 255) / 256) (vldEffect o))) ∧
    (Issues 0x21 o s → Accepts (vstPlan o (s.dev.streamOf o)) 0x21 o s d →
      Gives (.vst o) s (d.runOp o 0 ((blockBytes o.fmt.toNat + 255) / 256) (vstEffect o))) ∧
    (Issues 0x22 o s → Gives (.vadd o) s (s.dev.runOp o 0 1
      (lanesRounded (fun t l => (laneVal t o.s1.toNat l).add (laneVal t o.s2.toNat l)) o))) ∧
    (Issues 0x23 o s → Gives (.vsub o) s (s.dev.runOp o 0 1
      (lanesRounded (fun t l => (laneVal t o.s1.toNat l).add (laneVal t o.s2.toNat l).neg) o))) ∧
    (Issues 0x24 o s → Gives (.vmul o) s (s.dev.runOp o 0 1
      (lanesRounded (fun t l => (laneVal t o.s1.toNat l).mul (laneVal t o.s2.toNat l)) o))) ∧
    (Issues 0x25 o s → Gives (.vfma o) s (s.dev.runOp o 0 1 (lanesRounded (fun t l =>
      (laneVal t o.dst.toNat l).add ((laneVal t o.s1.toNat l).mul (laneVal t o.s2.toNat l))) o))) ∧
    (Issues 0x26 o s → Gives (.vmax o) s (s.dev.runOp o 0 1 (lanesPaired laneMax o))) ∧
    (Issues 0x27 o s → Gives (.vmin o) s (s.dev.runOp o 0 1 (lanesPaired laneMin o))) ∧
    (Issues 0x28 o s → Gives (.vrsqrt o) s (s.dev.runOp o 0 2 (lanesModed laneRsqrt o))) ∧
    (Issues 0x29 o s → Gives (.vexp o) s (s.dev.runOp o 0 2 (lanesModed laneExp o))) ∧
    (Issues 0x2A o s → Gives (.vred o) s (s.dev.runOp o 0 1 (vredEffect o))) ∧
    (Issues 0x2B o s → Gives (.viadd o) s (s.dev.runOp o 0 1 fun t =>
      t.setVec o.dst.toNat (List.zipWith (· + ·) (t.vec o.s1.toNat) (t.vec o.s2.toNat)))) ∧
    (Issues 0x2C o s → Gives (.vlevel o) s (s.dev.runOp o 0 1 (vlevelEffect o))) ∧
    (Issues 0x2D o s → Gives (.vfix o) s (s.dev.runOp o 0 1 (vfixEffect o))) ∧
    (Issues 0x2E o s → Gives (.vflt o) s (s.dev.runOp o 0 1 (vfltEffect o))) ∧
    (Issues 0x2F o s → Gives (.vthr o) s (s.dev.runOp o 0 1 (vthrEffect o))) ∧
    (Issues 0x30 o s → Gives (.vdigest o) s (s.dev.runOp o 0 1 (vdigestEffect o))) ∧
    (Issues 0x31 o s → Gives (.vseed o) s (s.dev.runOp o 0 1 fun t => t.modStream o.stream.val fun st =>
      { st with seed := st.xr (o.s1.toNat + 1) ++ st.xr o.s1.toNat, draws := 0 }))

/-- O37. An op of unit D whose operands are accepted enters the send or the receive engine, both for a read of device memory,
when both have room (R118). -/
def Obligations.TransferOpsComplete : Prop :=
  ∀ (o : StreamOp) (s : State) (d : Dev), (s.dev.tile o.tile.val).engineFull false = false →
    (s.dev.tile o.tile.val).engineFull true = false →
    (Issues 0x40 o s → Accepts (streamPlan ((s.dev.streamOf o).xr o.s1.toNat).toNat o (s.dev.streamOf o)) 0x40 o s d →
      Gives (.send o) s (d.runOp o 0 0 fun t =>
        t.pushSend (sendOp 0 o (t.stream o.stream.val) ((t.stream o.stream.val).xr o.s1.toNat).toNat 0 0))) ∧
    (Issues 0x41 o s → Accepts (streamPlan ((s.dev.streamOf o).xr o.dst.toNat).toNat o (s.dev.streamOf o)) 0x41 o s d →
      Gives (.recv o) s (drainLanding 64 o.tile.val (d.runOp o 0 0 fun t =>
        t.pushRecv (recvOp 0 o (t.stream o.stream.val) (o.imm.toNat % 4096))))) ∧
    (Issues 0x42 o s → Accepts (memoryPlan s.dev ((s.dev.streamOf o).xr o.dst.toNat).toNat (devAddr (s.dev.streamOf o) o.s1.toNat).1
        ((s.dev.streamOf o).xr o.s2.toNat).toNat (devAddr (s.dev.streamOf o) o.s1.toNat).2 [(readRoutes o).1, (readRoutes o).2]) 0x42 o s d →
      Gives (.mrd o) s (drainLanding 64 o.tile.val (d.runOp o 0 0 fun t =>
        (t.pushRecv (recvOp 1 o (t.stream o.stream.val) (readRoutes o).2)).pushSend
          (sendOp 3 o (t.stream o.stream.val) 0 (devAddr (t.stream o.stream.val) o.s1.toNat).1 (readRoutes o).2)))) ∧
    (Issues 0x43 o s → Accepts (memoryPlan s.dev ((s.dev.streamOf o).xr o.s1.toNat).toNat (devAddr (s.dev.streamOf o) o.dst.toNat).1
        ((s.dev.streamOf o).xr o.s2.toNat).toNat (devAddr (s.dev.streamOf o) o.dst.toNat).2 [o.imm.toNat % 4096]) 0x43 o s d →
      Gives (.mwr o) s (d.runOp o 0 0 fun t => t.pushSend (sendOp 1 o (t.stream o.stream.val)
        ((t.stream o.stream.val).xr o.s1.toNat).toNat (devAddr (t.stream o.stream.val) o.dst.toNat).1 0))) ∧
    (Issues 0x44 o s → Accepts (spillPlan s.dev (s.dev.tile o.tile.val) ((s.dev.streamOf o).xr o.s1.toNat).toNat
        ((s.dev.streamOf o).xr o.dst.toNat).toNat ((s.dev.streamOf o).xr o.s2.toNat).toNat [o.imm.toNat % 4096]) 0x44 o s d →
      Gives (.spill o) s (d.runOp o 0 0 fun t => t.pushSend (sendOp 2 o (t.stream o.stream.val)
        ((t.stream o.stream.val).xr o.s1.toNat).toNat (t.spillBase + ((t.stream o.stream.val).xr o.dst.toNat).toNat) 0))) ∧
    (Issues 0x45 o s → Accepts (spillPlan s.dev (s.dev.tile o.tile.val) ((s.dev.streamOf o).xr o.dst.toNat).toNat
        ((s.dev.streamOf o).xr o.s1.toNat).toNat ((s.dev.streamOf o).xr o.s2.toNat).toNat [(readRoutes o).1, (readRoutes o).2]) 0x45 o s d →
      Gives (.fill o) s (drainLanding 64 o.tile.val (d.runOp o 0 0 fun t =>
        (t.pushRecv (recvOp 2 o (t.stream o.stream.val) (readRoutes o).2)).pushSend
          (sendOp 4 o (t.stream o.stream.val) 0 (t.spillBase + ((t.stream o.stream.val).xr o.s1.toNat).toNat) (readRoutes o).2))))

/-- O38. The tiles' events. The tile's route of the slot takes the barge of its oldest transfer; a barge of a waiting op enters
its engine, and one that nothing expects waits in the landing buffer (R118); a write command of the basin window begins;
signatures that agree clear the pair's report (R134); a check posts TILE_CHECK (R110); a wait for an engine past the allowance
faults; a spare starts its streams; an op word that is undefined halts its stream and faults (R114). -/
def Obligations.TileEventsComplete : Prop :=
  (∀ (n : Fin 528) (s : State), s.On →
     (∀ (r : Nat) (servedA servedB : Bool), s.dev.canal.aligned = true → s.dev.canal.dwell = false → s.dev.canal.slot < 1024 →
       (s.dev.tile n.val).failed = false → (s.dev.tile n.val).starting = false → (s.dev.tile n.val).follower = false →
       (s.dev.canal.flights.any fun f =>
         decide (f.router = tileRouter n.val ∧ f.port = tilePort n.val ∧ f.slot = s.dev.canal.slot)) = false →
       slotRoute n.val s.dev = some r →
       Gives (.bargeInjection ⟨n, servedA, servedB⟩) s
         (let a := (injectSend n.val r false servedA s.dev).getD (injectWindow n.val r false servedA s.dev)
          (injectSend n.val r true servedB a).getD (injectWindow n.val r true servedB a))) ∧
     (∀ (x : Delivery) (d : Dev),
       takeInbox (unitKey (tileRouter n.val) (tilePort n.val)) (fun x => !windowRoute s.dev x.barge.route.toNat) s.dev = some (x, d) →
       (d.tile n.val).failed = false → (d.tile n.val).follower = false → (d.tile n.val).logical ≠ none →
       (∀ e, (d.tile n.val).landing = [] → giveOp n.val x.barge (d.modTile n.val fun t => t.count 5 1) = some e →
         Gives (.tileBargeReceive n) s e) ∧
       (giveOp n.val x.barge (d.modTile n.val fun t => t.count 5 1) = none → (d.tile n.val).landing = [] →
         Gives (.tileBargeReceive n) s ((d.modTile n.val fun t => t.count 5 1).modTile n.val fun t =>
           { t with landing := t.landing ++ [x.barge] }))) ∧
     (∀ (x : Delivery) (d : Dev) (a len op resp : Nat) (operation : Word),
       takeInbox (unitKey (tileRouter n.val) (tilePort n.val)) (fun x => windowRoute s.dev x.barge.route.toNat) s.dev = some (x, d) →
       (d.tile n.val).follower = false → (d.tile n.val).windowWrites = [] → (d.tile n.val).logical ≠ none →
       commandFields x.barge.body = (a, len, op, resp, operation, true) → op = 1 → 0 < len → len ≤ 2097152 → x.barge.kind = 1 →
       x.barge.last = false → (d.tile n.val).failed = false →
       (∃ off, place (d.modTile n.val fun t => t.count 5 1) a = .basin n.val off ∧ off + len ≤ 0x200000) →
       Gives (.basinWindowAccess n) s ((d.modTile n.val fun t => t.count 5 1).modTile n.val fun t => { t with
         windowWrites := t.windowWrites ++ [{ route := x.barge.route.toNat, addr := a, length := len, inst := x.barge.inst.toNat,
                                              operation := operation, rejected := false }] })) ∧
     (∀ m : Nat, (s.dev.tile n.val).pair = some m → (s.dev.tile n.val).follower = false → (s.dev.tile n.val).failed = false →
       Gives (.signatureCompare n false) s
         ((s.dev.modTile n.val fun t => { t with reported := false }).modTile m fun t => { t with reported := false }) ∧
       Gives (.signatureCompare n true) s
         (((tileFault 0x504 n.val none 0 0 (List.range 4) s.dev).modTile n.val fun t => { t with reported := false }).modTile m
           fun t => { t with reported := false })) ∧
     (∀ (i : Fin 4) (pc : Fin 4096), (s.dev.tile n.val).logical ≠ none → (s.dev.tile n.val).failed = false →
       Gives (.tileCheck n i pc) s (tileFault 0x504 n.val (some i.val) pc.val ((s.dev.tile (s.dev.leader n.val)).op pc.val) [i.val]
         (s.dev.modTile n.val fun t => { t with reported := t.reported || t.pair.isSome }))) ∧
     (∀ (i : Fin 4) (st : Stream) (pc : BitVec 12), st = (s.dev.tile n.val).stream i.val → st.state = 2 →
       (st.wait = .engine ∧ pc = st.pc ∨ (st.wait = .fence ∨ ∃ b, st.wait = .event b) ∧ pc = st.pc - 1) →
       st.waitSince + 1 + (s.dev.policy 0x506 1).param = s.dev.canal.lockage → s.dev.canal.slot = 0 → s.dev.canal.dwell = false →
       Gives (.tileStall n i) s (tileFault 0x506 n.val (some i.val) pc.toNat ((s.dev.tile n.val).op pc.toNat) [i.val] s.dev
         fun r => { r with timeNs := s.dev.canal.beganNs, timeFrac := s.dev.canal.beganFrac })) ∧
     ((s.dev.tile n.val).starting = true →
       Gives (.spareStart n) s (s.dev.modTile n.val fun t =>
         (List.range 4).foldl (fun t i => t.modStream i Stream.start) { t with starting := false }))) ∧
  (∀ (n : Fin 528) (i : Fin 4) (w : Word) (s : State), s.On → canIssue n.val i.val w s.dev = true → undefinedWord w = true →
     Gives (.undefinedStreamOp n i w) s
       (tileFault 0x500 n.val (some i.val) ((s.dev.tile n.val).stream i.val).pc.toNat w [i.val] s.dev))

/-- O39. The tile commands, while the cluster control core they need is up (R128, R129, R353): CMD_TILE_STATUS,
CMD_TILE_READ_OPS and CMD_REDUCE_STATUS answer what they name, CMD_TILE_RESTART lets halted streams of its mask restart,
CMD_REDUCE_CLEAR clears the reduction's counts. -/
def Obligations.TileCommandsComplete : Prop :=
  ∀ (c : Cmd) (s : State),
    (∀ tile : Nat, Serves { i3c := true } c s → tile < 528 → notMine c.src.val tile s.dev = false → s.dev.restarting (3 + tile / 33) = false →
      Answers (.cmdTileStatus c tile) c s (ok ([tileBinding s.dev tile] ++ (List.range 4).map (tileStream s.dev tile) ++
        [tileFaultReg s.dev tile, tileErrCount s.dev tile])) s.dev) ∧
    (∀ logical mask n : Nat, Serves { block := some 5 } c s → s.dev.leaderOf logical = some n → mask < 16 →
      notMine c.src.val n s.dev = false → s.dev.restarting (3 + n / 33) = false →
      (∀ i, i < 4 → bit mask i = true → ((s.dev.tile n).stream i).state ≠ 1 ∧ ((s.dev.tile n).stream i).state ≠ 2) →
      Answers (.cmdTileRestart c logical mask) c s (ok []) (s.dev.modTile n fun t =>
        ((List.range 4).filter fun i => bit mask i).foldl (fun t i => t.modStream i fun st =>
          if st.ended then { st with policyRestart := true } else st) t)) ∧
    (∀ logical first count n : Nat, Serves {} c s → s.dev.leaderOf logical = some n → 0 < count → count ≤ 64 →
      first + count ≤ 4096 → notMine c.src.val n s.dev = false → s.dev.restarting (3 + n / 33) = false →
      Answers (.cmdTileReadOps c logical first count) c s
        (ok ((List.range count).map fun i => ((s.dev.tile n).op (first + i)).toNat)) s.dev) ∧
    (Serves { i3c := true } c s → ∃ result, Answers (.cmdReduceStatus c) c s { status := .ok, result := result } s.dev ∧
      result.take 24 = words [s.dev.reduce.digest, s.dev.reduce.sumCheck, s.dev.reduce.laneRange]) ∧
    (Serves {} c s → Answers (.cmdReduceClear c) c s (ok [])
      (s.dev.modReduce fun r => { r with digest := 0, sumCheck := 0, laneRange := 0 }))

/-- O40. The ring's cells (R301–R303, R401): a heartbeat in time at the root resets its link's missed count, a bad cell is
dropped and counted, the first and second that do not come count, an ASSEMBLE of a lower device goes on and the own one's
return sends the roster, a roster that places the device anew is taken and goes on, a notice arms its detour, a report enters
the root's count and its gather and its entry end in their time, a broadcast is heard. Links and time: a training within both
limits brings its link up, a hold that may not stand lapses with its lowest cause and then the pair's links are bypassed
(R298, R299), a lost source leaves its successor, the root whose TAI second is known follows a PPS edge where its 10 MHz
input runs (a free value, log entry 147), a PPS output rises at a whole second of a locked device and falls 100 ms later
(R308, R311). The commands answer or set what they name (R305, R311). -/
def Obligations.RingComplete : Prop :=
  (∀ (k : Fin 4) (s : State), s.On →
     ((s.dev.link k.val).state = 2 → (s.dev.link k.val).missed < 2 →
       (s.dev.link k.val).nextDue + 10000 + (s.dev.link k.val).cellLatency ≤ s.dev.beat →
       Gives (.heartbeatMiss k) s (s.dev.modLink k.val fun l => { l with missed := l.missed + 1, nextDue := l.nextDue + 100000 })) ∧
     (∀ (h : Heartbeat) (due : Nat) (e : Dev), h.bad = false → h.fec = 0 → (s.dev.link k.val).state = 2 →
       e = h.grants.foldl (fun d ty => d.onLane (CellLane.grant k.val ty)) s.dev → e.ring.root = true → due = heartbeatDue h e →
       (e.ring.ready = true → (s.dev.link k.val).nextDue ≤ due ∧ e.beat < due + 10000 + (s.dev.link k.val).cellLatency) →
       Gives (.heartbeatReceive k h) s (e.modLink k.val fun l =>
         { l with lastRx := e.time.ns, lastRxFrac := e.time.frac, missed := 0, nextDue := due + 100000 })) ∧
     (∃ d, Gives .heartbeatSend s d ∧ ((tget {} s.dev.ring.pairs (linkRing k.val)).open_ = true →
       (s.dev.link k.val).sendDue ≤ s.dev.beat → (tget {} s.dev.power.domains (53 + k.val)).state ≠ 3 →
       (2 ≤ k.val → s.dev.ctrl.eastStopped = false) →
       (d.link k.val).sendDue = nextBeat s.dev.beat ∧ (d.link k.val).lastTx = some s.dev.uptime)) ∧
     (∀ (id : BitVec 20) (hops : Nat), (s.dev.ring.ready = true ∨ tget [] s.dev.ring.taken (linkRing k.val) = []) →
       id.toNat < s.dev.deviceId → tget 0 s.dev.ring.lowest (linkRing k.val) = 0 →
       linkUp s.dev (linkRing k.val) = true →
       Gives (.assemble k id hops) s (sendCell (linkRing k.val) 2 (linkRing k.val) (hops + 1) id.toNat (leBytes 4 id.toNat)
         (s.dev.modRing fun r => { r with lowest := tset 0 r.lowest (linkRing k.val) (id.toNat + 1) }))) ∧
     (∀ (id : BitVec 20) (hops : Nat), (s.dev.ring.ready = true ∨ tget [] s.dev.ring.taken (linkRing k.val) = []) →
       id.toNat = s.dev.deviceId →
       Gives (.assemble k id hops) s (sendGather (linkRing k.val) 0 [id] (ownLows (linkRing k.val) s.dev) s.dev)) ∧
     (∀ (ids lows : List (BitVec 20)) (hops : Nat), BitVec.ofNat 20 s.dev.deviceId ∈ ids →
       tget [] s.dev.ring.taken (linkRing k.val) ≠ ids →
       Gives (.roster k (.gather ids lows) hops) s
         (sendGather (otherLink k.val) (hops + 1) ids lows (takeRoster (linkRing k.val) ids lows s.dev))) ∧
     (∀ (ids lows : List (BitVec 20)) (hops : Nat), BitVec.ofNat 20 s.dev.deviceId ∉ ids → linkUp s.dev (linkRing k.val) = true →
       Gives (.roster k (.gather ids lows) hops) s (sendGather (linkRing k.val) (hops + 1) (ids ++ [BitVec.ofNat 20 s.dev.deviceId])
         (lows ++ ownLows (linkRing k.val) s.dev) s.dev)) ∧
     (∀ (p : Nat) (ids : List (BitVec 20)) (hops : Nat), s.dev.ring.root = true →
       Gives (.roster k (.report p ids) hops) s
         (rootRoster (s.dev.modRing fun r => { r with memberRosters := tput r.memberRosters p ids })) ∧
       Gives (.roster k (.column p ids) hops) s (rootRoster (s.dev.modRing fun r => { r with columns := tput r.columns p ids }))) ∧
     (∀ (a low L hops : Nat) (origin : BitVec 20) (x : Nat × Alternate) (d : Dev), (linkRing k.val, low, L) ∉ s.dev.ring.noticed →
       d = sendCell (otherLink k.val) 4 (linkRing k.val) (hops + 1) origin.toNat (leBytes 8 a ++ leBytes 8 low ++ leBytes 8 L)
         (s.dev.modRing fun r => { r with noticed := r.noticed ++ [(linkRing k.val, low, L)] }) →
       d.alternates[a]? = some x → x.2.kind = 1 → d.canal.lockage < L →
       Gives (.detourNotice k a low L origin hops) s (armDetour a (linkRing k.val) low L d)) ∧
     (∀ c : FaultCell, c.update = true → s.dev.ring.root = true →
       Gives (.faultReport k c) s
         (s.dev.modRel fun m => { m with suppressed := satAdd (2 ^ 32 - 1) m.suppressed c.duplicates.toNat })) ∧
     (∀ c : FaultCell, c.update = false →
       Gives (.faultReport k c) s (coalesce (FaultCell.record c) c.duplicates.toNat s.dev)) ∧
     (∀ (id : Word) (e : CoalEntry), (s.dev.rel.coal.find? fun e => e.identity == id) = some e → e.forwarded = none →
       e.since + 5000 ≤ s.dev.uptime →
       Gives (.faultGatherExpiry id) s (forwardReport e.record e.count (s.dev.modRel fun m =>
         { m with coal := m.coal.map fun x => if x.identity == id then { x with forwarded := some x.count } else x }))) ∧
     (∀ (id : Word) (e : CoalEntry), (s.dev.rel.coal.find? fun e => e.identity == id) = some e → e.forwarded = some e.count →
       e.since + 10000000 ≤ s.dev.uptime →
       Gives (.coalesceEntryExpiry id) s (s.dev.modRel fun m => { m with coal := m.coal.filter fun x => !(x.identity == id) })) ∧
     (∀ (origin : BitVec 20) (hops : Nat) (b : Bcast), Bcast.isReport b = true → s.dev.ring.root = true → s.dev.restarting 2 = false →
       Gives (.broadcast k origin hops b) s (hear origin.toNat b s.dev)) ∧
     (∀ h : Heartbeat, h.bad = true → (s.dev.link k.val).state = 2 →
       Gives (.heartbeatReceive k h) s (s.dev.modLink k.val fun l =>
         { l with fecCorrected := satAdd (2 ^ 32 - 1) l.fecCorrected h.fec, crcCells := satAdd 65535 l.crcCells 1 }))) ∧
  (∀ s : State, s.On →
     (∀ (k : Fin 4) (t : Training), (tget {} s.dev.ring.pairs (linkRing k.val)).open_ = true → s.dev.ring.ready = true → t.ok = true →
       t.bypasses < 2 → t.barge ≤ 300 → t.cell ≤ (if t.bypasses = 1 then 100 else 50) →
       Gives (.linkTraining k t) s (((s.dev.modLink k.val fun l => { l with
           state := 2, missed := 0, latency := t.barge, cellLatency := t.cell, asym := t.asym, peer := t.peer,
           nextDue := nextBeat s.dev.beat,
           retrains := satAdd 65535 l.retrains (b2n (decide (0 < (s.dev.link k.val).nextDue))) }).modManifest fun m =>
         { m with unhealthy := delSet (0x400 + k.val) m.unhealthy }).onLane fun c => (CellLane.restart k.val c, []))) ∧
     (∀ (p : Fin 2) (cause : Nat), holdCause s.dev p.val = some cause → (tget {} s.dev.ring.pairs p.val).open_ = true →
       Gives (.bypassHoldLapse p) s ((post 0x0D04 (unitBlock 4 12 p.val) 0 (syn [(32, 1, p.val), (33, 1, cause)])
         (s.dev.modRing fun r => { r with pairs := tmod {} r.pairs p.val fun b => { b with open_ := false, closing := true } })).emit
           (.pin (bypPin p.val) true))) ∧
     (∀ p : Fin 2, (tget {} s.dev.ring.pairs p.val).closing = true →
       Gives (.bypassSwitchClosed p) s
         (((s.dev.modRing fun r => { r with pairs := tmod {} r.pairs p.val fun b => { b with closing := false } }).modLink p.val
           fun l => { l with state := 4 }).modLink (p.val + 2) fun l => { l with state := 4 })) ∧
     (s.dev.ring.root = true → s.dev.time.source = 1 ∨ s.dev.time.source = 2 →
       ∃ d, Gives .timeSourceLost s d ∧ d.time.source = nextSource { s.dev.time with
           ppsOk := s.dev.time.ppsOk && decide (s.dev.time.source ≠ 1), ptpOk := s.dev.time.ptpOk && decide (s.dev.time.source ≠ 2) } ∧
         d.time.state = (if d.time.source = 4 then 3 else 1) ∧ d.time.ns = s.dev.time.ns) ∧
     (∀ d : Dev, d = { s.dev with fresh := s.dev.fresh + 1 } → (s.dev.ring.root = false ∨ s.dev.time.secondKnown = false) →
       Gives .ppsIn s (d.modTime fun t => { t with ppsOk := Config.tenMhz s.dev.fresh })) ∧
     (∀ (x : Int) (d : Dev), d = { s.dev with fresh := s.dev.fresh + 1 } → s.dev.ring.root = true → s.dev.time.secondKnown = true →
       x = stampOf s.dev.time.ns s.dev.time.frac % (1000000000 * 4294967296) →
       Gives .ppsIn s (if Config.tenMhz s.dev.fresh = true then
           steer (if x * 2 < 1000000000 * 4294967296 then x else x - 1000000000 * 4294967296)
             (d.modTime fun t => { t with ppsOk := true, source := 1, state := if t.source = 1 then t.state else 1, counting := true })
         else d.modTime fun t => { t with ppsOk := false })) ∧
     (∀ o : Fin 4, tget 0 s.dev.time.pps o.val = 1 → s.dev.time.state = 2 →
       (tget 0 s.dev.time.ppsHigh o.val = 0 → s.dev.time.ns.toNat % 1000000000 = 0 →
         Gives (.ppsOutput o) s ((s.dev.modTime fun t => { t with ppsHigh := tset 0 t.ppsHigh o.val (t.ns.toNat + 1) }).emit (.ppsEdge o.val true))) ∧
       (tget 0 s.dev.time.ppsHigh o.val ≠ 0 → tget 0 s.dev.time.ppsHigh o.val - 1 + 100000000 ≤ s.dev.time.ns.toNat →
         Gives (.ppsOutput o) s ((s.dev.modTime fun t => { t with ppsHigh := tset 0 t.ppsHigh o.val 0 }).emit (.ppsEdge o.val false)))) ∧
     (∀ o : Fin 4, tget 0 s.dev.time.pps o.val = 2 → s.dev.time.state = 2 → tget 0 s.dev.time.ppsHigh o.val = 0 →
       s.dev.canal.aligned = true → s.dev.canal.slot = 0 → isStepStart s.dev s.dev.canal.lockage = true →
       Gives (.ppsOutput o) s (s.dev.emit (.ppsEdge o.val true)))) ∧
  (∀ (c : Cmd) (s : State),
     (Serves { i3c := true } c s → Answers (.cmdRingStatus c) c s
       (ok ([s.dev.ring.shape, s.dev.ring.trunkPos, s.dev.ring.memberPos, s.dev.ring.trunkSize, s.dev.ring.memberSize,
         b2n s.dev.ring.root] ++ ([0, 1, 2, 3].map fun k => (s.dev.link k).state) ++ [maskOf s.dev.ring.folded])) s.dev) ∧
     (∀ k : Nat, Serves { i3c := true } c s → k < 4 → Answers (.cmdRingLinkStatus c k) c s
       (ok [(s.dev.link k).state, (s.dev.link k).latency, (s.dev.link k).peer.toNat, (s.dev.link k).fecCorrected,
         (s.dev.link k).crcCells, (s.dev.link k).retrains]) s.dev) ∧
     (∀ p : Nat, Serves { block := some 12 } c s → p < 2 → Answers (.cmdRingBypass c p) c s (ok [])
       (lapse 2 p (s.dev.modRing fun r => { r with pairs := tmod {} r.pairs p fun b => { b with commanded := true } }))) ∧
     (Serves { i3c := true } c s → Answers (.cmdTimeStatus c) c s
       (ok [s.dev.time.ns.toNat, s.dev.time.frac.toNat, s.dev.time.state, s.dev.time.source, (BitVec.ofInt 64 s.dev.time.offset).toNat,
         s.dev.time.upstream, s.dev.time.hops]) s.dev) ∧
     (∀ ns : Word, Serves { block := some 12 } c s → s.dev.ring.root = true → s.dev.canal.aligned = false → s.dev.time.ns.toNat ≤ ns.toNat →
       Answers (.cmdTimeSet c ns) c s (ok [])
         (s.dev.modTime fun t => { t with ns := ns, frac := 0, slew := 0, secondKnown := true, counting := true })) ∧
     (∀ port role domain transport : Nat, Serves {} c s → port < 8 → role ≤ 2 → domain < 128 → transport < 3 →
       (role = 2 → s.dev.ring.root = true ∧ ∀ p, p < 8 → p ≠ port → (tget (0, 0, 0) s.dev.time.ptp p).1 ≠ 2) →
       Answers (.cmdPtpSet c port role domain transport) c s (ok [])
         ((s.dev.modTime fun t => { t with
           ptp := tset (0, 0, 0) t.ptp port (role, domain, transport),
           slave := if (tget (0, 0, 0) s.dev.time.ptp port).1 = 2 ∨ role = 2 then {} else t.slave,
           ptpOk := t.ptpOk && decide ((tget (0, 0, 0) s.dev.time.ptp port).1 ≠ 2) }).emit (.ptpRole port role))) ∧
     (∀ output mode : Nat, Serves { block := some 12 } c s → output < 4 → mode < 3 →
       Answers (.cmdPpsSet c output mode) c s (ok []) (setPps output mode s.dev)))

/-- O41. The accelerator ports' and the DMA channels' events under the conditions given, and their commands in their good case:
the statuses answer what they name, and the settings take effect. -/
def Obligations.PortAndDmaComplete : Prop :=
  (∀ s : State, s.On →
     (∀ (p : Fin 12) (second : Bool) (a n tag : Nat) (x : Translated) (id : Nat) (d : Dev), (s.dev.port p.val).up = true →
       (s.dev.port p.val).busMaster = true → a < 2 ^ 47 → throughTable (inboundTable s.dev p.val) a n false = some x →
       outsideSpan s.dev false x.addr n = true → inFailed s.dev x.addr n = false →
       lockArrive (portLock p.val second) x.inst (some (orderKey (2 + p.val) 0)) false (.read x.addr n 0) s.dev = (.waits id, d) →
       Gives (.portInboundRequest p second (.read a n tag)) s (d.modHost fun h => { h with reads := h.reads ++
         [{ id := id, port := 2 + p.val, tag := tag, inst := x.inst, addr := a, length := n,
            route := readRoute s.dev (portLock p.val second) x.addr }] })) ∧
     (∀ (p : Fin 12) (second poison relaxed : Bool) (a : Nat) (bs : Bytes) (x : Translated) (id : Nat) (d : Dev),
       (s.dev.port p.val).up = true → (s.dev.port p.val).busMaster = true → a < 2 ^ 47 →
       throughTable (inboundTable s.dev p.val) a bs.length true = some x →
       outsideSpan s.dev false x.addr bs.length = true → inFailed s.dev x.addr bs.length = false →
       lockArrive (portLock p.val second) x.inst (some (orderKey (2 + p.val) 0)) (relaxed && !x.strict)
         (.write x.addr bs poison 0) s.dev = (.waits id, d) →
       Gives (.portInboundRequest p second (.write a bs poison relaxed)) s (if poison then portAer p.val aerPoison d else d)) ∧
     (∀ p : Fin 12, s.dev.time.locked = true → Gives (.ptmRequest p) s (s.dev.emit (.ptmResponse p.val s.dev.time.ns 1))) ∧
     (∀ p : Fin 12, (s.dev.port p.val).up = true → Gives (.portLinkDown p) s (post 0x0A00 (portUnit p.val) 0 (syn [(32, 1, p.val)])
       (driveLink p.val false (s.dev.modPort p.val fun x => { x with up := false, speed := 0, width := 0, flit := false, ptm := false })))) ∧
     (∀ (p : Fin 12) (speed width : Nat), width ∈ (if p.val < 8 then [4, 8, 16] else [4]) → 1 ≤ speed → speed ≤ 6 →
       Gives (.portLinkUp p speed width) s (driveLink p.val true (s.dev.modPort p.val fun x =>
         { x with up := true, speed := speed, width := width, flit := decide (speed = 6) }))) ∧
     (∀ (p : Fin 12) (severity : Fin 3) (requester : BitVec 16), Gives (.portErrMessage p severity requester) s
       (post 0x0A02 (portUnit p.val) 0 (syn [(32, 1, p.val), (33, 1, severity.val), (34, 2, requester.toNat)]) (s.dev.modPort p.val (aerMessage severity.val requester.toNat)))) ∧
     (∀ (p : Fin 12) (tag : Nat) (t : Tag), ((portTags s.dev (2 + p.val)).find? fun t => t.tag = tag) = some t →
       t.since + 50000000 ≤ s.dev.uptime → t.gen = ((freeTag (2 + p.val) tag s.dev).inst t.inst).gen →
       Gives (.portCompletionTimeout p tag) s (failWork t.work (post 0x0A01 (portUnit p.val) 0
         (syn [(32, 1, p.val), (34, 2, tag), (36, 2, t.inst), (40, 8, t.addr)]) (portAer p.val aerTimeout
         ((freeTag (2 + p.val) tag s.dev).modPort p.val fun p => { p with timeouts := satAdd (2 ^ 24 - 1) p.timeouts 1 }))))) ∧
     (∀ ch : Fin 256, (s.dev.dmaCh ch.val).disabling = true → (s.dev.dmaCh ch.val).work = none →
       ∃ (d : Dev) (done : W32) (head bytes : Nat), Gives (.dmaDisableComplete ch) s (d.modDma ch.val fun x => { x with
         state := 4, disabling := false, work := none, descDone := done, head := head, bytes := bytes }) ∧
         d = { s.dev with fresh := d.fresh }) ∧
     (∀ ch : Fin 256, (s.dev.dmaCh ch.val).stopping = true → (s.dev.dmaCh ch.val).work = none →
       Gives (.dmaStopComplete ch) s (s.dev.modDma ch.val fun x => { x with state := 3, stopping := false })) ∧
     (∀ (ch : Fin 256) (tag : Fin 16384) (x : DmaCh), x = s.dev.dmaCh ch.val → x.state = 2 → x.work = none → x.head ≠ x.tail → x.fetching = none →
       dmaMayRun s.dev ch.val = true →
       (∀ r : (Bytes × Bool) × Dev, x.ringSpace = 0 → memRead 0 (x.ringBase + 64 * x.head) 64 s.dev = r →
         Gives (.dmaDescriptorStart ch tag) s (takeDescriptor ch.val r.1.1 r.1.2 r.2)) ∧
       (∀ d : Dev, x.ringSpace ≠ 0 → x.fetched = none →
         issueRead { port := homeOf s.dev x.inst, tag := tag.val, inst := x.inst, addr := x.ringBase + 64 * x.head, length := 64,
                     work := .descriptor ch.val s.dev.acc.nextWork } (nextWork s.dev).2 = some d →
         Gives (.dmaDescriptorStart ch tag) s (d.modDma ch.val fun y => { y with fetching := some s.dev.acc.nextWork })) ∧
       (∀ (bs : Bytes) (w : DmaWork), x.ringSpace ≠ 0 → x.fetched = some (some (bs, false)) →
         w = { parseDescriptor bs x.head with number := s.dev.acc.nextWork } → descriptorStatus s.dev x.inst bs w = 0 → w.srcSpace ≠ 0 →
         Gives (.dmaDescriptorStart ch tag) s
           (askReads ch.val ((nextWork s.dev).2.modDma ch.val fun y => { y with fetched := none, work := some w })))) ∧
     (∀ (ch : Fin 256) (w : DmaWork) (d : Dev), d = askFlush ch.val (dmaFlushWaiting ch.val s.dev) → (d.dmaCh ch.val).work = some w →
       recordReady d ch.val = true →
       (halfDue w = true →
         Gives (.dmaHalfRecord ch) s (dmaRecord ch.val w 0 (d.modWork ch.val fun w => { w with halfDone := true }))) ∧
       (halfDue w = false → (if w.ended then w.total ≤ w.covered else w.length ≤ w.visible) →
         Gives (.dmaFullRecord ch) s (dmaAdvance ch.val (if w.irqFull ∨ w.status ≠ 0 then dmaRecord ch.val w 1 d else d))))) ∧
  (∀ (c : Cmd) (s : State),
     (∀ p : Nat, Serves { i3c := true } c s → p < 12 → Answers (.cmdPortStatus c p) c s
       (ok ([portLink s.dev p] ++ (List.range 6).map (tget 0 (s.dev.port p).bars) ++ [portCounts s.dev p])) s.dev) ∧
     (∀ (p entry : Nat) (v : BitVec 256), Serves {} c s → p < 8 → entry < 64 → badWindow true v = false →
       overlaps (s.dev.port p).windows entry v = false → mayName c.src.val (Window.tag v) s.dev = true →
       Answers (.cmdAccelWindowSet c p entry v) c s (ok [])
         (s.dev.modPort p fun x => { x with windows := tset 0 x.windows entry v, busMaster := true })) ∧
     (∀ p entry addr k inst : Nat, Serves {} c s → p < 8 → entry < 16 → 12 ≤ k → k ≤ 40 → 2 ^ 47 ≤ addr →
       addr + 2 ^ k ≤ 2 ^ 48 → inst < 1024 →
       Answers (.cmdAccelRangeSet c p entry addr (2 ^ k) inst) c s (ok [])
         (s.dev.modPort p fun x => { x with ranges := tset (0, 0, 0) x.ranges entry (addr, 2 ^ k, inst) })) ∧
     (∀ (p fn offset : Nat) (v answer : W32), Serves {} c s → p < 8 → fn < 8 → offset < 4096 → offset % 4 = 0 →
       Answers (.cmdAccelCfg c p fn offset true v answer) c s (ok []) (s.dev.emit (.portConfig p fn offset true v)) ∧
       ((s.dev.port p).up = true → Answers (.cmdAccelCfg c p fn offset false v answer) c s (ok [answer.toNat])
         (s.dev.emit (.portConfig p fn offset false v)))) ∧
     (∀ doorbell space base n completions ch : Nat, Serves { vf := true, block := some 9 } c s → senderChannel c doorbell s.dev = some ch →
       space < 2 → 4 ≤ n → n ≤ 16 → (s.dev.dmaCh ch).state ≠ 2 → (s.dev.dmaCh ch).disabling = false → (s.dev.dmaCh ch).stopping = false →
       Answers (.cmdDmaRingSet c doorbell space base n completions) c s (ok []) (s.dev.modDma ch fun x =>
         { x with ringSpace := space, ringBase := base, n := n, complBase := completions, head := 0, tail := 0, records := 0 })) ∧
     (∀ doorbell ch : Nat, Serves { vf := true, i3c := true } c s → senderChannel c doorbell s.dev = some ch →
       Answers (.cmdDmaStatus c doorbell) c s (ok [(s.dev.dmaCh ch).state, (s.dev.dmaCh ch).head, (s.dev.dmaCh ch).tail,
         (s.dev.dmaCh ch).descDone.toNat, (s.dev.dmaCh ch).bytes / 4096 % 2 ^ 32]) s.dev))

/-- O42. A lane runs the job of the user and mode it is bound to: a seal gives ciphertext and tag, an open the plaintext or the
status of a bad tag, a raw block the block cipher of each block; a parity error gives no result; another user's job changes
nothing (R340–R343). A started job of the shared engine whose descriptor names the op, that nothing refuses and for which the engine
need not wait has the op's effect, and the command it serves is answered; a free lock goes to its claimer, a later claimer waits, the owner's release
aborts its job and passes the lock on, and a claim of 10 ms preempts the owner (R347, R348, R350). -/
def Obligations.SealerComplete : Prop :=
  (∀ (lane : Fin 48) (user : Fin 3) (s : State), s.On →
     (∀ j : SealJob, j.aad.length ≤ 65536 → j.text.length ≤ 16384 → (s.dev.lane lane.val).mode = 1 → (s.dev.lane lane.val).user = user.val →
       (j.parity = false → Gives (.laneSeal lane user j) s ((laneJob lane.val j.text.length s.dev).modLane lane.val fun l =>
         { l with result := (1, (gcmSeal (laneKey s.vault s.dev lane.val) (fit 12 j.iv) j.aad j.text).1 ++
             (gcmSeal (laneKey s.vault s.dev lane.val) (fit 12 j.iv) j.aad j.text).2) })) ∧
       (j.parity = true → Gives (.laneSeal lane user j) s (laneParity lane.val j.operation s.dev)) ∧
       (∀ tag p : Bytes, j.parity = false →
         gcmOpen (laneKey s.vault s.dev lane.val) (fit 12 j.iv) j.aad j.text (fit 16 tag) = some p →
         Gives (.laneOpen lane user j tag) s ((laneJob lane.val j.text.length s.dev).modLane lane.val fun l => { l with result := (1, p) })) ∧
       (∀ tag : Bytes, j.parity = false →
         gcmOpen (laneKey s.vault s.dev lane.val) (fit 12 j.iv) j.aad j.text (fit 16 tag) = none →
         Gives (.laneOpen lane user j tag) s ((laneJob lane.val j.text.length s.dev).modLane lane.val fun l => { l with result := (2, []) }))) ∧
     (∀ (decrypt : Bool) (blocks : Bytes) (operation : Word), blocks.length % 16 = 0 → blocks.length ≤ 16384 →
       (s.dev.lane lane.val).mode = 2 → (s.dev.lane lane.val).user = user.val →
       Gives (.laneRawBlock lane user decrypt blocks false operation) s ((laneJob lane.val blocks.length s.dev).modLane lane.val fun l =>
         { l with result := (1, blockMap (laneKey s.vault s.dev lane.val) decrypt blocks) })) ∧
     (∀ j : SealJob, (s.dev.lane lane.val).user ≠ user.val → Gives (.laneSeal lane user j) s s.dev)) ∧
  (∀ s : State, s.On →
     (∀ b : Bytes, s.dev.sec.jobGo = true → sharedRange s.dev s.dev.sec.owner false s.dev.sec.jobAddr 64 = true →
       b = (memRead 0 s.dev.sec.jobAddr 64 s.dev).1.1 → jobRefused s.vault s.dev s.dev.sec.owner b = none → jobWaits b s.dev = false →
       (fieldLe b 0 1 = 1 → Gives (.sharedSeal false) s (endCommandJob (jobEffect s.vault b s.dev)) ∧
         Gives (.sharedSeal true) s (endCommandJob (postParity 48 0 (jobStatus 6 (s.dev.modSec fun x =>
           { x with sharedParity := satAdd 65535 x.sharedParity 1, sharedReload := true }))))) ∧
       (fieldLe b 0 1 = 2 → Gives (.sharedOpen false) s (endCommandJob (jobEffect s.vault b s.dev))) ∧
       (fieldLe b 0 1 = 3 → Gives (.sharedBlockEncrypt false) s (endCommandJob (jobEffect s.vault b s.dev))) ∧
       (fieldLe b 0 1 = 4 → Gives (.sharedBlockDecrypt false) s (endCommandJob (jobEffect s.vault b s.dev)))) ∧
     (∀ r : Req, r.val ≠ 0 → s.dev.sec.owner = 0 →
       Gives (.sharedLockClaim r) s (s.dev.modSec fun x => { x with owner := r.val })) ∧
     (∀ r : Req, r.val ≠ 0 → s.dev.sec.owner ≠ 0 → s.dev.sec.owner ≠ r.val → (s.dev.sec.claims.any fun c => c.1 == r.val) = false →
       Gives (.sharedLockClaim r) s (s.dev.modSec fun x => { x with claims := x.claims ++ [(r.val, s.dev.uptime)] })) ∧
     (∀ r : Req, r.val ≠ 0 → s.dev.sec.owner = r.val → Gives (.sharedLockRelease r) s (passLock (abortJob s.dev))) ∧
     (s.dev.sec.owner ≠ 0 → (s.dev.sec.claims.any fun c => decide (c.2 + 10000000 ≤ s.dev.uptime)) = true → s.dev.sec.jobs = [] →
       (abortJob s.dev).sec.jobs = [] →
       Gives .secSharedPreempt s
         (post 0x0F03 (unitBlock 4 14 127) 0 (syn [(32, 1, s.dev.sec.owner)]) (passLock (abortJob s.dev)))))

/-- O43. The entropy source (R344–R346): a health test that fails stops the output for a start-up test, one that passes reseeds
the DRBG and one that fails is repeated, requests held for 10 ms fail, the DRBG reseeds after 2^16 requests or 1 s, and a
unit's generator after 2^20 blocks. An unlock ends with its duration (R54), a lockout after its 60 s (R53, R336). -/
def Obligations.EntropyComplete : Prop :=
  ∀ s : State, s.On →
    (∀ p : Bool, s.dev.sec.rng = 1 → s.dev.sec.consecutive < 2 →
      Gives (.entropyTestFail p) s (postEntropy (b2n p) (s.dev.modSec fun x => { x with
        consecutive := x.consecutive + 1, failures := satAdd (2 ^ 32 - 1) x.failures 1, rng := 2, testDue := s.dev.uptime + 2048000 }))) ∧
    (s.dev.sec.rng = 2 → s.dev.sec.testDue ≤ s.dev.uptime → s.dev.sec.held = [] →
      Gives (.startupTestComplete true) s (s.dev.modSec fun x => { x with
        rng := 1, consecutive := 0, reseeds := x.reseeds + 1, requests := 0, reseedAt := s.dev.uptime, held := [] })) ∧
    (s.dev.sec.rng = 2 → s.dev.sec.testDue ≤ s.dev.uptime → s.dev.sec.consecutive < 2 →
      Gives (.startupTestComplete false) s (s.dev.modSec fun x => { x with
        consecutive := x.consecutive + 1, failures := satAdd (2 ^ 32 - 1) x.failures 1, rng := 2, testDue := x.testDue + 2048000 })) ∧
    (∀ r : EntropyReq, s.dev.sec.held = [r] → r.since + 10000000 ≤ s.dev.uptime →
      Gives .entropyHoldExpiry s (failHeld r (s.dev.modSec fun x => { x with held := [] }))) ∧
    (s.dev.sec.rng = 1 → 2 ^ 16 ≤ s.dev.sec.requests ∨ s.dev.sec.reseedAt + 1000000000 ≤ s.dev.uptime →
      Gives .drbgReseed s (s.dev.modSec fun x => { x with reseeds := x.reseeds + 1, requests := 0, reseedAt := s.dev.uptime })) ∧
    (∀ u : Fin 49, u.val < 48 → s.dev.sec.rng = 1 → 2 ^ 20 ≤ (s.dev.lane u.val).blocks →
      Gives (.generatorReseed u) s
        ((s.dev.modLane u.val fun l => { l with blocks := 0 }).modSec fun x => { x with requests := x.requests + 1 })) ∧
    (∀ (b t : Nat), tfind s.dev.expert.expiry b = some t → t ≤ s.dev.uptime → Gives (.expertExpiry b) s (relock b s.dev)) ∧
    (∀ t : Nat, s.dev.expert.secLockedUntil = some t → t ≤ s.dev.uptime →
      Gives (.lockoutExpiry true) s (s.dev.modExpert fun e => { e with secLockedUntil := none, secFails := 0 })) ∧
    (∀ t : Nat, s.dev.expert.lockedUntil = some t → t ≤ s.dev.uptime →
      Gives (.lockoutExpiry false) s (s.dev.modExpert fun e => { e with lockedUntil := none, fails := 0 }))

/-- O44. The security commands that change the vault, when authorised (R336): in OWNED the debug level (R332) and the step to
SCRAPPED (R331), the fuse counter of image versions (R335), a key that unwraps and one that is erased (R337, R338). -/
def Obligations.VaultCommandsComplete : Prop :=
  ∀ (c : Cmd) (s : State), Serves {} c s →
    (∀ (level : Nat) (tag : Bytes) (d : Dev), s.dev.restarting 0 = false → level ≤ 3 → s.vault.lifecycle = 2 →
      authorise s.vault 0x0F02 level tag s.dev = (none, d) →
      AnswersV (.cmdSecDebugSet c level tag) c s (ok []) { s.vault with debug := level }
        (setVisible { s.vault with debug := level } (if level < s.vault.debug then endDebug (relockAll d) else d))) ∧
    (∀ (tag : Bytes) (d : Dev), s.dev.restarting 0 = false → s.vault.lifecycle = 2 → logClosed s.dev = false →
      authorise s.vault 0x0F03 4 tag s.dev = (none, d) →
      ∃ e, AnswersV (.cmdSecLifecycle c 4 tag) c s (ok []) (enterLifecycle 4 s.vault) e ∧ e.power.state = .reduced ∧
        e.manifest.active = none ∧ (enterLifecycle 4 s.vault).lifecycle = 4 ∧ (enterLifecycle 4 s.vault).debug = 0) ∧
    (∀ (tag : Bytes) (d : Dev), s.dev.restarting 0 = false → s.dev.boot.imageVersion.toNat ≤ 64 →
      s.vault.minVersion ≤ s.dev.boot.imageVersion.toNat → authorise s.vault 0x0F04 0 tag s.dev = (none, d) →
      AnswersV (.cmdSecVersionCommit c tag) c s (ok []) { s.vault with minVersion := s.dev.boot.imageVersion.toNat } d) ∧
    (∀ (target wrapping space address : Nat) (b : Bytes) (k : KeySlot), s.dev.restarting 0 = false → space ≤ 9 →
      spaceMapped s.dev (actingPf c.src.val none s.dev) true space address 80 = true →
      unwrapKey s.vault s.dev target wrapping (if space = 0 then (memRead 0 address 80 s.dev).1.1 else fit 80 b) = .inr k → ledgerWorn s.dev = false →
      AnswersV (.cmdKeyLoad c target wrapping space address b) c s (ok []) (storeKey target k s.vault)
        (setVisible (storeKey target k s.vault) (keyAreaWrite s.dev))) ∧
    (∀ (slot : Nat) (tag : Bytes) (d : Dev), 16 ≤ slot → slot ≤ 255 → slotUsed s.dev slot = false → ledgerWorn s.dev = false →
      authorise s.vault 0x0F06 slot tag s.dev = (none, d) →
      AnswersV (.cmdKeyErase c slot tag) c s (ok []) (eraseKey slot s.vault) (keyAreaWrite d))

/-- O45. The security and expert commands that leave the vault as it is, while the security core is up (R353): the statuses
answer what they name, challenges and random bytes come from the DRBG while it serves and wait while it does not (R344), a
shared job is accepted and starts when the engine is free, or its requester claims it (R347, R348), an authorised unlock holds for its duration and enters the ledger
(R52), and a lock relocks (R54). -/
def Obligations.SecurityCommandsComplete : Prop :=
  ∀ (c : Cmd) (s : State), s.dev.restarting 0 = false →
    (Serves { reduced := true, i3c := true } c s → Answers (.cmdSecStatus c) c s
      (ok [s.vault.lifecycle, s.vault.debug, b2n s.dev.boot.image, s.dev.boot.imageVersion.toNat, s.vault.minVersion, s.dev.sec.rng]) s.dev) ∧
    (∀ code : Nat, Serves { reduced := true } c s → code ∈ authCommands → s.dev.sec.rng = 1 →
      Answers (.cmdSecChallenge c code) c s (serveEntropy 1 code s.dev).1 (serveEntropy 1 code s.dev).2) ∧
    (∀ slot : Nat, Serves { i3c := true } c s → slot ≤ 255 → slot ≠ 1 → Answers (.cmdKeyInfo c slot) c s
      (ok [(tget {} s.vault.keys slot).use, (tget {} s.vault.keys slot).identity.toNat, (tget {} s.vault.keys slot).inst,
        slotLanes s.dev slot, b2n (slotShared s.dev slot)]) s.dev) ∧
    (∀ n : Nat, Serves { vf := true, i3c := true } c s → 0 < n → n ≤ 256 → s.dev.sec.rng = 1 →
      Answers (.cmdRngRead c n) c s (serveEntropy 0 n s.dev).1 (serveEntropy 0 n s.dev).2) ∧
    (∀ n : Nat, Serves { vf := true, i3c := true } c s → 0 < n → n ≤ 256 → s.dev.sec.rng ≠ 1 → s.dev.sec.rng ≠ 3 →
      Gives (.cmdRngRead c n) s (keepRunning c.src.val (s.dev.modSec fun x => { x with held := x.held ++
        [{ src := c.src, sequence := c.seq, kind := 0, arg := n, since := s.dev.uptime }] }))) ∧
    (∀ (address r : Nat) (d : Dev), Serves {} c s → address % 64 = 0 → address < 2 ^ 48 → r = reqOf s.dev c.src.val →
      sharedRange s.dev r false address 64 = true → (s.dev.sec.jobs.any fun j => j.1 == r) = false →
      d = s.dev.modSec (fun x => { x with jobs := x.jobs ++ [(r, address, c.src.val, c.seq)] }) →
      (s.dev.sec.owner = 0 → Answers (.cmdSharedJob c address) c s (fail .accepted)
        (startJob address (d.modSec fun x => { x with owner := r }))) ∧
      (s.dev.sec.owner ≠ 0 → s.dev.sec.owner ≠ r → Answers (.cmdSharedJob c address) c s (fail .accepted) (claimLock r d))) ∧
    (∀ b : Nat, Serves {} c s → b ≤ 18 → neverUnlocked b = false → letterX s.vault s.dev = true → s.dev.sec.rng = 1 →
      Answers (.cmdExpertChallenge c b) c s (serveEntropy 2 b s.dev).1 (serveEntropy 2 b s.dev).2) ∧
    (∀ (b seconds : Nat) (tag : Bytes) (d : Dev), Serves {} c s → b ≤ 18 → 0 < seconds → seconds ≤ 86400 → neverUnlocked b = false →
      letterX s.vault s.dev = true → logClosed s.dev = false → authoriseUnlock s.vault b seconds tag s.dev = (none, d) →
      Answers (.cmdExpertUnlock c b seconds tag) c s (ok [])
        ((d.modExpert fun e => { e with
            unlocked := addSet b e.unlocked, expiry := tput e.expiry b (d.uptime + seconds * 1000000000) }).modLedger fun l =>
          { l with security := l.security ++ [(0, b, d.uptime)] })) ∧
    (∀ b : Nat, Serves {} c s → b ≤ 18 → Answers (.cmdExpertLock c b) c s (ok []) (relock b s.dev))

/-- O46. The Ethernet ports. A good frame goes where its classification sends it, a short one is counted; a record is written
when its data has been delivered; PAUSE is taken; a transmission goes to the least tag; shapers are refilled; a sample period
begins anew; a commit ends; the link goes down and comes up. The commands in their good case answer what they name or set the
shadow tables, the queues, the shapers and the sampler, and a commit makes the shadow active. -/
def Obligations.NetComplete : Prop :=
  (∀ s : State, s.On →
     (∀ (p : Fin 8) (frame f : Bytes) (rs : RuleSet) (d e : Dev), (s.dev.netPort p.val).up = true → 64 ≤ frame.length → frame.length ≤ 9216 →
       f = frame.take (frame.length - 4) → leBytes 4 (crc32 f).toNat = frame.drop (frame.length - 4) →
       d = parserRun (p.val / 4) s.dev → rs = (d.netHalf (p.val / 4)).active →
       e = d.modHalf (p.val / 4) (fun x => { x with parser := x.parser ++ [(p.val, frame.length, framePasses rs p.val f)] }) →
       (262144 < parserBytes d p.val + frame.length → Gives (.frameReceive p frame) s
         (d.modNetPort p.val fun x => { x with rxDrops := satAdd (2 ^ 32 - 1) x.rxDrops 1 })) ∧
       (parserBytes d p.val + frame.length ≤ 262144 →
         (∀ (q rule : Nat) (hash : W32) (second : Bool), classifyFrame rs p.val f = .toQueue q rule hash second →
           Gives (.frameReceive p frame) s (toQueue p.val q rule hash second f e)) ∧
         (classifyFrame rs p.val f = .toTransport →
           (e.lock (ethLock p.val)).closed = false → (e.lock (ethLock p.val)).room f.length = true →
           Gives (.frameReceive p frame) s (e.modTp fun t => { t with inbox := t.inbox ++ [(p.val / 4, f)] })) ∧
         (classifyFrame rs p.val f = .drop →
           Gives (.frameReceive p frame) s (e.modNetPort p.val fun x => { x with ruleDrops := satAdd 255 x.ruleDrops 1 })) ∧
         (classifyFrame rs p.val f = .recircLimit →
           Gives (.frameReceive p frame) s (e.modNetPort p.val fun x => { x with recircLimit := satAdd 255 x.recircLimit 1 })))) ∧
     (∀ (p : Fin 8) (frame : Bytes), (s.dev.netPort p.val).up = true → frame.length < 64 →
       Gives (.frameReceive p frame) s (s.dev.modNetPort p.val fun x => { x with fcsErrors := satAdd 65535 x.fcsErrors 1 })) ∧
     (∀ (q : Fin 16384) (r : RxPending) (rest : List RxPending) (d : Dev) (x : NetQueue), d = dropLost q.val s.dev → x = d.netQueue q.val →
       x.rx = r :: rest → tget 0 d.locks.delivered r.id ≠ 0 → tget 0 d.locks.delivered r.id ≤ d.now + 1 →
       canWrite d (some (ethLock x.port)) (x.recordBase + 32 * (r.place % 2 ^ x.n)) 32 = true → x.vector = 0xFFFF →
       Gives (.rxRecordWrite q) s (engineWrite (some (ethLock x.port)) 0 (x.recordBase + 32 * (r.place % 2 ^ x.n)) (rxBytes r (x.seq + 1)) false
         ((d.modLocks fun k => { k with delivered := tset 0 k.delivered r.id 0 }).modQueue q.val fun y =>
           { y with rx := rest, seq := x.seq + 1 }))) ∧
     (∀ (p : Fin 8) (time : BitVec 16), time ≠ 0 →
       Gives (.pauseReceive p time) s
         (s.dev.modNetPort p.val fun x => { x with pauseRx := some (s.dev.uptime + (64 * time.toNat + 99) / 100) })) ∧
     (∀ (p : Fin 8) (i q : Nat) (t u : Word) (f : EgressFrame) (rest : List EgressFrame), (s.dev.netPort p.val).up = true →
       (s.dev.netPort p.val).pauseRx = none → leastTag (instTags s.dev p.val) = some (i, t) →
       leastTag (queueTags s.dev p.val i) = some (q, u) → (s.dev.netQueue q).frames = f :: rest →
       Gives (.transmitOpportunity p) s (sendFrame p.val q (s.dev.netQueue q) f (chargeQueue p.val i q f.cost (chargeInst p.val i f.cost
         (s.dev.modQueue q fun x => { x with frames := rest, sentPeriod := satAdd (2 ^ 32 - 1) x.sentPeriod f.cost,
                                             maxDelay := min (2 ^ 32 - 1) (max x.maxDelay (s.dev.uptime - f.since)) }))))) ∧
     (s.dev.canal.aligned = true → s.dev.canal.dwell = false → s.dev.net.refillSlot ≠ s.dev.now / 256 + 1 →
       Gives .shaperRefill s (refillAll (s.dev.modNet fun n => { n with refillSlot := s.dev.now / 256 + 1 }))) ∧
     (∀ (p : Fin 8) (base n period written number : Nat), (s.dev.netPort p.val).sample = some (base, n, period, written, number) →
       (s.dev.netPort p.val).sampleDue ≤ s.dev.canal.lockage → canWrite s.dev (some (ethLock p.val)) base (32 * 2 ^ n) = true →
       ∃ (d : Dev) (w : Nat), Gives (.netSample p) s (d.modNetPort p.val fun x => { x with
         sample := some (base, n, period, w, (number + 1) % 2 ^ 32), sampleDue := d.canal.lockage + period })) ∧
     (∀ (half : Bool) (src : Nat) (seq : W32), (s.dev.netHalf (b2n half)).commit = some (src, seq) →
       Gives (.commitComplete half) s (finishLater src 0x0B04 seq (ok [(s.dev.netHalf (b2n half)).version.toNat])
         (s.dev.modHalf (b2n half) fun x => { x with shadow := x.active, commit := none }))) ∧
     (∀ p : Fin 8, (s.dev.netPort p.val).up = true → Gives (.netLinkDown p) s (post 0x0B00 (netUnit p.val) 0 (syn [(32, 1, p.val)])
       (s.dev.modNetPort p.val fun x => { x with up := false, fecLock := false, pauseRx := none }))) ∧
     (∀ p : Fin 8, Gives (.netLinkUp p) s (s.dev.modNetPort p.val fun x => { x with up := true, fecLock := true }))) ∧
  (∀ (c : Cmd) (s : State),
     (∀ p : Nat, Serves { i3c := true } c s → p < 8 → Answers (.cmdNetPortStatus c p) c s
       (ok [b2n (s.dev.netPort p).up, b2n (s.dev.netPort p).fecLock, b2n (s.dev.lock (ethLock p)).paused,
         b2n ((s.dev.netPort p).pauseRx.any fun t => decide (s.dev.uptime < t)), (s.dev.netPort p).rxDrops, (s.dev.netPort p).fcsErrors,
         (s.dev.netPort p).recircLimit, (s.dev.netPort p).ruleDrops]) s.dev) ∧
     (∀ half : Nat, half < 2 → (s.dev.netHalf half).commit = none →
       (∀ (profile entry : Nat) (v : W32), Serves {} c s → profile < 4 → entry < 16 → badExtract (s.dev.netHalf half).shadow profile entry v = false →
         Answers (.cmdNetExtractSet c half profile entry v) c s (ok []) (s.dev.modHalf half fun x =>
           { x with shadow := { x.shadow with extract := tset 0 x.shadow.extract (16 * profile + entry) v } })) ∧
       (∀ (index : Nat) (rule : Bytes), Serves {} c s → index < 4100 → badRule index rule = false → ruleKind rule ≠ 0 →
         Answers (.cmdNetRuleSet c half index rule) c s (ok []) (s.dev.modHalf half fun x =>
           { x with shadow := { x.shadow with rules := tput x.shadow.rules index rule } })) ∧
       (∀ (table first : Nat) (queues : List (BitVec 16)), Serves {} c s → table < 64 → queues ≠ [] → first + queues.length ≤ 256 →
         (queues.any fun q => decide (16384 ≤ q.toNat)) = false →
         Answers (.cmdNetIndirSet c half table first queues) c s (ok []) (s.dev.modHalf half fun x =>
           { x with shadow := { x.shadow with indir := tputs 0 x.shadow.indir (256 * table + first) queues } })) ∧
       (Serves { block := some 10 } c s → Answers (.cmdNetCommit c half) c s (fail .accepted) (s.dev.modHalf half fun x => { x with
         active := x.shadow, version := nextVersion x.version, commit := some (c.src.val, c.seq) }))) ∧
     (∀ q i : Nat, Serves { vf := true, block := some 10 } c s → q < 16384 → queueOwner s.dev q = some i → mayName c.src.val i s.dev = true →
       (s.dev.netQueue q).frames = [] →
       Answers (.cmdNetQueueSet c q .unbind) c s (ok []) (s.dev.modQueue q fun _ => {}) ∧
       (∀ x : NetQueue, badQueue x = false → queueMapped s.dev i x = true →
         ((portQueues s.dev x.port).filter fun e => e.1 ≠ q).length < 2048 →
         x = { port := x.port, n := x.n, bufSize := x.bufSize, bufBase := x.bufBase, recordBase := x.recordBase, headWord := x.headWord,
               vector := x.vector, weight := x.weight } →
         Answers (.cmdNetQueueSet c q (.bind x.port x.n x.bufSize x.bufBase x.recordBase x.headWord x.vector x.weight)) c s (ok [])
           (bindQueue q i x s.dev))) ∧
     (∀ i p rate burst : Nat, Serves { block := some 10 } c s → rate ≤ 16777215 → 9236 ≤ burst → burst ≤ 16777215 → i < 1024 → p < 8 →
       mayName c.src.val i s.dev = true →
       Answers (.cmdNetShaperSet c (.inst i p) rate burst) c s (ok [])
         (s.dev.modNode p i fun n => { n with shaper := { n.shaper with due := some (rate, burst) } })) ∧
     (∀ (p : Nat) (enable : Bool), Serves { block := some 10 } c s → p < 8 →
       Answers (.cmdNetFlowfairSet c p enable none) c s (ok [])
         (s.dev.modNetPort p fun x => { x with flowFairDue := some enable, capsDue := x.capsDue ++ [] })) ∧
     (∀ p base n period : Nat, Serves {} c s → p < 8 → 8 ≤ n → n ≤ 20 → 0 < period → period ≤ 65535 →
       sampleMapped s.dev base (32 * 2 ^ n) = true →
       Answers (.cmdNetSampleSet c p (some (base, n, period))) c s (ok [])
        ((s.dev.modNet fun k => { k with queues := k.queues.map fun e =>
          (e.1, if e.2.bound ∧ e.2.port = p then beginSample e.2 else e.2) }).modNetPort p fun x =>
         { x with sample := some (base, n, period, 0, 0), sampleDue := s.dev.canal.lockage + period })) ∧
     (∀ q i : Nat, Serves { vf := true, i3c := true } c s → q < 16384 → queueOwner s.dev q = some i → mayName c.src.val i s.dev = true →
       Answers (.cmdNetQueueStatus c q) c s (ok [b2n (s.dev.netQueue q).bound, (s.dev.netQueue q).port, (s.dev.netQueue q).inst,
         (s.dev.netQueue q).seq, (s.dev.netQueue q).head, (s.dev.netQueue q).frames.length,
         ((s.dev.netQueue q).frames.map EgressFrame.cost).sum, (BitVec.ofInt 64 (s.dev.netQueue q).shaper.credit).toNat,
         (s.dev.netQueue q).s.toNat, (s.dev.netQueue q).sentPeriod]) s.dev))

/-- O47. The transport's events (R275–R289): a packet of its opcode that passes the checks has its effect; the sender, its
timers and the send queues do what their definitions say under the conditions given; the next good request of a send queue that
no fence holds runs as its kind says (R286, R288). -/
def Obligations.TransportEventsComplete : Prop :=
  (∀ s : State, s.On →
     (∀ (half : Bool) (e : Nat × Bytes) (p : Packet) (gone d : Dev), (s.dev.tp.inbox.find? fun e => e.1 = b2n half) = some e →
       gone = placePresent (s.dev.modTp fun t => { t with inbox := t.inbox.erase e }) → openPacket s.vault e.2 gone = .inl p →
       (gone.conn p.conn).lane = none → d = gone →
       (p.opcode = 1 → Gives (.transportWrite half) s (recvWrite s.vault (b2n half) p d)) ∧
       (p.opcode = 2 → Gives (.transportReadReq half) s (recvReadReq s.vault (b2n half) p d)) ∧
       (p.opcode = 3 → Gives (.transportReadResp half) s (recvReadResp s.vault (b2n half) p d)) ∧
       (p.opcode = 4 → Gives (.transportAck half) s (recvAck s.vault p d)) ∧
       (p.opcode = 5 → Gives (.transportNak half) s (recvNak p d)) ∧
       (p.opcode = 6 → Gives (.transportClose half) s (endConn p.conn 3 (fun _ => 6) d))) ∧
     (∀ (c : Fin 65536) (o o' : TxOp), (s.dev.tp.ops.find? fun o => decide (o.conn = c.val ∧ o.sent < o.packets)) = some o →
       (s.dev.conn c.val).state = 1 → psnGap (s.dev.conn c.val).next (s.dev.conn c.val).una < 4096 →
       (o.kind ≠ 3 → o.sent = 0 → opsInFlight s.dev < 65536) →
       o' = { o with firstPsn := if o.sent = 0 then (s.dev.conn c.val).next else o.firstPsn, sent := o.sent + 1 } →
       Gives (.packetSend c) s (sendPacket s.vault o' o.sent (s.dev.conn c.val).next false
         ((s.dev.modTp fun t => { t with ops := swapFirst o o' t.ops }).modConn c.val fun x => { x with
           next := x.next + 1, rtoDue := some (x.rtoDue.getD (s.dev.clusterNs + x.rto)) }))) ∧
     (∀ (c : Fin 65536) (t : Nat) (x : Conn), s.dev.conn c.val = x → x.state = 1 → x.rtoDue = some t → t ≤ s.dev.clusterNs → x.timerDue = none →
       (x.una = x.next ∨ x.hold = true → Gives (.rtoExpiry c) s (armRto c.val s.dev)) ∧
       (x.una ≠ x.next → x.hold = false → ∀ (top : Nat) (d : Dev), top = x.sacked.foldl (fun m q => max m (psnGap q x.una)) 0 →
         d = armRto c.val ((((inFlight x).filter fun p => p = x.una || (!x.sacked.contains p && decide (psnGap p x.una < top))).foldl
           (fun d p => resend s.vault c.val p d) s.dev).modConn c.val fun x => { x with rto := min (2 * x.rto) 64000000, misses := x.misses + 1 }) →
         ((d.conn c.val).misses ≤ (d.conn c.val).retryLimit → Gives (.rtoExpiry c) s d) ∧
         ((d.conn c.val).retryLimit < (d.conn c.val).misses → Gives (.rtoExpiry c) s (endConn c.val 2 (fun o => if o.sent = 0 then 6 else 5)
           (post 0x0C00 (tpUnit x.half) 0 (syn [(32, 2, c.val), (36, 2, x.inst), (40, 4, x.una.toNat)]) d))))) ∧
     (∀ (c : Fin 65536) (t m l r : Nat), (s.dev.conn c.val).state = 1 → (s.dev.conn c.val).rtoDue = some t → t ≤ s.dev.clusterNs →
       (s.dev.conn c.val).timerDue = some (m, l, r) → (s.dev.conn c.val).una = (s.dev.conn c.val).next →
       Gives (.rtoExpiry c) s (armRto c.val (s.dev.modConn c.val fun x =>
         { x with rtoMin := 1000 * m, retryLimit := l, reorder := r, timerDue := none }))) ∧
     (∀ (c : Fin 65536) (t : Nat), (s.dev.conn c.val).state = 1 → (s.dev.conn c.val).ackDue = some t → t ≤ s.dev.clusterNs →
       Gives (.ackTimer c) s (sendAck s.vault c.val s.dev)) ∧
     (∀ (c : Fin 65536) (p : W32) (t : Nat), (s.dev.conn c.val).pageRetry = [(p, t)] → t ≤ s.dev.clusterNs →
       Gives (.pageRetryResend c) s (resend s.vault c.val p
         (s.dev.modConn c.val fun x => { x with pageRetry := x.pageRetry.filter fun e => decide (s.dev.clusterNs < e.2) }))) ∧
     (∀ (i : Nat) (x : Stalled), s.dev.tp.stalled[i]? = some x → stalledPresent s.dev x = false → x.since + 1000000 ≤ s.dev.clusterNs →
       Gives (.stallFallback i) s (sendNak s.vault x.conn x.psn 2 50 (settleHold x.conn
         ((s.dev.modTp fun t => { t with stalled := t.stalled.erase x }).modConn x.conn fun y => { y with
           received := y.received.filter fun p => p ≠ x.psn })))) ∧
     (∀ (inst : Fin 1024) (i q : Nat) (v : Word), txAt s.dev inst.val i = some q → (s.dev.sendQ q).bound = true →
       v.toNat % 65536 < 2 ^ (s.dev.sendQ q).n →
       Gives (.txQueueDoorbell inst i v) s (s.dev.modSendQ q fun x => { x with tail := v.toNat % 65536 })) ∧
     (∀ (q : Fin 8192) (r : TxRecord) (d : Dev), (s.dev.tp.records.find? fun r => r.queue = q.val) = some r →
       (s.dev.sendQ q.val).bound = true → (s.dev.sendQ q.val).vector = 0xFFFF →
       canWrite s.dev (some (tpLock (q.val / 4096))) ((s.dev.sendQ q.val).complBase + 32 * ((s.dev.sendQ q.val).records % 2 ^ (s.dev.sendQ q.val).n)) 32 = true →
       d = ((s.dev.modTp fun t => { t with records := t.records.erase r }).modSendQ q.val fun x => { x with records := x.records + 1 }) →
       Gives (.txCompletionRecord q) s (engineWrite (some (tpLock (q.val / 4096))) 0
         ((s.dev.sendQ q.val).complBase + 32 * ((s.dev.sendQ q.val).records % 2 ^ (s.dev.sendQ q.val).n)) r.bytesOf false d)) ∧
     (∀ (m src : Nat) (seq : W32), (s.dev.mooring m).deregWait = some (src, seq) →
       (s.dev.tp.conns.any fun e => e.2.readReqs.any fun r => r.2.2.2.2.toNat / 4096 = m) = false →
       Gives (.mooringDeregComplete m) s
         (finishLater src 0x0C05 seq (ok []) (s.dev.modMooring m fun x => { x with deregWait := none })))) ∧
  (∀ (q : Fin 8192) (tow : Bool) (w : WorkReq) (d : Dev) (s : State), s.On → nextRequest q.val tow s.dev = some ((w, false), d) →
     w.bad = false → fenced s.dev q.val w = false →
     (w.kind = 1 → Gives (.wrWrite q tow) s (startOp q.val w s.dev d)) ∧
     (w.kind = 2 → Gives (.wrRead q tow) s (startOp q.val w s.dev d)) ∧
     (w.kind = 3 → Gives (.wrRawFrame q tow) s (startRaw q.val w d)) ∧
     (w.kind = 4 → Gives (.wrAdd q tow) s (startAdd q.val w d)) ∧
     (w.kind = 5 → Gives (.wrTow q tow) s (startTow q.val w tow s.dev d)))

/-- O48. The transport's commands in their good case: connections, send queues, moorings and their pages, counters: each sets
or answers what it names. -/
def Obligations.TransportCommandsComplete : Prop :=
  ∀ (c : Cmd) (s : State),
    (∀ (conn inst : Nat) (x : ConnSet), Serves { vf := true, block := some 11 } c s → conn < 65536 → inst < 1024 →
      mayName c.src.val inst s.dev = true → (s.dev.conn conn).state = 0 → badConn s.dev inst x = false → (s.dev.netQueue x.egress).inst = inst →
      (s.dev.tp.conns.filter fun e => decide (e.2.state ≠ 0 ∧ e.2.inst = inst ∧ e.1 ≠ conn)).length <
        ((s.dev.inst inst).desc.map (·.connections)).getD 0 →
      Answers (.cmdConnSet c conn inst x) c s (ok []) (s.dev.modConn conn fun _ => newConn inst x)) ∧
    (∀ conn : Nat, Serves { vf := true, block := some 11 } c s → conn < 65536 → (s.dev.conn conn).state ≠ 0 →
      mayName c.src.val (s.dev.conn conn).inst s.dev = true →
      ((s.dev.conn conn).closeSent = false → Answers (.cmdConnClose c conn) c s (ok []) (endConn conn 3 (fun _ => 6)
        (tpSend s.vault conn 6 0 0 [0, 0, 0, 0] [] (s.dev.modConn conn fun x => { x with closeSent := true })))) ∧
      ((s.dev.conn conn).closeSent = true → Answers (.cmdConnClose c conn) c s (ok []) (endConn conn 3 (fun _ => 6) s.dev))) ∧
    (∀ conn : Nat, Serves { vf := true, i3c := true } c s → conn < 65536 → mayName c.src.val (s.dev.conn conn).inst s.dev = true →
      Answers (.cmdConnStatus c conn) c s (ok [(s.dev.conn conn).state, (s.dev.conn conn).una.toNat, (s.dev.conn conn).next.toNat,
        (s.dev.conn conn).expected.toNat, (s.dev.conn conn).badHeader, (s.dev.conn conn).stale, (s.dev.conn conn).sealFail,
        (s.dev.conn conn).windowDrops]) s.dev) ∧
    (∀ doorbell base n completions vector q i : Nat, Serves { vf := true, block := some 11 } c s →
      i = (if c.src.val < 1024 then c.src.val else 0) → txAt s.dev i doorbell = some q → 4 ≤ n → n ≤ 16 → vector ≤ 65535 →
      queueBusy s.dev q = false → mayAddress s.dev i base (64 * 2 ^ n) = true → mayAddress s.dev i completions (32 * 2 ^ n) = true →
      Answers (.cmdTxQueueSet c doorbell base n completions vector) c s (ok []) (s.dev.modSendQ q fun _ =>
        { bound := true, inst := i, base := base, n := n, complBase := completions, vector := vector })) ∧
    (∀ m : MooringSet, Serves { vf := true } c s → m.inst < 1024 → mayName c.src.val m.inst s.dev = true →
      m.base % 4096 = 0 → m.size % 4096 = 0 → 0 < m.size → m.size ≤ 2 ^ 40 → m.mode < 2 → m.counter = none →
      mayAddress s.dev m.inst m.base m.size = true →
      (s.dev.tp.moorings.filter fun e => e.2.registered && decide (e.2.inst = m.inst)).length <
        ((s.dev.inst m.inst).desc.map (·.moorings)).getD 0 →
      Answers (.cmdMooringReg c m) c s (ok [(regMooring m s.dev).1]) (regMooring m s.dev).2) ∧
    (∀ key m : Nat, Serves { vf := true } c s → keyMooring c.src.val key s.dev = .ok m →
      (isVf c.src.val = false → Answers (.cmdMooringDereg c key) c s (fail .accepted) (dropStalled s.vault m
        (s.dev.modMooring m fun x => { x with registered := false, deregWait := some (c.src.val, c.seq) }))) ∧
      (isVf c.src.val = true → Gives (.cmdMooringDereg c key) s (keepRunning c.src.val (dropStalled s.vault m
        (s.dev.modMooring m fun x => { x with registered := false, deregWait := some (c.src.val, c.seq) })))) ∧
      (∀ first count : Nat, Serves { vf := true, block := some 11 } c s → (s.dev.mooring m).paged = true → first + count ≤ ((s.dev.mooring m).size + 65535) / 65536 →
        Answers (.cmdMooringPage c key first count false) c s (ok []) (placePresent (s.dev.modMooring m fun x => { x with
          present := x.present.filter fun p => !((List.range count).map (first + ·)).contains p })))) ∧
    (∀ inst n : Nat, Serves { vf := true } c s → inst < 1024 → mayName c.src.val inst s.dev = true →
      (s.dev.tp.counters.filter fun e => e.2.1 = inst).length < ((s.dev.inst inst).desc.map (·.connections)).getD 0 →
      ((List.range 65536).find? fun n => (tfind s.dev.tp.counters n).isNone) = some n →
      Answers (.cmdCounterAlloc c inst none) c s (ok [n]) (s.dev.modTp fun t => { t with counters := tput t.counters n (inst, 0) })) ∧
    (∀ n inst v : Nat, Serves { vf := true, i3c := true } c s → tfind s.dev.tp.counters n = some (inst, v) → mayName c.src.val inst s.dev = true →
      Answers (.cmdCounterRead c n) c s (ok [v]) s.dev)

/-- O49. The storage engine (R314–R325): a doorbell sets the tail, a capsule of the least tag is fetched and performed when no
lock or table stands in its way, a flush without buffered blocks is sent on, a transfer goes to its drive in pieces of 256 KiB,
a record is written for a command that has ended, the oldest buffered block is destaged, a completion ends its command, a
timeout fails its target, an idle drive goes to its state. The commands in their good case bind and unbind queues, volumes,
remote targets and idle times, and answer what they name. -/
def Obligations.StorageComplete : Prop :=
  (∀ s : State, s.On →
     (∀ (inst : Fin 1024) (i q : Nat) (v : Word), storAt s.dev inst.val i = some q → (s.dev.storQ q).state ≠ 0 →
       v.toNat < 2 ^ (s.dev.storQ q).n → storBacklog s.dev (s.dev.storQ q).inst = true →
       Gives (.storageDoorbell inst i v) s (s.dev.modStorQ q fun x => { x with tail := v.toNat })) ∧
     (∀ (half : Bool) (tag : Fin 16384) (i q a : Nat) (t : Word) (x : StorQ), s.dev.storage.cmds.length < 16384 → storWithheld s.dev (b2n half) = false →
       leastTag (storTags s.dev) = some (i, t) → nextQueue s.dev i = some q → x = s.dev.storQ q → a = x.sqBase + 64 * x.head →
       (∀ (bs : Bytes) (poison : Bool) (d : Dev), x.space ≠ 1 → memRead 0 a 64 s.dev = ((bs, poison), d) →
         Gives (.capsuleFetch half tag) s (fillCapsule s.dev.storage.nextId bs poison (openCapsule q x d))) ∧
       (∀ d : Dev, x.space = 1 →
         issueRead { port := homeOf s.dev x.inst, tag := tag.val, inst := x.inst, addr := a, length := 64, work := .capsule s.dev.storage.nextId } s.dev = some d →
         Gives (.capsuleFetch half tag) s (openCapsule q x d))) ∧
     (∀ (id : Nat) (x : StorCmd), s.dev.storCmd id = some x → x.phase = 0 → lockBlocked s.dev x = false → tableBlocked s.dev x = false →
       (x.opcode = 1 → Gives (.capsuleRead id) s (grantRange id s.dev)) ∧
       (x.opcode = 2 → Gives (.capsuleWrite id) s (grantRange id s.dev)) ∧
       (x.opcode = 4 → Gives (.capsuleDeallocate id) s (grantRange id s.dev))) ∧
     (∀ (id : Nat) (x : StorCmd), s.dev.storCmd id = some x → x.opcode = 3 → x.phase = 0 →
       (s.dev.storage.buffer.any fun b => x.covers.contains b.id) = false →
       Gives (.capsuleFlush id) s (sendBack { op := 2, cmd := some id } (s.dev.volume x.volume) 0 [] (s.dev.modCmd id fun c => { c with phase := 5 }))) ∧
     (∀ (id : Nat) (x : StorCmd), s.dev.storCmd id = some x → x.phase = 1 → lockBlocked s.dev x = false → tableBlocked s.dev x = false →
       Gives (.rangeLockGrant id) s (grantRange id s.dev)) ∧
     (∀ (half : Bool) (tag : Fin 16384) (size : Fin 4097) (id n off : Nat) (x : StorCmd) (d : Dev), s.dev.storCmd id = some x → x.opcode = 2 → x.phase = 3 → off = 262144 * x.pulled →
       n = min 262144 (4096 * x.blocks - off) → storWithheld s.dev (b2n half) = false → d = s.dev.modCmd id (fun c => { c with half := b2n half }) →
       (∀ (bs : Bytes) (e : Dev), x.space = 0 → x.reserved = 0 → memRead x.operation (x.buffer + off) n d = ((bs, false), e) →
         Gives (.transferReady half id tag size) s
           (sendBack { op := 1, cmd := some id, first := off / 4096, blocks := bs.length / 4096, fua := x.fua } (e.volume x.volume)
             (x.lba + off / 4096) bs ((e.modCmd x.id fun c => { c with
               pulled := c.pulled + 1, asked := 0, parts := [], bytes := c.bytes + bs.length }).modCmd x.id fun c => { c with
               phase := if off + bs.length = 4096 * x.blocks then 5 else 3 }))) ∧
       (∀ (k : Nat) (e : Dev), x.space ≠ 0 → segmentData x n = none → storMasters d x.inst x.space = true →
         issueReads (spacePort d x.inst x.space) x.inst (x.buffer + off) n tag.val size.val (fun o => .pull id (off + o)) (n / 4096 + 2) x.asked d = (k, e) →
         Gives (.transferReady half id tag size) s (e.modCmd id fun c => { c with asked := k }))) ∧
     (∀ (id : Nat) (x : StorCmd), s.dev.storCmd id = some x → x.phase = 6 →
       (s.dev.storage.cmds.any fun o => decide (o.queue = x.queue ∧ o.phase = 6 ∧ (o.ended < x.ended ∨ (o.ended = x.ended ∧ o.id < id)))) = false →
       (s.dev.storQ x.queue).state ≠ 0 → (s.dev.storQ x.queue).space = 0 →
       canWrite s.dev (cmdLock s.dev x) ((s.dev.storQ x.queue).cqBase + 16 * ((s.dev.storQ x.queue).records % 2 ^ (s.dev.storQ x.queue).n)) 16 = true →
       (s.dev.storQ x.queue).vector = 0xFFFF →
       Gives (.storageCompletion id) s
         (engineWrite (cmdLock ((s.dev.dropCmd id).modStorQ x.queue fun y => { y with records := y.records + 1 }) x) x.operation
           ((s.dev.storQ x.queue).cqBase + 16 * ((s.dev.storQ x.queue).records % 2 ^ (s.dev.storQ x.queue).n))
           (storRecord x (s.dev.storQ x.queue)) false ((s.dev.dropCmd id).modStorQ x.queue fun y => { y with records := y.records + 1 }))) ∧
     (∀ (id : Nat) (b : Buffered) (bs : Bytes) (d : Dev), (s.dev.storage.buffer.find? fun b => b.id = id) = some b → b.destaging = false →
       (s.dev.storage.buffer.takeWhile fun x => decide (x.id ≠ id)) = [] → memRead 0 b.addr (4096 * b.blocks) s.dev = ((bs, false), d) →
       Gives (.destage id) s (sendBack { op := 1, buffered := some id, blocks := b.blocks, fua := b.fuaCmd.isSome } (s.dev.volume b.volume) b.lba bs
         (d.modStorage fun x => { x with buffer := x.buffer.map fun y => if y.id = id then { y with destaging := true } else y }))) ∧
     (∀ (tag : Nat) (error : Bool) (data : Bytes) (b : BackCmd), (s.dev.storage.back.find? fun b => decide (b.tag = tag ∧ b.waiting = none)) = some b →
       Gives (.backendCompletion tag error data) s (pumpBack b.target (endBack b error data s.dev))) ∧
     (∀ drive : Fin 4,
       (s.dev.storage.back.any fun b => decide (b.target = 8 + drive.val ∧ b.waiting = none ∧ b.since + 2000000000 ≤ s.dev.uptime)) = true →
       Gives (.backendTimeout drive true) s
         (post 0x0E00 (storUnit none) 0 (syn [(32, 1, 0), (33, 1, 8 + drive.val)]) (failTarget (8 + drive.val) none s.dev)) ∧
       Gives (.backendTimeout drive false) s
         (post 0x0E00 (storUnit none) 0 (syn [(32, 1, 0), (33, 1, 8 + drive.val)])
           (loseBuffered (8 + drive.val) ((failTarget (8 + drive.val) none s.dev).modDrive drive.val fun x => { x with state := 2 })))) ∧
     (∀ (target : Fin 16) (conn : Fin 8), conn.val < (tget {} s.dev.storage.remotes target.val).conns →
       Gives (.remoteReconnectTimeout ⟨target, conn⟩) s
         (post 0x0E00 (storUnit none) 0 (syn [(32, 1, 1), (33, 1, target.val)]) (failTarget (16 + target.val) (some conn.val) s.dev))) ∧
     (∀ n : Fin 4, (s.dev.drive n.val).state = 1 → (s.dev.storage.back.any fun b => decide (b.target = 8 + n.val)) = false →
       (s.dev.drive n.val).idle = 0 → (s.dev.drive n.val).idle2 = 0 → 0 < (s.dev.drive n.val).idle1 →
       1000 * (s.dev.drive n.val).idle1 ≤ s.dev.uptime - (s.dev.drive n.val).lastCmd →
       Gives (.idleTimerExpiry n) s (s.dev.modDrive n.val fun x => { x with idle := 1 }))) ∧
  (∀ (c : Cmd) (s : State),
     (∀ doorbell sq cq space n vector q i : Nat, Serves { vf := true, block := some 13 } c s →
       i = (if c.src.val < 1024 then c.src.val else 0) → storAt s.dev i doorbell = some q → storBusy s.dev q = false →
       Answers (.cmdStorageQueueSet c doorbell .unbind) c s (ok []) (s.dev.modStorQ q fun _ => {}) ∧
       (space = 1 → 4 ≤ n → n ≤ 12 → vector ≤ 65535 →
         Answers (.cmdStorageQueueSet c doorbell (.bind sq cq space n vector)) c s (ok []) (s.dev.modStorQ q fun _ =>
           { state := 1, inst := i, space := space, sqBase := sq, cqBase := cq, n := n, vector := vector }))) ∧
     (∀ (v : Nat) (b : VolumeSet), Serves {} c s → v < 4096 → (s.dev.volume v).bound = false → volumeBusy s.dev v = false →
       b.inst < 1024 → bindable s.dev b.backend b.nsid = true → mayName c.src.val b.inst s.dev = true →
       volumeMeets s.dev v { bound := true, inst := b.inst, backend := b.backend, nsid := b.nsid, first := b.first, count := b.count } = false →
       Answers (.cmdVolumeSet c v (some b)) c s (ok []) (s.dev.modStorage fun x =>
         { x with volumes :=
                   tset {} x.volumes v { bound := true, inst := b.inst, backend := b.backend, nsid := b.nsid, first := b.first, count := b.count } }) ∧
       Answers (.cmdVolumeSet c v none) c s (ok []) (s.dev.modStorage fun x => { x with volumes := tset {} x.volumes v {} })) ∧
     (∀ v : Nat, Serves { vf := true, i3c := true } c s → v < 4096 → isVf c.src.val = false →
       Answers (.cmdVolumeStatus c v) c s (ok [b2n (s.dev.volume v).bound, (s.dev.volume v).inst, (s.dev.volume v).backend,
         (s.dev.volume v).nsid, (s.dev.volume v).first, (s.dev.volume v).count, ((bufferedOf s.dev v).map (·.blocks)).sum, 1,
         if 8 ≤ (s.dev.volume v).backend ∧ (s.dev.volume v).backend < 12 then (s.dev.drive ((s.dev.volume v).backend - 8)).exitLatency else 0])
         s.dev) ∧
     (∀ (t : Nat) (x : RemoteSet), Serves {} c s → t < 16 → x.tcpPort.getD 4420 < 65536 → x.subNqn ≠ [] → x.subNqn.length ≤ 223 →
       x.hostNqn ≠ [] → x.hostNqn.length ≤ 223 → x.port < 8 → x.egress < 16384 → 0 < x.conns → x.conns ≤ 8 →
       (s.dev.netQueue x.egress).bound = true → (s.dev.netQueue x.egress).inst < 2 → (s.dev.netQueue x.egress).port = x.port →
       Answers (.cmdStorageRemoteSet c t x) c s (ok []) (pumpBack (16 + t) (s.dev.modStorage fun y =>
         { y with remotes :=
                   tset {} y.remotes t { ip := x.ip, tcpPort := x.tcpPort.getD 4420, subNqn := x.subNqn, hostNqn := x.hostNqn, port := x.port,
                                         egress := x.egress, conns := x.conns } }))) ∧
     (∀ drive idle1 idle2 : Nat, Serves { block := some 13 } c s → 8 ≤ drive → drive < 12 → idle1 < 2 ^ 24 → 16 * idle2 < 2 ^ 24 →
       Answers (.cmdStorageIdleSet c drive idle1 idle2) c s (ok [])
         (s.dev.modDrive (drive - 8) fun x => { x with idle1 := idle1, idle2 := 16 * idle2 })))

/-- O50. The host's accesses and the endpoints' events under the conditions given: a read or write of a BAR is served as its
BAR says and an access outside is refused, a completion moves its read's data, resets and enables have their effects. The
commands in their good case create, destroy and report instances and windows. -/
def Obligations.HostComplete : Prop :=
  (∀ s : State, s.On →
     (∀ (f : HostFn) (bar : Bar) (off n tag i : Nat) (relaxed second : Bool), (s.dev.ep f.ep.val).up = true → 0 < n → n ≤ 4096 →
       requester s.dev f = some i →
       (bar = .bar0 → off + n ≤ barSize f .bar0 → behindWrite s.dev f = false → f.vf = 0 →
         Gives (.hostMemoryRead f bar off n tag ⟨relaxed, second, .plain⟩) s
           (completeBytes { port := f.ep.val, tag := tag, inst := i, addr := off, length := n, relaxed := relaxed } off
             (fit n (leBytes 8 (regRead off n s.vault s.dev).1.toNat)) [] (regRead off n s.vault s.dev).2)) ∧
       (bar = .bar2 → off + n ≤ barSize f .bar2 →
         Gives (.hostMemoryRead f bar off n tag ⟨relaxed, second, .plain⟩) s (windowRead f off n tag relaxed second s.vault s.dev)) ∧
       (barSize f bar < off + n → Gives (.hostMemoryRead f bar off n tag ⟨relaxed, second, .plain⟩) s (refuseHost f (some (tag, relaxed)) s.dev)) ∧
       Gives (.hostMemoryRead f bar off n tag ⟨relaxed, second, .atomic⟩) s (refuseHost f (some (tag, relaxed)) s.dev)) ∧
     (∀ (f : HostFn) (off i : Nat) (bs : Bytes) (relaxed poison second : Bool), (s.dev.ep f.ep.val).up = true → bs ≠ [] →
       requester s.dev f = some i →
       (off + bs.length ≤ barSize f .bar0 → behindWrite s.dev f = false → f.vf = 0 →
         Gives (.hostMemoryWrite f .bar0 off bs relaxed false ⟨second, .plain⟩) s
           (regWrite (f.ep.val + 1) off bs.length (BitVec.ofNat 64 (leNat bs)) s.vault s.dev)) ∧
       (off + bs.length ≤ barSize f .bar2 →
         Gives (.hostMemoryWrite f .bar2 off bs relaxed poison ⟨second, .plain⟩) s (windowWrite f off bs relaxed poison second s.vault s.dev)) ∧
       (∀ bar : Bar, Gives (.hostMemoryWrite f bar off bs relaxed poison ⟨second, .prefixed⟩) s (refuseHost f none s.dev))) ∧
     (∀ (l : Fin 128) (x : Delivery) (rest : List Delivery) (r u : HostRead) (d e : Dev),
       tget [] s.dev.canal.inbox (unitKey (lockRouter l.val) (l.val % 64)) = x :: rest →
       d = { s.dev with canal := { s.dev.canal with inbox := tset [] s.dev.canal.inbox (unitKey (lockRouter l.val) (l.val % 64)) rest } } →
       (d.host.reads.find? fun r => decide (some r.port = portOfLock l.val ∧ r.route = x.barge.route.toNat)) = some r →
       sendCompletions r (x.barge.valid.take (r.length - r.sent - r.held.length)) (decide (x.barge.kind = 2)) d = (u, e) →
       (r.length ≤ u.sent →
         Gives (.hostReadCompletion l) s (e.modHost fun h => { h with reads := h.reads.filter fun q => q.id ≠ r.id })) ∧
       (u.sent < r.length →
         Gives (.hostReadCompletion l) s (e.modHost fun h => { h with reads := h.reads.map fun q => if q.id = r.id then u else q }))) ∧
     (∀ (f : HostFn) (o : Nat) (x : CfgField),
       Gives (.configRequest f (.read o)) s (s.dev.emit (.configCompletion f.ep.val f.vf.val (configRead s.dev f o))) ∧
       Gives (.configRequest f (.field x)) s
         (s.dev.emit (.configCompletion f.ep.val f.vf.val (BitVec.ofNat 32 (configField s.dev f x)))) ∧
       (fnConfig s.dev f = none → Gives (.configRequest f (.command true false)) s
         ((s.dev.modDormant f fun y => { y with mse := true, bme := false }).emit (.configCompletion f.ep.val f.vf.val 0)))) ∧
     (∀ (port : Fin 14) (tag : Nat) (data : Bytes) (t : Tag) (d : Dev),
       (s.dev.host.tags.find? fun t => decide (t.port = port.val ∧ t.tag = tag)) = some t → d = freeTag port.val tag s.dev →
       (t.gen = (d.inst t.inst).gen →
         Gives (.completionReceived port tag data false) s (giveWork t.work (fit t.length (data.drop (t.addr % 4))) false d)) ∧
       (t.gen ≠ (d.inst t.inst).gen → ∀ poison, Gives (.completionReceived port tag data poison) s (discardLate t.inst d))) ∧
     (∀ (ep : Fin 2) (tag : Nat) (t : Tag) (d : Dev), ((portTags s.dev ep.val).find? fun t => t.tag = tag) = some t →
       (s.dev.ep ep.val).timeout ≠ 0 → t.since + (s.dev.ep ep.val).timeout ≤ s.dev.uptime → d = freeTag ep.val tag s.dev →
       t.gen = (d.inst t.inst).gen →
       Gives (.hostCompletionTimeout ep tag) s (failWork t.work (aerSet t.inst aerTimeout (post 0x0901 (unitBlock (4 + ep.val) 8 ep.val) 0
         (syn [(32, 1, ep.val), (34, 2, tag), (36, 2, t.inst), (40, 8, t.addr)]) d)))) ∧
     (∀ (f : HostFn) (i : Nat), fnConfig s.dev f = some i →
       ((s.dev.inst i).bme = true → (s.dev.inst i).state ≠ 3 →
         Gives (.busMasterDisable f) s (stopRequests s.vault i false (advanceGen i (s.dev.modInst i fun x => { x with bme := false })))) ∧
       ((s.dev.inst i).bme = false →
         Gives (.busMasterEnable f) s (flushMsix i (s.dev.modInst i fun x => { x with bme := true }))) ∧
       (2 ≤ i → (s.dev.inst i).state = 2 → Gives (.vfFlr f) s (startSluice none (some i) false (stopRequests s.vault i true
         (advanceGen i (s.dev.modInst i fun x => { x with state := 3, flr := true, bme := false, aerUnc := 0, aerCor := 0 })))))) ∧
     (∀ i : Fin 1024, (s.dev.inst i.val).state = 3 → (s.dev.inst i.val).flr = true → quiet s.dev i.val = true →
       Gives (.vfFlrComplete i) s ((resetQueues i.val s.dev).modInst i.val fun x => { x with state := 2, flr := false })) ∧
     (∀ ep : Fin 2, Gives (.pfFlr ep) s (pfFlr s.vault ep.val s.dev)) ∧
     (∀ (ep : Fin 2) (d : Dev), d = (pfInsts s.dev ep.val).foldl
         (fun d i => beginDestroy s.vault i none d) (s.dev.modEp ep.val fun e => { e with vfEnable := false, dormant := [] }) →
       Gives (.vfEnableClear ep) s (d.modHost fun h => { h with inst := h.inst.map fun e =>
         (e.1, if 2 ≤ e.1 ∧ e.2.homePf = ep.val ∧ e.2.state = 1 then { e.2 with
           mse := false, bme := false, msixEnable := false, msixMask := false, msixTable := [], msixPending := [], aerUnc := 0, aerCor := 0 }
         else e.2) })) ∧
     (∀ (ep : Fin 2) (n : Nat), s.Full → n ≤ 1022 →
       Gives (.vfEnableSet ep n) s (s.dev.modEp ep.val fun e => { e with vfEnable := true, numVfs := n })) ∧
     (∀ ep : Fin 2, Gives (.hostLinkDown ep true) s
       (post 0x0900 (unitBlock (4 + ep.val) 8 ep.val) 0 (syn [(32, 1, ep.val), (33, 1, 1)])
         (pfFlr s.vault ep.val (s.dev.modEp ep.val fun e => e)))) ∧
     (∀ (ep : Fin 2) (speed width : Nat), 1 ≤ speed → speed ≤ 6 → width ∈ [4, 8, 16] →
       Gives (.endpointPerst ep speed width) s ((pfFlr s.vault ep.val s.dev).modEp ep.val fun e =>
         { e with up := true, speed := speed, width := width, flit := decide (speed = 6) })) ∧
     (∀ (i : Fin 1024) (index : Nat), doorbells s.dev i.val ≤ index →
       Gives (.badDoorbellWrite i index) s (s.dev.modInst i.val fun x => { x with badDoorbells := satAdd (2 ^ 64 - 1) x.badDoorbells 1 })) ∧
     (∀ i : Fin 1024, (s.dev.inst i.val).state = 3 → (s.dev.inst i.val).flr = false → quiet s.dev i.val = true →
       (s.dev.inst i.val).destroySender = none →
       Gives (.instanceDestroyComplete i) s (rehome i.val (some (s.dev.inst i.val).homePf)
         (if (s.dev.inst i.val).desc.isSome then some (s.dev.inst i.val).homePf else none)
         ((returnResources i.val (resetQueues i.val s.dev)).modInst i.val fun x =>
           { x with state := if (s.dev.inst i.val).desc.isSome then 1 else 0, destroySender := none }))) ∧
     (∀ (index : Nat) (w : WindowWait), s.dev.host.waits[index]? = some w → windowDrained s.dev w = true →
       Gives (.windowSetComplete index) s (finishLater w.src 0x0903 w.sequence (ok [])
         (s.dev.modHost fun h => { h with waits := h.waits.eraseIdx index })))) ∧
  (∀ (c : Cmd) (s : State),
     (∀ i : Nat, Serves { block := some 8, also := createBlocks } c s → 2 ≤ i → i < 1024 → (s.dev.inst i).state = 1 →
       (s.dev.inst i).homePf = actingPf c.src.val (some i) s.dev → (s.dev.ep (s.dev.inst i).homePf).vfEnable = true →
       i ≤ (s.dev.ep (s.dev.inst i).homePf).numVfs + 1 →
       Answers (.cmdInstanceCreate c i) c s 
         { status := .ok, result := words [i, ((create i s.dev).inst i).gen.toNat] ++ statusPage (create i s.dev) i } (create i s.dev)) ∧
     (∀ i : Nat, Serves { block := some 8, also := destroyBlocks } c s → 2 ≤ i → i < 1024 → (s.dev.inst i).state = 2 → mayName c.src.val i s.dev = true →
       Answers (.cmdInstanceDestroy c i) c s (fail .accepted) (beginDestroy s.vault i (some (c.src.val, c.seq)) s.dev)) ∧
     (∀ i : Nat, Serves { vf := true, i3c := true } c s → i < 1024 → (isVf c.src.val = true → i = c.src.val) →
       ∃ r : Reply, Answers (.cmdInstanceStatus c i) c s r s.dev ∧ r.status = .ok ∧
         r.result = words [instState s.dev i, (s.dev.inst i).gen.toNat] ++ statusPage s.dev i ++
           words [(s.dev.inst i).lateTotal, (s.dev.inst i).ur]) ∧
     (∀ (sel : WinSel) (v : BitVec 256), Serves { block := some 8 } c s → windowRefused s.dev (windowPf c.src.val sel s.dev) sel v = none →
       Window.valid (windowAt s.dev (windowPf c.src.val sel s.dev) sel) = false →
       Answers (.cmdWindowSet c sel v) c s (ok []) (setWindow (windowPf c.src.val sel s.dev) sel v s.dev)) ∧
     (∀ n : Nat, Serves { i3c := true } c s → n < 1024 → Answers (.cmdWindowRead c (.pf n)) c s
       { status := .ok, result := leBytes 32 (windowAt s.dev (windowPf c.src.val (.pf n) s.dev) (.pf n)).toNat } s.dev) ∧
     (∀ e : Nat, Serves { i3c := true } c s → e < 2 → Answers (.cmdHostStatus c e) c s
       (ok [b2n (s.dev.ep e).up, (s.dev.ep e).speed, (s.dev.ep e).width, b2n (s.dev.ep e).flit, b2n (s.dev.ep e).vfEnable,
         (s.dev.ep e).numVfs, (portTags s.dev e).length, (s.dev.inst e).lateTotal, (s.dev.inst e).ur]) s.dev))

/-- O51. The registers of the canal, the locks, the tiles and HBM whose access acts: a write that is taken has the effect of
its command field, and an access of a windowed data register advances its index. -/
def Obligations.WorkRegistersComplete : Prop :=
  ∀ (w : RegW) (s : State) (t : Taken),
    (Takes { block := 3, unit := 0, off := 0x10 } w s t → (t.hit 4 = false ∨ bit t.word 4 = false ∨ s.dev.groupSize ≤ 1) →
      Gives (.canalSchedCtrlSwitch w) s (s.dev.csrSet schedCtrl (BitVec.ofNat 64
        (t.word ||| (storedOrShown s.vault s.dev { block := 3, unit := 0, off := 0x10 } &&& 16))))) ∧
    (Takes { block := 3, unit := 0, off := 0x38 } w s t →
      Gives (.canalTblDataAccess ⟨w.req, true, .both, w.value⟩) s (writeTbl { block := 3, unit := 0, off := 0x38 } t.word true s.dev)) ∧
    (s.On → Gives (.canalTblDataAccess ⟨w.req, false, .both, 0⟩) s (tblAdvance s.dev)) ∧
    (Takes { block := 4, unit := 0, off := 0x48 } w s t → t.hit 11 = true → bit t.word 11 = true →
      bit (storedOrShown s.vault s.dev { block := 4, unit := 0, off := 0x48 }) 11 = false →
      Gives (.locksSluiceGo w) s (startSluice (some (s.dev.field 4 0x18 6 0)) (if bit t.word 10 then none else some (bits t.word 9 0)) true
        (s.dev.csrSet (blockBase 4 + 0x48) (BitVec.ofNat 64 t.word)))) ∧
    (Takes { block := 4, unit := 0, off := 0x40 } w s t → t.hit 0 = true →
      Gives (.locksGateDataAccess ⟨w.req, true, .both, w.value⟩) s (writeGate { block := 4, unit := 0, off := 0x40 } t.word s.dev)) ∧
    (s.On → Gives (.locksGateDataAccess ⟨w.req, false, .both, 0⟩) s (gateAdvance s.dev)) ∧
    (∀ n : Fin 528, Takes { block := 5, unit := n.val, off := 0x40 } w s t → t.hit 0 = true → t.hit 4 = true →
      Gives (.tilesStreamCtrlHalt n w) s (restartStreams n.val (bits t.word 7 4) (haltStreams n.val (bits t.word 3 0) s.dev))) ∧
    (∀ n : Fin 528, Takes { block := 5, unit := n.val, off := 0x40 } w s t → t.hit 0 = true → t.hit 4 = true →
      Gives (.tilesStreamCtrlRestart n w) s (restartStreams n.val (bits t.word 7 4) (haltStreams n.val (bits t.word 3 0) s.dev))) ∧
    (∀ n : Fin 528, Takes { block := 5, unit := n.val, off := 0x60 } w s t →
      Gives (.tilesOpstoreDataAccess n ⟨w.req, true, .both, w.value⟩) s (writeOp { block := 5, unit := n.val, off := 0x60 } t.word true s.dev)) ∧
    (∀ n : Fin 528, s.On → Gives (.tilesOpstoreDataAccess n ⟨w.req, false, .both, 0⟩) s (opAdvance n.val s.dev)) ∧
    (∀ k : Fin 8, Takes { block := 6, unit := k.val, off := 0x38 } w s t → t.hit 0 = true →
      Gives (.hbmScrubCtrlGo k w) s (writeScrub k.val (storedOrShown s.vault s.dev { block := 6, unit := k.val, off := 0x38 }) t.word true s.dev)) ∧
    (∀ (k : Fin 8) (old : Nat) (d : Dev), Takes { block := 6, unit := k.val, off := 0x98 } w s t → t.hits ≠ [] →
      old = storedOrShown s.vault s.dev { block := 6, unit := k.val, off := 0x98 } →
      d = s.dev.csrSet (hbmReg k.val 0x98) (BitVec.ofNat 64 (t.word % 2 ^ 13)) →
      (bit t.word 10 = true → bit t.word 13 = true → bits t.word 12 11 = 1 → Gives (.hbmTestRawWrite k w) s (testWrite k.val d)) ∧
      (bit t.word 10 = true → bit t.word 13 = true → bits t.word 12 11 = 2 → Gives (.hbmTestRawRead k w) s (testRead k.val d)) ∧
      (bit old 10 = true → bit t.word 10 = false → Gives (.hbmTestDisable k w) s (testEnd k.val d)))

/-- O52. The registers of the host, DMA, Ethernet, transport, time and storage blocks whose access acts: a write that is taken
has the effect of its field, a read of the time latches its fraction. -/
def Obligations.InterfaceRegistersComplete : Prop :=
  ∀ (w : RegW) (s : State) (t : Taken),
    (Takes { block := 8, unit := 0, off := 0x48 } w s t →
      Gives (.hostepWinDataAccess ⟨w.req, true, .both, w.value⟩) s (writeWin t.word true s.dev)) ∧
    (s.On → Gives (.hostepWinDataAccess ⟨w.req, false, .both, 0⟩) s (winAdvance s.dev)) ∧
    (∀ (i : Fin 1024) (j c : Nat) (v : Word), s.On → (s.dev.inst i.val).dma[j]? = some c →
      0 < (s.dev.dmaCh c).n → v.toNat % 65536 < 2 ^ (s.dev.dmaCh c).n →
      (bit v.toNat 62 = false → bit v.toNat 63 = false →
        Gives (.dmaDoorbellTail (.doorbell i j v)) s (dmaTail c (v.toNat % 65536) s.dev)) ∧
      (bit v.toNat 62 = true → bit v.toNat 63 = false →
        Gives (.dmaChannelEnable (.doorbell i j v)) s (dmaEnable c (v.toNat % 65536) s.dev)) ∧
      (bit v.toNat 62 = false → bit v.toNat 63 = true → (s.dev.dmaCh c).state ≠ 0 →
        Gives (.dmaChannelDisable (.doorbell i j v)) s (dmaDisable c (s.dev.modDma c fun x => { x with tail := v.toNat % 65536 })))) ∧
    (Takes { block := 9, unit := 0, off := 0x40 } w s t → t.hits ≠ [] → bit t.word 0 = true → bit t.word 1 = false →
      Gives (.dmaChannelDisable (.register w)) s (dmaDisable (s.dev.field 9 0x28 7 0) s.dev)) ∧
    (Takes { block := 10, unit := 0, off := 0x40 } w s t → t.hit 0 = true → t.hit 24 = true →
      Gives (.netengQueueShaperWrite w) s (storeShaper (.queue (s.dev.field 10 0x30 13 0)) (bits t.word 23 0) (bits t.word 47 24)
        (s.dev.csrSet (blockBase 10 + 0x40) 0))) ∧
    (Takes { block := 10, unit := 0, off := 0x48 } w s t → t.hit 0 = true →
      Gives (.netengFlowfairWrite w) s (s.dev.modNetPort (s.dev.field 10 0x10 2 0) fun x => { x with flowFairDue := some (bit t.word 0) })) ∧
    (Takes { block := 11, unit := 0, off := 0x28 } w s t → t.hits ≠ [] →
      Gives (.transportConnTimerWrite w) s (s.dev.modConn (s.dev.field 11 0x10 15 0) fun c =>
        { c with timerDue := some (bits t.word 9 0, bits t.word 13 10, bits t.word 20 14) })) ∧
    (Takes { block := 12, unit := 0, off := 0x48 } w s t → t.hit 0 = true →
      Gives (.ringtimePpsCtrlWrite w) s ((List.range 4).foldl (fun d o => setPps o (bits t.word (2 * o + 1) (2 * o)) d) s.dev)) ∧
    (s.On → Gives (.ringtimeTimeNsRead w.req .both) s (s.dev.modTime fun x => { x with latched := x.frac })) ∧
    (Takes { block := 13, unit := 0, off := 0x38 } w s t → t.hits ≠ [] →
      Gives (.storageIdleCtrlWrite w) s (setIdle (s.dev.field 13 0x28 1 0) (bits t.word 23 0) (bits t.word 55 32) s.dev))

/-- O53. The registers of the control, reliability, observe and power blocks whose write acts, and the general register write:
shown of RELIABILITY_NAN_LIMIT, and of an offset that no block decodes, which sets access_denied in IDENT_STATUS and changes
nothing else (R23). -/
def Obligations.ControlRegistersComplete : Prop :=
  ∀ (w : RegW) (s : State) (t : Taken),
    (Takes { block := 15, unit := 0, off := 0x30 } w s t → t.hit 0 = true → bit t.word 0 = true → 2 < s.dev.field 15 0x18 4 0 →
      (s.dev.coreCtl (s.dev.field 15 0x18 4 0)).state = 1 →
      Gives (.controlCoreCtrlRestart w) s (restartCore (s.dev.field 15 0x18 4 0) s.dev)) ∧
    (Takes { block := 16, unit := 0, off := 0x38 } w s t → t.hit 0 = true →
      Gives (.reliabilityNanLimitWrite w) s (s.dev.modRel fun x => { x with nanLimit := bits t.word 31 0 })) ∧
    (Takes { block := 16, unit := 0, off := 0x40 } w s t → t.hit 0 = true → bit t.word 0 = true →
      Gives (.reliabilityForceWrite w) s (suspect 6 0 s.dev)) ∧
    (Takes { block := 17, unit := 0, off := 0x30 } w s t → t.hit 0 = true → 3 ≤ w.req.val →
      Gives (.observeMarkWrite w) s (latchCore (w.req.val - 3) (bits t.word 15 0) (bit t.word 16) s.dev)) ∧
    (Takes { block := 17, unit := 0, off := 0x10 } w s t → t.hits ≠ [] → s.dev.obs.visible = true →
      Gives (.observeTraceCtrlWrite w) s (setTrace (bits t.word 1 0) (bits t.word 4 2) (t.hit 5 && bit t.word 5) s.dev)) ∧
    (Takes { block := 17, unit := 0, off := 0x28 } w s t → s.dev.obs.visible = true →
      Gives (.observeSampleCtrlWrite w) s
        (setSamples (bits t.word 15 0) (BitVec.ofNat 16 (bits t.word 31 16)) (BitVec.ofNat 19 (bits t.word 50 32)) s.dev)) ∧
    (Takes { block := 18, unit := 0, off := 0x20 } w s t → t.hit 0 = true → t.hit 24 = true →
      Gives (.powerclkCapWrite w) s (((s.dev.modPower fun x => { x with capW := bits t.word 15 0 }).csrSet (blockBase 18 + 0x20)
        (BitVec.ofNat 64 t.word)).modPower fun x => { x with throttleFactor := bits t.word 34 24 })) ∧
    (Takes { block := 18, unit := 0, off := 0x30 } w s t → t.hit 0 = true → bit t.word 0 = true →
      Gives (.powerclkResetCtrlWarm w) s (orderWarm 1 s.dev)) ∧
    (Takes { block := 16, unit := 0, off := 0x38 } w s t → t.hit 0 = true →
      Gives (.registerWrite w.req 0x9000038 8 w.value) s (s.dev.modRel fun x => { x with nanLimit := bits t.word 31 0 })) ∧
    (∀ off size : Nat, s.On → regPlace off = none → Gives (.registerWrite w.req off size w.value) s (s.dev.seen 0 0 1))

/-- O54. The stages of local boot: the ROM's stage restores the keys and, without a strap in OWNED, opens the ledger's mount;
an image that verifies goes to stage 4; the firmware's stage opens full service; the default manifest's load begins. -/
def Obligations.BootStagesComplete : Prop :=
  ∀ s : State, s.On →
    (∀ (dimms : List (Nat × Bool)) (rate : Nat), s.dev.boot.stage = 1 → s.dev.power.state = .reduced →
      ∃ d, exec (.romSelfTest dimms rate) s = .next { s with vault := restoreKeys s.vault, dev := d } ∧ d.power.state = .reduced ∧
        (s.dev.power.strap = 0 → s.vault.lifecycle = 2 → d.boot.stage = 2 ∧ d.ledger.state = 1)) ∧
    (s.dev.boot.stage = 2 → imageFault s.vault s.dev (b2n s.dev.boot.image) = none →
      Gives .imageVerification s (s.dev.modBoot fun b => { b with
        stage := 4, imageVersion := BitVec.ofNat 32 (fieldLe (norRead s.dev (b2n s.dev.boot.image) 0 64) 8 4) })) ∧
    (∀ (code : List Bytes) (devices : List PortDevice), s.dev.boot.stage = 4 → s.dev.power.state = .reduced → s.dev.power.warmPinLow = false →
      Gives (.firmwareStart code devices) s (setVisible s.vault (devices.foldl (fun d x => enumerate x d)
        ((((List.range 19).foldl (fun d k => startCore k (code.getD k []) d) s.dev).modPower fun p => { p with state := .full }).modBoot
          fun b => { b with stage := 5 })))) ∧
    (s.dev.boot.stage = 5 → s.dev.manifest.stage = 0 →
      Gives .defaultManifestLoad s (startLoad none false false (1 + b2n s.dev.boot.image) 0x1000000 0x2000000
        (s.dev.modBoot fun b => { b with stage := 6 })))

/-- O55. The control complex: a watchdog's expiry restarts its core, a restart that is too slow fails it and one in time ends;
the claim of the east half makes it the steward; a missed heartbeat counts and three fail the link; the ledger is mounted,
times out and is collected; the towpath, I3C and the UART bring in their bytes; an unknown command is answered. The commands in
their good case set or answer what they name. -/
def Obligations.ControlComplete : Prop :=
  (∀ s : State, s.On →
     (∀ k : Fin 19, (s.dev.coreCtl k.val).state = 1 → (s.dev.coreCtl k.val).wdFrom + 1000000 * watchdogPeriod s.dev k.val ≤ s.dev.uptime →
       (s.dev.coreCtl k.val).expiries = [] →
       Gives (.watchdogExpiry k) s (restartCore k.val (post 0x1000 (unitBlock (coreDie k.val) 15 k.val) 0 (syn [(32, 1, k.val), (33, 1, 1)])
         (s.dev.modCoreCtl k.val fun c => { c with expiries := [s.dev.uptime] })))) ∧
     (∀ k : Fin 19, (s.dev.coreCtl k.val).state = 2 → (s.dev.coreCtl k.val).since + 20000000 < s.dev.uptime →
       Gives (.ctrlCoreFail k) s (failCore k.val 0 s.dev)) ∧
     (∀ k : Fin 19, (s.dev.coreCtl k.val).state = 2 → s.dev.uptime ≤ (s.dev.coreCtl k.val).since + 20000000 →
       (s.dev.coreCtl k.val).waiting = [] → heldFor k.val s.dev = [] → k.val ≠ 2 ∨ s.dev.unsent = [] →
       Gives (.coreRestartComplete k) s ({ (s.dev.modCoreCtl k.val fun c => { c with
           state := 1, lastRestart := (s.dev.uptime - (s.dev.coreCtl k.val).since) / 1000, waiting := [], wdFrom := s.dev.uptime }) with
         heldCmds := s.dev.heldCmds.filter fun e => decide (e.1 ≠ k.val) })) ∧
     (∀ epoch : W32, s.dev.restarting 0 = false → s.dev.ctrl.claims = [] →
       Gives (.stewardshipClaim true epoch) s (keyAreaWrite ((s.dev.modCtrl fun c => { c with
         claims := [(true, epoch)], steward := true, epoch := epoch, followerUp := !c.linkFailed }).modLedger fun l => { l with epoch := epoch }))) ∧
     (s.dev.ctrl.linkFailed = false →
       Gives (.controlLinkHeartbeat false) s (s.dev.modCtrl fun c => { c with linkMissed := c.linkMissed + 1 })) ∧
     (3 ≤ s.dev.ctrl.linkMissed → s.dev.ctrl.linkFailed = false → (s.dev.ep 1).up = false →
       ∃ d, Gives .ctrlLinkFail s (failDevice 6 d) ∧ d.ctrl.linkFailed = true ∧ d.ctrl.steward = false) ∧
     (s.dev.ledger.state = 1 → s.dev.uptime ≤ s.dev.ledger.mountSince + 400000000 → s.dev.ledger.blocks = [] →
       s.dev.ledger.early = [] → Gives .ledgerMount s (s.dev.modLedger fun l => { l with
         state := 2, spares := 164 - l.retired.length, mountMs := (s.dev.uptime - l.mountSince) / 1000000 })) ∧
     (s.dev.ledger.state = 1 → s.dev.ledger.mountSince + 400000000 < s.dev.uptime →
       Gives .ledgerMountTimeout s (post 0x1005 (unitBlock s.dev.stewardDie 15 127) 0 (syn [(32, 1, 1)])
         (s.dev.modLedger fun l => { l with state := 3, mountMs := 400, early := [] }))) ∧
     (∀ (i n : Nat) (b : LedgerBlock), s.dev.ledger.state = 2 → s.dev.ledger.blocks = [(i, b)] → s.dev.ledger.free = some n →
       Gives (.ledgerGarbageCollect false) s (s.dev.modLedger fun l => { l with
         eraseQueue := [], blocks := tput (tdel l.blocks i) n { b with seq := l.nextSeq }, nextSeq := l.nextSeq + 1, map := tput l.map b.logical (n + 1) })) ∧
     (∀ (counter : Word) (frame tag h k : Bytes), (s.dev.frame 1024).busy = false → towKey s.vault s.dev = some (some k) →
       s.dev.ledger.towCounter.toNat < counter.toNat →
       gcmOpen k (leBytes 8 counter.toNat ++ [0, 0, 0, 3]) [] (fit 1024 frame) (fit 16 tag) = some h →
       Gives (.towpathDatagram counter frame tag) s (frameWrite 1024 4088 [1] (frameWrite 1024 0 (fit 1024 h)
         (keyAreaWrite (s.dev.modLedger fun l => { l with towCounter := counter }))))) ∧
     (∀ id : BitVec 20, s.dev.boot.stage = 1 →
       Gives (.i3cPrivateWrite (.deviceId id)) s (s.dev.modBoot fun b => { b with deviceId := some id })) ∧
     (∀ (off : Nat) (bs : Bytes) (d : Dev), d = frameWrite 1025 off bs s.dev →
       ((s.dev.frame 1025).busy = true ∨ (d.frame 1025).busy = false ∨ (d.frame 1025).code.toNat ∈ queryCodes ∨ (d.frame 1025).code = 0x1005#16 →
         Gives (.i3cPrivateWrite (.frame off bs)) s d) ∧
       ((s.dev.frame 1025).busy = false → (d.frame 1025).busy = true → (d.frame 1025).code.toNat ∉ queryCodes → (d.frame 1025).code ≠ 0x1005#16 →
         Gives (.i3cPrivateWrite (.frame off bs)) s (complete 1025 (d.frame 1025).sequence (fail .notPermitted) d))) ∧
     (∀ off n : Nat, Gives (.i3cPrivateRead off n) s (s.dev.emit (.i3c (((s.dev.frame 1025).bytes.drop off).take n)))) ∧
     (∀ line : List Bool, uartBit line 9 = true → fallsEarly line = false → s.dev.ctrl.uartFifo.length < 64 →
       Gives (.uartCharacter line) s (s.dev.modCtrl fun c => { c with uartFifo := c.uartFifo ++
         [BitVec.ofNat 8 ((List.range 8).foldl (fun n i => n + 2 ^ i * b2n (uartBit line (i + 1))) 0)] })) ∧
     (∀ src : Source, (s.dev.frame src.val).busy = true → (s.dev.frame src.val).running = false → (s.dev.frame src.val).code.toNat ∉ commandCodes →
       Gives (.unknownCommand src) s (complete src.val (s.dev.frame src.val).sequence (fail .unknownCommand) s.dev))) ∧
  (∀ (c : Cmd) (s : State),
     (∀ baud : Nat, Serves { block := some 15 } c s → 9600 ≤ baud → baud ≤ 3000000 →
       Answers (.cmdUartSet c baud) c s (ok []) (s.dev.modCtrl fun x => { x with baud := baud })) ∧
     (Serves { reduced := true, i3c := true } c s → Answers (.cmdCtrlStatus c) c s
       (ok ([b2n (decide (s.dev.power.state = .full)), b2n s.dev.ctrl.steward, s.dev.ctrl.epoch.toNat] ++
         ((List.range 19).map fun k => (s.dev.coreCtl k).state) ++ [s.dev.deviceId])) s.dev) ∧
     (∀ k : Nat, Serves { i3c := true } c s → k ≤ 18 → Answers (.cmdCoreStatus c k) c s
       (ok [(s.dev.coreCtl k).state, (s.dev.coreCtl k).restarts, recentExpiries s.dev k, watchdogPeriod s.dev k]) s.dev) ∧
     (∀ k : Nat, Serves { block := some 15 } c s → 2 < k ∨ 2 ≤ s.vault.debug → k ≤ 18 → (s.dev.coreCtl k).state = 1 →
       Answers (.cmdCoreRestart c k) c s (ok []) (restartCore k s.dev)) ∧
     (∀ base n head vector : Nat, Serves {} c s → 6 ≤ n → n ≤ 16 → vector < 2048 →
       Answers (.cmdEventQueueSet c base n head vector) c s (ok []) (s.dev.modMailbox fun m =>
         { m with rings := tput m.rings (actingPf c.src.val none s.dev) { base := base, n := n, headAddr := head, vector := vector } })) ∧
     (Serves { reduced := true, i3c := true } c s → Answers (.cmdLedgerStatus c) c s
       (ok [s.dev.ledger.state, s.dev.ledger.spares, s.dev.ledger.mountMs, s.dev.ledger.repairs]) s.dev) ∧
     (∀ (image off length space address : Nat) (fetched : Bytes), Serves { reduced := true, i3c := true } c s → image < 2 → off + length ≤ 2 ^ 26 →
       0 < space → space ≤ 9 → s.dev.boot.stage < 2 → spaceMapped s.dev (actingPf c.src.val none s.dev) true space address length = true →
       Answers (.cmdNorWrite c image off length space address fetched) c s (ok []) (s.dev.modBoot fun b =>
         { b with nor := tputs 0 b.nor (image * 2 ^ 26 + off) (fit length fetched) })))

/-- O56. The power block's events, those of a device without power included: a demand follows its readings, a trip and a
falling PWR_EN take the power, P48 and PWR_EN bring it, the straps are sampled at cold reset, an ordered warm reset takes
place. Its commands in their good case, while the power core is up; and the trace, sample and counter commands and the sample
instant where the letter O of R333 is held. -/
def Obligations.PowerAndObserveComplete : Prop :=
  (∀ s : State,
     (∀ r : Reading, s.On → Gives (.sensorReading r) s (takeReading r s.dev)) ∧
     (s.On → (s.dev.coreCtl 1).state = 1 → s.dev.power.haveReading = true →
       Gives .demandUpdate s (demandChanged s.dev.power.ownDemand { s.dev with power := updateDemands s.dev })) ∧
     (∀ (cause : Fin 4) (index : Nat) (reading : Int), s.On → tripHolds cause.val reading = true →
       Gives (.trip cause index reading) s (powerOff ((post 0x1300 (unitBlock 5 18 127) 0 (syn [(32, 1, cause.val),
         (33, 1, if cause.val < 2 then index else 0), (34, 2, (BitVec.ofInt 16 reading).toNat)]) s.dev).modPower fun p =>
           { p with tripped := true }))) ∧
     (∀ low : Bool, Gives (.throttleIn low) s (s.dev.modPower fun p => { p with throttleIn := low })) ∧
     (s.On → s.dev.power.pwrEn = true → Gives .powerDisable s
       (powerOff (s.dev.modPower fun p => { p with pwrEn := false, pwrEnLow := some s.dev.uptime }))) ∧
     (∀ mv : Nat,
       (s.dev.power.pwrEn = false ∨ s.dev.power.state = .off → Gives (.p48Loss mv) s (s.dev.modPower fun p => { p with p48 := false })) ∧
       (s.On → s.dev.power.pwrEn = true → Gives (.p48Loss mv) s (powerOff ((post 0x1300 (unitBlock 5 18 127) 0
         (syn [(32, 1, 2), (33, 1, 0), (34, 2, (BitVec.ofInt 16 mv).toNat)]) (s.dev.modPower fun p => { p with p48 := false })).modPower fun p =>
           { p with tripped := true })))) ∧
     (∀ p48 : Bool, s.dev.power.tripped = false →
       Gives (.powerEnable p48 true) s (s.dev.modPower fun p => { p with
         p48 := p48, standby := true, pwrEn := true, tripped := false, pwrEnLow := none })) ∧
     (∀ ns : Nat, 1000 ≤ ns → s.dev.power.warmPinLow = false →
       Gives (.warmResetPin true ns) s (orderWarm 2 (s.dev.modPower fun p => { p with warmPinLow := true }))) ∧
     (∀ straps : Fin 4, s.dev.power.pwrGood = false → s.dev.power.pwrEn = true → s.dev.power.p48 = true → s.dev.power.standby = true →
       s.dev.power.tripped = false →
       ∃ d, exec (.coldReset straps) s =
           .next { s with vault := { s.vault with keys := [], debug := debugAtReset s.vault.lifecycle }, dev := d } ∧
         d.power.pwrGood = true ∧ d.power.state = .reduced ∧ d.boot.stage = 1 ∧ d.power.strap = straps.val ∧ d.boot.nor = s.dev.boot.nor) ∧
     (∀ cause : Nat, s.On → s.dev.power.state ≠ .warmReset → s.dev.power.warmDue = some cause →
       exec .warmReset s = .next { s with vault := (warmReset cause s.vault s.dev).1, dev := (warmReset cause s.vault s.dev).2 }) ∧
     (s.On → s.dev.power.ringJoin = true →
       Gives .ringJoinFall s (failDevice 6 (lapseBoth 5 (s.dev.modPower fun p => { p with ringJoinPin := false, ringJoin := false })))) ∧
     Gives .ringJoinRise s (s.dev.modPower fun p => { p with ringJoinPin := true }) ∧
     (∀ (n : Fin 60) (f : Bool), s.On → n.val < 16 →
       Gives (.clockLoss n f) s (failUnits (clusterTiles n.val) (post 0x1301 (unitBlock (domainDie n.val) 18 n.val) 0
         (syn [(32, 1, n.val), (33, 1, b2n f)]) (s.dev.modPower fun p => { p with
           domains := tmod {} p.domains n.val fun x => { x with state := 3, losses := satAdd 65535 x.losses 1 } }))))) ∧
  (∀ (c : Cmd) (s : State), s.dev.restarting 1 = false →
     (Serves { i3c := true } c s → Answers (.cmdPowerStatus c) c s
       (ok [s.dev.power.inputW, s.dev.power.inputMv, (BitVec.ofInt 64 (hottest s.dev).1).toNat, (hottest s.dev).2,
         (BitVec.ofInt 64 s.dev.power.coolant).toNat, s.dev.power.demJunction, s.dev.power.demCoolant,
         min s.dev.power.demCap s.dev.power.demThrottle, s.dev.power.demVoltage, s.dev.power.demCurrent, s.dev.power.demGroup,
         s.dev.canal.cause, b2n s.dev.power.throttleIn, b2n s.dev.power.throttleOut]) s.dev) ∧
     (∀ watts : Nat, Serves { block := some 18 } c s → 1000 ≤ watts → watts ≤ 4000 →
       Answers (.cmdPowerCapSet c watts) c s (ok []) (s.dev.modPower fun p => { p with capW := watts })) ∧
     (Serves { block := some 18 } c s → Answers (.cmdResetWarm c) c s (ok []) (orderWarm 1 s.dev)) ∧
     (∀ n : Nat, Serves { i3c := true } c s → n ≤ 59 → Answers (.cmdClockStatus c n) c s
       (ok [(tget {} s.dev.power.domains n).state, (tget {} s.dev.power.domains n).mhz, (tget {} s.dev.power.domains n).losses]) s.dev)) ∧
  (∀ (c : Cmd) (s : State), s.dev.obs.visible = true →
     (∀ mode sources : Nat, Serves { block := some 17 } c s → mode ≤ 2 → sources ≤ 7 → mode = 0 ∨ s.dev.region 2 ≠ none →
       Answers (.cmdTraceSet c mode sources) c s (ok []) (setTrace mode sources false s.dev)) ∧
     (Serves { i3c := true } c s → Answers (.cmdTraceStatus c) c s
       (ok [s.dev.obs.mode, s.dev.obs.next, s.dev.obs.wraps.toNat, s.dev.obs.lost, b2n s.dev.obs.stopped]) s.dev) ∧
     (∀ period clusters cores : Nat, Serves { block := some 17 } c s → period ≤ 65535 → clusters < 2 ^ 16 → cores < 2 ^ 19 →
       Answers (.cmdSampleSet c period clusters cores) c s (ok [])
         (s.dev.modObs fun o => { o with period := period, clusters := BitVec.ofNat 16 clusters, coreMask := BitVec.ofNat 19 cores })) ∧
     (∀ unit : Nat, Serves { i3c := true } c s →
       (unit ≤ 527 → Answers (.cmdCountersRead c false unit) c s
         (ok ((List.range 8).map fun i => (s.dev.tileCounter unit i).toNat)) s.dev) ∧
       (unit ≤ 18 → Answers (.cmdCountersRead c true unit) c s
         (ok ((List.range 8).map fun i => (coreCounter s.dev unit i).toNat)) s.dev)) ∧
     (s.On → s.dev.canal.aligned = true → s.dev.canal.dwell = false → s.dev.canal.slot = 0 → s.dev.obs.period ≠ 0 →
       s.dev.canal.lockage % s.dev.obs.period = 0 → s.dev.obs.sampledAt ≠ s.dev.canal.lockage + 1 → s.dev.obs.clusters = 0 →
       s.dev.obs.coreMask = 1 →
       Gives .sampleInstant s (sampleCore (s.dev.modObs fun o => { o with sampledAt := s.dev.canal.lockage + 1 }) 0)))

/-- O57. A two-operand register instruction writes its result at operand size, zero-extended, with the flags that R371 gives
it, and the core goes on behind it; a division needs a divisor that is not 0. The same with an immediate, which is
sign-extended from its own width. NOT, NEG, TST, the control registers, calls and jumps through a register, and SEXT have their
results (R370, R371, R373, R376). -/
def Obligations.VolilArithmeticComplete : Prop :=
  (∀ (o : VolilRR) (n w a b c : Nat) (s : State), w = vBits o.size → a = s.dev.operand o.core.val o.size o.d →
     b = s.dev.operand o.core.val o.size o.s → c = s.dev.carry o.core.val →
     (Runs o.core (.alu .mov o) n s → Gives (.mov o) s (s.dev.computes o.core.val n o.size o.d
       { value := b })) ∧
     (Runs o.core (.alu .add o) n s → Gives (.add o) s (s.dev.computes o.core.val n o.size o.d
       (addAt w a b 0))) ∧
     (Runs o.core (.alu .adc o) n s → Gives (.adc o) s (s.dev.computes o.core.val n o.size o.d
       (addAt w a b c))) ∧
     (Runs o.core (.alu .sub o) n s → Gives (.sub o) s (s.dev.computes o.core.val n o.size o.d
       (subAt w a b 0))) ∧
     (Runs o.core (.alu .sbc o) n s → Gives (.sbc o) s (s.dev.computes o.core.val n o.size o.d
       (subAt w a b c))) ∧
     (Runs o.core (.alu .and o) n s → Gives (.and o) s (s.dev.computes o.core.val n o.size o.d
       { value := a &&& b, flags := some (false, false) })) ∧
     (Runs o.core (.alu .or o) n s → Gives (.or o) s (s.dev.computes o.core.val n o.size o.d
       { value := a ||| b, flags := some (false, false) })) ∧
     (Runs o.core (.alu .xor o) n s → Gives (.xor o) s (s.dev.computes o.core.val n o.size o.d
       { value := a ^^^ b, flags := some (false, false) })) ∧
     (Runs o.core (.alu .shl o) n s → Gives (.shl o) s (s.dev.computes o.core.val n o.size o.d
       (shiftAt (a * 2 ^ (b % w) % 2 ^ w) (b % w) (bit a (w - b % w))))) ∧
     (Runs o.core (.alu .shr o) n s → Gives (.shr o) s (s.dev.computes o.core.val n o.size o.d
       (shiftAt (a / 2 ^ (b % w)) (b % w) (bit a (b % w - 1))))) ∧
     (Runs o.core (.alu .sar o) n s → Gives (.sar o) s (s.dev.computes o.core.val n o.size o.d
       (shiftAt ((sext w a / 2 ^ (b % w)) % (2 ^ w : Nat)).toNat (b % w) (bit a (b % w - 1))))) ∧
     (Runs o.core (.alu .mul o) n s → Gives (.mul o) s (s.dev.computes o.core.val n o.size o.d
       { value := a * b % 2 ^ w, flags := some (false, false) })) ∧
     (Runs o.core (.alu .mulhu o) n s → Gives (.mulhu o) s (s.dev.computes o.core.val n o.size o.d
       { value := a * b / 2 ^ w, flags := some (false, false) })) ∧
     (Runs o.core (.alu .divu o) n s → b ≠ 0 → Gives (.divu o) s (s.dev.computes o.core.val n o.size o.d
       { value := a / b })) ∧
     (Runs o.core (.alu .remu o) n s → b ≠ 0 → Gives (.remu o) s (s.dev.computes o.core.val n o.size o.d
       { value := a % b })) ∧
     (Runs o.core (.alu .cmp o) n s → Gives (.cmp o) s (s.dev.computes o.core.val n o.size o.d
       { subAt w a b 0 with writes := false }))) ∧
  (∀ (o : VolilRI) (n w a b c : Nat) (s : State), w = vBits o.size → a = s.dev.operand o.core.val o.size o.d → b = immediate o →
     c = s.dev.carry o.core.val →
     (Runs o.core (.aluImm .mov o) n s → Gives (.movi o) s (s.dev.computes o.core.val n o.size o.d
       { value := b })) ∧
     (Runs o.core (.aluImm .add o) n s → Gives (.addi o) s (s.dev.computes o.core.val n o.size o.d
       (addAt w a b 0))) ∧
     (Runs o.core (.aluImm .adc o) n s → Gives (.adci o) s (s.dev.computes o.core.val n o.size o.d
       (addAt w a b c))) ∧
     (Runs o.core (.aluImm .sub o) n s → Gives (.subi o) s (s.dev.computes o.core.val n o.size o.d
       (subAt w a b 0))) ∧
     (Runs o.core (.aluImm .sbc o) n s → Gives (.sbci o) s (s.dev.computes o.core.val n o.size o.d
       (subAt w a b c))) ∧
     (Runs o.core (.aluImm .and o) n s → Gives (.andi o) s (s.dev.computes o.core.val n o.size o.d
       { value := a &&& b, flags := some (false, false) })) ∧
     (Runs o.core (.aluImm .or o) n s → Gives (.ori o) s (s.dev.computes o.core.val n o.size o.d
       { value := a ||| b, flags := some (false, false) })) ∧
     (Runs o.core (.aluImm .xor o) n s → Gives (.xori o) s (s.dev.computes o.core.val n o.size o.d
       { value := a ^^^ b, flags := some (false, false) })) ∧
     (Runs o.core (.aluImm .shl o) n s → Gives (.shli o) s (s.dev.computes o.core.val n o.size o.d
       (shiftAt (a * 2 ^ (b % w) % 2 ^ w) (b % w) (bit a (w - b % w))))) ∧
     (Runs o.core (.aluImm .shr o) n s → Gives (.shri o) s (s.dev.computes o.core.val n o.size o.d
       (shiftAt (a / 2 ^ (b % w)) (b % w) (bit a (b % w - 1))))) ∧
     (Runs o.core (.aluImm .sar o) n s → Gives (.sari o) s (s.dev.computes o.core.val n o.size o.d
       (shiftAt ((sext w a / 2 ^ (b % w)) % (2 ^ w : Nat)).toNat (b % w) (bit a (b % w - 1))))) ∧
     (Runs o.core (.aluImm .mul o) n s → Gives (.muli o) s (s.dev.computes o.core.val n o.size o.d
       { value := a * b % 2 ^ w, flags := some (false, false) })) ∧
     (Runs o.core (.aluImm .cmp o) n s → Gives (.cmpi o) s (s.dev.computes o.core.val n o.size o.d
       { subAt w a b 0 with writes := false }))) ∧
  (∀ (o : VolilRR) (n w a b goal : Nat) (s : State), w = vBits o.size → a = s.dev.operand o.core.val o.size o.d →
     b = s.dev.operand o.core.val o.size o.s → goal = ((s.dev.core o.core.val).gr o.s.val).toNat % 2 ^ 48 →
     (Runs o.core (.rr .not o) n s → Gives (.not o) s (s.dev.computes o.core.val n o.size o.d
       { value := 2 ^ w - 1 - a, flags := some (false, false) })) ∧
     (Runs o.core (.rr .neg o) n s → Gives (.neg o) s (s.dev.computes o.core.val n o.size o.d (subAt w 0 a 0))) ∧
     (Runs o.core (.rr .tst o) n s → Gives (.tst o) s (s.dev.computes o.core.val n o.size o.d
       { value := a &&& b, flags := some (false, false), writes := false })) ∧
     (Runs o.core (.rr .mfc o) n s → Gives (.mfc o) s (s.dev.stepsOn o.core.val n fun c =>
       c.setGr o.d.val (BitVec.ofNat 64 ((s.dev.core o.core.val).ctl o.core.val o.s.val)))) ∧
     (∀ c : Core, Runs o.core (.rr .mtc o) n s →
       (s.dev.core o.core.val).setCtl o.d.val ((s.dev.core o.core.val).gr o.s.val) = some c →
       Gives (.mtc o) s (s.dev.stepsOn o.core.val n fun _ => c)) ∧
     (Runs o.core (.rr .callr o) n s → Gives (.callr o) s (retire o.core.val goal (decide (goal ≠ s.dev.after o.core.val n)) false s.dev
       (s.dev.modCore o.core.val fun c => c.call (s.dev.after o.core.val n)))) ∧
     (Runs o.core (.rr .jmpr o) n s →
       Gives (.jmpr o) s (retire o.core.val goal (decide (goal ≠ s.dev.after o.core.val n)) false s.dev s.dev)) ∧
     (Runs o.core (.rr .sext o) n s → Gives (.sext o) s (s.dev.stepsOn o.core.val n fun c =>
       c.setGr o.d.val (BitVec.ofInt 64 (Machine.sext w b)))))

/-- O58. The control instructions (R376, R377). SYS and BRK take their traps: SYS saves the address behind it and counts as
retired (R380, R382). -/
def Obligations.VolilControlComplete : Prop :=
  ∀ (k : Fin 19) (n : Nat) (s : State),
    (Runs k .nop n s → Gives (.volilNop k) s (s.dev.stepsOn k.val n id)) ∧
    (Runs k .wait 1 s → (s.dev.core k.val).pendingLines = [] →
      Gives (.wait k) s (s.dev.modCore k.val fun c => { c with waiting := true, debugStep := false })) ∧
    (Runs k .wait 1 s → (s.dev.core k.val).pendingLines ≠ [] →
      Gives (.wait k) s (retire k.val ((s.dev.core k.val).pc.toNat + 1) false true s.dev s.dev)) ∧
    (Runs k .tret n s → Gives (.tret k) s (retire k.val (s.dev.core k.val).epc.toNat false false s.dev
      (s.dev.modCore k.val fun c => { c with fl := c.efl &&& 63#64 }))) ∧
    (∀ goal : Nat, Runs k .ret n s → goal = ((s.dev.core k.val).gr 14).toNat % 2 ^ 48 →
      Gives (.ret k) s (retire k.val goal ((s.dev.core k.val).rstack.head? != some (BitVec.ofNat 48 goal)) false s.dev
        (s.dev.modCore k.val fun c => { c with rstack := c.rstack.drop 1 }))) ∧
    (Runs k .fence n s → Gives (.volilFence k) s
      (retire k.val (s.dev.after k.val n) false true s.dev (s.dev.modCore k.val id))) ∧
    (∀ imm : Byte, Runs k (.sys imm) n s → Gives (.sys k imm) s (trapEntry k.val 8 imm.toNat 0 (s.dev.after k.val n) none
      (s.dev.modCore k.val fun c => { c with retired := c.retired + 1, cycle := c.cycle + 1 }))) ∧
    (Runs k .brk n s → Gives (.brk k) s (trapEntry k.val 9 0 0 (s.dev.core k.val).pc.toNat none s.dev)) ∧
    (∀ (cc : Fin 16) (wide : Bool) (disp : W32) (taken : Bool), Runs k (.bcc cc wide disp) n s → taken = holds (s.dev.core k.val).fl cc.val →
      Gives (.bcc k cc wide disp) s (retire k.val
        (if taken then target (s.dev.after k.val n) (if wide then 4 else 2) disp else s.dev.after k.val n)
        (taken != decide (2 ≤ (tget 0 (s.dev.core k.val).predict (predictIndex (s.dev.core k.val).pc.toNat)).toNat)) false s.dev
        (s.dev.modCore k.val fun c => c.train (s.dev.core k.val).pc.toNat taken))) ∧
    (∀ disp : W32, Runs k (.call disp) n s → Gives (.call k disp) s (retire k.val (target (s.dev.after k.val n) 4 disp) false false s.dev
      (s.dev.modCore k.val fun c => c.call (s.dev.after k.val n)))) ∧
    (∀ (x : Byte) (body : List (Nat × VInstr × Nat)) (d : Dev), Runs k (.ext x) n s → 3 ≤ k.val → x.toNat < 64 →
      bodyCode k 65 0 (tget [] (s.dev.core k.val).ext x.toNat) = some body → body ≠ [] →
      runBody s.vault k.val (s.dev.core k.val).pc.toNat (s.dev.after k.val n) body s.dev = .done d →
      Gives (.ext k x) s (retire k.val (s.dev.after k.val n) false true s.dev d))

/-- O59. Loads and stores of a core whose access its target serves (R374, R376, R378); LEA computes the address alone. -/
def Obligations.VolilMemoryComplete : Prop :=
  ∀ (o : VolilM) (n a w : Nat) (d : Dev) (s : State), a = vEa (s.dev.core o.core.val) (s.dev.after o.core.val n) o →
    (Runs o.core (.mem .ld o) n s → loadAt s.vault o.core.val a (vBytes o.size) s.dev = .value w d →
      Gives (.ld o) s (retire o.core.val (s.dev.after o.core.val n) false true s.dev
        (d.modCore o.core.val fun c => (c.count 5).setGr o.d.val (BitVec.ofNat 64 w)))) ∧
    (Runs o.core (.mem .lds o) n s → loadAt s.vault o.core.val a (vBytes o.size) s.dev = .value w d →
      Gives (.lds o) s (retire o.core.val (s.dev.after o.core.val n) false true s.dev
        (d.modCore o.core.val fun c => (c.count 5).setGr o.d.val
          (BitVec.ofNat 64 (BitVec.ofInt 64 (sext (8 * vBytes o.size) w)).toNat)))) ∧
    (Runs o.core (.mem .st o) n s →
      storeAt s.vault o.core.val a (leBytes (vBytes o.size) ((s.dev.core o.core.val).gr o.d.val).toNat) s.dev = .value w d →
      Gives (.st o) s (retire o.core.val (s.dev.after o.core.val n) false true s.dev (d.modCore o.core.val fun c => c.count 6))) ∧
    (Runs o.core (.mem .sti o) n s → storeAt s.vault o.core.val a (leBytes (vBytes o.size) o.imm.toNat) s.dev = .value w d →
      Gives (.sti o) s (retire o.core.val (s.dev.after o.core.val n) false true s.dev (d.modCore o.core.val fun c => c.count 6))) ∧
    (Runs o.core (.mem .lea o) n s → Gives (.lea o) s (s.dev.stepsOn o.core.val n fun c => c.setGr o.d.val (BitVec.ofNat 64 a))) ∧
    (∀ (e : Dev) (x : Nat), Runs o.core (.mem .swap o) n s → a % 8 = 0 → inData a 8 = true ∨ inRegisters a 8 = true →
      loadAt s.vault o.core.val a 8 s.dev = .value w e →
      storeAt s.vault o.core.val a (leBytes 8 ((s.dev.core o.core.val).gr o.d.val).toNat) e = .value x d →
      Gives (.swap o) s (retire o.core.val (s.dev.after o.core.val n) false true s.dev
        (d.modCore o.core.val fun c => (c.count 5).setGr o.d.val (BitVec.ofNat 64 w))))

/-- O60. What happens to a core beside its instructions: an undefined encoding and a fetch fault trap, a pending interrupt is
taken, a wait runs up to TIMECMP, core debug halts it, and an extension image is loaded. -/
def Obligations.CoreEventsComplete : Prop :=
  ∀ (k : Fin 19) (s : State), s.On →
    (executing s.dev k.val = true → fetchAt s.dev k = .undefined →
      Gives (.undefinedEncoding k) s (trapEntry k.val 6 0 0 (s.dev.core k.val).pc.toNat none s.dev)) ∧
    (∀ a : Nat, executing s.dev k.val = true → fetchAt s.dev k = .fault a →
      Gives (.fetchFault k) s (trapEntry k.val 2 0 0 (s.dev.core k.val).pc.toNat (some a) s.dev)) ∧
    (∀ (l : Nat) (rest : List Nat), executing s.dev k.val = true → (s.dev.core k.val).pendingLines = l :: rest →
      (s.dev.core k.val).waiting = false → (s.dev.core k.val).flag 4 = true →
      Gives (.interruptTaken k) s (trapEntry k.val (16 + l) 0 0 (s.dev.core k.val).pc.toNat none
        (s.dev.modCore k.val fun c => { c with lines := c.lines.filter fun i => decide (i ≠ l) }))) ∧
    ((s.dev.coreCtl k.val).state = 1 → Gives (.timecmpExpiry k) s (s.dev.modCore k.val fun c =>
      { c with cycle := if c.cycle.toNat < c.timecmp.toNat then c.timecmp else c.cycle })) ∧
    (letterC s.vault s.dev = true → (s.dev.coreCtl k.val).state = 1 →
      Gives (.jtagCoreDebug (.core k) .halt) s (s.dev.modCoreCtl k.val fun c => { c with state := 4, haltedAt := s.dev.uptime })) ∧
    (∀ n : Fin 528, letterC s.vault s.dev = true →
      Gives (.jtagCoreDebug (.tile n) .halt) s (s.dev.modTile n.val fun t => { t with debugHeld := true, debugStep := none })) ∧
    (∀ (c : Cmd) (space address length : Nat) (b fetched text key : Bytes) (m : Manifest), Serves {} c s → 0 < space → space ≤ 9 →
      spaceMapped s.dev (actingPf c.src.val none s.dev) true space address length = true →
      b = fit length fetched → badExtImage b = false → s.dev.manifest.active = some m →
      slotKey s.vault m.keySlot = some key → gcmOpen key (slice b 8 8 ++ [0, 0, 0, 5]) (slice b 0 32 ++ b.drop 48) [] (slice b 32 16) =
        some text →
      (tget 0 s.dev.ledger.extSerials m.keySlot).toNat ≤ fieldLe b 8 8 → ledgerWorn s.dev = false →
      Answers (.cmdCoreExtLoad c space address length fetched) c s (ok []) (loadExt b (keyAreaWrite (s.dev.modLedger fun l =>
        { l with extSerials := tset 0 l.extSerials m.keySlot (BitVec.ofNat 64 (fieldLe b 8 8)) }))))
end

