-- ==== Sys2Proof/Laws/State.lean ====
section
/-! SUPPORT. One lemma per field of the device and update of one part of it, each true by unfolding. -/

namespace Sys2Proof.Machine

@[simp] theorem Dev.modPower_power (d : Dev) (f : Power → Power) : (d.modPower f).power = f d.power := rfl
@[simp] theorem Dev.modPower_uptime (d : Dev) (f : Power → Power) : (d.modPower f).uptime = d.uptime := rfl
@[simp] theorem Dev.modPower_csr (d : Dev) (f : Power → Power) : (d.modPower f).csr = d.csr := rfl
@[simp] theorem Dev.modPower_boot (d : Dev) (f : Power → Power) : (d.modPower f).boot = d.boot := rfl
@[simp] theorem Dev.modPower_manifest (d : Dev) (f : Power → Power) : (d.modPower f).manifest = d.manifest := rfl
@[simp] theorem Dev.modPower_expert (d : Dev) (f : Power → Power) : (d.modPower f).expert = d.expert := rfl
@[simp] theorem Dev.modPower_mailbox (d : Dev) (f : Power → Power) : (d.modPower f).mailbox = d.mailbox := rfl
@[simp] theorem Dev.modPower_canal (d : Dev) (f : Power → Power) : (d.modPower f).canal = d.canal := rfl
@[simp] theorem Dev.modPower_locks (d : Dev) (f : Power → Power) : (d.modPower f).locks = d.locks := rfl
@[simp] theorem Dev.modPower_tiles (d : Dev) (f : Power → Power) : (d.modPower f).tiles = d.tiles := rfl
@[simp] theorem Dev.modPower_reduce (d : Dev) (f : Power → Power) : (d.modPower f).reduce = d.reduce := rfl
@[simp] theorem Dev.modPower_mem (d : Dev) (f : Power → Power) : (d.modPower f).mem = d.mem := rfl
@[simp] theorem Dev.modPower_hbm (d : Dev) (f : Power → Power) : (d.modPower f).hbm = d.hbm := rfl
@[simp] theorem Dev.modPower_wharf (d : Dev) (f : Power → Power) : (d.modPower f).wharf = d.wharf := rfl
@[simp] theorem Dev.modPower_kv (d : Dev) (f : Power → Power) : (d.modPower f).kv = d.kv := rfl
@[simp] theorem Dev.modPower_host (d : Dev) (f : Power → Power) : (d.modPower f).host = d.host := rfl
@[simp] theorem Dev.modPower_acc (d : Dev) (f : Power → Power) : (d.modPower f).acc = d.acc := rfl
@[simp] theorem Dev.modPower_net (d : Dev) (f : Power → Power) : (d.modPower f).net = d.net := rfl
@[simp] theorem Dev.modPower_tp (d : Dev) (f : Power → Power) : (d.modPower f).tp = d.tp := rfl
@[simp] theorem Dev.modPower_ring (d : Dev) (f : Power → Power) : (d.modPower f).ring = d.ring := rfl
@[simp] theorem Dev.modPower_cells (d : Dev) (f : Power → Power) : (d.modPower f).cells = d.cells := rfl
@[simp] theorem Dev.modPower_time (d : Dev) (f : Power → Power) : (d.modPower f).time = d.time := rfl
@[simp] theorem Dev.modPower_storage (d : Dev) (f : Power → Power) : (d.modPower f).storage = d.storage := rfl
@[simp] theorem Dev.modPower_sec (d : Dev) (f : Power → Power) : (d.modPower f).sec = d.sec := rfl
@[simp] theorem Dev.modPower_ctrl (d : Dev) (f : Power → Power) : (d.modPower f).ctrl = d.ctrl := rfl
@[simp] theorem Dev.modPower_cores (d : Dev) (f : Power → Power) : (d.modPower f).cores = d.cores := rfl
@[simp] theorem Dev.modPower_rel (d : Dev) (f : Power → Power) : (d.modPower f).rel = d.rel := rfl
@[simp] theorem Dev.modPower_obs (d : Dev) (f : Power → Power) : (d.modPower f).obs = d.obs := rfl
@[simp] theorem Dev.modPower_ledger (d : Dev) (f : Power → Power) : (d.modPower f).ledger = d.ledger := rfl
@[simp] theorem Dev.modPower_heldCmds (d : Dev) (f : Power → Power) : (d.modPower f).heldCmds = d.heldCmds := rfl
@[simp] theorem Dev.modPower_unsent (d : Dev) (f : Power → Power) : (d.modPower f).unsent = d.unsent := rfl
@[simp] theorem Dev.modPower_out (d : Dev) (f : Power → Power) : (d.modPower f).out = d.out := rfl
@[simp] theorem Dev.modPower_fresh (d : Dev) (f : Power → Power) : (d.modPower f).fresh = d.fresh := rfl

@[simp] theorem Dev.modBoot_boot (d : Dev) (f : Boot → Boot) : (d.modBoot f).boot = f d.boot := rfl
@[simp] theorem Dev.modBoot_uptime (d : Dev) (f : Boot → Boot) : (d.modBoot f).uptime = d.uptime := rfl
@[simp] theorem Dev.modBoot_csr (d : Dev) (f : Boot → Boot) : (d.modBoot f).csr = d.csr := rfl
@[simp] theorem Dev.modBoot_power (d : Dev) (f : Boot → Boot) : (d.modBoot f).power = d.power := rfl
@[simp] theorem Dev.modBoot_manifest (d : Dev) (f : Boot → Boot) : (d.modBoot f).manifest = d.manifest := rfl
@[simp] theorem Dev.modBoot_expert (d : Dev) (f : Boot → Boot) : (d.modBoot f).expert = d.expert := rfl
@[simp] theorem Dev.modBoot_mailbox (d : Dev) (f : Boot → Boot) : (d.modBoot f).mailbox = d.mailbox := rfl
@[simp] theorem Dev.modBoot_canal (d : Dev) (f : Boot → Boot) : (d.modBoot f).canal = d.canal := rfl
@[simp] theorem Dev.modBoot_locks (d : Dev) (f : Boot → Boot) : (d.modBoot f).locks = d.locks := rfl
@[simp] theorem Dev.modBoot_tiles (d : Dev) (f : Boot → Boot) : (d.modBoot f).tiles = d.tiles := rfl
@[simp] theorem Dev.modBoot_reduce (d : Dev) (f : Boot → Boot) : (d.modBoot f).reduce = d.reduce := rfl
@[simp] theorem Dev.modBoot_mem (d : Dev) (f : Boot → Boot) : (d.modBoot f).mem = d.mem := rfl
@[simp] theorem Dev.modBoot_hbm (d : Dev) (f : Boot → Boot) : (d.modBoot f).hbm = d.hbm := rfl
@[simp] theorem Dev.modBoot_wharf (d : Dev) (f : Boot → Boot) : (d.modBoot f).wharf = d.wharf := rfl
@[simp] theorem Dev.modBoot_kv (d : Dev) (f : Boot → Boot) : (d.modBoot f).kv = d.kv := rfl
@[simp] theorem Dev.modBoot_host (d : Dev) (f : Boot → Boot) : (d.modBoot f).host = d.host := rfl
@[simp] theorem Dev.modBoot_acc (d : Dev) (f : Boot → Boot) : (d.modBoot f).acc = d.acc := rfl
@[simp] theorem Dev.modBoot_net (d : Dev) (f : Boot → Boot) : (d.modBoot f).net = d.net := rfl
@[simp] theorem Dev.modBoot_tp (d : Dev) (f : Boot → Boot) : (d.modBoot f).tp = d.tp := rfl
@[simp] theorem Dev.modBoot_ring (d : Dev) (f : Boot → Boot) : (d.modBoot f).ring = d.ring := rfl
@[simp] theorem Dev.modBoot_cells (d : Dev) (f : Boot → Boot) : (d.modBoot f).cells = d.cells := rfl
@[simp] theorem Dev.modBoot_time (d : Dev) (f : Boot → Boot) : (d.modBoot f).time = d.time := rfl
@[simp] theorem Dev.modBoot_storage (d : Dev) (f : Boot → Boot) : (d.modBoot f).storage = d.storage := rfl
@[simp] theorem Dev.modBoot_sec (d : Dev) (f : Boot → Boot) : (d.modBoot f).sec = d.sec := rfl
@[simp] theorem Dev.modBoot_ctrl (d : Dev) (f : Boot → Boot) : (d.modBoot f).ctrl = d.ctrl := rfl
@[simp] theorem Dev.modBoot_cores (d : Dev) (f : Boot → Boot) : (d.modBoot f).cores = d.cores := rfl
@[simp] theorem Dev.modBoot_rel (d : Dev) (f : Boot → Boot) : (d.modBoot f).rel = d.rel := rfl
@[simp] theorem Dev.modBoot_obs (d : Dev) (f : Boot → Boot) : (d.modBoot f).obs = d.obs := rfl
@[simp] theorem Dev.modBoot_ledger (d : Dev) (f : Boot → Boot) : (d.modBoot f).ledger = d.ledger := rfl
@[simp] theorem Dev.modBoot_heldCmds (d : Dev) (f : Boot → Boot) : (d.modBoot f).heldCmds = d.heldCmds := rfl
@[simp] theorem Dev.modBoot_unsent (d : Dev) (f : Boot → Boot) : (d.modBoot f).unsent = d.unsent := rfl
@[simp] theorem Dev.modBoot_out (d : Dev) (f : Boot → Boot) : (d.modBoot f).out = d.out := rfl
@[simp] theorem Dev.modBoot_fresh (d : Dev) (f : Boot → Boot) : (d.modBoot f).fresh = d.fresh := rfl

@[simp] theorem Dev.modManifest_manifest (d : Dev) (f : ManifestSt → ManifestSt) : (d.modManifest f).manifest = f d.manifest := rfl
@[simp] theorem Dev.modManifest_uptime (d : Dev) (f : ManifestSt → ManifestSt) : (d.modManifest f).uptime = d.uptime := rfl
@[simp] theorem Dev.modManifest_csr (d : Dev) (f : ManifestSt → ManifestSt) : (d.modManifest f).csr = d.csr := rfl
@[simp] theorem Dev.modManifest_power (d : Dev) (f : ManifestSt → ManifestSt) : (d.modManifest f).power = d.power := rfl
@[simp] theorem Dev.modManifest_boot (d : Dev) (f : ManifestSt → ManifestSt) : (d.modManifest f).boot = d.boot := rfl
@[simp] theorem Dev.modManifest_expert (d : Dev) (f : ManifestSt → ManifestSt) : (d.modManifest f).expert = d.expert := rfl
@[simp] theorem Dev.modManifest_mailbox (d : Dev) (f : ManifestSt → ManifestSt) : (d.modManifest f).mailbox = d.mailbox := rfl
@[simp] theorem Dev.modManifest_canal (d : Dev) (f : ManifestSt → ManifestSt) : (d.modManifest f).canal = d.canal := rfl
@[simp] theorem Dev.modManifest_locks (d : Dev) (f : ManifestSt → ManifestSt) : (d.modManifest f).locks = d.locks := rfl
@[simp] theorem Dev.modManifest_tiles (d : Dev) (f : ManifestSt → ManifestSt) : (d.modManifest f).tiles = d.tiles := rfl
@[simp] theorem Dev.modManifest_reduce (d : Dev) (f : ManifestSt → ManifestSt) : (d.modManifest f).reduce = d.reduce := rfl
@[simp] theorem Dev.modManifest_mem (d : Dev) (f : ManifestSt → ManifestSt) : (d.modManifest f).mem = d.mem := rfl
@[simp] theorem Dev.modManifest_hbm (d : Dev) (f : ManifestSt → ManifestSt) : (d.modManifest f).hbm = d.hbm := rfl
@[simp] theorem Dev.modManifest_wharf (d : Dev) (f : ManifestSt → ManifestSt) : (d.modManifest f).wharf = d.wharf := rfl
@[simp] theorem Dev.modManifest_kv (d : Dev) (f : ManifestSt → ManifestSt) : (d.modManifest f).kv = d.kv := rfl
@[simp] theorem Dev.modManifest_host (d : Dev) (f : ManifestSt → ManifestSt) : (d.modManifest f).host = d.host := rfl
@[simp] theorem Dev.modManifest_acc (d : Dev) (f : ManifestSt → ManifestSt) : (d.modManifest f).acc = d.acc := rfl
@[simp] theorem Dev.modManifest_net (d : Dev) (f : ManifestSt → ManifestSt) : (d.modManifest f).net = d.net := rfl
@[simp] theorem Dev.modManifest_tp (d : Dev) (f : ManifestSt → ManifestSt) : (d.modManifest f).tp = d.tp := rfl
@[simp] theorem Dev.modManifest_ring (d : Dev) (f : ManifestSt → ManifestSt) : (d.modManifest f).ring = d.ring := rfl
@[simp] theorem Dev.modManifest_cells (d : Dev) (f : ManifestSt → ManifestSt) : (d.modManifest f).cells = d.cells := rfl
@[simp] theorem Dev.modManifest_time (d : Dev) (f : ManifestSt → ManifestSt) : (d.modManifest f).time = d.time := rfl
@[simp] theorem Dev.modManifest_storage (d : Dev) (f : ManifestSt → ManifestSt) : (d.modManifest f).storage = d.storage := rfl
@[simp] theorem Dev.modManifest_sec (d : Dev) (f : ManifestSt → ManifestSt) : (d.modManifest f).sec = d.sec := rfl
@[simp] theorem Dev.modManifest_ctrl (d : Dev) (f : ManifestSt → ManifestSt) : (d.modManifest f).ctrl = d.ctrl := rfl
@[simp] theorem Dev.modManifest_cores (d : Dev) (f : ManifestSt → ManifestSt) : (d.modManifest f).cores = d.cores := rfl
@[simp] theorem Dev.modManifest_rel (d : Dev) (f : ManifestSt → ManifestSt) : (d.modManifest f).rel = d.rel := rfl
@[simp] theorem Dev.modManifest_obs (d : Dev) (f : ManifestSt → ManifestSt) : (d.modManifest f).obs = d.obs := rfl
@[simp] theorem Dev.modManifest_ledger (d : Dev) (f : ManifestSt → ManifestSt) : (d.modManifest f).ledger = d.ledger := rfl
@[simp] theorem Dev.modManifest_heldCmds (d : Dev) (f : ManifestSt → ManifestSt) : (d.modManifest f).heldCmds = d.heldCmds := rfl
@[simp] theorem Dev.modManifest_unsent (d : Dev) (f : ManifestSt → ManifestSt) : (d.modManifest f).unsent = d.unsent := rfl
@[simp] theorem Dev.modManifest_out (d : Dev) (f : ManifestSt → ManifestSt) : (d.modManifest f).out = d.out := rfl
@[simp] theorem Dev.modManifest_fresh (d : Dev) (f : ManifestSt → ManifestSt) : (d.modManifest f).fresh = d.fresh := rfl

@[simp] theorem Dev.modExpert_expert (d : Dev) (f : Expert → Expert) : (d.modExpert f).expert = f d.expert := rfl
@[simp] theorem Dev.modExpert_uptime (d : Dev) (f : Expert → Expert) : (d.modExpert f).uptime = d.uptime := rfl
@[simp] theorem Dev.modExpert_csr (d : Dev) (f : Expert → Expert) : (d.modExpert f).csr = d.csr := rfl
@[simp] theorem Dev.modExpert_power (d : Dev) (f : Expert → Expert) : (d.modExpert f).power = d.power := rfl
@[simp] theorem Dev.modExpert_boot (d : Dev) (f : Expert → Expert) : (d.modExpert f).boot = d.boot := rfl
@[simp] theorem Dev.modExpert_manifest (d : Dev) (f : Expert → Expert) : (d.modExpert f).manifest = d.manifest := rfl
@[simp] theorem Dev.modExpert_mailbox (d : Dev) (f : Expert → Expert) : (d.modExpert f).mailbox = d.mailbox := rfl
@[simp] theorem Dev.modExpert_canal (d : Dev) (f : Expert → Expert) : (d.modExpert f).canal = d.canal := rfl
@[simp] theorem Dev.modExpert_locks (d : Dev) (f : Expert → Expert) : (d.modExpert f).locks = d.locks := rfl
@[simp] theorem Dev.modExpert_tiles (d : Dev) (f : Expert → Expert) : (d.modExpert f).tiles = d.tiles := rfl
@[simp] theorem Dev.modExpert_reduce (d : Dev) (f : Expert → Expert) : (d.modExpert f).reduce = d.reduce := rfl
@[simp] theorem Dev.modExpert_mem (d : Dev) (f : Expert → Expert) : (d.modExpert f).mem = d.mem := rfl
@[simp] theorem Dev.modExpert_hbm (d : Dev) (f : Expert → Expert) : (d.modExpert f).hbm = d.hbm := rfl
@[simp] theorem Dev.modExpert_wharf (d : Dev) (f : Expert → Expert) : (d.modExpert f).wharf = d.wharf := rfl
@[simp] theorem Dev.modExpert_kv (d : Dev) (f : Expert → Expert) : (d.modExpert f).kv = d.kv := rfl
@[simp] theorem Dev.modExpert_host (d : Dev) (f : Expert → Expert) : (d.modExpert f).host = d.host := rfl
@[simp] theorem Dev.modExpert_acc (d : Dev) (f : Expert → Expert) : (d.modExpert f).acc = d.acc := rfl
@[simp] theorem Dev.modExpert_net (d : Dev) (f : Expert → Expert) : (d.modExpert f).net = d.net := rfl
@[simp] theorem Dev.modExpert_tp (d : Dev) (f : Expert → Expert) : (d.modExpert f).tp = d.tp := rfl
@[simp] theorem Dev.modExpert_ring (d : Dev) (f : Expert → Expert) : (d.modExpert f).ring = d.ring := rfl
@[simp] theorem Dev.modExpert_cells (d : Dev) (f : Expert → Expert) : (d.modExpert f).cells = d.cells := rfl
@[simp] theorem Dev.modExpert_time (d : Dev) (f : Expert → Expert) : (d.modExpert f).time = d.time := rfl
@[simp] theorem Dev.modExpert_storage (d : Dev) (f : Expert → Expert) : (d.modExpert f).storage = d.storage := rfl
@[simp] theorem Dev.modExpert_sec (d : Dev) (f : Expert → Expert) : (d.modExpert f).sec = d.sec := rfl
@[simp] theorem Dev.modExpert_ctrl (d : Dev) (f : Expert → Expert) : (d.modExpert f).ctrl = d.ctrl := rfl
@[simp] theorem Dev.modExpert_cores (d : Dev) (f : Expert → Expert) : (d.modExpert f).cores = d.cores := rfl
@[simp] theorem Dev.modExpert_rel (d : Dev) (f : Expert → Expert) : (d.modExpert f).rel = d.rel := rfl
@[simp] theorem Dev.modExpert_obs (d : Dev) (f : Expert → Expert) : (d.modExpert f).obs = d.obs := rfl
@[simp] theorem Dev.modExpert_ledger (d : Dev) (f : Expert → Expert) : (d.modExpert f).ledger = d.ledger := rfl
@[simp] theorem Dev.modExpert_heldCmds (d : Dev) (f : Expert → Expert) : (d.modExpert f).heldCmds = d.heldCmds := rfl
@[simp] theorem Dev.modExpert_unsent (d : Dev) (f : Expert → Expert) : (d.modExpert f).unsent = d.unsent := rfl
@[simp] theorem Dev.modExpert_out (d : Dev) (f : Expert → Expert) : (d.modExpert f).out = d.out := rfl
@[simp] theorem Dev.modExpert_fresh (d : Dev) (f : Expert → Expert) : (d.modExpert f).fresh = d.fresh := rfl

@[simp] theorem Dev.modMailbox_mailbox (d : Dev) (f : Mailbox → Mailbox) : (d.modMailbox f).mailbox = f d.mailbox := rfl
@[simp] theorem Dev.modMailbox_uptime (d : Dev) (f : Mailbox → Mailbox) : (d.modMailbox f).uptime = d.uptime := rfl
@[simp] theorem Dev.modMailbox_csr (d : Dev) (f : Mailbox → Mailbox) : (d.modMailbox f).csr = d.csr := rfl
@[simp] theorem Dev.modMailbox_power (d : Dev) (f : Mailbox → Mailbox) : (d.modMailbox f).power = d.power := rfl
@[simp] theorem Dev.modMailbox_boot (d : Dev) (f : Mailbox → Mailbox) : (d.modMailbox f).boot = d.boot := rfl
@[simp] theorem Dev.modMailbox_manifest (d : Dev) (f : Mailbox → Mailbox) : (d.modMailbox f).manifest = d.manifest := rfl
@[simp] theorem Dev.modMailbox_expert (d : Dev) (f : Mailbox → Mailbox) : (d.modMailbox f).expert = d.expert := rfl
@[simp] theorem Dev.modMailbox_canal (d : Dev) (f : Mailbox → Mailbox) : (d.modMailbox f).canal = d.canal := rfl
@[simp] theorem Dev.modMailbox_locks (d : Dev) (f : Mailbox → Mailbox) : (d.modMailbox f).locks = d.locks := rfl
@[simp] theorem Dev.modMailbox_tiles (d : Dev) (f : Mailbox → Mailbox) : (d.modMailbox f).tiles = d.tiles := rfl
@[simp] theorem Dev.modMailbox_reduce (d : Dev) (f : Mailbox → Mailbox) : (d.modMailbox f).reduce = d.reduce := rfl
@[simp] theorem Dev.modMailbox_mem (d : Dev) (f : Mailbox → Mailbox) : (d.modMailbox f).mem = d.mem := rfl
@[simp] theorem Dev.modMailbox_hbm (d : Dev) (f : Mailbox → Mailbox) : (d.modMailbox f).hbm = d.hbm := rfl
@[simp] theorem Dev.modMailbox_wharf (d : Dev) (f : Mailbox → Mailbox) : (d.modMailbox f).wharf = d.wharf := rfl
@[simp] theorem Dev.modMailbox_kv (d : Dev) (f : Mailbox → Mailbox) : (d.modMailbox f).kv = d.kv := rfl
@[simp] theorem Dev.modMailbox_host (d : Dev) (f : Mailbox → Mailbox) : (d.modMailbox f).host = d.host := rfl
@[simp] theorem Dev.modMailbox_acc (d : Dev) (f : Mailbox → Mailbox) : (d.modMailbox f).acc = d.acc := rfl
@[simp] theorem Dev.modMailbox_net (d : Dev) (f : Mailbox → Mailbox) : (d.modMailbox f).net = d.net := rfl
@[simp] theorem Dev.modMailbox_tp (d : Dev) (f : Mailbox → Mailbox) : (d.modMailbox f).tp = d.tp := rfl
@[simp] theorem Dev.modMailbox_ring (d : Dev) (f : Mailbox → Mailbox) : (d.modMailbox f).ring = d.ring := rfl
@[simp] theorem Dev.modMailbox_cells (d : Dev) (f : Mailbox → Mailbox) : (d.modMailbox f).cells = d.cells := rfl
@[simp] theorem Dev.modMailbox_time (d : Dev) (f : Mailbox → Mailbox) : (d.modMailbox f).time = d.time := rfl
@[simp] theorem Dev.modMailbox_storage (d : Dev) (f : Mailbox → Mailbox) : (d.modMailbox f).storage = d.storage := rfl
@[simp] theorem Dev.modMailbox_sec (d : Dev) (f : Mailbox → Mailbox) : (d.modMailbox f).sec = d.sec := rfl
@[simp] theorem Dev.modMailbox_ctrl (d : Dev) (f : Mailbox → Mailbox) : (d.modMailbox f).ctrl = d.ctrl := rfl
@[simp] theorem Dev.modMailbox_cores (d : Dev) (f : Mailbox → Mailbox) : (d.modMailbox f).cores = d.cores := rfl
@[simp] theorem Dev.modMailbox_rel (d : Dev) (f : Mailbox → Mailbox) : (d.modMailbox f).rel = d.rel := rfl
@[simp] theorem Dev.modMailbox_obs (d : Dev) (f : Mailbox → Mailbox) : (d.modMailbox f).obs = d.obs := rfl
@[simp] theorem Dev.modMailbox_ledger (d : Dev) (f : Mailbox → Mailbox) : (d.modMailbox f).ledger = d.ledger := rfl
@[simp] theorem Dev.modMailbox_heldCmds (d : Dev) (f : Mailbox → Mailbox) : (d.modMailbox f).heldCmds = d.heldCmds := rfl
@[simp] theorem Dev.modMailbox_unsent (d : Dev) (f : Mailbox → Mailbox) : (d.modMailbox f).unsent = d.unsent := rfl
@[simp] theorem Dev.modMailbox_out (d : Dev) (f : Mailbox → Mailbox) : (d.modMailbox f).out = d.out := rfl
@[simp] theorem Dev.modMailbox_fresh (d : Dev) (f : Mailbox → Mailbox) : (d.modMailbox f).fresh = d.fresh := rfl

@[simp] theorem Dev.modCanal_canal (d : Dev) (f : Canal → Canal) : (d.modCanal f).canal = f d.canal := rfl
@[simp] theorem Dev.modCanal_uptime (d : Dev) (f : Canal → Canal) : (d.modCanal f).uptime = d.uptime := rfl
@[simp] theorem Dev.modCanal_csr (d : Dev) (f : Canal → Canal) : (d.modCanal f).csr = d.csr := rfl
@[simp] theorem Dev.modCanal_power (d : Dev) (f : Canal → Canal) : (d.modCanal f).power = d.power := rfl
@[simp] theorem Dev.modCanal_boot (d : Dev) (f : Canal → Canal) : (d.modCanal f).boot = d.boot := rfl
@[simp] theorem Dev.modCanal_manifest (d : Dev) (f : Canal → Canal) : (d.modCanal f).manifest = d.manifest := rfl
@[simp] theorem Dev.modCanal_expert (d : Dev) (f : Canal → Canal) : (d.modCanal f).expert = d.expert := rfl
@[simp] theorem Dev.modCanal_mailbox (d : Dev) (f : Canal → Canal) : (d.modCanal f).mailbox = d.mailbox := rfl
@[simp] theorem Dev.modCanal_locks (d : Dev) (f : Canal → Canal) : (d.modCanal f).locks = d.locks := rfl
@[simp] theorem Dev.modCanal_tiles (d : Dev) (f : Canal → Canal) : (d.modCanal f).tiles = d.tiles := rfl
@[simp] theorem Dev.modCanal_reduce (d : Dev) (f : Canal → Canal) : (d.modCanal f).reduce = d.reduce := rfl
@[simp] theorem Dev.modCanal_mem (d : Dev) (f : Canal → Canal) : (d.modCanal f).mem = d.mem := rfl
@[simp] theorem Dev.modCanal_hbm (d : Dev) (f : Canal → Canal) : (d.modCanal f).hbm = d.hbm := rfl
@[simp] theorem Dev.modCanal_wharf (d : Dev) (f : Canal → Canal) : (d.modCanal f).wharf = d.wharf := rfl
@[simp] theorem Dev.modCanal_kv (d : Dev) (f : Canal → Canal) : (d.modCanal f).kv = d.kv := rfl
@[simp] theorem Dev.modCanal_host (d : Dev) (f : Canal → Canal) : (d.modCanal f).host = d.host := rfl
@[simp] theorem Dev.modCanal_acc (d : Dev) (f : Canal → Canal) : (d.modCanal f).acc = d.acc := rfl
@[simp] theorem Dev.modCanal_net (d : Dev) (f : Canal → Canal) : (d.modCanal f).net = d.net := rfl
@[simp] theorem Dev.modCanal_tp (d : Dev) (f : Canal → Canal) : (d.modCanal f).tp = d.tp := rfl
@[simp] theorem Dev.modCanal_ring (d : Dev) (f : Canal → Canal) : (d.modCanal f).ring = d.ring := rfl
@[simp] theorem Dev.modCanal_cells (d : Dev) (f : Canal → Canal) : (d.modCanal f).cells = d.cells := rfl
@[simp] theorem Dev.modCanal_time (d : Dev) (f : Canal → Canal) : (d.modCanal f).time = d.time := rfl
@[simp] theorem Dev.modCanal_storage (d : Dev) (f : Canal → Canal) : (d.modCanal f).storage = d.storage := rfl
@[simp] theorem Dev.modCanal_sec (d : Dev) (f : Canal → Canal) : (d.modCanal f).sec = d.sec := rfl
@[simp] theorem Dev.modCanal_ctrl (d : Dev) (f : Canal → Canal) : (d.modCanal f).ctrl = d.ctrl := rfl
@[simp] theorem Dev.modCanal_cores (d : Dev) (f : Canal → Canal) : (d.modCanal f).cores = d.cores := rfl
@[simp] theorem Dev.modCanal_rel (d : Dev) (f : Canal → Canal) : (d.modCanal f).rel = d.rel := rfl
@[simp] theorem Dev.modCanal_obs (d : Dev) (f : Canal → Canal) : (d.modCanal f).obs = d.obs := rfl
@[simp] theorem Dev.modCanal_ledger (d : Dev) (f : Canal → Canal) : (d.modCanal f).ledger = d.ledger := rfl
@[simp] theorem Dev.modCanal_heldCmds (d : Dev) (f : Canal → Canal) : (d.modCanal f).heldCmds = d.heldCmds := rfl
@[simp] theorem Dev.modCanal_unsent (d : Dev) (f : Canal → Canal) : (d.modCanal f).unsent = d.unsent := rfl
@[simp] theorem Dev.modCanal_out (d : Dev) (f : Canal → Canal) : (d.modCanal f).out = d.out := rfl
@[simp] theorem Dev.modCanal_fresh (d : Dev) (f : Canal → Canal) : (d.modCanal f).fresh = d.fresh := rfl

@[simp] theorem Dev.modLocks_locks (d : Dev) (f : Locks → Locks) : (d.modLocks f).locks = f d.locks := rfl
@[simp] theorem Dev.modLocks_uptime (d : Dev) (f : Locks → Locks) : (d.modLocks f).uptime = d.uptime := rfl
@[simp] theorem Dev.modLocks_csr (d : Dev) (f : Locks → Locks) : (d.modLocks f).csr = d.csr := rfl
@[simp] theorem Dev.modLocks_power (d : Dev) (f : Locks → Locks) : (d.modLocks f).power = d.power := rfl
@[simp] theorem Dev.modLocks_boot (d : Dev) (f : Locks → Locks) : (d.modLocks f).boot = d.boot := rfl
@[simp] theorem Dev.modLocks_manifest (d : Dev) (f : Locks → Locks) : (d.modLocks f).manifest = d.manifest := rfl
@[simp] theorem Dev.modLocks_expert (d : Dev) (f : Locks → Locks) : (d.modLocks f).expert = d.expert := rfl
@[simp] theorem Dev.modLocks_mailbox (d : Dev) (f : Locks → Locks) : (d.modLocks f).mailbox = d.mailbox := rfl
@[simp] theorem Dev.modLocks_canal (d : Dev) (f : Locks → Locks) : (d.modLocks f).canal = d.canal := rfl
@[simp] theorem Dev.modLocks_tiles (d : Dev) (f : Locks → Locks) : (d.modLocks f).tiles = d.tiles := rfl
@[simp] theorem Dev.modLocks_reduce (d : Dev) (f : Locks → Locks) : (d.modLocks f).reduce = d.reduce := rfl
@[simp] theorem Dev.modLocks_mem (d : Dev) (f : Locks → Locks) : (d.modLocks f).mem = d.mem := rfl
@[simp] theorem Dev.modLocks_hbm (d : Dev) (f : Locks → Locks) : (d.modLocks f).hbm = d.hbm := rfl
@[simp] theorem Dev.modLocks_wharf (d : Dev) (f : Locks → Locks) : (d.modLocks f).wharf = d.wharf := rfl
@[simp] theorem Dev.modLocks_kv (d : Dev) (f : Locks → Locks) : (d.modLocks f).kv = d.kv := rfl
@[simp] theorem Dev.modLocks_host (d : Dev) (f : Locks → Locks) : (d.modLocks f).host = d.host := rfl
@[simp] theorem Dev.modLocks_acc (d : Dev) (f : Locks → Locks) : (d.modLocks f).acc = d.acc := rfl
@[simp] theorem Dev.modLocks_net (d : Dev) (f : Locks → Locks) : (d.modLocks f).net = d.net := rfl
@[simp] theorem Dev.modLocks_tp (d : Dev) (f : Locks → Locks) : (d.modLocks f).tp = d.tp := rfl
@[simp] theorem Dev.modLocks_ring (d : Dev) (f : Locks → Locks) : (d.modLocks f).ring = d.ring := rfl
@[simp] theorem Dev.modLocks_cells (d : Dev) (f : Locks → Locks) : (d.modLocks f).cells = d.cells := rfl
@[simp] theorem Dev.modLocks_time (d : Dev) (f : Locks → Locks) : (d.modLocks f).time = d.time := rfl
@[simp] theorem Dev.modLocks_storage (d : Dev) (f : Locks → Locks) : (d.modLocks f).storage = d.storage := rfl
@[simp] theorem Dev.modLocks_sec (d : Dev) (f : Locks → Locks) : (d.modLocks f).sec = d.sec := rfl
@[simp] theorem Dev.modLocks_ctrl (d : Dev) (f : Locks → Locks) : (d.modLocks f).ctrl = d.ctrl := rfl
@[simp] theorem Dev.modLocks_cores (d : Dev) (f : Locks → Locks) : (d.modLocks f).cores = d.cores := rfl
@[simp] theorem Dev.modLocks_rel (d : Dev) (f : Locks → Locks) : (d.modLocks f).rel = d.rel := rfl
@[simp] theorem Dev.modLocks_obs (d : Dev) (f : Locks → Locks) : (d.modLocks f).obs = d.obs := rfl
@[simp] theorem Dev.modLocks_ledger (d : Dev) (f : Locks → Locks) : (d.modLocks f).ledger = d.ledger := rfl
@[simp] theorem Dev.modLocks_heldCmds (d : Dev) (f : Locks → Locks) : (d.modLocks f).heldCmds = d.heldCmds := rfl
@[simp] theorem Dev.modLocks_unsent (d : Dev) (f : Locks → Locks) : (d.modLocks f).unsent = d.unsent := rfl
@[simp] theorem Dev.modLocks_out (d : Dev) (f : Locks → Locks) : (d.modLocks f).out = d.out := rfl
@[simp] theorem Dev.modLocks_fresh (d : Dev) (f : Locks → Locks) : (d.modLocks f).fresh = d.fresh := rfl

@[simp] theorem Dev.modReduce_reduce (d : Dev) (f : Reduce → Reduce) : (d.modReduce f).reduce = f d.reduce := rfl
@[simp] theorem Dev.modReduce_uptime (d : Dev) (f : Reduce → Reduce) : (d.modReduce f).uptime = d.uptime := rfl
@[simp] theorem Dev.modReduce_csr (d : Dev) (f : Reduce → Reduce) : (d.modReduce f).csr = d.csr := rfl
@[simp] theorem Dev.modReduce_power (d : Dev) (f : Reduce → Reduce) : (d.modReduce f).power = d.power := rfl
@[simp] theorem Dev.modReduce_boot (d : Dev) (f : Reduce → Reduce) : (d.modReduce f).boot = d.boot := rfl
@[simp] theorem Dev.modReduce_manifest (d : Dev) (f : Reduce → Reduce) : (d.modReduce f).manifest = d.manifest := rfl
@[simp] theorem Dev.modReduce_expert (d : Dev) (f : Reduce → Reduce) : (d.modReduce f).expert = d.expert := rfl
@[simp] theorem Dev.modReduce_mailbox (d : Dev) (f : Reduce → Reduce) : (d.modReduce f).mailbox = d.mailbox := rfl
@[simp] theorem Dev.modReduce_canal (d : Dev) (f : Reduce → Reduce) : (d.modReduce f).canal = d.canal := rfl
@[simp] theorem Dev.modReduce_locks (d : Dev) (f : Reduce → Reduce) : (d.modReduce f).locks = d.locks := rfl
@[simp] theorem Dev.modReduce_tiles (d : Dev) (f : Reduce → Reduce) : (d.modReduce f).tiles = d.tiles := rfl
@[simp] theorem Dev.modReduce_mem (d : Dev) (f : Reduce → Reduce) : (d.modReduce f).mem = d.mem := rfl
@[simp] theorem Dev.modReduce_hbm (d : Dev) (f : Reduce → Reduce) : (d.modReduce f).hbm = d.hbm := rfl
@[simp] theorem Dev.modReduce_wharf (d : Dev) (f : Reduce → Reduce) : (d.modReduce f).wharf = d.wharf := rfl
@[simp] theorem Dev.modReduce_kv (d : Dev) (f : Reduce → Reduce) : (d.modReduce f).kv = d.kv := rfl
@[simp] theorem Dev.modReduce_host (d : Dev) (f : Reduce → Reduce) : (d.modReduce f).host = d.host := rfl
@[simp] theorem Dev.modReduce_acc (d : Dev) (f : Reduce → Reduce) : (d.modReduce f).acc = d.acc := rfl
@[simp] theorem Dev.modReduce_net (d : Dev) (f : Reduce → Reduce) : (d.modReduce f).net = d.net := rfl
@[simp] theorem Dev.modReduce_tp (d : Dev) (f : Reduce → Reduce) : (d.modReduce f).tp = d.tp := rfl
@[simp] theorem Dev.modReduce_ring (d : Dev) (f : Reduce → Reduce) : (d.modReduce f).ring = d.ring := rfl
@[simp] theorem Dev.modReduce_cells (d : Dev) (f : Reduce → Reduce) : (d.modReduce f).cells = d.cells := rfl
@[simp] theorem Dev.modReduce_time (d : Dev) (f : Reduce → Reduce) : (d.modReduce f).time = d.time := rfl
@[simp] theorem Dev.modReduce_storage (d : Dev) (f : Reduce → Reduce) : (d.modReduce f).storage = d.storage := rfl
@[simp] theorem Dev.modReduce_sec (d : Dev) (f : Reduce → Reduce) : (d.modReduce f).sec = d.sec := rfl
@[simp] theorem Dev.modReduce_ctrl (d : Dev) (f : Reduce → Reduce) : (d.modReduce f).ctrl = d.ctrl := rfl
@[simp] theorem Dev.modReduce_cores (d : Dev) (f : Reduce → Reduce) : (d.modReduce f).cores = d.cores := rfl
@[simp] theorem Dev.modReduce_rel (d : Dev) (f : Reduce → Reduce) : (d.modReduce f).rel = d.rel := rfl
@[simp] theorem Dev.modReduce_obs (d : Dev) (f : Reduce → Reduce) : (d.modReduce f).obs = d.obs := rfl
@[simp] theorem Dev.modReduce_ledger (d : Dev) (f : Reduce → Reduce) : (d.modReduce f).ledger = d.ledger := rfl
@[simp] theorem Dev.modReduce_heldCmds (d : Dev) (f : Reduce → Reduce) : (d.modReduce f).heldCmds = d.heldCmds := rfl
@[simp] theorem Dev.modReduce_unsent (d : Dev) (f : Reduce → Reduce) : (d.modReduce f).unsent = d.unsent := rfl
@[simp] theorem Dev.modReduce_out (d : Dev) (f : Reduce → Reduce) : (d.modReduce f).out = d.out := rfl
@[simp] theorem Dev.modReduce_fresh (d : Dev) (f : Reduce → Reduce) : (d.modReduce f).fresh = d.fresh := rfl

@[simp] theorem Dev.modHbm_hbm (d : Dev) (f : Hbm → Hbm) : (d.modHbm f).hbm = f d.hbm := rfl
@[simp] theorem Dev.modHbm_uptime (d : Dev) (f : Hbm → Hbm) : (d.modHbm f).uptime = d.uptime := rfl
@[simp] theorem Dev.modHbm_csr (d : Dev) (f : Hbm → Hbm) : (d.modHbm f).csr = d.csr := rfl
@[simp] theorem Dev.modHbm_power (d : Dev) (f : Hbm → Hbm) : (d.modHbm f).power = d.power := rfl
@[simp] theorem Dev.modHbm_boot (d : Dev) (f : Hbm → Hbm) : (d.modHbm f).boot = d.boot := rfl
@[simp] theorem Dev.modHbm_manifest (d : Dev) (f : Hbm → Hbm) : (d.modHbm f).manifest = d.manifest := rfl
@[simp] theorem Dev.modHbm_expert (d : Dev) (f : Hbm → Hbm) : (d.modHbm f).expert = d.expert := rfl
@[simp] theorem Dev.modHbm_mailbox (d : Dev) (f : Hbm → Hbm) : (d.modHbm f).mailbox = d.mailbox := rfl
@[simp] theorem Dev.modHbm_canal (d : Dev) (f : Hbm → Hbm) : (d.modHbm f).canal = d.canal := rfl
@[simp] theorem Dev.modHbm_locks (d : Dev) (f : Hbm → Hbm) : (d.modHbm f).locks = d.locks := rfl
@[simp] theorem Dev.modHbm_tiles (d : Dev) (f : Hbm → Hbm) : (d.modHbm f).tiles = d.tiles := rfl
@[simp] theorem Dev.modHbm_reduce (d : Dev) (f : Hbm → Hbm) : (d.modHbm f).reduce = d.reduce := rfl
@[simp] theorem Dev.modHbm_mem (d : Dev) (f : Hbm → Hbm) : (d.modHbm f).mem = d.mem := rfl
@[simp] theorem Dev.modHbm_wharf (d : Dev) (f : Hbm → Hbm) : (d.modHbm f).wharf = d.wharf := rfl
@[simp] theorem Dev.modHbm_kv (d : Dev) (f : Hbm → Hbm) : (d.modHbm f).kv = d.kv := rfl
@[simp] theorem Dev.modHbm_host (d : Dev) (f : Hbm → Hbm) : (d.modHbm f).host = d.host := rfl
@[simp] theorem Dev.modHbm_acc (d : Dev) (f : Hbm → Hbm) : (d.modHbm f).acc = d.acc := rfl
@[simp] theorem Dev.modHbm_net (d : Dev) (f : Hbm → Hbm) : (d.modHbm f).net = d.net := rfl
@[simp] theorem Dev.modHbm_tp (d : Dev) (f : Hbm → Hbm) : (d.modHbm f).tp = d.tp := rfl
@[simp] theorem Dev.modHbm_ring (d : Dev) (f : Hbm → Hbm) : (d.modHbm f).ring = d.ring := rfl
@[simp] theorem Dev.modHbm_cells (d : Dev) (f : Hbm → Hbm) : (d.modHbm f).cells = d.cells := rfl
@[simp] theorem Dev.modHbm_time (d : Dev) (f : Hbm → Hbm) : (d.modHbm f).time = d.time := rfl
@[simp] theorem Dev.modHbm_storage (d : Dev) (f : Hbm → Hbm) : (d.modHbm f).storage = d.storage := rfl
@[simp] theorem Dev.modHbm_sec (d : Dev) (f : Hbm → Hbm) : (d.modHbm f).sec = d.sec := rfl
@[simp] theorem Dev.modHbm_ctrl (d : Dev) (f : Hbm → Hbm) : (d.modHbm f).ctrl = d.ctrl := rfl
@[simp] theorem Dev.modHbm_cores (d : Dev) (f : Hbm → Hbm) : (d.modHbm f).cores = d.cores := rfl
@[simp] theorem Dev.modHbm_rel (d : Dev) (f : Hbm → Hbm) : (d.modHbm f).rel = d.rel := rfl
@[simp] theorem Dev.modHbm_obs (d : Dev) (f : Hbm → Hbm) : (d.modHbm f).obs = d.obs := rfl
@[simp] theorem Dev.modHbm_ledger (d : Dev) (f : Hbm → Hbm) : (d.modHbm f).ledger = d.ledger := rfl
@[simp] theorem Dev.modHbm_heldCmds (d : Dev) (f : Hbm → Hbm) : (d.modHbm f).heldCmds = d.heldCmds := rfl
@[simp] theorem Dev.modHbm_unsent (d : Dev) (f : Hbm → Hbm) : (d.modHbm f).unsent = d.unsent := rfl
@[simp] theorem Dev.modHbm_out (d : Dev) (f : Hbm → Hbm) : (d.modHbm f).out = d.out := rfl
@[simp] theorem Dev.modHbm_fresh (d : Dev) (f : Hbm → Hbm) : (d.modHbm f).fresh = d.fresh := rfl

@[simp] theorem Dev.modWharf_wharf (d : Dev) (f : Wharf → Wharf) : (d.modWharf f).wharf = f d.wharf := rfl
@[simp] theorem Dev.modWharf_uptime (d : Dev) (f : Wharf → Wharf) : (d.modWharf f).uptime = d.uptime := rfl
@[simp] theorem Dev.modWharf_csr (d : Dev) (f : Wharf → Wharf) : (d.modWharf f).csr = d.csr := rfl
@[simp] theorem Dev.modWharf_power (d : Dev) (f : Wharf → Wharf) : (d.modWharf f).power = d.power := rfl
@[simp] theorem Dev.modWharf_boot (d : Dev) (f : Wharf → Wharf) : (d.modWharf f).boot = d.boot := rfl
@[simp] theorem Dev.modWharf_manifest (d : Dev) (f : Wharf → Wharf) : (d.modWharf f).manifest = d.manifest := rfl
@[simp] theorem Dev.modWharf_expert (d : Dev) (f : Wharf → Wharf) : (d.modWharf f).expert = d.expert := rfl
@[simp] theorem Dev.modWharf_mailbox (d : Dev) (f : Wharf → Wharf) : (d.modWharf f).mailbox = d.mailbox := rfl
@[simp] theorem Dev.modWharf_canal (d : Dev) (f : Wharf → Wharf) : (d.modWharf f).canal = d.canal := rfl
@[simp] theorem Dev.modWharf_locks (d : Dev) (f : Wharf → Wharf) : (d.modWharf f).locks = d.locks := rfl
@[simp] theorem Dev.modWharf_tiles (d : Dev) (f : Wharf → Wharf) : (d.modWharf f).tiles = d.tiles := rfl
@[simp] theorem Dev.modWharf_reduce (d : Dev) (f : Wharf → Wharf) : (d.modWharf f).reduce = d.reduce := rfl
@[simp] theorem Dev.modWharf_mem (d : Dev) (f : Wharf → Wharf) : (d.modWharf f).mem = d.mem := rfl
@[simp] theorem Dev.modWharf_hbm (d : Dev) (f : Wharf → Wharf) : (d.modWharf f).hbm = d.hbm := rfl
@[simp] theorem Dev.modWharf_kv (d : Dev) (f : Wharf → Wharf) : (d.modWharf f).kv = d.kv := rfl
@[simp] theorem Dev.modWharf_host (d : Dev) (f : Wharf → Wharf) : (d.modWharf f).host = d.host := rfl
@[simp] theorem Dev.modWharf_acc (d : Dev) (f : Wharf → Wharf) : (d.modWharf f).acc = d.acc := rfl
@[simp] theorem Dev.modWharf_net (d : Dev) (f : Wharf → Wharf) : (d.modWharf f).net = d.net := rfl
@[simp] theorem Dev.modWharf_tp (d : Dev) (f : Wharf → Wharf) : (d.modWharf f).tp = d.tp := rfl
@[simp] theorem Dev.modWharf_ring (d : Dev) (f : Wharf → Wharf) : (d.modWharf f).ring = d.ring := rfl
@[simp] theorem Dev.modWharf_cells (d : Dev) (f : Wharf → Wharf) : (d.modWharf f).cells = d.cells := rfl
@[simp] theorem Dev.modWharf_time (d : Dev) (f : Wharf → Wharf) : (d.modWharf f).time = d.time := rfl
@[simp] theorem Dev.modWharf_storage (d : Dev) (f : Wharf → Wharf) : (d.modWharf f).storage = d.storage := rfl
@[simp] theorem Dev.modWharf_sec (d : Dev) (f : Wharf → Wharf) : (d.modWharf f).sec = d.sec := rfl
@[simp] theorem Dev.modWharf_ctrl (d : Dev) (f : Wharf → Wharf) : (d.modWharf f).ctrl = d.ctrl := rfl
@[simp] theorem Dev.modWharf_cores (d : Dev) (f : Wharf → Wharf) : (d.modWharf f).cores = d.cores := rfl
@[simp] theorem Dev.modWharf_rel (d : Dev) (f : Wharf → Wharf) : (d.modWharf f).rel = d.rel := rfl
@[simp] theorem Dev.modWharf_obs (d : Dev) (f : Wharf → Wharf) : (d.modWharf f).obs = d.obs := rfl
@[simp] theorem Dev.modWharf_ledger (d : Dev) (f : Wharf → Wharf) : (d.modWharf f).ledger = d.ledger := rfl
@[simp] theorem Dev.modWharf_heldCmds (d : Dev) (f : Wharf → Wharf) : (d.modWharf f).heldCmds = d.heldCmds := rfl
@[simp] theorem Dev.modWharf_unsent (d : Dev) (f : Wharf → Wharf) : (d.modWharf f).unsent = d.unsent := rfl
@[simp] theorem Dev.modWharf_out (d : Dev) (f : Wharf → Wharf) : (d.modWharf f).out = d.out := rfl
@[simp] theorem Dev.modWharf_fresh (d : Dev) (f : Wharf → Wharf) : (d.modWharf f).fresh = d.fresh := rfl

@[simp] theorem Dev.modKv_kv (d : Dev) (f : Kv → Kv) : (d.modKv f).kv = f d.kv := rfl
@[simp] theorem Dev.modKv_uptime (d : Dev) (f : Kv → Kv) : (d.modKv f).uptime = d.uptime := rfl
@[simp] theorem Dev.modKv_csr (d : Dev) (f : Kv → Kv) : (d.modKv f).csr = d.csr := rfl
@[simp] theorem Dev.modKv_power (d : Dev) (f : Kv → Kv) : (d.modKv f).power = d.power := rfl
@[simp] theorem Dev.modKv_boot (d : Dev) (f : Kv → Kv) : (d.modKv f).boot = d.boot := rfl
@[simp] theorem Dev.modKv_manifest (d : Dev) (f : Kv → Kv) : (d.modKv f).manifest = d.manifest := rfl
@[simp] theorem Dev.modKv_expert (d : Dev) (f : Kv → Kv) : (d.modKv f).expert = d.expert := rfl
@[simp] theorem Dev.modKv_mailbox (d : Dev) (f : Kv → Kv) : (d.modKv f).mailbox = d.mailbox := rfl
@[simp] theorem Dev.modKv_canal (d : Dev) (f : Kv → Kv) : (d.modKv f).canal = d.canal := rfl
@[simp] theorem Dev.modKv_locks (d : Dev) (f : Kv → Kv) : (d.modKv f).locks = d.locks := rfl
@[simp] theorem Dev.modKv_tiles (d : Dev) (f : Kv → Kv) : (d.modKv f).tiles = d.tiles := rfl
@[simp] theorem Dev.modKv_reduce (d : Dev) (f : Kv → Kv) : (d.modKv f).reduce = d.reduce := rfl
@[simp] theorem Dev.modKv_mem (d : Dev) (f : Kv → Kv) : (d.modKv f).mem = d.mem := rfl
@[simp] theorem Dev.modKv_hbm (d : Dev) (f : Kv → Kv) : (d.modKv f).hbm = d.hbm := rfl
@[simp] theorem Dev.modKv_wharf (d : Dev) (f : Kv → Kv) : (d.modKv f).wharf = d.wharf := rfl
@[simp] theorem Dev.modKv_host (d : Dev) (f : Kv → Kv) : (d.modKv f).host = d.host := rfl
@[simp] theorem Dev.modKv_acc (d : Dev) (f : Kv → Kv) : (d.modKv f).acc = d.acc := rfl
@[simp] theorem Dev.modKv_net (d : Dev) (f : Kv → Kv) : (d.modKv f).net = d.net := rfl
@[simp] theorem Dev.modKv_tp (d : Dev) (f : Kv → Kv) : (d.modKv f).tp = d.tp := rfl
@[simp] theorem Dev.modKv_ring (d : Dev) (f : Kv → Kv) : (d.modKv f).ring = d.ring := rfl
@[simp] theorem Dev.modKv_cells (d : Dev) (f : Kv → Kv) : (d.modKv f).cells = d.cells := rfl
@[simp] theorem Dev.modKv_time (d : Dev) (f : Kv → Kv) : (d.modKv f).time = d.time := rfl
@[simp] theorem Dev.modKv_storage (d : Dev) (f : Kv → Kv) : (d.modKv f).storage = d.storage := rfl
@[simp] theorem Dev.modKv_sec (d : Dev) (f : Kv → Kv) : (d.modKv f).sec = d.sec := rfl
@[simp] theorem Dev.modKv_ctrl (d : Dev) (f : Kv → Kv) : (d.modKv f).ctrl = d.ctrl := rfl
@[simp] theorem Dev.modKv_cores (d : Dev) (f : Kv → Kv) : (d.modKv f).cores = d.cores := rfl
@[simp] theorem Dev.modKv_rel (d : Dev) (f : Kv → Kv) : (d.modKv f).rel = d.rel := rfl
@[simp] theorem Dev.modKv_obs (d : Dev) (f : Kv → Kv) : (d.modKv f).obs = d.obs := rfl
@[simp] theorem Dev.modKv_ledger (d : Dev) (f : Kv → Kv) : (d.modKv f).ledger = d.ledger := rfl
@[simp] theorem Dev.modKv_heldCmds (d : Dev) (f : Kv → Kv) : (d.modKv f).heldCmds = d.heldCmds := rfl
@[simp] theorem Dev.modKv_unsent (d : Dev) (f : Kv → Kv) : (d.modKv f).unsent = d.unsent := rfl
@[simp] theorem Dev.modKv_out (d : Dev) (f : Kv → Kv) : (d.modKv f).out = d.out := rfl
@[simp] theorem Dev.modKv_fresh (d : Dev) (f : Kv → Kv) : (d.modKv f).fresh = d.fresh := rfl

@[simp] theorem Dev.modHost_host (d : Dev) (f : HostEp → HostEp) : (d.modHost f).host = f d.host := rfl
@[simp] theorem Dev.modHost_uptime (d : Dev) (f : HostEp → HostEp) : (d.modHost f).uptime = d.uptime := rfl
@[simp] theorem Dev.modHost_csr (d : Dev) (f : HostEp → HostEp) : (d.modHost f).csr = d.csr := rfl
@[simp] theorem Dev.modHost_power (d : Dev) (f : HostEp → HostEp) : (d.modHost f).power = d.power := rfl
@[simp] theorem Dev.modHost_boot (d : Dev) (f : HostEp → HostEp) : (d.modHost f).boot = d.boot := rfl
@[simp] theorem Dev.modHost_manifest (d : Dev) (f : HostEp → HostEp) : (d.modHost f).manifest = d.manifest := rfl
@[simp] theorem Dev.modHost_expert (d : Dev) (f : HostEp → HostEp) : (d.modHost f).expert = d.expert := rfl
@[simp] theorem Dev.modHost_mailbox (d : Dev) (f : HostEp → HostEp) : (d.modHost f).mailbox = d.mailbox := rfl
@[simp] theorem Dev.modHost_canal (d : Dev) (f : HostEp → HostEp) : (d.modHost f).canal = d.canal := rfl
@[simp] theorem Dev.modHost_locks (d : Dev) (f : HostEp → HostEp) : (d.modHost f).locks = d.locks := rfl
@[simp] theorem Dev.modHost_tiles (d : Dev) (f : HostEp → HostEp) : (d.modHost f).tiles = d.tiles := rfl
@[simp] theorem Dev.modHost_reduce (d : Dev) (f : HostEp → HostEp) : (d.modHost f).reduce = d.reduce := rfl
@[simp] theorem Dev.modHost_mem (d : Dev) (f : HostEp → HostEp) : (d.modHost f).mem = d.mem := rfl
@[simp] theorem Dev.modHost_hbm (d : Dev) (f : HostEp → HostEp) : (d.modHost f).hbm = d.hbm := rfl
@[simp] theorem Dev.modHost_wharf (d : Dev) (f : HostEp → HostEp) : (d.modHost f).wharf = d.wharf := rfl
@[simp] theorem Dev.modHost_kv (d : Dev) (f : HostEp → HostEp) : (d.modHost f).kv = d.kv := rfl
@[simp] theorem Dev.modHost_acc (d : Dev) (f : HostEp → HostEp) : (d.modHost f).acc = d.acc := rfl
@[simp] theorem Dev.modHost_net (d : Dev) (f : HostEp → HostEp) : (d.modHost f).net = d.net := rfl
@[simp] theorem Dev.modHost_tp (d : Dev) (f : HostEp → HostEp) : (d.modHost f).tp = d.tp := rfl
@[simp] theorem Dev.modHost_ring (d : Dev) (f : HostEp → HostEp) : (d.modHost f).ring = d.ring := rfl
@[simp] theorem Dev.modHost_cells (d : Dev) (f : HostEp → HostEp) : (d.modHost f).cells = d.cells := rfl
@[simp] theorem Dev.modHost_time (d : Dev) (f : HostEp → HostEp) : (d.modHost f).time = d.time := rfl
@[simp] theorem Dev.modHost_storage (d : Dev) (f : HostEp → HostEp) : (d.modHost f).storage = d.storage := rfl
@[simp] theorem Dev.modHost_sec (d : Dev) (f : HostEp → HostEp) : (d.modHost f).sec = d.sec := rfl
@[simp] theorem Dev.modHost_ctrl (d : Dev) (f : HostEp → HostEp) : (d.modHost f).ctrl = d.ctrl := rfl
@[simp] theorem Dev.modHost_cores (d : Dev) (f : HostEp → HostEp) : (d.modHost f).cores = d.cores := rfl
@[simp] theorem Dev.modHost_rel (d : Dev) (f : HostEp → HostEp) : (d.modHost f).rel = d.rel := rfl
@[simp] theorem Dev.modHost_obs (d : Dev) (f : HostEp → HostEp) : (d.modHost f).obs = d.obs := rfl
@[simp] theorem Dev.modHost_ledger (d : Dev) (f : HostEp → HostEp) : (d.modHost f).ledger = d.ledger := rfl
@[simp] theorem Dev.modHost_heldCmds (d : Dev) (f : HostEp → HostEp) : (d.modHost f).heldCmds = d.heldCmds := rfl
@[simp] theorem Dev.modHost_unsent (d : Dev) (f : HostEp → HostEp) : (d.modHost f).unsent = d.unsent := rfl
@[simp] theorem Dev.modHost_out (d : Dev) (f : HostEp → HostEp) : (d.modHost f).out = d.out := rfl
@[simp] theorem Dev.modHost_fresh (d : Dev) (f : HostEp → HostEp) : (d.modHost f).fresh = d.fresh := rfl

@[simp] theorem Dev.modAcc_acc (d : Dev) (f : AccDma → AccDma) : (d.modAcc f).acc = f d.acc := rfl
@[simp] theorem Dev.modAcc_uptime (d : Dev) (f : AccDma → AccDma) : (d.modAcc f).uptime = d.uptime := rfl
@[simp] theorem Dev.modAcc_csr (d : Dev) (f : AccDma → AccDma) : (d.modAcc f).csr = d.csr := rfl
@[simp] theorem Dev.modAcc_power (d : Dev) (f : AccDma → AccDma) : (d.modAcc f).power = d.power := rfl
@[simp] theorem Dev.modAcc_boot (d : Dev) (f : AccDma → AccDma) : (d.modAcc f).boot = d.boot := rfl
@[simp] theorem Dev.modAcc_manifest (d : Dev) (f : AccDma → AccDma) : (d.modAcc f).manifest = d.manifest := rfl
@[simp] theorem Dev.modAcc_expert (d : Dev) (f : AccDma → AccDma) : (d.modAcc f).expert = d.expert := rfl
@[simp] theorem Dev.modAcc_mailbox (d : Dev) (f : AccDma → AccDma) : (d.modAcc f).mailbox = d.mailbox := rfl
@[simp] theorem Dev.modAcc_canal (d : Dev) (f : AccDma → AccDma) : (d.modAcc f).canal = d.canal := rfl
@[simp] theorem Dev.modAcc_locks (d : Dev) (f : AccDma → AccDma) : (d.modAcc f).locks = d.locks := rfl
@[simp] theorem Dev.modAcc_tiles (d : Dev) (f : AccDma → AccDma) : (d.modAcc f).tiles = d.tiles := rfl
@[simp] theorem Dev.modAcc_reduce (d : Dev) (f : AccDma → AccDma) : (d.modAcc f).reduce = d.reduce := rfl
@[simp] theorem Dev.modAcc_mem (d : Dev) (f : AccDma → AccDma) : (d.modAcc f).mem = d.mem := rfl
@[simp] theorem Dev.modAcc_hbm (d : Dev) (f : AccDma → AccDma) : (d.modAcc f).hbm = d.hbm := rfl
@[simp] theorem Dev.modAcc_wharf (d : Dev) (f : AccDma → AccDma) : (d.modAcc f).wharf = d.wharf := rfl
@[simp] theorem Dev.modAcc_kv (d : Dev) (f : AccDma → AccDma) : (d.modAcc f).kv = d.kv := rfl
@[simp] theorem Dev.modAcc_host (d : Dev) (f : AccDma → AccDma) : (d.modAcc f).host = d.host := rfl
@[simp] theorem Dev.modAcc_net (d : Dev) (f : AccDma → AccDma) : (d.modAcc f).net = d.net := rfl
@[simp] theorem Dev.modAcc_tp (d : Dev) (f : AccDma → AccDma) : (d.modAcc f).tp = d.tp := rfl
@[simp] theorem Dev.modAcc_ring (d : Dev) (f : AccDma → AccDma) : (d.modAcc f).ring = d.ring := rfl
@[simp] theorem Dev.modAcc_cells (d : Dev) (f : AccDma → AccDma) : (d.modAcc f).cells = d.cells := rfl
@[simp] theorem Dev.modAcc_time (d : Dev) (f : AccDma → AccDma) : (d.modAcc f).time = d.time := rfl
@[simp] theorem Dev.modAcc_storage (d : Dev) (f : AccDma → AccDma) : (d.modAcc f).storage = d.storage := rfl
@[simp] theorem Dev.modAcc_sec (d : Dev) (f : AccDma → AccDma) : (d.modAcc f).sec = d.sec := rfl
@[simp] theorem Dev.modAcc_ctrl (d : Dev) (f : AccDma → AccDma) : (d.modAcc f).ctrl = d.ctrl := rfl
@[simp] theorem Dev.modAcc_cores (d : Dev) (f : AccDma → AccDma) : (d.modAcc f).cores = d.cores := rfl
@[simp] theorem Dev.modAcc_rel (d : Dev) (f : AccDma → AccDma) : (d.modAcc f).rel = d.rel := rfl
@[simp] theorem Dev.modAcc_obs (d : Dev) (f : AccDma → AccDma) : (d.modAcc f).obs = d.obs := rfl
@[simp] theorem Dev.modAcc_ledger (d : Dev) (f : AccDma → AccDma) : (d.modAcc f).ledger = d.ledger := rfl
@[simp] theorem Dev.modAcc_heldCmds (d : Dev) (f : AccDma → AccDma) : (d.modAcc f).heldCmds = d.heldCmds := rfl
@[simp] theorem Dev.modAcc_unsent (d : Dev) (f : AccDma → AccDma) : (d.modAcc f).unsent = d.unsent := rfl
@[simp] theorem Dev.modAcc_out (d : Dev) (f : AccDma → AccDma) : (d.modAcc f).out = d.out := rfl
@[simp] theorem Dev.modAcc_fresh (d : Dev) (f : AccDma → AccDma) : (d.modAcc f).fresh = d.fresh := rfl

@[simp] theorem Dev.modNet_net (d : Dev) (f : Net → Net) : (d.modNet f).net = f d.net := rfl
@[simp] theorem Dev.modNet_uptime (d : Dev) (f : Net → Net) : (d.modNet f).uptime = d.uptime := rfl
@[simp] theorem Dev.modNet_csr (d : Dev) (f : Net → Net) : (d.modNet f).csr = d.csr := rfl
@[simp] theorem Dev.modNet_power (d : Dev) (f : Net → Net) : (d.modNet f).power = d.power := rfl
@[simp] theorem Dev.modNet_boot (d : Dev) (f : Net → Net) : (d.modNet f).boot = d.boot := rfl
@[simp] theorem Dev.modNet_manifest (d : Dev) (f : Net → Net) : (d.modNet f).manifest = d.manifest := rfl
@[simp] theorem Dev.modNet_expert (d : Dev) (f : Net → Net) : (d.modNet f).expert = d.expert := rfl
@[simp] theorem Dev.modNet_mailbox (d : Dev) (f : Net → Net) : (d.modNet f).mailbox = d.mailbox := rfl
@[simp] theorem Dev.modNet_canal (d : Dev) (f : Net → Net) : (d.modNet f).canal = d.canal := rfl
@[simp] theorem Dev.modNet_locks (d : Dev) (f : Net → Net) : (d.modNet f).locks = d.locks := rfl
@[simp] theorem Dev.modNet_tiles (d : Dev) (f : Net → Net) : (d.modNet f).tiles = d.tiles := rfl
@[simp] theorem Dev.modNet_reduce (d : Dev) (f : Net → Net) : (d.modNet f).reduce = d.reduce := rfl
@[simp] theorem Dev.modNet_mem (d : Dev) (f : Net → Net) : (d.modNet f).mem = d.mem := rfl
@[simp] theorem Dev.modNet_hbm (d : Dev) (f : Net → Net) : (d.modNet f).hbm = d.hbm := rfl
@[simp] theorem Dev.modNet_wharf (d : Dev) (f : Net → Net) : (d.modNet f).wharf = d.wharf := rfl
@[simp] theorem Dev.modNet_kv (d : Dev) (f : Net → Net) : (d.modNet f).kv = d.kv := rfl
@[simp] theorem Dev.modNet_host (d : Dev) (f : Net → Net) : (d.modNet f).host = d.host := rfl
@[simp] theorem Dev.modNet_acc (d : Dev) (f : Net → Net) : (d.modNet f).acc = d.acc := rfl
@[simp] theorem Dev.modNet_tp (d : Dev) (f : Net → Net) : (d.modNet f).tp = d.tp := rfl
@[simp] theorem Dev.modNet_ring (d : Dev) (f : Net → Net) : (d.modNet f).ring = d.ring := rfl
@[simp] theorem Dev.modNet_cells (d : Dev) (f : Net → Net) : (d.modNet f).cells = d.cells := rfl
@[simp] theorem Dev.modNet_time (d : Dev) (f : Net → Net) : (d.modNet f).time = d.time := rfl
@[simp] theorem Dev.modNet_storage (d : Dev) (f : Net → Net) : (d.modNet f).storage = d.storage := rfl
@[simp] theorem Dev.modNet_sec (d : Dev) (f : Net → Net) : (d.modNet f).sec = d.sec := rfl
@[simp] theorem Dev.modNet_ctrl (d : Dev) (f : Net → Net) : (d.modNet f).ctrl = d.ctrl := rfl
@[simp] theorem Dev.modNet_cores (d : Dev) (f : Net → Net) : (d.modNet f).cores = d.cores := rfl
@[simp] theorem Dev.modNet_rel (d : Dev) (f : Net → Net) : (d.modNet f).rel = d.rel := rfl
@[simp] theorem Dev.modNet_obs (d : Dev) (f : Net → Net) : (d.modNet f).obs = d.obs := rfl
@[simp] theorem Dev.modNet_ledger (d : Dev) (f : Net → Net) : (d.modNet f).ledger = d.ledger := rfl
@[simp] theorem Dev.modNet_heldCmds (d : Dev) (f : Net → Net) : (d.modNet f).heldCmds = d.heldCmds := rfl
@[simp] theorem Dev.modNet_unsent (d : Dev) (f : Net → Net) : (d.modNet f).unsent = d.unsent := rfl
@[simp] theorem Dev.modNet_out (d : Dev) (f : Net → Net) : (d.modNet f).out = d.out := rfl
@[simp] theorem Dev.modNet_fresh (d : Dev) (f : Net → Net) : (d.modNet f).fresh = d.fresh := rfl

@[simp] theorem Dev.modTp_tp (d : Dev) (f : Transport → Transport) : (d.modTp f).tp = f d.tp := rfl
@[simp] theorem Dev.modTp_uptime (d : Dev) (f : Transport → Transport) : (d.modTp f).uptime = d.uptime := rfl
@[simp] theorem Dev.modTp_csr (d : Dev) (f : Transport → Transport) : (d.modTp f).csr = d.csr := rfl
@[simp] theorem Dev.modTp_power (d : Dev) (f : Transport → Transport) : (d.modTp f).power = d.power := rfl
@[simp] theorem Dev.modTp_boot (d : Dev) (f : Transport → Transport) : (d.modTp f).boot = d.boot := rfl
@[simp] theorem Dev.modTp_manifest (d : Dev) (f : Transport → Transport) : (d.modTp f).manifest = d.manifest := rfl
@[simp] theorem Dev.modTp_expert (d : Dev) (f : Transport → Transport) : (d.modTp f).expert = d.expert := rfl
@[simp] theorem Dev.modTp_mailbox (d : Dev) (f : Transport → Transport) : (d.modTp f).mailbox = d.mailbox := rfl
@[simp] theorem Dev.modTp_canal (d : Dev) (f : Transport → Transport) : (d.modTp f).canal = d.canal := rfl
@[simp] theorem Dev.modTp_locks (d : Dev) (f : Transport → Transport) : (d.modTp f).locks = d.locks := rfl
@[simp] theorem Dev.modTp_tiles (d : Dev) (f : Transport → Transport) : (d.modTp f).tiles = d.tiles := rfl
@[simp] theorem Dev.modTp_reduce (d : Dev) (f : Transport → Transport) : (d.modTp f).reduce = d.reduce := rfl
@[simp] theorem Dev.modTp_mem (d : Dev) (f : Transport → Transport) : (d.modTp f).mem = d.mem := rfl
@[simp] theorem Dev.modTp_hbm (d : Dev) (f : Transport → Transport) : (d.modTp f).hbm = d.hbm := rfl
@[simp] theorem Dev.modTp_wharf (d : Dev) (f : Transport → Transport) : (d.modTp f).wharf = d.wharf := rfl
@[simp] theorem Dev.modTp_kv (d : Dev) (f : Transport → Transport) : (d.modTp f).kv = d.kv := rfl
@[simp] theorem Dev.modTp_host (d : Dev) (f : Transport → Transport) : (d.modTp f).host = d.host := rfl
@[simp] theorem Dev.modTp_acc (d : Dev) (f : Transport → Transport) : (d.modTp f).acc = d.acc := rfl
@[simp] theorem Dev.modTp_net (d : Dev) (f : Transport → Transport) : (d.modTp f).net = d.net := rfl
@[simp] theorem Dev.modTp_ring (d : Dev) (f : Transport → Transport) : (d.modTp f).ring = d.ring := rfl
@[simp] theorem Dev.modTp_cells (d : Dev) (f : Transport → Transport) : (d.modTp f).cells = d.cells := rfl
@[simp] theorem Dev.modTp_time (d : Dev) (f : Transport → Transport) : (d.modTp f).time = d.time := rfl
@[simp] theorem Dev.modTp_storage (d : Dev) (f : Transport → Transport) : (d.modTp f).storage = d.storage := rfl
@[simp] theorem Dev.modTp_sec (d : Dev) (f : Transport → Transport) : (d.modTp f).sec = d.sec := rfl
@[simp] theorem Dev.modTp_ctrl (d : Dev) (f : Transport → Transport) : (d.modTp f).ctrl = d.ctrl := rfl
@[simp] theorem Dev.modTp_cores (d : Dev) (f : Transport → Transport) : (d.modTp f).cores = d.cores := rfl
@[simp] theorem Dev.modTp_rel (d : Dev) (f : Transport → Transport) : (d.modTp f).rel = d.rel := rfl
@[simp] theorem Dev.modTp_obs (d : Dev) (f : Transport → Transport) : (d.modTp f).obs = d.obs := rfl
@[simp] theorem Dev.modTp_ledger (d : Dev) (f : Transport → Transport) : (d.modTp f).ledger = d.ledger := rfl
@[simp] theorem Dev.modTp_heldCmds (d : Dev) (f : Transport → Transport) : (d.modTp f).heldCmds = d.heldCmds := rfl
@[simp] theorem Dev.modTp_unsent (d : Dev) (f : Transport → Transport) : (d.modTp f).unsent = d.unsent := rfl
@[simp] theorem Dev.modTp_out (d : Dev) (f : Transport → Transport) : (d.modTp f).out = d.out := rfl
@[simp] theorem Dev.modTp_fresh (d : Dev) (f : Transport → Transport) : (d.modTp f).fresh = d.fresh := rfl

@[simp] theorem Dev.modRing_ring (d : Dev) (f : Ring → Ring) : (d.modRing f).ring = f d.ring := rfl
@[simp] theorem Dev.modRing_cells (d : Dev) (f : Ring → Ring) : (d.modRing f).cells = d.cells := rfl
@[simp] theorem Dev.modRing_uptime (d : Dev) (f : Ring → Ring) : (d.modRing f).uptime = d.uptime := rfl
@[simp] theorem Dev.modRing_csr (d : Dev) (f : Ring → Ring) : (d.modRing f).csr = d.csr := rfl
@[simp] theorem Dev.modRing_power (d : Dev) (f : Ring → Ring) : (d.modRing f).power = d.power := rfl
@[simp] theorem Dev.modRing_boot (d : Dev) (f : Ring → Ring) : (d.modRing f).boot = d.boot := rfl
@[simp] theorem Dev.modRing_manifest (d : Dev) (f : Ring → Ring) : (d.modRing f).manifest = d.manifest := rfl
@[simp] theorem Dev.modRing_expert (d : Dev) (f : Ring → Ring) : (d.modRing f).expert = d.expert := rfl
@[simp] theorem Dev.modRing_mailbox (d : Dev) (f : Ring → Ring) : (d.modRing f).mailbox = d.mailbox := rfl
@[simp] theorem Dev.modRing_canal (d : Dev) (f : Ring → Ring) : (d.modRing f).canal = d.canal := rfl
@[simp] theorem Dev.modRing_locks (d : Dev) (f : Ring → Ring) : (d.modRing f).locks = d.locks := rfl
@[simp] theorem Dev.modRing_tiles (d : Dev) (f : Ring → Ring) : (d.modRing f).tiles = d.tiles := rfl
@[simp] theorem Dev.modRing_reduce (d : Dev) (f : Ring → Ring) : (d.modRing f).reduce = d.reduce := rfl
@[simp] theorem Dev.modRing_mem (d : Dev) (f : Ring → Ring) : (d.modRing f).mem = d.mem := rfl
@[simp] theorem Dev.modRing_hbm (d : Dev) (f : Ring → Ring) : (d.modRing f).hbm = d.hbm := rfl
@[simp] theorem Dev.modRing_wharf (d : Dev) (f : Ring → Ring) : (d.modRing f).wharf = d.wharf := rfl
@[simp] theorem Dev.modRing_kv (d : Dev) (f : Ring → Ring) : (d.modRing f).kv = d.kv := rfl
@[simp] theorem Dev.modRing_host (d : Dev) (f : Ring → Ring) : (d.modRing f).host = d.host := rfl
@[simp] theorem Dev.modRing_acc (d : Dev) (f : Ring → Ring) : (d.modRing f).acc = d.acc := rfl
@[simp] theorem Dev.modRing_net (d : Dev) (f : Ring → Ring) : (d.modRing f).net = d.net := rfl
@[simp] theorem Dev.modRing_tp (d : Dev) (f : Ring → Ring) : (d.modRing f).tp = d.tp := rfl
@[simp] theorem Dev.modRing_time (d : Dev) (f : Ring → Ring) : (d.modRing f).time = d.time := rfl
@[simp] theorem Dev.modRing_storage (d : Dev) (f : Ring → Ring) : (d.modRing f).storage = d.storage := rfl
@[simp] theorem Dev.modRing_sec (d : Dev) (f : Ring → Ring) : (d.modRing f).sec = d.sec := rfl
@[simp] theorem Dev.modRing_ctrl (d : Dev) (f : Ring → Ring) : (d.modRing f).ctrl = d.ctrl := rfl
@[simp] theorem Dev.modRing_cores (d : Dev) (f : Ring → Ring) : (d.modRing f).cores = d.cores := rfl
@[simp] theorem Dev.modRing_rel (d : Dev) (f : Ring → Ring) : (d.modRing f).rel = d.rel := rfl
@[simp] theorem Dev.modRing_obs (d : Dev) (f : Ring → Ring) : (d.modRing f).obs = d.obs := rfl
@[simp] theorem Dev.modRing_ledger (d : Dev) (f : Ring → Ring) : (d.modRing f).ledger = d.ledger := rfl
@[simp] theorem Dev.modRing_heldCmds (d : Dev) (f : Ring → Ring) : (d.modRing f).heldCmds = d.heldCmds := rfl
@[simp] theorem Dev.modRing_unsent (d : Dev) (f : Ring → Ring) : (d.modRing f).unsent = d.unsent := rfl
@[simp] theorem Dev.modRing_out (d : Dev) (f : Ring → Ring) : (d.modRing f).out = d.out := rfl
@[simp] theorem Dev.modRing_fresh (d : Dev) (f : Ring → Ring) : (d.modRing f).fresh = d.fresh := rfl

@[simp] theorem Dev.modTime_time (d : Dev) (f : TimeSt → TimeSt) : (d.modTime f).time = f d.time := rfl
@[simp] theorem Dev.modTime_uptime (d : Dev) (f : TimeSt → TimeSt) : (d.modTime f).uptime = d.uptime := rfl
@[simp] theorem Dev.modTime_csr (d : Dev) (f : TimeSt → TimeSt) : (d.modTime f).csr = d.csr := rfl
@[simp] theorem Dev.modTime_power (d : Dev) (f : TimeSt → TimeSt) : (d.modTime f).power = d.power := rfl
@[simp] theorem Dev.modTime_boot (d : Dev) (f : TimeSt → TimeSt) : (d.modTime f).boot = d.boot := rfl
@[simp] theorem Dev.modTime_manifest (d : Dev) (f : TimeSt → TimeSt) : (d.modTime f).manifest = d.manifest := rfl
@[simp] theorem Dev.modTime_expert (d : Dev) (f : TimeSt → TimeSt) : (d.modTime f).expert = d.expert := rfl
@[simp] theorem Dev.modTime_mailbox (d : Dev) (f : TimeSt → TimeSt) : (d.modTime f).mailbox = d.mailbox := rfl
@[simp] theorem Dev.modTime_canal (d : Dev) (f : TimeSt → TimeSt) : (d.modTime f).canal = d.canal := rfl
@[simp] theorem Dev.modTime_locks (d : Dev) (f : TimeSt → TimeSt) : (d.modTime f).locks = d.locks := rfl
@[simp] theorem Dev.modTime_tiles (d : Dev) (f : TimeSt → TimeSt) : (d.modTime f).tiles = d.tiles := rfl
@[simp] theorem Dev.modTime_reduce (d : Dev) (f : TimeSt → TimeSt) : (d.modTime f).reduce = d.reduce := rfl
@[simp] theorem Dev.modTime_mem (d : Dev) (f : TimeSt → TimeSt) : (d.modTime f).mem = d.mem := rfl
@[simp] theorem Dev.modTime_hbm (d : Dev) (f : TimeSt → TimeSt) : (d.modTime f).hbm = d.hbm := rfl
@[simp] theorem Dev.modTime_wharf (d : Dev) (f : TimeSt → TimeSt) : (d.modTime f).wharf = d.wharf := rfl
@[simp] theorem Dev.modTime_kv (d : Dev) (f : TimeSt → TimeSt) : (d.modTime f).kv = d.kv := rfl
@[simp] theorem Dev.modTime_host (d : Dev) (f : TimeSt → TimeSt) : (d.modTime f).host = d.host := rfl
@[simp] theorem Dev.modTime_acc (d : Dev) (f : TimeSt → TimeSt) : (d.modTime f).acc = d.acc := rfl
@[simp] theorem Dev.modTime_net (d : Dev) (f : TimeSt → TimeSt) : (d.modTime f).net = d.net := rfl
@[simp] theorem Dev.modTime_tp (d : Dev) (f : TimeSt → TimeSt) : (d.modTime f).tp = d.tp := rfl
@[simp] theorem Dev.modTime_ring (d : Dev) (f : TimeSt → TimeSt) : (d.modTime f).ring = d.ring := rfl
@[simp] theorem Dev.modTime_cells (d : Dev) (f : TimeSt → TimeSt) : (d.modTime f).cells = d.cells := rfl
@[simp] theorem Dev.modTime_storage (d : Dev) (f : TimeSt → TimeSt) : (d.modTime f).storage = d.storage := rfl
@[simp] theorem Dev.modTime_sec (d : Dev) (f : TimeSt → TimeSt) : (d.modTime f).sec = d.sec := rfl
@[simp] theorem Dev.modTime_ctrl (d : Dev) (f : TimeSt → TimeSt) : (d.modTime f).ctrl = d.ctrl := rfl
@[simp] theorem Dev.modTime_cores (d : Dev) (f : TimeSt → TimeSt) : (d.modTime f).cores = d.cores := rfl
@[simp] theorem Dev.modTime_rel (d : Dev) (f : TimeSt → TimeSt) : (d.modTime f).rel = d.rel := rfl
@[simp] theorem Dev.modTime_obs (d : Dev) (f : TimeSt → TimeSt) : (d.modTime f).obs = d.obs := rfl
@[simp] theorem Dev.modTime_ledger (d : Dev) (f : TimeSt → TimeSt) : (d.modTime f).ledger = d.ledger := rfl
@[simp] theorem Dev.modTime_heldCmds (d : Dev) (f : TimeSt → TimeSt) : (d.modTime f).heldCmds = d.heldCmds := rfl
@[simp] theorem Dev.modTime_unsent (d : Dev) (f : TimeSt → TimeSt) : (d.modTime f).unsent = d.unsent := rfl
@[simp] theorem Dev.modTime_out (d : Dev) (f : TimeSt → TimeSt) : (d.modTime f).out = d.out := rfl
@[simp] theorem Dev.modTime_fresh (d : Dev) (f : TimeSt → TimeSt) : (d.modTime f).fresh = d.fresh := rfl

@[simp] theorem Dev.modStorage_storage (d : Dev) (f : Storage → Storage) : (d.modStorage f).storage = f d.storage := rfl
@[simp] theorem Dev.modStorage_uptime (d : Dev) (f : Storage → Storage) : (d.modStorage f).uptime = d.uptime := rfl
@[simp] theorem Dev.modStorage_csr (d : Dev) (f : Storage → Storage) : (d.modStorage f).csr = d.csr := rfl
@[simp] theorem Dev.modStorage_power (d : Dev) (f : Storage → Storage) : (d.modStorage f).power = d.power := rfl
@[simp] theorem Dev.modStorage_boot (d : Dev) (f : Storage → Storage) : (d.modStorage f).boot = d.boot := rfl
@[simp] theorem Dev.modStorage_manifest (d : Dev) (f : Storage → Storage) : (d.modStorage f).manifest = d.manifest := rfl
@[simp] theorem Dev.modStorage_expert (d : Dev) (f : Storage → Storage) : (d.modStorage f).expert = d.expert := rfl
@[simp] theorem Dev.modStorage_mailbox (d : Dev) (f : Storage → Storage) : (d.modStorage f).mailbox = d.mailbox := rfl
@[simp] theorem Dev.modStorage_canal (d : Dev) (f : Storage → Storage) : (d.modStorage f).canal = d.canal := rfl
@[simp] theorem Dev.modStorage_locks (d : Dev) (f : Storage → Storage) : (d.modStorage f).locks = d.locks := rfl
@[simp] theorem Dev.modStorage_tiles (d : Dev) (f : Storage → Storage) : (d.modStorage f).tiles = d.tiles := rfl
@[simp] theorem Dev.modStorage_reduce (d : Dev) (f : Storage → Storage) : (d.modStorage f).reduce = d.reduce := rfl
@[simp] theorem Dev.modStorage_mem (d : Dev) (f : Storage → Storage) : (d.modStorage f).mem = d.mem := rfl
@[simp] theorem Dev.modStorage_hbm (d : Dev) (f : Storage → Storage) : (d.modStorage f).hbm = d.hbm := rfl
@[simp] theorem Dev.modStorage_wharf (d : Dev) (f : Storage → Storage) : (d.modStorage f).wharf = d.wharf := rfl
@[simp] theorem Dev.modStorage_kv (d : Dev) (f : Storage → Storage) : (d.modStorage f).kv = d.kv := rfl
@[simp] theorem Dev.modStorage_host (d : Dev) (f : Storage → Storage) : (d.modStorage f).host = d.host := rfl
@[simp] theorem Dev.modStorage_acc (d : Dev) (f : Storage → Storage) : (d.modStorage f).acc = d.acc := rfl
@[simp] theorem Dev.modStorage_net (d : Dev) (f : Storage → Storage) : (d.modStorage f).net = d.net := rfl
@[simp] theorem Dev.modStorage_tp (d : Dev) (f : Storage → Storage) : (d.modStorage f).tp = d.tp := rfl
@[simp] theorem Dev.modStorage_ring (d : Dev) (f : Storage → Storage) : (d.modStorage f).ring = d.ring := rfl
@[simp] theorem Dev.modStorage_cells (d : Dev) (f : Storage → Storage) : (d.modStorage f).cells = d.cells := rfl
@[simp] theorem Dev.modStorage_time (d : Dev) (f : Storage → Storage) : (d.modStorage f).time = d.time := rfl
@[simp] theorem Dev.modStorage_sec (d : Dev) (f : Storage → Storage) : (d.modStorage f).sec = d.sec := rfl
@[simp] theorem Dev.modStorage_ctrl (d : Dev) (f : Storage → Storage) : (d.modStorage f).ctrl = d.ctrl := rfl
@[simp] theorem Dev.modStorage_cores (d : Dev) (f : Storage → Storage) : (d.modStorage f).cores = d.cores := rfl
@[simp] theorem Dev.modStorage_rel (d : Dev) (f : Storage → Storage) : (d.modStorage f).rel = d.rel := rfl
@[simp] theorem Dev.modStorage_obs (d : Dev) (f : Storage → Storage) : (d.modStorage f).obs = d.obs := rfl
@[simp] theorem Dev.modStorage_ledger (d : Dev) (f : Storage → Storage) : (d.modStorage f).ledger = d.ledger := rfl
@[simp] theorem Dev.modStorage_heldCmds (d : Dev) (f : Storage → Storage) : (d.modStorage f).heldCmds = d.heldCmds := rfl
@[simp] theorem Dev.modStorage_unsent (d : Dev) (f : Storage → Storage) : (d.modStorage f).unsent = d.unsent := rfl
@[simp] theorem Dev.modStorage_out (d : Dev) (f : Storage → Storage) : (d.modStorage f).out = d.out := rfl
@[simp] theorem Dev.modStorage_fresh (d : Dev) (f : Storage → Storage) : (d.modStorage f).fresh = d.fresh := rfl

@[simp] theorem Dev.modSec_sec (d : Dev) (f : Sec → Sec) : (d.modSec f).sec = f d.sec := rfl
@[simp] theorem Dev.modSec_uptime (d : Dev) (f : Sec → Sec) : (d.modSec f).uptime = d.uptime := rfl
@[simp] theorem Dev.modSec_csr (d : Dev) (f : Sec → Sec) : (d.modSec f).csr = d.csr := rfl
@[simp] theorem Dev.modSec_power (d : Dev) (f : Sec → Sec) : (d.modSec f).power = d.power := rfl
@[simp] theorem Dev.modSec_boot (d : Dev) (f : Sec → Sec) : (d.modSec f).boot = d.boot := rfl
@[simp] theorem Dev.modSec_manifest (d : Dev) (f : Sec → Sec) : (d.modSec f).manifest = d.manifest := rfl
@[simp] theorem Dev.modSec_expert (d : Dev) (f : Sec → Sec) : (d.modSec f).expert = d.expert := rfl
@[simp] theorem Dev.modSec_mailbox (d : Dev) (f : Sec → Sec) : (d.modSec f).mailbox = d.mailbox := rfl
@[simp] theorem Dev.modSec_canal (d : Dev) (f : Sec → Sec) : (d.modSec f).canal = d.canal := rfl
@[simp] theorem Dev.modSec_locks (d : Dev) (f : Sec → Sec) : (d.modSec f).locks = d.locks := rfl
@[simp] theorem Dev.modSec_tiles (d : Dev) (f : Sec → Sec) : (d.modSec f).tiles = d.tiles := rfl
@[simp] theorem Dev.modSec_reduce (d : Dev) (f : Sec → Sec) : (d.modSec f).reduce = d.reduce := rfl
@[simp] theorem Dev.modSec_mem (d : Dev) (f : Sec → Sec) : (d.modSec f).mem = d.mem := rfl
@[simp] theorem Dev.modSec_hbm (d : Dev) (f : Sec → Sec) : (d.modSec f).hbm = d.hbm := rfl
@[simp] theorem Dev.modSec_wharf (d : Dev) (f : Sec → Sec) : (d.modSec f).wharf = d.wharf := rfl
@[simp] theorem Dev.modSec_kv (d : Dev) (f : Sec → Sec) : (d.modSec f).kv = d.kv := rfl
@[simp] theorem Dev.modSec_host (d : Dev) (f : Sec → Sec) : (d.modSec f).host = d.host := rfl
@[simp] theorem Dev.modSec_acc (d : Dev) (f : Sec → Sec) : (d.modSec f).acc = d.acc := rfl
@[simp] theorem Dev.modSec_net (d : Dev) (f : Sec → Sec) : (d.modSec f).net = d.net := rfl
@[simp] theorem Dev.modSec_tp (d : Dev) (f : Sec → Sec) : (d.modSec f).tp = d.tp := rfl
@[simp] theorem Dev.modSec_ring (d : Dev) (f : Sec → Sec) : (d.modSec f).ring = d.ring := rfl
@[simp] theorem Dev.modSec_cells (d : Dev) (f : Sec → Sec) : (d.modSec f).cells = d.cells := rfl
@[simp] theorem Dev.modSec_time (d : Dev) (f : Sec → Sec) : (d.modSec f).time = d.time := rfl
@[simp] theorem Dev.modSec_storage (d : Dev) (f : Sec → Sec) : (d.modSec f).storage = d.storage := rfl
@[simp] theorem Dev.modSec_ctrl (d : Dev) (f : Sec → Sec) : (d.modSec f).ctrl = d.ctrl := rfl
@[simp] theorem Dev.modSec_cores (d : Dev) (f : Sec → Sec) : (d.modSec f).cores = d.cores := rfl
@[simp] theorem Dev.modSec_rel (d : Dev) (f : Sec → Sec) : (d.modSec f).rel = d.rel := rfl
@[simp] theorem Dev.modSec_obs (d : Dev) (f : Sec → Sec) : (d.modSec f).obs = d.obs := rfl
@[simp] theorem Dev.modSec_ledger (d : Dev) (f : Sec → Sec) : (d.modSec f).ledger = d.ledger := rfl
@[simp] theorem Dev.modSec_heldCmds (d : Dev) (f : Sec → Sec) : (d.modSec f).heldCmds = d.heldCmds := rfl
@[simp] theorem Dev.modSec_unsent (d : Dev) (f : Sec → Sec) : (d.modSec f).unsent = d.unsent := rfl
@[simp] theorem Dev.modSec_out (d : Dev) (f : Sec → Sec) : (d.modSec f).out = d.out := rfl
@[simp] theorem Dev.modSec_fresh (d : Dev) (f : Sec → Sec) : (d.modSec f).fresh = d.fresh := rfl

@[simp] theorem Dev.modCtrl_ctrl (d : Dev) (f : Control → Control) : (d.modCtrl f).ctrl = f d.ctrl := rfl
@[simp] theorem Dev.modCtrl_uptime (d : Dev) (f : Control → Control) : (d.modCtrl f).uptime = d.uptime := rfl
@[simp] theorem Dev.modCtrl_csr (d : Dev) (f : Control → Control) : (d.modCtrl f).csr = d.csr := rfl
@[simp] theorem Dev.modCtrl_power (d : Dev) (f : Control → Control) : (d.modCtrl f).power = d.power := rfl
@[simp] theorem Dev.modCtrl_boot (d : Dev) (f : Control → Control) : (d.modCtrl f).boot = d.boot := rfl
@[simp] theorem Dev.modCtrl_manifest (d : Dev) (f : Control → Control) : (d.modCtrl f).manifest = d.manifest := rfl
@[simp] theorem Dev.modCtrl_expert (d : Dev) (f : Control → Control) : (d.modCtrl f).expert = d.expert := rfl
@[simp] theorem Dev.modCtrl_mailbox (d : Dev) (f : Control → Control) : (d.modCtrl f).mailbox = d.mailbox := rfl
@[simp] theorem Dev.modCtrl_canal (d : Dev) (f : Control → Control) : (d.modCtrl f).canal = d.canal := rfl
@[simp] theorem Dev.modCtrl_locks (d : Dev) (f : Control → Control) : (d.modCtrl f).locks = d.locks := rfl
@[simp] theorem Dev.modCtrl_tiles (d : Dev) (f : Control → Control) : (d.modCtrl f).tiles = d.tiles := rfl
@[simp] theorem Dev.modCtrl_reduce (d : Dev) (f : Control → Control) : (d.modCtrl f).reduce = d.reduce := rfl
@[simp] theorem Dev.modCtrl_mem (d : Dev) (f : Control → Control) : (d.modCtrl f).mem = d.mem := rfl
@[simp] theorem Dev.modCtrl_hbm (d : Dev) (f : Control → Control) : (d.modCtrl f).hbm = d.hbm := rfl
@[simp] theorem Dev.modCtrl_wharf (d : Dev) (f : Control → Control) : (d.modCtrl f).wharf = d.wharf := rfl
@[simp] theorem Dev.modCtrl_kv (d : Dev) (f : Control → Control) : (d.modCtrl f).kv = d.kv := rfl
@[simp] theorem Dev.modCtrl_host (d : Dev) (f : Control → Control) : (d.modCtrl f).host = d.host := rfl
@[simp] theorem Dev.modCtrl_acc (d : Dev) (f : Control → Control) : (d.modCtrl f).acc = d.acc := rfl
@[simp] theorem Dev.modCtrl_net (d : Dev) (f : Control → Control) : (d.modCtrl f).net = d.net := rfl
@[simp] theorem Dev.modCtrl_tp (d : Dev) (f : Control → Control) : (d.modCtrl f).tp = d.tp := rfl
@[simp] theorem Dev.modCtrl_ring (d : Dev) (f : Control → Control) : (d.modCtrl f).ring = d.ring := rfl
@[simp] theorem Dev.modCtrl_cells (d : Dev) (f : Control → Control) : (d.modCtrl f).cells = d.cells := rfl
@[simp] theorem Dev.modCtrl_time (d : Dev) (f : Control → Control) : (d.modCtrl f).time = d.time := rfl
@[simp] theorem Dev.modCtrl_storage (d : Dev) (f : Control → Control) : (d.modCtrl f).storage = d.storage := rfl
@[simp] theorem Dev.modCtrl_sec (d : Dev) (f : Control → Control) : (d.modCtrl f).sec = d.sec := rfl
@[simp] theorem Dev.modCtrl_cores (d : Dev) (f : Control → Control) : (d.modCtrl f).cores = d.cores := rfl
@[simp] theorem Dev.modCtrl_rel (d : Dev) (f : Control → Control) : (d.modCtrl f).rel = d.rel := rfl
@[simp] theorem Dev.modCtrl_obs (d : Dev) (f : Control → Control) : (d.modCtrl f).obs = d.obs := rfl
@[simp] theorem Dev.modCtrl_ledger (d : Dev) (f : Control → Control) : (d.modCtrl f).ledger = d.ledger := rfl
@[simp] theorem Dev.modCtrl_heldCmds (d : Dev) (f : Control → Control) : (d.modCtrl f).heldCmds = d.heldCmds := rfl
@[simp] theorem Dev.modCtrl_unsent (d : Dev) (f : Control → Control) : (d.modCtrl f).unsent = d.unsent := rfl
@[simp] theorem Dev.modCtrl_out (d : Dev) (f : Control → Control) : (d.modCtrl f).out = d.out := rfl
@[simp] theorem Dev.modCtrl_fresh (d : Dev) (f : Control → Control) : (d.modCtrl f).fresh = d.fresh := rfl

@[simp] theorem Dev.modRel_rel (d : Dev) (f : Rel → Rel) : (d.modRel f).rel = f d.rel := rfl
@[simp] theorem Dev.modRel_uptime (d : Dev) (f : Rel → Rel) : (d.modRel f).uptime = d.uptime := rfl
@[simp] theorem Dev.modRel_csr (d : Dev) (f : Rel → Rel) : (d.modRel f).csr = d.csr := rfl
@[simp] theorem Dev.modRel_power (d : Dev) (f : Rel → Rel) : (d.modRel f).power = d.power := rfl
@[simp] theorem Dev.modRel_boot (d : Dev) (f : Rel → Rel) : (d.modRel f).boot = d.boot := rfl
@[simp] theorem Dev.modRel_manifest (d : Dev) (f : Rel → Rel) : (d.modRel f).manifest = d.manifest := rfl
@[simp] theorem Dev.modRel_expert (d : Dev) (f : Rel → Rel) : (d.modRel f).expert = d.expert := rfl
@[simp] theorem Dev.modRel_mailbox (d : Dev) (f : Rel → Rel) : (d.modRel f).mailbox = d.mailbox := rfl
@[simp] theorem Dev.modRel_canal (d : Dev) (f : Rel → Rel) : (d.modRel f).canal = d.canal := rfl
@[simp] theorem Dev.modRel_locks (d : Dev) (f : Rel → Rel) : (d.modRel f).locks = d.locks := rfl
@[simp] theorem Dev.modRel_tiles (d : Dev) (f : Rel → Rel) : (d.modRel f).tiles = d.tiles := rfl
@[simp] theorem Dev.modRel_reduce (d : Dev) (f : Rel → Rel) : (d.modRel f).reduce = d.reduce := rfl
@[simp] theorem Dev.modRel_mem (d : Dev) (f : Rel → Rel) : (d.modRel f).mem = d.mem := rfl
@[simp] theorem Dev.modRel_hbm (d : Dev) (f : Rel → Rel) : (d.modRel f).hbm = d.hbm := rfl
@[simp] theorem Dev.modRel_wharf (d : Dev) (f : Rel → Rel) : (d.modRel f).wharf = d.wharf := rfl
@[simp] theorem Dev.modRel_kv (d : Dev) (f : Rel → Rel) : (d.modRel f).kv = d.kv := rfl
@[simp] theorem Dev.modRel_host (d : Dev) (f : Rel → Rel) : (d.modRel f).host = d.host := rfl
@[simp] theorem Dev.modRel_acc (d : Dev) (f : Rel → Rel) : (d.modRel f).acc = d.acc := rfl
@[simp] theorem Dev.modRel_net (d : Dev) (f : Rel → Rel) : (d.modRel f).net = d.net := rfl
@[simp] theorem Dev.modRel_tp (d : Dev) (f : Rel → Rel) : (d.modRel f).tp = d.tp := rfl
@[simp] theorem Dev.modRel_ring (d : Dev) (f : Rel → Rel) : (d.modRel f).ring = d.ring := rfl
@[simp] theorem Dev.modRel_cells (d : Dev) (f : Rel → Rel) : (d.modRel f).cells = d.cells := rfl
@[simp] theorem Dev.modRel_time (d : Dev) (f : Rel → Rel) : (d.modRel f).time = d.time := rfl
@[simp] theorem Dev.modRel_storage (d : Dev) (f : Rel → Rel) : (d.modRel f).storage = d.storage := rfl
@[simp] theorem Dev.modRel_sec (d : Dev) (f : Rel → Rel) : (d.modRel f).sec = d.sec := rfl
@[simp] theorem Dev.modRel_ctrl (d : Dev) (f : Rel → Rel) : (d.modRel f).ctrl = d.ctrl := rfl
@[simp] theorem Dev.modRel_cores (d : Dev) (f : Rel → Rel) : (d.modRel f).cores = d.cores := rfl
@[simp] theorem Dev.modRel_obs (d : Dev) (f : Rel → Rel) : (d.modRel f).obs = d.obs := rfl
@[simp] theorem Dev.modRel_ledger (d : Dev) (f : Rel → Rel) : (d.modRel f).ledger = d.ledger := rfl
@[simp] theorem Dev.modRel_heldCmds (d : Dev) (f : Rel → Rel) : (d.modRel f).heldCmds = d.heldCmds := rfl
@[simp] theorem Dev.modRel_unsent (d : Dev) (f : Rel → Rel) : (d.modRel f).unsent = d.unsent := rfl
@[simp] theorem Dev.modRel_out (d : Dev) (f : Rel → Rel) : (d.modRel f).out = d.out := rfl
@[simp] theorem Dev.modRel_fresh (d : Dev) (f : Rel → Rel) : (d.modRel f).fresh = d.fresh := rfl

@[simp] theorem Dev.modObs_obs (d : Dev) (f : Observe → Observe) : (d.modObs f).obs = f d.obs := rfl
@[simp] theorem Dev.modObs_uptime (d : Dev) (f : Observe → Observe) : (d.modObs f).uptime = d.uptime := rfl
@[simp] theorem Dev.modObs_csr (d : Dev) (f : Observe → Observe) : (d.modObs f).csr = d.csr := rfl
@[simp] theorem Dev.modObs_power (d : Dev) (f : Observe → Observe) : (d.modObs f).power = d.power := rfl
@[simp] theorem Dev.modObs_boot (d : Dev) (f : Observe → Observe) : (d.modObs f).boot = d.boot := rfl
@[simp] theorem Dev.modObs_manifest (d : Dev) (f : Observe → Observe) : (d.modObs f).manifest = d.manifest := rfl
@[simp] theorem Dev.modObs_expert (d : Dev) (f : Observe → Observe) : (d.modObs f).expert = d.expert := rfl
@[simp] theorem Dev.modObs_mailbox (d : Dev) (f : Observe → Observe) : (d.modObs f).mailbox = d.mailbox := rfl
@[simp] theorem Dev.modObs_canal (d : Dev) (f : Observe → Observe) : (d.modObs f).canal = d.canal := rfl
@[simp] theorem Dev.modObs_locks (d : Dev) (f : Observe → Observe) : (d.modObs f).locks = d.locks := rfl
@[simp] theorem Dev.modObs_tiles (d : Dev) (f : Observe → Observe) : (d.modObs f).tiles = d.tiles := rfl
@[simp] theorem Dev.modObs_reduce (d : Dev) (f : Observe → Observe) : (d.modObs f).reduce = d.reduce := rfl
@[simp] theorem Dev.modObs_mem (d : Dev) (f : Observe → Observe) : (d.modObs f).mem = d.mem := rfl
@[simp] theorem Dev.modObs_hbm (d : Dev) (f : Observe → Observe) : (d.modObs f).hbm = d.hbm := rfl
@[simp] theorem Dev.modObs_wharf (d : Dev) (f : Observe → Observe) : (d.modObs f).wharf = d.wharf := rfl
@[simp] theorem Dev.modObs_kv (d : Dev) (f : Observe → Observe) : (d.modObs f).kv = d.kv := rfl
@[simp] theorem Dev.modObs_host (d : Dev) (f : Observe → Observe) : (d.modObs f).host = d.host := rfl
@[simp] theorem Dev.modObs_acc (d : Dev) (f : Observe → Observe) : (d.modObs f).acc = d.acc := rfl
@[simp] theorem Dev.modObs_net (d : Dev) (f : Observe → Observe) : (d.modObs f).net = d.net := rfl
@[simp] theorem Dev.modObs_tp (d : Dev) (f : Observe → Observe) : (d.modObs f).tp = d.tp := rfl
@[simp] theorem Dev.modObs_ring (d : Dev) (f : Observe → Observe) : (d.modObs f).ring = d.ring := rfl
@[simp] theorem Dev.modObs_cells (d : Dev) (f : Observe → Observe) : (d.modObs f).cells = d.cells := rfl
@[simp] theorem Dev.modObs_time (d : Dev) (f : Observe → Observe) : (d.modObs f).time = d.time := rfl
@[simp] theorem Dev.modObs_storage (d : Dev) (f : Observe → Observe) : (d.modObs f).storage = d.storage := rfl
@[simp] theorem Dev.modObs_sec (d : Dev) (f : Observe → Observe) : (d.modObs f).sec = d.sec := rfl
@[simp] theorem Dev.modObs_ctrl (d : Dev) (f : Observe → Observe) : (d.modObs f).ctrl = d.ctrl := rfl
@[simp] theorem Dev.modObs_cores (d : Dev) (f : Observe → Observe) : (d.modObs f).cores = d.cores := rfl
@[simp] theorem Dev.modObs_rel (d : Dev) (f : Observe → Observe) : (d.modObs f).rel = d.rel := rfl
@[simp] theorem Dev.modObs_ledger (d : Dev) (f : Observe → Observe) : (d.modObs f).ledger = d.ledger := rfl
@[simp] theorem Dev.modObs_heldCmds (d : Dev) (f : Observe → Observe) : (d.modObs f).heldCmds = d.heldCmds := rfl
@[simp] theorem Dev.modObs_unsent (d : Dev) (f : Observe → Observe) : (d.modObs f).unsent = d.unsent := rfl
@[simp] theorem Dev.modObs_out (d : Dev) (f : Observe → Observe) : (d.modObs f).out = d.out := rfl
@[simp] theorem Dev.modObs_fresh (d : Dev) (f : Observe → Observe) : (d.modObs f).fresh = d.fresh := rfl

@[simp] theorem Dev.modLedger_ledger (d : Dev) (f : Ledger → Ledger) : (d.modLedger f).ledger = f d.ledger := rfl
@[simp] theorem Dev.modLedger_uptime (d : Dev) (f : Ledger → Ledger) : (d.modLedger f).uptime = d.uptime := rfl
@[simp] theorem Dev.modLedger_csr (d : Dev) (f : Ledger → Ledger) : (d.modLedger f).csr = d.csr := rfl
@[simp] theorem Dev.modLedger_power (d : Dev) (f : Ledger → Ledger) : (d.modLedger f).power = d.power := rfl
@[simp] theorem Dev.modLedger_boot (d : Dev) (f : Ledger → Ledger) : (d.modLedger f).boot = d.boot := rfl
@[simp] theorem Dev.modLedger_manifest (d : Dev) (f : Ledger → Ledger) : (d.modLedger f).manifest = d.manifest := rfl
@[simp] theorem Dev.modLedger_expert (d : Dev) (f : Ledger → Ledger) : (d.modLedger f).expert = d.expert := rfl
@[simp] theorem Dev.modLedger_mailbox (d : Dev) (f : Ledger → Ledger) : (d.modLedger f).mailbox = d.mailbox := rfl
@[simp] theorem Dev.modLedger_canal (d : Dev) (f : Ledger → Ledger) : (d.modLedger f).canal = d.canal := rfl
@[simp] theorem Dev.modLedger_locks (d : Dev) (f : Ledger → Ledger) : (d.modLedger f).locks = d.locks := rfl
@[simp] theorem Dev.modLedger_tiles (d : Dev) (f : Ledger → Ledger) : (d.modLedger f).tiles = d.tiles := rfl
@[simp] theorem Dev.modLedger_reduce (d : Dev) (f : Ledger → Ledger) : (d.modLedger f).reduce = d.reduce := rfl
@[simp] theorem Dev.modLedger_mem (d : Dev) (f : Ledger → Ledger) : (d.modLedger f).mem = d.mem := rfl
@[simp] theorem Dev.modLedger_hbm (d : Dev) (f : Ledger → Ledger) : (d.modLedger f).hbm = d.hbm := rfl
@[simp] theorem Dev.modLedger_wharf (d : Dev) (f : Ledger → Ledger) : (d.modLedger f).wharf = d.wharf := rfl
@[simp] theorem Dev.modLedger_kv (d : Dev) (f : Ledger → Ledger) : (d.modLedger f).kv = d.kv := rfl
@[simp] theorem Dev.modLedger_host (d : Dev) (f : Ledger → Ledger) : (d.modLedger f).host = d.host := rfl
@[simp] theorem Dev.modLedger_acc (d : Dev) (f : Ledger → Ledger) : (d.modLedger f).acc = d.acc := rfl
@[simp] theorem Dev.modLedger_net (d : Dev) (f : Ledger → Ledger) : (d.modLedger f).net = d.net := rfl
@[simp] theorem Dev.modLedger_tp (d : Dev) (f : Ledger → Ledger) : (d.modLedger f).tp = d.tp := rfl
@[simp] theorem Dev.modLedger_ring (d : Dev) (f : Ledger → Ledger) : (d.modLedger f).ring = d.ring := rfl
@[simp] theorem Dev.modLedger_cells (d : Dev) (f : Ledger → Ledger) : (d.modLedger f).cells = d.cells := rfl
@[simp] theorem Dev.modLedger_time (d : Dev) (f : Ledger → Ledger) : (d.modLedger f).time = d.time := rfl
@[simp] theorem Dev.modLedger_storage (d : Dev) (f : Ledger → Ledger) : (d.modLedger f).storage = d.storage := rfl
@[simp] theorem Dev.modLedger_sec (d : Dev) (f : Ledger → Ledger) : (d.modLedger f).sec = d.sec := rfl
@[simp] theorem Dev.modLedger_ctrl (d : Dev) (f : Ledger → Ledger) : (d.modLedger f).ctrl = d.ctrl := rfl
@[simp] theorem Dev.modLedger_cores (d : Dev) (f : Ledger → Ledger) : (d.modLedger f).cores = d.cores := rfl
@[simp] theorem Dev.modLedger_rel (d : Dev) (f : Ledger → Ledger) : (d.modLedger f).rel = d.rel := rfl
@[simp] theorem Dev.modLedger_obs (d : Dev) (f : Ledger → Ledger) : (d.modLedger f).obs = d.obs := rfl
@[simp] theorem Dev.modLedger_heldCmds (d : Dev) (f : Ledger → Ledger) : (d.modLedger f).heldCmds = d.heldCmds := rfl
@[simp] theorem Dev.modLedger_unsent (d : Dev) (f : Ledger → Ledger) : (d.modLedger f).unsent = d.unsent := rfl
@[simp] theorem Dev.modLedger_out (d : Dev) (f : Ledger → Ledger) : (d.modLedger f).out = d.out := rfl
@[simp] theorem Dev.modLedger_fresh (d : Dev) (f : Ledger → Ledger) : (d.modLedger f).fresh = d.fresh := rfl

@[simp] theorem Dev.modTile_uptime (d : Dev) (n : Nat) (f : Tile → Tile) : (d.modTile n f).uptime = d.uptime := rfl
@[simp] theorem Dev.modTile_csr (d : Dev) (n : Nat) (f : Tile → Tile) : (d.modTile n f).csr = d.csr := rfl
@[simp] theorem Dev.modTile_power (d : Dev) (n : Nat) (f : Tile → Tile) : (d.modTile n f).power = d.power := rfl
@[simp] theorem Dev.modTile_boot (d : Dev) (n : Nat) (f : Tile → Tile) : (d.modTile n f).boot = d.boot := rfl
@[simp] theorem Dev.modTile_manifest (d : Dev) (n : Nat) (f : Tile → Tile) : (d.modTile n f).manifest = d.manifest := rfl
@[simp] theorem Dev.modTile_expert (d : Dev) (n : Nat) (f : Tile → Tile) : (d.modTile n f).expert = d.expert := rfl
@[simp] theorem Dev.modTile_mailbox (d : Dev) (n : Nat) (f : Tile → Tile) : (d.modTile n f).mailbox = d.mailbox := rfl
@[simp] theorem Dev.modTile_canal (d : Dev) (n : Nat) (f : Tile → Tile) : (d.modTile n f).canal = d.canal := rfl
@[simp] theorem Dev.modTile_locks (d : Dev) (n : Nat) (f : Tile → Tile) : (d.modTile n f).locks = d.locks := rfl
@[simp] theorem Dev.modTile_reduce (d : Dev) (n : Nat) (f : Tile → Tile) : (d.modTile n f).reduce = d.reduce := rfl
@[simp] theorem Dev.modTile_mem (d : Dev) (n : Nat) (f : Tile → Tile) : (d.modTile n f).mem = d.mem := rfl
@[simp] theorem Dev.modTile_hbm (d : Dev) (n : Nat) (f : Tile → Tile) : (d.modTile n f).hbm = d.hbm := rfl
@[simp] theorem Dev.modTile_wharf (d : Dev) (n : Nat) (f : Tile → Tile) : (d.modTile n f).wharf = d.wharf := rfl
@[simp] theorem Dev.modTile_kv (d : Dev) (n : Nat) (f : Tile → Tile) : (d.modTile n f).kv = d.kv := rfl
@[simp] theorem Dev.modTile_host (d : Dev) (n : Nat) (f : Tile → Tile) : (d.modTile n f).host = d.host := rfl
@[simp] theorem Dev.modTile_acc (d : Dev) (n : Nat) (f : Tile → Tile) : (d.modTile n f).acc = d.acc := rfl
@[simp] theorem Dev.modTile_net (d : Dev) (n : Nat) (f : Tile → Tile) : (d.modTile n f).net = d.net := rfl
@[simp] theorem Dev.modTile_tp (d : Dev) (n : Nat) (f : Tile → Tile) : (d.modTile n f).tp = d.tp := rfl
@[simp] theorem Dev.modTile_ring (d : Dev) (n : Nat) (f : Tile → Tile) : (d.modTile n f).ring = d.ring := rfl
@[simp] theorem Dev.modTile_cells (d : Dev) (n : Nat) (f : Tile → Tile) : (d.modTile n f).cells = d.cells := rfl
@[simp] theorem Dev.modTile_time (d : Dev) (n : Nat) (f : Tile → Tile) : (d.modTile n f).time = d.time := rfl
@[simp] theorem Dev.modTile_storage (d : Dev) (n : Nat) (f : Tile → Tile) : (d.modTile n f).storage = d.storage := rfl
@[simp] theorem Dev.modTile_sec (d : Dev) (n : Nat) (f : Tile → Tile) : (d.modTile n f).sec = d.sec := rfl
@[simp] theorem Dev.modTile_ctrl (d : Dev) (n : Nat) (f : Tile → Tile) : (d.modTile n f).ctrl = d.ctrl := rfl
@[simp] theorem Dev.modTile_cores (d : Dev) (n : Nat) (f : Tile → Tile) : (d.modTile n f).cores = d.cores := rfl
@[simp] theorem Dev.modTile_rel (d : Dev) (n : Nat) (f : Tile → Tile) : (d.modTile n f).rel = d.rel := rfl
@[simp] theorem Dev.modTile_obs (d : Dev) (n : Nat) (f : Tile → Tile) : (d.modTile n f).obs = d.obs := rfl
@[simp] theorem Dev.modTile_ledger (d : Dev) (n : Nat) (f : Tile → Tile) : (d.modTile n f).ledger = d.ledger := rfl
@[simp] theorem Dev.modTile_heldCmds (d : Dev) (n : Nat) (f : Tile → Tile) : (d.modTile n f).heldCmds = d.heldCmds := rfl
@[simp] theorem Dev.modTile_unsent (d : Dev) (n : Nat) (f : Tile → Tile) : (d.modTile n f).unsent = d.unsent := rfl
@[simp] theorem Dev.modTile_out (d : Dev) (n : Nat) (f : Tile → Tile) : (d.modTile n f).out = d.out := rfl
@[simp] theorem Dev.modTile_fresh (d : Dev) (n : Nat) (f : Tile → Tile) : (d.modTile n f).fresh = d.fresh := rfl

@[simp] theorem Dev.modCore_uptime (d : Dev) (n : Nat) (f : Core → Core) : (d.modCore n f).uptime = d.uptime := rfl
@[simp] theorem Dev.modCore_csr (d : Dev) (n : Nat) (f : Core → Core) : (d.modCore n f).csr = d.csr := rfl
@[simp] theorem Dev.modCore_power (d : Dev) (n : Nat) (f : Core → Core) : (d.modCore n f).power = d.power := rfl
@[simp] theorem Dev.modCore_boot (d : Dev) (n : Nat) (f : Core → Core) : (d.modCore n f).boot = d.boot := rfl
@[simp] theorem Dev.modCore_manifest (d : Dev) (n : Nat) (f : Core → Core) : (d.modCore n f).manifest = d.manifest := rfl
@[simp] theorem Dev.modCore_expert (d : Dev) (n : Nat) (f : Core → Core) : (d.modCore n f).expert = d.expert := rfl
@[simp] theorem Dev.modCore_mailbox (d : Dev) (n : Nat) (f : Core → Core) : (d.modCore n f).mailbox = d.mailbox := rfl
@[simp] theorem Dev.modCore_canal (d : Dev) (n : Nat) (f : Core → Core) : (d.modCore n f).canal = d.canal := rfl
@[simp] theorem Dev.modCore_locks (d : Dev) (n : Nat) (f : Core → Core) : (d.modCore n f).locks = d.locks := rfl
@[simp] theorem Dev.modCore_tiles (d : Dev) (n : Nat) (f : Core → Core) : (d.modCore n f).tiles = d.tiles := rfl
@[simp] theorem Dev.modCore_reduce (d : Dev) (n : Nat) (f : Core → Core) : (d.modCore n f).reduce = d.reduce := rfl
@[simp] theorem Dev.modCore_mem (d : Dev) (n : Nat) (f : Core → Core) : (d.modCore n f).mem = d.mem := rfl
@[simp] theorem Dev.modCore_hbm (d : Dev) (n : Nat) (f : Core → Core) : (d.modCore n f).hbm = d.hbm := rfl
@[simp] theorem Dev.modCore_wharf (d : Dev) (n : Nat) (f : Core → Core) : (d.modCore n f).wharf = d.wharf := rfl
@[simp] theorem Dev.modCore_kv (d : Dev) (n : Nat) (f : Core → Core) : (d.modCore n f).kv = d.kv := rfl
@[simp] theorem Dev.modCore_host (d : Dev) (n : Nat) (f : Core → Core) : (d.modCore n f).host = d.host := rfl
@[simp] theorem Dev.modCore_acc (d : Dev) (n : Nat) (f : Core → Core) : (d.modCore n f).acc = d.acc := rfl
@[simp] theorem Dev.modCore_net (d : Dev) (n : Nat) (f : Core → Core) : (d.modCore n f).net = d.net := rfl
@[simp] theorem Dev.modCore_tp (d : Dev) (n : Nat) (f : Core → Core) : (d.modCore n f).tp = d.tp := rfl
@[simp] theorem Dev.modCore_ring (d : Dev) (n : Nat) (f : Core → Core) : (d.modCore n f).ring = d.ring := rfl
@[simp] theorem Dev.modCore_cells (d : Dev) (n : Nat) (f : Core → Core) : (d.modCore n f).cells = d.cells := rfl
@[simp] theorem Dev.modCore_time (d : Dev) (n : Nat) (f : Core → Core) : (d.modCore n f).time = d.time := rfl
@[simp] theorem Dev.modCore_storage (d : Dev) (n : Nat) (f : Core → Core) : (d.modCore n f).storage = d.storage := rfl
@[simp] theorem Dev.modCore_sec (d : Dev) (n : Nat) (f : Core → Core) : (d.modCore n f).sec = d.sec := rfl
@[simp] theorem Dev.modCore_ctrl (d : Dev) (n : Nat) (f : Core → Core) : (d.modCore n f).ctrl = d.ctrl := rfl
@[simp] theorem Dev.modCore_rel (d : Dev) (n : Nat) (f : Core → Core) : (d.modCore n f).rel = d.rel := rfl
@[simp] theorem Dev.modCore_obs (d : Dev) (n : Nat) (f : Core → Core) : (d.modCore n f).obs = d.obs := rfl
@[simp] theorem Dev.modCore_ledger (d : Dev) (n : Nat) (f : Core → Core) : (d.modCore n f).ledger = d.ledger := rfl
@[simp] theorem Dev.modCore_heldCmds (d : Dev) (n : Nat) (f : Core → Core) : (d.modCore n f).heldCmds = d.heldCmds := rfl
@[simp] theorem Dev.modCore_unsent (d : Dev) (n : Nat) (f : Core → Core) : (d.modCore n f).unsent = d.unsent := rfl
@[simp] theorem Dev.modCore_out (d : Dev) (n : Nat) (f : Core → Core) : (d.modCore n f).out = d.out := rfl
@[simp] theorem Dev.modCore_fresh (d : Dev) (n : Nat) (f : Core → Core) : (d.modCore n f).fresh = d.fresh := rfl

@[simp] theorem Dev.modInst_uptime (d : Dev) (n : Nat) (f : Inst → Inst) : (d.modInst n f).uptime = d.uptime := rfl
@[simp] theorem Dev.modInst_csr (d : Dev) (n : Nat) (f : Inst → Inst) : (d.modInst n f).csr = d.csr := rfl
@[simp] theorem Dev.modInst_power (d : Dev) (n : Nat) (f : Inst → Inst) : (d.modInst n f).power = d.power := rfl
@[simp] theorem Dev.modInst_boot (d : Dev) (n : Nat) (f : Inst → Inst) : (d.modInst n f).boot = d.boot := rfl
@[simp] theorem Dev.modInst_manifest (d : Dev) (n : Nat) (f : Inst → Inst) : (d.modInst n f).manifest = d.manifest := rfl
@[simp] theorem Dev.modInst_expert (d : Dev) (n : Nat) (f : Inst → Inst) : (d.modInst n f).expert = d.expert := rfl
@[simp] theorem Dev.modInst_mailbox (d : Dev) (n : Nat) (f : Inst → Inst) : (d.modInst n f).mailbox = d.mailbox := rfl
@[simp] theorem Dev.modInst_canal (d : Dev) (n : Nat) (f : Inst → Inst) : (d.modInst n f).canal = d.canal := rfl
@[simp] theorem Dev.modInst_locks (d : Dev) (n : Nat) (f : Inst → Inst) : (d.modInst n f).locks = d.locks := rfl
@[simp] theorem Dev.modInst_tiles (d : Dev) (n : Nat) (f : Inst → Inst) : (d.modInst n f).tiles = d.tiles := rfl
@[simp] theorem Dev.modInst_reduce (d : Dev) (n : Nat) (f : Inst → Inst) : (d.modInst n f).reduce = d.reduce := rfl
@[simp] theorem Dev.modInst_mem (d : Dev) (n : Nat) (f : Inst → Inst) : (d.modInst n f).mem = d.mem := rfl
@[simp] theorem Dev.modInst_hbm (d : Dev) (n : Nat) (f : Inst → Inst) : (d.modInst n f).hbm = d.hbm := rfl
@[simp] theorem Dev.modInst_wharf (d : Dev) (n : Nat) (f : Inst → Inst) : (d.modInst n f).wharf = d.wharf := rfl
@[simp] theorem Dev.modInst_kv (d : Dev) (n : Nat) (f : Inst → Inst) : (d.modInst n f).kv = d.kv := rfl
@[simp] theorem Dev.modInst_acc (d : Dev) (n : Nat) (f : Inst → Inst) : (d.modInst n f).acc = d.acc := rfl
@[simp] theorem Dev.modInst_net (d : Dev) (n : Nat) (f : Inst → Inst) : (d.modInst n f).net = d.net := rfl
@[simp] theorem Dev.modInst_tp (d : Dev) (n : Nat) (f : Inst → Inst) : (d.modInst n f).tp = d.tp := rfl
@[simp] theorem Dev.modInst_ring (d : Dev) (n : Nat) (f : Inst → Inst) : (d.modInst n f).ring = d.ring := rfl
@[simp] theorem Dev.modInst_cells (d : Dev) (n : Nat) (f : Inst → Inst) : (d.modInst n f).cells = d.cells := rfl
@[simp] theorem Dev.modInst_time (d : Dev) (n : Nat) (f : Inst → Inst) : (d.modInst n f).time = d.time := rfl
@[simp] theorem Dev.modInst_storage (d : Dev) (n : Nat) (f : Inst → Inst) : (d.modInst n f).storage = d.storage := rfl
@[simp] theorem Dev.modInst_sec (d : Dev) (n : Nat) (f : Inst → Inst) : (d.modInst n f).sec = d.sec := rfl
@[simp] theorem Dev.modInst_ctrl (d : Dev) (n : Nat) (f : Inst → Inst) : (d.modInst n f).ctrl = d.ctrl := rfl
@[simp] theorem Dev.modInst_cores (d : Dev) (n : Nat) (f : Inst → Inst) : (d.modInst n f).cores = d.cores := rfl
@[simp] theorem Dev.modInst_rel (d : Dev) (n : Nat) (f : Inst → Inst) : (d.modInst n f).rel = d.rel := rfl
@[simp] theorem Dev.modInst_obs (d : Dev) (n : Nat) (f : Inst → Inst) : (d.modInst n f).obs = d.obs := rfl
@[simp] theorem Dev.modInst_ledger (d : Dev) (n : Nat) (f : Inst → Inst) : (d.modInst n f).ledger = d.ledger := rfl
@[simp] theorem Dev.modInst_heldCmds (d : Dev) (n : Nat) (f : Inst → Inst) : (d.modInst n f).heldCmds = d.heldCmds := rfl
@[simp] theorem Dev.modInst_unsent (d : Dev) (n : Nat) (f : Inst → Inst) : (d.modInst n f).unsent = d.unsent := rfl
@[simp] theorem Dev.modInst_out (d : Dev) (n : Nat) (f : Inst → Inst) : (d.modInst n f).out = d.out := rfl
@[simp] theorem Dev.modInst_fresh (d : Dev) (n : Nat) (f : Inst → Inst) : (d.modInst n f).fresh = d.fresh := rfl

@[simp] theorem Dev.modCtl_uptime (d : Dev) (n : Nat) (f : HbmCtl → HbmCtl) : (d.modCtl n f).uptime = d.uptime := rfl
@[simp] theorem Dev.modCtl_csr (d : Dev) (n : Nat) (f : HbmCtl → HbmCtl) : (d.modCtl n f).csr = d.csr := rfl
@[simp] theorem Dev.modCtl_power (d : Dev) (n : Nat) (f : HbmCtl → HbmCtl) : (d.modCtl n f).power = d.power := rfl
@[simp] theorem Dev.modCtl_boot (d : Dev) (n : Nat) (f : HbmCtl → HbmCtl) : (d.modCtl n f).boot = d.boot := rfl
@[simp] theorem Dev.modCtl_manifest (d : Dev) (n : Nat) (f : HbmCtl → HbmCtl) : (d.modCtl n f).manifest = d.manifest := rfl
@[simp] theorem Dev.modCtl_expert (d : Dev) (n : Nat) (f : HbmCtl → HbmCtl) : (d.modCtl n f).expert = d.expert := rfl
@[simp] theorem Dev.modCtl_mailbox (d : Dev) (n : Nat) (f : HbmCtl → HbmCtl) : (d.modCtl n f).mailbox = d.mailbox := rfl
@[simp] theorem Dev.modCtl_canal (d : Dev) (n : Nat) (f : HbmCtl → HbmCtl) : (d.modCtl n f).canal = d.canal := rfl
@[simp] theorem Dev.modCtl_locks (d : Dev) (n : Nat) (f : HbmCtl → HbmCtl) : (d.modCtl n f).locks = d.locks := rfl
@[simp] theorem Dev.modCtl_tiles (d : Dev) (n : Nat) (f : HbmCtl → HbmCtl) : (d.modCtl n f).tiles = d.tiles := rfl
@[simp] theorem Dev.modCtl_reduce (d : Dev) (n : Nat) (f : HbmCtl → HbmCtl) : (d.modCtl n f).reduce = d.reduce := rfl
@[simp] theorem Dev.modCtl_mem (d : Dev) (n : Nat) (f : HbmCtl → HbmCtl) : (d.modCtl n f).mem = d.mem := rfl
@[simp] theorem Dev.modCtl_wharf (d : Dev) (n : Nat) (f : HbmCtl → HbmCtl) : (d.modCtl n f).wharf = d.wharf := rfl
@[simp] theorem Dev.modCtl_kv (d : Dev) (n : Nat) (f : HbmCtl → HbmCtl) : (d.modCtl n f).kv = d.kv := rfl
@[simp] theorem Dev.modCtl_host (d : Dev) (n : Nat) (f : HbmCtl → HbmCtl) : (d.modCtl n f).host = d.host := rfl
@[simp] theorem Dev.modCtl_acc (d : Dev) (n : Nat) (f : HbmCtl → HbmCtl) : (d.modCtl n f).acc = d.acc := rfl
@[simp] theorem Dev.modCtl_net (d : Dev) (n : Nat) (f : HbmCtl → HbmCtl) : (d.modCtl n f).net = d.net := rfl
@[simp] theorem Dev.modCtl_tp (d : Dev) (n : Nat) (f : HbmCtl → HbmCtl) : (d.modCtl n f).tp = d.tp := rfl
@[simp] theorem Dev.modCtl_ring (d : Dev) (n : Nat) (f : HbmCtl → HbmCtl) : (d.modCtl n f).ring = d.ring := rfl
@[simp] theorem Dev.modCtl_cells (d : Dev) (n : Nat) (f : HbmCtl → HbmCtl) : (d.modCtl n f).cells = d.cells := rfl
@[simp] theorem Dev.modCtl_time (d : Dev) (n : Nat) (f : HbmCtl → HbmCtl) : (d.modCtl n f).time = d.time := rfl
@[simp] theorem Dev.modCtl_storage (d : Dev) (n : Nat) (f : HbmCtl → HbmCtl) : (d.modCtl n f).storage = d.storage := rfl
@[simp] theorem Dev.modCtl_sec (d : Dev) (n : Nat) (f : HbmCtl → HbmCtl) : (d.modCtl n f).sec = d.sec := rfl
@[simp] theorem Dev.modCtl_ctrl (d : Dev) (n : Nat) (f : HbmCtl → HbmCtl) : (d.modCtl n f).ctrl = d.ctrl := rfl
@[simp] theorem Dev.modCtl_cores (d : Dev) (n : Nat) (f : HbmCtl → HbmCtl) : (d.modCtl n f).cores = d.cores := rfl
@[simp] theorem Dev.modCtl_rel (d : Dev) (n : Nat) (f : HbmCtl → HbmCtl) : (d.modCtl n f).rel = d.rel := rfl
@[simp] theorem Dev.modCtl_obs (d : Dev) (n : Nat) (f : HbmCtl → HbmCtl) : (d.modCtl n f).obs = d.obs := rfl
@[simp] theorem Dev.modCtl_ledger (d : Dev) (n : Nat) (f : HbmCtl → HbmCtl) : (d.modCtl n f).ledger = d.ledger := rfl
@[simp] theorem Dev.modCtl_heldCmds (d : Dev) (n : Nat) (f : HbmCtl → HbmCtl) : (d.modCtl n f).heldCmds = d.heldCmds := rfl
@[simp] theorem Dev.modCtl_unsent (d : Dev) (n : Nat) (f : HbmCtl → HbmCtl) : (d.modCtl n f).unsent = d.unsent := rfl
@[simp] theorem Dev.modCtl_out (d : Dev) (n : Nat) (f : HbmCtl → HbmCtl) : (d.modCtl n f).out = d.out := rfl
@[simp] theorem Dev.modCtl_fresh (d : Dev) (n : Nat) (f : HbmCtl → HbmCtl) : (d.modCtl n f).fresh = d.fresh := rfl

@[simp] theorem Dev.modLock_uptime (d : Dev) (n : Nat) (f : Lock → Lock) : (d.modLock n f).uptime = d.uptime := rfl
@[simp] theorem Dev.modLock_csr (d : Dev) (n : Nat) (f : Lock → Lock) : (d.modLock n f).csr = d.csr := rfl
@[simp] theorem Dev.modLock_power (d : Dev) (n : Nat) (f : Lock → Lock) : (d.modLock n f).power = d.power := rfl
@[simp] theorem Dev.modLock_boot (d : Dev) (n : Nat) (f : Lock → Lock) : (d.modLock n f).boot = d.boot := rfl
@[simp] theorem Dev.modLock_manifest (d : Dev) (n : Nat) (f : Lock → Lock) : (d.modLock n f).manifest = d.manifest := rfl
@[simp] theorem Dev.modLock_expert (d : Dev) (n : Nat) (f : Lock → Lock) : (d.modLock n f).expert = d.expert := rfl
@[simp] theorem Dev.modLock_mailbox (d : Dev) (n : Nat) (f : Lock → Lock) : (d.modLock n f).mailbox = d.mailbox := rfl
@[simp] theorem Dev.modLock_canal (d : Dev) (n : Nat) (f : Lock → Lock) : (d.modLock n f).canal = d.canal := rfl
@[simp] theorem Dev.modLock_tiles (d : Dev) (n : Nat) (f : Lock → Lock) : (d.modLock n f).tiles = d.tiles := rfl
@[simp] theorem Dev.modLock_reduce (d : Dev) (n : Nat) (f : Lock → Lock) : (d.modLock n f).reduce = d.reduce := rfl
@[simp] theorem Dev.modLock_mem (d : Dev) (n : Nat) (f : Lock → Lock) : (d.modLock n f).mem = d.mem := rfl
@[simp] theorem Dev.modLock_hbm (d : Dev) (n : Nat) (f : Lock → Lock) : (d.modLock n f).hbm = d.hbm := rfl
@[simp] theorem Dev.modLock_wharf (d : Dev) (n : Nat) (f : Lock → Lock) : (d.modLock n f).wharf = d.wharf := rfl
@[simp] theorem Dev.modLock_kv (d : Dev) (n : Nat) (f : Lock → Lock) : (d.modLock n f).kv = d.kv := rfl
@[simp] theorem Dev.modLock_host (d : Dev) (n : Nat) (f : Lock → Lock) : (d.modLock n f).host = d.host := rfl
@[simp] theorem Dev.modLock_acc (d : Dev) (n : Nat) (f : Lock → Lock) : (d.modLock n f).acc = d.acc := rfl
@[simp] theorem Dev.modLock_net (d : Dev) (n : Nat) (f : Lock → Lock) : (d.modLock n f).net = d.net := rfl
@[simp] theorem Dev.modLock_tp (d : Dev) (n : Nat) (f : Lock → Lock) : (d.modLock n f).tp = d.tp := rfl
@[simp] theorem Dev.modLock_ring (d : Dev) (n : Nat) (f : Lock → Lock) : (d.modLock n f).ring = d.ring := rfl
@[simp] theorem Dev.modLock_cells (d : Dev) (n : Nat) (f : Lock → Lock) : (d.modLock n f).cells = d.cells := rfl
@[simp] theorem Dev.modLock_time (d : Dev) (n : Nat) (f : Lock → Lock) : (d.modLock n f).time = d.time := rfl
@[simp] theorem Dev.modLock_storage (d : Dev) (n : Nat) (f : Lock → Lock) : (d.modLock n f).storage = d.storage := rfl
@[simp] theorem Dev.modLock_sec (d : Dev) (n : Nat) (f : Lock → Lock) : (d.modLock n f).sec = d.sec := rfl
@[simp] theorem Dev.modLock_ctrl (d : Dev) (n : Nat) (f : Lock → Lock) : (d.modLock n f).ctrl = d.ctrl := rfl
@[simp] theorem Dev.modLock_cores (d : Dev) (n : Nat) (f : Lock → Lock) : (d.modLock n f).cores = d.cores := rfl
@[simp] theorem Dev.modLock_rel (d : Dev) (n : Nat) (f : Lock → Lock) : (d.modLock n f).rel = d.rel := rfl
@[simp] theorem Dev.modLock_obs (d : Dev) (n : Nat) (f : Lock → Lock) : (d.modLock n f).obs = d.obs := rfl
@[simp] theorem Dev.modLock_ledger (d : Dev) (n : Nat) (f : Lock → Lock) : (d.modLock n f).ledger = d.ledger := rfl
@[simp] theorem Dev.modLock_heldCmds (d : Dev) (n : Nat) (f : Lock → Lock) : (d.modLock n f).heldCmds = d.heldCmds := rfl
@[simp] theorem Dev.modLock_unsent (d : Dev) (n : Nat) (f : Lock → Lock) : (d.modLock n f).unsent = d.unsent := rfl
@[simp] theorem Dev.modLock_out (d : Dev) (n : Nat) (f : Lock → Lock) : (d.modLock n f).out = d.out := rfl
@[simp] theorem Dev.modLock_fresh (d : Dev) (n : Nat) (f : Lock → Lock) : (d.modLock n f).fresh = d.fresh := rfl

@[simp] theorem Dev.emit_uptime (d : Dev) (o : Out) : (d.emit o).uptime = d.uptime := rfl
@[simp] theorem Dev.emit_csr (d : Dev) (o : Out) : (d.emit o).csr = d.csr := rfl
@[simp] theorem Dev.emit_power (d : Dev) (o : Out) : (d.emit o).power = d.power := rfl
@[simp] theorem Dev.emit_boot (d : Dev) (o : Out) : (d.emit o).boot = d.boot := rfl
@[simp] theorem Dev.emit_manifest (d : Dev) (o : Out) : (d.emit o).manifest = d.manifest := rfl
@[simp] theorem Dev.emit_expert (d : Dev) (o : Out) : (d.emit o).expert = d.expert := rfl
@[simp] theorem Dev.emit_mailbox (d : Dev) (o : Out) : (d.emit o).mailbox = d.mailbox := rfl
@[simp] theorem Dev.emit_canal (d : Dev) (o : Out) : (d.emit o).canal = d.canal := rfl
@[simp] theorem Dev.emit_locks (d : Dev) (o : Out) : (d.emit o).locks = d.locks := rfl
@[simp] theorem Dev.emit_tiles (d : Dev) (o : Out) : (d.emit o).tiles = d.tiles := rfl
@[simp] theorem Dev.emit_reduce (d : Dev) (o : Out) : (d.emit o).reduce = d.reduce := rfl
@[simp] theorem Dev.emit_mem (d : Dev) (o : Out) : (d.emit o).mem = d.mem := rfl
@[simp] theorem Dev.emit_hbm (d : Dev) (o : Out) : (d.emit o).hbm = d.hbm := rfl
@[simp] theorem Dev.emit_wharf (d : Dev) (o : Out) : (d.emit o).wharf = d.wharf := rfl
@[simp] theorem Dev.emit_kv (d : Dev) (o : Out) : (d.emit o).kv = d.kv := rfl
@[simp] theorem Dev.emit_host (d : Dev) (o : Out) : (d.emit o).host = d.host := rfl
@[simp] theorem Dev.emit_acc (d : Dev) (o : Out) : (d.emit o).acc = d.acc := rfl
@[simp] theorem Dev.emit_net (d : Dev) (o : Out) : (d.emit o).net = d.net := rfl
@[simp] theorem Dev.emit_tp (d : Dev) (o : Out) : (d.emit o).tp = d.tp := rfl
@[simp] theorem Dev.emit_ring (d : Dev) (o : Out) : (d.emit o).ring = d.ring := rfl
@[simp] theorem Dev.emit_cells (d : Dev) (o : Out) : (d.emit o).cells = d.cells := rfl
@[simp] theorem Dev.emit_time (d : Dev) (o : Out) : (d.emit o).time = d.time := rfl
@[simp] theorem Dev.emit_storage (d : Dev) (o : Out) : (d.emit o).storage = d.storage := rfl
@[simp] theorem Dev.emit_sec (d : Dev) (o : Out) : (d.emit o).sec = d.sec := rfl
@[simp] theorem Dev.emit_ctrl (d : Dev) (o : Out) : (d.emit o).ctrl = d.ctrl := rfl
@[simp] theorem Dev.emit_cores (d : Dev) (o : Out) : (d.emit o).cores = d.cores := rfl
@[simp] theorem Dev.emit_rel (d : Dev) (o : Out) : (d.emit o).rel = d.rel := rfl
@[simp] theorem Dev.emit_obs (d : Dev) (o : Out) : (d.emit o).obs = d.obs := rfl
@[simp] theorem Dev.emit_ledger (d : Dev) (o : Out) : (d.emit o).ledger = d.ledger := rfl
@[simp] theorem Dev.emit_heldCmds (d : Dev) (o : Out) : (d.emit o).heldCmds = d.heldCmds := rfl
@[simp] theorem Dev.emit_unsent (d : Dev) (o : Out) : (d.emit o).unsent = d.unsent := rfl
@[simp] theorem Dev.emit_fresh (d : Dev) (o : Out) : (d.emit o).fresh = d.fresh := rfl
@[simp] theorem Dev.emit_out (d : Dev) (o : Out) : (d.emit o).out = d.out ++ [o] := rfl

@[simp] theorem Dev.csrSet_uptime (d : Dev) (off : Nat) (w : Word) : (d.csrSet off w).uptime = d.uptime := rfl
@[simp] theorem Dev.csrSet_power (d : Dev) (off : Nat) (w : Word) : (d.csrSet off w).power = d.power := rfl
@[simp] theorem Dev.csrSet_boot (d : Dev) (off : Nat) (w : Word) : (d.csrSet off w).boot = d.boot := rfl
@[simp] theorem Dev.csrSet_manifest (d : Dev) (off : Nat) (w : Word) : (d.csrSet off w).manifest = d.manifest := rfl
@[simp] theorem Dev.csrSet_expert (d : Dev) (off : Nat) (w : Word) : (d.csrSet off w).expert = d.expert := rfl
@[simp] theorem Dev.csrSet_mailbox (d : Dev) (off : Nat) (w : Word) : (d.csrSet off w).mailbox = d.mailbox := rfl
@[simp] theorem Dev.csrSet_canal (d : Dev) (off : Nat) (w : Word) : (d.csrSet off w).canal = d.canal := rfl
@[simp] theorem Dev.csrSet_locks (d : Dev) (off : Nat) (w : Word) : (d.csrSet off w).locks = d.locks := rfl
@[simp] theorem Dev.csrSet_tiles (d : Dev) (off : Nat) (w : Word) : (d.csrSet off w).tiles = d.tiles := rfl
@[simp] theorem Dev.csrSet_reduce (d : Dev) (off : Nat) (w : Word) : (d.csrSet off w).reduce = d.reduce := rfl
@[simp] theorem Dev.csrSet_mem (d : Dev) (off : Nat) (w : Word) : (d.csrSet off w).mem = d.mem := rfl
@[simp] theorem Dev.csrSet_hbm (d : Dev) (off : Nat) (w : Word) : (d.csrSet off w).hbm = d.hbm := rfl
@[simp] theorem Dev.csrSet_wharf (d : Dev) (off : Nat) (w : Word) : (d.csrSet off w).wharf = d.wharf := rfl
@[simp] theorem Dev.csrSet_kv (d : Dev) (off : Nat) (w : Word) : (d.csrSet off w).kv = d.kv := rfl
@[simp] theorem Dev.csrSet_host (d : Dev) (off : Nat) (w : Word) : (d.csrSet off w).host = d.host := rfl
@[simp] theorem Dev.csrSet_acc (d : Dev) (off : Nat) (w : Word) : (d.csrSet off w).acc = d.acc := rfl
@[simp] theorem Dev.csrSet_net (d : Dev) (off : Nat) (w : Word) : (d.csrSet off w).net = d.net := rfl
@[simp] theorem Dev.csrSet_tp (d : Dev) (off : Nat) (w : Word) : (d.csrSet off w).tp = d.tp := rfl
@[simp] theorem Dev.csrSet_ring (d : Dev) (off : Nat) (w : Word) : (d.csrSet off w).ring = d.ring := rfl
@[simp] theorem Dev.csrSet_cells (d : Dev) (off : Nat) (w : Word) : (d.csrSet off w).cells = d.cells := rfl
@[simp] theorem Dev.csrSet_time (d : Dev) (off : Nat) (w : Word) : (d.csrSet off w).time = d.time := rfl
@[simp] theorem Dev.csrSet_storage (d : Dev) (off : Nat) (w : Word) : (d.csrSet off w).storage = d.storage := rfl
@[simp] theorem Dev.csrSet_sec (d : Dev) (off : Nat) (w : Word) : (d.csrSet off w).sec = d.sec := rfl
@[simp] theorem Dev.csrSet_ctrl (d : Dev) (off : Nat) (w : Word) : (d.csrSet off w).ctrl = d.ctrl := rfl
@[simp] theorem Dev.csrSet_cores (d : Dev) (off : Nat) (w : Word) : (d.csrSet off w).cores = d.cores := rfl
@[simp] theorem Dev.csrSet_rel (d : Dev) (off : Nat) (w : Word) : (d.csrSet off w).rel = d.rel := rfl
@[simp] theorem Dev.csrSet_obs (d : Dev) (off : Nat) (w : Word) : (d.csrSet off w).obs = d.obs := rfl
@[simp] theorem Dev.csrSet_ledger (d : Dev) (off : Nat) (w : Word) : (d.csrSet off w).ledger = d.ledger := rfl
@[simp] theorem Dev.csrSet_heldCmds (d : Dev) (off : Nat) (w : Word) : (d.csrSet off w).heldCmds = d.heldCmds := rfl
@[simp] theorem Dev.csrSet_unsent (d : Dev) (off : Nat) (w : Word) : (d.csrSet off w).unsent = d.unsent := rfl
@[simp] theorem Dev.csrSet_out (d : Dev) (off : Nat) (w : Word) : (d.csrSet off w).out = d.out := rfl
@[simp] theorem Dev.csrSet_fresh (d : Dev) (off : Nat) (w : Word) : (d.csrSet off w).fresh = d.fresh := rfl

@[simp] theorem Dev.seen_uptime (d : Dev) (b u bit : Nat) : (d.seen b u bit).uptime = d.uptime := rfl
@[simp] theorem Dev.seen_power (d : Dev) (b u bit : Nat) : (d.seen b u bit).power = d.power := rfl
@[simp] theorem Dev.seen_boot (d : Dev) (b u bit : Nat) : (d.seen b u bit).boot = d.boot := rfl
@[simp] theorem Dev.seen_manifest (d : Dev) (b u bit : Nat) : (d.seen b u bit).manifest = d.manifest := rfl
@[simp] theorem Dev.seen_expert (d : Dev) (b u bit : Nat) : (d.seen b u bit).expert = d.expert := rfl
@[simp] theorem Dev.seen_mailbox (d : Dev) (b u bit : Nat) : (d.seen b u bit).mailbox = d.mailbox := rfl
@[simp] theorem Dev.seen_canal (d : Dev) (b u bit : Nat) : (d.seen b u bit).canal = d.canal := rfl
@[simp] theorem Dev.seen_locks (d : Dev) (b u bit : Nat) : (d.seen b u bit).locks = d.locks := rfl
@[simp] theorem Dev.seen_tiles (d : Dev) (b u bit : Nat) : (d.seen b u bit).tiles = d.tiles := rfl
@[simp] theorem Dev.seen_reduce (d : Dev) (b u bit : Nat) : (d.seen b u bit).reduce = d.reduce := rfl
@[simp] theorem Dev.seen_mem (d : Dev) (b u bit : Nat) : (d.seen b u bit).mem = d.mem := rfl
@[simp] theorem Dev.seen_hbm (d : Dev) (b u bit : Nat) : (d.seen b u bit).hbm = d.hbm := rfl
@[simp] theorem Dev.seen_wharf (d : Dev) (b u bit : Nat) : (d.seen b u bit).wharf = d.wharf := rfl
@[simp] theorem Dev.seen_kv (d : Dev) (b u bit : Nat) : (d.seen b u bit).kv = d.kv := rfl
@[simp] theorem Dev.seen_host (d : Dev) (b u bit : Nat) : (d.seen b u bit).host = d.host := rfl
@[simp] theorem Dev.seen_acc (d : Dev) (b u bit : Nat) : (d.seen b u bit).acc = d.acc := rfl
@[simp] theorem Dev.seen_net (d : Dev) (b u bit : Nat) : (d.seen b u bit).net = d.net := rfl
@[simp] theorem Dev.seen_tp (d : Dev) (b u bit : Nat) : (d.seen b u bit).tp = d.tp := rfl
@[simp] theorem Dev.seen_ring (d : Dev) (b u bit : Nat) : (d.seen b u bit).ring = d.ring := rfl
@[simp] theorem Dev.seen_cells (d : Dev) (b u bit : Nat) : (d.seen b u bit).cells = d.cells := rfl
@[simp] theorem Dev.seen_time (d : Dev) (b u bit : Nat) : (d.seen b u bit).time = d.time := rfl
@[simp] theorem Dev.seen_storage (d : Dev) (b u bit : Nat) : (d.seen b u bit).storage = d.storage := rfl
@[simp] theorem Dev.seen_sec (d : Dev) (b u bit : Nat) : (d.seen b u bit).sec = d.sec := rfl
@[simp] theorem Dev.seen_ctrl (d : Dev) (b u bit : Nat) : (d.seen b u bit).ctrl = d.ctrl := rfl
@[simp] theorem Dev.seen_cores (d : Dev) (b u bit : Nat) : (d.seen b u bit).cores = d.cores := rfl
@[simp] theorem Dev.seen_rel (d : Dev) (b u bit : Nat) : (d.seen b u bit).rel = d.rel := rfl
@[simp] theorem Dev.seen_obs (d : Dev) (b u bit : Nat) : (d.seen b u bit).obs = d.obs := rfl
@[simp] theorem Dev.seen_ledger (d : Dev) (b u bit : Nat) : (d.seen b u bit).ledger = d.ledger := rfl
@[simp] theorem Dev.seen_heldCmds (d : Dev) (b u bit : Nat) : (d.seen b u bit).heldCmds = d.heldCmds := rfl
@[simp] theorem Dev.seen_unsent (d : Dev) (b u bit : Nat) : (d.seen b u bit).unsent = d.unsent := rfl
@[simp] theorem Dev.seen_out (d : Dev) (b u bit : Nat) : (d.seen b u bit).out = d.out := rfl
@[simp] theorem Dev.seen_fresh (d : Dev) (b u bit : Nat) : (d.seen b u bit).fresh = d.fresh := rfl

@[simp] theorem Dev.onLane_csr (d : Dev) (f : CellLane → CellLane × List Out) : (d.onLane f).csr = d.csr := rfl
@[simp] theorem Dev.onLane_uptime (d : Dev) (f : CellLane → CellLane × List Out) : (d.onLane f).uptime = d.uptime := rfl
@[simp] theorem Dev.onLane_power (d : Dev) (f : CellLane → CellLane × List Out) : (d.onLane f).power = d.power := rfl
@[simp] theorem Dev.onLane_boot (d : Dev) (f : CellLane → CellLane × List Out) : (d.onLane f).boot = d.boot := rfl
@[simp] theorem Dev.onLane_manifest (d : Dev) (f : CellLane → CellLane × List Out) : (d.onLane f).manifest = d.manifest := rfl
@[simp] theorem Dev.onLane_expert (d : Dev) (f : CellLane → CellLane × List Out) : (d.onLane f).expert = d.expert := rfl
@[simp] theorem Dev.onLane_mailbox (d : Dev) (f : CellLane → CellLane × List Out) : (d.onLane f).mailbox = d.mailbox := rfl
@[simp] theorem Dev.onLane_canal (d : Dev) (f : CellLane → CellLane × List Out) : (d.onLane f).canal = d.canal := rfl
@[simp] theorem Dev.onLane_locks (d : Dev) (f : CellLane → CellLane × List Out) : (d.onLane f).locks = d.locks := rfl
@[simp] theorem Dev.onLane_tiles (d : Dev) (f : CellLane → CellLane × List Out) : (d.onLane f).tiles = d.tiles := rfl
@[simp] theorem Dev.onLane_reduce (d : Dev) (f : CellLane → CellLane × List Out) : (d.onLane f).reduce = d.reduce := rfl
@[simp] theorem Dev.onLane_mem (d : Dev) (f : CellLane → CellLane × List Out) : (d.onLane f).mem = d.mem := rfl
@[simp] theorem Dev.onLane_hbm (d : Dev) (f : CellLane → CellLane × List Out) : (d.onLane f).hbm = d.hbm := rfl
@[simp] theorem Dev.onLane_wharf (d : Dev) (f : CellLane → CellLane × List Out) : (d.onLane f).wharf = d.wharf := rfl
@[simp] theorem Dev.onLane_kv (d : Dev) (f : CellLane → CellLane × List Out) : (d.onLane f).kv = d.kv := rfl
@[simp] theorem Dev.onLane_host (d : Dev) (f : CellLane → CellLane × List Out) : (d.onLane f).host = d.host := rfl
@[simp] theorem Dev.onLane_acc (d : Dev) (f : CellLane → CellLane × List Out) : (d.onLane f).acc = d.acc := rfl
@[simp] theorem Dev.onLane_net (d : Dev) (f : CellLane → CellLane × List Out) : (d.onLane f).net = d.net := rfl
@[simp] theorem Dev.onLane_tp (d : Dev) (f : CellLane → CellLane × List Out) : (d.onLane f).tp = d.tp := rfl
@[simp] theorem Dev.onLane_ring (d : Dev) (f : CellLane → CellLane × List Out) : (d.onLane f).ring = d.ring := rfl
@[simp] theorem Dev.onLane_time (d : Dev) (f : CellLane → CellLane × List Out) : (d.onLane f).time = d.time := rfl
@[simp] theorem Dev.onLane_storage (d : Dev) (f : CellLane → CellLane × List Out) : (d.onLane f).storage = d.storage := rfl
@[simp] theorem Dev.onLane_sec (d : Dev) (f : CellLane → CellLane × List Out) : (d.onLane f).sec = d.sec := rfl
@[simp] theorem Dev.onLane_ctrl (d : Dev) (f : CellLane → CellLane × List Out) : (d.onLane f).ctrl = d.ctrl := rfl
@[simp] theorem Dev.onLane_cores (d : Dev) (f : CellLane → CellLane × List Out) : (d.onLane f).cores = d.cores := rfl
@[simp] theorem Dev.onLane_rel (d : Dev) (f : CellLane → CellLane × List Out) : (d.onLane f).rel = d.rel := rfl
@[simp] theorem Dev.onLane_obs (d : Dev) (f : CellLane → CellLane × List Out) : (d.onLane f).obs = d.obs := rfl
@[simp] theorem Dev.onLane_ledger (d : Dev) (f : CellLane → CellLane × List Out) : (d.onLane f).ledger = d.ledger := rfl
@[simp] theorem Dev.onLane_heldCmds (d : Dev) (f : CellLane → CellLane × List Out) : (d.onLane f).heldCmds = d.heldCmds := rfl
@[simp] theorem Dev.onLane_unsent (d : Dev) (f : CellLane → CellLane × List Out) : (d.onLane f).unsent = d.unsent := rfl
@[simp] theorem Dev.onLane_fresh (d : Dev) (f : CellLane → CellLane × List Out) : (d.onLane f).fresh = d.fresh := rfl
@[simp] theorem Dev.onLane_cells (d : Dev) (f : CellLane → CellLane × List Out) : (d.onLane f).cells = (f d.cells).1 := rfl
@[simp] theorem Dev.onLane_out (d : Dev) (f : CellLane → CellLane × List Out) : (d.onLane f).out = d.out ++ (f d.cells).2 := rfl

end Sys2Proof.Machine
end

