-- ==== Sys2Proof/Laws/Post.lean ====
section
/-! SUPPORT. What posting an error record, raising an interrupt, completing a command and failing the device leave unchanged:
one lemma per operation and field. -/

namespace Sys2Proof.Machine

@[simp] theorem raiseMsix_uptime (i v : Nat) (d : Dev) : (raiseMsix i v d).uptime = d.uptime := by
  unfold raiseMsix; dsimp only; split <;> [rfl; (split <;> rfl)]

@[simp] theorem raiseMsix_csr (i v : Nat) (d : Dev) : (raiseMsix i v d).csr = d.csr := by
  unfold raiseMsix; dsimp only; split <;> [rfl; (split <;> rfl)]

@[simp] theorem raiseMsix_power (i v : Nat) (d : Dev) : (raiseMsix i v d).power = d.power := by
  unfold raiseMsix; dsimp only; split <;> [rfl; (split <;> rfl)]

@[simp] theorem raiseMsix_boot (i v : Nat) (d : Dev) : (raiseMsix i v d).boot = d.boot := by
  unfold raiseMsix; dsimp only; split <;> [rfl; (split <;> rfl)]

@[simp] theorem raiseMsix_manifest (i v : Nat) (d : Dev) : (raiseMsix i v d).manifest = d.manifest := by
  unfold raiseMsix; dsimp only; split <;> [rfl; (split <;> rfl)]

@[simp] theorem raiseMsix_expert (i v : Nat) (d : Dev) : (raiseMsix i v d).expert = d.expert := by
  unfold raiseMsix; dsimp only; split <;> [rfl; (split <;> rfl)]

@[simp] theorem raiseMsix_mailbox (i v : Nat) (d : Dev) : (raiseMsix i v d).mailbox = d.mailbox := by
  unfold raiseMsix; dsimp only; split <;> [rfl; (split <;> rfl)]

@[simp] theorem raiseMsix_canal (i v : Nat) (d : Dev) : (raiseMsix i v d).canal = d.canal := by
  unfold raiseMsix; dsimp only; split <;> [rfl; (split <;> rfl)]

@[simp] theorem raiseMsix_locks (i v : Nat) (d : Dev) : (raiseMsix i v d).locks = d.locks := by
  unfold raiseMsix; dsimp only; split <;> [rfl; (split <;> rfl)]

@[simp] theorem raiseMsix_tiles (i v : Nat) (d : Dev) : (raiseMsix i v d).tiles = d.tiles := by
  unfold raiseMsix; dsimp only; split <;> [rfl; (split <;> rfl)]

@[simp] theorem raiseMsix_reduce (i v : Nat) (d : Dev) : (raiseMsix i v d).reduce = d.reduce := by
  unfold raiseMsix; dsimp only; split <;> [rfl; (split <;> rfl)]

@[simp] theorem raiseMsix_mem (i v : Nat) (d : Dev) : (raiseMsix i v d).mem = d.mem := by
  unfold raiseMsix; dsimp only; split <;> [rfl; (split <;> rfl)]

@[simp] theorem raiseMsix_hbm (i v : Nat) (d : Dev) : (raiseMsix i v d).hbm = d.hbm := by
  unfold raiseMsix; dsimp only; split <;> [rfl; (split <;> rfl)]

@[simp] theorem raiseMsix_wharf (i v : Nat) (d : Dev) : (raiseMsix i v d).wharf = d.wharf := by
  unfold raiseMsix; dsimp only; split <;> [rfl; (split <;> rfl)]

@[simp] theorem raiseMsix_kv (i v : Nat) (d : Dev) : (raiseMsix i v d).kv = d.kv := by
  unfold raiseMsix; dsimp only; split <;> [rfl; (split <;> rfl)]

@[simp] theorem raiseMsix_acc (i v : Nat) (d : Dev) : (raiseMsix i v d).acc = d.acc := by
  unfold raiseMsix; dsimp only; split <;> [rfl; (split <;> rfl)]

@[simp] theorem raiseMsix_net (i v : Nat) (d : Dev) : (raiseMsix i v d).net = d.net := by
  unfold raiseMsix; dsimp only; split <;> [rfl; (split <;> rfl)]

@[simp] theorem raiseMsix_tp (i v : Nat) (d : Dev) : (raiseMsix i v d).tp = d.tp := by
  unfold raiseMsix; dsimp only; split <;> [rfl; (split <;> rfl)]

@[simp] theorem raiseMsix_ring (i v : Nat) (d : Dev) : (raiseMsix i v d).ring = d.ring := by
  unfold raiseMsix; dsimp only; split <;> [rfl; (split <;> rfl)]

@[simp] theorem raiseMsix_time (i v : Nat) (d : Dev) : (raiseMsix i v d).time = d.time := by
  unfold raiseMsix; dsimp only; split <;> [rfl; (split <;> rfl)]

@[simp] theorem raiseMsix_storage (i v : Nat) (d : Dev) : (raiseMsix i v d).storage = d.storage := by
  unfold raiseMsix; dsimp only; split <;> [rfl; (split <;> rfl)]

@[simp] theorem raiseMsix_sec (i v : Nat) (d : Dev) : (raiseMsix i v d).sec = d.sec := by
  unfold raiseMsix; dsimp only; split <;> [rfl; (split <;> rfl)]

@[simp] theorem raiseMsix_ctrl (i v : Nat) (d : Dev) : (raiseMsix i v d).ctrl = d.ctrl := by
  unfold raiseMsix; dsimp only; split <;> [rfl; (split <;> rfl)]

@[simp] theorem raiseMsix_cores (i v : Nat) (d : Dev) : (raiseMsix i v d).cores = d.cores := by
  unfold raiseMsix; dsimp only; split <;> [rfl; (split <;> rfl)]

@[simp] theorem raiseMsix_rel (i v : Nat) (d : Dev) : (raiseMsix i v d).rel = d.rel := by
  unfold raiseMsix; dsimp only; split <;> [rfl; (split <;> rfl)]

@[simp] theorem raiseMsix_obs (i v : Nat) (d : Dev) : (raiseMsix i v d).obs = d.obs := by
  unfold raiseMsix; dsimp only; split <;> [rfl; (split <;> rfl)]

@[simp] theorem raiseMsix_ledger (i v : Nat) (d : Dev) : (raiseMsix i v d).ledger = d.ledger := by
  unfold raiseMsix; dsimp only; split <;> [rfl; (split <;> rfl)]

@[simp] theorem raiseMsix_heldCmds (i v : Nat) (d : Dev) : (raiseMsix i v d).heldCmds = d.heldCmds := by
  unfold raiseMsix; dsimp only; split <;> [rfl; (split <;> rfl)]

@[simp] theorem raiseMsix_unsent (i v : Nat) (d : Dev) : (raiseMsix i v d).unsent = d.unsent := by
  unfold raiseMsix; dsimp only; split <;> [rfl; (split <;> rfl)]

@[simp] theorem raiseMsix_fresh (i v : Nat) (d : Dev) : (raiseMsix i v d).fresh = d.fresh := by
  unfold raiseMsix; dsimp only; split <;> [rfl; (split <;> rfl)]

@[simp] theorem complete_uptime (src : Nat) (seq : W32) (r : Reply) (d : Dev) : (complete src seq r d).uptime = d.uptime := by
  unfold complete; dsimp only; split <;> [simp; (split <;> simp)]

@[simp] theorem complete_csr (src : Nat) (seq : W32) (r : Reply) (d : Dev) : (complete src seq r d).csr = d.csr := by
  unfold complete; dsimp only; split <;> [simp; (split <;> simp)]

@[simp] theorem complete_power (src : Nat) (seq : W32) (r : Reply) (d : Dev) : (complete src seq r d).power = d.power := by
  unfold complete; dsimp only; split <;> [simp; (split <;> simp)]

@[simp] theorem complete_boot (src : Nat) (seq : W32) (r : Reply) (d : Dev) : (complete src seq r d).boot = d.boot := by
  unfold complete; dsimp only; split <;> [simp; (split <;> simp)]

@[simp] theorem complete_manifest (src : Nat) (seq : W32) (r : Reply) (d : Dev) : (complete src seq r d).manifest = d.manifest := by
  unfold complete; dsimp only; split <;> [simp; (split <;> simp)]

@[simp] theorem complete_expert (src : Nat) (seq : W32) (r : Reply) (d : Dev) : (complete src seq r d).expert = d.expert := by
  unfold complete; dsimp only; split <;> [simp; (split <;> simp)]

@[simp] theorem complete_canal (src : Nat) (seq : W32) (r : Reply) (d : Dev) : (complete src seq r d).canal = d.canal := by
  unfold complete; dsimp only; split <;> [simp; (split <;> simp)]

@[simp] theorem complete_locks (src : Nat) (seq : W32) (r : Reply) (d : Dev) : (complete src seq r d).locks = d.locks := by
  unfold complete; dsimp only; split <;> [simp; (split <;> simp)]

@[simp] theorem complete_tiles (src : Nat) (seq : W32) (r : Reply) (d : Dev) : (complete src seq r d).tiles = d.tiles := by
  unfold complete; dsimp only; split <;> [simp; (split <;> simp)]

@[simp] theorem complete_reduce (src : Nat) (seq : W32) (r : Reply) (d : Dev) : (complete src seq r d).reduce = d.reduce := by
  unfold complete; dsimp only; split <;> [simp; (split <;> simp)]

@[simp] theorem complete_mem (src : Nat) (seq : W32) (r : Reply) (d : Dev) : (complete src seq r d).mem = d.mem := by
  unfold complete; dsimp only; split <;> [simp; (split <;> simp)]

@[simp] theorem complete_hbm (src : Nat) (seq : W32) (r : Reply) (d : Dev) : (complete src seq r d).hbm = d.hbm := by
  unfold complete; dsimp only; split <;> [simp; (split <;> simp)]

@[simp] theorem complete_wharf (src : Nat) (seq : W32) (r : Reply) (d : Dev) : (complete src seq r d).wharf = d.wharf := by
  unfold complete; dsimp only; split <;> [simp; (split <;> simp)]

@[simp] theorem complete_kv (src : Nat) (seq : W32) (r : Reply) (d : Dev) : (complete src seq r d).kv = d.kv := by
  unfold complete; dsimp only; split <;> [simp; (split <;> simp)]

@[simp] theorem complete_acc (src : Nat) (seq : W32) (r : Reply) (d : Dev) : (complete src seq r d).acc = d.acc := by
  unfold complete; dsimp only; split <;> [simp; (split <;> simp)]

@[simp] theorem complete_net (src : Nat) (seq : W32) (r : Reply) (d : Dev) : (complete src seq r d).net = d.net := by
  unfold complete; dsimp only; split <;> [simp; (split <;> simp)]

@[simp] theorem complete_tp (src : Nat) (seq : W32) (r : Reply) (d : Dev) : (complete src seq r d).tp = d.tp := by
  unfold complete; dsimp only; split <;> [simp; (split <;> simp)]

@[simp] theorem complete_ring (src : Nat) (seq : W32) (r : Reply) (d : Dev) : (complete src seq r d).ring = d.ring := by
  unfold complete; dsimp only; split <;> [simp; (split <;> simp)]

@[simp] theorem complete_time (src : Nat) (seq : W32) (r : Reply) (d : Dev) : (complete src seq r d).time = d.time := by
  unfold complete; dsimp only; split <;> [simp; (split <;> simp)]

@[simp] theorem complete_storage (src : Nat) (seq : W32) (r : Reply) (d : Dev) : (complete src seq r d).storage = d.storage := by
  unfold complete; dsimp only; split <;> [simp; (split <;> simp)]

@[simp] theorem complete_sec (src : Nat) (seq : W32) (r : Reply) (d : Dev) : (complete src seq r d).sec = d.sec := by
  unfold complete; dsimp only; split <;> [simp; (split <;> simp)]

@[simp] theorem complete_ctrl (src : Nat) (seq : W32) (r : Reply) (d : Dev) : (complete src seq r d).ctrl = d.ctrl := by
  unfold complete; dsimp only; split <;> [simp; (split <;> simp)]

@[simp] theorem complete_cores (src : Nat) (seq : W32) (r : Reply) (d : Dev) : (complete src seq r d).cores = d.cores := by
  unfold complete; dsimp only; split <;> [simp; (split <;> simp)]

@[simp] theorem complete_rel (src : Nat) (seq : W32) (r : Reply) (d : Dev) : (complete src seq r d).rel = d.rel := by
  unfold complete; dsimp only; split <;> [simp; (split <;> simp)]

@[simp] theorem complete_obs (src : Nat) (seq : W32) (r : Reply) (d : Dev) : (complete src seq r d).obs = d.obs := by
  unfold complete; dsimp only; split <;> [simp; (split <;> simp)]

@[simp] theorem complete_ledger (src : Nat) (seq : W32) (r : Reply) (d : Dev) : (complete src seq r d).ledger = d.ledger := by
  unfold complete; dsimp only; split <;> [simp; (split <;> simp)]

@[simp] theorem complete_heldCmds (src : Nat) (seq : W32) (r : Reply) (d : Dev) : (complete src seq r d).heldCmds = d.heldCmds := by
  unfold complete; dsimp only; split <;> [simp; (split <;> simp)]

@[simp] theorem complete_unsent (src : Nat) (seq : W32) (r : Reply) (d : Dev) : (complete src seq r d).unsent = d.unsent := by
  unfold complete; dsimp only; split <;> [simp; (split <;> simp)]

@[simp] theorem complete_fresh (src : Nat) (seq : W32) (r : Reply) (d : Dev) : (complete src seq r d).fresh = d.fresh := by
  unfold complete; dsimp only; split <;> [simp; (split <;> simp)]

@[simp] theorem rereadHead_uptime (pf : Nat) (r : EventRing) (d : Dev) : ((rereadHead pf r d).2).uptime = d.uptime := by
  unfold rereadHead; split <;> rfl

@[simp] theorem rereadHead_csr (pf : Nat) (r : EventRing) (d : Dev) : ((rereadHead pf r d).2).csr = d.csr := by
  unfold rereadHead; split <;> rfl

@[simp] theorem rereadHead_power (pf : Nat) (r : EventRing) (d : Dev) : ((rereadHead pf r d).2).power = d.power := by
  unfold rereadHead; split <;> rfl

@[simp] theorem rereadHead_boot (pf : Nat) (r : EventRing) (d : Dev) : ((rereadHead pf r d).2).boot = d.boot := by
  unfold rereadHead; split <;> rfl

@[simp] theorem rereadHead_manifest (pf : Nat) (r : EventRing) (d : Dev) : ((rereadHead pf r d).2).manifest = d.manifest := by
  unfold rereadHead; split <;> rfl

@[simp] theorem rereadHead_expert (pf : Nat) (r : EventRing) (d : Dev) : ((rereadHead pf r d).2).expert = d.expert := by
  unfold rereadHead; split <;> rfl

@[simp] theorem rereadHead_canal (pf : Nat) (r : EventRing) (d : Dev) : ((rereadHead pf r d).2).canal = d.canal := by
  unfold rereadHead; split <;> rfl

@[simp] theorem rereadHead_locks (pf : Nat) (r : EventRing) (d : Dev) : ((rereadHead pf r d).2).locks = d.locks := by
  unfold rereadHead; split <;> rfl

@[simp] theorem rereadHead_tiles (pf : Nat) (r : EventRing) (d : Dev) : ((rereadHead pf r d).2).tiles = d.tiles := by
  unfold rereadHead; split <;> rfl

@[simp] theorem rereadHead_reduce (pf : Nat) (r : EventRing) (d : Dev) : ((rereadHead pf r d).2).reduce = d.reduce := by
  unfold rereadHead; split <;> rfl

@[simp] theorem rereadHead_mem (pf : Nat) (r : EventRing) (d : Dev) : ((rereadHead pf r d).2).mem = d.mem := by
  unfold rereadHead; split <;> rfl

@[simp] theorem rereadHead_hbm (pf : Nat) (r : EventRing) (d : Dev) : ((rereadHead pf r d).2).hbm = d.hbm := by
  unfold rereadHead; split <;> rfl

@[simp] theorem rereadHead_wharf (pf : Nat) (r : EventRing) (d : Dev) : ((rereadHead pf r d).2).wharf = d.wharf := by
  unfold rereadHead; split <;> rfl

@[simp] theorem rereadHead_kv (pf : Nat) (r : EventRing) (d : Dev) : ((rereadHead pf r d).2).kv = d.kv := by
  unfold rereadHead; split <;> rfl

@[simp] theorem rereadHead_host (pf : Nat) (r : EventRing) (d : Dev) : ((rereadHead pf r d).2).host = d.host := by
  unfold rereadHead; split <;> rfl

@[simp] theorem rereadHead_acc (pf : Nat) (r : EventRing) (d : Dev) : ((rereadHead pf r d).2).acc = d.acc := by
  unfold rereadHead; split <;> rfl

@[simp] theorem rereadHead_net (pf : Nat) (r : EventRing) (d : Dev) : ((rereadHead pf r d).2).net = d.net := by
  unfold rereadHead; split <;> rfl

@[simp] theorem rereadHead_tp (pf : Nat) (r : EventRing) (d : Dev) : ((rereadHead pf r d).2).tp = d.tp := by
  unfold rereadHead; split <;> rfl

@[simp] theorem rereadHead_ring (pf : Nat) (r : EventRing) (d : Dev) : ((rereadHead pf r d).2).ring = d.ring := by
  unfold rereadHead; split <;> rfl

@[simp] theorem rereadHead_time (pf : Nat) (r : EventRing) (d : Dev) : ((rereadHead pf r d).2).time = d.time := by
  unfold rereadHead; split <;> rfl

@[simp] theorem rereadHead_storage (pf : Nat) (r : EventRing) (d : Dev) : ((rereadHead pf r d).2).storage = d.storage := by
  unfold rereadHead; split <;> rfl

@[simp] theorem rereadHead_sec (pf : Nat) (r : EventRing) (d : Dev) : ((rereadHead pf r d).2).sec = d.sec := by
  unfold rereadHead; split <;> rfl

@[simp] theorem rereadHead_ctrl (pf : Nat) (r : EventRing) (d : Dev) : ((rereadHead pf r d).2).ctrl = d.ctrl := by
  unfold rereadHead; split <;> rfl

@[simp] theorem rereadHead_cores (pf : Nat) (r : EventRing) (d : Dev) : ((rereadHead pf r d).2).cores = d.cores := by
  unfold rereadHead; split <;> rfl

@[simp] theorem rereadHead_rel (pf : Nat) (r : EventRing) (d : Dev) : ((rereadHead pf r d).2).rel = d.rel := by
  unfold rereadHead; split <;> rfl

@[simp] theorem rereadHead_obs (pf : Nat) (r : EventRing) (d : Dev) : ((rereadHead pf r d).2).obs = d.obs := by
  unfold rereadHead; split <;> rfl

@[simp] theorem rereadHead_ledger (pf : Nat) (r : EventRing) (d : Dev) : ((rereadHead pf r d).2).ledger = d.ledger := by
  unfold rereadHead; split <;> rfl

@[simp] theorem rereadHead_heldCmds (pf : Nat) (r : EventRing) (d : Dev) : ((rereadHead pf r d).2).heldCmds = d.heldCmds := by
  unfold rereadHead; split <;> rfl

@[simp] theorem rereadHead_unsent (pf : Nat) (r : EventRing) (d : Dev) : ((rereadHead pf r d).2).unsent = d.unsent := by
  unfold rereadHead; split <;> rfl

@[simp] theorem rereadHead_out (pf : Nat) (r : EventRing) (d : Dev) : ((rereadHead pf r d).2).out = d.out := by
  unfold rereadHead; split <;> rfl

@[simp] theorem eventEntry_uptime (pf : Nat) (bs : Bytes) (d : Dev) : (eventEntry pf bs d).uptime = d.uptime := by
  unfold eventEntry; split <;> [rfl; (dsimp only; split <;> simp)]

@[simp] theorem eventEntry_csr (pf : Nat) (bs : Bytes) (d : Dev) : (eventEntry pf bs d).csr = d.csr := by
  unfold eventEntry; split <;> [rfl; (dsimp only; split <;> simp)]

@[simp] theorem eventEntry_power (pf : Nat) (bs : Bytes) (d : Dev) : (eventEntry pf bs d).power = d.power := by
  unfold eventEntry; split <;> [rfl; (dsimp only; split <;> simp)]

@[simp] theorem eventEntry_boot (pf : Nat) (bs : Bytes) (d : Dev) : (eventEntry pf bs d).boot = d.boot := by
  unfold eventEntry; split <;> [rfl; (dsimp only; split <;> simp)]

@[simp] theorem eventEntry_manifest (pf : Nat) (bs : Bytes) (d : Dev) : (eventEntry pf bs d).manifest = d.manifest := by
  unfold eventEntry; split <;> [rfl; (dsimp only; split <;> simp)]

@[simp] theorem eventEntry_expert (pf : Nat) (bs : Bytes) (d : Dev) : (eventEntry pf bs d).expert = d.expert := by
  unfold eventEntry; split <;> [rfl; (dsimp only; split <;> simp)]

@[simp] theorem eventEntry_canal (pf : Nat) (bs : Bytes) (d : Dev) : (eventEntry pf bs d).canal = d.canal := by
  unfold eventEntry; split <;> [rfl; (dsimp only; split <;> simp)]

@[simp] theorem eventEntry_locks (pf : Nat) (bs : Bytes) (d : Dev) : (eventEntry pf bs d).locks = d.locks := by
  unfold eventEntry; split <;> [rfl; (dsimp only; split <;> simp)]

@[simp] theorem eventEntry_tiles (pf : Nat) (bs : Bytes) (d : Dev) : (eventEntry pf bs d).tiles = d.tiles := by
  unfold eventEntry; split <;> [rfl; (dsimp only; split <;> simp)]

@[simp] theorem eventEntry_reduce (pf : Nat) (bs : Bytes) (d : Dev) : (eventEntry pf bs d).reduce = d.reduce := by
  unfold eventEntry; split <;> [rfl; (dsimp only; split <;> simp)]

@[simp] theorem eventEntry_mem (pf : Nat) (bs : Bytes) (d : Dev) : (eventEntry pf bs d).mem = d.mem := by
  unfold eventEntry; split <;> [rfl; (dsimp only; split <;> simp)]

@[simp] theorem eventEntry_hbm (pf : Nat) (bs : Bytes) (d : Dev) : (eventEntry pf bs d).hbm = d.hbm := by
  unfold eventEntry; split <;> [rfl; (dsimp only; split <;> simp)]

@[simp] theorem eventEntry_wharf (pf : Nat) (bs : Bytes) (d : Dev) : (eventEntry pf bs d).wharf = d.wharf := by
  unfold eventEntry; split <;> [rfl; (dsimp only; split <;> simp)]

@[simp] theorem eventEntry_kv (pf : Nat) (bs : Bytes) (d : Dev) : (eventEntry pf bs d).kv = d.kv := by
  unfold eventEntry; split <;> [rfl; (dsimp only; split <;> simp)]

@[simp] theorem eventEntry_acc (pf : Nat) (bs : Bytes) (d : Dev) : (eventEntry pf bs d).acc = d.acc := by
  unfold eventEntry; split <;> [rfl; (dsimp only; split <;> simp)]

@[simp] theorem eventEntry_net (pf : Nat) (bs : Bytes) (d : Dev) : (eventEntry pf bs d).net = d.net := by
  unfold eventEntry; split <;> [rfl; (dsimp only; split <;> simp)]

@[simp] theorem eventEntry_tp (pf : Nat) (bs : Bytes) (d : Dev) : (eventEntry pf bs d).tp = d.tp := by
  unfold eventEntry; split <;> [rfl; (dsimp only; split <;> simp)]

@[simp] theorem eventEntry_ring (pf : Nat) (bs : Bytes) (d : Dev) : (eventEntry pf bs d).ring = d.ring := by
  unfold eventEntry; split <;> [rfl; (dsimp only; split <;> simp)]

@[simp] theorem eventEntry_time (pf : Nat) (bs : Bytes) (d : Dev) : (eventEntry pf bs d).time = d.time := by
  unfold eventEntry; split <;> [rfl; (dsimp only; split <;> simp)]

@[simp] theorem eventEntry_storage (pf : Nat) (bs : Bytes) (d : Dev) : (eventEntry pf bs d).storage = d.storage := by
  unfold eventEntry; split <;> [rfl; (dsimp only; split <;> simp)]

@[simp] theorem eventEntry_sec (pf : Nat) (bs : Bytes) (d : Dev) : (eventEntry pf bs d).sec = d.sec := by
  unfold eventEntry; split <;> [rfl; (dsimp only; split <;> simp)]

@[simp] theorem eventEntry_ctrl (pf : Nat) (bs : Bytes) (d : Dev) : (eventEntry pf bs d).ctrl = d.ctrl := by
  unfold eventEntry; split <;> [rfl; (dsimp only; split <;> simp)]

@[simp] theorem eventEntry_cores (pf : Nat) (bs : Bytes) (d : Dev) : (eventEntry pf bs d).cores = d.cores := by
  unfold eventEntry; split <;> [rfl; (dsimp only; split <;> simp)]

@[simp] theorem eventEntry_rel (pf : Nat) (bs : Bytes) (d : Dev) : (eventEntry pf bs d).rel = d.rel := by
  unfold eventEntry; split <;> [rfl; (dsimp only; split <;> simp)]

@[simp] theorem eventEntry_obs (pf : Nat) (bs : Bytes) (d : Dev) : (eventEntry pf bs d).obs = d.obs := by
  unfold eventEntry; split <;> [rfl; (dsimp only; split <;> simp)]

@[simp] theorem eventEntry_ledger (pf : Nat) (bs : Bytes) (d : Dev) : (eventEntry pf bs d).ledger = d.ledger := by
  unfold eventEntry; split <;> [rfl; (dsimp only; split <;> simp)]

@[simp] theorem eventEntry_heldCmds (pf : Nat) (bs : Bytes) (d : Dev) : (eventEntry pf bs d).heldCmds = d.heldCmds := by
  unfold eventEntry; split <;> [rfl; (dsimp only; split <;> simp)]

@[simp] theorem eventEntry_unsent (pf : Nat) (bs : Bytes) (d : Dev) : (eventEntry pf bs d).unsent = d.unsent := by
  unfold eventEntry; split <;> [rfl; (dsimp only; split <;> simp)]

@[simp] theorem completionEvent_uptime (src code : Nat) (seq : W32) (st dt : Nat) (res : Bytes) (d : Dev) : (completionEvent src code seq st dt res d).uptime = d.uptime := by
  unfold completionEvent; split <;> [simp [Dev.signalEvent]; (split <;> simp [Dev.signalEvent])]

@[simp] theorem completionEvent_csr (src code : Nat) (seq : W32) (st dt : Nat) (res : Bytes) (d : Dev) : (completionEvent src code seq st dt res d).csr = d.csr := by
  unfold completionEvent; split <;> [simp [Dev.signalEvent]; (split <;> simp [Dev.signalEvent])]

@[simp] theorem completionEvent_power (src code : Nat) (seq : W32) (st dt : Nat) (res : Bytes) (d : Dev) : (completionEvent src code seq st dt res d).power = d.power := by
  unfold completionEvent; split <;> [simp [Dev.signalEvent]; (split <;> simp [Dev.signalEvent])]

@[simp] theorem completionEvent_boot (src code : Nat) (seq : W32) (st dt : Nat) (res : Bytes) (d : Dev) : (completionEvent src code seq st dt res d).boot = d.boot := by
  unfold completionEvent; split <;> [simp [Dev.signalEvent]; (split <;> simp [Dev.signalEvent])]

@[simp] theorem completionEvent_manifest (src code : Nat) (seq : W32) (st dt : Nat) (res : Bytes) (d : Dev) : (completionEvent src code seq st dt res d).manifest = d.manifest := by
  unfold completionEvent; split <;> [simp [Dev.signalEvent]; (split <;> simp [Dev.signalEvent])]

@[simp] theorem completionEvent_expert (src code : Nat) (seq : W32) (st dt : Nat) (res : Bytes) (d : Dev) : (completionEvent src code seq st dt res d).expert = d.expert := by
  unfold completionEvent; split <;> [simp [Dev.signalEvent]; (split <;> simp [Dev.signalEvent])]

@[simp] theorem completionEvent_canal (src code : Nat) (seq : W32) (st dt : Nat) (res : Bytes) (d : Dev) : (completionEvent src code seq st dt res d).canal = d.canal := by
  unfold completionEvent; split <;> [simp [Dev.signalEvent]; (split <;> simp [Dev.signalEvent])]

@[simp] theorem completionEvent_locks (src code : Nat) (seq : W32) (st dt : Nat) (res : Bytes) (d : Dev) : (completionEvent src code seq st dt res d).locks = d.locks := by
  unfold completionEvent; split <;> [simp [Dev.signalEvent]; (split <;> simp [Dev.signalEvent])]

@[simp] theorem completionEvent_tiles (src code : Nat) (seq : W32) (st dt : Nat) (res : Bytes) (d : Dev) : (completionEvent src code seq st dt res d).tiles = d.tiles := by
  unfold completionEvent; split <;> [simp [Dev.signalEvent]; (split <;> simp [Dev.signalEvent])]

@[simp] theorem completionEvent_reduce (src code : Nat) (seq : W32) (st dt : Nat) (res : Bytes) (d : Dev) : (completionEvent src code seq st dt res d).reduce = d.reduce := by
  unfold completionEvent; split <;> [simp [Dev.signalEvent]; (split <;> simp [Dev.signalEvent])]

@[simp] theorem completionEvent_mem (src code : Nat) (seq : W32) (st dt : Nat) (res : Bytes) (d : Dev) : (completionEvent src code seq st dt res d).mem = d.mem := by
  unfold completionEvent; split <;> [simp [Dev.signalEvent]; (split <;> simp [Dev.signalEvent])]

@[simp] theorem completionEvent_hbm (src code : Nat) (seq : W32) (st dt : Nat) (res : Bytes) (d : Dev) : (completionEvent src code seq st dt res d).hbm = d.hbm := by
  unfold completionEvent; split <;> [simp [Dev.signalEvent]; (split <;> simp [Dev.signalEvent])]

@[simp] theorem completionEvent_wharf (src code : Nat) (seq : W32) (st dt : Nat) (res : Bytes) (d : Dev) : (completionEvent src code seq st dt res d).wharf = d.wharf := by
  unfold completionEvent; split <;> [simp [Dev.signalEvent]; (split <;> simp [Dev.signalEvent])]

@[simp] theorem completionEvent_kv (src code : Nat) (seq : W32) (st dt : Nat) (res : Bytes) (d : Dev) : (completionEvent src code seq st dt res d).kv = d.kv := by
  unfold completionEvent; split <;> [simp [Dev.signalEvent]; (split <;> simp [Dev.signalEvent])]

@[simp] theorem completionEvent_acc (src code : Nat) (seq : W32) (st dt : Nat) (res : Bytes) (d : Dev) : (completionEvent src code seq st dt res d).acc = d.acc := by
  unfold completionEvent; split <;> [simp [Dev.signalEvent]; (split <;> simp [Dev.signalEvent])]

@[simp] theorem completionEvent_net (src code : Nat) (seq : W32) (st dt : Nat) (res : Bytes) (d : Dev) : (completionEvent src code seq st dt res d).net = d.net := by
  unfold completionEvent; split <;> [simp [Dev.signalEvent]; (split <;> simp [Dev.signalEvent])]

@[simp] theorem completionEvent_tp (src code : Nat) (seq : W32) (st dt : Nat) (res : Bytes) (d : Dev) : (completionEvent src code seq st dt res d).tp = d.tp := by
  unfold completionEvent; split <;> [simp [Dev.signalEvent]; (split <;> simp [Dev.signalEvent])]

@[simp] theorem completionEvent_ring (src code : Nat) (seq : W32) (st dt : Nat) (res : Bytes) (d : Dev) : (completionEvent src code seq st dt res d).ring = d.ring := by
  unfold completionEvent; split <;> [simp [Dev.signalEvent]; (split <;> simp [Dev.signalEvent])]

@[simp] theorem completionEvent_time (src code : Nat) (seq : W32) (st dt : Nat) (res : Bytes) (d : Dev) : (completionEvent src code seq st dt res d).time = d.time := by
  unfold completionEvent; split <;> [simp [Dev.signalEvent]; (split <;> simp [Dev.signalEvent])]

@[simp] theorem completionEvent_storage (src code : Nat) (seq : W32) (st dt : Nat) (res : Bytes) (d : Dev) : (completionEvent src code seq st dt res d).storage = d.storage := by
  unfold completionEvent; split <;> [simp [Dev.signalEvent]; (split <;> simp [Dev.signalEvent])]

@[simp] theorem completionEvent_sec (src code : Nat) (seq : W32) (st dt : Nat) (res : Bytes) (d : Dev) : (completionEvent src code seq st dt res d).sec = d.sec := by
  unfold completionEvent; split <;> [simp [Dev.signalEvent]; (split <;> simp [Dev.signalEvent])]

@[simp] theorem completionEvent_ctrl (src code : Nat) (seq : W32) (st dt : Nat) (res : Bytes) (d : Dev) : (completionEvent src code seq st dt res d).ctrl = d.ctrl := by
  unfold completionEvent; split <;> [simp [Dev.signalEvent]; (split <;> simp [Dev.signalEvent])]

@[simp] theorem completionEvent_cores (src code : Nat) (seq : W32) (st dt : Nat) (res : Bytes) (d : Dev) : (completionEvent src code seq st dt res d).cores = d.cores := by
  unfold completionEvent; split <;> [simp [Dev.signalEvent]; (split <;> simp [Dev.signalEvent])]

@[simp] theorem completionEvent_rel (src code : Nat) (seq : W32) (st dt : Nat) (res : Bytes) (d : Dev) : (completionEvent src code seq st dt res d).rel = d.rel := by
  unfold completionEvent; split <;> [simp [Dev.signalEvent]; (split <;> simp [Dev.signalEvent])]

@[simp] theorem completionEvent_obs (src code : Nat) (seq : W32) (st dt : Nat) (res : Bytes) (d : Dev) : (completionEvent src code seq st dt res d).obs = d.obs := by
  unfold completionEvent; split <;> [simp [Dev.signalEvent]; (split <;> simp [Dev.signalEvent])]

@[simp] theorem completionEvent_ledger (src code : Nat) (seq : W32) (st dt : Nat) (res : Bytes) (d : Dev) : (completionEvent src code seq st dt res d).ledger = d.ledger := by
  unfold completionEvent; split <;> [simp [Dev.signalEvent]; (split <;> simp [Dev.signalEvent])]

@[simp] theorem completionEvent_heldCmds (src code : Nat) (seq : W32) (st dt : Nat) (res : Bytes) (d : Dev) : (completionEvent src code seq st dt res d).heldCmds = d.heldCmds := by
  unfold completionEvent; split <;> [simp [Dev.signalEvent]; (split <;> simp [Dev.signalEvent])]

@[simp] theorem completionEvent_unsent (src code : Nat) (seq : W32) (st dt : Nat) (res : Bytes) (d : Dev) : (completionEvent src code seq st dt res d).unsent = d.unsent := by
  unfold completionEvent; split <;> [simp [Dev.signalEvent]; (split <;> simp [Dev.signalEvent])]

@[simp] theorem finishLater_uptime (src code : Nat) (seq : W32) (r : Reply) (d : Dev) : (finishLater src code seq r d).uptime = d.uptime := by
  unfold finishLater; split <;> simp

@[simp] theorem finishLater_csr (src code : Nat) (seq : W32) (r : Reply) (d : Dev) : (finishLater src code seq r d).csr = d.csr := by
  unfold finishLater; split <;> simp

@[simp] theorem finishLater_power (src code : Nat) (seq : W32) (r : Reply) (d : Dev) : (finishLater src code seq r d).power = d.power := by
  unfold finishLater; split <;> simp

@[simp] theorem finishLater_boot (src code : Nat) (seq : W32) (r : Reply) (d : Dev) : (finishLater src code seq r d).boot = d.boot := by
  unfold finishLater; split <;> simp

@[simp] theorem finishLater_manifest (src code : Nat) (seq : W32) (r : Reply) (d : Dev) : (finishLater src code seq r d).manifest = d.manifest := by
  unfold finishLater; split <;> simp

@[simp] theorem finishLater_expert (src code : Nat) (seq : W32) (r : Reply) (d : Dev) : (finishLater src code seq r d).expert = d.expert := by
  unfold finishLater; split <;> simp

@[simp] theorem finishLater_canal (src code : Nat) (seq : W32) (r : Reply) (d : Dev) : (finishLater src code seq r d).canal = d.canal := by
  unfold finishLater; split <;> simp

@[simp] theorem finishLater_locks (src code : Nat) (seq : W32) (r : Reply) (d : Dev) : (finishLater src code seq r d).locks = d.locks := by
  unfold finishLater; split <;> simp

@[simp] theorem finishLater_tiles (src code : Nat) (seq : W32) (r : Reply) (d : Dev) : (finishLater src code seq r d).tiles = d.tiles := by
  unfold finishLater; split <;> simp

@[simp] theorem finishLater_reduce (src code : Nat) (seq : W32) (r : Reply) (d : Dev) : (finishLater src code seq r d).reduce = d.reduce := by
  unfold finishLater; split <;> simp

@[simp] theorem finishLater_mem (src code : Nat) (seq : W32) (r : Reply) (d : Dev) : (finishLater src code seq r d).mem = d.mem := by
  unfold finishLater; split <;> simp

@[simp] theorem finishLater_hbm (src code : Nat) (seq : W32) (r : Reply) (d : Dev) : (finishLater src code seq r d).hbm = d.hbm := by
  unfold finishLater; split <;> simp

@[simp] theorem finishLater_wharf (src code : Nat) (seq : W32) (r : Reply) (d : Dev) : (finishLater src code seq r d).wharf = d.wharf := by
  unfold finishLater; split <;> simp

@[simp] theorem finishLater_kv (src code : Nat) (seq : W32) (r : Reply) (d : Dev) : (finishLater src code seq r d).kv = d.kv := by
  unfold finishLater; split <;> simp

@[simp] theorem finishLater_acc (src code : Nat) (seq : W32) (r : Reply) (d : Dev) : (finishLater src code seq r d).acc = d.acc := by
  unfold finishLater; split <;> simp

@[simp] theorem finishLater_net (src code : Nat) (seq : W32) (r : Reply) (d : Dev) : (finishLater src code seq r d).net = d.net := by
  unfold finishLater; split <;> simp

@[simp] theorem finishLater_tp (src code : Nat) (seq : W32) (r : Reply) (d : Dev) : (finishLater src code seq r d).tp = d.tp := by
  unfold finishLater; split <;> simp

@[simp] theorem finishLater_ring (src code : Nat) (seq : W32) (r : Reply) (d : Dev) : (finishLater src code seq r d).ring = d.ring := by
  unfold finishLater; split <;> simp

@[simp] theorem finishLater_time (src code : Nat) (seq : W32) (r : Reply) (d : Dev) : (finishLater src code seq r d).time = d.time := by
  unfold finishLater; split <;> simp

@[simp] theorem finishLater_storage (src code : Nat) (seq : W32) (r : Reply) (d : Dev) : (finishLater src code seq r d).storage = d.storage := by
  unfold finishLater; split <;> simp

@[simp] theorem finishLater_sec (src code : Nat) (seq : W32) (r : Reply) (d : Dev) : (finishLater src code seq r d).sec = d.sec := by
  unfold finishLater; split <;> simp

@[simp] theorem finishLater_ctrl (src code : Nat) (seq : W32) (r : Reply) (d : Dev) : (finishLater src code seq r d).ctrl = d.ctrl := by
  unfold finishLater; split <;> simp

@[simp] theorem finishLater_cores (src code : Nat) (seq : W32) (r : Reply) (d : Dev) : (finishLater src code seq r d).cores = d.cores := by
  unfold finishLater; split <;> simp

@[simp] theorem finishLater_rel (src code : Nat) (seq : W32) (r : Reply) (d : Dev) : (finishLater src code seq r d).rel = d.rel := by
  unfold finishLater; split <;> simp

@[simp] theorem finishLater_obs (src code : Nat) (seq : W32) (r : Reply) (d : Dev) : (finishLater src code seq r d).obs = d.obs := by
  unfold finishLater; split <;> simp

@[simp] theorem finishLater_ledger (src code : Nat) (seq : W32) (r : Reply) (d : Dev) : (finishLater src code seq r d).ledger = d.ledger := by
  unfold finishLater; split <;> simp

@[simp] theorem finishLater_heldCmds (src code : Nat) (seq : W32) (r : Reply) (d : Dev) : (finishLater src code seq r d).heldCmds = d.heldCmds := by
  unfold finishLater; split <;> simp

@[simp] theorem finishLater_unsent (src code : Nat) (seq : W32) (r : Reply) (d : Dev) : (finishLater src code seq r d).unsent = d.unsent := by
  unfold finishLater; split <;> simp

@[simp] theorem traceRecord_uptime (n : Nat) (bs : Bytes) (d : Dev) : (traceRecord n bs d).uptime = d.uptime := by
  unfold traceRecord; split <;> [rfl; (split <;> rfl)]

@[simp] theorem traceRecord_power (n : Nat) (bs : Bytes) (d : Dev) : (traceRecord n bs d).power = d.power := by
  unfold traceRecord; split <;> [rfl; (split <;> rfl)]

@[simp] theorem traceRecord_boot (n : Nat) (bs : Bytes) (d : Dev) : (traceRecord n bs d).boot = d.boot := by
  unfold traceRecord; split <;> [rfl; (split <;> rfl)]

@[simp] theorem traceRecord_manifest (n : Nat) (bs : Bytes) (d : Dev) : (traceRecord n bs d).manifest = d.manifest := by
  unfold traceRecord; split <;> [rfl; (split <;> rfl)]

@[simp] theorem traceRecord_expert (n : Nat) (bs : Bytes) (d : Dev) : (traceRecord n bs d).expert = d.expert := by
  unfold traceRecord; split <;> [rfl; (split <;> rfl)]

@[simp] theorem traceRecord_mailbox (n : Nat) (bs : Bytes) (d : Dev) : (traceRecord n bs d).mailbox = d.mailbox := by
  unfold traceRecord; split <;> [rfl; (split <;> rfl)]

@[simp] theorem traceRecord_canal (n : Nat) (bs : Bytes) (d : Dev) : (traceRecord n bs d).canal = d.canal := by
  unfold traceRecord; split <;> [rfl; (split <;> rfl)]

@[simp] theorem traceRecord_locks (n : Nat) (bs : Bytes) (d : Dev) : (traceRecord n bs d).locks = d.locks := by
  unfold traceRecord; split <;> [rfl; (split <;> rfl)]

@[simp] theorem traceRecord_tiles (n : Nat) (bs : Bytes) (d : Dev) : (traceRecord n bs d).tiles = d.tiles := by
  unfold traceRecord; split <;> [rfl; (split <;> rfl)]

@[simp] theorem traceRecord_reduce (n : Nat) (bs : Bytes) (d : Dev) : (traceRecord n bs d).reduce = d.reduce := by
  unfold traceRecord; split <;> [rfl; (split <;> rfl)]

@[simp] theorem traceRecord_mem (n : Nat) (bs : Bytes) (d : Dev) : (traceRecord n bs d).mem = d.mem := by
  unfold traceRecord; split <;> [rfl; (split <;> rfl)]

@[simp] theorem traceRecord_hbm (n : Nat) (bs : Bytes) (d : Dev) : (traceRecord n bs d).hbm = d.hbm := by
  unfold traceRecord; split <;> [rfl; (split <;> rfl)]

@[simp] theorem traceRecord_wharf (n : Nat) (bs : Bytes) (d : Dev) : (traceRecord n bs d).wharf = d.wharf := by
  unfold traceRecord; split <;> [rfl; (split <;> rfl)]

@[simp] theorem traceRecord_kv (n : Nat) (bs : Bytes) (d : Dev) : (traceRecord n bs d).kv = d.kv := by
  unfold traceRecord; split <;> [rfl; (split <;> rfl)]

@[simp] theorem traceRecord_host (n : Nat) (bs : Bytes) (d : Dev) : (traceRecord n bs d).host = d.host := by
  unfold traceRecord; split <;> [rfl; (split <;> rfl)]

@[simp] theorem traceRecord_acc (n : Nat) (bs : Bytes) (d : Dev) : (traceRecord n bs d).acc = d.acc := by
  unfold traceRecord; split <;> [rfl; (split <;> rfl)]

@[simp] theorem traceRecord_net (n : Nat) (bs : Bytes) (d : Dev) : (traceRecord n bs d).net = d.net := by
  unfold traceRecord; split <;> [rfl; (split <;> rfl)]

@[simp] theorem traceRecord_tp (n : Nat) (bs : Bytes) (d : Dev) : (traceRecord n bs d).tp = d.tp := by
  unfold traceRecord; split <;> [rfl; (split <;> rfl)]

@[simp] theorem traceRecord_ring (n : Nat) (bs : Bytes) (d : Dev) : (traceRecord n bs d).ring = d.ring := by
  unfold traceRecord; split <;> [rfl; (split <;> rfl)]

@[simp] theorem traceRecord_time (n : Nat) (bs : Bytes) (d : Dev) : (traceRecord n bs d).time = d.time := by
  unfold traceRecord; split <;> [rfl; (split <;> rfl)]

@[simp] theorem traceRecord_storage (n : Nat) (bs : Bytes) (d : Dev) : (traceRecord n bs d).storage = d.storage := by
  unfold traceRecord; split <;> [rfl; (split <;> rfl)]

@[simp] theorem traceRecord_sec (n : Nat) (bs : Bytes) (d : Dev) : (traceRecord n bs d).sec = d.sec := by
  unfold traceRecord; split <;> [rfl; (split <;> rfl)]

@[simp] theorem traceRecord_ctrl (n : Nat) (bs : Bytes) (d : Dev) : (traceRecord n bs d).ctrl = d.ctrl := by
  unfold traceRecord; split <;> [rfl; (split <;> rfl)]

@[simp] theorem traceRecord_cores (n : Nat) (bs : Bytes) (d : Dev) : (traceRecord n bs d).cores = d.cores := by
  unfold traceRecord; split <;> [rfl; (split <;> rfl)]

@[simp] theorem traceRecord_rel (n : Nat) (bs : Bytes) (d : Dev) : (traceRecord n bs d).rel = d.rel := by
  unfold traceRecord; split <;> [rfl; (split <;> rfl)]

@[simp] theorem traceRecord_ledger (n : Nat) (bs : Bytes) (d : Dev) : (traceRecord n bs d).ledger = d.ledger := by
  unfold traceRecord; split <;> [rfl; (split <;> rfl)]

@[simp] theorem traceRecord_heldCmds (n : Nat) (bs : Bytes) (d : Dev) : (traceRecord n bs d).heldCmds = d.heldCmds := by
  unfold traceRecord; split <;> [rfl; (split <;> rfl)]

@[simp] theorem traceRecord_unsent (n : Nat) (bs : Bytes) (d : Dev) : (traceRecord n bs d).unsent = d.unsent := by
  unfold traceRecord; split <;> [rfl; (split <;> rfl)]

@[simp] theorem traceRecord_out (n : Nat) (bs : Bytes) (d : Dev) : (traceRecord n bs d).out = d.out := by
  unfold traceRecord; split <;> [rfl; (split <;> rfl)]

@[simp] theorem traceRecord_fresh (n : Nat) (bs : Bytes) (d : Dev) : (traceRecord n bs d).fresh = d.fresh := by
  unfold traceRecord; split <;> [rfl; (split <;> rfl)]

@[simp] theorem publish_uptime (r : ErrorRecord) (d : Dev) : (publish r d).uptime = d.uptime := by
  unfold publish; simp [Dev.signalEvent]

@[simp] theorem publish_power (r : ErrorRecord) (d : Dev) : (publish r d).power = d.power := by
  unfold publish; simp [Dev.signalEvent]

@[simp] theorem publish_boot (r : ErrorRecord) (d : Dev) : (publish r d).boot = d.boot := by
  unfold publish; simp [Dev.signalEvent]

@[simp] theorem publish_manifest (r : ErrorRecord) (d : Dev) : (publish r d).manifest = d.manifest := by
  unfold publish; simp [Dev.signalEvent]

@[simp] theorem publish_expert (r : ErrorRecord) (d : Dev) : (publish r d).expert = d.expert := by
  unfold publish; simp [Dev.signalEvent]

@[simp] theorem publish_canal (r : ErrorRecord) (d : Dev) : (publish r d).canal = d.canal := by
  unfold publish; simp [Dev.signalEvent]

@[simp] theorem publish_locks (r : ErrorRecord) (d : Dev) : (publish r d).locks = d.locks := by
  unfold publish; simp [Dev.signalEvent]

@[simp] theorem publish_tiles (r : ErrorRecord) (d : Dev) : (publish r d).tiles = d.tiles := by
  unfold publish; simp [Dev.signalEvent]

@[simp] theorem publish_reduce (r : ErrorRecord) (d : Dev) : (publish r d).reduce = d.reduce := by
  unfold publish; simp [Dev.signalEvent]

@[simp] theorem publish_mem (r : ErrorRecord) (d : Dev) : (publish r d).mem = d.mem := by
  unfold publish; simp [Dev.signalEvent]

@[simp] theorem publish_hbm (r : ErrorRecord) (d : Dev) : (publish r d).hbm = d.hbm := by
  unfold publish; simp [Dev.signalEvent]

@[simp] theorem publish_wharf (r : ErrorRecord) (d : Dev) : (publish r d).wharf = d.wharf := by
  unfold publish; simp [Dev.signalEvent]

@[simp] theorem publish_kv (r : ErrorRecord) (d : Dev) : (publish r d).kv = d.kv := by
  unfold publish; simp [Dev.signalEvent]

@[simp] theorem publish_acc (r : ErrorRecord) (d : Dev) : (publish r d).acc = d.acc := by
  unfold publish; simp [Dev.signalEvent]

@[simp] theorem publish_net (r : ErrorRecord) (d : Dev) : (publish r d).net = d.net := by
  unfold publish; simp [Dev.signalEvent]

@[simp] theorem publish_tp (r : ErrorRecord) (d : Dev) : (publish r d).tp = d.tp := by
  unfold publish; simp [Dev.signalEvent]

@[simp] theorem publish_ring (r : ErrorRecord) (d : Dev) : (publish r d).ring = d.ring := by
  unfold publish; simp [Dev.signalEvent]

@[simp] theorem publish_time (r : ErrorRecord) (d : Dev) : (publish r d).time = d.time := by
  unfold publish; simp [Dev.signalEvent]

@[simp] theorem publish_storage (r : ErrorRecord) (d : Dev) : (publish r d).storage = d.storage := by
  unfold publish; simp [Dev.signalEvent]

@[simp] theorem publish_sec (r : ErrorRecord) (d : Dev) : (publish r d).sec = d.sec := by
  unfold publish; simp [Dev.signalEvent]

@[simp] theorem publish_ctrl (r : ErrorRecord) (d : Dev) : (publish r d).ctrl = d.ctrl := by
  unfold publish; simp [Dev.signalEvent]

@[simp] theorem publish_cores (r : ErrorRecord) (d : Dev) : (publish r d).cores = d.cores := by
  unfold publish; simp [Dev.signalEvent]

@[simp] theorem publish_rel (r : ErrorRecord) (d : Dev) : (publish r d).rel = d.rel := by
  unfold publish; simp [Dev.signalEvent]

@[simp] theorem publish_heldCmds (r : ErrorRecord) (d : Dev) : (publish r d).heldCmds = d.heldCmds := by
  unfold publish; simp [Dev.signalEvent]

@[simp] theorem publish_unsent (r : ErrorRecord) (d : Dev) : (publish r d).unsent = d.unsent := by
  unfold publish; simp [Dev.signalEvent]

@[simp] theorem coalesce_uptime (r : ErrorRecord) (n : Nat) (d : Dev) : (coalesce r n d).uptime = d.uptime := by
  unfold coalesce; split <;> [rfl; (split <;> [rfl; (dsimp only; split <;> simp [sendCell])])]

@[simp] theorem coalesce_power (r : ErrorRecord) (n : Nat) (d : Dev) : (coalesce r n d).power = d.power := by
  unfold coalesce; split <;> [rfl; (split <;> [rfl; (dsimp only; split <;> simp [sendCell])])]

@[simp] theorem coalesce_boot (r : ErrorRecord) (n : Nat) (d : Dev) : (coalesce r n d).boot = d.boot := by
  unfold coalesce; split <;> [rfl; (split <;> [rfl; (dsimp only; split <;> simp [sendCell])])]

@[simp] theorem coalesce_manifest (r : ErrorRecord) (n : Nat) (d : Dev) : (coalesce r n d).manifest = d.manifest := by
  unfold coalesce; split <;> [rfl; (split <;> [rfl; (dsimp only; split <;> simp [sendCell])])]

@[simp] theorem coalesce_expert (r : ErrorRecord) (n : Nat) (d : Dev) : (coalesce r n d).expert = d.expert := by
  unfold coalesce; split <;> [rfl; (split <;> [rfl; (dsimp only; split <;> simp [sendCell])])]

@[simp] theorem coalesce_canal (r : ErrorRecord) (n : Nat) (d : Dev) : (coalesce r n d).canal = d.canal := by
  unfold coalesce; split <;> [rfl; (split <;> [rfl; (dsimp only; split <;> simp [sendCell])])]

@[simp] theorem coalesce_locks (r : ErrorRecord) (n : Nat) (d : Dev) : (coalesce r n d).locks = d.locks := by
  unfold coalesce; split <;> [rfl; (split <;> [rfl; (dsimp only; split <;> simp [sendCell])])]

@[simp] theorem coalesce_tiles (r : ErrorRecord) (n : Nat) (d : Dev) : (coalesce r n d).tiles = d.tiles := by
  unfold coalesce; split <;> [rfl; (split <;> [rfl; (dsimp only; split <;> simp [sendCell])])]

@[simp] theorem coalesce_reduce (r : ErrorRecord) (n : Nat) (d : Dev) : (coalesce r n d).reduce = d.reduce := by
  unfold coalesce; split <;> [rfl; (split <;> [rfl; (dsimp only; split <;> simp [sendCell])])]

@[simp] theorem coalesce_mem (r : ErrorRecord) (n : Nat) (d : Dev) : (coalesce r n d).mem = d.mem := by
  unfold coalesce; split <;> [rfl; (split <;> [rfl; (dsimp only; split <;> simp [sendCell])])]

@[simp] theorem coalesce_hbm (r : ErrorRecord) (n : Nat) (d : Dev) : (coalesce r n d).hbm = d.hbm := by
  unfold coalesce; split <;> [rfl; (split <;> [rfl; (dsimp only; split <;> simp [sendCell])])]

@[simp] theorem coalesce_wharf (r : ErrorRecord) (n : Nat) (d : Dev) : (coalesce r n d).wharf = d.wharf := by
  unfold coalesce; split <;> [rfl; (split <;> [rfl; (dsimp only; split <;> simp [sendCell])])]

@[simp] theorem coalesce_kv (r : ErrorRecord) (n : Nat) (d : Dev) : (coalesce r n d).kv = d.kv := by
  unfold coalesce; split <;> [rfl; (split <;> [rfl; (dsimp only; split <;> simp [sendCell])])]

@[simp] theorem coalesce_acc (r : ErrorRecord) (n : Nat) (d : Dev) : (coalesce r n d).acc = d.acc := by
  unfold coalesce; split <;> [rfl; (split <;> [rfl; (dsimp only; split <;> simp [sendCell])])]

@[simp] theorem coalesce_net (r : ErrorRecord) (n : Nat) (d : Dev) : (coalesce r n d).net = d.net := by
  unfold coalesce; split <;> [rfl; (split <;> [rfl; (dsimp only; split <;> simp [sendCell])])]

@[simp] theorem coalesce_tp (r : ErrorRecord) (n : Nat) (d : Dev) : (coalesce r n d).tp = d.tp := by
  unfold coalesce; split <;> [rfl; (split <;> [rfl; (dsimp only; split <;> simp [sendCell])])]

@[simp] theorem coalesce_ring (r : ErrorRecord) (n : Nat) (d : Dev) : (coalesce r n d).ring = d.ring := by
  unfold coalesce; split <;> [rfl; (split <;> [rfl; (dsimp only; split <;> simp [sendCell])])]

@[simp] theorem coalesce_time (r : ErrorRecord) (n : Nat) (d : Dev) : (coalesce r n d).time = d.time := by
  unfold coalesce; split <;> [rfl; (split <;> [rfl; (dsimp only; split <;> simp [sendCell])])]

@[simp] theorem coalesce_storage (r : ErrorRecord) (n : Nat) (d : Dev) : (coalesce r n d).storage = d.storage := by
  unfold coalesce; split <;> [rfl; (split <;> [rfl; (dsimp only; split <;> simp [sendCell])])]

@[simp] theorem coalesce_sec (r : ErrorRecord) (n : Nat) (d : Dev) : (coalesce r n d).sec = d.sec := by
  unfold coalesce; split <;> [rfl; (split <;> [rfl; (dsimp only; split <;> simp [sendCell])])]

@[simp] theorem coalesce_ctrl (r : ErrorRecord) (n : Nat) (d : Dev) : (coalesce r n d).ctrl = d.ctrl := by
  unfold coalesce; split <;> [rfl; (split <;> [rfl; (dsimp only; split <;> simp [sendCell])])]

@[simp] theorem coalesce_cores (r : ErrorRecord) (n : Nat) (d : Dev) : (coalesce r n d).cores = d.cores := by
  unfold coalesce; split <;> [rfl; (split <;> [rfl; (dsimp only; split <;> simp [sendCell])])]

@[simp] theorem coalesce_heldCmds (r : ErrorRecord) (n : Nat) (d : Dev) : (coalesce r n d).heldCmds = d.heldCmds := by
  unfold coalesce; split <;> [rfl; (split <;> [rfl; (dsimp only; split <;> simp [sendCell])])]

@[simp] theorem coalesce_unsent (r : ErrorRecord) (n : Nat) (d : Dev) : (coalesce r n d).unsent = d.unsent := by
  unfold coalesce; split <;> [rfl; (split <;> [rfl; (dsimp only; split <;> simp [sendCell])])]

theorem foldl_seen_keeps {α : Type} (p : Dev → α) (h : ∀ d b u x, p (Dev.seen d b u x) = p d) (b u : Nat) (l : List Nat) :
    ∀ d : Dev, p (l.foldl (fun d x => d.seen b u x) d) = p d := by
  induction l with
  | nil => intro d; rfl
  | cons x l ih => intro d; rw [List.foldl_cons, ih, h]

@[simp] theorem postRecord_uptime (r : ErrorRecord) (b : Bool) (d : Dev) : (postRecord r b d).uptime = d.uptime := by
  unfold postRecord
  dsimp only
  have h := foldl_seen_keeps (fun d => d.uptime) (fun _ _ _ _ => rfl) (seenBits r.cls.toNat).1 (unitIndex r.unit) (seenBits r.cls.toNat).2 d
  split <;> split <;> simp [Dev.raiseLine] <;> exact h

@[simp] theorem postRecord_power (r : ErrorRecord) (b : Bool) (d : Dev) : (postRecord r b d).power = d.power := by
  unfold postRecord
  dsimp only
  have h := foldl_seen_keeps (fun d => d.power) (fun _ _ _ _ => rfl) (seenBits r.cls.toNat).1 (unitIndex r.unit) (seenBits r.cls.toNat).2 d
  split <;> split <;> simp [Dev.raiseLine] <;> exact h

@[simp] theorem postRecord_boot (r : ErrorRecord) (b : Bool) (d : Dev) : (postRecord r b d).boot = d.boot := by
  unfold postRecord
  dsimp only
  have h := foldl_seen_keeps (fun d => d.boot) (fun _ _ _ _ => rfl) (seenBits r.cls.toNat).1 (unitIndex r.unit) (seenBits r.cls.toNat).2 d
  split <;> split <;> simp [Dev.raiseLine] <;> exact h

@[simp] theorem postRecord_manifest (r : ErrorRecord) (b : Bool) (d : Dev) : (postRecord r b d).manifest = d.manifest := by
  unfold postRecord
  dsimp only
  have h := foldl_seen_keeps (fun d => d.manifest) (fun _ _ _ _ => rfl) (seenBits r.cls.toNat).1 (unitIndex r.unit) (seenBits r.cls.toNat).2 d
  split <;> split <;> simp [Dev.raiseLine] <;> exact h

@[simp] theorem postRecord_expert (r : ErrorRecord) (b : Bool) (d : Dev) : (postRecord r b d).expert = d.expert := by
  unfold postRecord
  dsimp only
  have h := foldl_seen_keeps (fun d => d.expert) (fun _ _ _ _ => rfl) (seenBits r.cls.toNat).1 (unitIndex r.unit) (seenBits r.cls.toNat).2 d
  split <;> split <;> simp [Dev.raiseLine] <;> exact h

@[simp] theorem postRecord_canal (r : ErrorRecord) (b : Bool) (d : Dev) : (postRecord r b d).canal = d.canal := by
  unfold postRecord
  dsimp only
  have h := foldl_seen_keeps (fun d => d.canal) (fun _ _ _ _ => rfl) (seenBits r.cls.toNat).1 (unitIndex r.unit) (seenBits r.cls.toNat).2 d
  split <;> split <;> simp [Dev.raiseLine] <;> exact h

@[simp] theorem postRecord_locks (r : ErrorRecord) (b : Bool) (d : Dev) : (postRecord r b d).locks = d.locks := by
  unfold postRecord
  dsimp only
  have h := foldl_seen_keeps (fun d => d.locks) (fun _ _ _ _ => rfl) (seenBits r.cls.toNat).1 (unitIndex r.unit) (seenBits r.cls.toNat).2 d
  split <;> split <;> simp [Dev.raiseLine] <;> exact h

@[simp] theorem postRecord_tiles (r : ErrorRecord) (b : Bool) (d : Dev) : (postRecord r b d).tiles = d.tiles := by
  unfold postRecord
  dsimp only
  have h := foldl_seen_keeps (fun d => d.tiles) (fun _ _ _ _ => rfl) (seenBits r.cls.toNat).1 (unitIndex r.unit) (seenBits r.cls.toNat).2 d
  split <;> split <;> simp [Dev.raiseLine] <;> exact h

@[simp] theorem postRecord_reduce (r : ErrorRecord) (b : Bool) (d : Dev) : (postRecord r b d).reduce = d.reduce := by
  unfold postRecord
  dsimp only
  have h := foldl_seen_keeps (fun d => d.reduce) (fun _ _ _ _ => rfl) (seenBits r.cls.toNat).1 (unitIndex r.unit) (seenBits r.cls.toNat).2 d
  split <;> split <;> simp [Dev.raiseLine] <;> exact h

@[simp] theorem postRecord_mem (r : ErrorRecord) (b : Bool) (d : Dev) : (postRecord r b d).mem = d.mem := by
  unfold postRecord
  dsimp only
  have h := foldl_seen_keeps (fun d => d.mem) (fun _ _ _ _ => rfl) (seenBits r.cls.toNat).1 (unitIndex r.unit) (seenBits r.cls.toNat).2 d
  split <;> split <;> simp [Dev.raiseLine] <;> exact h

@[simp] theorem postRecord_hbm (r : ErrorRecord) (b : Bool) (d : Dev) : (postRecord r b d).hbm = d.hbm := by
  unfold postRecord
  dsimp only
  have h := foldl_seen_keeps (fun d => d.hbm) (fun _ _ _ _ => rfl) (seenBits r.cls.toNat).1 (unitIndex r.unit) (seenBits r.cls.toNat).2 d
  split <;> split <;> simp [Dev.raiseLine] <;> exact h

@[simp] theorem postRecord_wharf (r : ErrorRecord) (b : Bool) (d : Dev) : (postRecord r b d).wharf = d.wharf := by
  unfold postRecord
  dsimp only
  have h := foldl_seen_keeps (fun d => d.wharf) (fun _ _ _ _ => rfl) (seenBits r.cls.toNat).1 (unitIndex r.unit) (seenBits r.cls.toNat).2 d
  split <;> split <;> simp [Dev.raiseLine] <;> exact h

@[simp] theorem postRecord_kv (r : ErrorRecord) (b : Bool) (d : Dev) : (postRecord r b d).kv = d.kv := by
  unfold postRecord
  dsimp only
  have h := foldl_seen_keeps (fun d => d.kv) (fun _ _ _ _ => rfl) (seenBits r.cls.toNat).1 (unitIndex r.unit) (seenBits r.cls.toNat).2 d
  split <;> split <;> simp [Dev.raiseLine] <;> exact h

@[simp] theorem postRecord_acc (r : ErrorRecord) (b : Bool) (d : Dev) : (postRecord r b d).acc = d.acc := by
  unfold postRecord
  dsimp only
  have h := foldl_seen_keeps (fun d => d.acc) (fun _ _ _ _ => rfl) (seenBits r.cls.toNat).1 (unitIndex r.unit) (seenBits r.cls.toNat).2 d
  split <;> split <;> simp [Dev.raiseLine] <;> exact h

@[simp] theorem postRecord_net (r : ErrorRecord) (b : Bool) (d : Dev) : (postRecord r b d).net = d.net := by
  unfold postRecord
  dsimp only
  have h := foldl_seen_keeps (fun d => d.net) (fun _ _ _ _ => rfl) (seenBits r.cls.toNat).1 (unitIndex r.unit) (seenBits r.cls.toNat).2 d
  split <;> split <;> simp [Dev.raiseLine] <;> exact h

@[simp] theorem postRecord_tp (r : ErrorRecord) (b : Bool) (d : Dev) : (postRecord r b d).tp = d.tp := by
  unfold postRecord
  dsimp only
  have h := foldl_seen_keeps (fun d => d.tp) (fun _ _ _ _ => rfl) (seenBits r.cls.toNat).1 (unitIndex r.unit) (seenBits r.cls.toNat).2 d
  split <;> split <;> simp [Dev.raiseLine] <;> exact h

@[simp] theorem postRecord_ring (r : ErrorRecord) (b : Bool) (d : Dev) : (postRecord r b d).ring = d.ring := by
  unfold postRecord
  dsimp only
  have h := foldl_seen_keeps (fun d => d.ring) (fun _ _ _ _ => rfl) (seenBits r.cls.toNat).1 (unitIndex r.unit) (seenBits r.cls.toNat).2 d
  split <;> split <;> simp [Dev.raiseLine] <;> exact h

@[simp] theorem postRecord_time (r : ErrorRecord) (b : Bool) (d : Dev) : (postRecord r b d).time = d.time := by
  unfold postRecord
  dsimp only
  have h := foldl_seen_keeps (fun d => d.time) (fun _ _ _ _ => rfl) (seenBits r.cls.toNat).1 (unitIndex r.unit) (seenBits r.cls.toNat).2 d
  split <;> split <;> simp [Dev.raiseLine] <;> exact h

@[simp] theorem postRecord_storage (r : ErrorRecord) (b : Bool) (d : Dev) : (postRecord r b d).storage = d.storage := by
  unfold postRecord
  dsimp only
  have h := foldl_seen_keeps (fun d => d.storage) (fun _ _ _ _ => rfl) (seenBits r.cls.toNat).1 (unitIndex r.unit) (seenBits r.cls.toNat).2 d
  split <;> split <;> simp [Dev.raiseLine] <;> exact h

@[simp] theorem postRecord_sec (r : ErrorRecord) (b : Bool) (d : Dev) : (postRecord r b d).sec = d.sec := by
  unfold postRecord
  dsimp only
  have h := foldl_seen_keeps (fun d => d.sec) (fun _ _ _ _ => rfl) (seenBits r.cls.toNat).1 (unitIndex r.unit) (seenBits r.cls.toNat).2 d
  split <;> split <;> simp [Dev.raiseLine] <;> exact h

@[simp] theorem postRecord_ctrl (r : ErrorRecord) (b : Bool) (d : Dev) : (postRecord r b d).ctrl = d.ctrl := by
  unfold postRecord
  dsimp only
  have h := foldl_seen_keeps (fun d => d.ctrl) (fun _ _ _ _ => rfl) (seenBits r.cls.toNat).1 (unitIndex r.unit) (seenBits r.cls.toNat).2 d
  split <;> split <;> simp [Dev.raiseLine] <;> exact h

@[simp] theorem postRecord_heldCmds (r : ErrorRecord) (b : Bool) (d : Dev) : (postRecord r b d).heldCmds = d.heldCmds := by
  unfold postRecord
  dsimp only
  have h := foldl_seen_keeps (fun d => d.heldCmds) (fun _ _ _ _ => rfl) (seenBits r.cls.toNat).1 (unitIndex r.unit) (seenBits r.cls.toNat).2 d
  split <;> split <;> simp [Dev.raiseLine] <;> exact h

@[simp] theorem postRecord_unsent (r : ErrorRecord) (b : Bool) (d : Dev) : (postRecord r b d).unsent = d.unsent := by
  unfold postRecord
  dsimp only
  have h := foldl_seen_keeps (fun d => d.unsent) (fun _ _ _ _ => rfl) (seenBits r.cls.toNat).1 (unitIndex r.unit) (seenBits r.cls.toNat).2 d
  split <;> split <;> simp [Dev.raiseLine] <;> exact h

@[simp] theorem post_uptime (cls : Nat) (u : W32) (op : Word) (sy : Bytes) (d : Dev) : (post cls u op sy d).uptime = d.uptime := by
  unfold post; simp

@[simp] theorem post_power (cls : Nat) (u : W32) (op : Word) (sy : Bytes) (d : Dev) : (post cls u op sy d).power = d.power := by
  unfold post; simp

@[simp] theorem post_boot (cls : Nat) (u : W32) (op : Word) (sy : Bytes) (d : Dev) : (post cls u op sy d).boot = d.boot := by
  unfold post; simp

@[simp] theorem post_manifest (cls : Nat) (u : W32) (op : Word) (sy : Bytes) (d : Dev) : (post cls u op sy d).manifest = d.manifest := by
  unfold post; simp

@[simp] theorem post_expert (cls : Nat) (u : W32) (op : Word) (sy : Bytes) (d : Dev) : (post cls u op sy d).expert = d.expert := by
  unfold post; simp

@[simp] theorem post_canal (cls : Nat) (u : W32) (op : Word) (sy : Bytes) (d : Dev) : (post cls u op sy d).canal = d.canal := by
  unfold post; simp

@[simp] theorem post_locks (cls : Nat) (u : W32) (op : Word) (sy : Bytes) (d : Dev) : (post cls u op sy d).locks = d.locks := by
  unfold post; simp

@[simp] theorem post_tiles (cls : Nat) (u : W32) (op : Word) (sy : Bytes) (d : Dev) : (post cls u op sy d).tiles = d.tiles := by
  unfold post; simp

@[simp] theorem post_reduce (cls : Nat) (u : W32) (op : Word) (sy : Bytes) (d : Dev) : (post cls u op sy d).reduce = d.reduce := by
  unfold post; simp

@[simp] theorem post_mem (cls : Nat) (u : W32) (op : Word) (sy : Bytes) (d : Dev) : (post cls u op sy d).mem = d.mem := by
  unfold post; simp

@[simp] theorem post_hbm (cls : Nat) (u : W32) (op : Word) (sy : Bytes) (d : Dev) : (post cls u op sy d).hbm = d.hbm := by
  unfold post; simp

@[simp] theorem post_wharf (cls : Nat) (u : W32) (op : Word) (sy : Bytes) (d : Dev) : (post cls u op sy d).wharf = d.wharf := by
  unfold post; simp

@[simp] theorem post_kv (cls : Nat) (u : W32) (op : Word) (sy : Bytes) (d : Dev) : (post cls u op sy d).kv = d.kv := by
  unfold post; simp

@[simp] theorem post_acc (cls : Nat) (u : W32) (op : Word) (sy : Bytes) (d : Dev) : (post cls u op sy d).acc = d.acc := by
  unfold post; simp

@[simp] theorem post_net (cls : Nat) (u : W32) (op : Word) (sy : Bytes) (d : Dev) : (post cls u op sy d).net = d.net := by
  unfold post; simp

@[simp] theorem post_tp (cls : Nat) (u : W32) (op : Word) (sy : Bytes) (d : Dev) : (post cls u op sy d).tp = d.tp := by
  unfold post; simp

@[simp] theorem post_ring (cls : Nat) (u : W32) (op : Word) (sy : Bytes) (d : Dev) : (post cls u op sy d).ring = d.ring := by
  unfold post; simp

@[simp] theorem post_time (cls : Nat) (u : W32) (op : Word) (sy : Bytes) (d : Dev) : (post cls u op sy d).time = d.time := by
  unfold post; simp

@[simp] theorem post_storage (cls : Nat) (u : W32) (op : Word) (sy : Bytes) (d : Dev) : (post cls u op sy d).storage = d.storage := by
  unfold post; simp

@[simp] theorem post_sec (cls : Nat) (u : W32) (op : Word) (sy : Bytes) (d : Dev) : (post cls u op sy d).sec = d.sec := by
  unfold post; simp

@[simp] theorem post_ctrl (cls : Nat) (u : W32) (op : Word) (sy : Bytes) (d : Dev) : (post cls u op sy d).ctrl = d.ctrl := by
  unfold post; simp

@[simp] theorem post_heldCmds (cls : Nat) (u : W32) (op : Word) (sy : Bytes) (d : Dev) : (post cls u op sy d).heldCmds = d.heldCmds := by
  unfold post; simp

@[simp] theorem post_unsent (cls : Nat) (u : W32) (op : Word) (sy : Bytes) (d : Dev) : (post cls u op sy d).unsent = d.unsent := by
  unfold post; simp

@[simp] theorem lapse_uptime (cause p : Nat) (d : Dev) : (lapse cause p d).uptime = d.uptime := by
  unfold lapse; split <;> simp

@[simp] theorem lapse_power (cause p : Nat) (d : Dev) : (lapse cause p d).power = d.power := by
  unfold lapse; split <;> simp

@[simp] theorem lapse_boot (cause p : Nat) (d : Dev) : (lapse cause p d).boot = d.boot := by
  unfold lapse; split <;> simp

@[simp] theorem lapse_manifest (cause p : Nat) (d : Dev) : (lapse cause p d).manifest = d.manifest := by
  unfold lapse; split <;> simp

@[simp] theorem lapse_expert (cause p : Nat) (d : Dev) : (lapse cause p d).expert = d.expert := by
  unfold lapse; split <;> simp

@[simp] theorem lapse_canal (cause p : Nat) (d : Dev) : (lapse cause p d).canal = d.canal := by
  unfold lapse; split <;> simp

@[simp] theorem lapse_locks (cause p : Nat) (d : Dev) : (lapse cause p d).locks = d.locks := by
  unfold lapse; split <;> simp

@[simp] theorem lapse_tiles (cause p : Nat) (d : Dev) : (lapse cause p d).tiles = d.tiles := by
  unfold lapse; split <;> simp

@[simp] theorem lapse_reduce (cause p : Nat) (d : Dev) : (lapse cause p d).reduce = d.reduce := by
  unfold lapse; split <;> simp

@[simp] theorem lapse_mem (cause p : Nat) (d : Dev) : (lapse cause p d).mem = d.mem := by
  unfold lapse; split <;> simp

@[simp] theorem lapse_hbm (cause p : Nat) (d : Dev) : (lapse cause p d).hbm = d.hbm := by
  unfold lapse; split <;> simp

@[simp] theorem lapse_wharf (cause p : Nat) (d : Dev) : (lapse cause p d).wharf = d.wharf := by
  unfold lapse; split <;> simp

@[simp] theorem lapse_kv (cause p : Nat) (d : Dev) : (lapse cause p d).kv = d.kv := by
  unfold lapse; split <;> simp

@[simp] theorem lapse_acc (cause p : Nat) (d : Dev) : (lapse cause p d).acc = d.acc := by
  unfold lapse; split <;> simp

@[simp] theorem lapse_net (cause p : Nat) (d : Dev) : (lapse cause p d).net = d.net := by
  unfold lapse; split <;> simp

@[simp] theorem lapse_tp (cause p : Nat) (d : Dev) : (lapse cause p d).tp = d.tp := by
  unfold lapse; split <;> simp

@[simp] theorem lapse_time (cause p : Nat) (d : Dev) : (lapse cause p d).time = d.time := by
  unfold lapse; split <;> simp

@[simp] theorem lapse_storage (cause p : Nat) (d : Dev) : (lapse cause p d).storage = d.storage := by
  unfold lapse; split <;> simp

@[simp] theorem lapse_sec (cause p : Nat) (d : Dev) : (lapse cause p d).sec = d.sec := by
  unfold lapse; split <;> simp

@[simp] theorem lapse_ctrl (cause p : Nat) (d : Dev) : (lapse cause p d).ctrl = d.ctrl := by
  unfold lapse; split <;> simp

@[simp] theorem lapse_heldCmds (cause p : Nat) (d : Dev) : (lapse cause p d).heldCmds = d.heldCmds := by
  unfold lapse; split <;> simp

@[simp] theorem lapse_unsent (cause p : Nat) (d : Dev) : (lapse cause p d).unsent = d.unsent := by
  unfold lapse; split <;> simp

@[simp] theorem failDevice_uptime (cause : Nat) (d : Dev) : (failDevice cause d).uptime = d.uptime := by
  unfold failDevice lapseBoth; simp

@[simp] theorem failDevice_power (cause : Nat) (d : Dev) : (failDevice cause d).power = d.power := by
  unfold failDevice lapseBoth; simp

@[simp] theorem failDevice_boot (cause : Nat) (d : Dev) : (failDevice cause d).boot = d.boot := by
  unfold failDevice lapseBoth; simp

@[simp] theorem failDevice_manifest (cause : Nat) (d : Dev) : (failDevice cause d).manifest = d.manifest := by
  unfold failDevice lapseBoth; simp

@[simp] theorem failDevice_expert (cause : Nat) (d : Dev) : (failDevice cause d).expert = d.expert := by
  unfold failDevice lapseBoth; simp

@[simp] theorem failDevice_canal (cause : Nat) (d : Dev) : (failDevice cause d).canal = d.canal := by
  unfold failDevice lapseBoth; simp

@[simp] theorem failDevice_locks (cause : Nat) (d : Dev) : (failDevice cause d).locks = d.locks := by
  unfold failDevice lapseBoth; simp

@[simp] theorem failDevice_tiles (cause : Nat) (d : Dev) : (failDevice cause d).tiles = d.tiles := by
  unfold failDevice lapseBoth; simp

@[simp] theorem failDevice_reduce (cause : Nat) (d : Dev) : (failDevice cause d).reduce = d.reduce := by
  unfold failDevice lapseBoth; simp

@[simp] theorem failDevice_mem (cause : Nat) (d : Dev) : (failDevice cause d).mem = d.mem := by
  unfold failDevice lapseBoth; simp

@[simp] theorem failDevice_hbm (cause : Nat) (d : Dev) : (failDevice cause d).hbm = d.hbm := by
  unfold failDevice lapseBoth; simp

@[simp] theorem failDevice_wharf (cause : Nat) (d : Dev) : (failDevice cause d).wharf = d.wharf := by
  unfold failDevice lapseBoth; simp

@[simp] theorem failDevice_kv (cause : Nat) (d : Dev) : (failDevice cause d).kv = d.kv := by
  unfold failDevice lapseBoth; simp

@[simp] theorem failDevice_acc (cause : Nat) (d : Dev) : (failDevice cause d).acc = d.acc := by
  unfold failDevice lapseBoth; simp

@[simp] theorem failDevice_net (cause : Nat) (d : Dev) : (failDevice cause d).net = d.net := by
  unfold failDevice lapseBoth; simp

@[simp] theorem failDevice_tp (cause : Nat) (d : Dev) : (failDevice cause d).tp = d.tp := by
  unfold failDevice lapseBoth; simp

@[simp] theorem failDevice_time (cause : Nat) (d : Dev) : (failDevice cause d).time = d.time := by
  unfold failDevice lapseBoth; simp

@[simp] theorem failDevice_storage (cause : Nat) (d : Dev) : (failDevice cause d).storage = d.storage := by
  unfold failDevice lapseBoth; simp

@[simp] theorem failDevice_sec (cause : Nat) (d : Dev) : (failDevice cause d).sec = d.sec := by
  unfold failDevice lapseBoth; simp

@[simp] theorem failDevice_ctrl (cause : Nat) (d : Dev) : (failDevice cause d).ctrl = d.ctrl := by
  unfold failDevice lapseBoth; simp

@[simp] theorem failDevice_heldCmds (cause : Nat) (d : Dev) : (failDevice cause d).heldCmds = d.heldCmds := by
  unfold failDevice lapseBoth; simp

@[simp] theorem failDevice_unsent (cause : Nat) (d : Dev) : (failDevice cause d).unsent = d.unsent := by
  unfold failDevice lapseBoth; simp

end Sys2Proof.Machine
end

