-- ==== Sys2Proof/Laws/Tab.lean ====
section
/-! SUPPORT. Laws of the sparse tables: what a read after a write gives, and that every write keeps the canonical form. -/

namespace Sys2Proof.Machine

variable {α : Type}

theorem tfind_tput_same (t : Tab α) (i : Nat) (v : α) : tfind (tput t i v) i = some v := by
  induction t with
  | nil => simp [tput, tfind]
  | cons e t ih =>
    obtain ⟨k, w⟩ := e
    simp only [tput]
    split
    · simp [tfind]
    · split
      · simp [tfind, *]
      · rename_i h1 h2
        simp [tfind, h2, ih]

theorem tfind_tput_other (t : Tab α) (i j : Nat) (v : α) (h : j ≠ i) : tfind (tput t i v) j = tfind t j := by
  induction t with
  | nil => simp [tput, tfind, h]
  | cons e t ih =>
    obtain ⟨k, w⟩ := e
    simp only [tput]
    split
    · simp [tfind, h]
    · split
      · rename_i h1 h2
        subst h2
        simp [tfind, h]
      · simp only [tfind, ih]

theorem tfind_tdel_other (t : Tab α) (i j : Nat) (h : j ≠ i) : tfind (tdel t i) j = tfind t j := by
  induction t with
  | nil => rfl
  | cons e t ih =>
    obtain ⟨k, w⟩ := e
    simp only [tdel]
    split
    · rename_i hk
      subst hk
      simp [tfind, h]
    · simp only [tfind, ih]

/-- A read of another index after a write gives what it gave before. -/
theorem tget_tset_other [DecidableEq α] (d : α) (t : Tab α) (i j : Nat) (v : α) (h : j ≠ i) :
    tget d (tset d t i v) j = tget d t j := by
  unfold tset tget
  split
  · rw [tfind_tdel_other t i j h]
  · rw [tfind_tput_other t i j v h]

/-- A read of the index written gives the value written, when that is not the default. -/
theorem tget_tset_same [DecidableEq α] (d : α) (t : Tab α) (i : Nat) (v : α) (h : v ≠ d) : tget d (tset d t i v) i = v := by
  simp [tset, tget, h, tfind_tput_same]

theorem tget_tmod_other [DecidableEq α] (d : α) (t : Tab α) (i j : Nat) (f : α → α) (h : j ≠ i) :
    tget d (tmod d t i f) j = tget d t j := tget_tset_other d t i j _ h

theorem tget_tmod_same [DecidableEq α] (d : α) (t : Tab α) (i : Nat) (f : α → α) (h : f (tget d t i) ≠ d) :
    tget d (tmod d t i f) i = f (tget d t i) := tget_tset_same d t i _ h

/-! ### The canonical form -/

/-- Every index of a table lies above `lo`, indices rise, no entry is the default. -/
def tabove [DecidableEq α] (d : α) : Nat → Tab α → Prop
  | _, [] => True
  | lo, (k, v) :: t => lo ≤ k ∧ v ≠ d ∧ tabove d (k + 1) t

theorem tabove_mono [DecidableEq α] (d : α) (t : Tab α) (a b : Nat) (hab : a ≤ b) (h : tabove d b t) : tabove d a t := by
  cases t with
  | nil => trivial
  | cons e t =>
    obtain ⟨k, w⟩ := e
    exact ⟨Nat.le_trans hab h.1, h.2⟩

theorem tabove_of_twf_cons [DecidableEq α] (d : α) (t : Tab α) : ∀ (k : Nat) (v : α), twf d ((k, v) :: t) = true → tabove d k ((k, v) :: t) := by
  induction t with
  | nil => intro k v h; simp [twf] at h; simp [tabove, h]
  | cons e t ih =>
    obtain ⟨k', v'⟩ := e
    intro k v h
    simp only [twf, Bool.and_eq_true, decide_eq_true_eq] at h
    exact ⟨Nat.le_refl _, h.1.2, tabove_mono d _ _ k' h.1.1 (ih k' v' h.2)⟩

theorem twf_of_tabove [DecidableEq α] (d : α) (t : Tab α) : ∀ a, tabove d a t → twf d t = true := by
  induction t with
  | nil => intros; rfl
  | cons e t ih =>
    obtain ⟨k, v⟩ := e
    intro a h
    cases t with
    | nil => simp [twf, h.2.1]
    | cons e' t =>
      obtain ⟨k', v'⟩ := e'
      simp only [twf, Bool.and_eq_true, decide_eq_true_eq]
      exact ⟨⟨h.2.2.1, h.2.1⟩, ih _ h.2.2⟩

/-- The canonical form, said by lower bounds. -/
theorem twf_iff_tabove [DecidableEq α] (d : α) (t : Tab α) : twf d t = true ↔ tabove d 0 t := by
  constructor
  · intro h
    cases t with
    | nil => trivial
    | cons e t => exact tabove_mono d _ 0 e.1 (Nat.zero_le _) (tabove_of_twf_cons d t e.1 e.2 h)
  · exact twf_of_tabove d t 0

theorem tabove_tput [DecidableEq α] (d : α) (t : Tab α) (i : Nat) (v : α) (hv : v ≠ d) :
    ∀ a, a ≤ i → tabove d a t → tabove d a (tput t i v) := by
  induction t with
  | nil => intro a ha _; simp [tput, tabove, ha, hv]
  | cons e t ih =>
    obtain ⟨k, w⟩ := e
    intro a ha h
    simp only [tput]
    split
    · rename_i hk
      exact ⟨ha, hv, ⟨hk, h.2⟩⟩
    · split
      · exact ⟨h.1, hv, h.2.2⟩
      · exact ⟨h.1, h.2.1, ih _ (by omega) h.2.2⟩

theorem tabove_tdel [DecidableEq α] (d : α) (t : Tab α) (i : Nat) : ∀ a, tabove d a t → tabove d a (tdel t i) := by
  induction t with
  | nil => intros; trivial
  | cons e t ih =>
    obtain ⟨k, w⟩ := e
    intro a h
    simp only [tdel]
    split
    · exact tabove_mono d _ _ _ (by have := h.1; omega) h.2.2
    · exact ⟨h.1, h.2.1, ih _ h.2.2⟩

theorem tabove_filter [DecidableEq α] (d : α) (p : Nat × α → Bool) (t : Tab α) : ∀ a, tabove d a t → tabove d a (t.filter p) := by
  induction t with
  | nil => intros; trivial
  | cons e t ih =>
    obtain ⟨k, w⟩ := e
    intro a h
    simp only [List.filter]
    split
    · exact ⟨h.1, h.2.1, ih _ h.2.2⟩
    · exact tabove_mono d _ _ _ (by have := h.1; omega) (ih _ h.2.2)

theorem tabove_filter_ge [DecidableEq α] (d : α) (b : Nat) (t : Tab α) :
    ∀ a, tabove d a t → tabove d b (t.filter fun e => decide (b ≤ e.1)) := by
  induction t with
  | nil => intros; trivial
  | cons e t ih =>
    obtain ⟨k, w⟩ := e
    intro a h
    by_cases hb : b ≤ k
    · simp only [List.filter, hb, decide_true]
      exact ⟨hb, h.2.1, tabove_filter d _ t _ h.2.2⟩
    · simp only [List.filter, hb, decide_false]
      exact ih _ h.2.2

theorem tabove_tlist [DecidableEq α] (d : α) (vs : List α) : ∀ a, tabove d a (tlist d a vs) := by
  induction vs with
  | nil => intros; trivial
  | cons v vs ih =>
    intro a
    simp only [tlist]
    split
    · exact tabove_mono d _ _ _ (Nat.le_succ a) (ih (a + 1))
    · rename_i h
      exact ⟨Nat.le_refl _, h, ih (a + 1)⟩

theorem tlist_lt [DecidableEq α] (d : α) (vs : List α) : ∀ a e, e ∈ tlist d a vs → e.1 < a + vs.length := by
  induction vs with
  | nil => intro a e h; simp [tlist] at h
  | cons v vs ih =>
    intro a e h
    simp only [tlist] at h
    split at h
    · have := ih _ _ h; simp only [List.length_cons]; omega
    · rcases List.mem_cons.mp h with rfl | h
      · simp
      · have := ih _ _ h; simp only [List.length_cons]; omega

theorem tabove_append [DecidableEq α] (d : α) (t u : Tab α) (b : Nat) (hu : tabove d b u) :
    ∀ a, a ≤ b → tabove d a t → (∀ e ∈ t, e.1 < b) → tabove d a (t ++ u) := by
  induction t with
  | nil => intro a ha _ _; exact tabove_mono d u a b ha hu
  | cons e t ih =>
    obtain ⟨k, w⟩ := e
    intro a _ h hlt
    refine ⟨h.1, h.2.1, ih _ ?_ h.2.2 fun e he => hlt e (List.mem_cons_of_mem _ he)⟩
    exact hlt (k, w) List.mem_cons_self

theorem twf_nil [DecidableEq α] (d : α) : twf d [] = true := rfl

/-- A write keeps the canonical form. -/
theorem twf_tset [DecidableEq α] (d : α) (t : Tab α) (i : Nat) (v : α) (h : twf d t = true) : twf d (tset d t i v) = true := by
  rw [twf_iff_tabove] at *
  unfold tset
  split
  · exact tabove_tdel d t i 0 h
  · rename_i hv; exact tabove_tput d t i v hv 0 (Nat.zero_le _) h

theorem twf_tmod [DecidableEq α] (d : α) (t : Tab α) (i : Nat) (f : α → α) (h : twf d t = true) : twf d (tmod d t i f) = true :=
  twf_tset d t i _ h

/-- Dropping entries keeps the canonical form. -/
theorem twf_filter [DecidableEq α] (d : α) (p : Nat × α → Bool) (t : Tab α) (h : twf d t = true) : twf d (t.filter p) = true := by
  rw [twf_iff_tabove] at *
  exact tabove_filter d p t 0 h

theorem twf_tclear [DecidableEq α] (d : α) (t : Tab α) (a b : Nat) (h : twf d t = true) : twf d (tclear t a b) = true :=
  twf_filter d _ t h

theorem twf_tlist [DecidableEq α] (d : α) (a : Nat) (vs : List α) : twf d (tlist d a vs) = true :=
  twf_of_tabove d _ a (tabove_tlist d vs a)

/-- Writing a list of contents keeps the canonical form. -/
theorem twf_tputs [DecidableEq α] (d : α) (t : Tab α) (a : Nat) (vs : List α) (h : twf d t = true) : twf d (tputs d t a vs) = true := by
  rw [twf_iff_tabove] at *
  unfold tputs
  have hge := tabove_filter_ge d (a + vs.length) t 0 h
  rw [List.append_assoc]
  refine tabove_append d _ _ a ?_ 0 (Nat.zero_le _) (tabove_filter d _ t 0 h) ?_
  · exact tabove_append d _ _ (a + vs.length) hge a (Nat.le_add_right _ _) (tabove_tlist d vs a) (tlist_lt d vs a)
  · intro e he
    have := (List.mem_filter.mp he).2
    simpa using this

end Sys2Proof.Machine
end

