-- ==== Sys2Proof/Laws/Memory.lean ====
section
/-! SUPPORT. Every memory operation keeps the memory's canonical form, and reset memory has it. -/

namespace Sys2Proof.Machine

/-- Two devices hold the same memory. -/
structure SameMemory (d e : Dev) : Prop where
  mem : e.mem = d.mem
  check : e.hbm.check = d.hbm.check
  tiles : e.tiles = d.tiles

theorem wf_of_same {d e : Dev} (h : SameMemory d e) (hd : Memory.wf d = true) : Memory.wf e = true := by
  unfold Memory.wf at *; rw [h.mem, h.check, h.tiles]; exact hd

theorem reset_memory_wf : Memory.wf State.reset.dev = true := rfl

/-! ### Posting and failing leave the memory alone -/

theorem same_trans {d e f : Dev} (h : SameMemory d e) (g : SameMemory e f) : SameMemory d f :=
  ⟨g.mem.trans h.mem, g.check.trans h.check, g.tiles.trans h.tiles⟩

theorem same_ite {p : Prop} [Decidable p] {d e f : Dev} (h : SameMemory d e) (g : SameMemory d f) :
    SameMemory d (if p then e else f) := by
  split <;> assumption

theorem same_refl (d : Dev) : SameMemory d d := ⟨rfl, rfl, rfl⟩

theorem post_same (c : Nat) (u : W32) (op : Word) (sy : Bytes) (d : Dev) : SameMemory d (post c u op sy d) := ⟨by simp, by simp, by simp⟩

theorem completionEvent_same (src code : Nat) (seq : W32) (st dt : Nat) (r : Bytes) (d : Dev) :
    SameMemory d (completionEvent src code seq st dt r d) := ⟨by simp, by simp, by simp⟩

theorem postRecord_same (r : ErrorRecord) (b : Bool) (d : Dev) : SameMemory d (postRecord r b d) := ⟨by simp, by simp, by simp⟩

theorem suspect_same (cause band : Nat) (d : Dev) : SameMemory d (suspect cause band d) :=
  same_ite (same_refl d) (same_ite ⟨rfl, rfl, rfl⟩ (same_trans (e := d.modRel _) ⟨rfl, rfl, rfl⟩ (post_same _ _ _ _ _)))

theorem postPolicy_same (cls : Nat) (u : W32) (op : Word) (sy : Bytes) (d : Dev) : SameMemory d (postPolicy cls u op sy d) := by
  unfold postPolicy
  have h (b : Bool) := postRecord_same (mkRecord cls u op sy d) b d
  exact same_ite (same_trans (h _) (suspect_same _ _ _)) (same_ite (same_trans (h _) ⟨rfl, rfl, rfl⟩) (h _))

theorem sendBcast_same (l h o : Nat) (b : Bcast) (d : Dev) : SameMemory d (sendBcast l h o b d) := by
  unfold sendBcast; split <;> exact ⟨rfl, rfl, rfl⟩

theorem broadcast_same (b : Bcast) (d : Dev) : SameMemory d (broadcast b d) := by
  unfold broadcast
  refine same_ite ⟨rfl, rfl, rfl⟩ ?_
  exact same_trans (sendBcast_same 0 0 d.deviceId b d) (sendBcast_same 1 0 d.deviceId b _)

theorem failed_same (f : ManifestSt → ManifestSt) (u : W32) (sy : Bytes) (d : Dev) :
    SameMemory d (post 0x0200 u 0 sy ((d.modManifest f).seen 2 0 2)) :=
  same_trans (e := (d.modManifest f).seen 2 0 2) ⟨rfl, rfl, rfl⟩ (post_same _ _ _ _ _)

theorem told_same (p q : Dev → Prop) [DecidablePred p] [DecidablePred q] (d : Dev) :
    SameMemory d (if p d then (if q d then broadcast .abort d else reportRoot .failed d) else d) :=
  same_ite (same_ite (broadcast_same _ _) (sendBcast_same _ _ _ _ _)) (same_refl d)

theorem failLoad_same (c s o : Nat) (d : Dev) : SameMemory d (failLoad c s o d) := by
  unfold failLoad
  extract_lets m group d1 d2 d3
  have h2 : SameMemory d d2 := failed_same _ _ _ d
  clear_value d2
  have h3 : SameMemory d d3 :=
    same_trans h2 (told_same (fun x => (x.ring.ready && decide (1 < group)) = true) (fun x => x.ring.root = true) d2)
  clear_value d3
  split
  · exact same_trans h3 (completionEvent_same _ _ _ _ _ _ _)
  · exact h3

theorem foldl_same {α : Type} (f : Dev → α → Dev) (hf : ∀ d x, SameMemory d (f d x)) (l : List α) :
    ∀ d, SameMemory d (l.foldl f d) := by
  induction l with
  | nil => exact same_refl
  | cons x l ih => exact fun d => same_trans (hf d x) (ih _)

theorem stackStorage_same (L : Nat) (d : Dev) : SameMemory d (stackStorage L d) := by
  unfold stackStorage
  extract_lets inL lost d1
  have h1 : SameMemory d d1 := ⟨rfl, rfl, rfl⟩
  clear_value d1
  refine same_trans h1 (foldl_same _ ?_ _ _)
  intro x b
  exact post_same _ _ _ _ x

theorem endScrub_same (k st : Nat) (d : Dev) : SameMemory d (endScrub k st d) := by
  unfold endScrub
  split
  · exact same_refl d
  · dsimp only
    split
    · exact same_trans (e := Dev.csrSet (Dev.modCtl d k _) _ _) ⟨rfl, rfl, rfl⟩ (completionEvent_same _ _ _ _ _ _ _)
    · exact ⟨rfl, rfl, rfl⟩

theorem postHoldDerate_same (p : Nat) (is : List Nat) (d : Dev) : SameMemory d (postHoldDerate p is d) := by
  unfold postHoldDerate postDerate
  dsimp only
  exact same_trans (e := Dev.modLocks (d.modLocks _) _) ⟨rfl, rfl, rfl⟩ (post_same _ _ _ _ _)

theorem endHolds_same (p : Hold → Bool) (d : Dev) : SameMemory d (endHolds p d) := by
  unfold endHolds
  extract_lets ended d1
  have h1 : SameMemory d d1 := ⟨rfl, rfl, rfl⟩
  clear_value d1
  exact same_trans h1 (foldl_same (fun d (h : Hold) => postHoldDerate 1024 [h.inst] d) (fun x h => postHoldDerate_same 1024 [h.inst] x) _ d1)

theorem emits_same (f : Dev → Out) (d : Dev) : SameMemory d (d.emit (f d)) := ⟨rfl, rfl, rfl⟩

theorem completeTlp_same (r : HostRead) (st : CplStatus) (bs : Bytes) (p : Bool) (d : Dev) : SameMemory d (completeTlp r st bs p d) :=
  emits_same (fun _ => if r.port < 2 then .completion r.port r.tag st bs p r.relaxed else .portCompletion (r.port - 2) r.tag st bs p) d

theorem completeRead_same (id : Nat) (st : CplStatus) (p : Bool) (d : Dev) : SameMemory d (completeRead id st p d) := by
  unfold completeRead
  split
  · exact same_refl d
  · dsimp only
    exact same_ite (same_trans (e := d.modHost _) ⟨rfl, rfl, rfl⟩ (foldl_same _ (fun x q => completeTlp_same _ _ _ _ x) _ _))
      (same_trans (e := d.modHost _) ⟨rfl, rfl, rfl⟩ (completeTlp_same _ _ _ _ _))

theorem completeFailed_same (k : Nat) (d : Dev) : SameMemory d (completeFailed k d) := by
  unfold completeFailed
  exact same_trans (same_trans (e := d.modLocks _) ⟨rfl, rfl, rfl⟩ (endHolds_same _ _))
    (foldl_same _ (fun x r => completeRead_same _ _ _ x) _ _)

theorem dropBuffered_same (k : Nat) (d : Dev) : SameMemory d (dropBuffered k d) := by
  unfold dropBuffered; split
  · exact stackStorage_same _ d
  · exact same_refl d

theorem holdWork_same (d : Dev) : SameMemory d (holdWork d) := same_ite ⟨rfl, rfl, rfl⟩ (same_refl d)

theorem abortLoad_same (d : Dev) : SameMemory d (abortLoad d) := same_ite (failLoad_same _ _ _ d) (same_refl d)

theorem awaitMap_same (d : Dev) : SameMemory d (d.modHbm fun h => { h with awaitingMap := true }) := ⟨rfl, rfl, rfl⟩

theorem stackFail_same (k cause : Nat) (d : Dev) : SameMemory d (stackFail k cause d) := by
  unfold stackFail
  refine same_ite (same_refl d) ?_
  have h1 : SameMemory d (d.modCtl k fun c => { c with failed := true }) := ⟨rfl, rfl, rfl⟩
  have h2 := same_trans h1 (post_same 0x0802 (unitBlock (k / 2) 6 k) 0 (syn [(32, 1, k), (33, 1, cause)]) _)
  exact same_trans (same_trans (same_trans (same_trans (same_trans (same_trans h2 (awaitMap_same _)) (holdWork_same _)) (endScrub_same _ _ _))
    (dropBuffered_same _ _)) (abortLoad_same _)) (completeFailed_same _ _)

theorem countCe_same (k line s : Nat) (p : Byte) (d : Dev) : SameMemory d (countCe k line s p d) := by
  unfold countCe
  dsimp only
  refine same_ite (same_trans ?_ (post_same _ _ _ _ _)) ?_ <;> exact same_ite ⟨rfl, rfl, rfl⟩ ⟨rfl, rfl, rfl⟩

theorem countUe_same (k line src : Nat) (s : Bytes) (op : Word) (d : Dev) : SameMemory d (countUe k line src s op d) := by
  unfold countUe
  dsimp only
  refine same_ite (same_trans ?_ (stackFail_same _ _ _)) ?_ <;>
    exact same_trans (e := Dev.modCtl d k _) ⟨rfl, rfl, rfl⟩ (postPolicy_same _ _ _ _ _)

theorem returnToken_same (k : Nat) (l : Option Nat) (d : Dev) : SameMemory d (returnToken k l d) := by
  unfold returnToken; split <;> exact ⟨rfl, rfl, rfl⟩

theorem markDirty_same (a n : Nat) (d : Dev) : SameMemory d (markDirty a n d) := by
  refine foldl_same _ (fun d p => ?_) _ d
  split <;> exact ⟨rfl, rfl, rfl⟩

/-! ### Operations that write -/

/-- The operation keeps the canonical form. -/
abbrev KeepsWf (d e : Dev) : Prop := Memory.wf d = true → Memory.wf e = true

theorem keeps_trans {d e f : Dev} (h : KeepsWf d e) (g : KeepsWf e f) : KeepsWf d f := g ∘ h

theorem keeps_ite {p : Prop} [Decidable p] {d e f : Dev} (h : KeepsWf d e) (g : KeepsWf d f) : KeepsWf d (if p then e else f) := by
  split <;> assumption

theorem keeps_same {d e : Dev} (h : SameMemory d e) : KeepsWf d e := wf_of_same h

theorem wf_parts (d : Dev) : Memory.wf d = true ↔
    twf 0 d.mem = true ∧ twf 0 d.hbm.check = true ∧ (d.tiles.all fun e => twf 0 e.2.basin) = true := by
  simp only [Memory.wf, Bool.and_eq_true, and_assoc]

theorem storeLine_keeps (k line : Nat) (data check : Bytes) (d : Dev) : KeepsWf d (storeLine k line data check d) := by
  intro h
  rw [wf_parts] at *
  exact ⟨twf_tputs 0 _ _ _ h.1, twf_tputs 0 _ _ _ h.2.1, h.2.2⟩

theorem putLine_keeps (k line : Nat) (data : Bytes) (d : Dev) : KeepsWf d (putLine k line data d) := storeLine_keeps k line data _ d

theorem poisonLine_keeps (k line : Nat) (data : Bytes) (d : Dev) : KeepsWf d (poisonLine k line data d) := storeLine_keeps k line data _ d

theorem detectUe_keeps (k line src : Nat) (s : Bytes) (op : Word) (data : Bytes) (w : Bool) (d : Dev) :
    KeepsWf d (detectUe k line src s op data w d) := by
  have mark (f : Hbm → List (Nat × Nat)) : KeepsWf d (d.modHbm fun h => { h with found := f h }) := keeps_same ⟨rfl, rfl, rfl⟩
  unfold detectUe
  dsimp only
  generalize d.hbm.found.contains (k, line) = again
  refine keeps_trans (e := if w = true then poisonLine k line data d else _)
    (keeps_ite (poisonLine_keeps k line data d) (mark fun h => if again then h.found else (k, line) :: h.found)) ?_
  exact keeps_ite id (keeps_same (countUe_same _ _ _ _ _ _))

/-- A read of a line writes back what it corrects, in canonical form. -/
theorem readLine_keeps (k line src : Nat) (op : Word) (w : Bool) (d : Dev) : KeepsWf d (readLine k line src op w d).2 := by
  have quiet (b : Bool) (f : HbmCtl → HbmCtl) : KeepsWf d (if b = true then d.modCtl k f else d) := keeps_ite (keeps_same ⟨rfl, rfl, rfl⟩) id
  unfold readLine
  dsimp only
  split
  · exact quiet _ _
  · exact quiet _ _
  · exact keeps_trans (quiet _ _) (keeps_ite id (keeps_trans (keeps_ite (putLine_keeps _ _ _ _) id) (keeps_same (countCe_same _ _ _ _ _))))
  · exact keeps_trans (quiet _ _) (keeps_ite id (detectUe_keeps _ _ _ _ _ _ _ _))

theorem retireEntry_keeps (k : Nat) (e : MergeEntry) (d : Dev) : KeepsWf d (retireEntry k e d) := by
  unfold retireEntry
  dsimp only
  refine keeps_trans (readLine_keeps k e.line 1 e.operation true d) (keeps_trans ?_ (keeps_same (returnToken_same _ _ _)))
  have hw := keeps_ite (p := (readLine k e.line 1 e.operation true d).1.poison = true ∨ e.poison = true)
    (poisonLine_keeps k e.line (overlay e (readLine k e.line 1 e.operation true d).1.data) (readLine k e.line 1 e.operation true d).2)
    (putLine_keeps k e.line (overlay e (readLine k e.line 1 e.operation true d).1.data) (readLine k e.line 1 e.operation true d).2)
  exact keeps_ite (keeps_trans hw (keeps_same ⟨rfl, rfl, rfl⟩)) hw

theorem foldl_keeps {α : Type} (f : Dev → α → Dev) (hf : ∀ d x, KeepsWf d (f d x)) (l : List α) :
    ∀ d, KeepsWf d (l.foldl f d) := by
  induction l with
  | nil => exact fun _ => id
  | cons x l ih => exact fun d => keeps_trans (hf d x) (ih _)

theorem retireOldest_keeps (k : Nat) (d : Dev) : KeepsWf d (retireOldest k d) := by
  unfold retireOldest; split
  · exact id
  · exact keeps_trans (e := Dev.modCtl d k _) (keeps_same ⟨rfl, rfl, rfl⟩) (retireEntry_keeps _ _ _)

theorem retireLine_keeps (k line : Nat) (d : Dev) : KeepsWf d (retireLine k line d) := by
  unfold retireLine
  exact keeps_trans (e := Dev.modCtl d k _) (keeps_same ⟨rfl, rfl, rfl⟩) (foldl_keeps _ (fun d e => retireEntry_keeps k e d) _ _)

theorem retireLock_keeps (k l : Nat) (d : Dev) : KeepsWf d (retireLock k l d) := by
  unfold retireLock
  exact foldl_keeps (fun d (e : MergeEntry) => retireLine k e.line d) (fun d e => retireLine_keeps k e.line d) _ d

theorem mergeWrite_keeps (k line off : Nat) (bs : Bytes) (l : Option Nat) (p : Bool) (op : Word) (d : Dev) :
    KeepsWf d (mergeWrite k line off bs l p op d) := by
  unfold mergeWrite
  dsimp only
  refine keeps_ite (keeps_trans (e := Dev.modCtl d k _) (keeps_same ⟨rfl, rfl, rfl⟩) (keeps_same (returnToken_same _ _ _))) ?_
  exact keeps_trans (keeps_ite (retireOldest_keeps k d) id) (keeps_same ⟨rfl, rfl, rfl⟩)

theorem hbmRead_keeps (k off n : Nat) (op : Word) (d : Dev) : KeepsWf d (hbmRead k off n op d).2 := by
  unfold hbmRead
  split
  · exact id
  · exact readLine_keeps _ _ _ _ _ _

theorem hbmWrite_keeps (k off : Nat) (bs : Bytes) (p : Bool) (l : Option Nat) (op : Word) (d : Dev) : KeepsWf d (hbmWrite k off bs p l op d) := by
  unfold hbmWrite
  dsimp only
  refine keeps_ite (keeps_same (returnToken_same _ _ _)) (keeps_ite ?_ (mergeWrite_keeps _ _ _ _ _ _ _ _))
  exact keeps_trans (retireLine_keeps _ _ _) (keeps_ite (poisonLine_keeps _ _ _ _) (putLine_keeps _ _ _ _))

theorem wharfRead_same (ch a n : Nat) (op : Word) (d : Dev) : SameMemory d (wharfRead ch a n op d).2 := by
  unfold wharfRead
  dsimp only
  split
  · exact same_refl d
  · split
    · exact same_refl d
    · split
      · exact same_refl d
      · split
        · exact same_ite (same_trans (e := Dev.modWharfCh (Dev.modWharf d _) ch _) ⟨rfl, rfl, rfl⟩ (post_same _ _ _ _ _)) ⟨rfl, rfl, rfl⟩
        · exact same_trans (e := Dev.modWharfCh (Dev.modWharf d _) ch _) ⟨rfl, rfl, rfl⟩ (postPolicy_same _ _ _ _ _)

theorem wharfWrite_keeps (ch a : Nat) (bs : Bytes) (p : Bool) (op : Word) (d : Dev) : KeepsWf d (wharfWrite ch a bs p op d) := by
  unfold wharfWrite
  dsimp only
  refine keeps_ite id ?_
  intro h
  have h' : Memory.wf (if bs.length = 64 then ((([] : Bytes), false), d) else wharfRead ch (64 * (a / 64)) 64 op d).2 = true := by
    split
    · exact h
    · exact wf_of_same (wharfRead_same _ _ _ _ _) h
  rw [wf_parts] at *
  exact ⟨twf_tputs 0 _ _ _ h'.1, h'.2.1, h'.2.2⟩

theorem all_tput {α : Type} (p : α → Bool) (t : Tab α) (i : Nat) (v : α) (hv : p v = true) (h : (t.all fun e => p e.2) = true) :
    ((tput t i v).all fun e => p e.2) = true := by
  induction t with
  | nil => simp [tput, hv]
  | cons e t ih =>
    obtain ⟨k, w⟩ := e
    simp only [List.all_cons, Bool.and_eq_true] at h
    simp only [tput]
    split
    · simp [hv, h.1, h.2]
    · split
      · simp [hv, h.2]
      · simp [h.1, ih h.2]

theorem all_tdel {α : Type} (p : α → Bool) (t : Tab α) (i : Nat) (h : (t.all fun e => p e.2) = true) :
    ((tdel t i).all fun e => p e.2) = true := by
  induction t with
  | nil => rfl
  | cons e t ih =>
    obtain ⟨k, w⟩ := e
    simp only [List.all_cons, Bool.and_eq_true] at h
    simp only [tdel]
    split
    · exact h.2
    · simp [h.1, ih h.2]

theorem all_tget {α : Type} (p : α → Bool) (x : α) (t : Tab α) (i : Nat) (hx : p x = true) (h : (t.all fun e => p e.2) = true) :
    p (tget x t i) = true := by
  unfold tget
  induction t with
  | nil => exact hx
  | cons e t ih =>
    obtain ⟨k, w⟩ := e
    simp only [List.all_cons, Bool.and_eq_true] at h
    simp only [tfind]
    split
    · exact h.1
    · exact ih h.2

/-- A change of a tile that keeps its basin canonical keeps the memory canonical. -/
theorem modTile_keeps (n : Nat) (f : Tile → Tile) (hf : ∀ t, twf 0 t.basin = true → twf 0 (f t).basin = true) (d : Dev) :
    KeepsWf d (d.modTile n f) := by
  intro h
  rw [wf_parts] at *
  refine ⟨h.1, h.2.1, ?_⟩
  have hv := hf _ (all_tget (fun t : Tile => twf 0 t.basin) {} d.tiles n rfl h.2.2)
  simp only [Dev.modTile, tmod, tset]
  split
  · exact all_tdel (fun t : Tile => twf 0 t.basin) _ _ h.2.2
  · exact all_tput (fun t : Tile => twf 0 t.basin) _ _ _ hv h.2.2

theorem streams_basin (t : Tile) (f : Stream → Stream) (l : List Nat) :
    (l.foldl (fun t i => t.modStream i f) t).basin = t.basin := by
  induction l generalizing t with
  | nil => rfl
  | cons x l ih => exact ih _

theorem postTile_keeps (n : Nat) (r : ErrorRecord) (b : Bool) (d : Dev) : KeepsWf d (postTile n r b d) :=
  keeps_same (same_ite ⟨rfl, rfl, rfl⟩ (postRecord_same _ _ _))

theorem demandAction_keeps (a n : Nat) (d : Dev) : KeepsWf d (demandAction a n d) := by
  have one (d : Dev) (m : Nat) : KeepsWf d (d.modTile m fun t => { t with actionDue := max t.actionDue a }) :=
    modTile_keeps m (fun t => { t with actionDue := max t.actionDue a }) (fun _ h => h) d
  unfold demandAction
  exact keeps_ite (foldl_keeps _ one _ d) id

/-- A tile fault stops streams; what the basin holds stays. -/
theorem tileFault_keeps (cls n : Nat) (s : Option Nat) (pc : Nat) (op : Word) (halt : List Nat) (d : Dev) (stamp : ErrorRecord → ErrorRecord) :
    KeepsWf d (tileFault cls n s pc op halt d stamp) := by
  unfold tileFault
  extract_lets a restart r d1 d2 d3
  have h1 : KeepsWf d d1 := by
    unfold d1
    refine modTile_keeps _ _ ?_ d
    intro t h
    exact h
  clear_value d1
  have h2 : KeepsWf d d2 := keeps_trans h1 (modTile_keeps _ _ (fun t h => (congrArg (twf 0) (streams_basin t _ halt)).trans h) d1)
  have h3 : KeepsWf d d3 := keeps_trans h2 (keeps_trans (demandAction_keeps a n d2) (postTile_keeps n r _ _))
  exact keeps_ite (keeps_trans h3 (keeps_same (suspect_same _ _ _))) h3

theorem decodeSpan_basin (t : Tile) (a n : Nat) : (t.decodeSpan a n).basin = t.basin := by
  unfold Tile.decodeSpan; split <;> rfl

theorem readSpans_keeps (n : Nat) (s : Option Nat) (pc : Nat) (w : Word) (l : List (Nat × Nat)) (d : Dev) : KeepsWf d (readSpans n s pc w l d) :=
  foldl_keeps _ (fun d r =>
    keeps_trans (modTile_keeps n _ (fun t h => (congrArg (twf 0) (decodeSpan_basin t r.1 r.2)).trans h) d)
      (keeps_ite id (tileFault_keeps 0x504 n s pc w [] _ id))) _ d

theorem basinRead_keeps (n off len : Nat) (d : Dev) : KeepsWf d (basinRead n off len d).2 := readSpans_keeps n none 0 0 _ d

theorem basinWrite_keeps (n off : Nat) (bs : Bytes) (p : Bool) (d : Dev) : KeepsWf d (basinWrite n off bs p d) :=
  keeps_trans (readSpans_keeps n none 0 0 _ d) (modTile_keeps n _ (fun _ h => twf_tputs 0 _ _ _ h) _)

theorem readPiece_keeps (op : Word) (a n : Nat) (d : Dev) : KeepsWf d (readPiece op a n d).2 := by
  unfold readPiece
  split
  · exact hbmRead_keeps _ _ _ _ _
  · exact keeps_same (wharfRead_same _ _ _ _ _)
  · exact basinRead_keeps _ _ _ _
  · exact id

theorem writePiece_keeps (a : Nat) (bs : Bytes) (p : Bool) (l : Option Nat) (op : Word) (d : Dev) : KeepsWf d (writePiece a bs p l op d) := by
  unfold writePiece
  split
  · exact hbmWrite_keeps _ _ _ _ _ _ _
  · exact wharfWrite_keeps _ _ _ _ _ _
  · exact basinWrite_keeps _ _ _ _ _
  · exact id

/-- A fold whose every step keeps the canonical form of the device it carries. -/
theorem fold_with {α β : Type} (dev : β → Dev) (f : β → α → β) (hf : ∀ b x, KeepsWf (dev b) (dev (f b x))) (l : List α) :
    ∀ b, KeepsWf (dev b) (dev (l.foldl f b)) := by
  induction l with
  | nil => exact fun _ => id
  | cons x l ih => exact fun b => keeps_trans (hf b x) (ih _)

/-- A read of a span. -/
theorem memRead_keeps (op : Word) (a n : Nat) (d : Dev) : KeepsWf d (memRead op a n d).2 := by
  unfold memRead
  refine fold_with (fun b : (Bytes × Bool) × Dev => b.2) _ ?_ _ (([], false), d)
  exact fun b p => readPiece_keeps op (readAt b.2 p.1) p.2 b.2

theorem memReadMap_keeps (op : Word) (a n : Nat) (d : Dev) : KeepsWf d (memReadMap op a n d).2 := by
  unfold memReadMap
  exact fold_with (fun b : (Bytes × List (Nat × Nat)) × Dev => b.2) _ (fun b _ => readPiece_keeps _ _ _ b.2) _ (([], []), d)

theorem rawRead_keeps (a n : Nat) (d : Dev) : KeepsWf d (rawRead a n d).2 := by
  unfold rawRead
  refine fold_with (fun b : (Bytes × Bool) × Dev => b.2) _ ?_ _ (([], false), d)
  exact fun b p => readPiece_keeps 0 p.1 p.2 b.2

theorem rawWrite_keeps (a : Nat) (bs : Bytes) (p : Bool) (d : Dev) : KeepsWf d (rawWrite a bs p d) :=
  fold_with (fun b : Bytes × Dev => b.2) _ (fun b _ => writePiece_keeps _ _ _ _ _ b.2) _ (bs, d)

theorem rawCopy_keeps (src dst n : Nat) (d : Dev) : KeepsWf d (rawCopy src dst n d) :=
  foldl_keeps _ (fun d _ => keeps_trans (readPiece_keeps _ _ _ d) (writePiece_keeps _ _ _ _ _ _)) _ d

theorem fillChunk_keeps (c : Nat) (d : Dev) : KeepsWf d (fillChunk c d) :=
  keeps_trans (rawCopy_keeps _ _ _ d) (keeps_same ⟨rfl, rfl, rfl⟩)

theorem stageChunk_keeps (c : Nat) (d e : Dev) (h : stageChunk c d = some e) : KeepsWf d e := by
  unfold stageChunk at h
  split at h
  · cases h
  · split at h
    · cases h
    · cases h
      exact keeps_trans (rawCopy_keeps _ _ _ d) (keeps_same ⟨rfl, rfl, rfl⟩)

theorem stageOr_keeps (c : Nat) (d : Dev) : KeepsWf d ((stageChunk c d).getD d) := by
  cases hs : stageChunk c d with
  | none => exact id
  | some e => exact stageChunk_keeps c d e hs

theorem modRel_same (f : Rel → Rel) (d : Dev) : SameMemory d (d.modRel f) := ⟨rfl, rfl, rfl⟩

theorem engineHold_same (kind : HoldKind) (lock : Option Nat) (d : Dev) : SameMemory d (engineHold kind lock d) := by
  unfold engineHold countHold
  split <;> exact ⟨rfl, rfl, rfl⟩

theorem settleChunk_keeps (lock : Option Nat) (a n : Nat) (d : Dev) (c : Nat) : KeepsWf d (settleChunk lock a n d c) := by
  unfold settleChunk
  extract_lets x
  have h1 : KeepsWf d x := keeps_ite (keeps_trans (stageOr_keeps c d) (keeps_same (engineHold_same _ _ _))) id
  exact keeps_ite (keeps_trans h1 (keeps_trans (fillChunk_keeps c x) (keeps_same (engineHold_same _ _ _)))) h1

/-- One piece of an engine's write keeps the canonical form, whichever token it takes. -/
theorem enginePiece_keeps (lock : Option Nat) (op : Word) (a : Nat) (bs : Bytes) (p : Bool) (d : Dev) : KeepsWf d (enginePiece lock op a bs p d) := by
  unfold enginePiece
  split
  · split
    · exact hbmWrite_keeps _ _ _ _ _ _ _
    · rename_i k off _ _ l _
      have h1 : KeepsWf d (if freeTokens d k l = 0 then retireLock k l d else d) := keeps_ite (retireLock_keeps k l d) id
      exact keeps_trans (keeps_trans h1 (keeps_same ⟨rfl, rfl, rfl⟩)) (hbmWrite_keeps _ _ _ _ _ _ (Dev.modLock _ l _))
  · exact writePiece_keeps _ _ _ _ _ _

theorem engineWriteBy_keeps (lock : Option Nat) (op : Word) (a : Nat) (bs : Bytes) (bad : Nat → Nat → Bool) (d : Dev) :
    KeepsWf d (engineWriteBy lock op a bs bad d) := by
  unfold engineWriteBy
  extract_lets d1 d2
  have h1 : KeepsWf d d1 :=
    keeps_trans (foldl_keeps _ (settleChunk_keeps lock a bs.length) _ d) (keeps_same (markDirty_same a bs.length _))
  have h2 : KeepsWf d d2 := by
    refine keeps_trans h1 (keeps_same ?_)
    unfold d2; split <;> exact ⟨rfl, rfl, rfl⟩
  exact keeps_trans h2 (fold_with (fun b : Nat × Bytes × Dev => b.2.2) _ (fun b _ => enginePiece_keeps _ _ _ _ _ b.2.2) _ (0, bs, d2))

theorem engineWrite_keeps (lock : Option Nat) (op : Word) (a : Nat) (bs : Bytes) (p : Bool) (d : Dev) : KeepsWf d (engineWrite lock op a bs p d) :=
  engineWriteBy_keeps lock op a bs _ d

theorem zeroSpan_keeps (a n : Nat) (d : Dev) : KeepsWf d (zeroSpan a n d) := by
  intro h
  rw [wf_parts] at h
  unfold zeroSpan
  split
  · exact (wf_parts _).mpr ⟨twf_tclear 0 _ _ _ h.1, twf_tclear 0 _ _ _ h.2.1, h.2.2⟩
  · exact (wf_parts _).mpr ⟨twf_tclear 0 _ _ _ h.1, h.2.1, h.2.2⟩
  · exact (wf_parts _).mpr h

theorem testEnd_keeps (k : Nat) (d : Dev) : KeepsWf d (testEnd k d) := by
  intro h
  rw [wf_parts] at *
  exact ⟨twf_tclear 0 _ _ _ h.1, twf_tclear 0 _ _ _ h.2.1, h.2.2⟩

theorem testEndAll_keeps (d : Dev) : KeepsWf d (testEndAll d) :=
  foldl_keeps _ (fun d k => keeps_ite (testEnd_keeps k d) id) _ d

end Sys2Proof.Machine
end

