-- ==== Sys2Proof/Laws/Ops.lean ====
section
/-! SUPPORT. What the shared operations can do, said once: the outcome of a command, the guards of a mailbox command, its
completion. -/

namespace Sys2Proof.Machine

theorem onDev_on (f : Dev → Dev) (s : State) (h : s.On) : onDev f s = .next (s.withDev (f s.dev)) := by
  simp only [State.On] at h; simp [onDev, State.withDev, h]

theorem onDevV_on (f : Vault → Dev → Dev) (s : State) (h : s.On) : onDevV f s = .next (s.withDev (f s.vault s.dev)) := by
  simp only [State.On] at h; simp [onDevV, State.withDev, h]

theorem onDev_off (f : Dev → Dev) (s : State) (h : s.dev.power.state = .off) : onDev f s = .next s := by
  simp [onDev, h]

theorem onDevV_off (f : Vault → Dev → Dev) (s : State) (h : s.dev.power.state = .off) : onDevV f s = .next s := by
  simp [onDevV, h]

theorem onVault_on (f : Vault → Dev → Vault × Dev) (s : State) (h : s.On) :
    onVault f s = .next { s with vault := (f s.vault s.dev).1, dev := (f s.vault s.dev).2 } := by
  simp only [State.On] at h; simp [onVault, h]

theorem onVault_off (f : Vault → Dev → Vault × Dev) (s : State) (h : s.dev.power.state = .off) : onVault f s = .next s := by
  simp [onVault, h]

/-- Whatever `onDev` answers, the queue and the vault are as before. -/
theorem onDev_frame (f : Dev → Dev) (s t : State) (h : onDev f s = .next t) : t.pending = s.pending ∧ t.vault = s.vault := by
  simp only [onDev] at h
  split at h <;> (cases h; exact ⟨rfl, rfl⟩)

theorem onDevV_frame (f : Vault → Dev → Dev) (s t : State) (h : onDevV f s = .next t) : t.pending = s.pending ∧ t.vault = s.vault := by
  simp only [onDevV] at h
  split at h <;> (cases h; exact ⟨rfl, rfl⟩)

theorem always_frame (f : Dev → Dev) (s t : State) (h : always f s = .next t) : t.pending = s.pending ∧ t.vault = s.vault := by
  simp only [always] at h
  cases h
  exact ⟨rfl, rfl⟩

theorem onVault_frame (f : Vault → Dev → Vault × Dev) (s t : State) (h : onVault f s = .next t) : t.pending = s.pending := by
  simp only [onVault] at h
  split at h <;> (cases h; rfl)

theorem alwaysV_frame (f : Vault → Dev → Vault × Dev) (s t : State) (h : alwaysV f s = .next t) : t.pending = s.pending := by
  simp only [alwaysV] at h
  cases h
  rfl

/-- While its core does not restart, a command that the core serves runs at once. -/
theorem whileUp_up (k : Nat) (i : HeldCmd) (now : State → Host.Outcome State Fault Refusal) (s : State) (h : s.dev.restarting k = false) :
    whileUp k i now s = now s := by
  simp [whileUp, h]

/-- While its core restarts in full service, the command waits (R353). -/
theorem whileUp_restarting (k : Nat) (i : HeldCmd) (now : State → Host.Outcome State Fault Refusal) (s : State)
    (h : s.dev.restarting k = true) (hf : s.Full) :
    whileUp k i now s = .next (s.withDev (hold k i s.dev)) := by
  simp only [State.Full] at hf
  simp [whileUp, h, hf, State.withDev]

/-- What a command that waits leaves: it stands last in the list, and its source's frame is busy (R353, R357). -/
theorem hold_waits (k : Nat) (i : HeldCmd) (d : Dev) (h : ∀ src, i.source = some src → (d.frame src).running = false) :
    (hold k i d).heldCmds = d.heldCmds ++ [(k, i)] := by
  unfold hold
  cases hs : i.source with
  | none => rfl
  | some src => simp [h src hs, keepRunning]

/-! ### Guards (R14, R359) -/

/-- Nothing turns a command away in full service when its chapter lets the source send it and its block is not unlocked. -/
theorem guardStatus_none (g : Guard) (src : Nat) (d : Dev) (hp : d.power.state = .full ∨ g.reduced = true)
    (hv : isVf src = false ∨ g.vf = true) (hi : src ≠ 1025 ∨ g.i3c = true) (hb : ∀ b, g.block = some b ∨ b ∈ g.also → b ∉ d.expert.unlocked) :
    guardStatus g src d = none := by
  unfold guardStatus
  have h1 : ¬ (d.power.state ≠ .full ∧ g.reduced = false) := by
    rintro ⟨a, b⟩; rcases hp with h | h
    · exact a h
    · simp [h] at b
  have h2 : ¬ (isVf src = true ∧ g.vf = false ∨ src = 1025 ∧ g.i3c = false) := by
    rintro (⟨a, b⟩ | ⟨a, b⟩)
    · rcases hv with h | h
      · simp [h] at a
      · simp [h] at b
    · rcases hi with h | h
      · exact h a
      · simp [h] at b
  rw [if_neg h1, if_neg h2]
  simp only [List.any_eq_true, List.mem_append, Option.mem_toList, List.contains_iff_mem, ite_eq_right_iff, reduceCtorEq, imp_false]
  rintro ⟨b, hg, hu⟩
  exact hb b hg hu

theorem guardStatus_reduced (g : Guard) (src : Nat) (d : Dev) (hp : d.power.state ≠ .full) (hg : g.reduced = false) :
    guardStatus g src d = some .reduced := by
  simp [guardStatus, hp, hg]

theorem guardStatus_vf (g : Guard) (src : Nat) (d : Dev) (hp : d.power.state = .full) (hs : isVf src = true) (hg : g.vf = false) :
    guardStatus g src d = some .notPermitted := by
  simp [guardStatus, hp, hs, hg]

theorem guardStatus_expert (g : Guard) (src b : Nat) (d : Dev) (hp : d.power.state = .full) (hs : isVf src = false ∨ g.vf = true)
    (hi : src ≠ 1025 ∨ g.i3c = true) (hb : g.block = some b ∨ b ∈ g.also) (hu : b ∈ d.expert.unlocked) : guardStatus g src d = some .blockExpert := by
  have h2 : ¬ (isVf src = true ∧ g.vf = false ∨ src = 1025 ∧ g.i3c = false) := by
    rintro (⟨a, b⟩ | ⟨a, b⟩)
    · rcases hs with h | h
      · simp [h] at a
      · simp [h] at b
    · rcases hi with h | h
      · exact h a
      · simp [h] at b
  have h3 : (g.block.toList ++ g.also).any d.expert.unlocked.contains = true := by
    simp only [List.any_eq_true, List.mem_append, Option.mem_toList, List.contains_iff_mem]
    exact ⟨b, hb, hu⟩
  simp only [guardStatus, hp, ne_eq, not_true_eq_false, false_and, if_false, h2, h3, if_true]

theorem mailbox_open (c : Cmd) (g : Guard) (f : Dev → Reply × Dev) (d : Dev) (h : guardStatus g c.src.val d = none)
    (hr : (d.frame c.src.val).running = false) : mailbox c g f d = complete c.src.val c.seq (f d).1 (f d).2 := by
  simp [mailbox, h, hr]

/-- A second go while the source's command has not completed (R357). -/
theorem mailbox_second (c : Cmd) (g : Guard) (f : Dev → Reply × Dev) (d : Dev) (hr : (d.frame c.src.val).running = true) :
    mailbox c g f d = overrun d := by
  simp [mailbox, hr]

theorem mailbox_refused (c : Cmd) (g : Guard) (f : Dev → Reply × Dev) (d : Dev) (st : MStatus) (h : guardStatus g c.src.val d = some st)
    (hr : (d.frame c.src.val).running = false) : mailbox c g f d = complete c.src.val c.seq (fail st) d := by
  simp [mailbox, h, hr]

theorem query_open (c : Cmd) (g : Guard) (f : Dev → Reply) (d : Dev) (h : guardStatus g c.src.val d = none)
    (hr : (d.frame c.src.val).running = false) : query c g f d = complete c.src.val c.seq (f d) d := by
  simp [query, mailbox, h, hr]

theorem mailboxLater_now (c : Cmd) (g : Guard) (f : Dev → Option Reply × Dev) (d : Dev) (r : Reply)
    (h : guardStatus g c.src.val d = none) (hf : (d.frame c.src.val).running = false) (hr : (f d).1 = some r) :
    mailboxLater c g f d = complete c.src.val c.seq r (f d).2 := by
  simp [mailboxLater, h, hf, hr]

/-- A mailbox command that answers at once. -/
theorem answers_mailbox (i : Instr) (c : Cmd) (g : Guard) (s : State) (f : Dev → Reply × Dev) (h : Serves g c s)
    (he : exec i s = onDev (mailbox c g f) s) : Answers i c s (f s.dev).1 (f s.dev).2 := by
  unfold Answers
  rw [he, onDev_on _ _ h.1, mailbox_open _ _ _ _ h.2.1 h.2.2]

/-- A mailbox command that only reads leaves everything but the answer as it was. -/
theorem answers_query (i : Instr) (c : Cmd) (g : Guard) (s : State) (f : Dev → Reply) (h : Serves g c s)
    (he : exec i s = onDev (query c g f) s) : Answers i c s (f s.dev) s.dev := by
  unfold Answers
  rw [he, onDev_on _ _ h.1, query_open _ _ _ _ h.2.1 h.2.2]

/-! ### Completing a command (R357) -/

/-- What a completion leaves in the source's frame. -/
theorem complete_frame (src : Nat) (seq : W32) (r : Reply) (d : Dev) :
    (complete src seq r d).frame src =
      { d.frame src with sequence := seq, sequenceEcho := seq, status := BitVec.ofNat 8 r.status.code,
                         detail := BitVec.ofNat 8 r.detail, result := r.result, busy := false, done := true, running := false } := by
  have key : ∀ e : Dev, e.mailbox.frames = tmod {} d.mailbox.frames src (fun f : Frame =>
      { f with sequence := seq, sequenceEcho := seq, status := BitVec.ofNat 8 r.status.code,
               detail := BitVec.ofNat 8 r.detail, result := r.result, busy := false, done := true, running := false }) →
      e.frame src = { d.frame src with sequence := seq, sequenceEcho := seq, status := BitVec.ofNat 8 r.status.code,
                                       detail := BitVec.ofNat 8 r.detail, result := r.result, busy := false, done := true, running := false } := by
    intro e he
    unfold Dev.frame tmod at *
    rw [he]
    unfold tget tset
    rw [if_neg]
    · rw [tfind_tput_same]
      rfl
    · intro hc
      have := congrArg Frame.done hc
      simp at this
  apply key
  unfold complete raiseMsix
  split
  · dsimp only
    split
    · rfl
    · split <;> rfl
  · split <;> rfl

end Sys2Proof.Machine
end

