-- ==== Sys2Proof/Laws/Regs.lean ====
section
/-! SUPPORT. What a register write that is taken does: the effect of its register, and nothing else. -/

namespace Sys2Proof.Machine

/-- The half-word mask of a 64-bit access loses no bit of the value. -/
theorem halfPlace_both (v : Word) : halfPlace .both v = v.toNat := rfl

/-- A 64-bit write that is taken has its register's effect (R7, R9–R11). -/
theorem regWrite_takes (p : RegPlace) (w : RegW) (s : State) (t : Taken) (off : Nat) (hp : regPlace off = some p)
    (h1 : pfPage p = none) (h2 : pfFrame p = none) (ho : p.off / 8 * 8 = p.off) (ha : off % 8 = 0) (h : Takes p w s t) :
    regWrite w.req.val off 8 w.value s.vault s.dev =
      regEffect w.req.val s.vault p .both t (storedOrShown s.vault s.dev p) s.dev := by
  obtain ⟨_, _, hd, hr, h⟩ := h
  obtain ⟨row, hw, ht⟩ := Option.map_eq_some_iff.mp h
  have hp' : { p with off := p.off / 8 * 8 } = p := by rw [ho]
  simp [regWrite, hp, halfOf, ha, h1, h2, hp', hw, writeReg, halfPlace_both, ht, hd, hr]

/-- The command of a register whose write is taken answers its effect. -/
theorem regCommand_takes (p : RegPlace) (w : RegW) (s : State) (t : Taken) (off : Nat) (hp : regPlace off = some p)
    (h1 : pfPage p = none) (h2 : pfFrame p = none) (ho : p.off / 8 * 8 = p.off) (ha : off % 8 = 0) (h : Takes p w s t) :
    regCommand off w s = .next (s.withDev (regEffect w.req.val s.vault p .both t (storedOrShown s.vault s.dev p) s.dev)) := by
  have hb := h.2.1
  rw [regCommand, onDevV_on _ _ h.1]
  simp only [hb]
  exact congrArg _ (congrArg _ (regWrite_takes p w s t off hp h1 h2 ho ha h))

/-- A windowed data register's write that is taken answers its effect. -/
theorem regAccess_takes (p : RegPlace) (w : RegW) (s : State) (t : Taken) (off : Nat) (hp : regPlace off = some p)
    (h1 : pfPage p = none) (h2 : pfFrame p = none) (ho : p.off / 8 * 8 = p.off) (ha : off % 8 = 0) (h : Takes p w s t) :
    regAccess off ⟨w.req, true, .both, w.value⟩ s =
      .next (s.withDev (regEffect w.req.val s.vault p .both t (storedOrShown s.vault s.dev p) s.dev)) := by
  rw [regAccess, onDevV_on _ _ h.1]
  exact congrArg _ (congrArg _ (regWrite_takes p w s t off hp h1 h2 ho ha h))

/-- A 64-bit read of a register has that register's side effect (R7). -/
theorem regRead_effect (p : RegPlace) (off : Nat) (v : Vault) (d : Dev) (row : RegRow) (hp : regPlace off = some p)
    (h1 : pfPage p = none) (h2 : pfFrame p = none) (ho : p.off / 8 * 8 = p.off) (ha : off % 8 = 0) (hw : regRow p = some row) :
    (regRead off 8 v d).2 = readEffect p .both d := by
  have hp' : { p with off := p.off / 8 * 8 } = p := by rw [ho]
  simp [regRead, hp, halfOf, ha, h1, h2, hp', hw]

/-- A windowed data register's read answers its side effect. -/
theorem regAccess_read (p : RegPlace) (r : Req) (s : State) (off : Nat) (row : RegRow) (h : s.On) (hp : regPlace off = some p)
    (h1 : pfPage p = none) (h2 : pfFrame p = none) (ho : p.off / 8 * 8 = p.off) (ha : off % 8 = 0) (hw : regRow p = some row) (x : Word) :
    regAccess off ⟨r, false, .both, x⟩ s = .next (s.withDev (readEffect p .both s.dev)) := by
  rw [regAccess, onDevV_on _ _ h]
  exact congrArg _ (congrArg _ (regRead_effect p off s.vault s.dev row hp h1 h2 ho ha hw))

end Sys2Proof.Machine
end

