-- ==== Sys2Proof/WellFormed.lean ====
section
/-! DEFINITION. When a command is well formed: each operand fits the field, the TLP or the memory that carries it. A mailbox
parameter has at most 64 bits, a TLP at most 512 bytes, a fetched structure at most the 32 MiB of a manifest. -/

namespace Sys2Proof

/-- A number of at most 64 bits. -/
def wfNat (n : Nat) : Bool := decide (n < 2 ^ 64)

/-- Bytes fetched or carried: at most 32 MiB. -/
def wfBytes (b : Bytes) : Bool := decide (b.length ≤ 2 ^ 25)

/-- The payload of one posted TLP: 1 to 512 bytes (R202). -/
def wfPayload (b : Bytes) : Bool := decide (1 ≤ b.length ∧ b.length ≤ 512)

/-- The length of one read request: 1 to 4,096 bytes (R202). -/
def wfReadLength (n : Nat) : Bool := decide (1 ≤ n ∧ n ≤ 4096)

/-- The size of one register access: 1, 2, 4 or 8 bytes; R7 says what becomes of each. -/
def wfSize (n : Nat) : Bool := ([1, 2, 4, 8] : List Nat).contains n

/-- A port's tag: at most 14 bits (R202). -/
def wfTag (n : Nat) : Bool := decide (n < 2 ^ 14)

/-- What training finds at the 12 wharf channels (R174). -/
def wfDimms (l : List (Nat × Bool)) : Bool := decide (l.length = 12) && l.all fun x => wfNat x.1

/-- The code of the 19 cores, each within the 512 KiB of code memory (R378). -/
def wfCode (l : List Bytes) : Bool := decide (l.length = 19) && l.all fun b => decide (b.length ≤ 0x80000)

def LockReq.wf : LockReq → Bool
  | .read a n _ => wfNat a && wfNat n
  | .write a b _ _ => wfNat a && wfBytes b
  | .data c b _ => wfNat c && wfBytes b

def CfgReq.wf : CfgReq → Bool
  | .read o => decide (o < 4096)
  | .write o _ => decide (o < 4096)
  | .command _ _ => true
  | .msix _ _ => true
  | .field _ => true
  | .device m t => wfNat m && wfNat t
  | .power _ => true
  | .aerClear _ _ => true
  | .ecrc _ _ => true

def PortReq.wf : PortReq → Bool
  | .read a n t => wfNat a && wfReadLength n && wfTag t
  | .write a b _ _ => wfNat a && wfPayload b
  | .other t => t.all wfTag
  | .badEcrc => true

def DoorbellWrite.wf : DoorbellWrite → Bool
  | .doorbell _ i _ => wfNat i
  | .register _ => true

def QueueSet.wf : QueueSet → Bool
  | .bind a b c d e f g h => wfNat a && wfNat b && wfNat c && wfNat d && wfNat e && wfNat f && wfNat g && wfNat h
  | .unbind => true

def NetNode.wf : NetNode → Bool
  | .queue q => wfNat q
  | .inst i p => wfNat i && wfNat p

def wfOption (o : Option Nat) : Bool := match o with | some n => wfNat n | none => true

def ConnSet.wf (c : ConnSet) : Bool :=
  wfNat c.port && wfNat c.egress && wfNat c.mtu && wfOption c.lane && wfOption c.rtoMin && wfOption c.retryLimit && wfOption c.reorder

def MooringSet.wf (m : MooringSet) : Bool := wfNat m.inst && wfNat m.base && wfNat m.size && wfOption m.counter && wfNat m.mode

def StorSet.wf : StorSet → Bool
  | .bind a b c d e => wfNat a && wfNat b && wfNat c && wfNat d && wfNat e
  | .unbind => true

def VolumeSet.wf (v : VolumeSet) : Bool := wfNat v.inst && wfNat v.backend && wfNat v.nsid && wfNat v.first && wfNat v.count

def RemoteSet.wf (r : RemoteSet) : Bool :=
  wfOption r.tcpPort && wfBytes r.subNqn && wfBytes r.hostNqn && wfNat r.port && wfNat r.egress && wfNat r.conns

def Bcast.wf : Bcast → Bool
  | .flip n => wfNat n
  | .stretch f n => wfNat f && wfNat n
  | .demand f => wfNat f
  | .abort => true
  | .zero _ => true
  | .zeroAbort => true
  | .topology => true
  | .ready => true
  | .failed => true
  | .lost => true
  | .locked => true

def RosterCell.wf : RosterCell → Bool
  | .gather ids lows => decide (ids.length ≤ 256) && decide (lows.length ≤ 256)
  | .report t ids => wfNat t && decide (ids.length ≤ 256)
  | .column m ids => wfNat m && decide (ids.length ≤ 256)

def Training.wf (t : Training) : Bool := wfNat t.barge && wfNat t.cell && wfNat t.bypasses

def SealJob.wf (j : SealJob) : Bool := decide (j.iv.length = 12) && wfBytes j.aad && wfBytes j.text

def I3cWrite.wf : I3cWrite → Bool
  | .deviceId _ => true
  | .frame o b => wfNat o && wfBytes b

def Reading.wf (r : Reading) : Bool :=
  wfNat r.inputW && wfNat r.inputMv && decide (r.junction.length = 6 ∧ r.railMv.length = 6) && r.railMv.all wfNat && wfNat r.railMilli

def WinSel.wf : WinSel → Bool
  | .pf n => wfNat n
  | .vf i n => wfNat i && wfNat n

def StepWord.wf (w : StepWord) : Bool := wfNat w.members

def RestoreEntry.wf (e : RestoreEntry) : Bool := wfNat e.first && wfNat e.count && wfNat e.fmt && wfNat e.addr

def VolumeBlock.wf (b : VolumeBlock) : Bool := wfNat b.volume && wfNat b.lba && decide (b.bytes.length = 4096)

def DebugOp.wf : DebugOp → Bool
  | .halt => true
  | .resume => true
  | .step _ => true
  | .read a n => wfNat a && wfNat n
  | .write a b => wfNat a && wfBytes b

def PortDevice.wf (p : PortDevice) : Bool := wfNat p.mps && p.bars.all wfNat && p.namespaces.all wfNat

/-- A command is well formed. -/
def Instr.wf (i : Instr) : Bool :=
  match i with
  | .registerWrite _ addr size _ => wfNat addr && wfSize size
  | .cmdManifestLoad _ source address length => wfNat source && wfNat address && wfNat length
  | .cmdManifestReload _ source address length mode => wfNat source && wfNat address && wfNat length && wfNat mode
  | .fetch data => wfBytes data
  | .authenticate => true
  | .validate => true
  | .shadowWrite => true
  | .groupReadyTimeout => true
  | .rollbackRestore chunks => chunks.all (fun x => wfNat x.1 && wfBytes x.2)
  | .cmdManifestStatus _ => true
  | .cmdManifestCancel _ => true
  | .cmdAltSelect _ index => wfNat index
  | .cmdAltRevert _ => true
  | .cmdExpertChallenge _ block => wfNat block
  | .cmdExpertUnlock _ block seconds tag => wfNat block && wfNat seconds && wfBytes tag
  | .cmdExpertLock _ block => wfNat block
  | .expertExpiry block => wfNat block
  | .lockoutExpiry _ => true
  | .lockageBoundary => true
  | .holdDerateRepeat index => wfNat index
  | .routerSlot => true
  | .crcWindowClose _ _ => true
  | .bargeDelivery => true
  | .canalSlip _ _ _ => true
  | .cmdCanalStatus _ => true
  | .cmdCanalReadEntry _ program bank router slot => wfNat program && wfNat bank && wfNat router && wfNat slot
  | .cmdCanalSwitch _ program => wfNat program
  | .cmdCanalClearCounts _ => true
  | .canalSchedCtrlSwitch _ => true
  | .canalTblDataAccess _ => true
  | .lockArrival _ _ r => r.wf
  | .gateOpening _ => true
  | .pauseRepeat _ => true
  | .holdEnd chunk => wfNat chunk
  | .holdAllowanceExpiry index => wfNat index
  | .sluiceComplete index => wfNat index
  | .locksSluiceGo _ => true
  | .locksGateDataAccess _ => true
  | .cmdLockStatus _ lock => wfNat lock
  | .cmdLockSluice _ inst => wfNat inst
  | .cmdLockReadGate _ program bank lock slot => wfNat program && wfNat bank && wfNat lock && wfNat slot
  | .cmdWeightSet _ inst weight => wfNat inst && wfNat weight
  | .cmdDerateStatus _ => true
  | .nop _ => true
  | .halt _ => true
  | .xli _ => true
  | .xlih _ => true
  | .xadd _ => true
  | .xmul _ => true
  | .bnz _ => true
  | .bz _ => true
  | .blt _ => true
  | .waitslot _ => true
  | .waitslotRelease _ _ => true
  | .fence _ => true
  | .fenceRelease _ _ => true
  | .signal _ => true
  | .waitev _ => true
  | .waitevRelease _ _ => true
  | .mark _ => true
  | .mma _ => true
  | .mmax _ => true
  | .accrd _ => true
  | .accwr _ => true
  | .accx _ => true
  | .accz _ => true
  | .vld _ => true
  | .vst _ => true
  | .vadd _ => true
  | .vsub _ => true
  | .vmul _ => true
  | .vfma _ => true
  | .vmax _ => true
  | .vmin _ => true
  | .vrsqrt _ => true
  | .vexp _ => true
  | .vred _ => true
  | .viadd _ => true
  | .vlevel _ => true
  | .vfix _ => true
  | .vflt _ => true
  | .vthr _ => true
  | .vdigest _ => true
  | .vseed _ => true
  | .send _ => true
  | .recv _ => true
  | .mrd _ => true
  | .mwr _ => true
  | .spill _ => true
  | .fill _ => true
  | .undefinedStreamOp _ _ _ => true
  | .bargeInjection _ => true
  | .tileBargeReceive _ => true
  | .basinWindowAccess _ => true
  | .signatureCompare _ _ => true
  | .tileCheck _ _ _ => true
  | .tileStall _ _ => true
  | .spareStart _ => true
  | .cmdTileStatus _ tile => wfNat tile
  | .cmdTileRestart _ logical mask => wfNat logical && wfNat mask
  | .cmdTileReadOps _ logical first count => wfNat logical && wfNat first && wfNat count
  | .tilesStreamCtrlHalt _ _ => true
  | .tilesStreamCtrlRestart _ _ => true
  | .tilesOpstoreDataAccess _ _ => true
  | .cmdReduceStatus _ => true
  | .cmdReduceClear _ => true
  | .memCommand _ => true
  | .mergeRetire _ => true
  | .readDataSend _ => true
  | .hbmStackFail _ _ => true
  | .scrubSlot _ => true
  | .refreshSlot _ => true
  | .wharfPatrol _ => true
  | .wharfChannelFail _ => true
  | .hbmScrubCtrlGo _ _ => true
  | .hbmTestRawWrite _ _ => true
  | .hbmTestRawRead _ _ => true
  | .hbmTestDisable _ _ => true
  | .kvSweep reach => wfNat reach
  | .kvMove reach page => wfNat reach && wfNat page
  | .cmdHbmStatus _ ctl => wfNat ctl
  | .cmdHbmScrub _ ctl first end_ mode => wfNat ctl && wfNat first && wfNat end_ && wfNat mode
  | .cmdHbmCeLog _ ctl => wfNat ctl
  | .cmdHbmClear _ ctl => wfNat ctl
  | .cmdHbmCheckerTest _ ctl => wfNat ctl
  | .cmdWharfStatus _ ch => wfNat ch
  | .cmdKvReachCreate _ inst tokenSize r => wfNat inst && wfNat tokenSize && wfNat r
  | .cmdKvReachDestroy _ reach => wfNat reach
  | .cmdKvStatus _ reach => wfNat reach
  | .hostMemoryWrite _ _ off bytes _ _ _ => wfNat off && wfPayload bytes
  | .hostMemoryRead _ _ off length tag _ => wfNat off && wfReadLength length && wfTag tag
  | .hostReadCompletion _ => true
  | .configRequest _ r => r.wf
  | .completionReceived _ tag data _ => wfNat tag && wfBytes data
  | .hostCompletionTimeout _ tag => wfNat tag
  | .busMasterDisable _ => true
  | .busMasterEnable _ => true
  | .vfFlr _ => true
  | .vfFlrComplete _ => true
  | .pfFlr _ => true
  | .vfEnableClear _ => true
  | .vfEnableSet _ numVfs => wfNat numVfs
  | .hostLinkDown _ _ => true
  | .endpointPerst _ speed width => wfNat speed && wfNat width
  | .badDoorbellWrite _ index => wfNat index
  | .cmdInstanceCreate _ inst => wfNat inst
  | .cmdInstanceDestroy _ inst => wfNat inst
  | .cmdInstanceStatus _ inst => wfNat inst
  | .cmdWindowSet _ sel _ => sel.wf
  | .windowSetComplete index => wfNat index
  | .cmdWindowRead _ sel => sel.wf
  | .cmdHostStatus _ endpoint => wfNat endpoint
  | .hostepWinDataAccess _ => true
  | .portInboundRequest _ _ r => r.wf
  | .ptmRequest _ => true
  | .portLinkDown _ => true
  | .portErrMessage _ _ _ => true
  | .portCompletionTimeout _ tag => wfNat tag
  | .dmaDoorbellTail w => w.wf
  | .dmaChannelEnable w => w.wf
  | .dmaChannelDisable w => w.wf
  | .dmaDisableComplete _ => true
  | .dmaStopComplete _ => true
  | .dmaDescriptorStart _ _ => true
  | .dmaHalfRecord _ => true
  | .dmaFullRecord _ => true
  | .cmdPortStatus _ port => wfNat port
  | .cmdAccelWindowSet _ port entry _ => wfNat port && wfNat entry
  | .cmdAccelRangeSet _ port entry addr size inst => wfNat port && wfNat entry && wfNat addr && wfNat size && wfNat inst
  | .cmdAccelCfg _ port fn offset _ _ _ => wfNat port && wfNat fn && wfNat offset
  | .cmdDmaRingSet _ doorbell space base n completions => wfNat doorbell && wfNat space && wfNat base && wfNat n && wfNat completions
  | .cmdDmaStatus _ doorbell => wfNat doorbell
  | .frameReceive _ frame => wfBytes frame
  | .rxRecordWrite _ => true
  | .pauseReceive _ _ => true
  | .transmitOpportunity _ => true
  | .shaperRefill => true
  | .netSample _ => true
  | .commitComplete _ => true
  | .netLinkDown _ => true
  | .cmdNetPortStatus _ port => wfNat port
  | .cmdNetExtractSet _ half profile entry _ => wfNat half && wfNat profile && wfNat entry
  | .cmdNetRuleSet _ half index rule => wfNat half && wfNat index && wfBytes rule
  | .cmdNetIndirSet _ half table first _ => wfNat half && wfNat table && wfNat first
  | .cmdNetCommit _ half => wfNat half
  | .cmdNetQueueSet _ queue set => wfNat queue && set.wf
  | .cmdNetShaperSet _ node rate burst => node.wf && wfNat rate && wfNat burst
  | .cmdNetFlowfairSet _ port _ cap => wfNat port && cap.all (fun x => wfNat x.1 && wfNat x.2)
  | .cmdNetSampleSet _ port ring => wfNat port && ring.all (fun x => wfNat x.1 && wfNat x.2.1 && wfNat x.2.2)
  | .cmdNetQueueStatus _ queue => wfNat queue
  | .netengQueueShaperWrite _ => true
  | .netengFlowfairWrite _ => true
  | .transportWrite _ => true
  | .transportReadReq _ => true
  | .transportReadResp _ => true
  | .transportAck _ => true
  | .transportNak _ => true
  | .transportClose _ => true
  | .packetSend _ => true
  | .rtoExpiry _ => true
  | .ackTimer _ => true
  | .pageRetryResend _ => true
  | .stallFallback index => wfNat index
  | .txQueueDoorbell _ index _ => wfNat index
  | .wrWrite _ _ => true
  | .wrRead _ _ => true
  | .wrRawFrame _ _ => true
  | .wrAdd _ _ => true
  | .wrTow _ _ => true
  | .txCompletionRecord _ => true
  | .mooringDeregComplete mooring => wfNat mooring
  | .cmdConnSet _ conn inst settings => wfNat conn && wfNat inst && settings.wf
  | .cmdConnClose _ conn => wfNat conn
  | .cmdConnStatus _ conn => wfNat conn
  | .cmdTxQueueSet _ doorbell base n completions vector => wfNat doorbell && wfNat base && wfNat n && wfNat completions && wfNat vector
  | .cmdMooringReg _ m => m.wf
  | .cmdMooringDereg _ key => wfNat key
  | .cmdMooringPage _ key first count _ => wfNat key && wfNat first && wfNat count
  | .cmdCounterAlloc _ inst free => wfNat inst && wfOption free
  | .cmdCounterRead _ counter => wfNat counter
  | .transportConnTimerWrite _ => true
  | .heartbeatSend => true
  | .heartbeatReceive _ _ => true
  | .heartbeatMiss _ => true
  | .assemble _ _ hops => wfNat hops
  | .roster _ r hops => r.wf && wfNat hops
  | .detourNotice _ alternate lower lockage _ hops => wfNat alternate && wfNat lower && wfNat lockage && wfNat hops
  | .faultReport _ _ => true
  | .faultGatherExpiry _ => true
  | .coalesceEntryExpiry _ => true
  | .broadcast _ _ hops b => wfNat hops && b.wf
  | .linkTraining _ t => t.wf
  | .lockageZero => true
  | .bypassHoldLapse _ => true
  | .bypassSwitchClosed _ => true
  | .timeSourceLost => true
  | .ppsIn => true
  | .ppsOutput _ => true
  | .cmdRingStatus _ => true
  | .cmdRingLinkStatus _ link => wfNat link
  | .cmdRingBypass _ pair => wfNat pair
  | .cmdTimeStatus _ => true
  | .cmdTimeSet _ _ => true
  | .cmdPtpSet _ port role domain transport => wfNat port && wfNat role && wfNat domain && wfNat transport
  | .cmdPpsSet _ output mode => wfNat output && wfNat mode
  | .ringtimePpsCtrlWrite _ => true
  | .storageDoorbell _ index _ => wfNat index
  | .capsuleFetch _ _ => true
  | .capsuleRead id => wfNat id
  | .capsuleWrite id => wfNat id
  | .capsuleFlush id => wfNat id
  | .capsuleDeallocate id => wfNat id
  | .rangeLockGrant id => wfNat id
  | .transferReady _ id _ _ => wfNat id
  | .storageCompletion id => wfNat id
  | .destage id => wfNat id
  | .backendCompletion tag _ data => wfNat tag && wfBytes data
  | .backendTimeout _ _ => true
  | .remoteReconnectTimeout _ => true
  | .idleTimerExpiry _ => true
  | .cmdStorageQueueSet _ doorbell set => wfNat doorbell && set.wf
  | .cmdVolumeSet _ volume bind => wfNat volume && bind.all VolumeSet.wf
  | .cmdVolumeStatus _ volume => wfNat volume
  | .cmdStorageRemoteSet _ target settings => wfNat target && settings.wf
  | .cmdStorageIdleSet _ drive idle1 idle2 => wfNat drive && wfNat idle1 && wfNat idle2
  | .storageIdleCtrlWrite _ => true
  | .laneSeal _ _ j => j.wf
  | .laneOpen _ _ j tag => j.wf && wfBytes tag
  | .laneRawBlock _ _ _ blocks _ _ => wfBytes blocks
  | .sharedSeal _ => true
  | .sharedOpen _ => true
  | .sharedBlockEncrypt _ => true
  | .sharedBlockDecrypt _ => true
  | .sharedLockClaim _ => true
  | .sharedLockRelease _ => true
  | .secSharedPreempt => true
  | .entropyTestFail _ => true
  | .startupTestComplete _ => true
  | .entropyHoldExpiry => true
  | .drbgReseed => true
  | .generatorReseed _ => true
  | .cmdSecStatus _ => true
  | .cmdSecChallenge _ code => wfNat code
  | .cmdSecDebugSet _ level tag => wfNat level && wfBytes tag
  | .cmdSecLifecycle _ target tag => wfNat target && wfBytes tag
  | .cmdSecVersionCommit _ tag => wfBytes tag
  | .cmdKeyLoad _ target wrapping space address fetched => wfNat target && wfNat wrapping && wfNat space && wfNat address && wfBytes fetched
  | .cmdKeyErase _ slot tag => wfNat slot && wfBytes tag
  | .cmdKeyInfo _ slot => wfNat slot
  | .cmdRngRead _ length => wfNat length
  | .cmdSharedJob _ address => wfNat address
  | .watchdogExpiry _ => true
  | .coreRestartComplete _ => true
  | .ctrlCoreFail _ => true
  | .stewardshipClaim _ _ => true
  | .controlLinkHeartbeat _ => true
  | .ctrlLinkFail => true
  | .ledgerMount => true
  | .ledgerMountTimeout => true
  | .ledgerGarbageCollect _ => true
  | .towpathDatagram _ frame tag => wfBytes frame && wfBytes tag
  | .i3cPrivateWrite w => w.wf
  | .i3cPrivateRead off length => wfNat off && wfNat length
  | .uartCharacter _ => true
  | .cmdCtrlStatus _ => true
  | .cmdCoreStatus _ core => wfNat core
  | .cmdCoreRestart _ core => wfNat core
  | .controlCoreCtrlRestart _ => true
  | .cmdEventQueueSet _ base n headAddr vector => wfNat base && wfNat n && wfNat headAddr && wfNat vector
  | .cmdLedgerStatus _ => true
  | .cmdNorWrite _ image offset length space address fetched => wfNat image && wfNat offset && wfNat length && wfNat space && wfNat address && wfBytes fetched
  | .cmdUartSet _ baud => wfNat baud
  | .cmdCoreExtLoad _ space address length fetched => wfNat space && wfNat address && wfNat length && wfBytes fetched
  | .volilNop _ => true
  | .wait _ => true
  | .tret _ => true
  | .ret _ => true
  | .volilFence _ => true
  | .sys _ _ => true
  | .brk _ => true
  | .mov _ => true
  | .add _ => true
  | .adc _ => true
  | .sub _ => true
  | .sbc _ => true
  | .and _ => true
  | .or _ => true
  | .xor _ => true
  | .shl _ => true
  | .shr _ => true
  | .sar _ => true
  | .mul _ => true
  | .mulhu _ => true
  | .divu _ => true
  | .remu _ => true
  | .cmp _ => true
  | .movi _ => true
  | .addi _ => true
  | .adci _ => true
  | .subi _ => true
  | .sbci _ => true
  | .andi _ => true
  | .ori _ => true
  | .xori _ => true
  | .shli _ => true
  | .shri _ => true
  | .sari _ => true
  | .muli _ => true
  | .cmpi _ => true
  | .not _ => true
  | .neg _ => true
  | .tst _ => true
  | .mfc _ => true
  | .mtc _ => true
  | .callr _ => true
  | .jmpr _ => true
  | .sext _ => true
  | .bcc _ _ _ _ => true
  | .call _ _ => true
  | .ld _ => true
  | .lds _ => true
  | .st _ => true
  | .sti _ => true
  | .lea _ => true
  | .swap _ => true
  | .ext _ _ => true
  | .undefinedEncoding _ => true
  | .interruptTaken _ => true
  | .timecmpExpiry _ => true
  | .stepWord words => words.all StepWord.wf
  | .fillComplete chunk => wfNat chunk
  | .buddyDeltaSend => true
  | .buddyHeaderBarge chunk _ _ data _ => wfNat chunk && wfBytes data
  | .buddyEndBarge sent _ _ => wfNat sent
  | .ckptStripe => true
  | .ckptSeal => true
  | .cmdRelStatus _ => true
  | .cmdRelFaultStatus _ => true
  | .cmdCkptNow _ => true
  | .cmdRelRestore _ sets _ plan blocks => sets.all wfNat && plan.all RestoreEntry.wf && blocks.all VolumeBlock.wf
  | .cmdRelForce _ => true
  | .reliabilityNanLimitWrite _ => true
  | .reliabilityForceWrite _ => true
  | .sampleInstant => true
  | .observeMarkWrite _ => true
  | .observeTraceCtrlWrite _ => true
  | .observeSampleCtrlWrite _ => true
  | .cmdTraceSet _ mode sources => wfNat mode && wfNat sources
  | .cmdTraceStatus _ => true
  | .cmdSampleSet _ period clusters cores => wfNat period && wfNat clusters && wfNat cores
  | .cmdCountersRead _ _ unit => wfNat unit
  | .sensorReading r => r.wf
  | .demandUpdate => true
  | .trip _ index _ => wfNat index
  | .throttleIn _ => true
  | .powerEnable _ _ => true
  | .coldReset _ => true
  | .powerDisable => true
  | .p48Loss mv => wfNat mv
  | .warmResetPin _ ns => wfNat ns
  | .warmReset => true
  | .ringJoinFall => true
  | .ringJoinRise => true
  | .clockLoss _ _ => true
  | .powerclkCapWrite _ => true
  | .powerclkResetCtrlWarm _ => true
  | .cmdPowerStatus _ => true
  | .cmdPowerCapSet _ watts => wfNat watts
  | .cmdResetWarm _ => true
  | .cmdClockStatus _ domain => wfNat domain
  | .romSelfTest dimms rate => wfDimms dimms && decide (rate < 2 ^ 14)
  | .imageVerification => true
  | .firmwareStart code devices => wfCode code && devices.all PortDevice.wf
  | .defaultManifestLoad => true
  | .instanceDestroyComplete _ => true
  | .fetchFault _ => true
  | .unknownCommand _ => true
  | .ringtimeTimeNsRead _ _ => true
  | .jtagCoreDebug _ op => op.wf
  | .netLinkUp _ => true
  | .portLinkUp _ speed width => wfNat speed && wfNat width

end Sys2Proof
end

