-- ==== Sys2Proof/Tests/Slice0.lean ====
section
/-! SUPPORT. Tests: an ill-formed term for each check of well-formedness, the manual's worked examples, single steps, and for each
statement with hypotheses a state and operands that meet them together. -/

set_option linter.all false
set_option maxRecDepth 100000
set_option Elab.async false

namespace Sys2Proof.Tests

open Sys2Proof.Machine

/-- The device in full service, as reset leaves it otherwise. -/
def full : State := State.reset.withDev (State.reset.dev.modPower fun p => { p with state := .full })

/-- The same with a change to the device. -/
def at_ (f : Dev → Dev) : State := full.withDev (f full.dev)

/-- A command of PF 0. -/
def cmd : Cmd := { src := 0, seq := 7 }

/-- The same with a manifest in force. -/
def under (m : Manifest) (f : Dev → Dev) : State := at_ fun d => f (d.modManifest fun x => { x with active := some m })

/-! ### Well-formedness: an ill-formed term for each check -/

theorem test_wf_number : (Instr.cmdCanalSwitch cmd (2 ^ 64)).wf = false := by decide
theorem test_wf_number_ok : (Instr.cmdCanalSwitch cmd 7).wf = true := by decide
theorem test_wf_bytes (b : Bytes) (h : b.length = 2 ^ 25 + 1) : (Instr.fetch b).wf = false := by
  unfold Instr.wf wfBytes; exact decide_eq_false (by omega)
theorem test_wf_payload : (Instr.hostMemoryWrite ⟨0, 0⟩ .bar0 0 [] false false ⟨false, .plain⟩).wf = false := by decide
theorem test_wf_payload_ok : (Instr.hostMemoryWrite ⟨0, 0⟩ .bar0 0 [1#8] false false ⟨false, .plain⟩).wf = true := by decide
theorem test_wf_read_length : (Instr.hostMemoryRead ⟨0, 0⟩ .bar0 0 0 1 ⟨false, false, .plain⟩).wf = false := by decide
theorem test_wf_tag : (Instr.hostMemoryRead ⟨0, 0⟩ .bar0 0 8 (2 ^ 14) ⟨false, false, .plain⟩).wf = false := by decide
theorem test_wf_register_size : (Instr.registerWrite 0 8 3 0).wf = false := by decide
theorem test_wf_register_size_ok : (Instr.registerWrite 0 8 4 0).wf = true := by decide
theorem test_wf_lock_read : (Instr.lockArrival 32 0 (.read (2 ^ 64) 8 0)).wf = false := by decide
theorem test_wf_config_offset : (Instr.configRequest ⟨0, 0⟩ (.read 4096)).wf = false := by decide
theorem test_wf_port_read : (Instr.portInboundRequest 0 false (.read 0 4097 0)).wf = false := by decide
theorem test_wf_port_write : (Instr.portInboundRequest 0 false (.write 0 [] false false)).wf = false := by decide
theorem test_wf_doorbell : (Instr.dmaDoorbellTail (.doorbell 0 (2 ^ 64) 0)).wf = false := by decide
theorem test_wf_queue : (Instr.cmdNetQueueSet cmd 0 (.bind 0 (2 ^ 64) 0 0 0 0 0 0)).wf = false := by decide
theorem test_wf_node : (Instr.cmdNetShaperSet cmd (.inst 0 (2 ^ 64)) 0 0).wf = false := by decide
theorem test_wf_option : (Instr.cmdCounterAlloc cmd 0 (some (2 ^ 64))).wf = false := by decide
theorem test_wf_mooring : (Instr.cmdMooringReg cmd ⟨0, 0, 2 ^ 64, true, true, none, false, 0⟩).wf = false := by decide
theorem test_wf_storage_queue : (Instr.cmdStorageQueueSet cmd 0 (.bind 0 0 0 (2 ^ 64) 0)).wf = false := by decide
theorem test_wf_volume : (Instr.cmdVolumeSet cmd 0 (some ⟨0, 0, 0, 0, 2 ^ 64⟩)).wf = false := by decide
theorem test_wf_remote : (Instr.cmdStorageRemoteSet cmd 0 ⟨0, some (2 ^ 64), [], [], 0, 0, 0⟩).wf = false := by decide
theorem test_wf_broadcast : (Instr.broadcast 0 0 0 (.flip (2 ^ 64))).wf = false := by decide
theorem test_wf_roster : (Instr.roster 0 (.gather (List.replicate 257 0) []) 0).wf = false := by decide
theorem test_wf_column : (Instr.roster 0 (.column (2 ^ 64) []) 0).wf = false := by decide
theorem test_wf_training : (Instr.linkTraining 0 ⟨true, 2 ^ 64, 0, 0, 0, 0⟩).wf = false := by decide
theorem test_wf_seal_iv : (Instr.laneSeal 0 0 ⟨[], [], [], false, 0⟩).wf = false := by decide
theorem test_wf_i3c : (Instr.i3cPrivateWrite (.frame (2 ^ 64) [])).wf = false := by decide
theorem test_wf_reading : (Instr.sensorReading ⟨0, 0, [], [], 0, 0⟩).wf = false := by decide
theorem test_wf_window : (Instr.cmdWindowRead cmd (.vf 0 (2 ^ 64))).wf = false := by decide
theorem test_wf_step_word : (Instr.stepWord [⟨true, 0, 0, 2 ^ 64⟩]).wf = false := by decide
theorem test_wf_restore : (Instr.cmdRelRestore cmd [] 0 [⟨0, 2 ^ 64, 0, 0, 0⟩] []).wf = false := by decide
theorem test_wf_block : (Instr.cmdRelRestore cmd [] 0 [] [⟨0, 0, []⟩]).wf = false := by decide
theorem test_wf_debug : (Instr.jtagCoreDebug (.core 0) (.read (2 ^ 64) 0)).wf = false := by decide
theorem test_wf_dimms : (Instr.romSelfTest [] 0).wf = false := by decide
theorem test_wf_rate : (Instr.romSelfTest (List.replicate 12 (64, true)) (2 ^ 14)).wf = false := by decide
theorem test_wf_code : (Instr.firmwareStart [] []).wf = false := by decide
theorem test_wf_device : (Instr.firmwareStart (List.replicate 19 []) [⟨0, 0, [2 ^ 64], []⟩]).wf = false := by decide
theorem test_wf_namespace : (PortDevice.wf ⟨8, 0, [], [2 ^ 64]⟩) = false := by decide
theorem test_wf_conn : (Instr.cmdConnSet cmd 0 0 ⟨0, 0, 0, 0, 0, none, 0, 0, 0, 0, 2 ^ 64, none, none, none, none⟩).wf = false := by decide

/-! ### No word spells a command -/

theorem test_no_words : decodeTableWord 64 0x1234 = none := rfl

/-! ### Encodings inside the device: the manual's own examples -/

/-- Chapter 5, worked example: the first MMA is 0x0000_0105_0402_0210. -/
theorem test_mma_word :
    encodeOp 0x10 { tile := 0, stream := 0, fmt := 2, round := 0, dst := 2, s1 := 4, s2 := 5, imm := 1 } = 0x0000010504020210#64 := by
  decide
/-- Its round field of 3 is undefined (R112, R114). -/
theorem test_round_three_undefined : undefinedWord 0x0000010504023210#64 = true := by decide
theorem test_mma_defined : undefinedWord 0x0000010504020210#64 = false := by decide
/-- SIGNAL reads imm[4:0] alone (R114). -/
theorem test_signal_undefined : undefinedWord 0x000020000000000B#64 = true := by decide

/-- Chapter 17, worked example: the five instructions of the loop. -/
theorem test_volil_ld : decodeVolil 3 [0xE2#8, 0x70#8, 0x31#8, 0x99#8, 0x40#8] =
    .found (.mem .ld ⟨3, .s32, false, 3, 1, 9, true, false, 1, 0x40, 0⟩) 5 := by decide
theorem test_volil_add : decodeVolil 3 [0x11#8, 0x43#8] = .found (.alu .add ⟨3, .s64, 4, 3⟩) 2 := by decide
theorem test_volil_addi : decodeVolil 3 [0x21#8, 0x90#8, 0x01#8] = .found (.aluImm .add ⟨3, .s64, 9, 0, 1⟩) 3 := by decide
theorem test_volil_cmpi : decodeVolil 3 [0x2F#8, 0x90#8, 0x10#8] = .found (.aluImm .cmp ⟨3, .s64, 9, 0, 16⟩) 3 := by decide
theorem test_volil_branch : decodeVolil 3 [0x48#8, 0xF0#8, 0xFF#8] = .found (.bcc 8 false 0xFFF0) 3 := by decide
/-- SYNC STI with an 8-byte immediate and a 4-byte displacement takes 16 bytes (R375). -/
theorem test_volil_too_long : decodeVolil 3 [0xE5#8, 0x73#8, 0x01#8, 0x03#8, 0#8, 0#8, 0#8, 0#8, 0#8, 0#8, 0#8, 0#8, 0#8, 0#8, 0#8, 0#8] =
    .undefined := by decide
/-- A repeated prefix, two sizes and a reserved prefix are undefined (R372). -/
theorem test_volil_prefixes : decodeVolil 3 [0xE5#8, 0xE5#8] = .undefined ∧ decodeVolil 3 [0xE0#8, 0xE1#8] = .undefined ∧
    decodeVolil 3 [0xE3#8, 0x11#8, 0x43#8] = .undefined := by decide

/-! ### Arithmetic: the manual's own examples -/

/-- Chapter 6, GF(2^8): 0x57 · 0x13 is 0xE0. -/
theorem test_gf_product : gfMul 0x57#8 0x13#8 = 0xE0#8 := by decide
/-- Chapter 6, conversion examples: 0.3 to E4M3 in the three modes. -/
theorem test_narrow_03 : narrow 2 0 0 0x3E99999A#32 = 0x2A ∧ narrow 2 1 0 0x3E99999A#32 = 0x29 ∧
    narrow 2 2 0x4C1E0000#32 0x3E99999A#32 = 0x2A ∧ narrow 2 2 0xA0000000#32 0x3E99999A#32 = 0x29 := by decide +kernel
/-- 500.0 saturates in E4M3, carries in E5M2 under round 0, saturates in FP4. -/
theorem test_narrow_500 : narrow 2 0 0 0x43FA0000#32 = 0x7E ∧ narrow 3 0 0 0x43FA0000#32 = 0x60 ∧
    narrow 3 1 0 0x43FA0000#32 = 0x5F ∧ narrow 4 0 0 0x43FA0000#32 = 0x7 := by decide +kernel
/-- Chapter 6, one cancellation: exact mode reads 2.0. -/
theorem test_exact_cancellation :
    (([0x4B800000#32, 0x3F800000#32, 0x3F800000#32, 0xCB800000#32].foldl (fun el w => Long.add el (ofLane w)) 0).read 0 0) = 0x40000000#32 := by
  decide +kernel
/-- Chapter 7, twelve contributions: −1.25, 2^-18 and 3 × 2^-19 at level 64 and headroom 12. -/
theorem test_fix_contributions : laneFix 0xBFA00000#32 64 12 = BitVec.ofInt 32 (-163840) ∧ laneFix 0x36800000#32 64 12 = 0#32 ∧
    laneFix 0x36C00000#32 64 12 = 1#32 := by decide +kernel
/-- Their total 172,033 is FP32 172,033 × 2^-17 = 0x3FA8_0040. -/
theorem test_flt_total : laneFlt 172033#32 64 12 0 0 = 0x3FA80040#32 := by decide +kernel
/-- R180: the syndromes of the example correct symbol 9 with pattern 4. -/
theorem test_ecc_example : classify [0x04#8, 0xE8#8, 0xB4#8, 0x30#8] = .corrected 9 0x04#8 := by decide +kernel
/-- A stored line is clean, a poisoned one is poison (R178, R179). -/
theorem test_ecc_clean : classify (syndromes (checkBytes (List.replicate 64 0x5A#8)) (List.replicate 64 0x5A#8)) = .clean := by decide +kernel
theorem test_ecc_poison : classify (syndromes (poisonCheck (List.replicate 64 0x5A#8)) (List.replicate 64 0x5A#8)) = .poisoned := by
  decide +kernel
/-- R74: f = 100 gives f_c = 300 and two dwell lockages. -/
theorem test_stretch : stretchOf 100 = (300, 2) := by decide

/-! ### Single steps -/

/-- Chapter 20, a cap below the load: 885 after the first update at 3,700 W under a cap of 3,200 W, 868 at 3,260 W after it. -/
theorem test_power_cap_demand :
    (updateDemands (at_ fun d => d.modPower fun p => { p with capW := 3200, inputW := 3700 }).dev).demCap = 885 ∧
    (updateDemands (at_ fun d => d.modPower fun p => { p with capW := 3200, inputW := 3260, demCap := 885 }).dev).demCap = 868 := by
  decide +kernel
/-- Chapter 1: a coolant inlet 3 °C above the limit of 40 °C demands 832. -/
theorem test_coolant_demand :
    (updateDemands (at_ fun d => d.modPower fun p => { p with coolant := 344 }).dev).demCoolant = 832 := by decide +kernel
/-- IDENT_CAPACITY and the reset value of POWERCLK_CAP as their registers' tables give them. -/
theorem test_reset_registers : regWord Vault.reset State.reset.dev ⟨0, 0, 0x10⟩ = 0x0C0408100210#64 ∧
    regWord Vault.reset State.reset.dev ⟨18, 0, 0x20⟩ = 0x200000FA0#64 := by decide +kernel
/-- An idle block only lets time pass (log entry 99). -/
theorem test_idle : ∃ t, step State.reset = .next t ∧ t.pending = [] ∧ t.dev.power = State.reset.dev.power := ⟨_, rfl, rfl, rfl⟩
/-- The front command leaves the queue. -/
theorem test_front : ∃ t, step { State.reset with pending := [.ledgerMountTimeout, .routerSlot] } = .next t ∧ t.pending = [.routerSlot] :=
  ⟨_, rfl, rfl⟩

/-! ### Witnesses: for each statement a state and operands that meet its hypotheses -/

/-! Some conjuncts by one proof, the rest by another. -/

theorem and2 {a b q : Prop} (w : a ∧ b) (hq : q) : a ∧ b ∧ q :=
  ⟨w.1, w.2, hq⟩
theorem and3 {a b c q : Prop} (w : a ∧ b ∧ c) (hq : q) : a ∧ b ∧ c ∧ q :=
  ⟨w.1, w.2.1, w.2.2, hq⟩
theorem and4 {a b c d q : Prop} (w : a ∧ b ∧ c ∧ d) (hq : q) : a ∧ b ∧ c ∧ d ∧ q :=
  ⟨w.1, w.2.1, w.2.2.1, w.2.2.2, hq⟩
theorem and5 {a b c d e q : Prop} (w : a ∧ b ∧ c ∧ d ∧ e) (hq : q) : a ∧ b ∧ c ∧ d ∧ e ∧ q :=
  ⟨w.1, w.2.1, w.2.2.1, w.2.2.2.1, w.2.2.2.2, hq⟩
theorem and6 {a b c d e f q : Prop} (w : a ∧ b ∧ c ∧ d ∧ e ∧ f) (hq : q) : a ∧ b ∧ c ∧ d ∧ e ∧ f ∧ q :=
  ⟨w.1, w.2.1, w.2.2.1, w.2.2.2.1, w.2.2.2.2.1, w.2.2.2.2.2, hq⟩
theorem and7 {a b c d e f g q : Prop} (w : a ∧ b ∧ c ∧ d ∧ e ∧ f ∧ g) (hq : q) : a ∧ b ∧ c ∧ d ∧ e ∧ f ∧ g ∧ q :=
  ⟨w.1, w.2.1, w.2.2.1, w.2.2.2.1, w.2.2.2.2.1, w.2.2.2.2.2.1, w.2.2.2.2.2.2, hq⟩
theorem and8 {a b c d e f g h q : Prop} (w : a ∧ b ∧ c ∧ d ∧ e ∧ f ∧ g ∧ h) (hq : q) : a ∧ b ∧ c ∧ d ∧ e ∧ f ∧ g ∧ h ∧ q :=
  ⟨w.1, w.2.1, w.2.2.1, w.2.2.2.1, w.2.2.2.2.1, w.2.2.2.2.2.1, w.2.2.2.2.2.2.1, w.2.2.2.2.2.2.2, hq⟩
theorem and9 {a b c d e f g h i q : Prop} (w : a ∧ b ∧ c ∧ d ∧ e ∧ f ∧ g ∧ h ∧ i) (hq : q) : a ∧ b ∧ c ∧ d ∧ e ∧ f ∧ g ∧ h ∧ i ∧ q :=
  ⟨w.1, w.2.1, w.2.2.1, w.2.2.2.1, w.2.2.2.2.1, w.2.2.2.2.2.1, w.2.2.2.2.2.2.1, w.2.2.2.2.2.2.2.1, w.2.2.2.2.2.2.2.2, hq⟩


def barge1 : Barge := { kind := 1, last := true, route := 5 }
def deliv : Delivery := { router := 0, port := 3, slot := 3, barge := barge1 }
def mapOne : Manifest := { groupSize := 1, programs := [[{ router := 0, slot := 2, output := 3, source := 4, route := 5 }]] }

def ready8 : Manifest := { groupSize := 1, programs := [[{ router := 4, slot := 0, output := 64, source := 3, route := 5 }]], plan := [(0, 2), (1024, 1)] }
def unit0 : Held := { route := 5, barges := [barge1] }
/-- One wharf channel of 1 GiB, and key/value regions in it. -/
def paged : Manifest := { groupSize := 1, regions := [{ kind := 4, base := 0x010000000000, size := 65536 },
  { kind := 5, base := 0x010010000000, size := 1048576 }, { kind := 6, base := 0x010020000000, size := 1048576 }] }
def wharf0 (d : Dev) : Dev := d.modWharfCh 0 fun c => { c with state := 2, capacity := 1 }
def reach0 : Reach := { tokenSize := 64, r := 2, releaseLines := 1024, pages := [(3, (1, 2))], leaves := [(0, 65536)] }
def inWharf (d : Dev) : Dev := wharf0 { d with mem := [(0x010000000408, 0xFF), (0x010000000409, 0xFF), (0x01000000040A, 0xFF), (0x01000000040B, 0xFF)] }

/-- A reach with a released page whose home is in KV_POOL, above the weirs. -/
def moving : State := under paged fun d => (d.modKv fun k => { k with reaches := [(0, reach0)], draining := true, released := [(0, 3)], poolUsed := [2] })
/-- A raw copy between unmapped spans changes nothing. -/
theorem rawCopy_unmapped (src dst n : Nat) (d : Dev)
    (h : (linePieces n dst n).all (fun p => place d (src + (p.1 - dst)) == .unmapped && place d p.1 == .unmapped) = true) : rawCopy src dst n d = d := by
  unfold rawCopy
  generalize linePieces n dst n = l at h ⊢
  induction l with
  | nil => rfl
  | cons p l ih =>
    simp only [List.all_cons, Bool.and_eq_true, beq_iff_eq] at h
    simp only [List.foldl_cons, readPiece, writePiece, h.1.1, h.1.2]
    exact ih h.2
/-- The same with the move to KV_WHARF decided, and its copy done. -/
def moved : State := under paged fun d => d.modKv fun k =>
  { k with reaches := [(0, { reach0 with pages := [(3, (3, 2))] })], draining := true, moving := some (0, 3, 0), poolUsed := [2], wharfUsed := [0] }
def movedReach : Reach := { reach0 with pages := [(3, (3, 2))] }
def movedEnd : Dev := (setPage 0 3 (2, 0) (moved.dev.modKv fun k => { k with moving := none })).getD {}
theorem moved_copied : setPage 0 3 (2, 0) ((rawCopy (homeAddr moved.dev (1, (tget (0, 0) movedReach.pages 3).2)) (homeAddr moved.dev (2, 0)) 65536
    moved.dev).modKv fun k => { k with moving := none }) = some movedEnd := by
  rw [rawCopy_unmapped _ _ _ _ (by decide +kernel)]
  have h : (setPage 0 3 (2, 0) (moved.dev.modKv fun k => { k with moving := none })).isSome = true := by decide +kernel
  unfold movedEnd
  cases hs : setPage 0 3 (2, 0) (moved.dev.modKv fun k => { k with moving := none }) with
  | none => rw [hs] at h; cases h
  | some x => rfl

def alt0 : Alternate := { base := 0 }
def group2 : Manifest := { groupSize := 2 }
def stage (n : Nat) (f : ManifestSt → ManifestSt) : State := at_ fun d => d.modManifest fun m => f { m with stage := n }
/-- A delta of one chunk to the buddy, and its route. -/
def buddy : Manifest := { groupSize := 1, programs := [[{ router := 0, slot := 0, output := 4, source := 3, route := 9 }]], thr := { buddyOut := 9, masters := [{ base := 0, twin := 2 ^ 20, size := 65536 }] }, regions := [{ kind := 1, base := 2 ^ 30, size := 131072 }] }

/-- A member under rollback restore whose one shard volume, 5, holds the seal of step 7. -/
def restoring : State := under { thr := { ckptK := 1 } } fun d => (d.modManifest fun m => { m with stage := 6, workHeld := true }).modRel fun r =>
  { r with ckptStep := 7 }
def sealed : List VolumeBlock := [⟨5, 0, sealOf restoring.dev 0⟩]
theorem fit_length (n : Nat) (bs : Bytes) : (fit n bs).length = n := by
  simp only [fit, slice, List.drop_zero, List.length_append, List.length_replicate]
  have : (bs.take n).length ≤ n := List.length_take_le n bs
  omega
theorem fit_self (n : Nat) (bs : Bytes) (h : bs.length = n) : fit n bs = bs := by
  subst h; simp [fit, slice]
theorem leBytes_length (n v : Nat) : (leBytes n v).length = n := by
  induction n generalizing v with
  | zero => rfl
  | succ n ih => simp [leBytes, ih]
theorem leNat_leBytes (n v : Nat) : leNat (leBytes n v) = v % 256 ^ n := by
  induction n generalizing v with
  | zero => simp [leBytes, leNat, Nat.mod_one]
  | succ n ih =>
    rw [leBytes, leNat, ih, BitVec.toNat_ofNat, Nat.pow_succ 256 n, Nat.mul_comm (256 ^ n) 256, Nat.mod_mul]
theorem seal_crc (x : Bytes) :
    ((crc32 ((fit 4096 (sealBlock x)).take 4092)).toNat == Sys2Proof.Machine.fieldLe (fit 4096 (sealBlock x)) 4092 4) = true := by
  have hl : (sealBlock x).length = 4096 := by simp [sealBlock, fit_length, leBytes_length]
  rw [fit_self _ _ hl]
  have h1 : (sealBlock x).take 4092 = fit 4092 x := by
    simp only [sealBlock]; rw [List.take_append_of_le_length (by rw [fit_length]), List.take_of_length_le (by rw [fit_length])]
  have h2 : slice (sealBlock x) 4092 4 = leBytes 4 (crc32 (fit 4092 x)).toNat := by
    have : (sealBlock x).drop 4092 = leBytes 4 (crc32 (fit 4092 x)).toNat := by
      simp only [sealBlock]; rw [List.drop_append_of_le_length (by rw [fit_length]), List.drop_of_length_le (by rw [fit_length])]; rfl
    simp [slice, this, List.take_of_length_le, leBytes_length]
  rw [h1, Sys2Proof.Machine.fieldLe, h2, leNat_leBytes, Nat.mod_eq_of_lt (by have := (crc32 (fit 4092 x)).isLt; simpa using this)]
  exact beq_self_eq_true _
theorem seal_good : blockGood 0x4C535154 (fit 4096 (sealOf restoring.dev 0)) = true := by
  unfold blockGood
  rw [Bool.and_eq_true]
  exact ⟨by decide +kernel, seal_crc _⟩
theorem seal_at (v lba : Nat) : sealAt sealed v lba = if 5 = v ∧ 0 = lba then some (fit 4096 (sealOf restoring.dev 0)) else none := by
  unfold sealAt blockOf sealed
  by_cases h : 5 = v ∧ 0 = lba
  · obtain ⟨rfl, rfl⟩ := h
    simp [seal_good]
  · have : ((5 : Nat) == v && (0 : Nat) == lba) = false := by simpa [Bool.and_eq_false_iff] using h
    simp [this, h]
theorem restore_found : restoreStep restoring.dev sealed [5] (0 : Word).toNat = some 7 := by
  simp only [restoreStep, sealFor, seals, seal_at]
  decide +kernel

def upLink (f : RingLink → RingLink) : State := at_ fun d => (d.modLink 0 fun l => f { l with state := 2 }).modRing fun r => { r with root := true }
def opened (f : Ring → Ring) : State := at_ fun d => d.modRing fun r => f { r with pairs := [(0, { open_ := true })] }
def detour : Manifest := { alternates := [{ kind := 1 }] }
def cell0 : FaultCell := ⟨1, 0x802, true, 3, 0, 0, 0, 0, 0, 0⟩
def coal0 : CoalEntry := { identity := 1, count := 1 }
/-- A window of 4 KiB, readable and writable, of PF 0, to device address 0x20000. -/
def win0 : Window := BitVec.ofNat 256 (0x20000 * 2 ^ 64 + 12 * 2 ^ 128 + 7 * 2 ^ 136)
/-- Root port 0 up with that window, HBM behind it, and lock 34 with a route to it. -/
def portUp : State := at_ fun d => ((d.modPort 0 fun x => { x with up := true, busMaster := true, windows := [(0, win0)] }).modCtl 0 fun c =>
  { c with logical := some 0 }).modLock 34 fun k => { k with size := 1, described := true, routeMap := [(0, 7)] }
/-- Channel 0, whose function masters the bus. -/
def dma (f : DmaCh → DmaCh) : State := at_ fun d => (d.modDma 0 f).modInst 0 fun x => { x with bme := true }
def work0 : DmaWork := { length := 64, irqHalf := true, irqFull := true, written := 32 }
def work1 : DmaWork := { length := 64, irqFull := true, written := 64 }
/-- A descriptor of 64 bytes in host space 1 to host space 1. -/
def desc0 : Bytes := leBytes 8 0 ++ leBytes 8 0x1000 ++ leBytes 4 64 ++ [1, 1]

/-- An op of tile 527's stream 3. -/
def opOf (fmt : Nat) : StreamOp := { tile := 527, stream := 3, fmt := BitVec.ofNat 4 fmt, round := 0, dst := 0, s1 := 0, s2 := 2, imm := 0 }
/-- The op words of tile 527 hold an op, with x2 = 256, and its stream 3 runs; HBM controller 0 serves the first 64 GiB. -/
def running (opc : Nat) (o : StreamOp) (x2 : W32) : State := at_ fun d => (((d.modCanal fun c => { c with aligned := true }).modTile 527 fun t =>
  { t with logical := some 5, ops := [(0, encodeOp opc o)], streams := [(3, { state := 1, x := [(2, x2)] })], spillSize := 1 }).modCtl 0 fun c =>
  { c with logical := some 0 })
def none2 : StreamOp := { opOf 0 with s2 := 0 }

/-- Lane 47 works for sealer 2 in a mode. -/
def laneState (mode : Nat) : State := at_ fun d => d.modLane 47 fun l => { l with mode := mode, user := 2, keySlot := 17 }
def seal0 : SealJob := { iv := [1], aad := [], text := [], parity := false, operation := 5 }
theorem fit_of_length (n : Nat) (b : Bytes) (h : b.length = n) : fit n b = b := by subst h; simp [fit, slice]
/-- A tag that opens a text, and one that does not. -/
theorem tag_opens (k iv aad t : Bytes) (h : (gcmTag k iv aad t).length = 16) :
    gcmOpen k iv aad t (fit 16 (gcmTag k iv aad t)) = some (gcmCtr k iv t) := by simp [gcmOpen, fit_of_length, h]
theorem tag_refused (k iv aad t : Bytes) : ∃ g : Bytes, gcmOpen k iv aad t (fit 16 g) = none := by
  by_cases h : gcmTag k iv aad t = List.replicate 16 0
  · exact ⟨List.replicate 16 1, by rw [gcmOpen, h]; exact if_neg (by decide)⟩
  · exact ⟨List.replicate 16 0, by rw [gcmOpen, show fit 16 (List.replicate 16 (0 : Byte)) = List.replicate 16 0 from by decide]; exact if_neg h⟩
/-- HBM controller 0 serves the first 64 GiB, slot 16 holds a sealer key; PF 0 runs a shared job at address 0x8000000. -/
def jobState : State := { (at_ fun d => ((d.modCtl 0 fun c => { c with logical := some 0 }).modLock secLock fun k => { k with size := 1024 }).modSec fun x =>
    { x with jobGo := true, owner := 1, jobAddr := 0x8000000 }) with
  vault := { keys := [(16, { key := 9, use := 4, inst := 0xFFFF })], lifecycle := 2 } }

def jobStateAt (op : Byte) : State := { jobState with dev := { jobState.dev with mem := [(0x8000000, op), (0x8000002, 16)] } }
/-- PF 0 owns the device with key 3 in slot 16, has a challenge outstanding for a command and runs under a manifest that names the slot. -/
def ownedDev (code : Nat) : State := { (under { keySlot := 16, deviceId := 77 } fun d => { d.modExpert (fun e =>
  { e with secChallenges := [(code, { nonce := 5, counter := 9 })], challenges := [(18, { nonce := 6, counter := 10 })] }) with uptime := 7 }) with
  vault := { lifecycle := 2, debug := 2, keys := [(16, { key := 3, use := 2, inst := 0xFFFF }), (17, { key := 4, use := 3, inst := 0xFFFF })] } }
/-- A tag computed under the key that the authorisation names is good (R336). -/
theorem tag_good (v : Vault) (d : Dev) (ch : Option Challenge) (c : Challenge) (k : Nat) (aad : Challenge → Bytes) (tag : Bytes)
    (hc : ch = some c) (hk : authSlot v d = some k) (ht : d.uptime ≤ c.issued + 10000000000) (hu : (tget {} v.keys k).use ≠ 0)
    (hg : gcmTag (keyBytes (tget {} v.keys k).key) (leBytes 12 c.nonce.toNat) (aad c) [] = tag) (hl : tag.length = 16) :
    tagGood v d ch aad tag = true := by
  subst hc
  simp only [tagGood, hk, hg, fit_of_length _ _ hl, ht, hu, ne_eq, not_false_eq_true, decide_true, Bool.and_self]
theorem authorise_good (v : Vault) (d : Dev) (code param : Nat) (c : Challenge) (k : Nat) (tag : Bytes) (hlk : d.expert.secLockedUntil = none)
    (hc : tfind d.expert.secChallenges code = some c) (hk : authSlot v d = some k) (ht : d.uptime ≤ c.issued + 10000000000)
    (hu : (tget {} v.keys k).use ≠ 0) (hg : gcmTag (keyBytes (tget {} v.keys k).key) (leBytes 12 c.nonce.toNat)
      (leBytes 2 code ++ leBytes 4 param ++ leBytes 4 d.deviceId ++ leBytes 8 c.counter.toNat) [] = tag) (hl : tag.length = 16) :
    authorise v code param tag d = (none, (authorise v code param tag d).2) := by
  have h := tag_good v d _ c k (fun c => leBytes 2 code ++ leBytes 4 param ++ leBytes 4 d.deviceId ++ leBytes 8 c.counter.toNat) tag hc hk ht hu hg hl
  refine Prod.ext ?_ rfl
  simp only [authorise, h, hlk, Bool.false_eq_true, if_false, if_true]
theorem unlock_good (v : Vault) (d : Dev) (block seconds : Nat) (c : Challenge) (k : Nat) (tag : Bytes) (hlk : unlockLockedOut d = false)
    (hc : tfind d.expert.challenges block = some c) (hk : authSlot v d = some k) (ht : d.uptime ≤ c.issued + 10000000000)
    (hu : (tget {} v.keys k).use ≠ 0) (hg : gcmTag (keyBytes (tget {} v.keys k).key) (leBytes 12 c.nonce.toNat)
      (leBytes 1 block ++ leBytes 4 seconds ++ leBytes 4 d.deviceId ++ leBytes 8 c.counter.toNat) [] = tag) (hl : tag.length = 16) :
    authoriseUnlock v block seconds tag d = (none, (authoriseUnlock v block seconds tag d).2) := by
  have h := tag_good v d _ c k (fun c => leBytes 1 block ++ leBytes 4 seconds ++ leBytes 4 d.deviceId ++ leBytes 8 c.counter.toNat) tag hc hk ht hu hg hl
  refine Prod.ext ?_ rfl
  simp only [authoriseUnlock, h, hlk, Bool.false_eq_true, if_false, if_true]

/-- A wrapped key for slot 255 under slot 17: its head, and its tag. -/
def wrapHead : Bytes := leBytes 8 99 ++ [2] ++ [0] ++ leBytes 2 0xFFFF ++ List.replicate 52 0
def wrapTag : Bytes := gcmTag (keyBytes (4#256)) (slice wrapHead 16 12) (slice wrapHead 0 16 ++ leBytes 2 255) (slice wrapHead 32 32)
theorem key_unwraps : ∃ k, unwrapKey (ownedDev 0).vault (ownedDev 0).dev 255 17 (fit 80 (wrapHead ++ wrapTag)) = .inr k := by
  have hl : wrapTag.length = 16 := by decide +kernel
  have hh : wrapHead.length = 64 := by decide +kernel
  rw [fit_of_length 80 _ (by rw [List.length_append, hl, hh])]
  have h1 : slice (wrapHead ++ wrapTag) 64 16 = wrapTag := by
    rw [slice, ← hh, List.drop_left, List.take_of_length_le (by omega)]; simp [hl]
  have h2 : slice (wrapHead ++ wrapTag) 16 12 = slice wrapHead 16 12 := by decide +kernel
  have h3 : slice (wrapHead ++ wrapTag) 0 16 = slice wrapHead 0 16 := by decide +kernel
  have h4 : slice (wrapHead ++ wrapTag) 32 32 = slice wrapHead 32 32 := by decide +kernel
  have hg : gcmOpen (keyBytes (tget {} (ownedDev 0).vault.keys 17).key) (slice wrapHead 16 12) (slice wrapHead 0 16 ++ leBytes 2 255)
      (slice wrapHead 32 32) wrapTag = some (gcmCtr (keyBytes (tget {} (ownedDev 0).vault.keys 17).key) (slice wrapHead 16 12) (slice wrapHead 32 32)) :=
    if_pos rfl
  simp only [unwrapKey, h1, h2, h3, h4, hg]
  rw [if_neg (by decide +kernel), if_neg (by decide +kernel), if_neg (by decide +kernel), if_neg (by decide +kernel)]
  exact ⟨_, rfl⟩

def sharedFs : State := at_ fun d => { d with mem := [(0x8000000, 1), (0x8000002, 16)] }.modCtl 0 fun c => { c with logical := some 0 }

def netIs (f : Dev → Dev) : State := at_ fun d => f (({ d with uptime := 3000000 }.modNetPort 7 fun x => { x with up := true }).modInst 0 fun x =>
  { x with state := 2, egress := [16383], tx := [8191], desc := some { connections := 4, moorings := 4 } })
/-- A frame of 64 bytes with its FCS. -/
def frame64 : Bytes := List.replicate 60 0 ++ leBytes 4 (crc32 (List.replicate 60 0)).toNat
/-- A rule for every frame, of a kind that names queue 16383 where it names one. -/
def ruleKinded (k : Byte) : Bytes := List.replicate 128 0 ++ [k, 0, 0, 0, 0xFF, 0x3F] ++ List.replicate 26 0
def ruleTo : Bytes := ruleKinded 1
def ruledBy (k : Byte) : State := netIs fun d => d.modHalf 1 fun h => { h with active := { rules := [(4099, ruleKinded k)] } }
def ruled : State := ruledBy 1
def queueIs (x : NetQueue) : State := netIs fun d => d.modQueue 16383 fun _ => x

def rxWaits : State :=
  let s := queueIs { bound := true, rx := [{ id := 4 }], vector := 0xFFFF, n := 6 }
  s.withDev (s.dev.modLocks fun k => { k with delivered := [(4, 1)] })
def sending : State := queueIs { bound := true, inst := 0, port := 7, frames := [{ bytes := List.replicate 60 0 }], weight := 1 }

/-- Connection 9 with peer 3, epoch 2, and a packet of an opcode that has come in for half 1. -/
def conn9 : Conn := { state := 1, peer := 3, epoch := 2, port := 7, mtu := 1024 }
def inFrame (opcode : Nat) (body : Bytes) : Bytes :=
  List.replicate 12 0 ++ (wireFrame 3 { conn9 with peer := 9 } (baseHeader 3 { conn9 with peer := 9 } opcode 0 0 ++ body)).drop 12
def inTp (opcode : Nat) (body : Bytes) : State := at_ fun d => d.modTp fun t => { t with conns := [(9, conn9)], inbox := [(1, inFrame opcode body)] }
def connIs (x : Conn) (f : Transport → Transport) : State := at_ fun d =>
  ({ d with uptime := 3000000 }.modTime fun t => { t with ns := 3000000 }).modTp fun t => f { t with conns := [(65535, x)] }

def connSet : ConnSet := { port := 7, egress := 16383, localIp := 1, peerIp := 2, nextHop := 3, vlan := some 4, tclass := 5, flow := 6, peer := 7, epoch := 8,
                             mtu := 8192, lane := none, rtoMin := some 1000, retryLimit := some 15, reorder := some 64 }
def mooringSet : MooringSet := { inst := 0, base := 0x80000000, size := 4096, read := true, write := true, counter := none, paged := true, mode := 1 }
def boundQ : State := netIs fun d => (d.modQueue 16383 fun _ => { bound := true, inst := 0, port := 7 }).modCtl 0 fun c => { c with logical := some 0 }
def moored (inst : Nat) : State := netIs fun d => d.modMooring 5 fun _ => { tag := 9, registered := true, inst := inst, size := 4096, paged := true }

/-- Storage queue 8191 of instance 0 as given, among a storage service as given. -/
def storIs (x : StorQ) (f : Storage → Storage) : State := at_ fun d => ((({ d with uptime := 3000000000 }.modStorage fun t =>
  f { t with queues := [(8191, x)] }).modInst 0 fun i => { i with storage := [8191], bme := true, state := 2 }).modLock (storLock 0) fun k =>
  { k with size := 1024 }).modLock (storLock 1) fun k => { k with size := 1024 }
def storOne (x : StorCmd) : State := storIs { state := 1, n := 4, space := 1, vector := 0xFFFF } fun t => { t with cmds := [x] }
def cmd5 : StorCmd := { id := 5, queue := 8191, opcode := 1, blocks := 1 }

theorem memRead_parts (x : (Bytes × Bool) × Dev) (h : x.1.2 = false) : x = ((x.1.1, false), x.2) := by
  obtain ⟨⟨a, b⟩, c⟩ := x; exact h ▸ rfl
def destaging : State := at_ fun d => (d.modStorage fun t => { t with buffer := [{ id := 5, blocks := 1, addr := basinBase }] }).modTile 527 fun t => { t with logical := some 0 }

/-- Endpoint 1 up, PF 1 and its VF (instance 500) enabled. -/
def hostUp : State := at_ fun d => (((({ d with uptime := 60000000 }.modEp 1 fun e => { e with up := true }).modInst 1 fun i =>
  { i with mse := true, bme := true, state := 2 }).modInst 500 fun i => { i with state := 2, homePf := 1 }).modCtl 0 fun c => { c with logical := some 0 })
def pf1 : HostFn := { ep := 1, vf := 0 }

def returning (n : Nat) : State := at_ fun d => (d.modHost fun h => { h with reads := [{ port := 0, route := 7, length := n }] }).modCanal fun c =>
  { c with inbox := [(unitKey (lockRouter 32) 32, [{ barge := { kind := 1, route := 7, fill := 63, body := List.replicate 256 1 } }])] }

/-- What a register write takes. -/
def takenAt (p : RegPlace) (w : RegW) (s : State) : Taken := ((regRow p).map fun row =>
  takeWrite p.block (rowNow s.dev p row) (blockLocked s.dev p.block) .both w.value.toNat (storedOrShown s.vault s.dev p)).getD { word := 0 }
/-- Every block is unlocked. -/
def free (f : Dev → Dev) : State := at_ fun d => f ({ d with uptime := 60000000 }.modExpert fun e => { e with unlocked := List.range 19 })
def put (v : Word) : RegW := { req := 20, half := .both, value := v }

/-- The device at a boot stage, in reduced service. -/
def booting (n : Nat) (f : Dev → Dev) : State := State.reset.withDev (f ((State.reset.dev.modPower fun p => { p with state := .reduced }).modBoot fun b =>
  { b with stage := n }))
/-- Image A of 1 code byte, with the tag T. -/
def imageNor (T : Bytes) : Tab Byte := [(0, 0x54), (1, 0x51), (2, 0x42), (3, 0x49), (4, 1), (8, 7), (12, 1)] ++
  (List.range 16).map (fun i => (32 + i, T.getD i 0)) ++ [(64, 0xC0)]
def imageDev (T : Bytes) : Dev := (booting 2 fun d => d.modBoot fun b => { b with nor := imageNor T }).dev
def imageVault : Vault := { keys := [(0, { key := 5, use := 1 })] }
def imageAad : Bytes := [0x54, 0x51, 0x42, 0x49, 1, 0, 0, 0, 7, 0, 0, 0, 1, 0, 0, 0] ++ List.replicate 16 0 ++ [0xC0]
def imageTag : Bytes := gcmTag (keyBytes 5) (List.replicate 8 0 ++ [0, 0, 0, 2]) imageAad []
theorem sixteen (t : Bytes) (h : t.length = 16) : (List.range 16).map (fun i => t.getD i 0) = t := by
  match t, h with
  | [a, b, c, d, e, f, g, h, i, j, k, l, m, n, o, p], _ => rfl
theorem imageDev_tag (T : Bytes) : slice (norRead (imageDev T) 0 0 64) 32 16 = (List.range 16).map fun i => T.getD i 0 := rfl
theorem image_good : imageFault imageVault (imageDev imageTag) 0 = none := by
  have hl : imageTag.length = 16 := by decide +kernel
  have h0 : ¬(fieldLe (norRead (imageDev imageTag) 0 0 64) 0 4 ≠ 0x49425154 ∨ fieldLe (norRead (imageDev imageTag) 0 0 64) 4 2 ≠ 1 ∨
      fieldLe (norRead (imageDev imageTag) 0 0 64) 6 2 ≠ 0 ∨ fieldLe (norRead (imageDev imageTag) 0 0 64) 12 4 = 0 ∨
      16777152 < fieldLe (norRead (imageDev imageTag) 0 0 64) 12 4 ∨ zeros (norRead (imageDev imageTag) 0 0 64) 24 8 = false ∨
      zeros (norRead (imageDev imageTag) 0 0 64) 48 16 = false) := by decide +kernel
  have h1 : (norRead (imageDev imageTag) 0 0 64).take 32 ++
      norRead (imageDev imageTag) 0 64 (fieldLe (norRead (imageDev imageTag) 0 0 64) 12 4) = imageAad := by decide +kernel
  have h2 : slice (norRead (imageDev imageTag) 0 0 64) 16 8 = List.replicate 8 0 := by decide +kernel
  have h3 : ¬ fieldLe (norRead (imageDev imageTag) 0 0 64) 8 4 < imageVault.minVersion := by decide +kernel
  simp only [imageFault, imageDev_tag, sixteen _ hl, h1, h2]
  rw [if_neg h0, if_neg (by decide), if_neg h3, if_neg]
  exact fun hne => hne rfl

def coreIs (x : CoreCtl) : State := at_ fun d => { d with uptime := 30000000 }.modCtrl fun c => { c with cores := [(18, x)] }
def ledgerIs (f : Ledger → Ledger) : State := at_ fun d => { d with uptime := 500000000 }.modLedger f
def busyFrame (n : Nat) (code : BitVec 16) : State := at_ fun d => d.modMailbox fun m => { m with frames := [(n, { busy := true, code := code })] }

/-- Core 18 executes and an instruction's bytes stand at its pc. -/
def coreRuns (f : Core → Core) (i : VInstr) : State := at_ fun d => ((d.modCtrl fun c => { c with cores := [(18, { state := 1 })] }).modCore 18 fun c =>
  f { c with pc := BitVec.ofNat 48 codeBase, code := tputs 0 [] 0 (encodeVolil i), g := [(1, 7), (2, 3), (13, BitVec.ofNat 64 dataBase), (15, 9)] })
def rr (d s : Fin 16) : VolilRR := { core := 18, size := .s64, d := d, s := s }
def ri (z : VSize) (d : Fin 16) : VolilRI := { core := 18, size := z, d := d, isz := 0, imm := 0x80 }
def vm (d : Fin 16) : VolilM :=
  { core := 18, size := .s64, sync := false, d := d, base := 13, index := 0, indexEn := false, pcrel := false, dsz := 0, disp := 0, imm := 0 }

/-- An extension image with one body, for the device of `ownedDev`: its head, body and tag (R383). -/
def extHead : Bytes := [0x54, 0x51, 0x56, 0x58, 1, 0, 1, 0] ++ leBytes 8 9 ++ List.replicate 16 0
def extBody : Bytes := [63, 1] ++ List.replicate 70 0
def extTag : Bytes := gcmTag (keyBytes (tget {} (ownedDev 0).vault.keys 16).key) (slice extHead 8 8 ++ [0, 0, 0, 5]) (slice extHead 0 32 ++ extBody) []
def extImage : Bytes := extHead ++ (extTag ++ extBody)
theorem ext_good : ∃ b text : Bytes, b = fit 120 extImage ∧ badExtImage b = false ∧
    gcmOpen (keyBytes (tget {} (ownedDev 0).vault.keys 16).key) (slice b 8 8 ++ [0, 0, 0, 5]) (slice b 0 32 ++ b.drop 48) [] (slice b 32 16) = some text ∧
    (tget 0 (ownedDev 0).dev.ledger.extSerials 16).toNat ≤ fieldLe b 8 8 := by
  have hl : extTag.length = 16 := by decide +kernel
  have hh : extHead.length = 32 := by decide +kernel
  have hf : fit 120 extImage = extImage := fit_of_length 120 _ (by decide +kernel)
  have h1 : slice extImage 8 8 = slice extHead 8 8 := by decide +kernel
  have h2 : slice extImage 0 32 = slice extHead 0 32 := by decide +kernel
  have h3 : extImage.drop 48 = extBody := by
    rw [extImage, ← List.append_assoc, List.drop_left' (by simp [hl, hh])]
  have h4 : slice extImage 32 16 = extTag := by
    rw [slice, extImage, ← hh, List.drop_left, List.take_left' hl]; simp [hl]
  refine ⟨extImage, gcmCtr (keyBytes (tget {} (ownedDev 0).vault.keys 16).key) (slice extImage 8 8 ++ [0, 0, 0, 5]) [], hf.symm, by decide +kernel, ?_, by decide +kernel⟩
  rw [h1, h2, h3, h4]
  exact if_pos rfl

theorem witness_CanalComplete :
    (∃ (s : State), s.On) ∧
    (∃ (s : State) (x : Delivery) (rest : List Delivery), s.On ∧ s.dev.canal.deliveries = x :: rest ∧ x.barge.kind = 1 ∧
     x.barge.restart = false ∧ expected (s.dev.modCanal fun c => { c with deliveries := rest }) x.router x.port x.slot = some
     x.barge.route.toNat ∧ tget 0 s.dev.canal.recvSeq (unitKey x.router x.port * 4096 + x.barge.route.toNat) = x.barge.seq) ∧
    (∃ (s : State) (r : Fin 30) (p : Fin 64) (t : Nat), s.On ∧ (tget {} s.dev.canal.links (r.val * 64 + p.val)).opened = some t ∧ t
     + 1000000 ≤ s.dev.uptime) ∧
    (∃ (s : State) (r : Fin 30) (p : Fin 64) (w : Int) (r' : Nat) (p' : Nat), s.On ∧ attach r.val p.val = .router r' p' true ∧ 16 <
     w.natAbs) ∧
    (∃ (c : Cmd) (s : State), Serves { i3c := true } c s) ∧
    (∃ (c : Cmd) (s : State) (program : Nat) (router : Nat) (slot : Nat), Serves {} c s ∧ program ∈ s.dev.canal.resident ∧ router <
     30 ∧ slot < 1024) ∧
    (∃ (c : Cmd) (s : State) (program : Nat) (router : Nat) (slot : Nat), Serves {} c s ∧ program ∈ s.dev.canal.resident ∧ router <
     30 ∧ slot < 1024) ∧
    (∃ (c : Cmd) (s : State) (program : Nat), Serves { block := some 3 } c s ∧ s.dev.groupSize ≤ 1 ∧ program ∈ s.dev.canal.resident) ∧
    (∃ (c : Cmd) (s : State), Serves { block := some 3 } c s) :=
  ⟨⟨full, by decide +kernel⟩,
    ⟨(under mapOne fun d => d.modCanal fun c => { c with deliveries := [deliv] }), deliv, [], by decide +kernel⟩,
    ⟨(at_ fun d => { d with uptime := 1000005 }.modCanal fun c => { c with links := [(66, { opened := some 5 })] }), 1, 2, 5, by decide +kernel⟩,
    ⟨full, 28, 0, 17, 6, 32, by decide +kernel⟩,
    ⟨cmd, full, by decide +kernel⟩,
    ⟨cmd, (at_ fun d => d.modCanal fun c => { c with resident := [2] }), 2, 29, 1023, by decide +kernel⟩,
    ⟨cmd, (at_ fun d => d.modCanal fun c => { c with resident := [2] }), 2, 29, 1023, by decide +kernel⟩,
    ⟨cmd, (at_ fun d => d.modCanal fun c => { c with resident := [2] }), 2, by decide +kernel⟩,
    ⟨cmd, full, by decide +kernel⟩⟩

theorem witness_LocksComplete :
    (∃ (s : State) (l : Fin 128) (i : Fin 1024) (dest : Nat) (bs : Bytes) (e : Nat × Nat), s.On ∧ lockKind l.val ≠ none ∧ lockKind
     l.val ≠ some .eth ∧ (s.dev.lock l.val).closed = false ∧ (dest < 8 → (s.dev.ctl dest).failed = false) ∧ ((s.dev.lock
     l.val).routeMap.find? fun e => e.1 = dest) = some e ∧ (s.dev.lock l.val).room (waitingOf s.dev l.val i.val dest e.2 none false
     (.data dest bs false)).size = true) ∧
    (∃ (s : State) (l : Fin 128) (e : Nat) (d : Dev), s.On ∧ (s.dev.lock l.val).closed = false ∧ s.dev.canal.dwell = false ∧
     s.dev.canal.slot < 1024 ∧ (s.dev.lock l.val).openedAt ≠ s.dev.now + 1 ∧ (tget 0 s.dev.locks.gates (gateIndex l.val
     s.dev.program s.dev.canal.slot)).toNat = e ∧ bits e 1 0 = 1 ∧ d = prepare l.val (bits e 11 2) (bits e 23 12) (borrow l.val
     (bits e 11 2) (bits e 23 12) (s.dev.modLock l.val fun k => { k with openedAt := s.dev.now + 1 })) ∧ ready d l.val (bits e 11 2)
     (bits e 23 12) = true) ∧
    (∃ (s : State) (l : Fin 128), s.On ∧ (s.dev.lock l.val).paused = true ∧ (s.dev.lock l.val).pauseEn = true ∧ (s.dev.lock
     l.val).closed = false ∧ (s.dev.lock l.val).pauseOff ≤ (s.dev.lock l.val).fill ∧ (s.dev.lock l.val).pauseAt ≤ s.dev.uptime) ∧
    (∃ (s : State) (chunk : Nat) (d : Dev), s.On ∧ (s.dev.locks.holds.any fun h => h.kind == .copyBeforeWrite && h.chunk == chunk) =
     true ∧ stageChunk chunk s.dev = some d) ∧
    (∃ (s : State) (n : Nat) (h : Hold), s.On ∧ s.dev.locks.holds[n]? = some h ∧ h.overrun = false ∧ h.since + allowance s.dev
     h.kind < s.dev.uptime ∧ h.kind = .delta ∧ h.lock = none) ∧
    (∃ (s : State) (n : Nat) (h : Hold), s.On ∧ s.dev.locks.holds[n]? = some h ∧ h.overrun = true ∧ h.repeatDue ≤ s.dev.uptime) ∧
    (∃ (s : State) (n : Nat) (x : Sluice), s.On ∧ s.dev.locks.sluices[n]? = some x ∧ x.byRegister = false) ∧
    (∃ (c : Cmd) (s : State) (lock : Nat) (k : LockKind), Serves { i3c := true } c s ∧ lockKind lock = some k) ∧
    (∃ (c : Cmd) (s : State) (inst : Nat), Serves { block := some 4 } c s ∧ inst < 1024 ∧ createdThrough inst (actingPf c.src.val
     (some inst) s.dev) s.dev = true) ∧
    (∃ (c : Cmd) (s : State) (program : Nat) (bank : Nat) (lock : Nat) (slot : Nat), Serves {} c s ∧ program ∈ s.dev.canal.resident
     ∧ bank < 2 ∧ slot < 1024 ∧ lockKind lock ≠ none) ∧
    (∃ (c : Cmd) (s : State) (inst : Nat) (weight : Nat), Serves {} c s ∧ inst < 1024 ∧ 1 ≤ weight ∧ weight ≤ 65535 ∧ createdThrough
     inst (actingPf c.src.val (some inst) s.dev) s.dev = true) ∧
    (∃ (c : Cmd) (s : State), Serves { i3c := true } c s) :=
  ⟨⟨(at_ fun d => d.modLock 32 fun k => { k with size := 1, described := true, routeMap := [(0, 7)] }), 32, 1023, 0, [1, 2], (0, 7), by decide +kernel⟩,
    ⟨(at_ fun d => (d.modLocks fun k => { k with gates := [(gateIndex 32 0 0, 28677)] }).modLock 32 fun k => { k with size := 1, queue := [{ inst := 1, route := 7, barges := [barge1] }] }), 32, 28677, (prepare 32 1 7 ((at_ fun d => (d.modLocks fun k => { k with gates := [(gateIndex 32 0 0, 28677)] }).modLock 32 fun k => { k with size := 1, queue := [{ inst := 1, route := 7, barges := [barge1] }] }).dev.modLock 32 fun k => { k with openedAt := 1 })), by decide +kernel⟩,
    ⟨(at_ fun d => { d with uptime := 9 }.modLock 42 fun k => { k with size := 1, paused := true, pauseEn := true, pauseOff := 0, pauseAt := 9 }), 42, by decide +kernel⟩,
    ⟨(under { regions := [{ kind := 7, base := 2 ^ 30, size := 65536 }], thr := { masters := [{ base := 0, twin := 2 ^ 20, size := 65536 }] } } fun d => d.modLocks fun k => { k with holds := [{ chunk := 0 }] }), 0, _, and2 (by decide +kernel) rfl⟩,
    ⟨(at_ fun d => { d with uptime := 5242881 }.modLocks fun k => { k with holds := [{ kind := .delta }] }), 0, { kind := .delta }, by decide +kernel⟩,
    ⟨(at_ fun d => d.modLocks fun k => { k with holds := [{ overrun := true }] }), 0, { overrun := true }, by decide +kernel⟩,
    ⟨(at_ fun d => d.modLocks fun k => { k with sluices := [{ inst := some 3 }] }), 0, { inst := some 3 }, by decide +kernel⟩,
    ⟨cmd, full, 124, .control, by decide +kernel⟩,
    ⟨cmd, full, 0, by decide +kernel⟩,
    ⟨cmd, (at_ fun d => d.modCanal fun c => { c with resident := [2] }), 2, 1, 123, 1023, by decide +kernel⟩,
    ⟨cmd, full, 0, 65535, by decide +kernel⟩,
    ⟨cmd, full, by decide +kernel⟩⟩

theorem witness_MemoryEventsComplete :
    (∃ (s : State) (u : Fin 20) (x : Delivery) (d : Dev) (e : Dev), s.On ∧ nextBarge (memPorts u.val).1 (memPorts u.val).2.1
     (memPorts u.val).2.2 s.dev = some (x, d) ∧ takeBarge u.val x d = (true, e)) ∧
    (∃ (s : State) (u : Fin 20) (h : Held) (b : Barge) (p : Nat), s.On ∧ s.dev.canal.dwell = false ∧ s.dev.canal.slot < 1024 ∧
     dropReady u.val s.dev = s.dev ∧ heldOf s.dev u.val = [h] ∧ h.barges = [b] ∧ h.slotless = false ∧ h.ready ≤ s.dev.now ∧ sendPort
     s.dev u.val h.route = some p ∧ (s.dev.canal.flights.any fun f => decide (f.router = (memPorts u.val).1 ∧ f.port = p ∧ f.slot =
     s.dev.canal.slot) && (f.half == false)) = false) ∧
    (∃ (s : State) (k : Fin 8) (e : MergeEntry) (es : List MergeEntry), s.On ∧ (s.dev.ctl k.val).merge = e :: es) ∧
    (∃ (s : State) (k : Fin 8) (parity : Bool), s.On ∧ (s.dev.ctl k.val).failed = false) ∧
    (∃ (s : State) (k : Fin 8), s.On ∧ planMark s.dev k.val = 2 ∧ (s.dev.ctl k.val).failed = false ∧ (s.dev.ctl k.val).logical ≠
     none ∧ (s.dev.ctl k.val).scrub = none) ∧
    (∃ (s : State) (k : Fin 8), s.On ∧ planMark s.dev k.val = 1 ∧ (s.dev.ctl k.val).failed = false ∧ (s.dev.ctl k.val).refreshDue ≤
     s.dev.uptime) ∧
    (∃ (s : State) (c : Fin 12) (j : Nat), s.On ∧ (s.dev.wharfUsed.findIdx? fun x => x = c.val) = some j ∧ (s.dev.wharfCh
     c.val).state = 2) ∧
    (∃ (s : State) (c : Fin 12), s.On ∧ (s.dev.wharfCh c.val).state = 2) ∧
    (∃ (s : State) (n : Nat) (r : Reach), s.On ∧ s.dev.reach n = some r ∧ r.sweptAt ≠ s.dev.canal.lockage + 1 ∧ zeros (rawRead
     (s.dev.regionBase 4 + r.releaseLines) 256 s.dev).1.1 12 244 = true ∧ fieldLe (rawRead (s.dev.regionBase 4 + r.releaseLines) 256
     s.dev).1.1 8 4 = 0xFFFFFFFF ∧ fieldLe (rawRead (s.dev.regionBase 4 + r.releaseLines) 256 s.dev).1.1 0 4 = r.consumed ∧ fieldLe
     (rawRead (s.dev.regionBase 4 + r.releaseLines) 256 s.dev).1.1 4 4 ≤ r.consumed) ∧
    (∃ (s : State) (n : Nat) (page : Nat) (f : Nat) (r : Reach) (d : Dev), s.On ∧ s.dev.kv.moving = none ∧ s.dev.kv.draining = true
     ∧ moveCandidate s.dev = some (n, page) ∧ s.dev.reach n = some r ∧ freeWharf s.dev = some f ∧ setPage n page (3, (tget (0, 0)
     r.pages page).2) s.dev = some d) ∧
    (∃ (s : State) (n : Nat) (page : Nat) (f : Nat) (r : Reach) (d : Dev), s.On ∧ s.dev.kv.moving = some (n, page, f) ∧ s.dev.reach
     n = some r ∧ setPage n page (2, f) ((rawCopy (homeAddr s.dev (1, (tget (0, 0) r.pages page).2)) (homeAddr s.dev (2, f)) 65536
     s.dev).modKv fun k => { k with moving := none }) = some d) ∧
    (∃ (s : State) (c : Cmd) (inst : Nat) (z : Nat) (r : Nat) (n : Nat) (d : Dev) (x : Reach), Serves { vf := true } c s ∧ inst <
     1024 ∧ (isVf c.src.val = true → inst = c.src.val) ∧ ((List.range 11).any fun i => 64 * 2 ^ i = z) = true ∧ 2 ≤ r ∧ r ≤ 12 ∧
     s.dev.kv.reaches.length < 65536 ∧ createReach inst z r s.dev = some (n, d) ∧ d.reach n = some x) ∧
    (∃ (s : State) (c : Cmd) (n : Nat) (r : Reach), Serves { vf := true } c s ∧ s.dev.reach n = some r ∧ (isVf c.src.val = true →
     r.inst = c.src.val)) ∧
    (∃ (s : State) (c : Cmd) (n : Nat) (r : Reach), Serves { vf := true, i3c := true } c s ∧ n ≠ 0xFFFFFFFF ∧ s.dev.reach n = some r
     ∧ (isVf c.src.val = true → r.inst = c.src.val)) :=
  ⟨⟨(at_ fun d => d.modCanal fun c => { c with inbox := [(unitKey 4 3, [{ router := 4, port := 3, barge := barge1 }])] }), 0, { router := 4, port := 3, barge := barge1 }, ((at_ fun d => d.modCanal fun c => { c with inbox := [(unitKey 4 3, [{ router := 4, port := 3, barge := barge1 }])] }).dev.modCanal fun c => { c with inbox := [] }), (takeBarge 0 { router := 4, port := 3, barge := barge1 } ((at_ fun d => d.modCanal fun c => { c with inbox := [(unitKey 4 3, [{ router := 4, port := 3, barge := barge1 }])] }).dev.modCanal fun c => { c with inbox := [] })).2, by decide +kernel⟩,
    ⟨(under ready8 fun d => d.modCtl 0 fun c => { c with held := [unit0] }), 0, unit0, barge1, 3, by decide +kernel⟩,
    ⟨(at_ fun d => d.modCtl 7 fun c => { c with merge := [{ line := 3, mask := 1 }] }), 7, { line := 3, mask := 1 }, [], by decide +kernel⟩,
    ⟨full, 7, true, by decide +kernel⟩,
    ⟨(under ready8 fun d => d.modCtl 0 fun c => { c with logical := some 0 }), 0, by decide +kernel⟩,
    ⟨(under ready8 fun d => d), 1, by decide +kernel⟩,
    ⟨(at_ wharf0), 0, 0, by decide +kernel⟩,
    ⟨(at_ wharf0), 0, by decide +kernel⟩,
    ⟨(under paged fun d => inWharf (d.modKv fun k => { k with reaches := [(0, reach0)] })), 0, reach0, by decide +kernel⟩,
    ⟨moving, 0, 3, 0, reach0, ((setPage 0 3 (3, 2) moving.dev).getD moving.dev), by decide +kernel⟩,
    ⟨moved, 0, 3, 0, movedReach, movedEnd, and3 (by decide +kernel) moved_copied⟩,
    ⟨(under paged fun d => d), cmd, 0, 64, 2, 0, ((createReach 0 64 2 (under paged fun d => d).dev).getD (0, (under paged fun d => d).dev)).2, ((((createReach 0 64 2 (under paged fun d => d).dev).getD (0, (under paged fun d => d).dev)).2.reach 0).getD {}), by decide +kernel⟩,
    ⟨(under paged fun d => inWharf (d.modKv fun k => { k with reaches := [(0, reach0)] })), cmd, 0, reach0, by decide +kernel⟩,
    ⟨(under paged fun d => inWharf (d.modKv fun k => { k with reaches := [(0, reach0)] })), cmd, 0, reach0, by decide +kernel⟩⟩

theorem witness_MemoryCommandsComplete :
    (∃ (c : Cmd) (s : State) (ctl : Nat), Serves { i3c := true } c s ∧ ctl < 8) ∧
    (∃ (c : Cmd) (s : State) (ctl : Nat), Serves { i3c := true } c s ∧ ctl < 8) ∧
    (∃ (c : Cmd) (s : State) (ctl : Nat) (L : Nat) (first : Nat) (end_ : Nat) (mode : Nat), Serves { block := some 6 } c s ∧ ctl < 8
     ∧ (s.dev.ctl ctl).logical = some L ∧ mode < 2 ∧ first % 8192 = 0 ∧ end_ % 8192 = 0 ∧ first < end_ ∧ first / 2 ^ 36 = L ∧ (end_
     - 1) / 2 ^ 36 = L ∧ (s.dev.ctl ctl).failed = false ∧ (s.dev.ctl ctl).scrub = none) ∧
    (∃ (c : Cmd) (s : State) (ctl : Nat), Serves { block := some 6 } c s ∧ ctl < 8) ∧
    (∃ (c : Cmd) (s : State) (ctl : Nat), Serves {} c s ∧ ctl < 8 ∧ bit (s.dev.csrGet (hbmReg ctl 0x98)).toNat 10 = false) ∧
    (∃ (c : Cmd) (s : State) (ch : Nat), Serves { i3c := true } c s ∧ ch < 12) :=
  ⟨⟨cmd, full, 7, by decide +kernel⟩,
    ⟨cmd, full, 7, by decide +kernel⟩,
    ⟨cmd, (at_ fun d => d.modCtl 7 fun c => { c with logical := some 3 }), 7, 3, (3 * 2 ^ 36), (4 * 2 ^ 36), 1, by decide +kernel⟩,
    ⟨cmd, full, 7, by decide +kernel⟩,
    ⟨cmd, full, 7, by decide +kernel⟩,
    ⟨cmd, full, 11, by decide +kernel⟩⟩

theorem witness_ManifestComplete :
    (∃ (s : State) (data : Bytes), s.On ∧ s.dev.manifest.stage = 1 ∧ s.dev.manifest.source = 0) ∧
    (∃ (s : State) (r : Except Bad Unit), s.On ∧ s.dev.manifest.stage = 2 ∧ authenticate s.vault s.dev s.dev.manifest.staging = r) ∧
    (∃ (s : State) (r : Except Bad Manifest), s.On ∧ s.dev.manifest.stage = 3 ∧ validate s.vault s.dev s.dev.manifest.staging = r) ∧
    (∃ (s : State) (m : Manifest), s.On ∧ s.dev.manifest.stage = 4 ∧ s.dev.manifest.parsed = some m ∧ m.groupSize ≤ 1 ∧
     s.dev.boot.passed = true ∧ (relockAll s.dev).boot.passed = true) ∧
    (∃ (s : State) (m : Manifest), s.On ∧ s.dev.canal.aligned = false ∧ s.dev.manifest.stage = 5 ∧ s.dev.manifest.shadow = some m ∧
     m.groupSize ≤ 1) ∧
    (∃ (s : State), s.On ∧ s.dev.canal.aligned = true ∧ s.dev.canal.slot = 1024 ∧ s.dev.canal.dwellLeft = 0) ∧
    (∃ (s : State) (t : Word) (m : Manifest), s.On ∧ s.dev.ring.zeroTime = some t ∧ s.dev.manifest.shadow = some m ∧
     s.dev.manifest.stage = 5 ∧ 1 < m.groupSize ∧ s.dev.ring.ready = false ∧ t.toNat ≤ s.dev.time.ns.toNat) ∧
    (∃ (s : State) (t : Nat), s.On ∧ s.dev.manifest.firstReady = some t ∧ s.dev.ring.root = true ∧ s.dev.manifest.flipLockage = none
     ∧ 1 ≤ s.dev.manifest.stage ∧ s.dev.manifest.stage ≤ 5 ∧ s.dev.manifest.membersReady < s.dev.loadGroup ∧ t + 2000000000 ≤
     s.dev.uptime) ∧
    (∃ (s : State) (chunks : List (Nat × Bytes)), s.On ∧ s.dev.manifest.stage = 6 ∧ s.dev.thr.role ≠ 2 ∧ s.dev.thr.role ≠ 3 ∧
     s.dev.thr.reseed ≠ 1 ∧ s.dev.rel.deltaActive = false) ∧
    (∃ (c : Cmd) (s : State) (source : Nat) (address : Nat) (length : Nat), Serves {} c s ∧ (s.dev.manifest.stage = 0 ∨ 5 <
     s.dev.manifest.stage) ∧ source < 3) ∧
    (∃ (c : Cmd) (s : State) (source : Nat) (address : Nat) (length : Nat), Serves {} c s ∧ (s.dev.manifest.stage = 0 ∨ 5 <
     s.dev.manifest.stage) ∧ source < 3) ∧
    (∃ (c : Cmd) (s : State), Serves { reduced := true, i3c := true } c s) ∧
    (∃ (c : Cmd) (s : State), Serves {} c s ∧ 1 ≤ s.dev.manifest.stage ∧ s.dev.manifest.stage ≤ 5 ∧ s.dev.manifest.flipLockage =
     none ∧ s.dev.ring.zeroTime = none) ∧
    (∃ (c : Cmd) (s : State) (n : Nat) (k : Nat) (a : Alternate), Serves { also := switchBlocks } c s ∧ s.dev.alternates[n]? = some
     (k, a) ∧ a.base = s.dev.program ∧ (∀ u ∈ a.coverage, u < 528) ∧ (∀ u ∈ s.dev.manifest.failedSet, u ∈ a.coverage)) ∧
    (∃ (c : Cmd) (s : State), Serves { also := switchBlocks } c s ∧ (s.dev.manifest.altActive ≠ [] ∨ s.dev.program ≠ 0) ∧
     (s.dev.manifest.failedSet.any s.dev.manifest.unhealthy.contains) = false) :=
  ⟨⟨(stage 1 id), [1, 2], by decide +kernel⟩,
    ⟨(stage 2 id), (authenticate (stage 2 id).vault (stage 2 id).dev (stage 2 id).dev.manifest.staging), and2 (by decide +kernel) rfl⟩,
    ⟨(stage 3 id), (validate (stage 3 id).vault (stage 3 id).dev (stage 3 id).dev.manifest.staging), and2 (by decide +kernel) rfl⟩,
    ⟨(at_ fun d => (d.modManifest fun m => { m with stage := 4, parsed := some {} }).modBoot fun b => { b with passed := true }), {}, by decide +kernel⟩,
    ⟨(stage 5 fun m => { m with shadow := some mapOne }), mapOne, by decide +kernel⟩,
    ⟨(at_ fun d => d.modCanal fun c => { c with aligned := true, slot := 1024 }), by decide +kernel⟩,
    ⟨((stage 5 fun m => { m with shadow := some group2 }).withDev ((stage 5 fun m => { m with shadow := some group2 }).dev.modRing fun r => { r with zeroTime := some 0 })), 0, group2, by decide +kernel⟩,
    ⟨((stage 4 fun m => { m with firstReady := some 0, parsed := some group2 }).withDev { (stage 4 fun m => { m with firstReady := some 0, parsed := some group2 }).dev.modRing fun r => { r with root := true } with uptime := 2000000000 }), 0, by decide +kernel⟩,
    ⟨(stage 6 id), [], by decide +kernel⟩,
    ⟨cmd, full, 2, 0, 64, by decide +kernel⟩,
    ⟨cmd, full, 2, 0, 64, by decide +kernel⟩,
    ⟨cmd, full, by decide +kernel⟩,
    ⟨cmd, (stage 5 id), by decide +kernel⟩,
    ⟨cmd, (under { alternates := [{ base := 0, coverage := [527] }], programs := [[]] } fun d => d), 0, 0, { base := 0, coverage := [527] }, by decide +kernel⟩,
    ⟨cmd, (at_ fun d => d.modManifest fun m => { m with altActive := [0] }), by decide +kernel⟩⟩

theorem witness_ReliabilityComplete :
    (∃ (s : State) (words : List StepWord), s.On ∧ s.dev.rel.phase = 5 ∧ s.dev.groupSize ≤ 1 ∧ bit (combineBits s.dev.rel.current
     s.dev.rel.own []) 2 = false) ∧
    (∃ (s : State) (chunk : Nat), s.On ∧ s.dev.rel.filling.contains chunk = true) ∧
    (∃ (s : State) (r : Nat) (p : Nat) (a : Barge) (b : Barge) (d : Dev) (e : Dev), s.On ∧ routeSlot s.dev s.dev.thr.buddyOut = some
     (r, p, s.dev.canal.slot) ∧ nextDelta s.dev = some (a, d) ∧ nextDelta (inject r p false a d) = some (b, e)) ∧
    (∃ (s : State) (chunk : Nat) (step : Word) (crc : W32) (data : Bytes), s.On ∧ s.dev.region 1 ≠ none ∧ s.dev.manifest.stage ≠ 6 ∧
     s.dev.rel.buddyApplied ≠ some step.toNat ∧ s.dev.rel.buddyOpen = true ∧ s.dev.rel.buddyStep = step.toNat ∧ crc32c 0xFFFFFFFF#32
     (fit 65536 data) = crc ∧ chunk < s.dev.chunks) ∧
    (∃ (s : State) (sent : Nat) (step : Word), s.On ∧ s.dev.manifest.stage ≠ 6 ∧ s.dev.rel.buddyApplied ≠ some step.toNat ∧
     s.dev.rel.buddyOpen = true ∧ s.dev.rel.buddyStep = step.toNat ∧ s.dev.rel.buddyGood = true ∧ s.dev.rel.buddyPending.length =
     sent) ∧
    (∃ (s : State), s.On ∧ s.dev.rel.ckptState = 1 ∧ s.dev.rel.stripe < s.dev.rel.ckptStripes) ∧
    (∃ (s : State), s.On ∧ s.dev.rel.ckptState = 3 ∧ ckptQuiet s.dev = true) ∧
    (∃ (c : Cmd) (s : State), Serves { i3c := true } c s) ∧
    (∃ (c : Cmd) (s : State), Serves { i3c := true } c s) ∧
    (∃ (c : Cmd) (s : State), Serves { block := some 16 } c s ∧ s.dev.thr.ckptK ≠ 0) ∧
    (∃ (c : Cmd) (s : State), Serves { block := some 16 } c s) ∧
    (∃ (c : Cmd) (s : State) (sets : List Nat) (step : Word) (plan : List RestoreEntry) (blocks : List VolumeBlock) (x : Nat) (d :
     Dev), Serves { block := some 16 } c s ∧ s.dev.manifest.stage = 6 ∧ s.dev.manifest.workHeld = true ∧ sets ≠ [] ∧ sets.length ≤
     64 ∧ (∀ v ∈ sets, v < 4096) ∧ restoreStep s.dev blocks sets step.toNat = some x ∧ (plan.all fun e => entryAligned
     (sets.flatMap fun v => match sealFor s.dev blocks v x with | some y => foundIn s.dev blocks v y.1 x y.2 | none => []) e &&
     entryInMaster s.dev e) = true ∧ plan.foldl (restoreEntry blocks
     (sets.flatMap fun v => match sealFor s.dev blocks v x with | some y => foundIn s.dev blocks v y.1 x y.2 | none => []) x
     (sets.headD 0)) (.ok s.dev) = .ok d) :=
  ⟨⟨(at_ fun d => d.modRel fun r => { r with phase := 5 }), [], by decide +kernel⟩,
    ⟨(at_ fun d => d.modRel fun r => { r with filling := [3] }), 3, by decide +kernel⟩,
    ⟨(under buddy fun d => d.modRel fun r => { r with deltaActive := true, deltaOut := [0], deltaSent := 1 }), 0, 3, ((nextDelta (under buddy fun d => d.modRel fun r => { r with deltaActive := true, deltaOut := [0], deltaSent := 1 }).dev).getD ({}, {})).1, ((nextDelta (inject 0 3 false ((nextDelta (under buddy fun d => d.modRel fun r => { r with deltaActive := true, deltaOut := [0], deltaSent := 1 }).dev).getD ({}, {})).1 ((nextDelta (under buddy fun d => d.modRel fun r => { r with deltaActive := true, deltaOut := [0], deltaSent := 1 }).dev).getD ({}, {})).2)).getD ({}, {})).1, ((nextDelta (under buddy fun d => d.modRel fun r => { r with deltaActive := true, deltaOut := [0], deltaSent := 1 }).dev).getD ({}, {})).2, ((nextDelta (inject 0 3 false ((nextDelta (under buddy fun d => d.modRel fun r => { r with deltaActive := true, deltaOut := [0], deltaSent := 1 }).dev).getD ({}, {})).1 ((nextDelta (under buddy fun d => d.modRel fun r => { r with deltaActive := true, deltaOut := [0], deltaSent := 1 }).dev).getD ({}, {})).2)).getD ({}, {})).2, by decide +kernel⟩,
    ⟨(under buddy fun d => d.modRel fun r => { r with buddyOpen := true, buddyStep := 4 }), 0, 4, (crc32c 0xFFFFFFFF#32 (fit 65536 [])), [], and6 (by decide +kernel) ⟨rfl, by decide +kernel⟩⟩,
    ⟨(at_ fun d => d.modRel fun r => { r with buddyOpen := true, buddyStep := 4, buddyGood := true, buddyPending := [0] }), 1, 4, by decide +kernel⟩,
    ⟨(at_ fun d => d.modRel fun r => { r with ckptState := 1, ckptStripes := 1 }), by decide +kernel⟩,
    ⟨(at_ fun d => d.modRel fun r => { r with ckptState := 3 }), by decide +kernel⟩,
    ⟨cmd, full, by decide +kernel⟩,
    ⟨cmd, full, by decide +kernel⟩,
    ⟨cmd, (under { thr := { ckptK := 2 } } id), by decide +kernel⟩,
    ⟨cmd, full, by decide +kernel⟩,
    ⟨cmd, restoring, [5], 0, [], sealed, 7, restoring.dev, and6 (by decide +kernel) ⟨restore_found, by decide +kernel, rfl⟩⟩⟩

theorem witness_ScalarOpsComplete :
    (∃ (o : StreamOp) (s : State), Issues 0x00 o s) ∧
    (∃ (o : StreamOp) (s : State), Issues 0x01 o s) ∧
    (∃ (o : StreamOp) (s : State), Issues 0x02 o s) ∧
    (∃ (o : StreamOp) (s : State), Issues 0x03 o s) ∧
    (∃ (o : StreamOp) (s : State), Issues 0x04 o s) ∧
    (∃ (o : StreamOp) (s : State), Issues 0x05 o s) ∧
    (∃ (o : StreamOp) (s : State), Issues 0x06 o s) ∧
    (∃ (o : StreamOp) (s : State), Issues 0x07 o s) ∧
    (∃ (o : StreamOp) (s : State), Issues 0x08 o s) ∧
    (∃ (o : StreamOp) (s : State), Issues 0x09 o s) ∧
    (∃ (o : StreamOp) (s : State), Issues 0x0A o s) ∧
    (∃ (o : StreamOp) (s : State), Issues 0x0B o s) ∧
    (∃ (o : StreamOp) (s : State), Issues 0x0C o s) ∧
    (∃ (o : StreamOp) (s : State), Issues 0x0D o s) ∧
    (∃ (n : Fin 528) (i : Fin 4) (s : State) (slot : Nat) (lockage : Nat), s.On ∧ ((s.dev.tile n.val).stream i.val).wait = .slot
     slot lockage ∧ s.dev.canal.dwell = false ∧ lockage * 1024 + slot ≤ s.dev.canal.lockage * 1024 + s.dev.canal.slot) ∧
    (∃ (n : Fin 528) (i : Fin 4) (s : State), s.On ∧ ((s.dev.tile n.val).stream i.val).wait = .fence ∧ (s.dev.tile
     n.val).outstanding i.val = false) ∧
    (∃ (n : Fin 528) (i : Fin 4) (s : State) (b : Nat), s.On ∧ ((s.dev.tile n.val).stream i.val).wait = .event b ∧ (s.dev.tile
     n.val).event b = true) :=
  ⟨⟨none2, (running 0x00 none2 0), by decide +kernel⟩,
    ⟨none2, (running 0x01 none2 0), by decide +kernel⟩,
    ⟨none2, (running 0x02 none2 0), by decide +kernel⟩,
    ⟨none2, (running 0x03 none2 0), by decide +kernel⟩,
    ⟨none2, (running 0x04 none2 0), by decide +kernel⟩,
    ⟨none2, (running 0x05 none2 0), by decide +kernel⟩,
    ⟨none2, (running 0x06 none2 0), by decide +kernel⟩,
    ⟨none2, (running 0x07 none2 0), by decide +kernel⟩,
    ⟨none2, (running 0x08 none2 0), by decide +kernel⟩,
    ⟨none2, (running 0x09 none2 0), by decide +kernel⟩,
    ⟨none2, (running 0x0a none2 0), by decide +kernel⟩,
    ⟨none2, (running 0x0b none2 0), by decide +kernel⟩,
    ⟨none2, (running 0x0c none2 0), by decide +kernel⟩,
    ⟨none2, (running 0x0d none2 0), by decide +kernel⟩,
    ⟨527, 3, (at_ fun d => (d.modCanal fun c => { c with slot := 1023, lockage := 5 }).modTile 527 fun t => { t with streams := [(3, { state := 2, wait := .slot 1023 5 })] }), 1023, 5, by decide +kernel⟩,
    ⟨527, 3, (at_ fun d => (d.modCanal fun c => { c with slot := 1023, lockage := 5 }).modTile 527 fun t => { t with streams := [(3, { state := 2, wait := .fence })] }), by decide +kernel⟩,
    ⟨527, 3, (at_ fun d => (d.modCanal fun c => { c with slot := 1023, lockage := 5 }).modTile 527 fun t => { t with streams := [(3, { state := 2, wait := .event 31 })], events := 0x80000000 }), 31, by decide +kernel⟩⟩

theorem witness_MatrixOpsComplete :
    (∃ (o : StreamOp) (s : State) (d : Dev), Issues 0x10 o s ∧ Accepts (matrixPlan (operandBytes o.fmt.toNat 128 (mmaK o.fmt.toNat))
     (operandBytes o.fmt.toNat 128 (mmaK o.fmt.toNat)) o (s.dev.streamOf o)) 0x10 o s d) ∧
    (∃ (o : StreamOp) (s : State) (d : Dev), Issues 0x11 o s ∧ Accepts (matrixPlan (operandBytes o.fmt.toNat 64 (mmaxK o.fmt.toNat))
     (operandBytes o.fmt.toNat 128 (mmaxK o.fmt.toNat)) o (s.dev.streamOf o)) 0x11 o s d) ∧
    (∃ (o : StreamOp) (s : State), Issues 0x12 o s ∧ o.imm.getLsbD 0 = false ∧ ((s.dev.streamOf o).xr o.s2.toNat).toNat < 64) ∧
    (∃ (o : StreamOp) (s : State), Issues 0x12 o s ∧ o.imm.getLsbD 0 = true ∧ ((s.dev.streamOf o).xr o.s2.toNat).toNat < 32) ∧
    (∃ (o : StreamOp) (s : State), Issues 0x13 o s ∧ ((s.dev.streamOf o).xr o.s2.toNat).toNat < 64) ∧
    (∃ (o : StreamOp) (s : State), Issues 0x14 o s ∧ ((s.dev.streamOf o).xr o.s2.toNat).toNat < 32) ∧
    (∃ (o : StreamOp) (s : State), Issues 0x15 o s) :=
  ⟨⟨(opOf 1), (running 0x10 (opOf 1) 512), (running 0x10 (opOf 1) 512).dev, by decide +kernel⟩,
    ⟨(opOf 4), (running 0x11 (opOf 4) 512), (running 0x11 (opOf 4) 512).dev, by decide +kernel⟩,
    ⟨none2, (running 0x12 none2 0), by decide +kernel⟩,
    ⟨{ none2 with imm := 1 }, (running 0x12 { none2 with imm := 1 } 0), by decide +kernel⟩,
    ⟨none2, (running 0x13 none2 0), by decide +kernel⟩,
    ⟨none2, (running 0x14 none2 0), by decide +kernel⟩,
    ⟨none2, (running 0x15 none2 0), by decide +kernel⟩⟩

theorem witness_VectorOpsComplete :
    (∃ (o : StreamOp) (s : State) (d : Dev), Issues 0x20 o s ∧ Accepts (vldPlan o (s.dev.streamOf o)) 0x20 o s d) ∧
    (∃ (o : StreamOp) (s : State) (d : Dev), Issues 0x21 o s ∧ Accepts (vstPlan o (s.dev.streamOf o)) 0x21 o s d) ∧
    (∃ (o : StreamOp) (s : State), Issues 0x22 o s) ∧
    (∃ (o : StreamOp) (s : State), Issues 0x23 o s) ∧
    (∃ (o : StreamOp) (s : State), Issues 0x24 o s) ∧
    (∃ (o : StreamOp) (s : State), Issues 0x25 o s) ∧
    (∃ (o : StreamOp) (s : State), Issues 0x26 o s) ∧
    (∃ (o : StreamOp) (s : State), Issues 0x27 o s) ∧
    (∃ (o : StreamOp) (s : State), Issues 0x28 o s) ∧
    (∃ (o : StreamOp) (s : State), Issues 0x29 o s) ∧
    (∃ (o : StreamOp) (s : State), Issues 0x2A o s) ∧
    (∃ (o : StreamOp) (s : State), Issues 0x2B o s) ∧
    (∃ (o : StreamOp) (s : State), Issues 0x2C o s) ∧
    (∃ (o : StreamOp) (s : State), Issues 0x2D o s) ∧
    (∃ (o : StreamOp) (s : State), Issues 0x2E o s) ∧
    (∃ (o : StreamOp) (s : State), Issues 0x2F o s) ∧
    (∃ (o : StreamOp) (s : State), Issues 0x30 o s) ∧
    (∃ (o : StreamOp) (s : State), Issues 0x31 o s) :=
  ⟨⟨none2, (running 0x20 none2 0), (running 0x20 none2 0).dev, by decide +kernel⟩,
    ⟨none2, (running 0x21 none2 0), (running 0x21 none2 0).dev, by decide +kernel⟩,
    ⟨none2, (running 0x22 none2 0), by decide +kernel⟩,
    ⟨none2, (running 0x23 none2 0), by decide +kernel⟩,
    ⟨none2, (running 0x24 none2 0), by decide +kernel⟩,
    ⟨none2, (running 0x25 none2 0), by decide +kernel⟩,
    ⟨none2, (running 0x26 none2 0), by decide +kernel⟩,
    ⟨none2, (running 0x27 none2 0), by decide +kernel⟩,
    ⟨none2, (running 0x28 none2 0), by decide +kernel⟩,
    ⟨none2, (running 0x29 none2 0), by decide +kernel⟩,
    ⟨none2, (running 0x2a none2 0), by decide +kernel⟩,
    ⟨none2, (running 0x2b none2 0), by decide +kernel⟩,
    ⟨none2, (running 0x2c none2 0), by decide +kernel⟩,
    ⟨none2, (running 0x2d none2 0), by decide +kernel⟩,
    ⟨none2, (running 0x2e none2 0), by decide +kernel⟩,
    ⟨none2, (running 0x2f none2 0), by decide +kernel⟩,
    ⟨none2, (running 0x30 none2 0), by decide +kernel⟩,
    ⟨none2, (running 0x31 none2 0), by decide +kernel⟩⟩

theorem witness_TransferOpsComplete :
    (∃ (o : StreamOp) (s : State) (d : Dev), (s.dev.tile o.tile.val).engineFull false = false ∧ (s.dev.tile o.tile.val).engineFull
     true = false ∧ Issues 0x40 o s ∧ Accepts (streamPlan ((s.dev.streamOf o).xr o.s1.toNat).toNat o (s.dev.streamOf o)) 0x40 o s d) ∧
    (∃ (o : StreamOp) (s : State) (d : Dev), (s.dev.tile o.tile.val).engineFull false = false ∧ (s.dev.tile o.tile.val).engineFull
     true = false ∧ Issues 0x41 o s ∧ Accepts (streamPlan ((s.dev.streamOf o).xr o.dst.toNat).toNat o (s.dev.streamOf o)) 0x41 o s
     d) ∧
    (∃ (o : StreamOp) (s : State) (d : Dev), (s.dev.tile o.tile.val).engineFull false = false ∧ (s.dev.tile o.tile.val).engineFull
     true = false ∧ Issues 0x42 o s ∧ Accepts (memoryPlan s.dev ((s.dev.streamOf o).xr o.dst.toNat).toNat (devAddr (s.dev.streamOf
     o) o.s1.toNat).1 ((s.dev.streamOf o).xr o.s2.toNat).toNat (devAddr (s.dev.streamOf o) o.s1.toNat).2 [(readRoutes o).1,
     (readRoutes o).2]) 0x42 o s d) ∧
    (∃ (o : StreamOp) (s : State) (d : Dev), (s.dev.tile o.tile.val).engineFull false = false ∧ (s.dev.tile o.tile.val).engineFull
     true = false ∧ Issues 0x43 o s ∧ Accepts (memoryPlan s.dev ((s.dev.streamOf o).xr o.s1.toNat).toNat (devAddr (s.dev.streamOf o)
     o.dst.toNat).1 ((s.dev.streamOf o).xr o.s2.toNat).toNat (devAddr (s.dev.streamOf o) o.dst.toNat).2 [o.imm.toNat % 4096]) 0x43 o
     s d) ∧
    (∃ (o : StreamOp) (s : State) (d : Dev), (s.dev.tile o.tile.val).engineFull false = false ∧ (s.dev.tile o.tile.val).engineFull
     true = false ∧ Issues 0x44 o s ∧ Accepts (spillPlan s.dev (s.dev.tile o.tile.val) ((s.dev.streamOf o).xr o.s1.toNat).toNat
     ((s.dev.streamOf o).xr o.dst.toNat).toNat ((s.dev.streamOf o).xr o.s2.toNat).toNat [o.imm.toNat % 4096]) 0x44 o s d) ∧
    (∃ (o : StreamOp) (s : State) (d : Dev), (s.dev.tile o.tile.val).engineFull false = false ∧ (s.dev.tile o.tile.val).engineFull
     true = false ∧ Issues 0x45 o s ∧ Accepts (spillPlan s.dev (s.dev.tile o.tile.val) ((s.dev.streamOf o).xr o.dst.toNat).toNat
     ((s.dev.streamOf o).xr o.s1.toNat).toNat ((s.dev.streamOf o).xr o.s2.toNat).toNat [(readRoutes o).1, (readRoutes o).2]) 0x45 o
     s d) :=
  ⟨⟨(opOf 0), (running 0x40 (opOf 0) 256), (running 0x40 (opOf 0) 256).dev, by decide +kernel⟩,
    ⟨(opOf 0), (running 0x41 (opOf 0) 256), (running 0x41 (opOf 0) 256).dev, by decide +kernel⟩,
    ⟨(opOf 0), (running 0x42 (opOf 0) 256), (running 0x42 (opOf 0) 256).dev, by decide +kernel⟩,
    ⟨(opOf 0), (running 0x43 (opOf 0) 256), (running 0x43 (opOf 0) 256).dev, by decide +kernel⟩,
    ⟨(opOf 0), (running 0x44 (opOf 0) 256), (running 0x44 (opOf 0) 256).dev, by decide +kernel⟩,
    ⟨(opOf 0), (running 0x45 (opOf 0) 256), (running 0x45 (opOf 0) 256).dev, by decide +kernel⟩⟩

theorem witness_TileEventsComplete :
    (∃ (n : Fin 528) (s : State) (r : Nat) (servedA : Bool) (servedB : Bool), s.On ∧ s.dev.canal.aligned = true ∧ s.dev.canal.dwell
     = false ∧ s.dev.canal.slot < 1024 ∧ (s.dev.tile n.val).failed = false ∧ (s.dev.tile n.val).starting = false ∧ (s.dev.tile
     n.val).follower = false ∧ (s.dev.canal.flights.any fun f => decide (f.router = tileRouter n.val ∧ f.port = tilePort n.val ∧
     f.slot = s.dev.canal.slot)) = false ∧ slotRoute n.val s.dev = some r) ∧
    (∃ (n : Fin 528) (s : State) (x : Delivery) (d : Dev) (e : Dev), s.On ∧ takeInbox (unitKey (tileRouter n.val) (tilePort n.val))
     (fun x => !windowRoute s.dev x.barge.route.toNat) s.dev = some (x, d) ∧ (d.tile n.val).failed = false ∧ (d.tile n.val).follower
     = false ∧ (d.tile n.val).logical ≠ none ∧ (d.tile n.val).landing = [] ∧ giveOp n.val x.barge (d.modTile n.val fun t => t.count
     5 1) = some e) ∧
    (∃ (n : Fin 528) (s : State) (x : Delivery) (d : Dev), s.On ∧ takeInbox (unitKey (tileRouter n.val) (tilePort n.val)) (fun x =>
     !windowRoute s.dev x.barge.route.toNat) s.dev = some (x, d) ∧ (d.tile n.val).failed = false ∧ (d.tile n.val).follower = false ∧
     (d.tile n.val).logical ≠ none ∧ giveOp n.val x.barge (d.modTile n.val fun t => t.count 5 1) = none ∧ (d.tile n.val).landing =
     []) ∧
    (∃ (n : Fin 528) (s : State) (x : Delivery) (d : Dev) (a : Nat) (len : Nat) (op : Nat) (resp : Nat) (operation : Word), s.On ∧
     takeInbox (unitKey (tileRouter n.val) (tilePort n.val)) (fun x => windowRoute s.dev x.barge.route.toNat) s.dev = some (x, d) ∧
     (d.tile n.val).follower = false ∧ (d.tile n.val).windowWrites = [] ∧ (d.tile n.val).logical ≠ none ∧ commandFields x.barge.body
     = (a, len, op, resp, operation, true) ∧ op = 1 ∧ 0 < len ∧ len ≤ 2097152 ∧ x.barge.kind = 1 ∧ x.barge.last = false ∧ (d.tile
     n.val).failed = false ∧ (∃ off, place (d.modTile n.val fun t => t.count 5 1) a = .basin n.val off ∧ off + len ≤ 0x200000)) ∧
    (∃ (n : Fin 528) (s : State) (m : Nat), s.On ∧ (s.dev.tile n.val).pair = some m ∧ (s.dev.tile n.val).follower = false ∧
     (s.dev.tile n.val).failed = false) ∧
    (∃ (n : Fin 528) (s : State) (m : Nat), s.On ∧ (s.dev.tile n.val).pair = some m ∧ (s.dev.tile n.val).follower = false ∧
     (s.dev.tile n.val).failed = false) ∧
    (∃ (n : Fin 528) (s : State) (i : Fin 4) (pc : Fin 4096), s.On ∧ (s.dev.tile n.val).logical ≠ none ∧ (s.dev.tile n.val).failed =
     false) ∧
    (∃ (n : Fin 528) (s : State) (i : Fin 4) (st : Stream) (pc : BitVec 12), s.On ∧ st = (s.dev.tile n.val).stream i.val ∧ st.state
     = 2 ∧ (st.wait = .engine ∧ pc = st.pc ∨ (st.wait = .fence ∨ ∃ b, st.wait = .event b) ∧ pc = st.pc - 1) ∧ st.waitSince + 1 +
     (s.dev.policy 0x506 1).param = s.dev.canal.lockage ∧ s.dev.canal.slot = 0 ∧ s.dev.canal.dwell = false) ∧
    (∃ (n : Fin 528) (s : State), s.On ∧ (s.dev.tile n.val).starting = true) ∧
    (∃ (n : Fin 528) (i : Fin 4) (w : Word) (s : State), s.On ∧ canIssue n.val i.val w s.dev = true ∧ undefinedWord w = true) :=
  ⟨⟨0, (under { programs := [[{ router := 0, slot := 1023, output := 3, source := (recordPort full.dev 0 0), route := 5 }]] } fun d => d.modCanal fun c => { c with aligned := true, slot := 1023 }), 5, by decide +kernel⟩,
    ⟨527, (at_ fun d => ((d.modCanal fun c => { c with inbox := [(unitKey (tileRouter 527) (tilePort 527), [{ barge := { kind := 1, route := 5, last := true, body := List.replicate 256 1 } }])] }).modTile 527 fun t => { t with logical := some 2, recvs := [{ route := 5, length := 256 }] })), { barge := { kind := 1, route := 5, last := true, body := List.replicate 256 1 } }, ((at_ fun d => ((d.modCanal fun c => { c with inbox := [(unitKey (tileRouter 527) (tilePort 527), [{ barge := { kind := 1, route := 5, last := true, body := List.replicate 256 1 } }])] }).modTile 527 fun t => { t with logical := some 2, recvs := [{ route := 5, length := 256 }] })).dev.modCanal fun c => { c with inbox := tmod [] c.inbox (unitKey (tileRouter 527) (tilePort 527)) fun l => l.erase ({ barge := { kind := 1, route := 5, last := true, body := List.replicate 256 1 } }) }), _, and6 (by decide +kernel) rfl⟩,
    ⟨527, (at_ fun d => ((d.modCanal fun c => { c with inbox := [(unitKey (tileRouter 527) (tilePort 527), [{ barge := { kind := 1, route := 5, last := true, body := List.replicate 256 1 } }])] }).modTile 527 fun t => { t with logical := some 2 })), { barge := { kind := 1, route := 5, last := true, body := List.replicate 256 1 } }, ((at_ fun d => ((d.modCanal fun c => { c with inbox := [(unitKey (tileRouter 527) (tilePort 527), [{ barge := { kind := 1, route := 5, last := true, body := List.replicate 256 1 } }])] }).modTile 527 fun t => { t with logical := some 2 })).dev.modCanal fun c => { c with inbox := tmod [] c.inbox (unitKey (tileRouter 527) (tilePort 527)) fun l => l.erase ({ barge := { kind := 1, route := 5, last := true, body := List.replicate 256 1 } }) }), by decide +kernel⟩,
    ⟨527, (at_ fun d => (((d.modCanal fun c => { c with inbox := [(unitKey (tileRouter 527) (tilePort 527), [{ barge := { kind := 1, route := 7, body := (leBytes 8 basinBase ++ leBytes 4 64 ++ [1, 0] ++ leBytes 2 9 ++ leBytes 8 77 ++ List.replicate 232 0) } }])] }).modTile 527 fun t => { t with logical := some 0 }).modLock 34 fun k => { k with routeMap := [(0x100, 7)] })), { barge := { kind := 1, route := 7, body := (leBytes 8 basinBase ++ leBytes 4 64 ++ [1, 0] ++ leBytes 2 9 ++ leBytes 8 77 ++ List.replicate 232 0) } }, ((at_ fun d => (((d.modCanal fun c => { c with inbox := [(unitKey (tileRouter 527) (tilePort 527), [{ barge := { kind := 1, route := 7, body := (leBytes 8 basinBase ++ leBytes 4 64 ++ [1, 0] ++ leBytes 2 9 ++ leBytes 8 77 ++ List.replicate 232 0) } }])] }).modTile 527 fun t => { t with logical := some 0 }).modLock 34 fun k => { k with routeMap := [(0x100, 7)] })).dev.modCanal fun c => { c with inbox := tmod [] c.inbox (unitKey (tileRouter 527) (tilePort 527)) fun l => l.erase ({ barge := { kind := 1, route := 7, body := (leBytes 8 basinBase ++ leBytes 4 64 ++ [1, 0] ++ leBytes 2 9 ++ leBytes 8 77 ++ List.replicate 232 0) } }) }), basinBase, 64, 1, 9, 77, and9 (by decide +kernel) (and3 (by decide +kernel) ⟨0, by decide +kernel⟩)⟩,
    ⟨527, (at_ fun d => d.modTile 527 fun t => { t with pair := some 500 }), 500, by decide +kernel⟩,
    ⟨527, (at_ fun d => d.modTile 527 fun t => { t with pair := some 500 }), 500, by decide +kernel⟩,
    ⟨527, (at_ fun d => d.modTile 527 fun t => { t with logical := some 511 }), 3, 4095, by decide +kernel⟩,
    ⟨527, (at_ fun d => (d.modTile 527 fun t => { t with streams := [(3, { state := 2, wait := .engine })] }).modCanal fun c => { c with lockage := 1 }), 3, { state := 2, wait := .engine }, 0, and2 (by decide +kernel) ⟨rfl, Or.inl ⟨rfl, rfl⟩, by decide +kernel⟩⟩,
    ⟨527, (at_ fun d => d.modTile 527 fun t => { t with starting := true }), by decide +kernel⟩,
    ⟨527, 3, 0xFF, (at_ fun d => ((d.modCanal fun c => { c with aligned := true }).modTile 527 fun t => { t with logical := some 5, ops := [(0, 0xFF)], streams := [(3, { state := 1 })] })), by decide +kernel⟩⟩

theorem witness_TileCommandsComplete :
    (∃ (c : Cmd) (s : State) (tile : Nat), Serves { i3c := true } c s ∧ tile < 528 ∧ notMine c.src.val tile s.dev = false ∧
     s.dev.restarting (3 + tile / 33) = false) ∧
    (∃ (c : Cmd) (s : State) (logical : Nat) (mask : Nat) (n : Nat), Serves { block := some 5 } c s ∧ s.dev.leaderOf logical = some
     n ∧ mask < 16 ∧ notMine c.src.val n s.dev = false ∧ s.dev.restarting (3 + n / 33) = false ∧ (∀ i, i < 4 → bit mask i = true →
     ((s.dev.tile n).stream i).state ≠ 1 ∧ ((s.dev.tile n).stream i).state ≠ 2)) ∧
    (∃ (c : Cmd) (s : State) (logical : Nat) (first : Nat) (count : Nat) (n : Nat), Serves {} c s ∧ s.dev.leaderOf logical = some n
     ∧ 0 < count ∧ count ≤ 64 ∧ first + count ≤ 4096 ∧ notMine c.src.val n s.dev = false ∧ s.dev.restarting (3 + n / 33) = false) ∧
    (∃ (c : Cmd) (s : State), Serves { i3c := true } c s) ∧
    (∃ (c : Cmd) (s : State), Serves {} c s) :=
  ⟨⟨cmd, full, 527, by decide +kernel⟩,
    ⟨cmd, (at_ fun d => d.modTile 527 fun t => { t with logical := some 511 }), 511, 15, 527, by decide +kernel⟩,
    ⟨cmd, (at_ fun d => d.modTile 527 fun t => { t with logical := some 511 }), 511, 4095, 1, 527, by decide +kernel⟩,
    ⟨cmd, full, by decide +kernel⟩,
    ⟨cmd, full, by decide +kernel⟩⟩

theorem witness_RingComplete :
    (∃ (k : Fin 4) (s : State), s.On ∧ (s.dev.link k.val).state = 2 ∧ (s.dev.link k.val).missed < 2 ∧ (s.dev.link k.val).nextDue +
     10000 + (s.dev.link k.val).cellLatency ≤ s.dev.beat) ∧
    (∃ (k : Fin 4) (s : State) (h : Heartbeat) (due : Nat) (e : Dev), s.On ∧ h.bad = false ∧ h.fec = 0 ∧ (s.dev.link k.val).state =
     2 ∧ e = h.grants.foldl (fun d ty => d.onLane (CellLane.grant k.val ty)) s.dev ∧ e.ring.root = true ∧ due = heartbeatDue h e ∧
     (e.ring.ready = true → (s.dev.link k.val).nextDue ≤ due ∧ e.beat < due + 10000 + (s.dev.link k.val).cellLatency)) ∧
    (∃ (k : Fin 4) (s : State), s.On) ∧
    (∃ (k : Fin 4) (s : State) (id : BitVec 20) (hops : Nat), s.On ∧ (s.dev.ring.ready = true ∨ tget [] s.dev.ring.taken (linkRing
     k.val) = []) ∧ id.toNat < s.dev.deviceId ∧ tget 0 s.dev.ring.lowest (linkRing k.val) = 0 ∧ linkUp s.dev (linkRing k.val) =
     true) ∧
    (∃ (k : Fin 4) (s : State) (id : BitVec 20) (hops : Nat), s.On ∧ (s.dev.ring.ready = true ∨ tget [] s.dev.ring.taken (linkRing
     k.val) = []) ∧ id.toNat = s.dev.deviceId) ∧
    (∃ (k : Fin 4) (s : State) (ids : List (BitVec 20)) (lows : List (BitVec 20)) (hops : Nat), s.On ∧ BitVec.ofNat 20
     s.dev.deviceId ∈ ids ∧ tget [] s.dev.ring.taken (linkRing k.val) ≠ ids) ∧
    (∃ (k : Fin 4) (s : State) (ids : List (BitVec 20)) (lows : List (BitVec 20)) (hops : Nat), s.On ∧ BitVec.ofNat 20
     s.dev.deviceId ∉ ids ∧ linkUp s.dev (linkRing k.val) = true) ∧
    (∃ (k : Fin 4) (s : State) (p : Nat) (ids : List (BitVec 20)) (hops : Nat), s.On ∧ s.dev.ring.root = true) ∧
    (∃ (k : Fin 4) (s : State) (p : Nat) (ids : List (BitVec 20)) (hops : Nat), s.On ∧ s.dev.ring.root = true) ∧
    (∃ (k : Fin 4) (s : State) (a : Nat) (low : Nat) (L : Nat) (hops : Nat) (origin : BitVec 20) (x : Nat × Alternate) (d : Dev),
     s.On ∧ (linkRing k.val, low, L) ∉ s.dev.ring.noticed ∧ d = sendCell (otherLink k.val) 4 (linkRing k.val) (hops + 1)
     origin.toNat (leBytes 8 a ++ leBytes 8 low ++ leBytes 8 L) (s.dev.modRing fun r =>
     { r with noticed := r.noticed ++ [(linkRing k.val, low, L)] }) ∧ d.alternates[a]? = some x ∧ x.2.kind = 1 ∧ d.canal.lockage <
     L) ∧
    (∃ (k : Fin 4) (s : State) (c : FaultCell), s.On ∧ c.update = true ∧ s.dev.ring.root = true) ∧
    (∃ (k : Fin 4) (s : State) (c : FaultCell), s.On ∧ c.update = false) ∧
    (∃ (s : State) (id : Word) (e : CoalEntry), s.On ∧ (s.dev.rel.coal.find? fun e => e.identity == id) = some e ∧ e.forwarded =
     none ∧ e.since + 5000 ≤ s.dev.uptime) ∧
    (∃ (s : State) (id : Word) (e : CoalEntry), s.On ∧ (s.dev.rel.coal.find? fun e => e.identity == id) = some e ∧ e.forwarded =
     some e.count ∧ e.since + 10000000 ≤ s.dev.uptime) ∧
    (∃ (k : Fin 4) (s : State) (origin : BitVec 20) (hops : Nat) (b : Bcast), s.On ∧ Bcast.isReport b = true ∧ s.dev.ring.root =
     true ∧ s.dev.restarting 2 = false) ∧
    (∃ (k : Fin 4) (s : State) (h : Heartbeat), s.On ∧ h.bad = true ∧ (s.dev.link k.val).state = 2) ∧
    (∃ (s : State) (k : Fin 4) (t : Training), s.On ∧ (tget {} s.dev.ring.pairs (linkRing k.val)).open_ = true ∧ s.dev.ring.ready =
     true ∧ t.ok = true ∧ t.bypasses < 2 ∧ t.barge ≤ 300 ∧ t.cell ≤ (if t.bypasses = 1 then 100 else 50)) ∧
    (∃ (s : State) (p : Fin 2) (cause : Nat), s.On ∧ holdCause s.dev p.val = some cause ∧ (tget {} s.dev.ring.pairs p.val).open_ =
     true) ∧
    (∃ (s : State) (p : Fin 2), s.On ∧ (tget {} s.dev.ring.pairs p.val).closing = true) ∧
    (∃ (s : State), s.On ∧ s.dev.ring.root = true ∧ (s.dev.time.source = 1 ∨ s.dev.time.source = 2)) ∧
    (∃ (s : State) (d : Dev), s.On ∧ d = { s.dev with fresh := s.dev.fresh + 1 } ∧ (s.dev.ring.root = false ∨ s.dev.time.secondKnown =
     false)) ∧
    (∃ (s : State) (x : Int) (d : Dev), s.On ∧ d = { s.dev with fresh := s.dev.fresh + 1 } ∧ s.dev.ring.root = true ∧ s.dev.time.secondKnown = true ∧ x = stampOf s.dev.time.ns
     s.dev.time.frac % (1000000000 * 4294967296)) ∧
    (∃ (s : State) (o : Fin 4), s.On ∧ tget 0 s.dev.time.pps o.val = 1 ∧ s.dev.time.state = 2 ∧ tget 0 s.dev.time.ppsHigh o.val = 0
     ∧ s.dev.time.ns.toNat % 1000000000 = 0) ∧
    (∃ (s : State) (o : Fin 4), s.On ∧ tget 0 s.dev.time.pps o.val = 1 ∧ s.dev.time.state = 2 ∧ tget 0 s.dev.time.ppsHigh o.val ≠ 0
     ∧ tget 0 s.dev.time.ppsHigh o.val - 1 + 100000000 ≤ s.dev.time.ns.toNat) ∧
    (∃ (s : State) (o : Fin 4), s.On ∧ tget 0 s.dev.time.pps o.val = 2 ∧ s.dev.time.state = 2 ∧ tget 0 s.dev.time.ppsHigh o.val = 0
     ∧ s.dev.canal.aligned = true ∧ s.dev.canal.slot = 0 ∧ isStepStart s.dev s.dev.canal.lockage = true) ∧
    (∃ (c : Cmd) (s : State), Serves { i3c := true } c s) ∧
    (∃ (c : Cmd) (s : State) (k : Nat), Serves { i3c := true } c s ∧ k < 4) ∧
    (∃ (c : Cmd) (s : State) (p : Nat), Serves { block := some 12 } c s ∧ p < 2) ∧
    (∃ (c : Cmd) (s : State), Serves { i3c := true } c s) ∧
    (∃ (c : Cmd) (s : State) (ns : Word), Serves { block := some 12 } c s ∧ s.dev.ring.root = true ∧ s.dev.canal.aligned = false ∧
     s.dev.time.ns.toNat ≤ ns.toNat) ∧
    (∃ (c : Cmd) (s : State) (port : Nat) (role : Nat) (domain : Nat) (transport : Nat), Serves {} c s ∧ port < 8 ∧ role ≤ 2 ∧
     domain < 128 ∧ transport < 3 ∧ (role = 2 → s.dev.ring.root = true ∧ ∀ p, p < 8 → p ≠ port → (tget (0, 0, 0) s.dev.time.ptp p).1
     ≠ 2)) ∧
    (∃ (c : Cmd) (s : State) (output : Nat) (mode : Nat), Serves { block := some 12 } c s ∧ output < 4 ∧ mode < 3) :=
  ⟨⟨3, (at_ fun d => ({ d with uptime := 10000 }.modLink 3 fun l => { l with state := 2, missed := 1 })), by decide +kernel⟩,
    ⟨0, (upLink fun l => { l with nextDue := 100000 }), { time := 0, frac := 0, stamp := 0, stampFrac := 0, grants := [4] }, 100000, ((upLink fun l => { l with nextDue := 100000 }).dev.onLane (CellLane.grant 0 4)), by decide +kernel⟩,
    ⟨0, full, by decide +kernel⟩,
    ⟨0, (under { deviceId := 5 } fun d => d.modLink 0 fun l => { l with state := 2 }), 4, 1, by decide +kernel⟩,
    ⟨0, (upLink id), 0xFFFFF, 1, by decide +kernel⟩,
    ⟨3, full, [9, 0xFFFFF], [], 1, by decide +kernel⟩,
    ⟨0, (upLink id), [0xFFFFE, 9], [4, 9], 1, by decide +kernel⟩,
    ⟨3, (upLink id), 255, [0xFFFFE], 1, by decide +kernel⟩,
    ⟨3, (upLink id), 255, [0xFFFFE], 1, by decide +kernel⟩,
    ⟨0, (under detour id), 0, 1, 7, 0, 0, (0, { kind := 1 }), (sendCell (otherLink 0) 4 (linkRing 0) 1 0 (leBytes 8 0 ++ leBytes 8 1 ++ leBytes 8 7) ((under detour id).dev.modRing fun r => { r with noticed := r.noticed ++ [(linkRing 0, 1, 7)] })), by decide +kernel⟩,
    ⟨0, (upLink id), cell0, by decide +kernel⟩,
    ⟨0, full, { cell0 with update := false }, by decide +kernel⟩,
    ⟨(at_ fun d => { d with uptime := 5000 }.modRel fun m => { m with coal := [coal0] }), 1, coal0, by decide +kernel⟩,
    ⟨(at_ fun d => { d with uptime := 10000000 }.modRel fun m => { m with coal := [{ coal0 with forwarded := some 1 }] }), 1, { coal0 with forwarded := some 1 }, by decide +kernel⟩,
    ⟨0, (upLink id), 0, 0, (.demand 1024), by decide +kernel⟩,
    ⟨0, (upLink id), { time := 0, frac := 0, stamp := 0, stampFrac := 0, bad := true, fec := 3 }, by decide +kernel⟩,
    ⟨(opened fun r => { r with ready := true }), 0, { ok := true, barge := 300, cell := 100, bypasses := 1, peer := 0, asym := 0 }, by decide +kernel⟩,
    ⟨(opened id), 0, 1, by decide +kernel⟩,
    ⟨(at_ fun d => d.modRing fun r => { r with pairs := [(1, { closing := true })] }), 1, by decide +kernel⟩,
    ⟨(at_ fun d => (d.modRing fun r => { r with root := true }).modTime fun t => { t with source := 1 }), by decide +kernel⟩,
    ⟨full, { full.dev with fresh := full.dev.fresh + 1 }, by decide +kernel⟩,
    ⟨((upLink id).withDev ((upLink id).dev.modTime fun t => { t with secondKnown := true, ns := 1999999999 })), 999999999 * 4294967296, _, by decide +kernel, rfl, by decide +kernel⟩,
    ⟨(at_ fun d => d.modTime fun t => { t with pps := [(3, 1)], state := 2 }), 3, by decide +kernel⟩,
    ⟨(at_ fun d => d.modTime fun t => { t with pps := [(3, 1)], ppsHigh := [(3, 1)], state := 2, ns := 100000000 }), 3, by decide +kernel⟩,
    ⟨(at_ fun d => (d.modTime fun t => { t with pps := [(3, 2)], state := 2 }).modCanal fun c => { c with aligned := true }), 3, by decide +kernel⟩,
    ⟨cmd, full, by decide +kernel⟩,
    ⟨cmd, full, 3, by decide +kernel⟩,
    ⟨cmd, full, 1, by decide +kernel⟩,
    ⟨cmd, full, by decide +kernel⟩,
    ⟨cmd, (at_ fun d => d.modRing fun r => { r with root := true }), 0, by decide +kernel⟩,
    ⟨cmd, (upLink id), 7, 2, 127, 2, by decide +kernel⟩,
    ⟨cmd, full, 3, 2, by decide +kernel⟩⟩

theorem witness_PortAndDmaComplete :
    (∃ (s : State) (p : Fin 12) (second : Bool) (a : Nat) (n : Nat) (tag : Nat) (x : Translated) (id : Nat) (d : Dev), s.On ∧
     (s.dev.port p.val).up = true ∧ (s.dev.port p.val).busMaster = true ∧ a < 2 ^ 47 ∧ throughTable (inboundTable s.dev p.val) a n
     false = some x ∧ outsideSpan s.dev false x.addr n = true ∧ inFailed s.dev x.addr n = false ∧ lockArrive (portLock p.val second)
     x.inst (some (orderKey (2 + p.val) 0)) false (.read x.addr n 0) s.dev = (.waits id, d)) ∧
    (∃ (s : State) (p : Fin 12) (second : Bool) (poison : Bool) (relaxed : Bool) (a : Nat) (bs : Bytes) (x : Translated) (id : Nat)
     (d : Dev), s.On ∧ (s.dev.port p.val).up = true ∧ (s.dev.port p.val).busMaster = true ∧ a < 2 ^ 47 ∧ throughTable (inboundTable
     s.dev p.val) a bs.length true = some x ∧ outsideSpan s.dev false x.addr bs.length = true ∧ inFailed s.dev x.addr bs.length =
     false ∧ lockArrive (portLock p.val second) x.inst (some (orderKey (2 + p.val) 0)) (relaxed && !x.strict) (.write x.addr bs
     poison 0) s.dev = (.waits id, d)) ∧
    (∃ (s : State) (p : Fin 12), s.On ∧ s.dev.time.locked = true) ∧
    (∃ (s : State) (p : Fin 12), s.On ∧ (s.dev.port p.val).up = true) ∧
    (∃ (s : State) (p : Fin 12) (speed : Nat) (width : Nat), s.On ∧ width ∈ (if p.val < 8 then [4, 8, 16] else [4]) ∧ 1 ≤ speed ∧
     speed ≤ 6) ∧
    (∃ (s : State) (p : Fin 12) (severity : Fin 3) (requester : BitVec 16), s.On) ∧
    (∃ (s : State) (p : Fin 12) (tag : Nat) (t : Tag), s.On ∧ ((portTags s.dev (2 + p.val)).find? fun t => t.tag = tag) = some t ∧
     t.since + 50000000 ≤ s.dev.uptime ∧ t.gen = ((freeTag (2 + p.val) tag s.dev).inst t.inst).gen) ∧
    (∃ (s : State) (ch : Fin 256), s.On ∧ (s.dev.dmaCh ch.val).disabling = true ∧ (s.dev.dmaCh ch.val).work = none) ∧
    (∃ (s : State) (ch : Fin 256), s.On ∧ (s.dev.dmaCh ch.val).stopping = true ∧ (s.dev.dmaCh ch.val).work = none) ∧
    (∃ (s : State) (ch : Fin 256) (tag : Fin 16384) (x : DmaCh) (r : (Bytes × Bool) × Dev), s.On ∧ x = s.dev.dmaCh ch.val ∧ x.state = 2 ∧ x.work =
     none ∧ x.head ≠ x.tail ∧ x.fetching = none ∧ dmaMayRun s.dev ch.val = true ∧ x.ringSpace = 0 ∧ memRead 0 (x.ringBase + 64 *
     x.head) 64 s.dev = r) ∧
    (∃ (s : State) (ch : Fin 256) (tag : Fin 16384) (x : DmaCh) (d : Dev), s.On ∧ x = s.dev.dmaCh ch.val ∧ x.state = 2 ∧ x.work = none ∧ x.head ≠
     x.tail ∧ x.fetching = none ∧ dmaMayRun s.dev ch.val = true ∧ x.ringSpace ≠ 0 ∧ x.fetched = none ∧ issueRead
     { port := homeOf s.dev x.inst, tag := tag.val, inst := x.inst, addr := x.ringBase + 64 * x.head, length := 64, work := .descriptor ch.val s.dev.acc.nextWork }
     (nextWork s.dev).2 = some d) ∧
    (∃ (s : State) (ch : Fin 256) (tag : Fin 16384) (x : DmaCh) (bs : Bytes) (w : DmaWork), s.On ∧ x = s.dev.dmaCh ch.val ∧ x.state = 2 ∧ x.work =
     none ∧ x.head ≠ x.tail ∧ x.fetching = none ∧ dmaMayRun s.dev ch.val = true ∧ x.ringSpace ≠ 0 ∧ x.fetched = some (some (bs,
     false)) ∧ w = { parseDescriptor bs x.head with number := s.dev.acc.nextWork } ∧ descriptorStatus s.dev x.inst bs w = 0 ∧
     w.srcSpace ≠ 0) ∧
    (∃ (s : State) (ch : Fin 256) (w : DmaWork) (d : Dev), s.On ∧ d = askFlush ch.val (dmaFlushWaiting ch.val s.dev) ∧ (d.dmaCh
     ch.val).work = some w ∧ recordReady d ch.val = true ∧ halfDue w = true) ∧
    (∃ (s : State) (ch : Fin 256) (w : DmaWork) (d : Dev), s.On ∧ d = askFlush ch.val (dmaFlushWaiting ch.val s.dev) ∧ (d.dmaCh
     ch.val).work = some w ∧ recordReady d ch.val = true ∧ halfDue w = false ∧ (if w.ended then w.total ≤ w.covered else w.length ≤
     w.visible)) ∧
    (∃ (c : Cmd) (s : State) (p : Nat), Serves { i3c := true } c s ∧ p < 12) ∧
    (∃ (c : Cmd) (s : State) (p : Nat) (entry : Nat) (v : BitVec 256), Serves {} c s ∧ p < 8 ∧ entry < 64 ∧ badWindow true v = false
     ∧ overlaps (s.dev.port p).windows entry v = false ∧ mayName c.src.val (Window.tag v) s.dev = true) ∧
    (∃ (c : Cmd) (s : State) (p : Nat) (entry : Nat) (addr : Nat) (k : Nat) (inst : Nat), Serves {} c s ∧ p < 8 ∧ entry < 16 ∧ 12 ≤
     k ∧ k ≤ 40 ∧ 2 ^ 47 ≤ addr ∧ addr + 2 ^ k ≤ 2 ^ 48 ∧ inst < 1024) ∧
    (∃ (c : Cmd) (s : State) (p : Nat) (fn : Nat) (offset : Nat) (v : W32) (answer : W32), Serves {} c s ∧ p < 8 ∧ fn < 8 ∧ offset <
     4096 ∧ offset % 4 = 0) ∧
    (∃ (c : Cmd) (s : State) (p : Nat) (fn : Nat) (offset : Nat) (v : W32) (answer : W32), Serves {} c s ∧ p < 8 ∧ fn < 8 ∧ offset <
     4096 ∧ offset % 4 = 0 ∧ (s.dev.port p).up = true) ∧
    (∃ (c : Cmd) (s : State) (doorbell : Nat) (space : Nat) (base : Nat) (n : Nat) (completions : Nat) (ch : Nat), Serves
     { vf := true, block := some 9 } c s ∧ senderChannel c doorbell s.dev = some ch ∧ space < 2 ∧ 4 ≤ n ∧ n ≤ 16 ∧ (s.dev.dmaCh
     ch).state ≠ 2 ∧ (s.dev.dmaCh ch).disabling = false ∧ (s.dev.dmaCh ch).stopping = false) ∧
    (∃ (c : Cmd) (s : State) (doorbell : Nat) (ch : Nat), Serves { vf := true, i3c := true } c s ∧ senderChannel c doorbell s.dev =
     some ch) :=
  ⟨⟨portUp, 0, false, 0, 64, 9, { inst := 0, addr := 0x20000, strict := false }, 0, (lockArrive 34 0 (some (orderKey 2 0)) false (.read 0x20000 64 0) portUp.dev).2, by decide +kernel⟩,
    ⟨portUp, 0, false, false, false, 0, [1], { inst := 0, addr := 0x20000, strict := false }, 0, (lockArrive 34 0 (some (orderKey 2 0)) false (.write 0x20000 [1] false 0) portUp.dev).2, by decide +kernel⟩,
    ⟨(at_ fun d => d.modTime fun t => { t with locked := true }), 11, by decide +kernel⟩,
    ⟨portUp, 0, by decide +kernel⟩,
    ⟨full, 11, 6, 4, by decide +kernel⟩,
    ⟨full, 11, 2, 0, by decide +kernel⟩,
    ⟨(at_ fun d => { d with uptime := 50000000 }.modHost fun h => { h with tags := [{ port := 2, tag := 1 }] }), 0, 1, { port := 2, tag := 1 }, by decide +kernel⟩,
    ⟨(dma fun x => { x with disabling := true }), 0, by decide +kernel⟩,
    ⟨(dma fun x => { x with stopping := true }), 0, by decide +kernel⟩,
    ⟨(dma fun x => { x with state := 2, tail := 1 }), 0, 0, _, _, by decide +kernel, rfl, and6 (by decide +kernel) rfl⟩,
    ⟨(dma fun x => { x with state := 2, tail := 1, ringSpace := 1 }), 0, 16383, { state := 2, tail := 1, ringSpace := 1 }, ((issueRead { port := 0, tag := 16383, length := 64, work := .descriptor 0 0 } (nextWork (dma fun x => { x with state := 2, tail := 1, ringSpace := 1 }).dev).2).getD {}), by decide +kernel⟩,
    ⟨(dma fun x => { x with state := 2, tail := 1, ringSpace := 1, fetched := some (some (desc0, false)) }), 0, 0, { state := 2, tail := 1, ringSpace := 1, fetched := some (some (desc0, false)) }, desc0, (parseDescriptor desc0 0), by decide +kernel⟩,
    ⟨(dma fun x => { x with state := 2, work := some work0 }), 0, (((askFlush 0 (dmaFlushWaiting 0 (dma fun x => { x with state := 2, work := some work0 }).dev)).dmaCh 0).work.getD {}), (askFlush 0 (dmaFlushWaiting 0 (dma fun x => { x with state := 2, work := some work0 }).dev)), by decide +kernel⟩,
    ⟨(dma fun x => { x with state := 2, work := some work1 }), 0, (((askFlush 0 (dmaFlushWaiting 0 (dma fun x => { x with state := 2, work := some work1 }).dev)).dmaCh 0).work.getD {}), (askFlush 0 (dmaFlushWaiting 0 (dma fun x => { x with state := 2, work := some work1 }).dev)), by decide +kernel⟩,
    ⟨cmd, full, 11, by decide +kernel⟩,
    ⟨cmd, full, 7, 63, win0, by decide +kernel⟩,
    ⟨cmd, full, 7, 15, (2 ^ 47), 40, 1023, by decide +kernel⟩,
    ⟨cmd, full, 7, 7, 4092, 1, 0, by decide +kernel⟩,
    ⟨cmd, portUp, 0, 7, 4092, 1, 5, by decide +kernel⟩,
    ⟨cmd, (at_ fun d => d.modInst 0 fun x => { x with dma := [255] }), 0, 1, 0, 16, 0, 255, by decide +kernel⟩,
    ⟨cmd, (at_ fun d => d.modInst 0 fun x => { x with dma := [255] }), 0, 255, by decide +kernel⟩⟩

theorem witness_SealerComplete :
    (∃ (lane : Fin 48) (user : Fin 3) (s : State) (j : SealJob), s.On ∧ j.aad.length ≤ 65536 ∧ j.text.length ≤ 16384 ∧ (s.dev.lane
     lane.val).mode = 1 ∧ (s.dev.lane lane.val).user = user.val ∧ j.parity = false) ∧
    (∃ (lane : Fin 48) (user : Fin 3) (s : State) (j : SealJob), s.On ∧ j.aad.length ≤ 65536 ∧ j.text.length ≤ 16384 ∧ (s.dev.lane
     lane.val).mode = 1 ∧ (s.dev.lane lane.val).user = user.val ∧ j.parity = true) ∧
    (∃ (lane : Fin 48) (user : Fin 3) (s : State) (j : SealJob) (tag : Bytes) (p : Bytes), s.On ∧ j.aad.length ≤ 65536 ∧
     j.text.length ≤ 16384 ∧ (s.dev.lane lane.val).mode = 1 ∧ (s.dev.lane lane.val).user = user.val ∧ j.parity = false ∧ gcmOpen
     (laneKey s.vault s.dev lane.val) (fit 12 j.iv) j.aad j.text (fit 16 tag) = some p) ∧
    (∃ (lane : Fin 48) (user : Fin 3) (s : State) (j : SealJob) (tag : Bytes), s.On ∧ j.aad.length ≤ 65536 ∧ j.text.length ≤ 16384 ∧
     (s.dev.lane lane.val).mode = 1 ∧ (s.dev.lane lane.val).user = user.val ∧ j.parity = false ∧ gcmOpen (laneKey s.vault s.dev
     lane.val) (fit 12 j.iv) j.aad j.text (fit 16 tag) = none) ∧
    (∃ (lane : Fin 48) (user : Fin 3) (s : State) (decrypt : Bool) (blocks : Bytes) (operation : Word), s.On ∧ blocks.length % 16 =
     0 ∧ blocks.length ≤ 16384 ∧ (s.dev.lane lane.val).mode = 2 ∧ (s.dev.lane lane.val).user = user.val) ∧
    (∃ (lane : Fin 48) (user : Fin 3) (s : State) (j : SealJob), s.On ∧ (s.dev.lane lane.val).user ≠ user.val) ∧
    (∃ (s : State) (b : Bytes), s.On ∧ s.dev.sec.jobGo = true ∧ sharedRange s.dev s.dev.sec.owner false s.dev.sec.jobAddr 64 = true
     ∧ b = (memRead 0 s.dev.sec.jobAddr 64 s.dev).1.1 ∧ jobRefused s.vault s.dev s.dev.sec.owner b = none ∧ jobWaits b s.dev = false
     ∧ fieldLe b 0 1 = 1) ∧
    (∃ (s : State) (b : Bytes), s.On ∧ s.dev.sec.jobGo = true ∧ sharedRange s.dev s.dev.sec.owner false s.dev.sec.jobAddr 64 = true
     ∧ b = (memRead 0 s.dev.sec.jobAddr 64 s.dev).1.1 ∧ jobRefused s.vault s.dev s.dev.sec.owner b = none ∧ jobWaits b s.dev = false
     ∧ fieldLe b 0 1 = 1) ∧
    (∃ (s : State) (b : Bytes), s.On ∧ s.dev.sec.jobGo = true ∧ sharedRange s.dev s.dev.sec.owner false s.dev.sec.jobAddr 64 = true
     ∧ b = (memRead 0 s.dev.sec.jobAddr 64 s.dev).1.1 ∧ jobRefused s.vault s.dev s.dev.sec.owner b = none ∧ jobWaits b s.dev = false
     ∧ fieldLe b 0 1 = 2) ∧
    (∃ (s : State) (b : Bytes), s.On ∧ s.dev.sec.jobGo = true ∧ sharedRange s.dev s.dev.sec.owner false s.dev.sec.jobAddr 64 = true
     ∧ b = (memRead 0 s.dev.sec.jobAddr 64 s.dev).1.1 ∧ jobRefused s.vault s.dev s.dev.sec.owner b = none ∧ jobWaits b s.dev = false
     ∧ fieldLe b 0 1 = 3) ∧
    (∃ (s : State) (b : Bytes), s.On ∧ s.dev.sec.jobGo = true ∧ sharedRange s.dev s.dev.sec.owner false s.dev.sec.jobAddr 64 = true
     ∧ b = (memRead 0 s.dev.sec.jobAddr 64 s.dev).1.1 ∧ jobRefused s.vault s.dev s.dev.sec.owner b = none ∧ jobWaits b s.dev = false
     ∧ fieldLe b 0 1 = 4) ∧
    (∃ (s : State) (r : Req), s.On ∧ r.val ≠ 0 ∧ s.dev.sec.owner = 0) ∧
    (∃ (s : State) (r : Req), s.On ∧ r.val ≠ 0 ∧ s.dev.sec.owner ≠ 0 ∧ s.dev.sec.owner ≠ r.val ∧ (s.dev.sec.claims.any fun c => c.1
     == r.val) = false) ∧
    (∃ (s : State) (r : Req), s.On ∧ r.val ≠ 0 ∧ s.dev.sec.owner = r.val) ∧
    (∃ (s : State), s.On ∧ s.dev.sec.owner ≠ 0 ∧ (s.dev.sec.claims.any fun c => decide (c.2 + 10000000 ≤ s.dev.uptime)) = true ∧
     s.dev.sec.jobs = [] ∧ (abortJob s.dev).sec.jobs = []) :=
  ⟨⟨47, 2, (laneState 1), seal0, by decide +kernel⟩,
    ⟨47, 2, (laneState 1), { seal0 with parity := true }, by decide +kernel⟩,
    ⟨47, 2, (laneState 1), seal0, (gcmTag (laneKey (laneState 1).vault (laneState 1).dev 47) (fit 12 [1]) [] []), (gcmCtr (laneKey (laneState 1).vault (laneState 1).dev 47) (fit 12 [1]) []), and6 (by decide +kernel) (tag_opens _ _ _ _ (by decide +kernel))⟩,
    (match tag_refused (laneKey (laneState 1).vault (laneState 1).dev 47) (fit 12 [1]) [] [] with | ⟨g, h⟩ => ⟨47, 2, laneState 1, seal0, g, and6 (by decide +kernel) h⟩),
    ⟨47, 2, (laneState 2), true, (List.replicate 16 3), 1, by decide +kernel⟩,
    ⟨47, 1, (laneState 1), seal0, by decide +kernel⟩,
    ⟨(jobStateAt 1), _, and3 (by decide +kernel) ⟨rfl, by decide +kernel⟩⟩,
    ⟨(jobStateAt 1), _, and3 (by decide +kernel) ⟨rfl, by decide +kernel⟩⟩,
    ⟨(jobStateAt 2), _, and3 (by decide +kernel) ⟨rfl, by decide +kernel⟩⟩,
    ⟨(jobStateAt 3), _, and3 (by decide +kernel) ⟨rfl, by decide +kernel⟩⟩,
    ⟨(jobStateAt 4), _, and3 (by decide +kernel) ⟨rfl, by decide +kernel⟩⟩,
    ⟨full, 20, by decide +kernel⟩,
    ⟨(at_ fun d => { d with uptime := 10000000 }.modSec fun x => { x with owner := 1 }), 20, by decide +kernel⟩,
    ⟨(at_ fun d => { d with uptime := 10000000 }.modSec fun x => { x with owner := 20 }), 20, by decide +kernel⟩,
    ⟨(at_ fun d => { d with uptime := 10000000 }.modSec fun x => { x with owner := 1, claims := [(2, 0)] }), by decide +kernel⟩⟩

theorem witness_EntropyComplete :
    (∃ (s : State) (p : Bool), s.On ∧ s.dev.sec.rng = 1 ∧ s.dev.sec.consecutive < 2) ∧
    (∃ (s : State), s.On ∧ s.dev.sec.rng = 2 ∧ s.dev.sec.testDue ≤ s.dev.uptime ∧ s.dev.sec.held = []) ∧
    (∃ (s : State), s.On ∧ s.dev.sec.rng = 2 ∧ s.dev.sec.testDue ≤ s.dev.uptime ∧ s.dev.sec.consecutive < 2) ∧
    (∃ (s : State) (r : EntropyReq), s.On ∧ s.dev.sec.held = [r] ∧ r.since + 10000000 ≤ s.dev.uptime) ∧
    (∃ (s : State), s.On ∧ s.dev.sec.rng = 1 ∧ (2 ^ 16 ≤ s.dev.sec.requests ∨ s.dev.sec.reseedAt + 1000000000 ≤ s.dev.uptime)) ∧
    (∃ (s : State) (u : Fin 49), s.On ∧ u.val < 48 ∧ s.dev.sec.rng = 1 ∧ 2 ^ 20 ≤ (s.dev.lane u.val).blocks) ∧
    (∃ (s : State) (b : Nat) (t : Nat), s.On ∧ tfind s.dev.expert.expiry b = some t ∧ t ≤ s.dev.uptime) ∧
    (∃ (s : State) (t : Nat), s.On ∧ s.dev.expert.secLockedUntil = some t ∧ t ≤ s.dev.uptime) ∧
    (∃ (s : State) (t : Nat), s.On ∧ s.dev.expert.lockedUntil = some t ∧ t ≤ s.dev.uptime) :=
  ⟨⟨(at_ fun d => { d with uptime := 10000000 }.modSec fun x => { x with rng := 1 }), true, by decide +kernel⟩,
    ⟨(at_ fun d => { d with uptime := 10000000 }.modSec fun x => { x with rng := 2 }), by decide +kernel⟩,
    ⟨(at_ fun d => { d with uptime := 10000000 }.modSec fun x => { x with rng := 2 }), by decide +kernel⟩,
    ⟨(at_ fun d => { d with uptime := 10000000 }.modSec fun x => { x with held := [{ arg := 5 }] }), { arg := 5 }, by decide +kernel⟩,
    ⟨(at_ fun d => { d with uptime := 10000000 }.modSec fun x => { x with rng := 1, requests := 65536 }), by decide +kernel⟩,
    ⟨(at_ fun d => (d.modLane 47 fun l => { l with blocks := 2 ^ 20 }).modSec fun x => { x with rng := 1 }), 47, by decide +kernel⟩,
    ⟨(at_ fun d => d.modExpert fun x => { x with expiry := [(18, 0)] }), 18, 0, by decide +kernel⟩,
    ⟨(at_ fun d => d.modExpert fun x => { x with secLockedUntil := some 0 }), 0, by decide +kernel⟩,
    ⟨(at_ fun d => d.modExpert fun x => { x with lockedUntil := some 0 }), 0, by decide +kernel⟩⟩

theorem witness_VaultCommandsComplete :
    (∃ (c : Cmd) (s : State) (level : Nat) (tag : Bytes) (d : Dev), Serves {} c s ∧ s.dev.restarting 0 = false ∧ level ≤ 3 ∧
     s.vault.lifecycle = 2 ∧ authorise s.vault 0x0F02 level tag s.dev = (none, d)) ∧
    (∃ (c : Cmd) (s : State) (tag : Bytes) (d : Dev), Serves {} c s ∧ s.dev.restarting 0 = false ∧ s.vault.lifecycle = 2 ∧ logClosed
     s.dev = false ∧ authorise s.vault 0x0F03 4 tag s.dev = (none, d)) ∧
    (∃ (c : Cmd) (s : State) (tag : Bytes) (d : Dev), Serves {} c s ∧ s.dev.restarting 0 = false ∧ s.dev.boot.imageVersion.toNat ≤
     64 ∧ s.vault.minVersion ≤ s.dev.boot.imageVersion.toNat ∧ authorise s.vault 0x0F04 0 tag s.dev = (none, d)) ∧
    (∃ (c : Cmd) (s : State) (target : Nat) (wrapping : Nat) (space : Nat) (address : Nat) (b : Bytes) (k : KeySlot), Serves {} c s
     ∧ s.dev.restarting 0 = false ∧ space ≤ 9 ∧ spaceMapped s.dev (actingPf c.src.val none s.dev) true space address 80 = true ∧
     unwrapKey s.vault s.dev target wrapping (if space = 0 then (memRead 0 address 80 s.dev).1.1 else fit 80 b) = .inr k ∧
     ledgerWorn s.dev = false) ∧
    (∃ (c : Cmd) (s : State) (slot : Nat) (tag : Bytes) (d : Dev), Serves {} c s ∧ 16 ≤ slot ∧ slot ≤ 255 ∧ slotUsed s.dev slot =
     false ∧ ledgerWorn s.dev = false ∧ authorise s.vault 0x0F06 slot tag s.dev = (none, d)) :=
  ⟨⟨cmd, (ownedDev 0x0F02), 3, (gcmTag (keyBytes (tget {} (ownedDev 0x0F02).vault.keys 16).key) (leBytes 12 5) (leBytes 2 0x0F02 ++ leBytes 4 3 ++ leBytes 4 (ownedDev 0x0F02).dev.deviceId ++ leBytes 8 9) []), (authorise (ownedDev 0x0F02).vault 0x0F02 3 (gcmTag (keyBytes (tget {} (ownedDev 0x0F02).vault.keys 16).key) (leBytes 12 5) (leBytes 2 0x0F02 ++ leBytes 4 3 ++ leBytes 4 (ownedDev 0x0F02).dev.deviceId ++ leBytes 8 9) []) (ownedDev 0x0F02).dev).2, and4 (by decide +kernel) (authorise_good _ _ _ _ { nonce := 5, counter := 9 } 16 _ rfl rfl rfl (by decide +kernel) (by decide +kernel) rfl (by decide +kernel))⟩,
    ⟨cmd, (ownedDev 0x0F03), (gcmTag (keyBytes (tget {} (ownedDev 0x0F03).vault.keys 16).key) (leBytes 12 5) (leBytes 2 0x0F03 ++ leBytes 4 4 ++ leBytes 4 (ownedDev 0x0F03).dev.deviceId ++ leBytes 8 9) []), (authorise (ownedDev 0x0F03).vault 0x0F03 4 (gcmTag (keyBytes (tget {} (ownedDev 0x0F03).vault.keys 16).key) (leBytes 12 5) (leBytes 2 0x0F03 ++ leBytes 4 4 ++ leBytes 4 (ownedDev 0x0F03).dev.deviceId ++ leBytes 8 9) []) (ownedDev 0x0F03).dev).2, and4 (by decide +kernel) (authorise_good _ _ _ _ { nonce := 5, counter := 9 } 16 _ rfl rfl rfl (by decide +kernel) (by decide +kernel) rfl (by decide +kernel))⟩,
    ⟨cmd, (ownedDev 0x0F04), (gcmTag (keyBytes (tget {} (ownedDev 0x0F04).vault.keys 16).key) (leBytes 12 5) (leBytes 2 0x0F04 ++ leBytes 4 0 ++ leBytes 4 (ownedDev 0x0F04).dev.deviceId ++ leBytes 8 9) []), (authorise (ownedDev 0x0F04).vault 0x0F04 0 (gcmTag (keyBytes (tget {} (ownedDev 0x0F04).vault.keys 16).key) (leBytes 12 5) (leBytes 2 0x0F04 ++ leBytes 4 0 ++ leBytes 4 (ownedDev 0x0F04).dev.deviceId ++ leBytes 8 9) []) (ownedDev 0x0F04).dev).2, and4 (by decide +kernel) (authorise_good _ _ _ _ { nonce := 5, counter := 9 } 16 _ rfl rfl rfl (by decide +kernel) (by decide +kernel) rfl (by decide +kernel))⟩,
    (match key_unwraps with | ⟨k, h⟩ => ⟨cmd, ownedDev 0, 255, 17, 1, 0, wrapHead ++ wrapTag, k, by decide +kernel, by decide +kernel, by decide +kernel, by decide +kernel, h, by decide +kernel⟩),
    ⟨cmd, (ownedDev 0x0F06), 255, (gcmTag (keyBytes (tget {} (ownedDev 0x0F06).vault.keys 16).key) (leBytes 12 5) (leBytes 2 0x0F06 ++ leBytes 4 255 ++ leBytes 4 (ownedDev 0x0F06).dev.deviceId ++ leBytes 8 9) []), (authorise (ownedDev 0x0F06).vault 0x0F06 255 (gcmTag (keyBytes (tget {} (ownedDev 0x0F06).vault.keys 16).key) (leBytes 12 5) (leBytes 2 0x0F06 ++ leBytes 4 255 ++ leBytes 4 (ownedDev 0x0F06).dev.deviceId ++ leBytes 8 9) []) (ownedDev 0x0F06).dev).2, and5 (by decide +kernel) (authorise_good _ _ _ _ { nonce := 5, counter := 9 } 16 _ rfl rfl rfl (by decide +kernel) (by decide +kernel) rfl (by decide +kernel))⟩⟩

theorem witness_SecurityCommandsComplete :
    (∃ (c : Cmd) (s : State), s.dev.restarting 0 = false ∧ Serves { reduced := true, i3c := true } c s) ∧
    (∃ (c : Cmd) (s : State) (code : Nat), s.dev.restarting 0 = false ∧ Serves { reduced := true } c s ∧ code ∈ authCommands ∧
     s.dev.sec.rng = 1) ∧
    (∃ (c : Cmd) (s : State) (slot : Nat), s.dev.restarting 0 = false ∧ Serves { i3c := true } c s ∧ slot ≤ 255 ∧ slot ≠ 1) ∧
    (∃ (c : Cmd) (s : State) (n : Nat), s.dev.restarting 0 = false ∧ Serves { vf := true, i3c := true } c s ∧ 0 < n ∧ n ≤ 256 ∧
     s.dev.sec.rng = 1) ∧
    (∃ (c : Cmd) (s : State) (n : Nat), s.dev.restarting 0 = false ∧ Serves { vf := true, i3c := true } c s ∧ 0 < n ∧ n ≤ 256 ∧
     s.dev.sec.rng ≠ 1 ∧ s.dev.sec.rng ≠ 3) ∧
    (∃ (c : Cmd) (s : State) (address : Nat) (r : Nat) (d : Dev), s.dev.restarting 0 = false ∧ Serves {} c s ∧ address % 64 = 0 ∧
     address < 2 ^ 48 ∧ r = reqOf s.dev c.src.val ∧ sharedRange s.dev r false address 64 = true ∧ (s.dev.sec.jobs.any fun j => j.1
     == r) = false ∧ d = s.dev.modSec (fun x => { x with jobs := x.jobs ++ [(r, address, c.src.val, c.seq)] }) ∧ s.dev.sec.owner =
     0) ∧
    (∃ (c : Cmd) (s : State) (address : Nat) (r : Nat) (d : Dev), s.dev.restarting 0 = false ∧ Serves {} c s ∧ address % 64 = 0 ∧
     address < 2 ^ 48 ∧ r = reqOf s.dev c.src.val ∧ sharedRange s.dev r false address 64 = true ∧ (s.dev.sec.jobs.any fun j => j.1
     == r) = false ∧ d = s.dev.modSec (fun x => { x with jobs := x.jobs ++ [(r, address, c.src.val, c.seq)] }) ∧ s.dev.sec.owner ≠ 0
     ∧ s.dev.sec.owner ≠ r) ∧
    (∃ (c : Cmd) (s : State) (b : Nat), s.dev.restarting 0 = false ∧ Serves {} c s ∧ b ≤ 18 ∧ neverUnlocked b = false ∧ letterX
     s.vault s.dev = true ∧ s.dev.sec.rng = 1) ∧
    (∃ (c : Cmd) (s : State) (b : Nat) (seconds : Nat) (tag : Bytes) (d : Dev), s.dev.restarting 0 = false ∧ Serves {} c s ∧ b ≤ 18
     ∧ 0 < seconds ∧ seconds ≤ 86400 ∧ neverUnlocked b = false ∧ letterX s.vault s.dev = true ∧ logClosed s.dev = false ∧
     authoriseUnlock s.vault b seconds tag s.dev = (none, d)) ∧
    (∃ (c : Cmd) (s : State) (b : Nat), s.dev.restarting 0 = false ∧ Serves {} c s ∧ b ≤ 18) :=
  ⟨⟨cmd, full, by decide +kernel⟩,
    ⟨cmd, (at_ fun d => { d with uptime := 10000000 }.modSec fun x => { x with rng := 1 }), 0x0F06, by decide +kernel⟩,
    ⟨cmd, full, 255, by decide +kernel⟩,
    ⟨cmd, (at_ fun d => { d with uptime := 10000000 }.modSec fun x => { x with rng := 1 }), 256, by decide +kernel⟩,
    ⟨cmd, (at_ fun d => d.modSec fun x => { x with rng := 2 }), 256, by decide +kernel⟩,
    ⟨cmd, sharedFs, 0x8000000, 1, _, and7 (by decide +kernel) ⟨rfl, by decide +kernel⟩⟩,
    ⟨cmd, (sharedFs.withDev (sharedFs.dev.modSec fun x => { x with owner := 20 })), 0x8000000, 1, _, and7 (by decide +kernel) ⟨rfl, by decide +kernel⟩⟩,
    ⟨cmd, { (ownedDev 0x0F02) with dev := (ownedDev 0x0F02).dev.modSec fun x => { x with rng := 1 } }, 18, by decide +kernel⟩,
    ⟨cmd, (ownedDev 0), 18, 86400, (gcmTag (keyBytes (tget {} (ownedDev 0).vault.keys 16).key) (leBytes 12 6) (leBytes 1 18 ++ leBytes 4 86400 ++ leBytes 4 (ownedDev 0).dev.deviceId ++ leBytes 8 10) []), (authoriseUnlock (ownedDev 0).vault 18 86400 (gcmTag (keyBytes (tget {} (ownedDev 0).vault.keys 16).key) (leBytes 12 6) (leBytes 1 18 ++ leBytes 4 86400 ++ leBytes 4 (ownedDev 0).dev.deviceId ++ leBytes 8 10) []) (ownedDev 0).dev).2, and8 (by decide +kernel) (unlock_good _ _ _ _ { nonce := 6, counter := 10 } 16 _ (by decide +kernel) rfl rfl (by decide +kernel) (by decide +kernel) rfl (by decide +kernel))⟩,
    ⟨cmd, full, 18, by decide +kernel⟩⟩

theorem witness_NetComplete :
    (∃ (s : State) (p : Fin 8) (frame : Bytes) (f : Bytes) (rs : RuleSet) (d : Dev) (e : Dev), s.On ∧ (s.dev.netPort p.val).up =
     true ∧ 64 ≤ frame.length ∧ frame.length ≤ 9216 ∧ f = frame.take (frame.length - 4) ∧ leBytes 4 (crc32 f).toNat = frame.drop
     (frame.length - 4) ∧ d = parserRun (p.val / 4) s.dev ∧ rs = (d.netHalf (p.val / 4)).active ∧ e = d.modHalf (p.val / 4) (fun x
     => { x with parser := x.parser ++ [(p.val, frame.length, framePasses rs p.val f)] }) ∧ 262144 < parserBytes d p.val +
     frame.length) ∧
    (∃ (s : State) (p : Fin 8) (frame : Bytes) (f : Bytes) (rs : RuleSet) (d : Dev) (e : Dev) (q : Nat) (rule : Nat) (hash : W32)
     (second : Bool), s.On ∧ (s.dev.netPort p.val).up = true ∧ 64 ≤ frame.length ∧ frame.length ≤ 9216 ∧ f = frame.take
     (frame.length - 4) ∧ leBytes 4 (crc32 f).toNat = frame.drop (frame.length - 4) ∧ d = parserRun (p.val / 4) s.dev ∧ rs =
     (d.netHalf (p.val / 4)).active ∧ e = d.modHalf (p.val / 4) (fun x =>
     { x with parser := x.parser ++ [(p.val, frame.length, framePasses rs p.val f)] }) ∧ parserBytes d p.val + frame.length ≤ 262144
     ∧ classifyFrame rs p.val f = .toQueue q rule hash second) ∧
    (∃ (s : State) (p : Fin 8) (frame : Bytes) (f : Bytes) (rs : RuleSet) (d : Dev) (e : Dev), s.On ∧ (s.dev.netPort p.val).up =
     true ∧ 64 ≤ frame.length ∧ frame.length ≤ 9216 ∧ f = frame.take (frame.length - 4) ∧ leBytes 4 (crc32 f).toNat = frame.drop
     (frame.length - 4) ∧ d = parserRun (p.val / 4) s.dev ∧ rs = (d.netHalf (p.val / 4)).active ∧ e = d.modHalf (p.val / 4) (fun x
     => { x with parser := x.parser ++ [(p.val, frame.length, framePasses rs p.val f)] }) ∧ parserBytes d p.val + frame.length ≤
     262144 ∧ classifyFrame rs p.val f = .toTransport ∧ (e.lock (ethLock p.val)).closed = false ∧ (e.lock (ethLock p.val)).room
     f.length = true) ∧
    (∃ (s : State) (p : Fin 8) (frame : Bytes) (f : Bytes) (rs : RuleSet) (d : Dev) (e : Dev), s.On ∧ (s.dev.netPort p.val).up =
     true ∧ 64 ≤ frame.length ∧ frame.length ≤ 9216 ∧ f = frame.take (frame.length - 4) ∧ leBytes 4 (crc32 f).toNat = frame.drop
     (frame.length - 4) ∧ d = parserRun (p.val / 4) s.dev ∧ rs = (d.netHalf (p.val / 4)).active ∧ e = d.modHalf (p.val / 4) (fun x
     => { x with parser := x.parser ++ [(p.val, frame.length, framePasses rs p.val f)] }) ∧ parserBytes d p.val + frame.length ≤
     262144 ∧ classifyFrame rs p.val f = .drop) ∧
    (∃ (s : State) (p : Fin 8) (frame : Bytes) (f : Bytes) (rs : RuleSet) (d : Dev) (e : Dev), s.On ∧ (s.dev.netPort p.val).up =
     true ∧ 64 ≤ frame.length ∧ frame.length ≤ 9216 ∧ f = frame.take (frame.length - 4) ∧ leBytes 4 (crc32 f).toNat = frame.drop
     (frame.length - 4) ∧ d = parserRun (p.val / 4) s.dev ∧ rs = (d.netHalf (p.val / 4)).active ∧ e = d.modHalf (p.val / 4) (fun x
     => { x with parser := x.parser ++ [(p.val, frame.length, framePasses rs p.val f)] }) ∧ parserBytes d p.val + frame.length ≤
     262144 ∧ classifyFrame rs p.val f = .recircLimit) ∧
    (∃ (s : State) (p : Fin 8) (frame : Bytes), s.On ∧ (s.dev.netPort p.val).up = true ∧ frame.length < 64) ∧
    (∃ (s : State) (q : Fin 16384) (r : RxPending) (rest : List RxPending) (d : Dev) (x : NetQueue), s.On ∧ d = dropLost q.val s.dev
     ∧ x = d.netQueue q.val ∧ x.rx = r :: rest ∧ tget 0 d.locks.delivered r.id ≠ 0 ∧ tget 0 d.locks.delivered r.id ≤ d.now + 1 ∧
     canWrite d (some (ethLock x.port)) (x.recordBase + 32 * (r.place % 2 ^ x.n)) 32 = true ∧ x.vector = 0xFFFF) ∧
    (∃ (s : State) (p : Fin 8) (time : BitVec 16), s.On ∧ time ≠ 0) ∧
    (∃ (s : State) (p : Fin 8) (i : Nat) (q : Nat) (t : Word) (u : Word) (f : EgressFrame) (rest : List EgressFrame), s.On ∧
     (s.dev.netPort p.val).up = true ∧ (s.dev.netPort p.val).pauseRx = none ∧ leastTag (instTags s.dev p.val) = some (i, t) ∧
     leastTag (queueTags s.dev p.val i) = some (q, u) ∧ (s.dev.netQueue q).frames = f :: rest) ∧
    (∃ (s : State), s.On ∧ s.dev.canal.aligned = true ∧ s.dev.canal.dwell = false ∧ s.dev.net.refillSlot ≠ s.dev.now / 256 + 1) ∧
    (∃ (s : State) (p : Fin 8) (base : Nat) (n : Nat) (period : Nat) (written : Nat) (number : Nat), s.On ∧ (s.dev.netPort
     p.val).sample = some (base, n, period, written, number) ∧ (s.dev.netPort p.val).sampleDue ≤ s.dev.canal.lockage ∧ canWrite
     s.dev (some (ethLock p.val)) base (32 * 2 ^ n) = true) ∧
    (∃ (s : State) (half : Bool) (src : Nat) (seq : W32), s.On ∧ (s.dev.netHalf (b2n half)).commit = some (src, seq)) ∧
    (∃ (s : State) (p : Fin 8), s.On ∧ (s.dev.netPort p.val).up = true) ∧
    (∃ (s : State) (p : Fin 8), s.On) ∧
    (∃ (c : Cmd) (s : State) (p : Nat), Serves { i3c := true } c s ∧ p < 8) ∧
    (∃ (c : Cmd) (s : State) (half : Nat) (profile : Nat) (entry : Nat) (v : W32), half < 2 ∧ (s.dev.netHalf half).commit = none ∧
     Serves {} c s ∧ profile < 4 ∧ entry < 16 ∧ badExtract (s.dev.netHalf half).shadow profile entry v = false) ∧
    (∃ (c : Cmd) (s : State) (half : Nat) (index : Nat) (rule : Bytes), half < 2 ∧ (s.dev.netHalf half).commit = none ∧ Serves {} c
     s ∧ index < 4100 ∧ badRule index rule = false ∧ ruleKind rule ≠ 0) ∧
    (∃ (c : Cmd) (s : State) (half : Nat) (table : Nat) (first : Nat) (queues : List (BitVec 16)), half < 2 ∧ (s.dev.netHalf
     half).commit = none ∧ Serves {} c s ∧ table < 64 ∧ queues ≠ [] ∧ first + queues.length ≤ 256 ∧ (queues.any fun q => decide
     (16384 ≤ q.toNat)) = false) ∧
    (∃ (c : Cmd) (s : State) (half : Nat), half < 2 ∧ (s.dev.netHalf half).commit = none ∧ Serves { block := some 10 } c s) ∧
    (∃ (c : Cmd) (s : State) (q : Nat) (i : Nat), Serves { vf := true, block := some 10 } c s ∧ q < 16384 ∧ queueOwner s.dev q =
     some i ∧ mayName c.src.val i s.dev = true ∧ (s.dev.netQueue q).frames = []) ∧
    (∃ (c : Cmd) (s : State) (q : Nat) (i : Nat) (x : NetQueue), Serves { vf := true, block := some 10 } c s ∧ q < 16384 ∧
     queueOwner s.dev q = some i ∧ mayName c.src.val i s.dev = true ∧ (s.dev.netQueue q).frames = [] ∧ badQueue x = false ∧
     queueMapped s.dev i x = true ∧ ((portQueues s.dev x.port).filter fun e => e.1 ≠ q).length < 2048 ∧ x =
     { port := x.port, n := x.n, bufSize := x.bufSize, bufBase := x.bufBase, recordBase := x.recordBase, headWord := x.headWord, vector := x.vector, weight := x.weight }) ∧
    (∃ (c : Cmd) (s : State) (i : Nat) (p : Nat) (rate : Nat) (burst : Nat), Serves { block := some 10 } c s ∧ rate ≤ 16777215 ∧
     9236 ≤ burst ∧ burst ≤ 16777215 ∧ i < 1024 ∧ p < 8 ∧ mayName c.src.val i s.dev = true) ∧
    (∃ (c : Cmd) (s : State) (p : Nat) (enable : Bool), Serves { block := some 10 } c s ∧ p < 8) ∧
    (∃ (c : Cmd) (s : State) (p : Nat) (base : Nat) (n : Nat) (period : Nat), Serves {} c s ∧ p < 8 ∧ 8 ≤ n ∧ n ≤ 20 ∧ 0 < period ∧
     period ≤ 65535 ∧ sampleMapped s.dev base (32 * 2 ^ n) = true) ∧
    (∃ (c : Cmd) (s : State) (q : Nat) (i : Nat), Serves { vf := true, i3c := true } c s ∧ q < 16384 ∧ queueOwner s.dev q = some i ∧
     mayName c.src.val i s.dev = true) :=
  ⟨⟨(netIs fun d => d.modHalf 1 fun h => { h with parser := [(7, 262144, 1)], parsedAt := 3000000 }), 7, frame64, _, _, _, _, and4 (by decide +kernel) ⟨rfl, by decide +kernel, rfl, rfl, rfl, by decide +kernel⟩⟩,
    ⟨ruled, 7, frame64, _, _, _, _, 16383, 4099, 0, false, and4 (by decide +kernel) ⟨rfl, by decide +kernel, rfl, rfl, rfl, by decide +kernel⟩⟩,
    ⟨((ruledBy 5).withDev ((ruledBy 5).dev.modLock 109 fun k => { k with size := 1024, described := true })), 7, frame64, _, _, _, _, and4 (by decide +kernel) ⟨rfl, by decide +kernel, rfl, rfl, rfl, by decide +kernel⟩⟩,
    ⟨(netIs id), 7, frame64, _, _, _, _, and4 (by decide +kernel) ⟨rfl, by decide +kernel, rfl, rfl, rfl, by decide +kernel⟩⟩,
    ⟨(ruledBy 4), 7, frame64, _, _, _, _, and4 (by decide +kernel) ⟨rfl, by decide +kernel, rfl, rfl, rfl, by decide +kernel⟩⟩,
    ⟨(netIs id), 7, (List.replicate 63 0), by decide +kernel⟩,
    ⟨rxWaits, 16383, { id := 4 }, [], _, _, by decide +kernel, rfl, rfl, by decide +kernel⟩,
    ⟨full, 7, 0xFFFF, by decide +kernel⟩,
    ⟨sending, 7, 0, 16383, ((leastTag (instTags sending.dev 7)).getD (0, 0)).2, ((leastTag (queueTags sending.dev 7 0)).getD (0, 0)).2, { bytes := List.replicate 60 0 }, [], by decide +kernel⟩,
    ⟨(at_ fun d => d.modCanal fun c => { c with aligned := true }), by decide +kernel⟩,
    ⟨(netIs fun (d : Dev) => (d.modNetPort 7 fun x => { x with sample := some (0, 8, 1, 0, 0) }).modCtl 0 fun c => { c with logical := some 0 }), 7, 0, 8, 1, 0, 0, by decide +kernel⟩,
    ⟨(netIs fun d => d.modHalf 1 fun h => { h with commit := some (0, 7) }), true, 0, 7, by decide +kernel⟩,
    ⟨(netIs id), 7, by decide +kernel⟩,
    ⟨full, 7, by decide +kernel⟩,
    ⟨cmd, full, 7, by decide +kernel⟩,
    ⟨cmd, full, 1, 3, 15, 0x20000, by decide +kernel⟩,
    ⟨cmd, full, 1, 4099, ruleTo, by decide +kernel⟩,
    ⟨cmd, full, 1, 63, 255, [16383], by decide +kernel⟩,
    ⟨cmd, full, 1, by decide +kernel⟩,
    ⟨cmd, (netIs id), 16383, 0, by decide +kernel⟩,
    ⟨cmd, (netIs fun d => d.modCtl 0 fun c => { c with logical := some 0 }), 16383, 0, { port := 7, n := 16, bufSize := 9216, bufBase := 0x80000000, recordBase := 0x70000000, headWord := 0x60000000, vector := 65535, weight := 65535 }, by decide +kernel⟩,
    ⟨{ src := 1, seq := 7 }, full, 1, 7, 16777215, 9236, by decide +kernel⟩,
    ⟨cmd, full, 7, true, by decide +kernel⟩,
    ⟨cmd, (netIs fun d => d.modCtl 0 fun c => { c with logical := some 0 }), 7, 0x80000000, 20, 65535, by decide +kernel⟩,
    ⟨cmd, (netIs id), 16383, 0, by decide +kernel⟩⟩

theorem witness_TransportEventsComplete :
    (∃ (s : State) (half : Bool) (e : Nat × Bytes) (p : Packet) (gone : Dev) (d : Dev), s.On ∧ (s.dev.tp.inbox.find? fun e => e.1 =
     b2n half) = some e ∧ gone = placePresent (s.dev.modTp fun t => { t with inbox := t.inbox.erase e }) ∧ openPacket s.vault e.2
     gone = .inl p ∧ (gone.conn p.conn).lane = none ∧ d = gone ∧ p.opcode = 1) ∧
    (∃ (s : State) (half : Bool) (e : Nat × Bytes) (p : Packet) (gone : Dev) (d : Dev), s.On ∧ (s.dev.tp.inbox.find? fun e => e.1 =
     b2n half) = some e ∧ gone = placePresent (s.dev.modTp fun t => { t with inbox := t.inbox.erase e }) ∧ openPacket s.vault e.2
     gone = .inl p ∧ (gone.conn p.conn).lane = none ∧ d = gone ∧ p.opcode = 2) ∧
    (∃ (s : State) (half : Bool) (e : Nat × Bytes) (p : Packet) (gone : Dev) (d : Dev), s.On ∧ (s.dev.tp.inbox.find? fun e => e.1 =
     b2n half) = some e ∧ gone = placePresent (s.dev.modTp fun t => { t with inbox := t.inbox.erase e }) ∧ openPacket s.vault e.2
     gone = .inl p ∧ (gone.conn p.conn).lane = none ∧ d = gone ∧ p.opcode = 3) ∧
    (∃ (s : State) (half : Bool) (e : Nat × Bytes) (p : Packet) (gone : Dev) (d : Dev), s.On ∧ (s.dev.tp.inbox.find? fun e => e.1 =
     b2n half) = some e ∧ gone = placePresent (s.dev.modTp fun t => { t with inbox := t.inbox.erase e }) ∧ openPacket s.vault e.2
     gone = .inl p ∧ (gone.conn p.conn).lane = none ∧ d = gone ∧ p.opcode = 4) ∧
    (∃ (s : State) (half : Bool) (e : Nat × Bytes) (p : Packet) (gone : Dev) (d : Dev), s.On ∧ (s.dev.tp.inbox.find? fun e => e.1 =
     b2n half) = some e ∧ gone = placePresent (s.dev.modTp fun t => { t with inbox := t.inbox.erase e }) ∧ openPacket s.vault e.2
     gone = .inl p ∧ (gone.conn p.conn).lane = none ∧ d = gone ∧ p.opcode = 5) ∧
    (∃ (s : State) (half : Bool) (e : Nat × Bytes) (p : Packet) (gone : Dev) (d : Dev), s.On ∧ (s.dev.tp.inbox.find? fun e => e.1 =
     b2n half) = some e ∧ gone = placePresent (s.dev.modTp fun t => { t with inbox := t.inbox.erase e }) ∧ openPacket s.vault e.2
     gone = .inl p ∧ (gone.conn p.conn).lane = none ∧ d = gone ∧ p.opcode = 6) ∧
    (∃ (s : State) (c : Fin 65536) (o : TxOp) (o' : TxOp), s.On ∧ (s.dev.tp.ops.find? fun o => decide (o.conn = c.val ∧ o.sent <
     o.packets)) = some o ∧ (s.dev.conn c.val).state = 1 ∧ psnGap (s.dev.conn c.val).next (s.dev.conn c.val).una < 4096 ∧ (o.kind ≠
     3 → o.sent = 0 → opsInFlight s.dev < 65536) ∧ o' =
     { o with firstPsn := if o.sent = 0 then (s.dev.conn c.val).next else o.firstPsn, sent := o.sent + 1 }) ∧
    (∃ (s : State) (c : Fin 65536) (t : Nat) (x : Conn), s.On ∧ s.dev.conn c.val = x ∧ x.state = 1 ∧ x.rtoDue = some t ∧ t ≤
     s.dev.clusterNs ∧ x.timerDue = none ∧ (x.una = x.next ∨ x.hold = true)) ∧
    (∃ (s : State) (c : Fin 65536) (t : Nat) (x : Conn) (top : Nat) (d : Dev), s.On ∧ s.dev.conn c.val = x ∧ x.state = 1 ∧ x.rtoDue
     = some t ∧ t ≤ s.dev.clusterNs ∧ x.timerDue = none ∧ x.una ≠ x.next ∧ x.hold = false ∧ top = x.sacked.foldl (fun m q => max m
     (psnGap q x.una)) 0 ∧ d = armRto c.val ((((inFlight x).filter fun p => p = x.una || (!x.sacked.contains p && decide (psnGap p
     x.una < top))).foldl (fun d p => resend s.vault c.val p d) s.dev).modConn c.val fun x =>
     { x with rto := min (2 * x.rto) 64000000, misses := x.misses + 1 }) ∧ (d.conn c.val).misses ≤ (d.conn c.val).retryLimit) ∧
    (∃ (s : State) (c : Fin 65536) (t : Nat) (x : Conn) (top : Nat) (d : Dev), s.On ∧ s.dev.conn c.val = x ∧ x.state = 1 ∧ x.rtoDue
     = some t ∧ t ≤ s.dev.clusterNs ∧ x.timerDue = none ∧ x.una ≠ x.next ∧ x.hold = false ∧ top = x.sacked.foldl (fun m q => max m
     (psnGap q x.una)) 0 ∧ d = armRto c.val ((((inFlight x).filter fun p => p = x.una || (!x.sacked.contains p && decide (psnGap p
     x.una < top))).foldl (fun d p => resend s.vault c.val p d) s.dev).modConn c.val fun x =>
     { x with rto := min (2 * x.rto) 64000000, misses := x.misses + 1 }) ∧ (d.conn c.val).retryLimit < (d.conn c.val).misses) ∧
    (∃ (s : State) (c : Fin 65536) (t : Nat) (m : Nat) (l : Nat) (r : Nat), s.On ∧ (s.dev.conn c.val).state = 1 ∧ (s.dev.conn
     c.val).rtoDue = some t ∧ t ≤ s.dev.clusterNs ∧ (s.dev.conn c.val).timerDue = some (m, l, r) ∧ (s.dev.conn c.val).una =
     (s.dev.conn c.val).next) ∧
    (∃ (s : State) (c : Fin 65536) (t : Nat), s.On ∧ (s.dev.conn c.val).state = 1 ∧ (s.dev.conn c.val).ackDue = some t ∧ t ≤
     s.dev.clusterNs) ∧
    (∃ (s : State) (c : Fin 65536) (p : W32) (t : Nat), s.On ∧ (s.dev.conn c.val).pageRetry = [(p, t)] ∧ t ≤ s.dev.clusterNs) ∧
    (∃ (s : State) (i : Nat) (x : Stalled), s.On ∧ s.dev.tp.stalled[i]? = some x ∧ stalledPresent s.dev x = false ∧ x.since +
     1000000 ≤ s.dev.clusterNs) ∧
    (∃ (s : State) (inst : Fin 1024) (i : Nat) (q : Nat) (v : Word), s.On ∧ txAt s.dev inst.val i = some q ∧ (s.dev.sendQ q).bound =
     true ∧ v.toNat % 65536 < 2 ^ (s.dev.sendQ q).n) ∧
    (∃ (s : State) (q : Fin 8192) (r : TxRecord) (d : Dev), s.On ∧ (s.dev.tp.records.find? fun r => r.queue = q.val) = some r ∧
     (s.dev.sendQ q.val).bound = true ∧ (s.dev.sendQ q.val).vector = 0xFFFF ∧ canWrite s.dev (some (tpLock (q.val / 4096)))
     ((s.dev.sendQ q.val).complBase + 32 * ((s.dev.sendQ q.val).records % 2 ^ (s.dev.sendQ q.val).n)) 32 = true ∧ d = ((s.dev.modTp
     fun t => { t with records := t.records.erase r }).modSendQ q.val fun x => { x with records := x.records + 1 })) ∧
    (∃ (s : State) (m : Nat) (src : Nat) (seq : W32), s.On ∧ (s.dev.mooring m).deregWait = some (src, seq) ∧ (s.dev.tp.conns.any fun
     e => e.2.readReqs.any fun r => r.2.2.2.2.toNat / 4096 = m) = false) ∧
    (∃ (q : Fin 8192) (tow : Bool) (w : WorkReq) (d : Dev) (s : State), s.On ∧ nextRequest q.val tow s.dev = some ((w, false), d) ∧
     w.bad = false ∧ fenced s.dev q.val w = false ∧ w.kind = 1) ∧
    (∃ (q : Fin 8192) (tow : Bool) (w : WorkReq) (d : Dev) (s : State), s.On ∧ nextRequest q.val tow s.dev = some ((w, false), d) ∧
     w.bad = false ∧ fenced s.dev q.val w = false ∧ w.kind = 2) ∧
    (∃ (q : Fin 8192) (tow : Bool) (w : WorkReq) (d : Dev) (s : State), s.On ∧ nextRequest q.val tow s.dev = some ((w, false), d) ∧
     w.bad = false ∧ fenced s.dev q.val w = false ∧ w.kind = 3) ∧
    (∃ (q : Fin 8192) (tow : Bool) (w : WorkReq) (d : Dev) (s : State), s.On ∧ nextRequest q.val tow s.dev = some ((w, false), d) ∧
     w.bad = false ∧ fenced s.dev q.val w = false ∧ w.kind = 4) ∧
    (∃ (q : Fin 8192) (tow : Bool) (w : WorkReq) (d : Dev) (s : State), s.On ∧ nextRequest q.val tow s.dev = some ((w, false), d) ∧
     w.bad = false ∧ fenced s.dev q.val w = false ∧ w.kind = 5) :=
  ⟨⟨(inTp 1 (List.replicate 20 0 ++ [7])), true, (1, inFrame 1 (List.replicate 20 0 ++ [7])), { opcode := 1, flags := 0, conn := 9, epoch := 2, psn := 0, src := 3, ext := List.replicate 20 0, payload := [7] }, ((inTp 1 (List.replicate 20 0 ++ [7])).dev.modTp (fun t => { t with inbox := t.inbox.erase (1, inFrame 1 (List.replicate 20 0 ++ [7])) })), ((inTp 1 (List.replicate 20 0 ++ [7])).dev.modTp (fun t => { t with inbox := t.inbox.erase (1, inFrame 1 (List.replicate 20 0 ++ [7])) })), and2 (by decide +kernel) ⟨rfl, and2 (by decide +kernel) ⟨rfl, by decide +kernel⟩⟩⟩,
    ⟨(inTp 2 (List.replicate 15 0 ++ [1, 0, 0, 0, 0] ++ [])), true, (1, inFrame 2 (List.replicate 15 0 ++ [1, 0, 0, 0, 0] ++ [])), { opcode := 2, flags := 0, conn := 9, epoch := 2, psn := 0, src := 3, ext := List.replicate 15 0 ++ [1, 0, 0, 0, 0], payload := [] }, ((inTp 2 (List.replicate 15 0 ++ [1, 0, 0, 0, 0] ++ [])).dev.modTp (fun t => { t with inbox := t.inbox.erase (1, inFrame 2 (List.replicate 15 0 ++ [1, 0, 0, 0, 0] ++ [])) })), ((inTp 2 (List.replicate 15 0 ++ [1, 0, 0, 0, 0] ++ [])).dev.modTp (fun t => { t with inbox := t.inbox.erase (1, inFrame 2 (List.replicate 15 0 ++ [1, 0, 0, 0, 0] ++ [])) })), and2 (by decide +kernel) ⟨rfl, and2 (by decide +kernel) ⟨rfl, by decide +kernel⟩⟩⟩,
    ⟨(inTp 3 (List.replicate 12 0 ++ [7])), true, (1, inFrame 3 (List.replicate 12 0 ++ [7])), { opcode := 3, flags := 0, conn := 9, epoch := 2, psn := 0, src := 3, ext := List.replicate 12 0, payload := [7] }, ((inTp 3 (List.replicate 12 0 ++ [7])).dev.modTp (fun t => { t with inbox := t.inbox.erase (1, inFrame 3 (List.replicate 12 0 ++ [7])) })), ((inTp 3 (List.replicate 12 0 ++ [7])).dev.modTp (fun t => { t with inbox := t.inbox.erase (1, inFrame 3 (List.replicate 12 0 ++ [7])) })), and2 (by decide +kernel) ⟨rfl, and2 (by decide +kernel) ⟨rfl, by decide +kernel⟩⟩⟩,
    ⟨(inTp 4 (List.replicate 16 0 ++ [])), true, (1, inFrame 4 (List.replicate 16 0 ++ [])), { opcode := 4, flags := 0, conn := 9, epoch := 2, psn := 0, src := 3, ext := List.replicate 16 0, payload := [] }, ((inTp 4 (List.replicate 16 0 ++ [])).dev.modTp (fun t => { t with inbox := t.inbox.erase (1, inFrame 4 (List.replicate 16 0 ++ [])) })), ((inTp 4 (List.replicate 16 0 ++ [])).dev.modTp (fun t => { t with inbox := t.inbox.erase (1, inFrame 4 (List.replicate 16 0 ++ [])) })), and2 (by decide +kernel) ⟨rfl, and2 (by decide +kernel) ⟨rfl, by decide +kernel⟩⟩⟩,
    ⟨(inTp 5 ([0, 0, 0, 0, 1, 0, 0, 0] ++ [])), true, (1, inFrame 5 ([0, 0, 0, 0, 1, 0, 0, 0] ++ [])), { opcode := 5, flags := 0, conn := 9, epoch := 2, psn := 0, src := 3, ext := [0, 0, 0, 0, 1, 0, 0, 0], payload := [] }, ((inTp 5 ([0, 0, 0, 0, 1, 0, 0, 0] ++ [])).dev.modTp (fun t => { t with inbox := t.inbox.erase (1, inFrame 5 ([0, 0, 0, 0, 1, 0, 0, 0] ++ [])) })), ((inTp 5 ([0, 0, 0, 0, 1, 0, 0, 0] ++ [])).dev.modTp (fun t => { t with inbox := t.inbox.erase (1, inFrame 5 ([0, 0, 0, 0, 1, 0, 0, 0] ++ [])) })), and2 (by decide +kernel) ⟨rfl, and2 (by decide +kernel) ⟨rfl, by decide +kernel⟩⟩⟩,
    ⟨(inTp 6 (List.replicate 4 0 ++ [])), true, (1, inFrame 6 (List.replicate 4 0 ++ [])), { opcode := 6, flags := 0, conn := 9, epoch := 2, psn := 0, src := 3, ext := List.replicate 4 0, payload := [] }, ((inTp 6 (List.replicate 4 0 ++ [])).dev.modTp (fun t => { t with inbox := t.inbox.erase (1, inFrame 6 (List.replicate 4 0 ++ [])) })), ((inTp 6 (List.replicate 4 0 ++ [])).dev.modTp (fun t => { t with inbox := t.inbox.erase (1, inFrame 6 (List.replicate 4 0 ++ [])) })), and2 (by decide +kernel) ⟨rfl, and2 (by decide +kernel) ⟨rfl, by decide +kernel⟩⟩⟩,
    ⟨(connIs { state := 1 } fun t => { t with ops := [{ kind := 1, conn := 65535, packets := 1 }] }), 65535, { kind := 1, conn := 65535, packets := 1 }, { kind := 1, conn := 65535, packets := 1, sent := 1 }, by decide +kernel⟩,
    ⟨(connIs { state := 1, rtoDue := some 5 } id), 65535, 5, { state := 1, rtoDue := some 5 }, by decide +kernel⟩,
    ⟨(connIs { state := 1, rtoDue := some 5, next := 2, retryLimit := 1 } id), 65535, 5, { state := 1, rtoDue := some 5, next := 2, retryLimit := 1 }, 0, _, and9 (by decide +kernel) ⟨rfl, by decide +kernel⟩⟩,
    ⟨(connIs { state := 1, rtoDue := some 5, next := 2 } id), 65535, 5, { state := 1, rtoDue := some 5, next := 2 }, 0, _, and9 (by decide +kernel) ⟨rfl, by decide +kernel⟩⟩,
    ⟨(connIs { state := 1, rtoDue := some 5, timerDue := some (8, 15, 64) } id), 65535, 5, 8, 15, 64, by decide +kernel⟩,
    ⟨(connIs { state := 1, ackDue := some 5 } id), 65535, 5, by decide +kernel⟩,
    ⟨(connIs { state := 1, pageRetry := [(9, 5)] } id), 65535, 9, 5, by decide +kernel⟩,
    ⟨(connIs { state := 1 } fun t => { t with stalled := [{ conn := 65535, psn := 9, bytes := [1] }], moorings := [(0, { registered := true, size := 4096, paged := true })] }), 0, { conn := 65535, psn := 9, bytes := [1] }, by decide +kernel⟩,
    ⟨(netIs fun d => d.modSendQ 8191 fun _ => { bound := true, n := 16 }), 0, 0, 8191, 65535, by decide +kernel⟩,
    ⟨(connIs {} fun t => { t with records := [{ queue := 8191 }], queues := [(8191, { bound := true, vector := 0xFFFF, n := 6 })] }), 8191, { queue := 8191 }, (((connIs {} fun t => { t with records := [{ queue := 8191 }], queues := [(8191, { bound := true, vector := 0xFFFF, n := 6 })] }).dev.modTp fun t => { t with records := t.records.erase { queue := 8191 } }).modSendQ 8191 fun x => { x with records := x.records + 1 }), and5 (by decide +kernel) rfl⟩,
    ⟨(connIs {} fun t => { t with moorings := [(5, { deregWait := some (2, 7) })] }), 5, 2, 7, by decide +kernel⟩,
    ⟨8191, true, { kind := 1, length := 64 }, ((connIs { state := 1 } fun t => { t with started := [(8191, { kind := 1, length := 64 })] }).dev.modTp fun t => { t with started := t.started.erase (8191, { kind := 1, length := 64 }) }), (connIs { state := 1 } fun t => { t with started := [(8191, { kind := 1, length := 64 })] }), by decide +kernel⟩,
    ⟨8191, true, { kind := 2, length := 64 }, ((connIs { state := 1 } fun t => { t with started := [(8191, { kind := 2, length := 64 })] }).dev.modTp fun t => { t with started := t.started.erase (8191, { kind := 2, length := 64 }) }), (connIs { state := 1 } fun t => { t with started := [(8191, { kind := 2, length := 64 })] }), by decide +kernel⟩,
    ⟨8191, true, { kind := 3, length := 64 }, ((connIs { state := 1 } fun t => { t with started := [(8191, { kind := 3, length := 64 })] }).dev.modTp fun t => { t with started := t.started.erase (8191, { kind := 3, length := 64 }) }), (connIs { state := 1 } fun t => { t with started := [(8191, { kind := 3, length := 64 })] }), by decide +kernel⟩,
    ⟨8191, true, { kind := 4, length := 64 }, ((connIs { state := 1 } fun t => { t with started := [(8191, { kind := 4, length := 64 })] }).dev.modTp fun t => { t with started := t.started.erase (8191, { kind := 4, length := 64 }) }), (connIs { state := 1 } fun t => { t with started := [(8191, { kind := 4, length := 64 })] }), by decide +kernel⟩,
    ⟨8191, true, { kind := 5, length := 64 }, ((connIs { state := 1 } fun t => { t with started := [(8191, { kind := 5, length := 64 })] }).dev.modTp fun t => { t with started := t.started.erase (8191, { kind := 5, length := 64 }) }), (connIs { state := 1 } fun t => { t with started := [(8191, { kind := 5, length := 64 })] }), by decide +kernel⟩⟩

theorem witness_TransportCommandsComplete :
    (∃ (c : Cmd) (s : State) (conn : Nat) (inst : Nat) (x : ConnSet), Serves { vf := true, block := some 11 } c s ∧ conn < 65536 ∧
     inst < 1024 ∧ mayName c.src.val inst s.dev = true ∧ (s.dev.conn conn).state = 0 ∧ badConn s.dev inst x = false ∧
     (s.dev.netQueue x.egress).inst = inst ∧ (s.dev.tp.conns.filter fun e => decide (e.2.state ≠ 0 ∧ e.2.inst = inst ∧ e.1 ≠
     conn)).length < ((s.dev.inst inst).desc.map (·.connections)).getD 0) ∧
    (∃ (c : Cmd) (s : State) (conn : Nat), Serves { vf := true, block := some 11 } c s ∧ conn < 65536 ∧ (s.dev.conn conn).state ≠ 0
     ∧ mayName c.src.val (s.dev.conn conn).inst s.dev = true ∧ (s.dev.conn conn).closeSent = false) ∧
    (∃ (c : Cmd) (s : State) (conn : Nat), Serves { vf := true, block := some 11 } c s ∧ conn < 65536 ∧ (s.dev.conn conn).state ≠ 0
     ∧ mayName c.src.val (s.dev.conn conn).inst s.dev = true ∧ (s.dev.conn conn).closeSent = true) ∧
    (∃ (c : Cmd) (s : State) (conn : Nat), Serves { vf := true, i3c := true } c s ∧ conn < 65536 ∧ mayName c.src.val (s.dev.conn
     conn).inst s.dev = true) ∧
    (∃ (c : Cmd) (s : State) (doorbell : Nat) (base : Nat) (n : Nat) (completions : Nat) (vector : Nat) (q : Nat) (i : Nat), Serves
     { vf := true, block := some 11 } c s ∧ i = (if c.src.val < 1024 then c.src.val else 0) ∧ txAt s.dev i doorbell = some q ∧ 4 ≤ n
     ∧ n ≤ 16 ∧ vector ≤ 65535 ∧ queueBusy s.dev q = false ∧ mayAddress s.dev i base (64 * 2 ^ n) = true ∧ mayAddress s.dev i
     completions (32 * 2 ^ n) = true) ∧
    (∃ (c : Cmd) (s : State) (m : MooringSet), Serves { vf := true } c s ∧ m.inst < 1024 ∧ mayName c.src.val m.inst s.dev = true ∧
     m.base % 4096 = 0 ∧ m.size % 4096 = 0 ∧ 0 < m.size ∧ m.size ≤ 2 ^ 40 ∧ m.mode < 2 ∧ m.counter = none ∧ mayAddress s.dev m.inst
     m.base m.size = true ∧ (s.dev.tp.moorings.filter fun e => e.2.registered && decide (e.2.inst = m.inst)).length < ((s.dev.inst
     m.inst).desc.map (·.moorings)).getD 0) ∧
    (∃ (c : Cmd) (s : State) (key : Nat) (m : Nat), Serves { vf := true } c s ∧ keyMooring c.src.val key s.dev = .ok m ∧ isVf
     c.src.val = false) ∧
    (∃ (c : Cmd) (s : State) (key : Nat) (m : Nat), Serves { vf := true } c s ∧ keyMooring c.src.val key s.dev = .ok m ∧ isVf
     c.src.val = true) ∧
    (∃ (c : Cmd) (s : State) (key : Nat) (m : Nat) (first : Nat) (count : Nat), Serves { vf := true } c s ∧ keyMooring c.src.val key
     s.dev = .ok m ∧ Serves { vf := true, block := some 11 } c s ∧ (s.dev.mooring m).paged = true ∧ first + count ≤ ((s.dev.mooring
     m).size + 65535) / 65536) ∧
    (∃ (c : Cmd) (s : State) (inst : Nat) (n : Nat), Serves { vf := true } c s ∧ inst < 1024 ∧ mayName c.src.val inst s.dev = true ∧
     (s.dev.tp.counters.filter fun e => e.2.1 = inst).length < ((s.dev.inst inst).desc.map (·.connections)).getD 0 ∧ ((List.range
     65536).find? fun n => (tfind s.dev.tp.counters n).isNone) = some n) ∧
    (∃ (c : Cmd) (s : State) (n : Nat) (inst : Nat) (v : Nat), Serves { vf := true, i3c := true } c s ∧ tfind s.dev.tp.counters n =
     some (inst, v) ∧ mayName c.src.val inst s.dev = true) :=
  ⟨⟨cmd, boundQ, 65535, 0, connSet, by decide +kernel⟩,
    ⟨cmd, (connIs { state := 1 } id), 65535, by decide +kernel⟩,
    ⟨cmd, (connIs { state := 1, closeSent := true } id), 65535, by decide +kernel⟩,
    ⟨cmd, (connIs { state := 1 } id), 65535, by decide +kernel⟩,
    ⟨cmd, boundQ, 0, 0x80000000, 16, 0x90000000, 65535, 8191, 0, by decide +kernel⟩,
    ⟨cmd, boundQ, mooringSet, by decide +kernel⟩,
    ⟨cmd, (moored 0), 20489, 5, by decide +kernel⟩,
    ⟨{ src := 500, seq := 7 }, (moored 500), 20489, 5, by decide +kernel⟩,
    ⟨cmd, (moored 0), 20489, 5, 0, 1, by decide +kernel⟩,
    ⟨cmd, boundQ, 0, 0, by decide +kernel⟩,
    ⟨cmd, (connIs {} fun t => { t with counters := [(65535, (0, 8))] }), 65535, 0, 8, by decide +kernel⟩⟩

theorem witness_StorageComplete :
    (∃ (s : State) (inst : Fin 1024) (i : Nat) (q : Nat) (v : Word), s.On ∧ storAt s.dev inst.val i = some q ∧ (s.dev.storQ q).state
     ≠ 0 ∧ v.toNat < 2 ^ (s.dev.storQ q).n ∧ storBacklog s.dev (s.dev.storQ q).inst = true) ∧
    (∃ (s : State) (half : Bool) (tag : Fin 16384) (i : Nat) (q : Nat) (a : Nat) (t : Word) (x : StorQ) (bs : Bytes) (poison : Bool) (d : Dev), s.On ∧
     s.dev.storage.cmds.length < 16384 ∧ storWithheld s.dev (b2n half) = false ∧ leastTag (storTags s.dev) = some (i, t) ∧ nextQueue
     s.dev i = some q ∧ x = s.dev.storQ q ∧ a = x.sqBase + 64 * x.head ∧ x.space ≠ 1 ∧ memRead 0 a 64 s.dev = ((bs, poison), d)) ∧
    (∃ (s : State) (half : Bool) (tag : Fin 16384) (i : Nat) (q : Nat) (a : Nat) (t : Word) (x : StorQ) (d : Dev), s.On ∧ s.dev.storage.cmds.length <
     16384 ∧ storWithheld s.dev (b2n half) = false ∧ leastTag (storTags s.dev) = some (i, t) ∧ nextQueue s.dev i = some q ∧ x =
     s.dev.storQ q ∧ a = x.sqBase + 64 * x.head ∧ x.space = 1 ∧ issueRead
     { port := homeOf s.dev x.inst, tag := tag.val, inst := x.inst, addr := a, length := 64, work := .capsule s.dev.storage.nextId } s.dev = some d) ∧
    (∃ (s : State) (id : Nat) (x : StorCmd), s.On ∧ s.dev.storCmd id = some x ∧ x.phase = 0 ∧ lockBlocked s.dev x = false ∧
     tableBlocked s.dev x = false ∧ x.opcode = 1) ∧
    (∃ (s : State) (id : Nat) (x : StorCmd), s.On ∧ s.dev.storCmd id = some x ∧ x.phase = 0 ∧ lockBlocked s.dev x = false ∧
     tableBlocked s.dev x = false ∧ x.opcode = 2) ∧
    (∃ (s : State) (id : Nat) (x : StorCmd), s.On ∧ s.dev.storCmd id = some x ∧ x.phase = 0 ∧ lockBlocked s.dev x = false ∧
     tableBlocked s.dev x = false ∧ x.opcode = 4) ∧
    (∃ (s : State) (id : Nat) (x : StorCmd), s.On ∧ s.dev.storCmd id = some x ∧ x.opcode = 3 ∧ x.phase = 0 ∧
     (s.dev.storage.buffer.any fun b => x.covers.contains b.id) = false) ∧
    (∃ (s : State) (id : Nat) (x : StorCmd), s.On ∧ s.dev.storCmd id = some x ∧ x.phase = 1 ∧ lockBlocked s.dev x = false ∧
     tableBlocked s.dev x = false) ∧
    (∃ (s : State) (half : Bool) (tag : Fin 16384) (size : Fin 4097) (id : Nat) (n : Nat) (off : Nat) (x : StorCmd) (d : Dev) (bs : Bytes) (e : Dev), s.On ∧
     s.dev.storCmd id = some x ∧ x.opcode = 2 ∧ x.phase = 3 ∧ off = 262144 * x.pulled ∧ n = min 262144 (4096 * x.blocks - off) ∧
     storWithheld s.dev (b2n half) = false ∧ d = s.dev.modCmd id (fun c => { c with half := b2n half }) ∧ x.space = 0 ∧ x.reserved =
     0 ∧ memRead x.operation (x.buffer + off) n d = ((bs, false), e)) ∧
    (∃ (s : State) (half : Bool) (tag : Fin 16384) (size : Fin 4097) (id : Nat) (n : Nat) (off : Nat) (x : StorCmd) (d : Dev) (k : Nat) (e : Dev), s.On ∧ s.dev.storCmd
     id = some x ∧ x.opcode = 2 ∧ x.phase = 3 ∧ off = 262144 * x.pulled ∧ n = min 262144 (4096 * x.blocks - off) ∧ storWithheld
     s.dev (b2n half) = false ∧ d = s.dev.modCmd id (fun c => { c with half := b2n half }) ∧ x.space ≠ 0 ∧ segmentData x n = none ∧
     storMasters d x.inst x.space = true ∧ issueReads (spacePort d x.inst x.space) x.inst (x.buffer + off) n tag.val size.val (fun o => .pull id (off
     + o)) (n / 4096 + 2) x.asked d = (k, e)) ∧
    (∃ (s : State) (id : Nat) (x : StorCmd), s.On ∧ s.dev.storCmd id = some x ∧ x.phase = 6 ∧ (s.dev.storage.cmds.any fun o =>
     decide (o.queue = x.queue ∧ o.phase = 6 ∧ (o.ended < x.ended ∨ (o.ended = x.ended ∧ o.id < id)))) = false ∧ (s.dev.storQ
     x.queue).state ≠ 0 ∧ (s.dev.storQ x.queue).space = 0 ∧ canWrite s.dev (cmdLock s.dev x) ((s.dev.storQ x.queue).cqBase + 16 *
     ((s.dev.storQ x.queue).records % 2 ^ (s.dev.storQ x.queue).n)) 16 = true ∧ (s.dev.storQ x.queue).vector = 0xFFFF) ∧
    (∃ (s : State) (id : Nat) (b : Buffered) (bs : Bytes) (d : Dev), s.On ∧ (s.dev.storage.buffer.find? fun b => b.id = id) = some b
     ∧ b.destaging = false ∧ (s.dev.storage.buffer.takeWhile fun x => decide (x.id ≠ id)) = [] ∧ memRead 0 b.addr (4096 * b.blocks)
     s.dev = ((bs, false), d)) ∧
    (∃ (s : State) (tag : Nat) (error : Bool) (data : Bytes) (b : BackCmd), s.On ∧ (s.dev.storage.back.find? fun b => decide (b.tag
     = tag ∧ b.waiting = none)) = some b) ∧
    (∃ (s : State) (drive : Fin 4), s.On ∧ (s.dev.storage.back.any fun b => decide (b.target = 8 + drive.val ∧ b.waiting = none ∧
     b.since + 2000000000 ≤ s.dev.uptime)) = true) ∧
    (∃ (s : State) (drive : Fin 4), s.On ∧ (s.dev.storage.back.any fun b => decide (b.target = 8 + drive.val ∧ b.waiting = none ∧
     b.since + 2000000000 ≤ s.dev.uptime)) = true) ∧
    (∃ (s : State) (target : Fin 16) (conn : Fin 8), s.On ∧ conn.val < (tget {} s.dev.storage.remotes target.val).conns) ∧
    (∃ (s : State) (n : Fin 4), s.On ∧ (s.dev.drive n.val).state = 1 ∧ (s.dev.storage.back.any fun b => decide (b.target = 8 +
     n.val)) = false ∧ (s.dev.drive n.val).idle = 0 ∧ (s.dev.drive n.val).idle2 = 0 ∧ 0 < (s.dev.drive n.val).idle1 ∧ 1000 *
     (s.dev.drive n.val).idle1 ≤ s.dev.uptime - (s.dev.drive n.val).lastCmd) ∧
    (∃ (c : Cmd) (s : State) (doorbell : Nat) (q : Nat) (i : Nat), Serves { vf := true, block := some 13 } c s ∧ i = (if c.src.val <
     1024 then c.src.val else 0) ∧ storAt s.dev i doorbell = some q ∧ storBusy s.dev q = false) ∧
    (∃ (c : Cmd) (s : State) (doorbell : Nat) (sq : Nat) (cq : Nat) (space : Nat) (n : Nat) (vector : Nat) (q : Nat) (i : Nat),
     Serves { vf := true, block := some 13 } c s ∧ i = (if c.src.val < 1024 then c.src.val else 0) ∧ storAt s.dev i doorbell = some
     q ∧ storBusy s.dev q = false ∧ space = 1 ∧ 4 ≤ n ∧ n ≤ 12 ∧ vector ≤ 65535) ∧
    (∃ (c : Cmd) (s : State) (v : Nat) (b : VolumeSet), Serves {} c s ∧ v < 4096 ∧ (s.dev.volume v).bound = false ∧ volumeBusy s.dev
     v = false ∧ b.inst < 1024 ∧ bindable s.dev b.backend b.nsid = true ∧ mayName c.src.val b.inst s.dev = true ∧ volumeMeets s.dev
     v { bound := true, inst := b.inst, backend := b.backend, nsid := b.nsid, first := b.first, count := b.count } = false) ∧
    (∃ (c : Cmd) (s : State) (v : Nat) (b : VolumeSet), Serves {} c s ∧ v < 4096 ∧ (s.dev.volume v).bound = false ∧ volumeBusy s.dev
     v = false ∧ b.inst < 1024 ∧ bindable s.dev b.backend b.nsid = true ∧ mayName c.src.val b.inst s.dev = true ∧ volumeMeets s.dev
     v { bound := true, inst := b.inst, backend := b.backend, nsid := b.nsid, first := b.first, count := b.count } = false) ∧
    (∃ (c : Cmd) (s : State) (v : Nat), Serves { vf := true, i3c := true } c s ∧ v < 4096 ∧ isVf c.src.val = false) ∧
    (∃ (c : Cmd) (s : State) (t : Nat) (x : RemoteSet), Serves {} c s ∧ t < 16 ∧ x.tcpPort.getD 4420 < 65536 ∧ x.subNqn ≠ [] ∧
     x.subNqn.length ≤ 223 ∧ x.hostNqn ≠ [] ∧ x.hostNqn.length ≤ 223 ∧ x.port < 8 ∧ x.egress < 16384 ∧ 0 < x.conns ∧ x.conns ≤ 8 ∧
     (s.dev.netQueue x.egress).bound = true ∧ (s.dev.netQueue x.egress).inst < 2 ∧ (s.dev.netQueue x.egress).port = x.port) ∧
    (∃ (c : Cmd) (s : State) (drive : Nat) (idle1 : Nat) (idle2 : Nat), Serves { block := some 13 } c s ∧ 8 ≤ drive ∧ drive < 12 ∧
     idle1 < 2 ^ 24 ∧ 16 * idle2 < 2 ^ 24) :=
  ⟨⟨(storIs { state := 1, n := 12, tail := 5, space := 1 } id), 0, 0, 8191, 4095, by decide +kernel⟩,
    ⟨(storIs { state := 1, n := 4, tail := 5 } id), true, 0, 0, 8191, _, ((leastTag (storTags (storIs { state := 1, n := 4, tail := 5 } id).dev)).getD (0, 0)).2, _, _, _, _, and5 (by decide +kernel) ⟨rfl, rfl, by decide +kernel, rfl⟩⟩,
    ⟨(storIs { state := 1, n := 4, tail := 5, space := 1 } id), true, 16383, 0, 8191, 0, ((leastTag (storTags (storIs { state := 1, n := 4, tail := 5, space := 1 } id).dev)).getD (0, 0)).2, { state := 1, n := 4, tail := 5, space := 1 }, ((issueRead { tag := 16383, length := 64, work := .capsule 0 } (storIs { state := 1, n := 4, tail := 5, space := 1 } id).dev).getD {}), by decide +kernel⟩,
    ⟨(storOne { cmd5 with opcode := 1 }), 5, { cmd5 with opcode := 1 }, by decide +kernel⟩,
    ⟨(storOne { cmd5 with opcode := 2 }), 5, { cmd5 with opcode := 2 }, by decide +kernel⟩,
    ⟨(storOne { cmd5 with opcode := 4 }), 5, { cmd5 with opcode := 4 }, by decide +kernel⟩,
    ⟨(storOne { cmd5 with opcode := 3 }), 5, { cmd5 with opcode := 3 }, by decide +kernel⟩,
    ⟨(storOne { cmd5 with phase := 1 }), 5, { cmd5 with phase := 1 }, by decide +kernel⟩,
    ⟨((storOne { cmd5 with opcode := 2, phase := 3, buffer := basinBase }).withDev ((storOne { cmd5 with opcode := 2, phase := 3, buffer := basinBase }).dev.modTile 527 fun t => { t with logical := some 0 })), true, 0, 0, 5, 4096, 0, { cmd5 with opcode := 2, phase := 3, buffer := basinBase }, _, _, _, and7 (by decide +kernel) ⟨rfl, and2 (by decide +kernel) (memRead_parts _ (by decide +kernel))⟩⟩,
    ⟨(storOne { cmd5 with opcode := 2, phase := 3, space := 1 }), true, 16383, 4096, 5, 4096, 0, { cmd5 with opcode := 2, phase := 3, space := 1 }, _, _, _, and7 (by decide +kernel) ⟨rfl, and3 (by decide +kernel) rfl⟩⟩,
    ⟨(storIs { state := 1, n := 4, vector := 0xFFFF } fun t => { t with cmds := [{ cmd5 with phase := 6 }] }), 5, { cmd5 with phase := 6 }, by decide +kernel⟩,
    ⟨destaging, 5, { id := 5, blocks := 1, addr := basinBase }, _, _, and4 (by decide +kernel) (memRead_parts _ (by decide +kernel))⟩,
    ⟨(storIs {} fun t => { t with back := [{ tag := 9, target := 11 }] }), 9, true, [], { tag := 9, target := 11 }, by decide +kernel⟩,
    ⟨(storIs {} fun t => { t with back := [{ tag := 9, target := 11 }] }), 3, by decide +kernel⟩,
    ⟨(storIs {} fun t => { t with back := [{ tag := 9, target := 11 }] }), 3, by decide +kernel⟩,
    ⟨(storIs {} fun t => { t with remotes := [(15, { conns := 8 })] }), 15, by decide +kernel⟩,
    ⟨(storIs {} fun t => { t with drives := [(3, { state := 1, idle2 := 0 })] }), 3, by decide +kernel⟩,
    ⟨cmd, (storIs {} id), 0, 8191, 0, by decide +kernel⟩,
    ⟨cmd, (storIs {} id), 0, 64, 128, 1, 12, 65535, 8191, 0, by decide +kernel⟩,
    ⟨{ src := 1, seq := 7 }, full, 4095, { inst := 1, backend := 31, nsid := 1, first := 0, count := 1 }, by decide +kernel⟩,
    ⟨{ src := 1, seq := 7 }, full, 4095, { inst := 1, backend := 31, nsid := 1, first := 0, count := 1 }, by decide +kernel⟩,
    ⟨cmd, full, 4095, by decide +kernel⟩,
    ⟨cmd, (at_ fun d => d.modQueue 16383 fun _ => { bound := true, port := 7 }), 15, { ip := 1, tcpPort := some 65535, subNqn := [1], hostNqn := [2], port := 7, egress := 16383, conns := 8 }, by decide +kernel⟩,
    ⟨cmd, full, 11, 16777215, 1048575, by decide +kernel⟩⟩

theorem witness_HostComplete :
    (∃ (s : State) (f : HostFn) (bar : Bar) (off : Nat) (n : Nat) (tag : Nat) (i : Nat) (relaxed : Bool) (second : Bool), s.On ∧
     (s.dev.ep f.ep.val).up = true ∧ 0 < n ∧ n ≤ 4096 ∧ requester s.dev f = some i ∧ bar = .bar0 ∧ off + n ≤ barSize f .bar0 ∧
     behindWrite s.dev f = false ∧ f.vf = 0) ∧
    (∃ (s : State) (f : HostFn) (bar : Bar) (off : Nat) (n : Nat) (tag : Nat) (i : Nat) (relaxed : Bool) (second : Bool), s.On ∧
     (s.dev.ep f.ep.val).up = true ∧ 0 < n ∧ n ≤ 4096 ∧ requester s.dev f = some i ∧ bar = .bar2 ∧ off + n ≤ barSize f .bar2) ∧
    (∃ (s : State) (f : HostFn) (bar : Bar) (off : Nat) (n : Nat) (tag : Nat) (i : Nat) (relaxed : Bool) (second : Bool), s.On ∧
     (s.dev.ep f.ep.val).up = true ∧ 0 < n ∧ n ≤ 4096 ∧ requester s.dev f = some i ∧ barSize f bar < off + n) ∧
    (∃ (s : State) (f : HostFn) (bar : Bar) (off : Nat) (n : Nat) (tag : Nat) (i : Nat) (relaxed : Bool) (second : Bool), s.On ∧
     (s.dev.ep f.ep.val).up = true ∧ 0 < n ∧ n ≤ 4096 ∧ requester s.dev f = some i) ∧
    (∃ (s : State) (f : HostFn) (off : Nat) (i : Nat) (bs : Bytes) (relaxed : Bool) (second : Bool), s.On ∧ (s.dev.ep f.ep.val).up =
     true ∧ bs ≠ [] ∧ requester s.dev f = some i ∧ off + bs.length ≤ barSize f .bar0 ∧ behindWrite s.dev f = false ∧ f.vf = 0) ∧
    (∃ (s : State) (f : HostFn) (off : Nat) (i : Nat) (bs : Bytes) (relaxed : Bool) (poison : Bool) (second : Bool), s.On ∧
     (s.dev.ep f.ep.val).up = true ∧ bs ≠ [] ∧ requester s.dev f = some i ∧ off + bs.length ≤ barSize f .bar2) ∧
    (∃ (s : State) (f : HostFn) (off : Nat) (i : Nat) (bs : Bytes) (relaxed : Bool) (poison : Bool) (second : Bool) (bar : Bar),
     s.On ∧ (s.dev.ep f.ep.val).up = true ∧ bs ≠ [] ∧ requester s.dev f = some i) ∧
    (∃ (s : State) (l : Fin 128) (x : Delivery) (rest : List Delivery) (r : HostRead) (u : HostRead) (d : Dev) (e : Dev), s.On ∧
     tget [] s.dev.canal.inbox (unitKey (lockRouter l.val) (l.val % 64)) = x :: rest ∧ d =
     { s.dev with canal := { s.dev.canal with inbox := tset [] s.dev.canal.inbox (unitKey (lockRouter l.val) (l.val % 64)) rest } }
     ∧ (d.host.reads.find? fun r => decide (some r.port = portOfLock l.val ∧ r.route = x.barge.route.toNat)) = some r ∧
     sendCompletions r (x.barge.valid.take (r.length - r.sent - r.held.length)) (decide (x.barge.kind = 2)) d = (u, e) ∧ r.length ≤
     u.sent) ∧
    (∃ (s : State) (l : Fin 128) (x : Delivery) (rest : List Delivery) (r : HostRead) (u : HostRead) (d : Dev) (e : Dev), s.On ∧
     tget [] s.dev.canal.inbox (unitKey (lockRouter l.val) (l.val % 64)) = x :: rest ∧ d =
     { s.dev with canal := { s.dev.canal with inbox := tset [] s.dev.canal.inbox (unitKey (lockRouter l.val) (l.val % 64)) rest } }
     ∧ (d.host.reads.find? fun r => decide (some r.port = portOfLock l.val ∧ r.route = x.barge.route.toNat)) = some r ∧
     sendCompletions r (x.barge.valid.take (r.length - r.sent - r.held.length)) (decide (x.barge.kind = 2)) d = (u, e) ∧ u.sent <
     r.length) ∧
    (∃ (s : State) (f : HostFn) (o : Nat), s.On) ∧
    (∃ (s : State) (f : HostFn) (x : CfgField), s.On) ∧
    (∃ (s : State) (f : HostFn), s.On ∧ fnConfig s.dev f = none) ∧
    (∃ (s : State) (port : Fin 14) (tag : Nat) (data : Bytes) (t : Tag) (d : Dev), s.On ∧ (s.dev.host.tags.find? fun t => decide
     (t.port = port.val ∧ t.tag = tag)) = some t ∧ d = freeTag port.val tag s.dev ∧ t.gen = (d.inst t.inst).gen) ∧
    (∃ (s : State) (port : Fin 14) (tag : Nat) (data : Bytes) (t : Tag) (d : Dev) (poison : Bool), s.On ∧ (s.dev.host.tags.find? fun
     t => decide (t.port = port.val ∧ t.tag = tag)) = some t ∧ d = freeTag port.val tag s.dev ∧ t.gen ≠ (d.inst t.inst).gen) ∧
    (∃ (s : State) (ep : Fin 2) (tag : Nat) (t : Tag) (d : Dev), s.On ∧ ((portTags s.dev ep.val).find? fun t => t.tag = tag) = some
     t ∧ (s.dev.ep ep.val).timeout ≠ 0 ∧ t.since + (s.dev.ep ep.val).timeout ≤ s.dev.uptime ∧ d = freeTag ep.val tag s.dev ∧ t.gen =
     (d.inst t.inst).gen) ∧
    (∃ (s : State) (f : HostFn) (i : Nat), s.On ∧ fnConfig s.dev f = some i ∧ (s.dev.inst i).bme = true ∧ (s.dev.inst i).state ≠ 3) ∧
    (∃ (s : State) (f : HostFn) (i : Nat), s.On ∧ fnConfig s.dev f = some i ∧ (s.dev.inst i).bme = false) ∧
    (∃ (s : State) (f : HostFn) (i : Nat), s.On ∧ fnConfig s.dev f = some i ∧ 2 ≤ i ∧ (s.dev.inst i).state = 2) ∧
    (∃ (s : State) (i : Fin 1024), s.On ∧ (s.dev.inst i.val).state = 3 ∧ (s.dev.inst i.val).flr = true ∧ quiet s.dev i.val = true) ∧
    (∃ (s : State) (ep : Fin 2), s.On) ∧
    (∃ (s : State) (ep : Fin 2) (d : Dev), s.On ∧ d = (pfInsts s.dev ep.val).foldl (fun d i => beginDestroy s.vault i none d)
     (s.dev.modEp ep.val fun e => { e with vfEnable := false, dormant := [] })) ∧
    (∃ (s : State) (ep : Fin 2) (n : Nat), s.On ∧ s.Full ∧ n ≤ 1022) ∧
    (∃ (s : State) (ep : Fin 2), s.On) ∧
    (∃ (s : State) (ep : Fin 2) (speed : Nat) (width : Nat), s.On ∧ 1 ≤ speed ∧ speed ≤ 6 ∧ width ∈ [4, 8, 16]) ∧
    (∃ (s : State) (i : Fin 1024) (index : Nat), s.On ∧ doorbells s.dev i.val ≤ index) ∧
    (∃ (s : State) (i : Fin 1024), s.On ∧ (s.dev.inst i.val).state = 3 ∧ (s.dev.inst i.val).flr = false ∧ quiet s.dev i.val = true ∧
     (s.dev.inst i.val).destroySender = none) ∧
    (∃ (s : State) (index : Nat) (w : WindowWait), s.On ∧ s.dev.host.waits[index]? = some w ∧ windowDrained s.dev w = true) ∧
    (∃ (c : Cmd) (s : State) (i : Nat), Serves { block := some 8, also := createBlocks } c s ∧ 2 ≤ i ∧ i < 1024 ∧ (s.dev.inst
     i).state = 1 ∧ (s.dev.inst i).homePf = actingPf c.src.val (some i) s.dev ∧ (s.dev.ep (s.dev.inst i).homePf).vfEnable = true ∧ i
     ≤ (s.dev.ep (s.dev.inst i).homePf).numVfs + 1) ∧
    (∃ (c : Cmd) (s : State) (i : Nat), Serves { block := some 8, also := destroyBlocks } c s ∧ 2 ≤ i ∧ i < 1024 ∧ (s.dev.inst
     i).state = 2 ∧ mayName c.src.val i s.dev = true) ∧
    (∃ (c : Cmd) (s : State) (i : Nat), Serves { vf := true, i3c := true } c s ∧ i < 1024 ∧ (isVf c.src.val = true → i = c.src.val)) ∧
    (∃ (c : Cmd) (s : State) (sel : WinSel) (v : BitVec 256), Serves { block := some 8 } c s ∧ windowRefused s.dev (windowPf
     c.src.val sel s.dev) sel v = none ∧ Window.valid (windowAt s.dev (windowPf c.src.val sel s.dev) sel) = false) ∧
    (∃ (c : Cmd) (s : State) (n : Nat), Serves { i3c := true } c s ∧ n < 1024) ∧
    (∃ (c : Cmd) (s : State) (e : Nat), Serves { i3c := true } c s ∧ e < 2) :=
  ⟨⟨hostUp, pf1, .bar0, 0x9000038, 8, 3, 1, true, false, by decide +kernel⟩,
    ⟨hostUp, pf1, .bar2, 0, 4096, 3, 1, true, true, by decide +kernel⟩,
    ⟨hostUp, pf1, .bar4, 65536, 1, 3, 1, false, by decide +kernel⟩,
    ⟨hostUp, pf1, .bar4, 65536, 1, 3, 1, false, by decide +kernel⟩,
    ⟨hostUp, pf1, 0x9000038, 1, [1, 0, 0, 0], false, false, by decide +kernel⟩,
    ⟨hostUp, { ep := 1, vf := 499 }, 0, 500, [1], true, false, true, by decide +kernel⟩,
    ⟨hostUp, { ep := 1, vf := 499 }, 0, 500, [1], true, false, true, .bar2, by decide +kernel⟩,
    ⟨returning 64, 32, { barge := { kind := 1, route := 7, fill := 63, body := List.replicate 256 1 } }, [], { port := 0, route := 7, length := 64 }, _, _, _, and2 (by decide +kernel) ⟨rfl, by decide +kernel, rfl, by decide +kernel⟩⟩,
    ⟨returning 512, 32, { barge := { kind := 1, route := 7, fill := 63, body := List.replicate 256 1 } }, [], { port := 0, route := 7, length := 512 }, _, _, _, and2 (by decide +kernel) ⟨rfl, by decide +kernel, rfl, by decide +kernel⟩⟩,
    ⟨full, pf1, 0x3F0, by decide +kernel⟩,
    ⟨full, pf1, .serialHigh, by decide +kernel⟩,
    ⟨full, { ep := 1, vf := 499 }, by decide +kernel⟩,
    ⟨(at_ fun d => { d with uptime := 60000000 }.modHost fun h => { h with tags := [{ port := 1, tag := 3, inst := 1, length := 64 }] }), 1, 3, [], { port := 1, tag := 3, inst := 1, length := 64 }, _, and2 (by decide +kernel) ⟨rfl, by decide +kernel⟩⟩,
    ⟨(at_ fun d => { d with uptime := 60000000 }.modHost fun h => { h with tags := [{ port := 1, tag := 3, inst := 1, length := 64, gen := 1 }] }), 1, 3, [], { port := 1, tag := 3, inst := 1, length := 64, gen := 1 }, _, true, and2 (by decide +kernel) ⟨rfl, by decide +kernel⟩⟩,
    ⟨(at_ fun d => { d with uptime := 60000000 }.modHost fun h => { h with tags := [{ port := 1, tag := 3, inst := 1, length := 64 }] }), 1, 3, { port := 1, tag := 3, inst := 1, length := 64 }, (freeTag 1 3 (at_ fun d => { d with uptime := 60000000 }.modHost fun h => { h with tags := [{ port := 1, tag := 3, inst := 1, length := 64 }] }).dev), and4 (by decide +kernel) ⟨rfl, by decide +kernel⟩⟩,
    ⟨hostUp, pf1, 1, by decide +kernel⟩,
    ⟨hostUp, { ep := 1, vf := 499 }, 500, by decide +kernel⟩,
    ⟨hostUp, { ep := 1, vf := 499 }, 500, by decide +kernel⟩,
    ⟨(at_ fun d => d.modInst 1023 fun i => { i with state := 3, flr := true }), 1023, by decide +kernel⟩,
    ⟨full, 1, by decide +kernel⟩,
    ⟨full, 1, _, by decide +kernel, rfl⟩,
    ⟨full, 1, 1022, by decide +kernel⟩,
    ⟨full, 1, by decide +kernel⟩,
    ⟨full, 1, 6, 16, by decide +kernel⟩,
    ⟨full, 1023, 0, by decide +kernel⟩,
    ⟨(at_ fun d => d.modInst 1023 fun i => { i with state := 3 }), 1023, by decide +kernel⟩,
    ⟨(at_ fun d => d.modHost fun h => { h with waits := [{ ids := [9], inst := 1, routes := [7] }] }), 0, { ids := [9], inst := 1, routes := [7] }, by decide +kernel⟩,
    ⟨{ src := 1, seq := 7 }, (at_ fun d => (d.modEp 1 fun e => { e with vfEnable := true, numVfs := 1022 }).modInst 1023 fun i => { i with state := 1, homePf := 1 }), 1023, by decide +kernel⟩,
    ⟨{ src := 1, seq := 7 }, hostUp, 500, by decide +kernel⟩,
    ⟨cmd, full, 1023, by decide +kernel⟩,
    ⟨cmd, full, (.pf 1023), (12#256 <<< 128), by decide +kernel⟩,
    ⟨cmd, full, 1023, by decide +kernel⟩,
    ⟨cmd, full, 1, by decide +kernel⟩⟩

theorem witness_WorkRegistersComplete :
    (∃ (w : RegW) (s : State) (t : Taken), Takes { block := 3, unit := 0, off := 0x10 } w s t ∧ (t.hit 4 = false ∨ bit t.word 4 =
     false ∨ s.dev.groupSize ≤ 1)) ∧
    (∃ (w : RegW) (s : State) (t : Taken), Takes { block := 3, unit := 0, off := 0x38 } w s t) ∧
    (∃ (w : RegW) (s : State), s.On) ∧
    (∃ (w : RegW) (s : State) (t : Taken), Takes { block := 4, unit := 0, off := 0x48 } w s t ∧ t.hit 11 = true ∧ bit t.word 11 =
     true ∧ bit (storedOrShown s.vault s.dev { block := 4, unit := 0, off := 0x48 }) 11 = false) ∧
    (∃ (w : RegW) (s : State) (t : Taken), Takes { block := 4, unit := 0, off := 0x40 } w s t ∧ t.hit 0 = true) ∧
    (∃ (w : RegW) (s : State), s.On) ∧
    (∃ (w : RegW) (s : State) (t : Taken) (n : Fin 528), Takes { block := 5, unit := n.val, off := 0x40 } w s t ∧ t.hit 0 = true ∧
     t.hit 4 = true) ∧
    (∃ (w : RegW) (s : State) (t : Taken) (n : Fin 528), Takes { block := 5, unit := n.val, off := 0x40 } w s t ∧ t.hit 0 = true ∧
     t.hit 4 = true) ∧
    (∃ (w : RegW) (s : State) (t : Taken) (n : Fin 528), Takes { block := 5, unit := n.val, off := 0x60 } w s t) ∧
    (∃ (w : RegW) (s : State) (n : Fin 528), s.On) ∧
    (∃ (w : RegW) (s : State) (t : Taken) (k : Fin 8), Takes { block := 6, unit := k.val, off := 0x38 } w s t ∧ t.hit 0 = true) ∧
    (∃ (w : RegW) (s : State) (t : Taken) (k : Fin 8) (old : Nat) (d : Dev), Takes { block := 6, unit := k.val, off := 0x98 } w s t
     ∧ t.hits ≠ [] ∧ old = storedOrShown s.vault s.dev { block := 6, unit := k.val, off := 0x98 } ∧ d = s.dev.csrSet (hbmReg k.val
     0x98) (BitVec.ofNat 64 (t.word % 2 ^ 13)) ∧ bit t.word 10 = true ∧ bit t.word 13 = true ∧ bits t.word 12 11 = 1) ∧
    (∃ (w : RegW) (s : State) (t : Taken) (k : Fin 8) (old : Nat) (d : Dev), Takes { block := 6, unit := k.val, off := 0x98 } w s t
     ∧ t.hits ≠ [] ∧ old = storedOrShown s.vault s.dev { block := 6, unit := k.val, off := 0x98 } ∧ d = s.dev.csrSet (hbmReg k.val
     0x98) (BitVec.ofNat 64 (t.word % 2 ^ 13)) ∧ bit t.word 10 = true ∧ bit t.word 13 = true ∧ bits t.word 12 11 = 2) ∧
    (∃ (w : RegW) (s : State) (t : Taken) (k : Fin 8) (old : Nat) (d : Dev), Takes { block := 6, unit := k.val, off := 0x98 } w s t
     ∧ t.hits ≠ [] ∧ old = storedOrShown s.vault s.dev { block := 6, unit := k.val, off := 0x98 } ∧ d = s.dev.csrSet (hbmReg k.val
     0x98) (BitVec.ofNat 64 (t.word % 2 ^ 13)) ∧ bit old 10 = true ∧ bit t.word 10 = false) :=
  ⟨⟨(put 0x11), (free id), (takenAt { block := 3, unit := 0, off := 0x10 } (put 0x11) (free id)), by decide +kernel⟩,
    ⟨(put 5), (free id), (takenAt { block := 3, unit := 0, off := 0x38 } (put 5) (free id)), by decide +kernel⟩,
    ⟨(put 0), full, by decide +kernel⟩,
    ⟨(put 0x800), (free id), (takenAt { block := 4, unit := 0, off := 0x48 } (put 0x800) (free id)), by decide +kernel⟩,
    ⟨(put 5), (free id), (takenAt { block := 4, unit := 0, off := 0x40 } (put 5) (free id)), by decide +kernel⟩,
    ⟨(put 0), full, by decide +kernel⟩,
    ⟨(put 1), (free id), (takenAt { block := 5, unit := 527, off := 0x40 } (put 1) (free id)), 527, by decide +kernel⟩,
    ⟨(put 1), (free id), (takenAt { block := 5, unit := 527, off := 0x40 } (put 1) (free id)), 527, by decide +kernel⟩,
    ⟨(put 5), (free id), (takenAt { block := 5, unit := 527, off := 0x60 } (put 5) (free id)), 527, by decide +kernel⟩,
    ⟨(put 0), full, 527, by decide +kernel⟩,
    ⟨(put 1), (free id), (takenAt { block := 6, unit := 7, off := 0x38 } (put 1) (free id)), 7, by decide +kernel⟩,
    ⟨(put 0x2C00), (free id), (takenAt { block := 6, unit := 7, off := 0x98 } (put 0x2C00) (free id)), 7, (storedOrShown (free id).vault (free id).dev { block := 6, unit := 7, off := 0x98 }), ((free id).dev.csrSet (hbmReg 7 0x98) (BitVec.ofNat 64 ((takenAt { block := 6, unit := 7, off := 0x98 } (put 0x2C00) (free id)).word % 2 ^ 13))), and2 (by decide +kernel) ⟨rfl, rfl, by decide +kernel⟩⟩,
    ⟨(put 0x3400), (free id), (takenAt { block := 6, unit := 7, off := 0x98 } (put 0x3400) (free id)), 7, (storedOrShown (free id).vault (free id).dev { block := 6, unit := 7, off := 0x98 }), ((free id).dev.csrSet (hbmReg 7 0x98) (BitVec.ofNat 64 ((takenAt { block := 6, unit := 7, off := 0x98 } (put 0x3400) (free id)).word % 2 ^ 13))), and2 (by decide +kernel) ⟨rfl, rfl, by decide +kernel⟩⟩,
    ⟨(put 0), (free fun d => d.csrSet (hbmReg 7 0x98) 0x400), (takenAt { block := 6, unit := 7, off := 0x98 } (put 0) (free fun d => d.csrSet (hbmReg 7 0x98) 0x400)), 7, (storedOrShown (free fun d => d.csrSet (hbmReg 7 0x98) 0x400).vault (free fun d => d.csrSet (hbmReg 7 0x98) 0x400).dev { block := 6, unit := 7, off := 0x98 }), ((free fun d => d.csrSet (hbmReg 7 0x98) 0x400).dev.csrSet (hbmReg 7 0x98) (BitVec.ofNat 64 ((takenAt { block := 6, unit := 7, off := 0x98 } (put 0) (free fun d => d.csrSet (hbmReg 7 0x98) 0x400)).word % 2 ^ 13))), and2 (by decide +kernel) ⟨rfl, rfl, by decide +kernel⟩⟩⟩

theorem witness_InterfaceRegistersComplete :
    (∃ (w : RegW) (s : State) (t : Taken), Takes { block := 8, unit := 0, off := 0x48 } w s t) ∧
    (∃ (w : RegW) (s : State), s.On) ∧
    (∃ (s : State) (i : Fin 1024) (j : Nat) (c : Nat) (v : Word), s.On ∧ (s.dev.inst i.val).dma[j]? = some c ∧ 0 < (s.dev.dmaCh c).n
     ∧ v.toNat % 65536 < 2 ^ (s.dev.dmaCh c).n ∧ bit v.toNat 62 = false ∧ bit v.toNat 63 = false) ∧
    (∃ (s : State) (i : Fin 1024) (j : Nat) (c : Nat) (v : Word), s.On ∧ (s.dev.inst i.val).dma[j]? = some c ∧ 0 < (s.dev.dmaCh c).n
     ∧ v.toNat % 65536 < 2 ^ (s.dev.dmaCh c).n ∧ bit v.toNat 62 = true ∧ bit v.toNat 63 = false) ∧
    (∃ (s : State) (i : Fin 1024) (j : Nat) (c : Nat) (v : Word), s.On ∧ (s.dev.inst i.val).dma[j]? = some c ∧ 0 < (s.dev.dmaCh c).n
     ∧ v.toNat % 65536 < 2 ^ (s.dev.dmaCh c).n ∧ bit v.toNat 62 = false ∧ bit v.toNat 63 = true ∧ (s.dev.dmaCh c).state ≠ 0) ∧
    (∃ (w : RegW) (s : State) (t : Taken), Takes { block := 9, unit := 0, off := 0x40 } w s t ∧ t.hits ≠ [] ∧ bit t.word 0 = true ∧
     bit t.word 1 = false) ∧
    (∃ (w : RegW) (s : State) (t : Taken), Takes { block := 10, unit := 0, off := 0x40 } w s t ∧ t.hit 0 = true ∧ t.hit 24 = true) ∧
    (∃ (w : RegW) (s : State) (t : Taken), Takes { block := 10, unit := 0, off := 0x48 } w s t ∧ t.hit 0 = true) ∧
    (∃ (w : RegW) (s : State) (t : Taken), Takes { block := 11, unit := 0, off := 0x28 } w s t ∧ t.hits ≠ []) ∧
    (∃ (w : RegW) (s : State) (t : Taken), Takes { block := 12, unit := 0, off := 0x48 } w s t ∧ t.hit 0 = true) ∧
    (∃ (w : RegW) (s : State), s.On) ∧
    (∃ (w : RegW) (s : State) (t : Taken), Takes { block := 13, unit := 0, off := 0x38 } w s t ∧ t.hits ≠ []) :=
  ⟨⟨(put 5), (free id), (takenAt { block := 8, unit := 0, off := 0x48 } (put 5) (free id)), by decide +kernel⟩,
    ⟨(put 0), full, by decide +kernel⟩,
    ⟨(at_ fun d => (d.modInst 1023 fun i => { i with dma := [127] }).modDma 127 fun x => { x with n := 8, state := 1 }), 1023, 0, 127, 255, by decide +kernel⟩,
    ⟨(at_ fun d => (d.modInst 1023 fun i => { i with dma := [127] }).modDma 127 fun x => { x with n := 8, state := 1 }), 1023, 0, 127, (2 ^ 62 + 255), by decide +kernel⟩,
    ⟨(at_ fun d => (d.modInst 1023 fun i => { i with dma := [127] }).modDma 127 fun x => { x with n := 8, state := 1 }), 1023, 0, 127, (2 ^ 63 + 255), by decide +kernel⟩,
    ⟨(put 1), (free id), (takenAt { block := 9, unit := 0, off := 0x40 } (put 1) (free id)), by decide +kernel⟩,
    ⟨(put 0x2710000100), (free id), (takenAt { block := 10, unit := 0, off := 0x40 } (put 0x2710000100) (free id)), by decide +kernel⟩,
    ⟨(put 1), (free id), (takenAt { block := 10, unit := 0, off := 0x48 } (put 1) (free id)), by decide +kernel⟩,
    ⟨(put 0x103FE8), (free id), (takenAt { block := 11, unit := 0, off := 0x28 } (put 0x103FE8) (free id)), by decide +kernel⟩,
    ⟨(put 0x55), (free id), (takenAt { block := 12, unit := 0, off := 0x48 } (put 0x55) (free id)), by decide +kernel⟩,
    ⟨(put 0), full, by decide +kernel⟩,
    ⟨(put 0x500000005), (free id), (takenAt { block := 13, unit := 0, off := 0x38 } (put 0x500000005) (free id)), by decide +kernel⟩⟩

theorem witness_ControlRegistersComplete :
    (∃ (w : RegW) (s : State) (t : Taken), Takes { block := 15, unit := 0, off := 0x30 } w s t ∧ t.hit 0 = true ∧ bit t.word 0 =
     true ∧ 2 < s.dev.field 15 0x18 4 0 ∧ (s.dev.coreCtl (s.dev.field 15 0x18 4 0)).state = 1) ∧
    (∃ (w : RegW) (s : State) (t : Taken), Takes { block := 16, unit := 0, off := 0x38 } w s t ∧ t.hit 0 = true) ∧
    (∃ (w : RegW) (s : State) (t : Taken), Takes { block := 16, unit := 0, off := 0x40 } w s t ∧ t.hit 0 = true ∧ bit t.word 0 =
     true) ∧
    (∃ (w : RegW) (s : State) (t : Taken), Takes { block := 17, unit := 0, off := 0x30 } w s t ∧ t.hit 0 = true ∧ 3 ≤ w.req.val) ∧
    (∃ (w : RegW) (s : State) (t : Taken), Takes { block := 17, unit := 0, off := 0x10 } w s t ∧ t.hits ≠ [] ∧ s.dev.obs.visible =
     true) ∧
    (∃ (w : RegW) (s : State) (t : Taken), Takes { block := 17, unit := 0, off := 0x28 } w s t ∧ s.dev.obs.visible = true) ∧
    (∃ (w : RegW) (s : State) (t : Taken), Takes { block := 18, unit := 0, off := 0x20 } w s t ∧ t.hit 0 = true ∧ t.hit 24 = true) ∧
    (∃ (w : RegW) (s : State) (t : Taken), Takes { block := 18, unit := 0, off := 0x30 } w s t ∧ t.hit 0 = true ∧ bit t.word 0 =
     true) ∧
    (∃ (w : RegW) (s : State) (t : Taken), Takes { block := 16, unit := 0, off := 0x38 } w s t ∧ t.hit 0 = true) ∧
    (∃ (w : RegW) (s : State) (off : Nat) (size : Nat), s.On ∧ regPlace off = none) :=
  ⟨⟨(put 1), (free fun d => (d.csrSet (blockBase 15 + 0x18) 18).modCtrl fun c => { c with cores := [(18, { state := 1 })] }), (takenAt { block := 15, unit := 0, off := 0x30 } (put 1) (free fun d => (d.csrSet (blockBase 15 + 0x18) 18).modCtrl fun c => { c with cores := [(18, { state := 1 })] })), by decide +kernel⟩,
    ⟨(put 5), (free id), (takenAt { block := 16, unit := 0, off := 0x38 } (put 5) (free id)), by decide +kernel⟩,
    ⟨(put 1), (free id), (takenAt { block := 16, unit := 0, off := 0x40 } (put 1) (free id)), by decide +kernel⟩,
    ⟨(put 0x1FFFF), (free id), (takenAt { block := 17, unit := 0, off := 0x30 } (put 0x1FFFF) (free id)), by decide +kernel⟩,
    ⟨(put 1), (free fun d => d.modObs fun o => { o with visible := true }), (takenAt { block := 17, unit := 0, off := 0x10 } (put 1) (free fun d => d.modObs fun o => { o with visible := true })), by decide +kernel⟩,
    ⟨(put 0x10001), (free fun d => d.modObs fun o => { o with visible := true }), (takenAt { block := 17, unit := 0, off := 0x28 } (put 0x10001) (free fun d => d.modObs fun o => { o with visible := true })), by decide +kernel⟩,
    ⟨(put 0x0A000BB8), (free id), (takenAt { block := 18, unit := 0, off := 0x20 } (put 0x0A000BB8) (free id)), by decide +kernel⟩,
    ⟨(put 1), (free id), (takenAt { block := 18, unit := 0, off := 0x30 } (put 1) (free id)), by decide +kernel⟩,
    ⟨(put 5), (free id), (takenAt { block := 16, unit := 0, off := 0x38 } (put 5) (free id)), by decide +kernel⟩,
    ⟨(put 0), full, 0xFFFFFFF, 8, by decide +kernel⟩⟩

theorem witness_BootStagesComplete :
    (∃ (s : State) (dimms : List (Nat × Bool)) (rate : Nat), s.On ∧ s.dev.boot.stage = 1 ∧ s.dev.power.state = .reduced) ∧
    (∃ (s : State), s.On ∧ s.dev.boot.stage = 2 ∧ imageFault s.vault s.dev (b2n s.dev.boot.image) = none) ∧
    (∃ (s : State) (code : List Bytes) (devices : List PortDevice), s.On ∧ s.dev.boot.stage = 4 ∧ s.dev.power.state = .reduced ∧
     s.dev.power.warmPinLow = false) ∧
    (∃ (s : State), s.On ∧ s.dev.boot.stage = 5 ∧ s.dev.manifest.stage = 0) :=
  ⟨⟨(booting 1 id), [(16, true)], 4800, by decide +kernel⟩,
    ⟨{ (State.reset.withDev (imageDev imageTag)) with vault := imageVault }, and2 (by decide +kernel) image_good⟩,
    ⟨(booting 4 id), [], [], by decide +kernel⟩,
    ⟨(booting 5 id), by decide +kernel⟩⟩

theorem witness_ControlComplete :
    (∃ (s : State) (k : Fin 19), s.On ∧ (s.dev.coreCtl k.val).state = 1 ∧ (s.dev.coreCtl k.val).wdFrom + 1000000 * watchdogPeriod
     s.dev k.val ≤ s.dev.uptime ∧ (s.dev.coreCtl k.val).expiries = []) ∧
    (∃ (s : State) (k : Fin 19), s.On ∧ (s.dev.coreCtl k.val).state = 2 ∧ (s.dev.coreCtl k.val).since + 20000000 < s.dev.uptime) ∧
    (∃ (s : State) (k : Fin 19), s.On ∧ (s.dev.coreCtl k.val).state = 2 ∧ s.dev.uptime ≤ (s.dev.coreCtl k.val).since + 20000000 ∧
     (s.dev.coreCtl k.val).waiting = [] ∧ heldFor k.val s.dev = [] ∧ (k.val ≠ 2 ∨ s.dev.unsent = [])) ∧
    (∃ (s : State) (epoch : W32), s.On ∧ s.dev.restarting 0 = false ∧ s.dev.ctrl.claims = []) ∧
    (∃ (s : State), s.On ∧ s.dev.ctrl.linkFailed = false) ∧
    (∃ (s : State), s.On ∧ 3 ≤ s.dev.ctrl.linkMissed ∧ s.dev.ctrl.linkFailed = false ∧ (s.dev.ep 1).up = false) ∧
    (∃ (s : State), s.On ∧ s.dev.ledger.state = 1 ∧ s.dev.uptime ≤ s.dev.ledger.mountSince + 400000000 ∧ s.dev.ledger.blocks = [] ∧
     s.dev.ledger.early = []) ∧
    (∃ (s : State), s.On ∧ s.dev.ledger.state = 1 ∧ s.dev.ledger.mountSince + 400000000 < s.dev.uptime) ∧
    (∃ (s : State) (i : Nat) (n : Nat) (b : LedgerBlock), s.On ∧ s.dev.ledger.state = 2 ∧ s.dev.ledger.blocks = [(i, b)] ∧
     s.dev.ledger.free = some n) ∧
    (∃ (s : State) (counter : Word) (frame : Bytes) (tag : Bytes) (h : Bytes) (k : Bytes), s.On ∧ (s.dev.frame 1024).busy = false ∧
     towKey s.vault s.dev = some (some k) ∧ s.dev.ledger.towCounter.toNat < counter.toNat ∧ gcmOpen k (leBytes 8 counter.toNat ++
     [0, 0, 0, 3]) [] (fit 1024 frame) (fit 16 tag) = some h) ∧
    (∃ (s : State) (id : BitVec 20), s.On ∧ s.dev.boot.stage = 1) ∧
    (∃ (s : State) (off : Nat) (bs : Bytes) (d : Dev), s.On ∧ d = frameWrite 1025 off bs s.dev ∧ ((s.dev.frame 1025).busy = true ∨
     (d.frame 1025).busy = false ∨ (d.frame 1025).code.toNat ∈ queryCodes ∨ (d.frame 1025).code = 0x1005#16)) ∧
    (∃ (s : State) (off : Nat) (bs : Bytes) (d : Dev), s.On ∧ d = frameWrite 1025 off bs s.dev ∧ (s.dev.frame 1025).busy = false ∧
     (d.frame 1025).busy = true ∧ (d.frame 1025).code.toNat ∉ queryCodes ∧ (d.frame 1025).code ≠ 0x1005#16) ∧
    (∃ (s : State) (off : Nat) (n : Nat), s.On) ∧
    (∃ (s : State) (line : List Bool), s.On ∧ uartBit line 9 = true ∧ fallsEarly line = false ∧ s.dev.ctrl.uartFifo.length < 64) ∧
    (∃ (s : State) (src : Source), s.On ∧ (s.dev.frame src.val).busy = true ∧ (s.dev.frame src.val).running = false ∧ (s.dev.frame
     src.val).code.toNat ∉ commandCodes) ∧
    (∃ (c : Cmd) (s : State) (baud : Nat), Serves { block := some 15 } c s ∧ 9600 ≤ baud ∧ baud ≤ 3000000) ∧
    (∃ (c : Cmd) (s : State), Serves { reduced := true, i3c := true } c s) ∧
    (∃ (c : Cmd) (s : State) (k : Nat), Serves { i3c := true } c s ∧ k ≤ 18) ∧
    (∃ (c : Cmd) (s : State) (k : Nat), Serves { block := some 15 } c s ∧ (2 < k ∨ 2 ≤ s.vault.debug) ∧ k ≤ 18 ∧ (s.dev.coreCtl
     k).state = 1) ∧
    (∃ (c : Cmd) (s : State) (base : Nat) (n : Nat) (head : Nat) (vector : Nat), Serves {} c s ∧ 6 ≤ n ∧ n ≤ 16 ∧ vector < 2048) ∧
    (∃ (c : Cmd) (s : State), Serves { reduced := true, i3c := true } c s) ∧
    (∃ (c : Cmd) (s : State) (image : Nat) (off : Nat) (length : Nat) (space : Nat) (address : Nat) (fetched : Bytes), Serves
     { reduced := true, i3c := true } c s ∧ image < 2 ∧ off + length ≤ 2 ^ 26 ∧ 0 < space ∧ space ≤ 9 ∧ s.dev.boot.stage < 2 ∧
     spaceMapped s.dev (actingPf c.src.val none s.dev) true space address length = true) :=
  ⟨⟨(coreIs { state := 1, wdFrom := 20000000 }), 18, by decide +kernel⟩,
    ⟨(coreIs { state := 2 }), 18, by decide +kernel⟩,
    ⟨(coreIs { state := 2, since := 20000000 }), 18, by decide +kernel⟩,
    ⟨full, 9, by decide +kernel⟩,
    ⟨full, by decide +kernel⟩,
    ⟨(at_ fun d => d.modCtrl fun c => { c with linkMissed := 3 }), by decide +kernel⟩,
    ⟨(ledgerIs fun l => { l with state := 1, mountSince := 100000000 }), by decide +kernel⟩,
    ⟨(ledgerIs fun l => { l with state := 1 }), by decide +kernel⟩,
    ⟨(ledgerIs fun l => { l with state := 2, blocks := [(9, { logical := 5, seq := 6, valid := 7 })] }), 9, ((ledgerIs fun l => { l with state := 2, blocks := [(9, { logical := 5, seq := 6, valid := 7 })] }).dev.ledger.free.getD 0), { logical := 5, seq := 6, valid := 7 }, by decide +kernel⟩,
    ⟨(ownedDev 0), 1, [], (gcmTag (keyBytes (tget {} (ownedDev 0).vault.keys 16).key) (leBytes 8 (1 : Word).toNat ++ [0, 0, 0, 3]) [] (fit 1024 [])), (gcmCtr (keyBytes (tget {} (ownedDev 0).vault.keys 16).key) (leBytes 8 (1 : Word).toNat ++ [0, 0, 0, 3]) (fit 1024 [])), (keyBytes (tget {} (ownedDev 0).vault.keys 16).key), and2 (by decide +kernel) ⟨rfl, by decide +kernel, tag_opens _ _ _ _ (by decide +kernel)⟩⟩,
    ⟨(at_ fun d => d.modTime fun t => { t with state := 2 }), 11, by decide +kernel⟩,
    ⟨(busyFrame 1025 0), 4095, [1], _, by decide +kernel, rfl, by decide +kernel⟩,
    ⟨full, 4088, [1], _, by decide +kernel, rfl, by decide +kernel⟩,
    ⟨full, 0, 4096, by decide +kernel⟩,
    ⟨full, (List.replicate 16 false ++ List.replicate 144 true), by decide +kernel⟩,
    ⟨(busyFrame 1024 0x9999), 1024, by decide +kernel⟩,
    ⟨cmd, full, 3000000, by decide +kernel⟩,
    ⟨cmd, full, by decide +kernel⟩,
    ⟨cmd, full, 18, by decide +kernel⟩,
    ⟨cmd, (coreIs { state := 1 }), 18, by decide +kernel⟩,
    ⟨cmd, full, 0, 16, 0, 2047, by decide +kernel⟩,
    ⟨cmd, full, by decide +kernel⟩,
    ⟨cmd, full, 1, 67108863, 1, 1, 0, [1], by decide +kernel⟩⟩

theorem witness_PowerAndObserveComplete :
    (∃ (s : State) (r : Reading), s.On) ∧
    (∃ (s : State), s.On ∧ (s.dev.coreCtl 1).state = 1 ∧ s.dev.power.haveReading = true) ∧
    (∃ (s : State) (cause : Fin 4) (index : Nat) (reading : Int), s.On ∧ tripHolds cause.val reading = true) ∧
    (∃ (s : State), s.On ∧ s.dev.power.pwrEn = true) ∧
    (∃ (s : State) (mv : Nat), (s.dev.power.pwrEn = false ∨ s.dev.power.state = .off)) ∧
    (∃ (s : State) (mv : Nat), s.On ∧ s.dev.power.pwrEn = true) ∧
    (∃ (s : State) (p48 : Bool), s.dev.power.tripped = false) ∧
    (∃ (s : State) (ns : Nat), 1000 ≤ ns ∧ s.dev.power.warmPinLow = false) ∧
    (∃ (s : State) (straps : Fin 4), s.dev.power.pwrGood = false ∧ s.dev.power.pwrEn = true ∧ s.dev.power.p48 = true ∧
     s.dev.power.standby = true ∧ s.dev.power.tripped = false) ∧
    (∃ (s : State) (cause : Nat), s.On ∧ s.dev.power.state ≠ .warmReset ∧ s.dev.power.warmDue = some cause) ∧
    (∃ (s : State), s.On ∧ s.dev.power.ringJoin = true) ∧
    (∃ (s : State) (n : Fin 60) (f : Bool), s.On ∧ n.val < 16) ∧
    (∃ (c : Cmd) (s : State), s.dev.restarting 1 = false ∧ Serves { i3c := true } c s) ∧
    (∃ (c : Cmd) (s : State) (watts : Nat), s.dev.restarting 1 = false ∧ Serves { block := some 18 } c s ∧ 1000 ≤ watts ∧ watts ≤
     4000) ∧
    (∃ (c : Cmd) (s : State), s.dev.restarting 1 = false ∧ Serves { block := some 18 } c s) ∧
    (∃ (c : Cmd) (s : State) (n : Nat), s.dev.restarting 1 = false ∧ Serves { i3c := true } c s ∧ n ≤ 59) ∧
    (∃ (c : Cmd) (s : State) (mode : Nat) (sources : Nat), s.dev.obs.visible = true ∧ Serves { block := some 17 } c s ∧ mode ≤ 2 ∧
     sources ≤ 7 ∧ (mode = 0 ∨ s.dev.region 2 ≠ none)) ∧
    (∃ (c : Cmd) (s : State), s.dev.obs.visible = true ∧ Serves { i3c := true } c s) ∧
    (∃ (c : Cmd) (s : State) (period : Nat) (clusters : Nat) (cores : Nat), s.dev.obs.visible = true ∧ Serves { block := some 17 } c
     s ∧ period ≤ 65535 ∧ clusters < 2 ^ 16 ∧ cores < 2 ^ 19) ∧
    (∃ (c : Cmd) (s : State) (unit : Nat), s.dev.obs.visible = true ∧ Serves { i3c := true } c s ∧ unit ≤ 527) ∧
    (∃ (c : Cmd) (s : State) (unit : Nat), s.dev.obs.visible = true ∧ Serves { i3c := true } c s ∧ unit ≤ 18) ∧
    (∃ (s : State), s.dev.obs.visible = true ∧ s.On ∧ s.dev.canal.aligned = true ∧ s.dev.canal.dwell = false ∧ s.dev.canal.slot = 0
     ∧ s.dev.obs.period ≠ 0 ∧ s.dev.canal.lockage % s.dev.obs.period = 0 ∧ s.dev.obs.sampledAt ≠ s.dev.canal.lockage + 1 ∧
     s.dev.obs.clusters = 0 ∧ s.dev.obs.coreMask = 1) :=
  ⟨⟨full, { inputW := 900, inputMv := 48000, junction := [8], railMv := [700], railMilli := 10, coolant := 160 }, by decide +kernel⟩,
    ⟨(at_ fun d => (d.modPower fun p => { p with haveReading := true }).modCtrl fun c => { c with cores := [(1, { state := 1 })] }), by decide +kernel⟩,
    ⟨full, 3, 0, 440, by decide +kernel⟩,
    ⟨(at_ fun d => d.modPower fun p => { p with pwrEn := true }), by decide +kernel⟩,
    ⟨(at_ fun d => d.modPower fun p => { p with pwrEn := false }), 0, by decide +kernel⟩,
    ⟨(at_ fun d => d.modPower fun p => { p with pwrEn := true }), 39999, by decide +kernel⟩,
    ⟨(at_ fun d => d.modPower fun p => { p with tripped := false }), true, by decide +kernel⟩,
    ⟨full, 1000, by decide +kernel⟩,
    ⟨(at_ fun d => d.modPower fun p => { p with state := .off, pwrEn := true, p48 := true, standby := true, pwrGood := false }), 3, by decide +kernel⟩,
    ⟨(at_ fun d => d.modPower fun p => { p with warmDue := some 2 }), 2, by decide +kernel⟩,
    ⟨(at_ fun d => d.modPower fun p => { p with ringJoin := true }), by decide +kernel⟩,
    ⟨full, 15, false, by decide +kernel⟩,
    ⟨cmd, full, by decide +kernel⟩,
    ⟨cmd, full, 4000, by decide +kernel⟩,
    ⟨cmd, full, by decide +kernel⟩,
    ⟨cmd, full, 59, by decide +kernel⟩,
    ⟨cmd, (under { regions := [{ kind := 2, base := 0x80000000, size := 65536 }] } fun d => d.modObs fun o => { o with visible := true }), 2, 7, by decide +kernel⟩,
    ⟨cmd, (at_ fun d => (d.modObs fun o => { o with visible := true, period := 3, coreMask := 1 }).modCanal fun c => { c with aligned := true, lockage := 3 }), by decide +kernel⟩,
    ⟨cmd, (at_ fun d => (d.modObs fun o => { o with visible := true, period := 3, coreMask := 1 }).modCanal fun c => { c with aligned := true, lockage := 3 }), 65535, 65535, 524287, by decide +kernel⟩,
    ⟨cmd, (at_ fun d => (d.modObs fun o => { o with visible := true, period := 3, coreMask := 1 }).modCanal fun c => { c with aligned := true, lockage := 3 }), 527, by decide +kernel⟩,
    ⟨cmd, (at_ fun d => (d.modObs fun o => { o with visible := true, period := 3, coreMask := 1 }).modCanal fun c => { c with aligned := true, lockage := 3 }), 18, by decide +kernel⟩,
    ⟨(at_ fun d => (d.modObs fun o => { o with visible := true, period := 3, coreMask := 1 }).modCanal fun c => { c with aligned := true, lockage := 3 }), by decide +kernel⟩⟩

theorem witness_VolilArithmeticComplete :
    (∃ (o : VolilRR) (n : Nat) (w : Nat) (a : Nat) (b : Nat) (c : Nat) (s : State), w = vBits o.size ∧ a = s.dev.operand o.core.val
     o.size o.d ∧ b = s.dev.operand o.core.val o.size o.s ∧ c = s.dev.carry o.core.val ∧ Runs o.core (.alu .mov o) n s) ∧
    (∃ (o : VolilRR) (n : Nat) (w : Nat) (a : Nat) (b : Nat) (c : Nat) (s : State), w = vBits o.size ∧ a = s.dev.operand o.core.val
     o.size o.d ∧ b = s.dev.operand o.core.val o.size o.s ∧ c = s.dev.carry o.core.val ∧ Runs o.core (.alu .add o) n s) ∧
    (∃ (o : VolilRR) (n : Nat) (w : Nat) (a : Nat) (b : Nat) (c : Nat) (s : State), w = vBits o.size ∧ a = s.dev.operand o.core.val
     o.size o.d ∧ b = s.dev.operand o.core.val o.size o.s ∧ c = s.dev.carry o.core.val ∧ Runs o.core (.alu .adc o) n s) ∧
    (∃ (o : VolilRR) (n : Nat) (w : Nat) (a : Nat) (b : Nat) (c : Nat) (s : State), w = vBits o.size ∧ a = s.dev.operand o.core.val
     o.size o.d ∧ b = s.dev.operand o.core.val o.size o.s ∧ c = s.dev.carry o.core.val ∧ Runs o.core (.alu .sub o) n s) ∧
    (∃ (o : VolilRR) (n : Nat) (w : Nat) (a : Nat) (b : Nat) (c : Nat) (s : State), w = vBits o.size ∧ a = s.dev.operand o.core.val
     o.size o.d ∧ b = s.dev.operand o.core.val o.size o.s ∧ c = s.dev.carry o.core.val ∧ Runs o.core (.alu .sbc o) n s) ∧
    (∃ (o : VolilRR) (n : Nat) (w : Nat) (a : Nat) (b : Nat) (c : Nat) (s : State), w = vBits o.size ∧ a = s.dev.operand o.core.val
     o.size o.d ∧ b = s.dev.operand o.core.val o.size o.s ∧ c = s.dev.carry o.core.val ∧ Runs o.core (.alu .and o) n s) ∧
    (∃ (o : VolilRR) (n : Nat) (w : Nat) (a : Nat) (b : Nat) (c : Nat) (s : State), w = vBits o.size ∧ a = s.dev.operand o.core.val
     o.size o.d ∧ b = s.dev.operand o.core.val o.size o.s ∧ c = s.dev.carry o.core.val ∧ Runs o.core (.alu .or o) n s) ∧
    (∃ (o : VolilRR) (n : Nat) (w : Nat) (a : Nat) (b : Nat) (c : Nat) (s : State), w = vBits o.size ∧ a = s.dev.operand o.core.val
     o.size o.d ∧ b = s.dev.operand o.core.val o.size o.s ∧ c = s.dev.carry o.core.val ∧ Runs o.core (.alu .xor o) n s) ∧
    (∃ (o : VolilRR) (n : Nat) (w : Nat) (a : Nat) (b : Nat) (c : Nat) (s : State), w = vBits o.size ∧ a = s.dev.operand o.core.val
     o.size o.d ∧ b = s.dev.operand o.core.val o.size o.s ∧ c = s.dev.carry o.core.val ∧ Runs o.core (.alu .shl o) n s) ∧
    (∃ (o : VolilRR) (n : Nat) (w : Nat) (a : Nat) (b : Nat) (c : Nat) (s : State), w = vBits o.size ∧ a = s.dev.operand o.core.val
     o.size o.d ∧ b = s.dev.operand o.core.val o.size o.s ∧ c = s.dev.carry o.core.val ∧ Runs o.core (.alu .shr o) n s) ∧
    (∃ (o : VolilRR) (n : Nat) (w : Nat) (a : Nat) (b : Nat) (c : Nat) (s : State), w = vBits o.size ∧ a = s.dev.operand o.core.val
     o.size o.d ∧ b = s.dev.operand o.core.val o.size o.s ∧ c = s.dev.carry o.core.val ∧ Runs o.core (.alu .sar o) n s) ∧
    (∃ (o : VolilRR) (n : Nat) (w : Nat) (a : Nat) (b : Nat) (c : Nat) (s : State), w = vBits o.size ∧ a = s.dev.operand o.core.val
     o.size o.d ∧ b = s.dev.operand o.core.val o.size o.s ∧ c = s.dev.carry o.core.val ∧ Runs o.core (.alu .mul o) n s) ∧
    (∃ (o : VolilRR) (n : Nat) (w : Nat) (a : Nat) (b : Nat) (c : Nat) (s : State), w = vBits o.size ∧ a = s.dev.operand o.core.val
     o.size o.d ∧ b = s.dev.operand o.core.val o.size o.s ∧ c = s.dev.carry o.core.val ∧ Runs o.core (.alu .mulhu o) n s) ∧
    (∃ (o : VolilRR) (n : Nat) (w : Nat) (a : Nat) (b : Nat) (c : Nat) (s : State), w = vBits o.size ∧ a = s.dev.operand o.core.val
     o.size o.d ∧ b = s.dev.operand o.core.val o.size o.s ∧ c = s.dev.carry o.core.val ∧ Runs o.core (.alu .divu o) n s ∧ b ≠ 0) ∧
    (∃ (o : VolilRR) (n : Nat) (w : Nat) (a : Nat) (b : Nat) (c : Nat) (s : State), w = vBits o.size ∧ a = s.dev.operand o.core.val
     o.size o.d ∧ b = s.dev.operand o.core.val o.size o.s ∧ c = s.dev.carry o.core.val ∧ Runs o.core (.alu .remu o) n s ∧ b ≠ 0) ∧
    (∃ (o : VolilRR) (n : Nat) (w : Nat) (a : Nat) (b : Nat) (c : Nat) (s : State), w = vBits o.size ∧ a = s.dev.operand o.core.val
     o.size o.d ∧ b = s.dev.operand o.core.val o.size o.s ∧ c = s.dev.carry o.core.val ∧ Runs o.core (.alu .cmp o) n s) ∧
    (∃ (o : VolilRI) (n : Nat) (w : Nat) (a : Nat) (b : Nat) (c : Nat) (s : State), w = vBits o.size ∧ a = s.dev.operand o.core.val
     o.size o.d ∧ b = immediate o ∧ c = s.dev.carry o.core.val ∧ Runs o.core (.aluImm .mov o) n s) ∧
    (∃ (o : VolilRI) (n : Nat) (w : Nat) (a : Nat) (b : Nat) (c : Nat) (s : State), w = vBits o.size ∧ a = s.dev.operand o.core.val
     o.size o.d ∧ b = immediate o ∧ c = s.dev.carry o.core.val ∧ Runs o.core (.aluImm .add o) n s) ∧
    (∃ (o : VolilRI) (n : Nat) (w : Nat) (a : Nat) (b : Nat) (c : Nat) (s : State), w = vBits o.size ∧ a = s.dev.operand o.core.val
     o.size o.d ∧ b = immediate o ∧ c = s.dev.carry o.core.val ∧ Runs o.core (.aluImm .adc o) n s) ∧
    (∃ (o : VolilRI) (n : Nat) (w : Nat) (a : Nat) (b : Nat) (c : Nat) (s : State), w = vBits o.size ∧ a = s.dev.operand o.core.val
     o.size o.d ∧ b = immediate o ∧ c = s.dev.carry o.core.val ∧ Runs o.core (.aluImm .sub o) n s) ∧
    (∃ (o : VolilRI) (n : Nat) (w : Nat) (a : Nat) (b : Nat) (c : Nat) (s : State), w = vBits o.size ∧ a = s.dev.operand o.core.val
     o.size o.d ∧ b = immediate o ∧ c = s.dev.carry o.core.val ∧ Runs o.core (.aluImm .sbc o) n s) ∧
    (∃ (o : VolilRI) (n : Nat) (w : Nat) (a : Nat) (b : Nat) (c : Nat) (s : State), w = vBits o.size ∧ a = s.dev.operand o.core.val
     o.size o.d ∧ b = immediate o ∧ c = s.dev.carry o.core.val ∧ Runs o.core (.aluImm .and o) n s) ∧
    (∃ (o : VolilRI) (n : Nat) (w : Nat) (a : Nat) (b : Nat) (c : Nat) (s : State), w = vBits o.size ∧ a = s.dev.operand o.core.val
     o.size o.d ∧ b = immediate o ∧ c = s.dev.carry o.core.val ∧ Runs o.core (.aluImm .or o) n s) ∧
    (∃ (o : VolilRI) (n : Nat) (w : Nat) (a : Nat) (b : Nat) (c : Nat) (s : State), w = vBits o.size ∧ a = s.dev.operand o.core.val
     o.size o.d ∧ b = immediate o ∧ c = s.dev.carry o.core.val ∧ Runs o.core (.aluImm .xor o) n s) ∧
    (∃ (o : VolilRI) (n : Nat) (w : Nat) (a : Nat) (b : Nat) (c : Nat) (s : State), w = vBits o.size ∧ a = s.dev.operand o.core.val
     o.size o.d ∧ b = immediate o ∧ c = s.dev.carry o.core.val ∧ Runs o.core (.aluImm .shl o) n s) ∧
    (∃ (o : VolilRI) (n : Nat) (w : Nat) (a : Nat) (b : Nat) (c : Nat) (s : State), w = vBits o.size ∧ a = s.dev.operand o.core.val
     o.size o.d ∧ b = immediate o ∧ c = s.dev.carry o.core.val ∧ Runs o.core (.aluImm .shr o) n s) ∧
    (∃ (o : VolilRI) (n : Nat) (w : Nat) (a : Nat) (b : Nat) (c : Nat) (s : State), w = vBits o.size ∧ a = s.dev.operand o.core.val
     o.size o.d ∧ b = immediate o ∧ c = s.dev.carry o.core.val ∧ Runs o.core (.aluImm .sar o) n s) ∧
    (∃ (o : VolilRI) (n : Nat) (w : Nat) (a : Nat) (b : Nat) (c : Nat) (s : State), w = vBits o.size ∧ a = s.dev.operand o.core.val
     o.size o.d ∧ b = immediate o ∧ c = s.dev.carry o.core.val ∧ Runs o.core (.aluImm .mul o) n s) ∧
    (∃ (o : VolilRI) (n : Nat) (w : Nat) (a : Nat) (b : Nat) (c : Nat) (s : State), w = vBits o.size ∧ a = s.dev.operand o.core.val
     o.size o.d ∧ b = immediate o ∧ c = s.dev.carry o.core.val ∧ Runs o.core (.aluImm .cmp o) n s) ∧
    (∃ (o : VolilRR) (n : Nat) (w : Nat) (a : Nat) (b : Nat) (goal : Nat) (s : State), w = vBits o.size ∧ a = s.dev.operand
     o.core.val o.size o.d ∧ b = s.dev.operand o.core.val o.size o.s ∧ goal = ((s.dev.core o.core.val).gr o.s.val).toNat % 2 ^ 48 ∧
     Runs o.core (.rr .not o) n s) ∧
    (∃ (o : VolilRR) (n : Nat) (w : Nat) (a : Nat) (b : Nat) (goal : Nat) (s : State), w = vBits o.size ∧ a = s.dev.operand
     o.core.val o.size o.d ∧ b = s.dev.operand o.core.val o.size o.s ∧ goal = ((s.dev.core o.core.val).gr o.s.val).toNat % 2 ^ 48 ∧
     Runs o.core (.rr .neg o) n s) ∧
    (∃ (o : VolilRR) (n : Nat) (w : Nat) (a : Nat) (b : Nat) (goal : Nat) (s : State), w = vBits o.size ∧ a = s.dev.operand
     o.core.val o.size o.d ∧ b = s.dev.operand o.core.val o.size o.s ∧ goal = ((s.dev.core o.core.val).gr o.s.val).toNat % 2 ^ 48 ∧
     Runs o.core (.rr .tst o) n s) ∧
    (∃ (o : VolilRR) (n : Nat) (w : Nat) (a : Nat) (b : Nat) (goal : Nat) (s : State), w = vBits o.size ∧ a = s.dev.operand
     o.core.val o.size o.d ∧ b = s.dev.operand o.core.val o.size o.s ∧ goal = ((s.dev.core o.core.val).gr o.s.val).toNat % 2 ^ 48 ∧
     Runs o.core (.rr .mfc o) n s) ∧
    (∃ (o : VolilRR) (n : Nat) (w : Nat) (a : Nat) (b : Nat) (goal : Nat) (s : State) (c : Core), w = vBits o.size ∧ a =
     s.dev.operand o.core.val o.size o.d ∧ b = s.dev.operand o.core.val o.size o.s ∧ goal = ((s.dev.core o.core.val).gr
     o.s.val).toNat % 2 ^ 48 ∧ Runs o.core (.rr .mtc o) n s ∧ (s.dev.core o.core.val).setCtl o.d.val ((s.dev.core o.core.val).gr
     o.s.val) = some c) ∧
    (∃ (o : VolilRR) (n : Nat) (w : Nat) (a : Nat) (b : Nat) (goal : Nat) (s : State), w = vBits o.size ∧ a = s.dev.operand
     o.core.val o.size o.d ∧ b = s.dev.operand o.core.val o.size o.s ∧ goal = ((s.dev.core o.core.val).gr o.s.val).toNat % 2 ^ 48 ∧
     Runs o.core (.rr .callr o) n s) ∧
    (∃ (o : VolilRR) (n : Nat) (w : Nat) (a : Nat) (b : Nat) (goal : Nat) (s : State), w = vBits o.size ∧ a = s.dev.operand
     o.core.val o.size o.d ∧ b = s.dev.operand o.core.val o.size o.s ∧ goal = ((s.dev.core o.core.val).gr o.s.val).toNat % 2 ^ 48 ∧
     Runs o.core (.rr .jmpr o) n s) ∧
    (∃ (o : VolilRR) (n : Nat) (w : Nat) (a : Nat) (b : Nat) (goal : Nat) (s : State), w = vBits o.size ∧ a = s.dev.operand
     o.core.val o.size o.d ∧ b = s.dev.operand o.core.val o.size o.s ∧ goal = ((s.dev.core o.core.val).gr o.s.val).toNat % 2 ^ 48 ∧
     Runs o.core (.rr .sext o) n s) :=
  ⟨⟨(rr 1 2), 2, 64, 7, 3, 0, (coreRuns id (.alu .mov (rr 1 2))), by decide +kernel⟩,
    ⟨(rr 1 2), 2, 64, 7, 3, 0, (coreRuns id (.alu .add (rr 1 2))), by decide +kernel⟩,
    ⟨(rr 1 2), 2, 64, 7, 3, 0, (coreRuns id (.alu .adc (rr 1 2))), by decide +kernel⟩,
    ⟨(rr 1 2), 2, 64, 7, 3, 0, (coreRuns id (.alu .sub (rr 1 2))), by decide +kernel⟩,
    ⟨(rr 1 2), 2, 64, 7, 3, 0, (coreRuns id (.alu .sbc (rr 1 2))), by decide +kernel⟩,
    ⟨(rr 1 2), 2, 64, 7, 3, 0, (coreRuns id (.alu .and (rr 1 2))), by decide +kernel⟩,
    ⟨(rr 1 2), 2, 64, 7, 3, 0, (coreRuns id (.alu .or (rr 1 2))), by decide +kernel⟩,
    ⟨(rr 1 2), 2, 64, 7, 3, 0, (coreRuns id (.alu .xor (rr 1 2))), by decide +kernel⟩,
    ⟨(rr 1 2), 2, 64, 7, 3, 0, (coreRuns id (.alu .shl (rr 1 2))), by decide +kernel⟩,
    ⟨(rr 1 2), 2, 64, 7, 3, 0, (coreRuns id (.alu .shr (rr 1 2))), by decide +kernel⟩,
    ⟨(rr 1 2), 2, 64, 7, 3, 0, (coreRuns id (.alu .sar (rr 1 2))), by decide +kernel⟩,
    ⟨(rr 1 2), 2, 64, 7, 3, 0, (coreRuns id (.alu .mul (rr 1 2))), by decide +kernel⟩,
    ⟨(rr 1 2), 2, 64, 7, 3, 0, (coreRuns id (.alu .mulhu (rr 1 2))), by decide +kernel⟩,
    ⟨(rr 1 2), 2, 64, 7, 3, 0, (coreRuns id (.alu .divu (rr 1 2))), by decide +kernel⟩,
    ⟨(rr 1 2), 2, 64, 7, 3, 0, (coreRuns id (.alu .remu (rr 1 2))), by decide +kernel⟩,
    ⟨(rr 1 2), 2, 64, 7, 3, 0, (coreRuns id (.alu .cmp (rr 1 2))), by decide +kernel⟩,
    ⟨(ri .s16 15), 4, 16, 9, (immediate (ri .s16 15)), 0, (coreRuns id (.aluImm .mov (ri .s16 15))), by decide +kernel⟩,
    ⟨(ri .s16 15), 4, 16, 9, (immediate (ri .s16 15)), 0, (coreRuns id (.aluImm .add (ri .s16 15))), by decide +kernel⟩,
    ⟨(ri .s16 15), 4, 16, 9, (immediate (ri .s16 15)), 0, (coreRuns id (.aluImm .adc (ri .s16 15))), by decide +kernel⟩,
    ⟨(ri .s16 15), 4, 16, 9, (immediate (ri .s16 15)), 0, (coreRuns id (.aluImm .sub (ri .s16 15))), by decide +kernel⟩,
    ⟨(ri .s16 15), 4, 16, 9, (immediate (ri .s16 15)), 0, (coreRuns id (.aluImm .sbc (ri .s16 15))), by decide +kernel⟩,
    ⟨(ri .s16 15), 4, 16, 9, (immediate (ri .s16 15)), 0, (coreRuns id (.aluImm .and (ri .s16 15))), by decide +kernel⟩,
    ⟨(ri .s16 15), 4, 16, 9, (immediate (ri .s16 15)), 0, (coreRuns id (.aluImm .or (ri .s16 15))), by decide +kernel⟩,
    ⟨(ri .s16 15), 4, 16, 9, (immediate (ri .s16 15)), 0, (coreRuns id (.aluImm .xor (ri .s16 15))), by decide +kernel⟩,
    ⟨(ri .s16 15), 4, 16, 9, (immediate (ri .s16 15)), 0, (coreRuns id (.aluImm .shl (ri .s16 15))), by decide +kernel⟩,
    ⟨(ri .s16 15), 4, 16, 9, (immediate (ri .s16 15)), 0, (coreRuns id (.aluImm .shr (ri .s16 15))), by decide +kernel⟩,
    ⟨(ri .s16 15), 4, 16, 9, (immediate (ri .s16 15)), 0, (coreRuns id (.aluImm .sar (ri .s16 15))), by decide +kernel⟩,
    ⟨(ri .s16 15), 4, 16, 9, (immediate (ri .s16 15)), 0, (coreRuns id (.aluImm .mul (ri .s16 15))), by decide +kernel⟩,
    ⟨(ri .s16 15), 4, 16, 9, (immediate (ri .s16 15)), 0, (coreRuns id (.aluImm .cmp (ri .s16 15))), by decide +kernel⟩,
    ⟨(rr 3 0), 2, (vBits (rr 3 0).size), ((coreRuns (id) (.rr .not (rr 3 0))).dev.operand 18 (rr 3 0).size (rr 3 0).d), ((coreRuns (id) (.rr .not (rr 3 0))).dev.operand 18 (rr 3 0).size (rr 3 0).s), ((((coreRuns (id) (.rr .not (rr 3 0))).dev.core 18).gr (rr 3 0).s.val).toNat % 2 ^ 48), (coreRuns (id) (.rr .not (rr 3 0))), by decide +kernel⟩,
    ⟨(rr 3 0), 2, (vBits (rr 3 0).size), ((coreRuns (id) (.rr .neg (rr 3 0))).dev.operand 18 (rr 3 0).size (rr 3 0).d), ((coreRuns (id) (.rr .neg (rr 3 0))).dev.operand 18 (rr 3 0).size (rr 3 0).s), ((((coreRuns (id) (.rr .neg (rr 3 0))).dev.core 18).gr (rr 3 0).s.val).toNat % 2 ^ 48), (coreRuns (id) (.rr .neg (rr 3 0))), by decide +kernel⟩,
    ⟨(rr 3 2), 2, (vBits (rr 3 2).size), ((coreRuns (id) (.rr .tst (rr 3 2))).dev.operand 18 (rr 3 2).size (rr 3 2).d), ((coreRuns (id) (.rr .tst (rr 3 2))).dev.operand 18 (rr 3 2).size (rr 3 2).s), ((((coreRuns (id) (.rr .tst (rr 3 2))).dev.core 18).gr (rr 3 2).s.val).toNat % 2 ^ 48), (coreRuns (id) (.rr .tst (rr 3 2))), by decide +kernel⟩,
    ⟨(rr 3 2), 2, (vBits (rr 3 2).size), ((coreRuns (id) (.rr .mfc (rr 3 2))).dev.operand 18 (rr 3 2).size (rr 3 2).d), ((coreRuns (id) (.rr .mfc (rr 3 2))).dev.operand 18 (rr 3 2).size (rr 3 2).s), ((((coreRuns (id) (.rr .mfc (rr 3 2))).dev.core 18).gr (rr 3 2).s.val).toNat % 2 ^ 48), (coreRuns (id) (.rr .mfc (rr 3 2))), by decide +kernel⟩,
    ⟨(rr 4 2), 2, (vBits (rr 4 2).size), ((coreRuns (fun c => { c with g := [(2, BitVec.ofNat 64 (codeBase + 256))] }) (.rr .mtc (rr 4 2))).dev.operand 18 (rr 4 2).size (rr 4 2).d), ((coreRuns (fun c => { c with g := [(2, BitVec.ofNat 64 (codeBase + 256))] }) (.rr .mtc (rr 4 2))).dev.operand 18 (rr 4 2).size (rr 4 2).s), ((((coreRuns (fun c => { c with g := [(2, BitVec.ofNat 64 (codeBase + 256))] }) (.rr .mtc (rr 4 2))).dev.core 18).gr (rr 4 2).s.val).toNat % 2 ^ 48), (coreRuns (fun c => { c with g := [(2, BitVec.ofNat 64 (codeBase + 256))] }) (.rr .mtc (rr 4 2))), { ((coreRuns (fun c => { c with g := [(2, BitVec.ofNat 64 (codeBase + 256))] }) (.rr .mtc (rr 4 2))).dev.core 18) with vbase := BitVec.ofNat 48 (codeBase + 256) }, by decide +kernel⟩,
    ⟨(rr 0 2), 2, (vBits (rr 0 2).size), ((coreRuns (id) (.rr .callr (rr 0 2))).dev.operand 18 (rr 0 2).size (rr 0 2).d), ((coreRuns (id) (.rr .callr (rr 0 2))).dev.operand 18 (rr 0 2).size (rr 0 2).s), ((((coreRuns (id) (.rr .callr (rr 0 2))).dev.core 18).gr (rr 0 2).s.val).toNat % 2 ^ 48), (coreRuns (id) (.rr .callr (rr 0 2))), by decide +kernel⟩,
    ⟨(rr 0 2), 2, (vBits (rr 0 2).size), ((coreRuns (id) (.rr .jmpr (rr 0 2))).dev.operand 18 (rr 0 2).size (rr 0 2).d), ((coreRuns (id) (.rr .jmpr (rr 0 2))).dev.operand 18 (rr 0 2).size (rr 0 2).s), ((((coreRuns (id) (.rr .jmpr (rr 0 2))).dev.core 18).gr (rr 0 2).s.val).toNat % 2 ^ 48), (coreRuns (id) (.rr .jmpr (rr 0 2))), by decide +kernel⟩,
    ⟨({ (rr 3 2) with size := .s8 } : VolilRR), 3, (vBits ({ (rr 3 2) with size := .s8 } : VolilRR).size), ((coreRuns (id) (.rr .sext ({ (rr 3 2) with size := .s8 } : VolilRR))).dev.operand 18 ({ (rr 3 2) with size := .s8 } : VolilRR).size ({ (rr 3 2) with size := .s8 } : VolilRR).d), ((coreRuns (id) (.rr .sext ({ (rr 3 2) with size := .s8 } : VolilRR))).dev.operand 18 ({ (rr 3 2) with size := .s8 } : VolilRR).size ({ (rr 3 2) with size := .s8 } : VolilRR).s), ((((coreRuns (id) (.rr .sext ({ (rr 3 2) with size := .s8 } : VolilRR))).dev.core 18).gr ({ (rr 3 2) with size := .s8 } : VolilRR).s.val).toNat % 2 ^ 48), (coreRuns (id) (.rr .sext ({ (rr 3 2) with size := .s8 } : VolilRR))), by decide +kernel⟩⟩

theorem witness_VolilControlComplete :
    (∃ (k : Fin 19) (n : Nat) (s : State), Runs k .nop n s) ∧
    (∃ (k : Fin 19) (s : State), Runs k .wait 1 s ∧ (s.dev.core k.val).pendingLines = []) ∧
    (∃ (k : Fin 19) (s : State), Runs k .wait 1 s ∧ (s.dev.core k.val).pendingLines ≠ []) ∧
    (∃ (k : Fin 19) (n : Nat) (s : State), Runs k .tret n s) ∧
    (∃ (k : Fin 19) (n : Nat) (s : State) (goal : Nat), Runs k .ret n s ∧ goal = ((s.dev.core k.val).gr 14).toNat % 2 ^ 48) ∧
    (∃ (k : Fin 19) (n : Nat) (s : State), Runs k .fence n s) ∧
    (∃ (k : Fin 19) (n : Nat) (s : State) (imm : Byte), Runs k (.sys imm) n s) ∧
    (∃ (k : Fin 19) (n : Nat) (s : State), Runs k .brk n s) ∧
    (∃ (k : Fin 19) (n : Nat) (s : State) (cc : Fin 16) (wide : Bool) (disp : W32) (taken : Bool), Runs k (.bcc cc wide disp) n s ∧
     taken = holds (s.dev.core k.val).fl cc.val) ∧
    (∃ (k : Fin 19) (n : Nat) (s : State) (disp : W32), Runs k (.call disp) n s) ∧
    (∃ (k : Fin 19) (n : Nat) (s : State) (x : Byte) (body : List (Nat × VInstr × Nat)) (d : Dev), Runs k (.ext x) n s ∧ 3 ≤ k.val ∧
     x.toNat < 64 ∧ bodyCode k 65 0 (tget [] (s.dev.core k.val).ext x.toNat) = some body ∧ body ≠ [] ∧ runBody s.vault k.val
     (s.dev.core k.val).pc.toNat (s.dev.after k.val n) body s.dev = .done d) :=
  ⟨⟨18, 1, (coreRuns (id) (.nop)), by decide +kernel⟩,
    ⟨18, (coreRuns (fun c => { c with timecmp := 5 }) (.wait)), by decide +kernel⟩,
    ⟨18, (coreRuns (fun c => { c with lines := [3] }) (.wait)), by decide +kernel⟩,
    ⟨18, 1, (coreRuns (id) (.tret)), by decide +kernel⟩,
    ⟨18, 1, (coreRuns (id) (.ret)), 0, by decide +kernel⟩,
    ⟨18, 1, (coreRuns (id) (.fence)), by decide +kernel⟩,
    ⟨18, 2, (coreRuns (id) (.sys 255)), 255, by decide +kernel⟩,
    ⟨18, 1, (coreRuns (id) (.brk)), by decide +kernel⟩,
    ⟨18, 5, (coreRuns (id) (.bcc 14 true 0x80000000)), 14, true, 0x80000000, (holds (((coreRuns (id) (.bcc 14 true 0x80000000))).dev.core 18).fl 14), by decide +kernel⟩,
    ⟨18, 5, (coreRuns (id) (.call 0x7FFFFFFF)), 0x7FFFFFFF, by decide +kernel⟩,
    ⟨18, 2, (coreRuns (fun c => { c with ext := [(63, [0])] }) (.ext 63)), 63, [(0, .nop, 1)], ((coreRuns (fun c => { c with ext := [(63, [0])] }) (.ext 63)).dev), and5 (by decide +kernel) rfl⟩⟩

theorem witness_VolilMemoryComplete :
    (∃ (o : VolilM) (n : Nat) (a : Nat) (w : Nat) (d : Dev) (s : State), a = vEa (s.dev.core o.core.val) (s.dev.after o.core.val n)
     o ∧ Runs o.core (.mem .ld o) n s ∧ loadAt s.vault o.core.val a (vBytes o.size) s.dev = .value w d) ∧
    (∃ (o : VolilM) (n : Nat) (a : Nat) (w : Nat) (d : Dev) (s : State), a = vEa (s.dev.core o.core.val) (s.dev.after o.core.val n)
     o ∧ Runs o.core (.mem .lds o) n s ∧ loadAt s.vault o.core.val a (vBytes o.size) s.dev = .value w d) ∧
    (∃ (o : VolilM) (n : Nat) (a : Nat) (w : Nat) (d : Dev) (s : State), a = vEa (s.dev.core o.core.val) (s.dev.after o.core.val n)
     o ∧ Runs o.core (.mem .st o) n s ∧ storeAt s.vault o.core.val a (leBytes (vBytes o.size) ((s.dev.core o.core.val).gr
     o.d.val).toNat) s.dev = .value w d) ∧
    (∃ (o : VolilM) (n : Nat) (a : Nat) (w : Nat) (d : Dev) (s : State), a = vEa (s.dev.core o.core.val) (s.dev.after o.core.val n)
     o ∧ Runs o.core (.mem .sti o) n s ∧ storeAt s.vault o.core.val a (leBytes (vBytes o.size) o.imm.toNat) s.dev = .value w d) ∧
    (∃ (o : VolilM) (n : Nat) (a : Nat) (d : Dev) (s : State), a = vEa (s.dev.core o.core.val) (s.dev.after o.core.val n) o ∧ Runs
     o.core (.mem .lea o) n s) ∧
    (∃ (o : VolilM) (n : Nat) (a : Nat) (w : Nat) (d : Dev) (s : State) (e : Dev) (x : Nat), a = vEa (s.dev.core o.core.val)
     (s.dev.after o.core.val n) o ∧ Runs o.core (.mem .swap o) n s ∧ a % 8 = 0 ∧ (inData a 8 = true ∨ inRegisters a 8 = true) ∧
     loadAt s.vault o.core.val a 8 s.dev = .value w e ∧ storeAt s.vault o.core.val a (leBytes 8 ((s.dev.core o.core.val).gr
     o.d.val).toNat) e = .value x d) :=
  ⟨⟨(vm 2), 3, dataBase, 0, ((coreRuns (id) (.mem .ld (vm 2))).dev), (coreRuns (id) (.mem .ld (vm 2))), and2 (by decide +kernel) rfl⟩,
    ⟨(vm 2), 3, dataBase, 0, ((coreRuns (id) (.mem .lds (vm 2))).dev), (coreRuns (id) (.mem .lds (vm 2))), and2 (by decide +kernel) rfl⟩,
    ⟨(vm 2), 3, dataBase, 0, (match storeAt (coreRuns (id) (.mem .st (vm 2))).vault 18 dataBase (leBytes 8 3) (coreRuns (id) (.mem .st (vm 2))).dev with | .value _ d => d | _ => (coreRuns (id) (.mem .st (vm 2))).dev), (coreRuns (id) (.mem .st (vm 2))), and2 (by decide +kernel) rfl⟩,
    ⟨(vm 0), 11, dataBase, 0, (match storeAt (coreRuns (id) (.mem .sti (vm 0))).vault 18 dataBase (leBytes 8 0) (coreRuns (id) (.mem .sti (vm 0))).dev with | .value _ d => d | _ => (coreRuns (id) (.mem .sti (vm 0))).dev), (coreRuns (id) (.mem .sti (vm 0))), and2 (by decide +kernel) rfl⟩,
    ⟨(vm 2), 3, dataBase, full.dev, (coreRuns (id) (.mem .lea (vm 2))), by decide +kernel⟩,
    ⟨(vm 2), 3, dataBase, 0, (match storeAt (coreRuns (id) (.mem .swap (vm 2))).vault 18 dataBase (leBytes 8 3) (coreRuns (id) (.mem .swap (vm 2))).dev with | .value _ d => d | _ => (coreRuns (id) (.mem .swap (vm 2))).dev), (coreRuns (id) (.mem .swap (vm 2))), ((coreRuns (id) (.mem .swap (vm 2))).dev), 0, and4 (by decide +kernel) ⟨rfl, rfl⟩⟩⟩

theorem witness_CoreEventsComplete :
    (∃ (k : Fin 19) (s : State), s.On ∧ executing s.dev k.val = true ∧ fetchAt s.dev k = .undefined) ∧
    (∃ (k : Fin 19) (s : State) (a : Nat), s.On ∧ executing s.dev k.val = true ∧ fetchAt s.dev k = .fault a) ∧
    (∃ (k : Fin 19) (s : State) (l : Nat) (rest : List Nat), s.On ∧ executing s.dev k.val = true ∧ (s.dev.core k.val).pendingLines =
     l :: rest ∧ (s.dev.core k.val).waiting = false ∧ (s.dev.core k.val).flag 4 = true) ∧
    (∃ (k : Fin 19) (s : State), s.On ∧ (s.dev.coreCtl k.val).state = 1) ∧
    (∃ (k : Fin 19) (s : State), s.On ∧ letterC s.vault s.dev = true ∧ (s.dev.coreCtl k.val).state = 1) ∧
    (∃ (s : State) (n : Fin 528), s.On ∧ letterC s.vault s.dev = true) ∧
    (∃ (s : State) (c : Cmd) (space : Nat) (address : Nat) (length : Nat) (b : Bytes) (fetched : Bytes) (text : Bytes) (key : Bytes)
     (m : Manifest), s.On ∧ Serves {} c s ∧ 0 < space ∧ space ≤ 9 ∧ spaceMapped s.dev (actingPf c.src.val none s.dev) true space
     address length = true ∧ b = fit length fetched ∧ badExtImage b = false ∧ s.dev.manifest.active = some m ∧ slotKey s.vault
     m.keySlot = some key ∧ gcmOpen key (slice b 8 8 ++ [0, 0, 0, 5]) (slice b 0 32 ++ b.drop 48) [] (slice b 32 16) = some text ∧
     (tget 0 s.dev.ledger.extSerials m.keySlot).toNat ≤ fieldLe b 8 8 ∧ ledgerWorn s.dev = false) :=
  ⟨⟨18, (coreRuns (fun c => { c with code := [(0, 0x07)] }) (.nop)), by decide +kernel⟩,
    ⟨18, (coreRuns (fun c => { c with pc := 8 }) (.nop)), 8, by decide +kernel⟩,
    ⟨18, (coreRuns (fun c => { c with lines := [15], timecmp := 5, fl := 0x10 }) (.nop)), 15, [], by decide +kernel⟩,
    ⟨18, (coreRuns (id) (.nop)), by decide +kernel⟩,
    ⟨18, (coreRuns id .nop), by decide +kernel⟩,
    ⟨full, 527, by decide +kernel⟩,
    (match ext_good with | ⟨b, t, hb, h1, h2, h3⟩ => ⟨ownedDev 0, cmd, 1, 0, 120, b, extImage, t, (keyBytes (tget {} (ownedDev 0).vault.keys 16).key), { keySlot := 16, deviceId := 77 }, by decide +kernel, by decide +kernel, by decide +kernel, by decide +kernel, by decide +kernel, hb, h1, rfl, rfl, h2, h3, by decide +kernel⟩)⟩

def stepState : State := { full with pending := [.waitslotRelease 527 3] }
theorem witness_OnlySecurityTouchesVault : ∃ (c : Instr) (s t : State), mayTouchVault c = false ∧ exec c s = .next t :=
  ⟨.waitslotRelease 527 3, full, full, rfl, rfl⟩
theorem witness_VaultStaysLegal : ∃ s t : State, s.vault.Legal ∧ step s = .next t :=
  ⟨stepState, full, ⟨rfl, by decide +kernel⟩, rfl⟩
theorem witness_PoweredOffIgnores : ∃ (c : Instr) (s : State), ¬ s.On ∧ powerEvent c = false :=
  ⟨.shaperRefill, at_ fun d => d.modPower fun p => { p with state := .off }, by decide +kernel, rfl⟩
theorem witness_GuardsRefuse : ∃ (i : Instr) (c : Cmd) (g : Guard) (s : State) (st : MStatus), commandClass i = some (c, g) ∧ s.On ∧
    guardStatus g c.src.val s.dev = some st ∧ Free c s ∧ ∀ k, waitsFor s.dev i = some k → s.Full → s.dev.restarting k = false :=
  ⟨.cmdPowerCapSet { src := 500, seq := 7 } 1000, { src := 500, seq := 7 }, { block := some 18 }, full, .notPermitted, rfl,
    and3 (by decide +kernel) fun k h _ => by cases h; decide +kernel⟩
theorem witness_HeldWhileRestarting : ∃ (i : Instr) (k : Nat) (s : State), waitsFor s.dev i = some k ∧ s.Full ∧ s.dev.restarting k = true ∧
    ∀ c g, commandClass i = some (c, g) → Free c s :=
  ⟨.cmdPowerCapSet cmd 1000, 1, at_ fun d => d.modCtrl fun c => { c with cores := [(1, { state := 2 })] },
    and3 (by decide +kernel) fun c g h => by cases h; decide +kernel⟩
theorem witness_UndecodedOffsets : (regPlace 0xFFFFFF8 = none) ∧
    ∃ p, regPlace 0x9000F04 = some p ∧ pfPage p = none ∧ pfFrame p = none ∧ regRow { p with off := p.off / 8 * 8 } = none ∧ full.On :=
  ⟨by decide +kernel, ⟨16, 0, 0xF04⟩, by decide +kernel⟩
theorem witness_FieldsOneByOne : ∃ (b : Nat) (row : RegRow) (locked : Bool) (h : Half) (new old : Nat) (t : Taken),
    row ∈ regMap b ∧ new < 2 ^ 64 ∧ old < 2 ^ 64 ∧ takeWrite b row locked h new old = t ∧ (∀ f ∈ row.fields, 63 < f.lo ∨ f.hi < 63) :=
  ⟨16, (regMap 16)[2], true, .high, 2 ^ 64 - 1, 2 ^ 64 - 1, _, List.getElem_mem _, by decide, by decide, rfl, by decide +kernel⟩
/-- Block 18's challenge is outstanding, and `n` unlocks have failed. -/
def failing (n : Nat) : Dev := (ownedDev 0).dev.modExpert fun e => { e with fails := n, challenges := [] }
theorem witness_ExpertChallengeRules : (∃ (v : Vault) (b seconds : Nat) (tag : Bytes) (d e : Dev) (r : Option MStatus),
      twf ({} : Challenge) d.expert.challenges = true ∧ unlockLockedOut d = false ∧ authoriseUnlock v b seconds tag d = (r, e) ∧
      r = some .authFail ∧ 7 ≤ d.expert.fails) ∧
    (∃ (v : Vault) (b seconds : Nat) (tag : Bytes) (d e : Dev) (r : Option MStatus),
      twf ({} : Challenge) d.expert.challenges = true ∧ unlockLockedOut d = false ∧ authoriseUnlock v b seconds tag d = (r, e) ∧
      r = some .authFail ∧ d.expert.fails < 7) ∧
    (∃ (c : Cmd) (until_ : Nat) (s : State), Serves {} c s ∧ s.dev.expert.lockedUntil = some until_ ∧ s.dev.uptime < until_) :=
  ⟨⟨{}, 18, 1, [], failing 7, _, _, by decide +kernel, by decide +kernel, rfl, by decide +kernel, by decide +kernel⟩,
   ⟨{}, 18, 1, [], failing 6, _, _, by decide +kernel, by decide +kernel, rfl, by decide +kernel, by decide +kernel⟩,
   cmd, 1, at_ fun d => d.modExpert fun e => { e with lockedUntil := some 1 }, by decide +kernel⟩
theorem witness_LateCompletionDiscarded : ∃ (port : Fin 14) (tag : Nat) (t : Tag) (s : State), s.On ∧
    (s.dev.host.tags.find? fun t => decide (t.port = port.val ∧ t.tag = tag)) = some t ∧ t.gen ≠ (s.dev.inst t.inst).gen :=
  ⟨13, 5, { port := 13, tag := 5, gen := 1 }, at_ fun d => d.modHost fun h => { h with tags := [{ port := 13, tag := 5, gen := 1 }] }, by decide +kernel⟩
/-- A store of an 8-byte immediate with every byte that format M admits: one more than the limit of R375. -/
def longStore : VolilM :=
  { core := 18, size := .s64, sync := true, d := 0, base := 1, index := 2, indexEn := true, pcrel := false, dsz := 3, disp := 0xFFFFFFFF, imm := 2 ^ 64 - 1 }
theorem witness_VolilLengthLimit : decodeVolil 18 [0x05, 0xFF] = .found (.sys 0xFF) 2 ∧ longStore.size = .s64 ∧ longStore.sync = true ∧ longStore.dsz = 3 ∧
    15 < (encodeVolil (.mem .sti longStore)).length := by decide +kernel
theorem witness_VolilRoundTrip : ∀ i ∈ [VInstr.nop, .sys 255, .bcc 14 true 0xFFFFFFFF, .call 1, .ext 0xFF, .mem .sti { longStore with sync := false },
    .aluImm .mov { core := 18, size := .s64, d := 15, isz := 3, imm := 2 ^ 64 - 1 }], i.wf 18 = true := by decide +kernel
theorem witness_TrapEntry : ((coreRuns (fun c => { c with fl := 0x20 }) .nop).dev.core 18).flag 5 = true ∧
    ((coreRuns id .nop).dev.core 18).flag 5 = false := by decide +kernel
theorem witness_CarryAndOverflow : ∃ (z : VSize) (a b c w : Nat), w = vBits z ∧ a < 2 ^ w ∧ b < 2 ^ w ∧ c ≤ 1 :=
  ⟨.s64, 2 ^ 64 - 1, 2 ^ 64 - 1, 1, 64, by decide +kernel⟩
/-- VLD of 1,024 bytes from the address in x2. -/
def vld2 : StreamOp := { tile := 527, stream := 3, fmt := 0, round := 0, dst := 0, s1 := 2, s2 := 0, imm := 0 }
def vldBad : State := (running 0x20 vld2 1024).withDev ((running 0x20 vld2 1024).dev.modTile 527 fun t => { t with poison := [(31, 1)] })
theorem witness_OpFaultsInOrder :
    (Issues 0x20 vld2 (running 0x20 vld2 0x200000) ∧ (vldPlan vld2 ((running 0x20 vld2 0x200000).dev.streamOf vld2)).bounds = true) ∧
    (Issues 0x20 vld2 (running 0x20 vld2 4) ∧ (vldPlan vld2 ((running 0x20 vld2 4).dev.streamOf vld2)).bounds = false ∧
      (vldPlan vld2 ((running 0x20 vld2 4).dev.streamOf vld2)).align = true) ∧
    (Issues 0x20 vld2 vldBad ∧ (vldPlan vld2 (vldBad.dev.streamOf vld2)).bounds = false ∧ (vldPlan vld2 (vldBad.dev.streamOf vld2)).align = false ∧
      ((vldPlan vld2 (vldBad.dev.streamOf vld2)).reads.any fun r => ((readSpans 527 (some 3) (vldBad.dev.streamOf vld2).pc.toNat (encodeOp 0x20 vld2)
        (vldPlan vld2 (vldBad.dev.streamOf vld2)).reads vldBad.dev).tile 527).poisoned r.1 r.2) = true) := by decide +kernel
theorem witness_SealOpens : ∃ key iv aad text tag : Bytes, key.length = 32 ∧ iv.length = 12 ∧ tag ≠ (gcmSeal key iv aad text).2 :=
  ⟨List.replicate 32 7, List.replicate 12 1, [1], [2], [], by decide, by decide, fun h => by
    have h := congrArg List.length h
    rw [show (gcmSeal (List.replicate 32 7) (List.replicate 12 1) [1] [2]).2.length = 16 from by decide +kernel] at h
    exact absurd h (by decide)⟩
theorem witness_EccCorrectsOneSymbol : ∃ (data : Bytes) (i : Nat) (p : Byte), data.length = 64 ∧ i < 68 ∧ p ≠ 0 :=
  ⟨List.replicate 64 9, 67, 255, by decide⟩
theorem witness_HbmLineReadBack : ∃ (k off : Nat) (bs : Bytes) (lock : Option Nat) (op : Word) (d e : Dev), k < 8 ∧ off < 2 ^ 36 ∧
    off % 64 = 0 ∧ bs.length = 64 ∧ twf 0 d.mem = true ∧ twf 0 d.hbm.check = true ∧ twf ({} : HbmCtl) d.hbm.ctl = true ∧ (d.ctl k).failed = false ∧
    ((d.ctl k).merge.all fun e => e.line != off / 64) = true ∧ hbmWrite k off bs false lock op d = e :=
  ⟨7, 2 ^ 36 - 64, List.replicate 64 9, some 127, 5, full.dev, _, and9 (by decide +kernel) rfl⟩
theorem witness_BasinReadBack : ∃ (n off : Nat) (bs : Bytes) (poison : Bool) (d e : Dev) (a : Nat), twf ({} : Tile) d.tiles = true ∧
    twf 0 (d.tile n).basin = true ∧ ((partWords off bs.length).all fun r => ((d.tile n).errors r.1 r.2 2).isEmpty) = true ∧
    basinWrite n off bs poison d = e ∧ (a < off ∨ off + bs.length ≤ a) :=
  ⟨527, 0x1FFFFF, [1], true, full.dev, _, 0, and3 (by decide +kernel) ⟨rfl, by decide⟩⟩
theorem witness_ReloadNeedsSteps : ∃ (c : Cmd) (m : Manifest) (s : State), Serves {} c s ∧
    (s.dev.manifest.stage = 0 ∨ 5 < s.dev.manifest.stage) ∧ s.dev.manifest.active = some m ∧
    m.stepLockages = 0 := ⟨cmd, {}, under {} id, by decide +kernel⟩
theorem witness_IdlePassesTime : ∃ s : State, s.pending = [] := ⟨State.reset, rfl⟩

end Sys2Proof.Tests
end

/-! SUPPORT. The statements of the device's scope, settled: what a command can do at all, its guards, the fields of a register, the
sealers' counter mode, the registers that act, and the manifest. -/

namespace Sys2Proof.Machine

/-! ### What a command can do, said once -/

/-- The forms in which a command acts: on the device; on the vault too, if it may; in every power state, if it is a power event; at
once or after the restart of the core that serves it (R353); and the end of such a restart. A device that is off stays as it is (R426). -/
inductive Acts (i : Instr) (s : State) : Host.Outcome State Fault Refusal → Prop
  | dev (d : Dev) : Acts i s (.next (if s.dev.power.state = .off then s else { s with dev := d }))
  | vault (v : Vault) (d : Dev) : mayTouchVault i = true →
      Acts i s (.next (if s.dev.power.state = .off then s else { s with vault := v, dev := d }))
  | power (d : Dev) : powerEvent i = true → Acts i s (.next { s with dev := d })
  | powerVault (v : Vault) (d : Dev) : powerEvent i = true → mayTouchVault i = true → Acts i s (.next { s with vault := v, dev := d })
  | waits (k : Nat) (h : HeldCmd) (now : State → Host.Outcome State Fault Refusal) : Acts i s (now s) → Acts i s (whileUp k h now s)
  | restarts (core : Fin 19) : i = .coreRestartComplete core → Acts i s (execCoreRestartComplete core s)

theorem dmaCommand_acts (i : Instr) (ask : DmaAsk) (w : DoorbellWrite) (s : State) : Acts i s (dmaCommand ask w s) := by
  cases w with
  | doorbell inst j value => exact .dev _
  | register w => exact .dev _

/-- Every command acts in one of the forms. -/
theorem exec_acts (i : Instr) (s : State) : Acts i s (exec i s) := by
  cases i with
  | registerWrite | cmdManifestLoad | cmdManifestReload | fetch | authenticate | validate | shadowWrite | groupReadyTimeout
  | rollbackRestore | cmdManifestStatus | cmdManifestCancel | cmdAltSelect | cmdAltRevert | cmdExpertUnlock | cmdExpertLock
  | expertExpiry | lockoutExpiry | lockageBoundary | holdDerateRepeat | routerSlot | crcWindowClose | bargeDelivery | canalSlip
  | cmdCanalStatus | cmdCanalReadEntry | cmdCanalSwitch | cmdCanalClearCounts | canalSchedCtrlSwitch | canalTblDataAccess
  | lockArrival | gateOpening | pauseRepeat | holdEnd | holdAllowanceExpiry | sluiceComplete | locksSluiceGo
  | locksGateDataAccess | cmdLockStatus | cmdLockSluice | cmdLockReadGate | cmdWeightSet | cmdDerateStatus | nop | halt | xli
  | xlih | xadd | xmul | bnz | bz | blt | waitslot | waitslotRelease | fence | fenceRelease | signal | waitev | waitevRelease
  | mark | mma | mmax | accrd | accwr | accx | accz | vld | vst | vadd | vsub | vmul | vfma | vmax | vmin | vrsqrt | vexp | vred
  | viadd | vlevel | vfix | vflt | vthr | vdigest | vseed | send | recv | mrd | mwr | spill | fill | undefinedStreamOp
  | bargeInjection | tileBargeReceive | basinWindowAccess | signatureCompare | tileCheck | tileStall | spareStart
  | tilesStreamCtrlHalt | tilesStreamCtrlRestart | tilesOpstoreDataAccess | cmdReduceStatus | cmdReduceClear | memCommand
  | mergeRetire | readDataSend | hbmStackFail | scrubSlot | refreshSlot | wharfPatrol | wharfChannelFail | hbmScrubCtrlGo
  | hbmTestRawWrite | hbmTestRawRead | hbmTestDisable | kvSweep | kvMove | cmdHbmStatus | cmdHbmScrub | cmdHbmCeLog | cmdHbmClear
  | cmdHbmCheckerTest | cmdWharfStatus | cmdKvReachCreate | cmdKvReachDestroy | cmdKvStatus | hostMemoryWrite | hostMemoryRead
  | hostReadCompletion | configRequest | completionReceived | hostCompletionTimeout | busMasterDisable | busMasterEnable | vfFlr
  | vfFlrComplete | pfFlr | vfEnableClear | vfEnableSet | hostLinkDown | endpointPerst | badDoorbellWrite | cmdInstanceCreate
  | cmdInstanceDestroy | cmdInstanceStatus | cmdWindowSet | windowSetComplete | cmdWindowRead | cmdHostStatus
  | hostepWinDataAccess | portInboundRequest | ptmRequest | portLinkDown | portErrMessage | portCompletionTimeout
  | dmaDisableComplete | dmaStopComplete | dmaDescriptorStart | dmaHalfRecord | dmaFullRecord | cmdPortStatus | cmdAccelWindowSet
  | cmdAccelRangeSet | cmdAccelCfg | cmdDmaRingSet | cmdDmaStatus | frameReceive | rxRecordWrite | pauseReceive
  | transmitOpportunity | shaperRefill | netSample | commitComplete | netLinkDown | cmdNetPortStatus | cmdNetExtractSet
  | cmdNetRuleSet | cmdNetIndirSet | cmdNetCommit | cmdNetQueueSet | cmdNetShaperSet | cmdNetFlowfairSet | cmdNetSampleSet
  | cmdNetQueueStatus | netengQueueShaperWrite | netengFlowfairWrite | transportWrite | transportReadReq | transportReadResp
  | transportAck | transportNak | transportClose | packetSend | rtoExpiry | ackTimer | pageRetryResend | stallFallback
  | txQueueDoorbell | wrWrite | wrRead | wrRawFrame | wrAdd | wrTow | txCompletionRecord | mooringDeregComplete | cmdConnSet
  | cmdConnClose | cmdConnStatus | cmdTxQueueSet | cmdMooringReg | cmdMooringDereg | cmdMooringPage | cmdCounterAlloc
  | cmdCounterRead | transportConnTimerWrite | heartbeatSend | heartbeatReceive | heartbeatMiss | assemble | roster
  | detourNotice | faultReport | faultGatherExpiry | coalesceEntryExpiry | linkTraining | lockageZero | bypassHoldLapse
  | bypassSwitchClosed | timeSourceLost | ppsIn | ppsOutput | cmdRingStatus | cmdRingLinkStatus | cmdRingBypass | cmdTimeStatus
  | cmdTimeSet | cmdPtpSet | cmdPpsSet | ringtimePpsCtrlWrite | storageDoorbell | capsuleFetch | capsuleRead | capsuleWrite
  | capsuleFlush | capsuleDeallocate | rangeLockGrant | transferReady | storageCompletion | destage | backendCompletion
  | backendTimeout | remoteReconnectTimeout | idleTimerExpiry | cmdStorageQueueSet | cmdVolumeSet | cmdVolumeStatus
  | cmdStorageRemoteSet | cmdStorageIdleSet | storageIdleCtrlWrite | laneSeal | laneOpen | laneRawBlock | sharedSeal | sharedOpen
  | sharedBlockEncrypt | sharedBlockDecrypt | sharedLockClaim | sharedLockRelease | secSharedPreempt | entropyTestFail
  | startupTestComplete | entropyHoldExpiry | drbgReseed | generatorReseed | cmdKeyInfo | cmdSharedJob | watchdogExpiry
  | ctrlCoreFail | controlLinkHeartbeat | ctrlLinkFail | ledgerMount | ledgerMountTimeout | ledgerGarbageCollect
  | towpathDatagram | i3cPrivateWrite | i3cPrivateRead | uartCharacter | cmdCtrlStatus | cmdCoreStatus | cmdCoreRestart
  | controlCoreCtrlRestart | cmdEventQueueSet | cmdLedgerStatus | cmdNorWrite | cmdUartSet | cmdCoreExtLoad | volilNop | wait
  | tret | ret | volilFence | sys | brk | mov | add | adc | sub | sbc | and | or | xor | shl | shr | sar | mul | mulhu | divu
  | remu | cmp | movi | addi | adci | subi | sbci | andi | ori | xori | shli | shri | sari | muli | cmpi | not | neg | tst | mfc
  | mtc | callr | jmpr | sext | bcc | call | ld | lds | st | sti | lea | swap | ext | undefinedEncoding | interruptTaken
  | timecmpExpiry | stepWord | fillComplete | buddyDeltaSend | buddyHeaderBarge | buddyEndBarge | ckptStripe | ckptSeal
  | cmdRelStatus | cmdRelFaultStatus | cmdCkptNow | cmdRelRestore | cmdRelForce | reliabilityNanLimitWrite
  | reliabilityForceWrite | sampleInstant | observeMarkWrite | observeTraceCtrlWrite | observeSampleCtrlWrite | cmdTraceSet
  | cmdTraceStatus | cmdSampleSet | cmdCountersRead | sensorReading | demandUpdate | trip | clockLoss | powerclkCapWrite
  | powerclkResetCtrlWarm | imageVerification | firmwareStart | defaultManifestLoad | instanceDestroyComplete | fetchFault
  | unknownCommand | ringtimeTimeNsRead | jtagCoreDebug | netLinkUp | portLinkUp => exact .dev _
  | dmaDoorbellTail | dmaChannelEnable | dmaChannelDisable => exact dmaCommand_acts _ _ _ _
  | cmdExpertChallenge | cmdTileStatus | cmdTileRestart | cmdTileReadOps | broadcast | cmdSecStatus | cmdSecChallenge
  | cmdRngRead | stewardshipClaim | cmdPowerStatus | cmdPowerCapSet | cmdResetWarm | cmdClockStatus => exact .waits _ _ _ (.dev _)
  | cmdSecDebugSet | cmdSecLifecycle | cmdSecVersionCommit | cmdKeyLoad => exact .waits _ _ _ (.vault _ _ rfl)
  | cmdKeyErase | warmReset | romSelfTest => exact .vault _ _ rfl
  | throttleIn | powerEnable | powerDisable | p48Loss | warmResetPin | ringJoinFall | ringJoinRise => exact .power _ rfl
  | coldReset => exact .powerVault _ _ rfl rfl
  | coreRestartComplete => exact .restarts _ rfl

/-! ### Every command completes -/

/-- An outcome is a next state with the queue as it stood. -/
def Completes (s : State) (r : Host.Outcome State Fault Refusal) : Prop := ∃ t, r = .next t ∧ t.pending = s.pending

/-- What changes the device of a device with power completes. -/
theorem completes_dev (s : State) (d : Dev) : Completes s (.next (if s.dev.power.state = .off then s else { s with dev := d })) :=
  ⟨_, rfl, by split <;> rfl⟩

/-- What changes the vault too completes. -/
theorem completes_vault (s : State) (v : Vault) (d : Dev) :
    Completes s (.next (if s.dev.power.state = .off then s else { s with vault := v, dev := d })) :=
  ⟨_, rfl, by split <;> rfl⟩

/-- A command that may have to wait completes: it joins those that wait, or acts now. -/
theorem completes_whileUp (k : Nat) (h : HeldCmd) (now : State → Host.Outcome State Fault Refusal) (s : State)
    (hnow : Completes s (now s)) : Completes s (whileUp k h now s) := by
  unfold whileUp
  split
  · exact ⟨_, rfl, rfl⟩
  · exact hnow

/-- A command that waited completes once its core is up. -/
theorem completes_resume (h : HeldCmd) (s : State) : Completes s (resume h s) := by
  cases h with
  | cmdSecDebugSet | cmdSecLifecycle | cmdSecVersionCommit | cmdKeyLoad => exact completes_vault s _ _
  | cmdSecStatus | cmdSecChallenge | cmdRngRead | cmdExpertChallenge | stewardshipClaim | broadcast | cmdTileStatus | cmdTileRestart
  | cmdTileReadOps | cmdPowerStatus | cmdPowerCapSet | cmdResetWarm | cmdClockStatus => exact completes_dev s _

theorem completes_resumeAll (cs : List HeldCmd) (s : State) : Completes s (resumeAll cs s) := by
  induction cs generalizing s with
  | nil => exact ⟨s, rfl, rfl⟩
  | cons c cs ih =>
    obtain ⟨t, ht, hq⟩ := completes_resume c { s with dev := unhold c s.dev }
    obtain ⟨u, hu, hqu⟩ := ih t
    exact ⟨u, by simp only [resumeAll, ht, hu], hqu.trans hq⟩

/-- The end of a core's restart completes with the commands that waited for the core. -/
theorem completes_coreRestartComplete (core : Fin 19) (s : State) : Completes s (execCoreRestartComplete core s) := by
  unfold execCoreRestartComplete
  split
  · exact ⟨s, rfl, rfl⟩
  · obtain ⟨t, ht, hq⟩ : Completes s (onDev (restartDone core.val) s) := completes_dev s _
    simp only [ht]
    split
    · obtain ⟨u, hu, hqu⟩ := completes_resumeAll (heldFor core.val t.dev) (takeHeld core.val t)
      exact ⟨u, hu, hqu.trans hq⟩
    · exact ⟨t, rfl, hq⟩

/-- In whatever form it acts, a command completes. -/
theorem Acts.completes {i : Instr} {s : State} {r : Host.Outcome State Fault Refusal} (h : Acts i s r) : Completes s r := by
  induction h with
  | dev d => exact completes_dev s d
  | vault v d _ => exact completes_vault s v d
  | power d _ => exact ⟨_, rfl, rfl⟩
  | powerVault v d _ _ => exact ⟨_, rfl, rfl⟩
  | waits k c now _ ih => exact completes_whileUp k c now s ih
  | restarts core _ => exact completes_coreRestartComplete core s

/-- Settles O3: every form in which a command acts completes and leaves the queue. -/
theorem everyCommandCompletes : Obligations.EveryCommandCompletes := fun c s => (exec_acts c s).completes

/-! ### A mailbox command is guarded before it acts (R359, R14) -/

/-- The forms of a mailbox command of guard `g`: it answers at once, or later, or when entropy comes, or it may change the vault. -/
inductive Mailboxed (c : Cmd) (g : Guard) (s : State) : Host.Outcome State Fault Refusal → Prop
  | command (f : Dev → Reply × Dev) :
      Mailboxed c g s (.next (if s.dev.power.state = .off then s else { s with dev := mailbox c g f s.dev }))
  | later (f : Dev → Option Reply × Dev) :
      Mailboxed c g s (.next (if s.dev.power.state = .off then s else { s with dev := mailboxLater c g f s.dev }))
  | held (f : Dev → Option Reply × Dev) :
      Mailboxed c g s (.next (if s.dev.power.state = .off then s else { s with dev := mailboxHeld c g f s.dev }))
  | vault (f : Vault → Dev → Reply × Vault × Dev) :
      Mailboxed c g s (.next (if s.dev.power.state = .off then s
        else { s with vault := (mailboxV c g f s.vault s.dev).1, dev := (mailboxV c g f s.vault s.dev).2 }))

/-- Outside a restart of its core in full service, a command that the core serves runs at once. -/
theorem whileUp_now (k : Nat) (h : HeldCmd) (now : State → Host.Outcome State Fault Refusal) (s : State)
    (hup : s.Full → s.dev.restarting k = false) : whileUp k h now s = now s := by
  unfold whileUp
  refine if_neg ?_
  rintro ⟨hr, hf⟩
  simp [hup hf] at hr

/-- A mailbox command that no restart holds up has one of the forms, under the guard of its class. -/
theorem exec_mailboxed (i : Instr) (c : Cmd) (g : Guard) (s : State) (hc : commandClass i = some (c, g))
    (hup : ∀ k, waitsFor s.dev i = some k → s.Full → s.dev.restarting k = false) : Mailboxed c g s (exec i s) := by
  have up : ∀ (k : Nat) (h : HeldCmd) (now : State → Host.Outcome State Fault Refusal), waitsFor s.dev i = some k →
      Mailboxed c g s (now s) → Mailboxed c g s (whileUp k h now s) := by
    intro k h now hk hnow
    rwa [whileUp_now k h now s (hup k hk)]
  cases i with
  | cmdManifestLoad | cmdManifestReload | cmdManifestStatus | cmdManifestCancel | cmdAltSelect | cmdAltRevert | cmdExpertUnlock
  | cmdExpertLock | cmdCanalStatus | cmdCanalReadEntry | cmdCanalSwitch | cmdCanalClearCounts | cmdLockStatus | cmdLockSluice
  | cmdLockReadGate | cmdWeightSet | cmdDerateStatus | cmdReduceStatus | cmdReduceClear | cmdHbmStatus | cmdHbmScrub
  | cmdHbmCeLog | cmdHbmClear | cmdHbmCheckerTest | cmdWharfStatus | cmdKvReachCreate | cmdKvReachDestroy | cmdKvStatus
  | cmdInstanceCreate | cmdInstanceStatus | cmdWindowRead | cmdHostStatus | cmdPortStatus | cmdAccelWindowSet | cmdAccelRangeSet
  | cmdAccelCfg | cmdDmaRingSet | cmdDmaStatus | cmdNetPortStatus | cmdNetExtractSet | cmdNetRuleSet | cmdNetIndirSet
  | cmdNetQueueSet | cmdNetShaperSet | cmdNetFlowfairSet | cmdNetSampleSet | cmdNetQueueStatus | cmdConnSet | cmdConnClose
  | cmdConnStatus | cmdTxQueueSet | cmdMooringReg | cmdMooringPage | cmdCounterAlloc | cmdCounterRead | cmdRingStatus
  | cmdRingLinkStatus | cmdRingBypass | cmdTimeStatus | cmdTimeSet | cmdPtpSet | cmdPpsSet | cmdStorageQueueSet | cmdVolumeSet
  | cmdVolumeStatus | cmdStorageRemoteSet | cmdStorageIdleSet | cmdKeyInfo | cmdCtrlStatus | cmdCoreStatus | cmdCoreRestart
  | cmdEventQueueSet | cmdLedgerStatus | cmdNorWrite | cmdUartSet | cmdCoreExtLoad | cmdRelStatus | cmdRelFaultStatus
  | cmdCkptNow | cmdRelRestore | cmdRelForce | cmdTraceSet | cmdTraceStatus | cmdSampleSet | cmdCountersRead =>
    cases hc
    exact .command _
  | cmdInstanceDestroy | cmdWindowSet | cmdNetCommit | cmdMooringDereg | cmdSharedJob =>
    cases hc
    exact .later _
  | cmdKeyErase =>
    cases hc
    exact .vault _
  | cmdExpertChallenge | cmdSecChallenge | cmdRngRead =>
    cases hc
    exact up _ _ _ rfl (.held _)
  | cmdTileStatus | cmdTileRestart | cmdTileReadOps | cmdSecStatus | cmdPowerStatus | cmdPowerCapSet | cmdResetWarm
  | cmdClockStatus =>
    cases hc
    exact up _ _ _ rfl (.command _)
  | cmdSecDebugSet | cmdSecLifecycle | cmdSecVersionCommit | cmdKeyLoad =>
    cases hc
    exact up _ _ _ rfl (.vault _)
  | _ => cases hc

theorem mailboxLater_refused (c : Cmd) (g : Guard) (f : Dev → Option Reply × Dev) (d : Dev) (st : MStatus)
    (h : guardStatus g c.src.val d = some st) (hr : (d.frame c.src.val).running = false) :
    mailboxLater c g f d = complete c.src.val c.seq (fail st) d := by
  simp [mailboxLater, h, hr]

theorem mailboxHeld_refused (c : Cmd) (g : Guard) (f : Dev → Option Reply × Dev) (d : Dev) (st : MStatus)
    (h : guardStatus g c.src.val d = some st) (hr : (d.frame c.src.val).running = false) :
    mailboxHeld c g f d = complete c.src.val c.seq (fail st) d := by
  simp [mailboxHeld, h, hr]

theorem mailboxV_refused (c : Cmd) (g : Guard) (f : Vault → Dev → Reply × Vault × Dev) (v : Vault) (d : Dev) (st : MStatus)
    (h : guardStatus g c.src.val d = some st) (hr : (d.frame c.src.val).running = false) :
    mailboxV c g f v d = (v, complete c.src.val c.seq (fail st) d) := by
  simp [mailboxV, h, hr]

/-- Whatever its form, a mailbox command that its guard turns away answers the guard's status and changes nothing else. -/
theorem Mailboxed.refused {c : Cmd} {g : Guard} {s : State} {r : Host.Outcome State Fault Refusal} {st : MStatus} (h : Mailboxed c g s r)
    (hon : s.On) (hg : guardStatus g c.src.val s.dev = some st) (hf : Free c s) :
    r = .next (s.withDev (complete c.src.val c.seq (fail st) s.dev)) := by
  cases h with
  | command f => rw [if_neg hon, mailbox_refused _ _ _ _ _ hg hf]; rfl
  | later f => rw [if_neg hon, mailboxLater_refused _ _ _ _ _ hg hf]; rfl
  | held f => rw [if_neg hon, mailboxHeld_refused _ _ _ _ _ hg hf]; rfl
  | vault f => rw [if_neg hon, mailboxV_refused _ _ _ _ _ _ hg hf]; rfl

/-- Settles O10: every mailbox command has one of the guarded forms. -/
theorem guardsRefuse : Obligations.GuardsRefuse :=
  fun i c g s _ hc hon hg hf hup => (exec_mailboxed i c g s hc hup).refused hon hg hf

/-! ### The ID and STATUS registers (R8) -/

/-- Every block starts on a boundary of the largest window of small units. -/
theorem blockBase_mod (b : Nat) : blockBase b % 0x4000 = 0 := by
  unfold blockBase
  split <;> rfl

/-- A status register lies at offset 8 of its block or of its unit's window. -/
theorem statusOff_mod (b u : Nat) : statusOff b u % 0x4000 = 8 := by
  have hb := blockBase_mod b
  unfold statusOff
  split
  · omega
  · split <;> omega

/-- No status bit stands at reset: the two registers that reset to a word are no status registers. -/
theorem reset_csrGet_statusOff (b u : Nat) : State.reset.dev.csrGet (statusOff b u) = 0 := by
  have h := statusOff_mod b u
  have h1 : statusOff b u ≠ 0x2000018 := by omega
  have h2 : statusOff b u ≠ 0xA000020 := by omega
  simp [State.reset, Dev.atReset, Dev.csrGet, tget, tfind, h1, h2]

theorem idRegister (b : Fin 19) : ∃ row ∈ regMap b.val, row.off = 0 ∧ row.fields = [] := by
  revert b; decide

theorem statusRegister (b : Fin 19) : ∃ row ∈ regMap b.val, row.off = 8 ∧
    { hi := 0, lo := 0, acc := Acc.w1c } ∈ row.fields ∧ { hi := 1, lo := 1, acc := Acc.w1c } ∈ row.fields := by
  revert b; decide

/-- Settles O13: the maps hold both registers, and no status bit stands at reset. -/
theorem statusRegisters : Obligations.StatusRegisters := by
  intro b
  refine ⟨idRegister b, statusRegister b, fun u _ => ?_⟩
  rw [reset_csrGet_statusOff]
  rfl

/-! ### Bits of a field (R6) -/

/-- A field of a 64-bit register: its highest bit is not below its lowest. -/
def Fld.Fits (f : Fld) : Prop := f.lo ≤ f.hi ∧ f.hi < 64

/-- Two fields share no bit. -/
def Fld.Apart (f g : Fld) : Prop := f.hi < g.lo ∨ g.hi < f.lo

theorem bit_eq_testBit (w i : Nat) : bit w i = w.testBit i := by
  have h : i + 1 - i = 1 := by omega
  simp [bit, bits, h, Nat.testBit_eq_decide_div_mod_eq, Nat.shiftRight_eq_div_pow]

/-- A field reads the same from two words that agree on its bits. -/
theorem Fld.of_congr {f : Fld} {w x : Nat} (h : ∀ i, f.lo ≤ i → i ≤ f.hi → w.testBit i = x.testBit i) : f.of w = f.of x := by
  refine Nat.eq_of_testBit_eq fun i => ?_
  simp only [Fld.of, bits, Nat.testBit_mod_two_pow, Nat.testBit_shiftRight]
  by_cases hi : i < f.hi + 1 - f.lo
  · rw [h (f.lo + i) (by omega) (by omega)]
  · simp [hi]

theorem Fld.Fits.testBit_mask {f : Fld} (hf : f.Fits) (i : Nat) : f.mask.testBit i = decide (f.lo ≤ i ∧ i ≤ f.hi) := by
  have hmask : f.mask = (2 ^ (f.hi + 1 - f.lo) - 1) <<< f.lo := by
    have hpow : 2 ^ (f.hi + 1 - f.lo) * 2 ^ f.lo = 2 ^ (f.hi + 1) := by rw [← Nat.pow_add]; congr 1; have := hf.1; omega
    rw [Fld.mask, Nat.shiftLeft_eq, Nat.sub_mul, hpow, Nat.one_mul]
  rw [hmask, Nat.testBit_shiftLeft, Nat.testBit_two_pow_sub_one, ← Bool.decide_and]
  exact decide_eq_decide.mpr (by omega)

theorem testBit_blend (old new mask i : Nat) (hi : i < 64) :
    (blend old new mask).testBit i = if mask.testBit i then new.testBit i else old.testBit i := by
  have h64 : (2 ^ 64 - 1).testBit i = true := by rw [Nat.testBit_two_pow_sub_one]; exact decide_eq_true hi
  simp only [blend, Nat.testBit_or, Nat.testBit_and, Nat.testBit_xor, h64]
  cases mask.testBit i <;> simp

/-- Within a field, blending under the field's share of a mask is blending under the mask. -/
theorem Fld.Fits.of_blend_mask {f : Fld} (hf : f.Fits) (old new mask : Nat) : f.of (blend old new (f.mask &&& mask)) = f.of (blend old new mask) := by
  refine Fld.of_congr fun i hlo hhi => ?_
  have hi : i < 64 := Nat.lt_of_le_of_lt hhi hf.2
  simp [testBit_blend _ _ _ _ hi, Nat.testBit_and, hf.testBit_mask, hlo, hhi]

/-- What a blend puts into a field depends on the old word by the field's bits alone. -/
theorem Fld.Fits.of_blend_congr {f : Fld} (hf : f.Fits) {w x : Nat} (new mask : Nat)
    (h : ∀ i, f.lo ≤ i → i ≤ f.hi → w.testBit i = x.testBit i) : f.of (blend w new mask) = f.of (blend x new mask) := by
  refine Fld.of_congr fun i hlo hhi => ?_
  have hi : i < 64 := Nat.lt_of_le_of_lt hhi hf.2
  simp [testBit_blend _ _ _ _ hi, h i hlo hhi]

/-- A blend under a field's share of a mask leaves the bits outside the field. -/
theorem Fld.Fits.testBit_blend_outside {f : Fld} (hf : f.Fits) (old new mask i : Nat) (hi : i < 64) (hout : i < f.lo ∨ f.hi < i) :
    (blend old new (f.mask &&& mask)).testBit i = old.testBit i := by
  have hm : ¬ (f.lo ≤ i ∧ i ≤ f.hi) := by omega
  simp [testBit_blend _ _ _ _ hi, Nat.testBit_and, hf.testBit_mask, hm]

/-! ### One field takes a write (R9–R11) -/

section
variable (b off : Nat) (locked : Bool) (h : Half) (new : Nat)

/-- The encoding that a write would leave in a field stands, or is not checked with this access: that of a field that spans both halves
is checked with its upper half (a choice of the model, log entry 115). -/
def encodingStands (old : Nat) (f : Fld) : Bool :=
  encodingOk b off f.lo (f.of (blend old new (halfMask h))) || (f.spans && h == .low)

/-- A field's value after a write of its register. -/
def fieldAfter (old : Nat) (f : Fld) : Nat :=
  if f.reached h = false then f.of old
  else if f.acc = .w1c then f.of (blend old 0 (halfMask h &&& new))
  else if f.acc = .rwx ∧ locked = true then f.of old
  else if f.acc ≠ .wo ∧ encodingStands b off h new old f = false then f.of old
  else f.of (blend old new (halfMask h))

/-- The write reaches a field that is locked. -/
def fieldDenied (f : Fld) : Prop := f.reached h = true ∧ f.acc = .rwx ∧ locked = true

/-- The write reaches a field, and would leave a reserved encoding in it. -/
def fieldReserved (old : Nat) (f : Fld) : Prop :=
  f.reached h = true ∧ (f.acc = .rw ∨ f.acc = .rwx ∧ locked = false) ∧ encodingStands b off h new old f = false

/-- Each access code says what becomes of the field, of access_denied and of rsvd_write. -/
theorem takeField_cases {f : Fld} (hf : f.Fits) (t : Taken) :
    f.of (takeField b off locked h new t f).word = fieldAfter b off locked h new t.word f ∧
    ((takeField b off locked h new t f).denied = true ↔ t.denied = true ∨ fieldDenied locked h f) ∧
    ((takeField b off locked h new t f).rsvd = true ↔ t.rsvd = true ∨ fieldReserved b off locked h new t.word f) := by
  have hblend := hf.of_blend_mask t.word new (halfMask h)
  have hclear := hf.of_blend_mask t.word 0 (halfMask h &&& new)
  rw [← Nat.land_assoc] at hclear
  have hok : (encodingOk b off f.lo (f.of (blend t.word new (f.mask &&& halfMask h))) || (f.spans && h == .low)) =
      encodingStands b off h new t.word f := by rw [encodingStands, hblend]
  simp only [takeField, fieldAfter, fieldDenied, fieldReserved, hok]
  cases f.reached h with
  | false => simp
  | true =>
    cases f.acc with
    | w1c => simp [hclear]
    | wo => simp [hblend]
    | rw => cases encodingStands b off h new t.word f <;> simp [hblend]
    | rwx => cases locked <;> cases encodingStands b off h new t.word f <;> simp [hblend]

/-- A field's write leaves the bits outside the field. -/
theorem takeField_outside {f : Fld} (hf : f.Fits) (t : Taken) (i : Nat) (hi : i < 64) (hout : i < f.lo ∨ f.hi < i) :
    (takeField b off locked h new t f).word.testBit i = t.word.testBit i := by
  have hblend := hf.testBit_blend_outside t.word new (halfMask h) i hi hout
  have hclear := hf.testBit_blend_outside t.word 0 (halfMask h &&& new) i hi hout
  rw [← Nat.land_assoc] at hclear
  unfold takeField
  cases f.reached h with
  | false => rfl
  | true =>
    cases f.acc with
    | w1c => exact hclear
    | wo => exact hblend
    | rw =>
      simp only [Bool.not_true, Bool.false_eq_true, if_false]
      split
      · exact hblend
      · rfl
    | rwx =>
      cases locked with
      | true => rfl
      | false =>
        simp only [Bool.not_true, Bool.false_eq_true, if_false]
        split
        · exact hblend
        · rfl

theorem encodingStands_congr {f : Fld} (hf : f.Fits) {w x : Nat} (heq : ∀ i, f.lo ≤ i → i ≤ f.hi → w.testBit i = x.testBit i) :
    encodingStands b off h new w f = encodingStands b off h new x f := by
  simp only [encodingStands, hf.of_blend_congr new (halfMask h) heq]

theorem fieldAfter_congr {f : Fld} (hf : f.Fits) {w x : Nat} (heq : ∀ i, f.lo ≤ i → i ≤ f.hi → w.testBit i = x.testBit i) :
    fieldAfter b off locked h new w f = fieldAfter b off locked h new x f := by
  simp only [fieldAfter, encodingStands_congr b off h new hf heq, Fld.of_congr heq, hf.of_blend_congr _ _ heq]

theorem fieldReserved_congr {f : Fld} (hf : f.Fits) {w x : Nat} (heq : ∀ i, f.lo ≤ i → i ≤ f.hi → w.testBit i = x.testBit i) :
    fieldReserved b off locked h new w f ↔ fieldReserved b off locked h new x f := by
  simp only [fieldReserved, encodingStands_congr b off h new hf heq]

/-! ### Fields that share no bit take a write one by one -/

/-- What one field takes is invisible to a field that shares no bit with it. -/
theorem takeField_apart {f g : Fld} (hf : f.Fits) (hg : g.Fits) (hfg : f.Apart g) (t : Taken) :
    ∀ i, g.lo ≤ i → i ≤ g.hi → (takeField b off locked h new t f).word.testBit i = t.word.testBit i := by
  intro i hlo hhi
  refine takeField_outside b off locked h new hf t i (Nat.lt_of_le_of_lt hhi hg.2) ?_
  rcases hfg with hfg | hfg <;> omega

/-- The register's fields leave every bit that is in none of them. -/
theorem foldl_takeField_outside (fs : List Fld) (hfs : ∀ f ∈ fs, f.Fits) (t : Taken) (i : Nat) (hi : i < 64)
    (hout : ∀ f ∈ fs, i < f.lo ∨ f.hi < i) : (fs.foldl (takeField b off locked h new) t).word.testBit i = t.word.testBit i := by
  induction fs generalizing t with
  | nil => rfl
  | cons f fs ih =>
    rw [List.forall_mem_cons] at hfs hout
    rw [List.foldl_cons, ih hfs.2 _ hout.2, takeField_outside b off locked h new hfs.1 t i hi hout.1]

/-- Each of the register's fields ends with the value that it would take alone. -/
theorem foldl_takeField_of (fs : List Fld) (hfs : ∀ f ∈ fs, f.Fits) (hap : fs.Pairwise Fld.Apart) (t : Taken) :
    ∀ g ∈ fs, g.of (fs.foldl (takeField b off locked h new) t).word = fieldAfter b off locked h new t.word g := by
  induction fs generalizing t with
  | nil => simp
  | cons f fs ih =>
    rw [List.forall_mem_cons] at hfs
    rw [List.pairwise_cons] at hap
    rw [List.foldl_cons, List.forall_mem_cons]
    constructor
    · have hrest : ∀ i, f.lo ≤ i → i ≤ f.hi →
          (fs.foldl (takeField b off locked h new) (takeField b off locked h new t f)).word.testBit i =
            (takeField b off locked h new t f).word.testBit i := by
        intro i hlo hhi
        refine foldl_takeField_outside b off locked h new fs hfs.2 _ i (Nat.lt_of_le_of_lt hhi hfs.1.2) fun g hg => ?_
        rcases hap.1 g hg with hfg | hfg <;> omega
      rw [Fld.of_congr hrest]
      exact (takeField_cases b off locked h new hfs.1 t).1
    · intro g hg
      rw [ih hfs.2 hap.2 _ g hg]
      exact fieldAfter_congr b off locked h new (hfs.2 g hg) (takeField_apart b off locked h new hfs.1 (hfs.2 g hg) (hap.1 g hg) t)

/-- access_denied tells of a locked field. -/
theorem foldl_takeField_denied (fs : List Fld) (hfs : ∀ f ∈ fs, f.Fits) (t : Taken) :
    (fs.foldl (takeField b off locked h new) t).denied = true ↔ t.denied = true ∨ ∃ f ∈ fs, fieldDenied locked h f := by
  induction fs generalizing t with
  | nil => simp
  | cons f fs ih =>
    rw [List.forall_mem_cons] at hfs
    obtain ⟨_, hdenied, _⟩ := takeField_cases b off locked h new hfs.1 t
    rw [List.foldl_cons, ih hfs.2, hdenied, or_assoc, List.exists_mem_cons_iff]

/-- rsvd_write tells of a reserved encoding. -/
theorem foldl_takeField_rsvd (fs : List Fld) (hfs : ∀ f ∈ fs, f.Fits) (hap : fs.Pairwise Fld.Apart) (t : Taken) :
    (fs.foldl (takeField b off locked h new) t).rsvd = true ↔ t.rsvd = true ∨ ∃ f ∈ fs, fieldReserved b off locked h new t.word f := by
  induction fs generalizing t with
  | nil => simp
  | cons f fs ih =>
    rw [List.forall_mem_cons] at hfs
    rw [List.pairwise_cons] at hap
    obtain ⟨_, _, hrsvd⟩ := takeField_cases b off locked h new hfs.1 t
    have hsame : ∀ g ∈ fs, (fieldReserved b off locked h new (takeField b off locked h new t f).word g ↔
        fieldReserved b off locked h new t.word g) := fun g hg =>
      fieldReserved_congr b off locked h new (hfs.2 g hg) (takeField_apart b off locked h new hfs.1 (hfs.2 g hg) (hap.1 g hg) t)
    rw [List.foldl_cons, ih hfs.2 hap.2, hrsvd, or_assoc, List.exists_mem_cons_iff, exists_congr fun g => and_congr_right (hsame g)]

end

/-- The fields of every register of the maps fit and share no bit. -/
theorem regMap_fields (b : Nat) (row : RegRow) (hrow : row ∈ regMap b) : (∀ f ∈ row.fields, f.Fits) ∧ row.fields.Pairwise Fld.Apart := by
  have hall : ∀ b : Fin 19, ∀ row ∈ regMap b.val, (∀ f ∈ row.fields, f.lo ≤ f.hi ∧ f.hi < 64) ∧
      row.fields.Pairwise fun f g => f.hi < g.lo ∨ g.hi < f.lo := by decide +kernel
  by_cases hb : b < 19
  · exact hall ⟨b, hb⟩ row hrow
  · obtain ⟨n, rfl⟩ : ∃ n, b = n + 19 := ⟨b - 19, by omega⟩
    exact absurd hrow List.not_mem_nil

/-- Settles O14: the fields of a register fit and share no bit, so each takes the write as if it were alone. -/
theorem fieldsOneByOne : Obligations.FieldsOneByOne := by
  intro b row locked h new old t hrow _ _ ht
  obtain ⟨hfs, hap⟩ := regMap_fields b row hrow
  subst ht
  refine ⟨fun f hf => ?_, fun i hi hout => ?_, ?_, ?_⟩
  · exact foldl_takeField_of b row.off locked h new row.fields hfs hap _ f hf
  · rw [bit_eq_testBit, bit_eq_testBit]
    exact foldl_takeField_outside b row.off locked h new row.fields hfs _ i hi hout
  · exact (foldl_takeField_denied b row.off locked h new row.fields hfs _).trans (by simp [fieldDenied])
  · exact (foldl_takeField_rsvd b row.off locked h new row.fields hfs hap _).trans
      (by simp [fieldReserved, encodingStands])

/-! ### Counter mode undoes itself (R340) -/

theorem length_xorBytes (a b : Bytes) : (xorBytes a b).length = min a.length b.length := List.length_zipWith

/-- A key stream that reaches over the text undoes itself. -/
theorem xorBytes_xorBytes_cancel (a k : Bytes) : a.length ≤ k.length → xorBytes (xorBytes a k) k = a := by
  induction a generalizing k with
  | nil => intro _; simp [xorBytes]
  | cons x xs ih =>
    cases k with
    | nil => simp
    | cons y ys =>
      intro h
      have hx : x ^^^ y ^^^ y = x := by rw [BitVec.xor_assoc, BitVec.xor_self, BitVec.xor_zero]
      have htail : xorBytes (xorBytes xs ys) ys = xs := ih ys (by simpa using h)
      simpa [xorBytes, hx] using htail

@[simp] theorem length_shiftRows (s : Bytes) : (shiftRows s).length = 16 := by simp [shiftRows]

theorem length_chunks4 (n : Nat) (bs : Bytes) : (chunks4 n bs).length = n := by
  induction n generalizing bs with
  | zero => rfl
  | succ n ih => simp [chunks4, ih]

theorem length_of_mem_chunks4 (n : Nat) (bs : Bytes) (h : bs.length = 4 * n) : ∀ w ∈ chunks4 n bs, w.length = 4 := by
  induction n generalizing bs with
  | zero => simp [chunks4]
  | succ n ih =>
    have hhead : (bs.take 4).length = 4 := by rw [List.length_take]; omega
    have htail : ∀ w ∈ chunks4 n (bs.drop 4), w.length = 4 := ih _ (by rw [List.length_drop]; omega)
    exact List.forall_mem_cons.mpr ⟨hhead, htail⟩

/-- Words of four bytes, and at least the eight that the key expansion looks back on. -/
def WordsReady (ws : List Bytes) : Prop := 8 ≤ ws.length ∧ ∀ w ∈ ws, w.length = 4

theorem WordsReady.length_getD {ws : List Bytes} (h : WordsReady ws) (i : Nat) (hi : i < ws.length) : (ws.getD i []).length = 4 := by
  rw [List.getD_eq_getElem _ _ hi]
  exact h.2 _ (List.getElem_mem hi)

theorem length_keyWords (n : Nat) (ws : List Bytes) : (keyWords n ws).length = ws.length + n := by
  induction n generalizing ws with
  | zero => rfl
  | succ n ih => simp only [keyWords, ih, List.length_cons]; omega

/-- The expansion keeps to words of four bytes (FIPS 197). -/
theorem keyWords_ready (n : Nat) (ws : List Bytes) (h : WordsReady ws) : WordsReady (keyWords n ws) := by
  induction n generalizing ws with
  | zero => exact h
  | succ n ih =>
    obtain ⟨h8, hfour⟩ := h
    have hprev := WordsReady.length_getD ⟨h8, hfour⟩ 0 (by omega)
    have hback := WordsReady.length_getD ⟨h8, hfour⟩ 7 (by omega)
    refine ih _ ⟨Nat.le_succ_of_le h8, List.forall_mem_cons.mpr ⟨?_, hfour⟩⟩
    generalize ws.getD 0 [] = prev at hprev
    generalize ws.getD 7 [] = back at hback
    split
    · simp [hprev, hback]
    · split <;> simp [hprev, hback]

theorem length_roundKeys (key : Bytes) : (roundKeys key).length = 15 := by simp [roundKeys]

/-- Every round key of a 32-byte key has 16 bytes. -/
theorem length_roundKey (key : Bytes) (hk : key.length = 32) (r : Nat) (hr : r < 15) : ((roundKeys key).getD r []).length = 16 := by
  have hready : WordsReady (keyWords 52 (chunks4 8 key).reverse) :=
    keyWords_ready 52 _ ⟨by simp [length_chunks4], fun w hw => length_of_mem_chunks4 8 key hk w (List.mem_reverse.mp hw)⟩
  have hlen : (keyWords 52 (chunks4 8 key).reverse).reverse.length = 60 := by simp [length_keyWords, length_chunks4]
  rw [List.getD_eq_getElem _ _ (by rw [length_roundKeys]; exact hr)]
  simp only [roundKeys, List.getElem_map, List.getElem_range, List.length_flatten]
  generalize hws : (keyWords 52 (chunks4 8 key).reverse).reverse = ws at hlen
  have hfour : ∀ n ∈ ((ws.drop (4 * r)).take 4).map List.length, n = 4 := by
    intro n hn
    obtain ⟨w, hw, rfl⟩ := List.mem_map.mp hn
    refine hready.2 w (List.mem_reverse.mp ?_)
    rw [hws]
    exact List.mem_of_mem_drop (List.mem_of_mem_take hw)
  rw [List.eq_replicate_of_mem hfour]
  simp [hlen]
  omega

theorem length_aesEncrypt (key block : Bytes) (hk : key.length = 32) : (aesEncrypt key block).length = 16 := by
  simp only [aesEncrypt, length_xorBytes, length_shiftRows, length_roundKey key hk 14 (by decide), Nat.min_self]

/-- The key stream that `gcmCtr` lays over `n` blocks. -/
def keyStream (key iv : Bytes) (n : Nat) : Bytes := ((List.range n).map fun i => gcmStream key iv (i + 2)).flatten

theorem gcmCtr_eq_xorBytes (key iv text : Bytes) : gcmCtr key iv text = xorBytes text (keyStream key iv ((text.length + 15) / 16)) := rfl

theorem length_keyStream (key iv : Bytes) (hk : key.length = 32) (n : Nat) : (keyStream key iv n).length = 16 * n := by
  have h16 : ∀ i, (gcmStream key iv i).length = 16 := fun i => length_aesEncrypt key _ hk
  simp [keyStream, List.length_flatten, List.map_map, Function.comp_def, h16, Nat.mul_comm]

theorem length_gcmCtr (key iv text : Bytes) (hk : key.length = 32) : (gcmCtr key iv text).length = text.length := by
  rw [gcmCtr_eq_xorBytes, length_xorBytes, length_keyStream key iv hk]
  omega

/-- Counter mode undoes itself: text and ciphertext are of one length and meet one key stream. -/
theorem gcmCtr_gcmCtr (key iv text : Bytes) (hk : key.length = 32) : gcmCtr key iv (gcmCtr key iv text) = text := by
  rw [gcmCtr_eq_xorBytes key iv (gcmCtr key iv text), length_gcmCtr key iv text hk, gcmCtr_eq_xorBytes]
  exact xorBytes_xorBytes_cancel _ _ (by rw [length_keyStream key iv hk]; omega)

/-- Settles O23: the tag recomputed over the ciphertext decides, and counter mode undoes itself. -/
theorem sealOpens : Obligations.SealOpens := by
  intro key iv aad text tag hk _
  refine ⟨?_, fun htag => ?_⟩
  · simp [gcmOpen, gcmSeal, gcmCtr_gcmCtr key iv text hk]
  · exact if_neg (Ne.symm htag)

/-! ### Where the registers that act lie (R22) -/

/-- An aligned offset of the register space and its place, outside the physical functions' pages and frames. -/
structure RegAt (off : Nat) (p : RegPlace) : Prop where
  place : regPlace off = some p
  page : pfPage p = none
  frame : pfFrame p = none
  word : p.off / 8 * 8 = p.off
  aligned : off % 8 = 0

/-- Of ranges in rising order, the range that holds an offset is the one found. -/
theorem find?_range (l : List (Nat × Nat × Nat)) (hl : l.Pairwise fun a b => a.2.1 ≤ b.1) (x : Nat × Nat × Nat) (hx : x ∈ l) (off : Nat)
    (hoff : x.1 ≤ off ∧ off < x.2.1) : (l.find? fun r => decide (r.1 ≤ off ∧ off < r.2.1)) = some x := by
  induction l with
  | nil => cases hx
  | cons y ys ih =>
    rw [List.pairwise_cons] at hl
    rcases List.mem_cons.mp hx with rfl | hys
    · exact List.find?_cons_of_pos (decide_eq_true hoff)
    · have hbelow : y.2.1 ≤ x.1 := hl.1 x hys
      rw [List.find?_cons_of_neg (by rw [decide_eq_true_eq]; omega)]
      exact ih hl.2 hys

/-- An offset lies in the block whose range holds it. -/
theorem regPlace_of_range (x : Nat × Nat × Nat) (hx : x ∈ blockRanges) (off : Nat) (hoff : x.1 ≤ off ∧ off < x.2.1) :
    regPlace off = some { block := x.2.2,
                          unit := (off - x.1) / (if x.2.2 = 5 then 0x4000 else if x.2.2 = 6 then 0x100000 else 2 ^ 28),
                          off := (off - x.1) % (if x.2.2 = 5 then 0x4000 else if x.2.2 = 6 then 0x100000 else 2 ^ 28) } := by
  rw [regPlace, find?_range blockRanges (by decide) x hx off hoff]
  rfl

/-- A register of a tile's window. -/
theorem regAt_tiles (n : Fin 528) (o : Nat) (ho : o < 0x4000) (h8 : o % 8 = 0) :
    RegAt (0x3000000 + o + n.val * 0x4000) { block := 5, unit := n.val, off := o } where
  place := by
    rw [regPlace_of_range (0x3000000, 0x3840000, 5) (by decide) _ ⟨by omega, by dsimp only; omega⟩]
    simp
    omega
  page := by simp [pfPage]
  frame := by simp [pfFrame]
  word := by dsimp only; omega
  aligned := by omega

/-- A register of an HBM controller's window. -/
theorem regAt_hbm (k : Fin 8) (o : Nat) (ho : o < 0x100000) (h8 : o % 8 = 0) :
    RegAt (hbmReg k.val o) { block := 6, unit := k.val, off := o } where
  place := by
    rw [hbmReg, regPlace_of_range (0x4000000, 0x4800000, 6) (by decide) _ ⟨by omega, by dsimp only; omega⟩]
    simp
    omega
  page := by simp [pfPage]
  frame := by simp [pfFrame]
  word := by dsimp only; omega
  aligned := by rw [hbmReg]; omega

/-- A command that writes a register gives the effect of a write that is taken. -/
theorem regCommand_gives {i : Instr} {off : Nat} {p : RegPlace} {w : RegW} {s : State} {t : Taken} {e : Dev}
    (hexec : exec i s = regCommand off w s) (hat : RegAt off p) (h : Takes p w s t)
    (he : regEffect w.req.val s.vault p .both t (storedOrShown s.vault s.dev p) s.dev = e) : Gives i s e := by
  rw [Gives, hexec, regCommand_takes p w s t off hat.place hat.page hat.frame hat.word hat.aligned h, he]

/-- A command that writes a windowed data register gives the effect of a write that is taken. -/
theorem regAccess_gives {i : Instr} {off : Nat} {p : RegPlace} {w : RegW} {s : State} {t : Taken} {e : Dev}
    (hexec : exec i s = regAccess off ⟨w.req, true, .both, w.value⟩ s) (hat : RegAt off p) (h : Takes p w s t)
    (he : regEffect w.req.val s.vault p .both t (storedOrShown s.vault s.dev p) s.dev = e) : Gives i s e := by
  rw [Gives, hexec, regAccess_takes p w s t off hat.place hat.page hat.frame hat.word hat.aligned h, he]

/-- A command that reads a windowed data register gives the read's side effect. -/
theorem regAccess_read_gives {i : Instr} {off : Nat} {p : RegPlace} {r : Req} {s : State} {e : Dev} {row : RegRow}
    (hexec : exec i s = regAccess off ⟨r, false, .both, 0⟩ s) (hat : RegAt off p) (hrow : regRow p = some row) (hon : s.On)
    (he : readEffect p .both s.dev = e) : Gives i s e := by
  rw [Gives, hexec, regAccess_read p r s off row hon hat.place hat.page hat.frame hat.word hat.aligned hrow, he]

/-! ### What the taken writes of the registers that act do -/

theorem Taken.hits_ne_nil {t : Taken} {lo : Nat} (h : t.hit lo = true) : t.hits ≠ [] := by
  intro hnil
  simp [Taken.hit, hnil] at h

section
variable (r : Nat) (v : Vault) (t : Taken) (old : Nat) (d : Dev)

/-- CANAL_SCHED_CTRL takes its fields, except the request of a switch in a group (R80). -/
theorem regEffect_canalSchedCtrl (h : t.hit 4 = false ∨ bit t.word 4 = false ∨ d.groupSize ≤ 1) :
    regEffect r v { block := 3, unit := 0, off := 0x10 } .both t old d = d.csrSet schedCtrl (BitVec.ofNat 64 (t.word ||| (old &&& 16))) := by
  refine if_neg ?_
  rw [Bool.and_eq_true, Bool.and_eq_true, decide_eq_true_eq]
  rintro ⟨⟨hhit, hbit⟩, hgroup⟩
  rcases h with h | h | h
  · simp [h] at hhit
  · simp [h] at hbit
  · omega

theorem regEffect_canalTblData (h : t.denied = false) :
    regEffect r v { block := 3, unit := 0, off := 0x38 } .both t old d = writeTbl { block := 3, unit := 0, off := 0x38 } t.word true d :=
  if_neg (by simp [h])

/-- LOCKS_SLUICE.go, when no sluice of the register runs, starts one (R97). -/
theorem regEffect_locksSluice (hhit : t.hit 11 = true) (hgo : bit t.word 11 = true) (hidle : bit old 11 = false) :
    regEffect r v { block := 4, unit := 0, off := 0x48 } .both t old d =
      startSluice (some (d.field 4 0x18 6 0)) (if bit t.word 10 then none else some (bits t.word 9 0)) true
        (d.csrSet (blockBase 4 + 0x48) (BitVec.ofNat 64 t.word)) := by
  refine (if_neg (Taken.hits_ne_nil hhit)).trans (if_pos ?_)
  simp [hhit, hgo, hidle]

theorem regEffect_locksGateData (hhit : t.hit 0 = true) :
    regEffect r v { block := 4, unit := 0, off := 0x40 } .both t old d = writeGate { block := 4, unit := 0, off := 0x40 } t.word d :=
  if_pos hhit

/-- TILES_STREAM_CTRL halts streams, then restarts streams (R129). -/
theorem regEffect_tilesStreamCtrl (n : Nat) (hhalt : t.hit 0 = true) (hrestart : t.hit 4 = true) :
    regEffect r v { block := 5, unit := n, off := 0x40 } .both t old d =
      restartStreams n (bits t.word 7 4) (haltStreams n (bits t.word 3 0) d) := by
  refine (if_pos hrestart).trans ?_
  rw [if_pos hhalt]

theorem regEffect_tilesOpstoreData (n : Nat) (h : t.denied = false) :
    regEffect r v { block := 5, unit := n, off := 0x60 } .both t old d = writeOp { block := 5, unit := n, off := 0x60 } t.word true d :=
  if_neg (by simp [h])

theorem regEffect_hbmScrubCtrl (k : Nat) (hhit : t.hit 0 = true) :
    regEffect r v { block := 6, unit := k, off := 0x38 } .both t old d = writeScrub k old t.word true d := by
  refine (if_neg (Taken.hits_ne_nil hhit)).trans ?_
  rw [hhit]

theorem regEffect_hbmTestCtrl (k : Nat) (hhits : t.hits ≠ []) :
    regEffect r v { block := 6, unit := k, off := 0x98 } .both t old d = writeTest k old t.word d := if_neg hhits

/-- CONTROL_CORE_CTRL restarts a running core other than the first three (R353). -/
theorem regEffect_coreCtrl (hhit : t.hit 0 = true) (hgo : bit t.word 0 = true) (hcore : 2 < d.field 15 0x18 4 0)
    (hrun : (d.coreCtl (d.field 15 0x18 4 0)).state = 1) :
    regEffect r v { block := 15, unit := 0, off := 0x30 } .both t old d = restartCore (d.field 15 0x18 4 0) d := by
  refine (if_pos hhit).trans ((if_neg (by simp [hgo])).trans ((if_neg ?_).trans (if_pos (.inl hrun))))
  exact fun h => Nat.not_lt.mpr h.1 hcore

theorem regEffect_nanLimit (hhit : t.hit 0 = true) :
    regEffect r v { block := 16, unit := 0, off := 0x38 } .both t old d = d.modRel fun x => { x with nanLimit := bits t.word 31 0 } :=
  if_pos hhit

theorem regEffect_force (hhit : t.hit 0 = true) (hgo : bit t.word 0 = true) :
    regEffect r v { block := 16, unit := 0, off := 0x40 } .both t old d = suspect 6 0 d := if_pos (by simp [hhit, hgo])

/-- OBSERVE_MARK latches the counters of the core that writes it (R413). -/
theorem regEffect_mark (hhit : t.hit 0 = true) (hcore : 3 ≤ r) :
    regEffect r v { block := 17, unit := 0, off := 0x30 } .both t old d = latchCore (r - 3) (bits t.word 15 0) (bit t.word 16) d :=
  (if_pos hhit).trans (if_neg (Nat.not_lt.mpr hcore))

theorem regEffect_traceCtrl (hhits : t.hits ≠ []) (hvis : d.obs.visible = true) :
    regEffect r v { block := 17, unit := 0, off := 0x10 } .both t old d =
      setTrace (bits t.word 1 0) (bits t.word 4 2) (t.hit 5 && bit t.word 5) d :=
  if_neg (by simp [hhits, hvis])

theorem regEffect_sampleCtrl (hvis : d.obs.visible = true) :
    regEffect r v { block := 17, unit := 0, off := 0x28 } .both t old d =
      setSamples (bits t.word 15 0) (BitVec.ofNat 16 (bits t.word 31 16)) (BitVec.ofNat 19 (bits t.word 50 32)) d :=
  if_neg (by simp [hvis])

/-- POWERCLK_CAP sets the cap and the factor of THROTTLE_IN (R433). -/
theorem regEffect_cap (hcap : t.hit 0 = true) (hfactor : t.hit 24 = true) :
    regEffect r v { block := 18, unit := 0, off := 0x20 } .both t old d =
      ((d.modPower fun x => { x with capW := bits t.word 15 0 }).csrSet (blockBase 18 + 0x20) (BitVec.ofNat 64 t.word)).modPower
        fun x => { x with throttleFactor := bits t.word 34 24 } := by
  refine (if_pos hfactor).trans ?_
  rw [if_pos hcap]

theorem regEffect_resetCtrl (hhit : t.hit 0 = true) (hgo : bit t.word 0 = true) :
    regEffect r v { block := 18, unit := 0, off := 0x30 } .both t old d = orderWarm 1 d := if_pos (by simp [hhit, hgo])

end

/-! ### HBM_TEST_CTRL (R188) -/

section
variable (k old word : Nat) (d : Dev)

/-- While test mode is on, go performs a raw write. -/
theorem writeTest_rawWrite (hen : bit word 10 = true) (hgo : bit word 13 = true) (hop : bits word 12 11 = 1) :
    writeTest k old word d = testWrite k (d.csrSet (hbmReg k 0x98) (BitVec.ofNat 64 (word % 2 ^ 13))) := by
  simp [writeTest, hen, hgo, hop]

/-- While test mode is on, go performs a raw read. -/
theorem writeTest_rawRead (hen : bit word 10 = true) (hgo : bit word 13 = true) (hop : bits word 12 11 = 2) :
    writeTest k old word d = testRead k (d.csrSet (hbmReg k 0x98) (BitVec.ofNat 64 (word % 2 ^ 13))) := by
  simp [writeTest, hen, hgo, hop]

/-- Clearing test_en ends test mode. -/
theorem writeTest_disable (hwas : bit old 10 = true) (hen : bit word 10 = false) :
    writeTest k old word d = testEnd k (d.csrSet (hbmReg k 0x98) (BitVec.ofNat 64 (word % 2 ^ 13))) := by
  simp [writeTest, hwas, hen]

end

/-- Settles O51: each write that is taken has its register's effect, each read of a windowed data register advances its index. -/
theorem workRegistersComplete : Obligations.WorkRegistersComplete := by
  intro w s t
  refine ⟨fun h hsw => ?_, fun h => ?_, fun hon => ?_, fun h hhit hgo hidle => ?_, fun h hhit => ?_, fun hon => ?_,
    fun n h hhalt hrestart => ?_, fun n h hhalt hrestart => ?_, fun n h => ?_, fun n hon => ?_, fun k h hhit => ?_, fun k old d h hhits hold hd => ?_⟩
  · exact regCommand_gives rfl ⟨rfl, rfl, rfl, rfl, rfl⟩ h (regEffect_canalSchedCtrl _ _ _ _ _ hsw)
  · exact regAccess_gives rfl ⟨rfl, rfl, rfl, rfl, rfl⟩ h (regEffect_canalTblData _ _ _ _ _ h.2.2.1)
  · exact regAccess_read_gives rfl (p := { block := 3, unit := 0, off := 0x38 }) ⟨rfl, rfl, rfl, rfl, rfl⟩ rfl hon rfl
  · exact regCommand_gives rfl ⟨rfl, rfl, rfl, rfl, rfl⟩ h (regEffect_locksSluice _ _ _ _ _ hhit hgo hidle)
  · exact regAccess_gives rfl ⟨rfl, rfl, rfl, rfl, rfl⟩ h (regEffect_locksGateData _ _ _ _ _ hhit)
  · exact regAccess_read_gives rfl (p := { block := 4, unit := 0, off := 0x40 }) ⟨rfl, rfl, rfl, rfl, rfl⟩ rfl hon rfl
  · exact regCommand_gives rfl (regAt_tiles n 0x40 (by decide) rfl) h (regEffect_tilesStreamCtrl _ _ _ _ _ _ hhalt hrestart)
  · exact regCommand_gives rfl (regAt_tiles n 0x40 (by decide) rfl) h (regEffect_tilesStreamCtrl _ _ _ _ _ _ hhalt hrestart)
  · exact regAccess_gives rfl (regAt_tiles n 0x60 (by decide) rfl) h (regEffect_tilesOpstoreData _ _ _ _ _ _ h.2.2.1)
  · exact regAccess_read_gives rfl (regAt_tiles n 0x60 (by decide) rfl) rfl hon rfl
  · exact regCommand_gives rfl (regAt_hbm k 0x38 (by decide) rfl) h (regEffect_hbmScrubCtrl _ _ _ _ _ _ hhit)
  · subst hold hd
    refine ⟨fun hen hgo hop => ?_, fun hen hgo hop => ?_, fun hwas hen => ?_⟩
    · exact regCommand_gives rfl (regAt_hbm k 0x98 (by decide) rfl) h
        ((regEffect_hbmTestCtrl _ _ _ _ _ _ hhits).trans (writeTest_rawWrite _ _ _ _ hen hgo hop))
    · exact regCommand_gives rfl (regAt_hbm k 0x98 (by decide) rfl) h
        ((regEffect_hbmTestCtrl _ _ _ _ _ _ hhits).trans (writeTest_rawRead _ _ _ _ hen hgo hop))
    · exact regCommand_gives rfl (regAt_hbm k 0x98 (by decide) rfl) h
        ((regEffect_hbmTestCtrl _ _ _ _ _ _ hhits).trans (writeTest_disable _ _ _ _ hwas hen))

/-- REGISTER_WRITE of 64 bits gives the effect of a write that is taken (R7). -/
theorem registerWrite_gives {off : Nat} {p : RegPlace} {w : RegW} {s : State} {t : Taken} {e : Dev} (hat : RegAt off p) (h : Takes p w s t)
    (he : regEffect w.req.val s.vault p .both t (storedOrShown s.vault s.dev p) s.dev = e) :
    Gives (.registerWrite w.req off 8 w.value) s e := by
  have hexec : exec (.registerWrite w.req off 8 w.value) s = onDevV (fun v d => regWrite w.req.val off 8 w.value v d) s := rfl
  rw [Gives, hexec, onDevV_on _ _ h.1, regWrite_takes p w s t off hat.place hat.page hat.frame hat.word hat.aligned h, he]

/-- A write at an offset that no block decodes sets access_denied in IDENT_STATUS (R23). -/
theorem registerWrite_undecoded (r : Req) (off size : Nat) (value : Word) (s : State) (hon : s.On) (hp : regPlace off = none) :
    Gives (.registerWrite r off size value) s (s.dev.seen 0 0 1) := by
  have hexec : exec (.registerWrite r off size value) s = onDevV (fun v d => regWrite r.val off size value v d) s := rfl
  rw [Gives, hexec, onDevV_on _ _ hon]
  simp only [regWrite, hp]

/-- Settles O53: each write that is taken has its register's effect, by its own command and by REGISTER_WRITE. -/
theorem controlRegistersComplete : Obligations.ControlRegistersComplete := by
  intro w s t
  refine ⟨fun h hhit hgo hcore hrun => ?_, fun h hhit => ?_, fun h hhit hgo => ?_, fun h hhit hcore => ?_, fun h hhits hvis => ?_,
    fun h hvis => ?_, fun h hcap hfactor => ?_, fun h hhit hgo => ?_, fun h hhit => ?_, fun off size hon hp => ?_⟩
  · exact regCommand_gives rfl ⟨rfl, rfl, rfl, rfl, rfl⟩ h (regEffect_coreCtrl _ _ _ _ _ hhit hgo hcore hrun)
  · exact regCommand_gives rfl ⟨rfl, rfl, rfl, rfl, rfl⟩ h (regEffect_nanLimit _ _ _ _ _ hhit)
  · exact regCommand_gives rfl ⟨rfl, rfl, rfl, rfl, rfl⟩ h (regEffect_force _ _ _ _ _ hhit hgo)
  · exact regCommand_gives rfl ⟨rfl, rfl, rfl, rfl, rfl⟩ h (regEffect_mark _ _ _ _ _ hhit hcore)
  · exact regCommand_gives rfl ⟨rfl, rfl, rfl, rfl, rfl⟩ h (regEffect_traceCtrl _ _ _ _ _ hhits hvis)
  · exact regCommand_gives rfl ⟨rfl, rfl, rfl, rfl, rfl⟩ h (regEffect_sampleCtrl _ _ _ _ _ hvis)
  · exact regCommand_gives rfl ⟨rfl, rfl, rfl, rfl, rfl⟩ h (regEffect_cap _ _ _ _ _ hcap hfactor)
  · exact regCommand_gives rfl ⟨rfl, rfl, rfl, rfl, rfl⟩ h (regEffect_resetCtrl _ _ _ _ _ hhit hgo)
  · exact registerWrite_gives ⟨rfl, rfl, rfl, rfl, rfl⟩ h (regEffect_nanLimit _ _ _ _ _ hhit)
  · exact registerWrite_undecoded w.req off size w.value s hon hp

/-! ### A load's stages (R36) -/

section
variable (v : Vault) (d : Dev)

theorem fetch_hostImage (data : Bytes) (hstage : d.manifest.stage = 1) (hsource : d.manifest.source = 0) :
    fetch data d = d.modManifest fun m => { m with staging := data.take (min m.length 0x2000000), stage := 2 } := by
  simp [fetch, hstage, hsource, Dev.modManifest]

theorem authenticateStage_ok (hstage : d.manifest.stage = 2) (hr : authenticate v d d.manifest.staging = .ok ()) :
    authenticateStage v d = d.modManifest fun m => { m with stage := 3 } := by
  simp [authenticateStage, hstage, hr]

theorem authenticateStage_error (e : Bad) (hstage : d.manifest.stage = 2) (hr : authenticate v d d.manifest.staging = .error e) :
    authenticateStage v d = failWith e d := by
  simp [authenticateStage, hstage, hr]

theorem validateStage_ok (m : Manifest) (hstage : d.manifest.stage = 3) (hr : validate v d d.manifest.staging = .ok m) :
    validateStage v d = d.modManifest fun x => { x with stage := 4, parsed := some m } := by
  simp [validateStage, hstage, hr]

theorem validateStage_error (e : Bad) (hstage : d.manifest.stage = 3) (hr : validate v d d.manifest.staging = .error e) :
    validateStage v d = failWith e d := by
  simp [validateStage, hstage, hr]

/-- Stage 4 of a device alone in its group that has passed local boot before. -/
theorem shadowWrite_alone (m : Manifest) (hstage : d.manifest.stage = 4) (hparsed : d.manifest.parsed = some m) (halone : m.groupSize ≤ 1)
    (hpassed : (relockAll d).boot.passed = true) :
    shadowWrite d = startRootTime (((((relockAll d).modCanal fun c => { c with shadow := bankOf m }).modLocks fun k =>
      { k with gatesShadow := gatesOf m }).modManifest fun x => { x with shadow := some m, stage := 5 }).modRing
        fun r => { r with root := true }) := by
  simp [shadowWrite, hstage, hparsed, halone, hpassed]

theorem boundary_firstFlip (m : Manifest) (haligned : d.canal.aligned = false) (hstage : d.manifest.stage = 5)
    (hshadow : d.manifest.shadow = some m) (halone : m.groupSize ≤ 1) : boundary v d = firstFlip v m d.time.ns false d := by
  simp [boundary, haligned, hstage, hshadow, halone]

theorem boundary_scheduled (haligned : d.canal.aligned = true) (hslot : d.canal.slot = 1024) (hdwell : d.canal.dwellLeft = 0) :
    boundary v d = scheduledBoundary v d := by
  simp [boundary, haligned, hslot, hdwell]

/-- The announced time of lockage 0 has come for a group's load that waits (R307). -/
theorem lockageZero_due (t : Word) (m : Manifest) (hzero : d.ring.zeroTime = some t) (hshadow : d.manifest.shadow = some m)
    (hstage : d.manifest.stage = 5) (hgroup : 1 < m.groupSize) (hready : d.ring.ready = false) (hdue : t.toNat ≤ d.time.ns.toNat) :
    lockageZero v d = firstFlip v m t true d := by
  simp [lockageZero, hzero, hshadow, hstage, hgroup, hready, hdue]

/-- The root of a group that is not ready 2 s after the first report ends the load (R46). -/
theorem readyTimeout_expired (t : Nat) (hfirst : d.manifest.firstReady = some t) (hroot : d.ring.root = true)
    (hflip : d.manifest.flipLockage = none) (hstage : 1 ≤ d.manifest.stage ∧ d.manifest.stage ≤ 5)
    (hmembers : d.manifest.membersReady < d.loadGroup) (hlate : t + 2000000000 ≤ d.uptime) :
    readyTimeout d = failLoad VCode.aborted.code 0xFF 0 d := by
  have habort : abortGroup d = failLoad VCode.aborted.code 0xFF 0 d := if_pos hstage
  simp [readyTimeout, hfirst, hroot, hflip, hmembers, hlate, habort]

/-- A member that neither takes nor sends a copy, and does not reseed, restores in place (R48). -/
theorem rollbackRestore_inPlace (chunks : List (Nat × Bytes)) (hstage : d.manifest.stage = 6) (htaker : d.thr.role ≠ 2)
    (hholder : d.thr.role ≠ 3) (hreseed : d.thr.reseed ≠ 1) (hdelta : d.rel.deltaActive = false) :
    rollbackRestore chunks d = d.modRel fun r => { r with deltaDone := true } := by
  simp [rollbackRestore, hstage, htaker, hholder, hreseed, hdelta]

/-! ### The commands of the manifest (R36, R45, R50) -/

theorem loadCommand_accepted (c : Cmd) (reload rollback : Bool) (source address length : Nat)
    (hidle : d.manifest.stage = 0 ∨ 5 < d.manifest.stage) (hback : reload = rollback) (hsource : source < 3) :
    loadCommand c reload rollback source address length d =
      (fail .accepted, startLoad (some (c.src.val, c.seq)) reload rollback source address length d) := by
  have hkeeps : ¬ (reload = true ∧ rollback = false ∧ d.manifest.active.isSome = true ∧ d.stepLockages = 0) := by
    rintro ⟨hreload, hrollback, _⟩
    simp [hreload, hrollback] at hback
  unfold loadCommand
  rw [if_neg (by omega), if_neg hkeeps, if_neg (by omega), if_neg (by omega)]

/-- Adding a tile's failure changes no part of the manifest's state. -/
theorem foldl_modTile_manifest (us : List Nat) (f : Tile → Tile) :
    (us.foldl (fun d u => d.modTile u f) d).manifest = d.manifest := by
  induction us generalizing d with
  | nil => rfl
  | cons u us ih => exact ih (d.modTile u f)

theorem mem_foldl_addSet (us l : List Nat) (u : Nat) : u ∈ us.foldl (fun l u => addSet u l) l ↔ u ∈ l ∨ u ∈ us := by
  induction us generalizing l with
  | nil => simp
  | cons x xs ih =>
    have hadd : u ∈ addSet x l ↔ u ∈ l ∨ u = x := by
      unfold addSet
      split
      · next hx => exact ⟨.inl, fun hu => hu.elim id fun hu => hu ▸ hx⟩
      · simp
    rw [List.foldl_cons, ih, hadd, List.mem_cons, or_assoc]

/-- An alternate of tiles that covers the failed set is selected itself, and its tiles fail (R50). -/
theorem selectAlternate_ofTiles (n k : Nat) (a : Alternate) (halt : d.alternates[n]? = some (k, a)) (hbase : a.base = d.program)
    (htiles : ∀ u ∈ a.coverage, u < 528) (hcover : ∀ u ∈ d.manifest.failedSet, u ∈ a.coverage) :
    selectAlternate n d = (ok [],
      (a.coverage.foldl (fun d u => d.modTile u fun t => { t with failed := true }) (d.modManifest fun m => { m with
        heldFailed := a.coverage.foldl (fun l u => addSet u l) m.heldFailed,
        failedSet := a.coverage.foldl (fun l u => addSet u l) m.failedSet })).modManifest fun m => { m with altDue := some [n] }) := by
  have hfold : ∀ e : Dev, a.coverage.foldl (fun d u => if u < 528 then d.modTile u fun t => { t with failed := true } else d) e =
      a.coverage.foldl (fun d u => d.modTile u fun t => { t with failed := true }) e := by
    intro e
    exact List.foldl_ext _ _ _ fun d u hu => if_pos (htiles u hu)
  have hwithin : within (a.coverage.foldl (fun l u => addSet u l) d.manifest.failedSet) a.coverage = true := by
    simp only [within, List.all_eq_true, List.contains_iff_mem, mem_foldl_addSet]
    exact fun u hu => hu.elim (hcover u) id
  have hlink : ([0, 1, 2, 3].find? fun k => a.coverage.contains (0x400 + k)) = none := by
    rw [List.find?_eq_none]
    intro k _ hk
    have := htiles _ (List.contains_iff_mem.mp hk)
    omega
  unfold selectAlternate
  simp only [halt, hbase, hfold, hlink, foldl_modTile_manifest, Dev.modManifest_manifest, hwithin, ne_eq, not_true_eq_false, if_false, if_true]

theorem askRevert_due (happlied : d.manifest.altActive ≠ [] ∨ d.program ≠ 0)
    (hhealthy : (d.manifest.failedSet.any d.manifest.unhealthy.contains) = false) :
    askRevert d = (ok [], d.modManifest fun m => { m with revertDue := true }) := by
  refine if_neg ?_
  rintro (⟨hact, hprog⟩ | hbad)
  · exact happlied.elim (· hact) (· hprog)
  · simp [hhealthy] at hbad

end

/-- A command on a device with power gives what it does to the device. -/
theorem gives_onDev {i : Instr} {s : State} {f : Dev → Dev} {e : Dev} (hexec : exec i s = onDev f s) (hon : s.On) (he : f s.dev = e) :
    Gives i s e := by rw [Gives, hexec, onDev_on _ _ hon, he]

/-- The same of a command that reads the vault. -/
theorem gives_onDevV {i : Instr} {s : State} {f : Vault → Dev → Dev} {e : Dev} (hexec : exec i s = onDevV f s) (hon : s.On)
    (he : f s.vault s.dev = e) : Gives i s e := by rw [Gives, hexec, onDevV_on _ _ hon, he]

/-- A mailbox command that its guard lets through answers what it does. -/
theorem answers_of_mailbox {i : Instr} {c : Cmd} {g : Guard} {s : State} {f : Dev → Reply × Dev} {r : Reply} {e : Dev}
    (hexec : exec i s = onDev (mailbox c g f) s) (h : Serves g c s) (hf : f s.dev = (r, e)) : Answers i c s r e := by
  have := answers_mailbox i c g s f h hexec
  rwa [hf] at this

/-- CMD_MANIFEST_LOAD outside a load is accepted, and stage 1 begins. -/
theorem manifestLoad_answers (c : Cmd) (s : State) (source address length : Nat) (h : Serves {} c s)
    (hidle : s.dev.manifest.stage = 0 ∨ 5 < s.dev.manifest.stage) (hsource : source < 3) :
    Answers (.cmdManifestLoad c source address length) c s (fail .accepted)
      (startLoad (some (c.src.val, c.seq)) false false source address length s.dev) :=
  answers_of_mailbox rfl h (loadCommand_accepted s.dev c false false source address length hidle rfl hsource)

/-- CMD_MANIFEST_RELOAD with rollback outside a load is accepted, and stage 1 begins. -/
theorem manifestReload_answers (c : Cmd) (s : State) (source address length : Nat) (h : Serves {} c s)
    (hidle : s.dev.manifest.stage = 0 ∨ 5 < s.dev.manifest.stage) (hsource : source < 3) :
    Answers (.cmdManifestReload c source address length 1) c s (fail .accepted)
      (startLoad (some (c.src.val, c.seq)) true true source address length s.dev) := by
  refine answers_of_mailbox rfl h ?_
  rw [if_neg (by decide), decide_eq_true rfl]
  exact loadCommand_accepted s.dev c true true source address length hidle rfl hsource

/-- CMD_MANIFEST_STATUS answers what it names. -/
theorem manifestStatus_answers (c : Cmd) (s : State) (h : Serves { reduced := true, i3c := true } c s) : Answers (.cmdManifestStatus c) c s
    (ok ([(s.dev.manifest.active.map fun a => a.serial.toNat).getD 0, (s.dev.manifest.active.map fun a => a.jobId.toNat).getD 0,
        s.dev.manifest.stage, s.dev.manifest.code, s.dev.program, s.dev.manifest.failedSet.length] ++ s.dev.manifest.failedSet ++
      (s.dev.manifest.heldFailed.filter fun u => !s.dev.manifest.failedSet.contains u).length ::
        s.dev.manifest.heldFailed.filter fun u => !s.dev.manifest.failedSet.contains u)) s.dev := by
  have hanswer := answers_query (.cmdManifestStatus c) c _ s _ h rfl
  cases hactive : s.dev.manifest.active <;> simpa [hactive] using hanswer

/-- CMD_MANIFEST_CANCEL before the flip ends the load with ABORTED. -/
theorem manifestCancel_answers (c : Cmd) (s : State) (h : Serves {} c s) (hstage : 1 ≤ s.dev.manifest.stage ∧ s.dev.manifest.stage ≤ 5)
    (hflip : s.dev.manifest.flipLockage = none) (hzero : s.dev.ring.zeroTime = none) :
    Answers (.cmdManifestCancel c) c s (ok []) (failLoad VCode.aborted.code 0xFF 0 s.dev) := by
  refine answers_of_mailbox rfl h ?_
  rw [if_neg (by omega), if_neg (by simp [hflip, hzero])]

/-- Settles O32: stage by stage and command by command. -/
theorem manifestComplete : Obligations.ManifestComplete := by
  refine ⟨fun s hon => ⟨?_, ?_, ?_, ?_, ?_, ?_, ?_, ?_, ?_⟩, fun c s => ⟨?_, ?_, ?_, ?_, ?_⟩⟩
  · exact fun data hstage hsource => gives_onDev rfl hon (fetch_hostImage s.dev data hstage hsource)
  · intro r hstage hr
    cases r with
    | ok => exact gives_onDevV rfl hon (authenticateStage_ok s.vault s.dev hstage hr)
    | error e => exact gives_onDevV rfl hon (authenticateStage_error s.vault s.dev e hstage hr)
  · intro r hstage hr
    cases r with
    | ok m => exact gives_onDevV rfl hon (validateStage_ok s.vault s.dev m hstage hr)
    | error e => exact gives_onDevV rfl hon (validateStage_error s.vault s.dev e hstage hr)
  · exact fun m hstage hparsed halone _ hpassed => gives_onDev rfl hon (shadowWrite_alone s.dev m hstage hparsed halone hpassed)
  · exact fun m haligned hstage hshadow halone => gives_onDevV rfl hon (boundary_firstFlip s.vault s.dev m haligned hstage hshadow halone)
  · exact fun haligned hslot hdwell => gives_onDevV rfl hon (boundary_scheduled s.vault s.dev haligned hslot hdwell)
  · exact fun t m hzero hshadow hstage hgroup hready hdue =>
      gives_onDevV rfl hon (lockageZero_due s.vault s.dev t m hzero hshadow hstage hgroup hready hdue)
  · exact fun t hfirst hroot hflip hlo hhi hmembers hlate =>
      gives_onDev rfl hon (readyTimeout_expired s.dev t hfirst hroot hflip ⟨hlo, hhi⟩ hmembers hlate)
  · exact fun chunks hstage htaker hholder hreseed hdelta =>
      gives_onDev rfl hon (rollbackRestore_inPlace s.dev chunks hstage htaker hholder hreseed hdelta)
  · exact fun source address length h hidle hsource =>
      ⟨manifestLoad_answers c s source address length h hidle hsource, manifestReload_answers c s source address length h hidle hsource⟩
  · exact manifestStatus_answers c s
  · exact fun h hlo hhi hflip hzero => manifestCancel_answers c s h ⟨hlo, hhi⟩ hflip hzero
  · exact fun n k a h halt hbase htiles hcover => answers_of_mailbox rfl h (selectAlternate_ofTiles s.dev n k a halt hbase htiles hcover)
  · exact fun h happlied hhealthy => answers_of_mailbox rfl h (askRevert_due s.dev happlied hhealthy)

end Sys2Proof.Machine

/-! SUPPORT. The statements of the device's overview, settled: offsets that no block decodes, the locks, and the memories. -/

namespace Sys2Proof.Machine

/-! ### Offsets that no block decodes (R23) -/

/-- No block decodes an offset: it lies in a reserved range, or in a block where no register and no physical function's page or
frame stands. -/
def Undecoded (off : Nat) : Prop :=
  regPlace off = none ∨
    ∃ p, regPlace off = some p ∧ pfPage p = none ∧ pfFrame p = none ∧ regRow { p with off := p.off / 8 * 8 } = none

/-- An aligned access reaches a half or the whole of a register (R7). -/
theorem halfOf_aligned {off size : Nat} (h : size = 8 ∧ off % 8 = 0 ∨ size = 4 ∧ off % 4 = 0) : ∃ half, halfOf off size = some half := by
  rcases h with ⟨rfl, h8⟩ | ⟨rfl, h4⟩
  · exact ⟨.both, by simp [halfOf, h8]⟩
  · obtain h8 | h8 : off % 8 = 0 ∨ off % 8 = 4 := by omega
    · exact ⟨.low, by simp [halfOf, h8]⟩
    · exact ⟨.high, by simp [halfOf, h8]⟩

theorem regRead_undecoded {off : Nat} (h : Undecoded off) (size : Nat) (v : Vault) (d : Dev) : regRead off size v d = (0, d) := by
  rcases h with hp | ⟨p, hp, hpage, hframe, hrow⟩
  · simp [regRead, hp]
  · cases hhalf : halfOf off size <;> simp [regRead, hp, hhalf, hpage, hframe, hrow]

/-- An aligned write where nothing is decoded sets access_denied in IDENT_STATUS. -/
theorem regWrite_undecoded {off size : Nat} (hsize : size = 8 ∧ off % 8 = 0 ∨ size = 4 ∧ off % 4 = 0) (h : Undecoded off) (r : Nat)
    (value : Word) (v : Vault) (d : Dev) : regWrite r off size value v d = d.seen 0 0 1 := by
  obtain ⟨half, hhalf⟩ := halfOf_aligned hsize
  rcases h with hp | ⟨p, hp, hpage, hframe, hrow⟩
  · simp [regWrite, hp]
  · simp [regWrite, hp, hhalf, hpage, hframe, hrow]

/-- A word other than 0, which is what unlisted registers hold, is read back as it was stored. -/
theorem csrGet_csrSet_same (d : Dev) (off : Nat) {w : Word} (hw : w ≠ 0) : (d.csrSet off w).csrGet off = w :=
  tget_tset_same 0 d.csr off w hw

/-- A word with access_denied set is not 0. -/
theorem or_accessDenied_ne_zero (w : Word) : w ||| 2#64 ≠ 0 := by
  intro h
  have hbit := congrArg (·.getLsbD 1) h
  simp at hbit

/-- Settles O12: such a read answers 0, such a write sets access_denied. -/
theorem undecodedOffsets : Obligations.UndecodedOffsets := by
  intro off size hsize hoff
  refine ⟨regRead_undecoded hoff size, fun r value s hon => ⟨?_, ?_⟩⟩
  · exact gives_onDevV rfl hon (regWrite_undecoded hsize hoff r.val value s.vault s.dev)
  · exact csrGet_csrSet_same s.dev 8 (or_accessDenied_ne_zero _)

/-! ### The events of the locks (R83–R97) -/

section
variable (l : Nat) (d : Dev)

/-- Only the locks of Ethernet ports pause their senders (R92). -/
theorem pauseCheck_notEth (h : lockKind l ≠ some .eth) : pauseCheck l d = d := if_pos h

/-- Only writes are held (R95). -/
theorem holdWaiting_notWrite (w : Waiting) (h : w.kind ≠ .write) : holdWaiting l w d = d := if_pos (.inl h)

/-- Data whose route is mapped waits in a chamber with room (R83). -/
theorem lockArrive_data (inst dest : Nat) (bs : Bytes) (e : Nat × Nat) (hkind : lockKind l ≠ some .eth) (hopen : (d.lock l).closed = false)
    (hup : dest < 8 → (d.ctl dest).failed = false) (hroute : ((d.lock l).routeMap.find? fun e => e.1 = dest) = some e)
    (hroom : (d.lock l).room (waitingOf d l inst dest e.2 none false (.data dest bs false)).size = true) :
    lockArrive l inst none false (.data dest bs false) d =
      (.waits (waitingOf d l inst dest e.2 none false (.data dest bs false)).id,
        (d.modLocks fun k => { k with nextId := k.nextId + 1 }).modLock l fun k =>
          { backlog inst k with queue := k.queue ++ [waitingOf d l inst dest e.2 none false (.data dest bs false)] }) := by
  have hfailed : ¬ (dest < 8 ∧ (d.ctl dest).failed = true) := fun ⟨hlt, hf⟩ => by simp [hup hlt] at hf
  have hdata : (waitingOf d l inst dest e.2 none false (.data dest bs false)).kind ≠ .write := by simp [waitingOf]
  simp [lockArrive, requestDest, hopen, hfailed, hroute, hroom, holdWaiting_notWrite _ _ _ hdata, pauseCheck_notEth _ _ hkind]

/-- The owner of an owned gate stands in its entry (R84, R85). -/
theorem gateOwner_owned (e : Nat) (h : bits e 1 0 = 1) : gateOwner d e = bits e 11 2 := by simp [gateOwner, h]

/-- An owned gate that opens takes its owner's ready requests (R86). -/
theorem gateOpening_owned (e : Nat) (x : Dev) (hopen : (d.lock l).closed = false) (hdwell : d.canal.dwell = false)
    (hslot : d.canal.slot < 1024) (hfirst : (d.lock l).openedAt ≠ d.now + 1)
    (he : (tget 0 d.locks.gates (gateIndex l d.program d.canal.slot)).toNat = e) (howned : bits e 1 0 = 1)
    (hx : x = prepare l (bits e 11 2) (bits e 23 12)
      (borrow l (bits e 11 2) (bits e 23 12) (d.modLock l fun k => { k with openedAt := d.now + 1 })))
    (hready : ready x l (bits e 11 2) (bits e 23 12) = true) :
    gateOpening l d = pauseCheck l (takeTwo l (bits e 11 2) (bits e 23 12) x) := by
  subst hx
  have howner : ∀ x : Dev, gateOwner x e = bits e 11 2 := fun x => gateOwner_owned x e howned
  have hopens : ((d.lock l).closed || d.canal.dwell || decide (1024 ≤ d.canal.slot) || decide ((d.lock l).openedAt = d.now + 1)) = false := by
    simp [hopen, hdwell, hslot, hfirst]
  unfold gateOpening
  rw [hopens, if_neg Bool.false_ne_true]
  simp only [he, howned, howner, one_ne_zero, OfNat.one_ne_ofNat, if_false, if_pos hready]

/-- A sluice that no register started ends with the answers to what it discarded (R97). -/
theorem endSluice_ofCommand (n : Nat) (x : Sluice) (hx : d.locks.sluices[n]? = some x) (hreg : x.byRegister = false) :
    endSluice n d = x.removed.foldl (fun d r => answerDiscarded r.2 d)
      (d.modLocks fun k => { k with sluices := k.sluices.eraseIdx n }) := by simp [endSluice, hx, hreg]

end

/-- LOCK_ARRIVAL of data that waits. -/
theorem lockArrival_data_gives (s : State) (hon : s.On) (l : Fin 128) (i : Fin 1024) (dest : Nat) (bs : Bytes) (e : Nat × Nat)
    (hlock : lockKind l.val ≠ none) (hkind : lockKind l.val ≠ some .eth) (hopen : (s.dev.lock l.val).closed = false)
    (hup : dest < 8 → (s.dev.ctl dest).failed = false) (hroute : ((s.dev.lock l.val).routeMap.find? fun e => e.1 = dest) = some e)
    (hroom : (s.dev.lock l.val).room (waitingOf s.dev l.val i.val dest e.2 none false (.data dest bs false)).size = true) :
    Gives (.lockArrival l i (.data dest bs false)) s
      ((s.dev.modLocks fun k => { k with nextId := k.nextId + 1 }).modLock l.val fun k =>
        { backlog i.val k with queue := k.queue ++ [waitingOf s.dev l.val i.val dest e.2 none false (.data dest bs false)] }) := by
  have hexec : exec (.lockArrival l i (.data dest bs false)) s = execLockArrival l i (.data dest bs false) s := rfl
  rw [Gives, hexec, execLockArrival, onDev_on _ _ hon, if_neg hlock, lockArrive_data l.val s.dev i.val dest bs e hkind hopen hup hroute hroom]

/-- PAUSE_REPEAT while the fill stays at pause_off (R92). -/
theorem pauseRepeat_gives (s : State) (hon : s.On) (l : Fin 128) (hpaused : (s.dev.lock l.val).paused = true)
    (hen : (s.dev.lock l.val).pauseEn = true) (hopen : (s.dev.lock l.val).closed = false)
    (hfill : (s.dev.lock l.val).pauseOff ≤ (s.dev.lock l.val).fill) (hdue : (s.dev.lock l.val).pauseAt ≤ s.dev.uptime) :
    Gives (.pauseRepeat l) s
      ((s.dev.modLock l.val fun k => { k with pauseAt := s.dev.uptime + 100000 }).emit (.pauseFrame l.val 0xFFFF)) :=
  gives_onDev rfl hon (if_pos ⟨hpaused, hen, hopen, hfill, hdue⟩)

/-- HOLD_END of a copy that finds a staging chunk (R95). -/
theorem holdEnd_gives (s : State) (hon : s.On) (chunk : Nat) (d : Dev)
    (hheld : (s.dev.locks.holds.any fun h => h.kind == .copyBeforeWrite && h.chunk == chunk) = true) (hstage : stageChunk chunk s.dev = some d) :
    Gives (.holdEnd chunk) s (endHolds (fun h => h.kind == .copyBeforeWrite && h.chunk == chunk) d) := by
  refine gives_onDev rfl hon ?_
  rw [if_pos hheld, hstage]

/-- HOLD_ALLOWANCE_EXPIRY of a delta's hold in a tile's send engine (R96). -/
theorem holdAllowanceExpiry_delta_gives (s : State) (hon : s.On) (n : Nat) (h : Hold) (hh : s.dev.locks.holds[n]? = some h)
    (hnew : h.overrun = false) (hpast : h.since + allowance s.dev h.kind < s.dev.uptime) (hkind : h.kind = .delta) (hlock : h.lock = none) :
    Gives (.holdAllowanceExpiry n) s
      (let d := s.dev.modLocks fun k => { k with holds := k.holds.set n { h with overrun := true, repeatDue := s.dev.uptime + 1000000 } }
       postHoldDerate (holdFactor d h) (heldInstances d) d) := by
  have hover : ¬ (h.overrun = true ∨ s.dev.uptime ≤ h.since + allowance s.dev h.kind) := by
    rw [hnew]; rintro (hb | hle)
    · exact absurd hb (by decide)
    · omega
  have hcopy : ¬ h.kind = .copyBeforeWrite := by rw [hkind]; decide
  have hexec : exec (.holdAllowanceExpiry n) s = execHoldAllowanceExpiry n s := rfl
  rw [Gives, hexec, execHoldAllowanceExpiry, onDev_on _ _ hon]
  simp only [hh, if_neg hover, if_neg hcopy, hlock]

/-- HOLD_DERATE_REPEAT after 1 ms (R25). -/
theorem holdDerateRepeat_gives (s : State) (hon : s.On) (n : Nat) (h : Hold) (hh : s.dev.locks.holds[n]? = some h)
    (hover : h.overrun = true) (hdue : h.repeatDue ≤ s.dev.uptime) :
    Gives (.holdDerateRepeat n) s (postHoldDerate (holdFactor s.dev h) (heldInstances s.dev) (s.dev.modLocks fun k =>
      { k with holds := k.holds.set n { h with repeatDue := s.dev.uptime + 1000000 } })) := by
  have hexec : exec (.holdDerateRepeat n) s = execHoldDerateRepeat n s := rfl
  rw [Gives, hexec, execHoldDerateRepeat, onDev_on _ _ hon]
  simp only [hh, if_pos (And.intro hover hdue)]

/-! ### The commands of the locks (R101) -/

section
variable (c : Cmd) (s : State)

theorem lockStatus_answers (lock : Nat) (k : LockKind) (h : Serves { i3c := true } c s) (hkind : lockKind lock = some k) :
    Answers (.cmdLockStatus c lock) c s (ok [k.code, (s.dev.lock lock).size, (s.dev.lock lock).fill,
      b2n (if k = .eth then (s.dev.lock lock).paused else (s.dev.lock lock).closed || !(s.dev.lock lock).room 512),
      (s.dev.lock lock).drops, (s.dev.lock lock).holds, (s.dev.lock lock).overruns,
      (s.dev.locks.holds.filter fun h => h.lock == some lock).length]) s.dev := by
  refine answers_of_mailbox rfl h ?_
  simp only [hkind]

theorem lockSluice_answers (inst : Nat) (h : Serves { block := some 4 } c s) (hinst : inst < 1024)
    (hmay : createdThrough inst (actingPf c.src.val (some inst) s.dev) s.dev = true) :
    Answers (.cmdLockSluice c inst) c s (ok []) (startSluice none (some inst) false s.dev) := by
  refine answers_of_mailbox rfl h ?_
  rw [if_neg (Nat.not_le.mpr hinst), if_neg (by simp [hmay])]

theorem lockReadGate_answers (program bank lock slot : Nat) (h : Serves {} c s) (hprogram : program ∈ s.dev.canal.resident)
    (hbank : bank < 2) (hslot : slot < 1024) (hkind : lockKind lock ≠ none) :
    Answers (.cmdLockReadGate c program bank lock slot) c s
      (ok [if (s.dev.lock lock).described = false then 0
        else (tget 0 (if bank = 1 then s.dev.locks.gatesShadow else s.dev.locks.gates) (gateIndex lock program slot)).toNat]) s.dev := by
  have hvalid : (!s.dev.canal.resident.contains program || (lockKind lock).isNone || decide (2 ≤ bank ∨ 1024 ≤ slot)) = false := by
    have hrange : ¬ (2 ≤ bank ∨ 1024 ≤ slot) := by omega
    simp [hprogram, Option.isSome_iff_ne_none.mpr hkind, hrange]
  refine answers_of_mailbox rfl h ?_
  dsimp only
  rw [hvalid, if_neg Bool.false_ne_true]
  split <;> rfl

theorem weightSet_answers (inst weight : Nat) (h : Serves {} c s) (hinst : inst < 1024) (hlo : 1 ≤ weight) (hhi : weight ≤ 65535)
    (hmay : createdThrough inst (actingPf c.src.val (some inst) s.dev) s.dev = true) :
    Answers (.cmdWeightSet c inst weight) c s (ok [])
      (s.dev.modLocks fun k => { k with weightsDue := k.weightsDue ++ [(inst, weight)] }) := by
  refine answers_of_mailbox rfl h ?_
  rw [if_neg (by omega), if_neg (by simp [hmay])]

end

/-- Settles O29: event by event and command by command. -/
theorem locksComplete : Obligations.LocksComplete := by
  refine ⟨fun s hon => ⟨?_, ?_, ?_, ?_, ?_, ?_, ?_⟩, fun c s => ⟨?_, ?_, ?_, ?_, ?_⟩⟩
  · exact lockArrival_data_gives s hon
  · exact fun l e d hopen hdwell hslot hfirst he howned hd hready =>
      gives_onDev rfl hon (gateOpening_owned l.val s.dev e d hopen hdwell hslot hfirst he howned hd hready)
  · exact pauseRepeat_gives s hon
  · exact holdEnd_gives s hon
  · exact holdAllowanceExpiry_delta_gives s hon
  · exact holdDerateRepeat_gives s hon
  · exact fun n x hx hreg => gives_onDev rfl hon (endSluice_ofCommand s.dev n x hx hreg)
  · exact lockStatus_answers c s
  · exact lockSluice_answers c s
  · exact lockReadGate_answers c s
  · exact weightSet_answers c s
  · exact fun h => answers_of_mailbox rfl h rfl

/-! ### Read data of a controller that is listed twice -/

/-- What a command on a device with power is said to give is what it does to the device. -/
theorem eq_of_gives_onDev {i : Instr} {s : State} {f : Dev → Dev} {e : Dev} (hexec : exec i s = onDev f s) (hon : s.On)
    (h : Gives i s e) : f s.dev = e := by
  rw [Gives, hexec, onDev_on _ _ hon] at h
  injection h with hnext
  exact congrArg State.dev hnext

/-- A last barge of route 5. -/
def lastBarge : Barge := { kind := 1, last := true, route := 5 }

/-- Read data of one barge that waits for its slot. -/
def heldBarge : Held := { route := 5, barges := [lastBarge] }

/-- Route 5 has a slot at controller 0 in slot 0 and read data waits there. The table of controllers is not in canonical form: it
lists controller 0 a second time, with read data of its own on the route. -/
def listedTwice : State := State.reset.withDev
  (((State.reset.dev.modPower fun p => { p with state := .full }).modManifest fun m => { m with
    active := some { groupSize := 1, programs := [[{ router := 4, slot := 0, output := 64, source := 3, route := 5 }]] } }).modHbm
    fun h => { h with ctl := [(0, { held := [heldBarge] }), (0, { held := [heldBarge] })] })

theorem listedTwice_on : listedTwice.On := by decide

/-- Nothing of it waits without a slot. -/
theorem dropReady_listedTwice : dropReady 0 listedTwice.dev = listedTwice.dev := by decide +kernel

/-- When the first entry's data has left, the entry holds nothing and is removed, so the second entry's data leaves in the same slot. -/
theorem sendData_listedTwice : (sendData 0 listedTwice.dev).canal.flights.length = 2 := by decide +kernel

/-- Refutes O30: R176's clause says that one barge leaves, and two leave where a table that is not in canonical form lists the
controller twice. -/
theorem not_memoryEventsComplete : ¬ Obligations.MemoryEventsComplete := by
  rintro ⟨hevents, -⟩
  obtain ⟨-, hsend, -⟩ := hevents listedTwice listedTwice_on
  have hgives := hsend 0 heldBarge lastBarge 3 rfl (by decide) dropReady_listedTwice rfl rfl rfl (Nat.zero_le _) (by decide) rfl
  have hone : (sendData 0 listedTwice.dev).canal.flights.length = 1 :=
    congrArg (fun d : Dev => d.canal.flights.length) (eq_of_gives_onDev rfl listedTwice_on hgives)
  rw [sendData_listedTwice] at hone
  exact absurd hone (by decide)

end Sys2Proof.Machine

/-! SUPPORT. The statements of the manifest's chapter, settled: a reload without a step structure, expert unlock, the entropy source,
and the security core's commands that leave the vault as it is. -/

namespace Sys2Proof.Machine

/-! ### A manifest without a step structure (R49) -/

/-- A reload without rollback of a manifest whose step_lockages is 0 ends with BAD_LENGTH and starts nothing. -/
theorem loadCommand_noSteps (c : Cmd) (source address length : Nat) (m : Manifest) (d : Dev)
    (hidle : d.manifest.stage = 0 ∨ 5 < d.manifest.stage) (hactive : d.manifest.active = some m) (hsteps : m.stepLockages = 0) :
    loadCommand c true false source address length d = ({ status := .invalid, detail := VCode.badLength.code }, d) := by
  have hkeeps : true = true ∧ false = false ∧ d.manifest.active.isSome = true ∧ d.stepLockages = 0 :=
    ⟨rfl, rfl, by simp [hactive], by simp [Dev.stepLockages, hactive, hsteps]⟩
  unfold loadCommand
  rw [if_neg (by omega), if_pos hkeeps]

/-- Settles O17: the check stands before every other of an idle load command. -/
theorem reloadNeedsSteps : Obligations.ReloadNeedsSteps := by
  intro c source address length m s h hidle hactive hsteps
  refine answers_of_mailbox rfl h ?_
  rw [if_neg (by decide)]
  exact loadCommand_noSteps c source address length m s.dev hidle hactive hsteps

/-! ### The check of an expert unlock (R52, R53) -/

/-- No entry stands below the least index of a table in canonical form. -/
theorem tfind_none_of_tabove {α : Type} [DecidableEq α] (d : α) (t : Tab α) (i : Nat) :
    ∀ lo, i < lo → tabove d lo t → tfind t i = none := by
  induction t with
  | nil => intros; rfl
  | cons e t ih =>
    obtain ⟨k, w⟩ := e
    rintro lo hlo ⟨hk, -, ht⟩
    rw [tfind, if_neg (by omega)]
    exact ih (k + 1) (by omega) ht

/-- Removing an index of a table in canonical form leaves no entry at it. -/
theorem tfind_tdel_same {α : Type} [DecidableEq α] (d : α) (t : Tab α) (i : Nat) : ∀ lo, tabove d lo t → tfind (tdel t i) i = none := by
  induction t with
  | nil => intros; rfl
  | cons e t ih =>
    obtain ⟨k, w⟩ := e
    rintro lo ⟨-, -, ht⟩
    rw [tdel]
    split
    · next hi => exact tfind_none_of_tabove d t i (k + 1) (by omega) ht
    · next hi => rw [tfind, if_neg hi]; exact ih (k + 1) ht

/-- The device after the check of an unlock of a block has found the tag good, or not: the challenge is used up, and the eighth failure
in a row locks out for 60 s (R53). -/
def unlockChecked (block : Nat) (good : Bool) (d : Dev) : Dev :=
  d.modExpert fun e => { e with
    challenges := tdel e.challenges block,
    fails := if good || decide (8 ≤ e.fails + 1) then 0 else e.fails + 1,
    lockedUntil := if !good && decide (8 ≤ e.fails + 1) then some (d.uptime + 60000000000) else none }

section
variable (v : Vault) (block seconds : Nat) (tag : Bytes) (d : Dev)

/-- Outside a lockout the check finds the tag good, or not. -/
theorem authoriseUnlock_cases (hopen : unlockLockedOut d = false) :
    authoriseUnlock v block seconds tag d = (none, unlockChecked block true d) ∨
    authoriseUnlock v block seconds tag d = (some .authFail, unlockChecked block false d) := by
  unfold authoriseUnlock
  rw [if_neg (by simp [hopen])]
  dsimp only
  generalize tagGood v d _ _ tag = good
  cases good
  · exact .inr rfl
  · exact .inl rfl

/-- An authorised unlock was not locked out. -/
theorem unlockOpen_of_authorised {e : Dev} (h : authoriseUnlock v block seconds tag d = (none, e)) : unlockLockedOut d = false := by
  by_contra hlocked
  have hrefused : authoriseUnlock v block seconds tag d = (some .lockedOut, d) := if_pos (by simpa using hlocked)
  rw [hrefused] at h
  exact absurd (congrArg Prod.fst h) (by simp)

/-- Good or not, an unlock uses up its block's challenge. -/
theorem unlockChecked_challenge (good : Bool) (hwf : twf ({} : Challenge) d.expert.challenges = true) :
    tfind (unlockChecked block good d).expert.challenges block = none :=
  tfind_tdel_same {} d.expert.challenges block 0 ((twf_iff_tabove _ _).mp hwf)

/-- The eighth failure in a row locks out for 60 s. -/
theorem unlockChecked_eighthFailure (hfails : 7 ≤ d.expert.fails) :
    (unlockChecked block false d).expert.lockedUntil = some (d.uptime + 60000000000) ∧ (unlockChecked block false d).expert.fails = 0 := by
  simp [unlockChecked, hfails]

/-- An earlier failure is counted. -/
theorem unlockChecked_earlierFailure (hfails : d.expert.fails < 7) :
    (unlockChecked block false d).expert.fails = d.expert.fails + 1 ∧ (unlockChecked block false d).expert.lockedUntil = none := by
  simp [unlockChecked, hfails]

/-- A good tag ends a row of failures. -/
theorem unlockChecked_good : (unlockChecked block true d).expert.fails = 0 := rfl

/-- A challenge that is drawn for a block is the one that stands for it (R53). -/
theorem serveEntropy_unlockChallenge : ∃ ch : Challenge, tfind (serveEntropy 2 block d).2.expert.challenges block = some ch ∧
    ch.counter = d.expert.counter + 1 ∧ ch.issued = d.uptime :=
  ⟨_, tfind_tput_same _ _ _, rfl, rfl⟩

end

/-- In a lockout CMD_EXPERT_UNLOCK answers LOCKED_OUT, whatever it asks (R53). -/
theorem expertUnlock_lockedOut (c : Cmd) (s : State) (block seconds until_ : Nat) (tag : Bytes) (h : Serves {} c s)
    (hlocked : s.dev.expert.lockedUntil = some until_) (hnow : s.dev.uptime < until_) :
    Answers (.cmdExpertUnlock c block seconds tag) c s (fail .lockedOut) s.dev :=
  answers_of_mailbox rfl h (if_pos (by simp [unlockLockedOut, hlocked, hnow]))

/-- Settles O15: by the two ends of an unlock's check. -/
theorem expertChallengeRules : Obligations.ExpertChallengeRules := by
  refine ⟨?_, fun b d => serveEntropy_unlockChallenge b d,
    fun c b seconds until_ tag s => expertUnlock_lockedOut c s b seconds until_ tag⟩
  intro v b seconds tag d e r hwf hopen hr
  rcases authoriseUnlock_cases v b seconds tag d hopen with hgood | hbad
  · obtain ⟨rfl, rfl⟩ := Prod.mk.inj (hgood.symm.trans hr)
    exact ⟨unlockChecked_challenge b d true hwf, by simp, by simp, fun _ => unlockChecked_good b d⟩
  · obtain ⟨rfl, rfl⟩ := Prod.mk.inj (hbad.symm.trans hr)
    exact ⟨unlockChecked_challenge b d false hwf, fun h => unlockChecked_eighthFailure b d h.2,
      fun h => unlockChecked_earlierFailure b d h.2, by simp⟩

/-! ### The events of the entropy source (R344, R345) -/

section
variable (d : Dev)

/-- A failure that is not the third in a row stops the output for a start-up test. -/
theorem testFails_starts (test : Nat) (hserves : d.sec.rng = 1) (hfew : d.sec.consecutive < 2) :
    testFails test d = postEntropy test (d.modSec fun x => { x with
      consecutive := x.consecutive + 1, failures := satAdd (2 ^ 32 - 1) x.failures 1, rng := 2, testDue := d.uptime + 2048000 }) := by
  have hthird : ¬ 3 ≤ d.sec.consecutive + 1 := by omega
  simp only [testFails, hserves, ne_eq, not_true_eq_false, if_false, Dev.modSec_sec, hthird]

/-- A start-up test that is running has its end when it is due. -/
theorem startupTest_due (htest : d.sec.rng = 2) (hdue : d.sec.testDue ≤ d.uptime) :
    ¬ ((d.sec.rng ≠ 0 ∧ d.sec.rng ≠ 2) ∨ d.uptime < d.sec.testDue) := by omega

/-- A start-up test that passes reseeds the DRBG; with nothing held that is all. -/
theorem startupEnds_passed (htest : d.sec.rng = 2) (hdue : d.sec.testDue ≤ d.uptime) (hheld : d.sec.held = []) :
    startupEnds true d = d.modSec fun x => { x with
      rng := 1, consecutive := 0, reseeds := x.reseeds + 1, requests := 0, reseedAt := d.uptime, held := [] } := by
  unfold startupEnds
  rw [if_neg (startupTest_due d htest hdue), if_pos rfl, hheld]
  rfl

/-- A start-up test that fails, and is not the third failure in a row, is repeated. -/
theorem startupEnds_failed (htest : d.sec.rng = 2) (hdue : d.sec.testDue ≤ d.uptime) (hfew : d.sec.consecutive < 2) :
    startupEnds false d = d.modSec fun x => { x with
      consecutive := x.consecutive + 1, failures := satAdd (2 ^ 32 - 1) x.failures 1, rng := 2, testDue := x.testDue + 2048000 } := by
  have hthird : ¬ 3 ≤ d.sec.consecutive + 1 := by omega
  unfold startupEnds
  rw [if_neg (startupTest_due d htest hdue), if_neg Bool.false_ne_true]
  exact if_neg hthird

/-- The one request that is held, held for 10 ms, fails. -/
theorem holdsExpire_one (r : EntropyReq) (hheld : d.sec.held = [r]) (hlate : r.since + 10000000 ≤ d.uptime) :
    holdsExpire d = failHeld r (d.modSec fun x => { x with held := [] }) := by
  have hall : (d.sec.held.filter fun r => decide (r.since + 10000000 ≤ d.uptime)) = [r] := by simp [hheld, hlate]
  have hnone : (d.sec.held.filter fun r => !decide (r.since + 10000000 ≤ d.uptime)) = [] := by simp [hheld, hlate]
  have hempty : (d.modSec fun x => { x with held := x.held.filter fun r => !decide (r.since + 10000000 ≤ d.uptime) }) =
      d.modSec fun x => { x with held := [] } := by simp only [Dev.modSec, hnone]
  unfold holdsExpire
  simp only [hall, hempty, List.foldl_cons, List.foldl_nil]

/-- A lane's masking generator reseeds after 2^20 blocks (R342). -/
theorem generatorReseed_lane (u : Nat) (hu : u < 48) (hserves : d.sec.rng = 1) (hblocks : 2 ^ 20 ≤ (d.lane u).blocks) :
    generatorReseed u d = (d.modLane u fun l => { l with blocks := 0 }).modSec fun x => { x with requests := x.requests + 1 } := by
  unfold generatorReseed
  rw [if_neg (by simp [hserves]), if_pos hu, if_pos hblocks]

/-- A lockout of the security commands ends when its time has come (R336). -/
theorem lockoutEnds_security (t : Nat) (hlocked : d.expert.secLockedUntil = some t) (hdue : t ≤ d.uptime) :
    lockoutEnds true d = d.modExpert fun e => { e with secLockedUntil := none, secFails := 0 } := by
  simp [lockoutEnds, Dev.modExpert, hlocked, hdue]

/-- A lockout of expert unlock ends when its time has come (R53). -/
theorem lockoutEnds_unlock (t : Nat) (hlocked : d.expert.lockedUntil = some t) (hdue : t ≤ d.uptime) :
    lockoutEnds false d = d.modExpert fun e => { e with lockedUntil := none, fails := 0 } := by
  simp [lockoutEnds, Dev.modExpert, hlocked, hdue]

end

/-- A block whose unlock has run out relocks (R54). -/
theorem expertExpiry_gives (s : State) (hon : s.On) (b t : Nat) (hexpiry : tfind s.dev.expert.expiry b = some t) (hdue : t ≤ s.dev.uptime) :
    Gives (.expertExpiry b) s (relock b s.dev) := by
  have hexec : exec (.expertExpiry b) s = execExpertExpiry b s := rfl
  rw [Gives, hexec, execExpertExpiry, onDev_on _ _ hon]
  simp only [hexpiry, if_pos hdue]

/-- Settles O43: event by event. -/
theorem entropyComplete : Obligations.EntropyComplete := by
  refine fun s hon => ⟨?_, ?_, ?_, ?_, ?_, ?_, ?_, ?_, ?_⟩
  · exact fun p hserves hfew => gives_onDev rfl hon (testFails_starts s.dev (b2n p) hserves hfew)
  · exact fun htest hdue hheld => gives_onDev rfl hon (startupEnds_passed s.dev htest hdue hheld)
  · exact fun htest hdue hfew => gives_onDev rfl hon (startupEnds_failed s.dev htest hdue hfew)
  · exact fun r hheld hlate => gives_onDev rfl hon (holdsExpire_one s.dev r hheld hlate)
  · exact fun hserves hdue => gives_onDev rfl hon (if_pos ⟨hserves, hdue⟩)
  · exact fun u hu hserves hblocks => gives_onDev rfl hon (generatorReseed_lane s.dev u.val hu hserves hblocks)
  · exact expertExpiry_gives s hon
  · exact fun t hlocked hdue => gives_onDev rfl hon (lockoutEnds_security s.dev t hlocked hdue)
  · exact fun t hlocked hdue => gives_onDev rfl hon (lockoutEnds_unlock s.dev t hlocked hdue)

/-! ### Commands that may be held or go on (R344, R359) -/

section
variable {i : Instr} {c : Cmd} {g : Guard} {s : State}

/-- A mailbox command that reads the vault, let through by its guard, answers what it does. -/
theorem answers_of_mailbox_onDevV {f : Vault → Dev → Reply × Dev} {r : Reply} {e : Dev}
    (hexec : exec i s = onDevV (fun v => mailbox c g (f v)) s) (h : Serves g c s) (hf : f s.vault s.dev = (r, e)) : Answers i c s r e :=
  answers_of_mailbox (f := f s.vault) hexec h hf

/-- A command that may be held, let through by its guard, answers at once when it has a reply. -/
theorem answers_of_mailboxHeld {f : Dev → Option Reply × Dev} {r : Reply} {e : Dev}
    (hexec : exec i s = onDev (mailboxHeld c g f) s) (h : Serves g c s) (hf : f s.dev = (some r, e)) : Answers i c s r e := by
  obtain ⟨hon, hguard, hfree⟩ := h
  refine gives_onDev hexec hon ?_
  simp [mailboxHeld, hguard, hfree, hf]

/-- Without a reply it is held: its source's frame stays busy. -/
theorem gives_of_mailboxHeld {f : Dev → Option Reply × Dev} {e : Dev}
    (hexec : exec i s = onDev (mailboxHeld c g f) s) (h : Serves g c s) (hf : f s.dev = (none, e)) : Gives i s (keepRunning c.src.val e) := by
  obtain ⟨hon, hguard, hfree⟩ := h
  refine gives_onDev hexec hon ?_
  simp [mailboxHeld, hguard, hfree, hf]

/-- A guard that lets through no virtual function has let through another source. -/
theorem Serves.not_isVf (h : Serves g c s) (hvf : g.vf = false) : isVf c.src.val = false := by
  obtain ⟨-, hguard, -⟩ := h
  by_contra hsource
  have hrefused : isVf c.src.val = true ∧ g.vf = false ∨ c.src.val = 1025 ∧ g.i3c = false := .inl ⟨by simpa using hsource, hvf⟩
  rw [guardStatus, if_pos hrefused] at hguard
  split at hguard <;> exact absurd hguard (by simp)

/-- A command that goes on, and that no virtual function may send, is accepted. -/
theorem answers_of_mailboxLater {f : Dev → Option Reply × Dev} {e : Dev} (hexec : exec i s = onDev (mailboxLater c g f) s)
    (h : Serves g c s) (hvf : g.vf = false) (hf : f s.dev = (none, e)) : Answers i c s (fail .accepted) e := by
  have hsource := h.not_isVf hvf
  obtain ⟨hon, hguard, hfree⟩ := h
  refine gives_onDev hexec hon ?_
  simp [mailboxLater, hguard, hfree, hf, hsource]

end

/-- While the source serves, a request is served. -/
theorem requestEntropy_served (c : Cmd) (kind arg : Nat) (d : Dev) (hserves : d.sec.rng = 1) :
    requestEntropy c kind arg d = (some (serveEntropy kind arg d).1, (serveEntropy kind arg d).2) := if_pos hserves

/-- While it is tested, a request is held. -/
theorem requestEntropy_held (c : Cmd) (kind arg : Nat) (d : Dev) (hstopped : d.sec.rng ≠ 1) (hlatch : d.sec.rng ≠ 3) :
    requestEntropy c kind arg d = (none, d.modSec fun x => { x with held := x.held ++
      [{ src := c.src, sequence := c.seq, kind := kind, arg := arg, since := d.uptime }] }) := by
  rw [requestEntropy, if_neg hstopped, if_neg hlatch]

/-! ### The commands of the security core that leave the vault as it is (R336, R337, R345) -/

section
variable (c : Cmd) (s : State)

theorem secStatus_answers (hup : s.dev.restarting 0 = false) (h : Serves { reduced := true, i3c := true } c s) :
    Answers (.cmdSecStatus c) c s
      (ok [s.vault.lifecycle, s.vault.debug, b2n s.dev.boot.image, s.dev.boot.imageVersion.toNat, s.vault.minVersion, s.dev.sec.rng]) s.dev := by
  have hexec : exec (.cmdSecStatus c) s = nowCmdSecStatus c s := whileUp_up 0 _ _ s hup
  exact answers_of_mailbox_onDevV hexec h rfl

theorem secChallenge_answers (hup : s.dev.restarting 0 = false) (code : Nat) (h : Serves { reduced := true } c s)
    (hcode : code ∈ authCommands) (hserves : s.dev.sec.rng = 1) :
    Answers (.cmdSecChallenge c code) c s (serveEntropy 1 code s.dev).1 (serveEntropy 1 code s.dev).2 := by
  have hexec : exec (.cmdSecChallenge c code) s = nowCmdSecChallenge c code s := whileUp_up 0 _ _ s hup
  refine answers_of_mailboxHeld hexec h ?_
  rw [if_pos hcode, requestEntropy_served c 1 code s.dev hserves]

theorem keyInfo_answers (slot : Nat) (h : Serves { i3c := true } c s) (hslot : slot ≤ 255) (hnamed : slot ≠ 1) :
    Answers (.cmdKeyInfo c slot) c s
      (ok [(tget {} s.vault.keys slot).use, (tget {} s.vault.keys slot).identity.toNat, (tget {} s.vault.keys slot).inst,
        slotLanes s.dev slot, b2n (slotShared s.dev slot)]) s.dev := by
  have hexec : exec (.cmdKeyInfo c slot) s = execCmdKeyInfo c slot s := rfl
  refine answers_of_mailbox_onDevV hexec h ?_
  dsimp only
  rw [if_neg (Nat.not_lt.mpr hslot), if_neg hnamed]

/-- CMD_RNG_READ of an admitted length asks the DRBG. -/
theorem rngRead_asks (hup : s.dev.restarting 0 = false) (n : Nat) (hlo : 0 < n) (hhi : n ≤ 256) (h : Serves { vf := true, i3c := true } c s) :
    (s.dev.sec.rng = 1 → Answers (.cmdRngRead c n) c s (serveEntropy 0 n s.dev).1 (serveEntropy 0 n s.dev).2) ∧
    (s.dev.sec.rng ≠ 1 → s.dev.sec.rng ≠ 3 → Gives (.cmdRngRead c n) s (keepRunning c.src.val (s.dev.modSec fun x => { x with held := x.held ++
      [{ src := c.src, sequence := c.seq, kind := 0, arg := n, since := s.dev.uptime }] }))) := by
  have hexec : exec (.cmdRngRead c n) s = nowCmdRngRead c n s := whileUp_up 0 _ _ s hup
  have hlength : ¬ (n = 0 ∨ 256 < n) := by omega
  constructor
  · intro hserves
    refine answers_of_mailboxHeld hexec h ?_
    rw [if_neg hlength, requestEntropy_served c 0 n s.dev hserves]
  · intro hstopped hlatch
    refine gives_of_mailboxHeld hexec h ?_
    rw [if_neg hlength, requestEntropy_held c 0 n s.dev hstopped hlatch]

/-- A requester code is never that of a free lock (R347). -/
theorem reqOf_ne_zero (d : Dev) (src : Nat) : reqOf d src ≠ 0 := Nat.succ_ne_zero _

/-- CMD_SHARED_JOB within its requester's range is accepted, and starts when the engine is free; else its requester claims it. -/
theorem sharedJob_accepted (address r : Nat) (d : Dev) (h : Serves {} c s) (halign : address % 64 = 0) (hrange : address < 2 ^ 48)
    (hr : r = reqOf s.dev c.src.val) (hmapped : sharedRange s.dev r false address 64 = true)
    (hnojob : (s.dev.sec.jobs.any fun j => j.1 == r) = false)
    (hd : d = s.dev.modSec fun x => { x with jobs := x.jobs ++ [(r, address, c.src.val, c.seq)] }) (hother : s.dev.sec.owner ≠ r) :
    Answers (.cmdSharedJob c address) c s (fail .accepted)
      (if s.dev.sec.owner = 0 then startJob address (d.modSec fun x => { x with owner := r }) else claimLock r d) := by
  subst hr hd
  have haddress : ¬ (address % 64 ≠ 0 ∨ 2 ^ 48 ≤ address) := by omega
  have hbusy : ¬ (s.dev.sec.owner = reqOf s.dev c.src.val ∨ (s.dev.sec.jobs.any fun j => j.1 == reqOf s.dev c.src.val) = true) := by
    simp [hother, hnojob]
  refine answers_of_mailboxLater rfl h rfl ?_
  dsimp only
  rw [if_neg haddress, if_neg (by simp [hmapped]), if_neg hbusy]

/-! ### Expert unlock (R51–R54) -/

theorem expertChallenge_answers (hup : s.dev.restarting 0 = false) (b : Nat) (h : Serves {} c s) (hb : b ≤ 18)
    (hever : neverUnlocked b = false) (hletter : letterX s.vault s.dev = true) (hserves : s.dev.sec.rng = 1) :
    Answers (.cmdExpertChallenge c b) c s (serveEntropy 2 b s.dev).1 (serveEntropy 2 b s.dev).2 := by
  have hexec : exec (.cmdExpertChallenge c b) s = nowCmdExpertChallenge c b s := whileUp_up 0 _ _ s hup
  refine answers_of_mailboxHeld hexec h ?_
  rw [if_neg (Nat.not_lt.mpr hb), if_neg (by simp [hever, hletter]), requestEntropy_served c 2 b s.dev hserves]

/-- An authorised unlock of a block holds for its duration and enters the ledger. -/
theorem expertUnlock_answers (b seconds : Nat) (tag : Bytes) (d : Dev) (h : Serves {} c s) (hb : b ≤ 18) (hlo : 0 < seconds)
    (hhi : seconds ≤ 86400) (hever : neverUnlocked b = false) (hletter : letterX s.vault s.dev = true) (hlog : logClosed s.dev = false)
    (hauth : authoriseUnlock s.vault b seconds tag s.dev = (none, d)) :
    Answers (.cmdExpertUnlock c b seconds tag) c s (ok [])
      ((d.modExpert fun e => { e with
          unlocked := addSet b e.unlocked, expiry := tput e.expiry b (d.uptime + seconds * 1000000000) }).modLedger fun l =>
        { l with security := l.security ++ [(0, b, d.uptime)] }) := by
  have hopen := unlockOpen_of_authorised s.vault b seconds tag s.dev hauth
  have hexec : exec (.cmdExpertUnlock c b seconds tag) s = execCmdExpertUnlock c b seconds tag s := rfl
  refine answers_of_mailbox_onDevV hexec h ?_
  rw [if_neg (by simp [hopen]), if_neg (by omega), if_neg (by simp [hever, hletter]), if_neg (by simp [hlog]), hauth]
  rfl

theorem expertLock_answers (b : Nat) (h : Serves {} c s) (hb : b ≤ 18) : Answers (.cmdExpertLock c b) c s (ok []) (relock b s.dev) :=
  answers_of_mailbox rfl h (if_neg (Nat.not_lt.mpr hb))

end

/-- Settles O45: command by command. -/
theorem securityCommandsComplete : Obligations.SecurityCommandsComplete := by
  refine fun c s hup => ⟨?_, ?_, ?_, ?_, ?_, ?_, ?_, ?_, ?_⟩
  · exact secStatus_answers c s hup
  · exact secChallenge_answers c s hup
  · exact keyInfo_answers c s
  · exact fun n h hlo hhi => (rngRead_asks c s hup n hlo hhi h).1
  · exact fun n h hlo hhi => (rngRead_asks c s hup n hlo hhi h).2
  · intro address r d h halign hrange hr hmapped hnojob hd
    have haccepted := sharedJob_accepted c s address r d h halign hrange hr hmapped hnojob hd
    constructor
    · intro hfree
      have hother : s.dev.sec.owner ≠ r := by rw [hfree, hr]; exact (reqOf_ne_zero s.dev c.src.val).symm
      simpa only [hfree, if_true] using haccepted hother
    · intro htaken hother
      simpa only [htaken, if_false] using haccepted hother
  · exact expertChallenge_answers c s hup
  · exact expertUnlock_answers c s
  · exact expertLock_answers c s

end Sys2Proof.Machine

/-! SUPPORT. The statements of the canal fabric, settled: a slot, a delivery, a window of CRC failures, a slip, and the commands. -/

namespace Sys2Proof.Machine

/-! ### What a failure leaves of the canal (R28, R44, R59) -/

/-- What every step of a fold keeps, the fold keeps. -/
theorem foldl_keeps_part {α β : Type} (p : Dev → α) (f : Dev → β → Dev) (hf : ∀ d x, p (f d x) = p d) (l : List β) (d : Dev) :
    p (l.foldl f d) = p d := by
  induction l generalizing d with
  | nil => rfl
  | cons x l ih => exact (ih (f d x)).trans (hf d x)

@[simp] theorem failUnits_canal (us : List Nat) (d : Dev) : (failUnits us d).canal = d.canal := by
  have hfold (l : List Nat) (e : Dev) :
      (l.foldl (fun d u => if u < 528 then d.modTile u fun t => { t with failed := true } else d) e).canal = e.canal :=
    foldl_keeps_part (·.canal) _ (fun d u => by split <;> rfl) l e
  unfold failUnits
  dsimp only
  split
  · rfl
  split
  · simp [hfold]
  split <;> simp [hfold]

@[simp] theorem failCore_canal (k cause : Nat) (d : Dev) : (failCore k cause d).canal = d.canal := by
  unfold failCore; dsimp only; split <;> simp

@[simp] theorem linkFailed_canal (router port : Nat) (d : Dev) : (linkFailed router port d).canal = d.canal := by
  unfold linkFailed
  split
  · exact failUnits_canal _ d
  split
  · exact failCore_canal _ _ d
  · exact failDevice_canal _ d

@[simp] theorem lapse_deviceFailed (cause p : Nat) (d : Dev) : (lapse cause p d).ring.deviceFailed = d.ring.deviceFailed := by
  unfold lapse; split <;> simp

@[simp] theorem failDevice_deviceFailed (cause : Nat) (d : Dev) : (failDevice cause d).ring.deviceFailed = true := by
  simp [failDevice, lapseBoth]

/-! ### A router's slot (R63, R64) -/

/-- The place of the canal in time: the slot and the lockage. -/
def Dev.canalTime (d : Dev) : Nat × Nat := (d.canal.slot, d.canal.lockage)

/-- A link's failure leaves the canal whether it comes or not. -/
theorem ite_linkFailed_canal (p : Prop) [Decidable p] (router port : Nat) (d : Dev) :
    (if p then linkFailed router port d else d).canal = d.canal := by
  split
  · exact linkFailed_canal router port d
  · rfl

/-- A CRC failure is counted and posted, and a link may fail by it; none of this takes time of the canal. -/
theorem crcFailure_canalTime (router port slot route : Nat) (d : Dev) :
    (crcFailure router port slot route d).canalTime = d.canalTime := by
  obtain ⟨p, _, e, hcrc, htime⟩ : ∃ (p : Prop) (_ : Decidable p) (e : Dev),
      crcFailure router port slot route d = (if p then linkFailed router port e else e) ∧ e.canalTime = d.canalTime := by
    refine ⟨_, _, _, rfl, ?_⟩
    simp only [Dev.canalTime, Dev.modCanal_canal, post_canal, canalError]
  rw [hcrc, Dev.canalTime, ite_linkFailed_canal]
  exact htime

theorem forward_canalTime (f : Flight) (b : Barge) (o : Nat) (d : Dev) : (forward f b o d).canalTime = d.canalTime := by
  unfold forward
  split
  · rfl
  · split <;> rfl
  · rfl

/-- What a router does with a barge, checked or forwarded, takes no time of the canal. -/
theorem routeFlight_canalTime (f : Flight) (d : Dev) : (routeFlight f d).canalTime = d.canalTime := by
  have hcheck : (if f.barge.bad then crcFailure f.router f.port f.slot f.barge.route.toNat d else d).canalTime = d.canalTime := by
    split
    · exact crcFailure_canalTime _ _ _ _ d
    · rfl
  unfold routeFlight
  dsimp only
  generalize (if f.barge.bad then crcFailure f.router f.port f.slot f.barge.route.toNat d else d) = e at hcheck ⊢
  split
  · exact hcheck
  · exact (foldl_keeps_part Dev.canalTime _ (fun d o => forward_canalTime f _ o d) _ _).trans hcheck

/-- A slot advances the counter up to the boundary, within its lockage. -/
theorem routerSlot_canalTime (d : Dev) : (routerSlot d).canalTime = (min 1024 (d.canal.slot + 1), d.canal.lockage) := by
  have hroute := foldl_keeps_part Dev.canalTime (fun d f => routeFlight f d) (fun d f => routeFlight_canalTime f d)
    (d.canal.flights.filter fun f => f.slot = d.canal.slot)
    (d.modCanal fun c => { c with flights := c.flights.filter fun f => f.slot ≠ c.slot })
  obtain ⟨hslot, hlockage⟩ := Prod.mk.inj hroute
  exact Prod.ext (congrArg (fun n => min 1024 (n + 1)) hslot) hlockage

/-! ### Deliveries, windows and slips (R56, R59, R60) -/

/-- A data barge of the expected route with the route's next number enters the unit's inbox and advances the count (R60). -/
theorem deliver_inSequence (x : Delivery) (d : Dev) (hkind : x.barge.kind = 1) (hrestart : x.barge.restart = false)
    (hroute : expected d x.router x.port x.slot = some x.barge.route.toNat)
    (hseq : tget 0 d.canal.recvSeq (unitKey x.router x.port * 4096 + x.barge.route.toNat) = x.barge.seq) :
    deliver x d = d.modCanal fun c => { c with
      recvSeq := tset 0 c.recvSeq (unitKey x.router x.port * 4096 + x.barge.route.toNat) (x.barge.seq + 1),
      inbox := tmod [] c.inbox (unitKey x.router x.port) (· ++ [x]) } := by
  unfold deliver
  dsimp only
  rw [if_neg (by rw [hkind]; decide), if_neg (by rw [hkind]; decide), if_neg (not_not.mpr hroute), if_neg (by simp [hrestart]),
    if_pos hseq.symm, hseq]

theorem bargeDelivery_inSequence_gives (s : State) (hon : s.On) (x : Delivery) (rest : List Delivery)
    (hx : s.dev.canal.deliveries = x :: rest) (hkind : x.barge.kind = 1) (hrestart : x.barge.restart = false)
    (hroute : expected (s.dev.modCanal fun c => { c with deliveries := rest }) x.router x.port x.slot = some x.barge.route.toNat)
    (hseq : tget 0 s.dev.canal.recvSeq (unitKey x.router x.port * 4096 + x.barge.route.toNat) = x.barge.seq) :
    Gives .bargeDelivery s (s.dev.modCanal fun c => { c with
      deliveries := rest, recvSeq := tset 0 c.recvSeq (unitKey x.router x.port * 4096 + x.barge.route.toNat) (x.barge.seq + 1),
      inbox := tmod [] c.inbox (unitKey x.router x.port) (· ++ [x]) }) := by
  have hexec : exec .bargeDelivery s = execBargeDelivery s := rfl
  rw [Gives, hexec, execBargeDelivery, onDev_on _ _ hon]
  simp only [hx, deliver_inSequence x _ hkind hrestart hroute hseq]
  rfl

/-- CRC_WINDOW_CLOSE 1 ms after the window's first error (R59). -/
theorem crcWindowClose_gives (s : State) (hon : s.On) (r : Fin 30) (p : Fin 64) (t : Nat)
    (hopen : (tget {} s.dev.canal.links (r.val * 64 + p.val)).opened = some t) (hdue : t + 1000000 ≤ s.dev.uptime) :
    Gives (.crcWindowClose r p) s (s.dev.modCanal fun c => { c with
      links := tmod {} c.links (r.val * 64 + p.val) fun l => { l with window := 0, opened := none } }) := by
  have hexec : exec (.crcWindowClose r p) s = execCrcWindowClose r p s := rfl
  rw [Gives, hexec, execCrcWindowClose, onDev_on _ _ hon]
  simp only [hopen, if_pos hdue]

/-- CANAL_SLIP past 16 canal cycles at a die crossing is counted, recorded with its place, and fails the device (R56, R61). -/
theorem canalSlip_gives (s : State) (hon : s.On) (r : Fin 30) (p : Fin 64) (w : Int) (r' p' : Nat)
    (hcrossing : attach r.val p.val = .router r' p' true) (hfar : 16 < w.natAbs) :
    ∃ d, Gives (.canalSlip r p w) s d ∧ d.canal.slipCount = satAdd 65535 s.dev.canal.slipCount 1 ∧ d.ring.deviceFailed = true ∧
      d.canal.last.router = r.val ∧ d.canal.last.port = p.val ∧ d.canal.last.kind = 2 := by
  have hexec : exec (.canalSlip r p w) s = execCanalSlip r p w s := rfl
  refine ⟨_, (hexec.trans (onDev_on _ _ hon) :), ?_⟩
  simp [hcrossing, Nat.not_le.mpr hfar, canalError]

/-! ### The commands (R79) -/

/-- CMD_CANAL_READ_ENTRY of a resident program's slot answers from the shadow bank or, with the overlay in force, the active one. -/
theorem canalReadEntry_answers (c : Cmd) (s : State) (program router slot : Nat) (h : Serves {} c s)
    (hprogram : program ∈ s.dev.canal.resident) (hrouter : router < 30) (hslot : slot < 1024) :
    Answers (.cmdCanalReadEntry c program 1 router slot) c s
      { status := .ok, result := leBytes 64 (tget idleEntry s.dev.canal.shadow (bankIndex router program slot)).toNat } s.dev ∧
    Answers (.cmdCanalReadEntry c program 0 router slot) c s
      { status := .ok, result := leBytes 64 (if program = s.dev.program then activeEntry s.dev router program slot
          else tget idleEntry s.dev.canal.active (bankIndex router program slot)).toNat } s.dev := by
  have hvalid (bank : Nat) (hbank : bank < 2) :
      (!s.dev.canal.resident.contains program || decide (2 ≤ bank ∨ 30 ≤ router ∨ 1024 ≤ slot)) = false := by
    have hrange : ¬ (2 ≤ bank ∨ 30 ≤ router ∨ 1024 ≤ slot) := by omega
    simp [hprogram, hrange]
  constructor
  · refine answers_of_mailbox rfl h ?_
    dsimp only
    rw [hvalid 1 (by decide), if_neg Bool.false_ne_true, if_pos rfl]
  · refine answers_of_mailbox rfl h ?_
    dsimp only
    rw [hvalid 0 (by decide), if_neg Bool.false_ne_true, if_neg (by decide)]

/-- CMD_CANAL_SWITCH to a resident program of a device alone in its group orders the switch. -/
theorem canalSwitch_answers (c : Cmd) (s : State) (program : Nat) (h : Serves { block := some 3 } c s) (halone : s.dev.groupSize ≤ 1)
    (hprogram : program ∈ s.dev.canal.resident) :
    Answers (.cmdCanalSwitch c program) c s (ok []) (s.dev.modCanal fun k => { k with switchDue := some program }) := by
  refine answers_of_mailbox rfl h ?_
  rw [if_neg (Nat.not_lt.mpr halone), if_neg (by simp [hprogram])]

/-- Settles O28: event by event and command by command. -/
theorem canalComplete : Obligations.CanalComplete := by
  refine ⟨fun s hon => ⟨?_, ?_, ?_, ?_⟩, fun c s => ⟨?_, ?_, ?_, ?_⟩⟩
  · obtain ⟨hslot, hlockage⟩ := Prod.mk.inj (routerSlot_canalTime s.dev)
    exact ⟨routerSlot s.dev, gives_onDev rfl hon rfl, hslot, hlockage⟩
  · exact bargeDelivery_inSequence_gives s hon
  · exact crcWindowClose_gives s hon
  · exact canalSlip_gives s hon
  · exact fun h => answers_query (.cmdCanalStatus c) c { i3c := true } s _ h rfl
  · exact canalReadEntry_answers c s
  · exact canalSwitch_answers c s
  · exact fun h => answers_of_mailbox rfl h rfl

end Sys2Proof.Machine

/-! SUPPORT. The statements of the tile field, settled: what is written to a basin reads back, the ops of the four units, the tiles' events
and their commands. -/

namespace Sys2Proof.Machine

/-! ### Spans of the sparse tables -/

section
variable {α : Type}

theorem tfind_append (t u : Tab α) (i : Nat) : tfind (t ++ u) i = (tfind t i).or (tfind u i) := by
  induction t with
  | nil => rfl
  | cons e t ih =>
    obtain ⟨k, w⟩ := e
    rw [List.cons_append, tfind, tfind, ih]
    split <;> rfl

/-- An index at which no entry stands is not found. -/
theorem tfind_none_of_forall_ne (t : Tab α) (i : Nat) (h : ∀ e ∈ t, e.1 ≠ i) : tfind t i = none := by
  induction t with
  | nil => rfl
  | cons e t ih =>
    obtain ⟨k, w⟩ := e
    rw [tfind, if_neg (h (k, w) List.mem_cons_self).symm]
    exact ih fun e he => h e (List.mem_cons_of_mem _ he)

/-- Entries kept by their index are found as before. -/
theorem tfind_filter_kept (p : Nat → Bool) (t : Tab α) (i : Nat) (hi : p i = true) : tfind (t.filter fun e => p e.1) i = tfind t i := by
  induction t with
  | nil => rfl
  | cons e t ih =>
    obtain ⟨k, w⟩ := e
    rw [List.filter_cons, tfind, ← ih]
    split
    · rw [tfind]
    · next hp =>
      have hk : i ≠ k := fun hk => hp (hk ▸ hi)
      rw [if_neg hk]

/-- Entries dropped by their index are not found. -/
theorem tfind_filter_dropped (p : Nat → Bool) (t : Tab α) (i : Nat) (hi : p i = false) : tfind (t.filter fun e => p e.1) i = none := by
  refine tfind_none_of_forall_ne _ i fun e he hei => ?_
  have hkept := (List.mem_filter.mp he).2
  rw [hei, hi] at hkept
  exact Bool.false_ne_true hkept

variable (d : α)

/-- Where the table lists nothing up to `a`, a walk from `a` meets the default. -/
theorem twalk_default (t : Tab α) (a n : Nat) (h : ∀ e ∈ t, a < e.1) : twalk d t a (n + 1) = d :: twalk d t (a + 1) n := by
  cases t with
  | nil => rfl
  | cons e t =>
    obtain ⟨k, w⟩ := e
    exact if_neg (Nat.ne_of_gt (h (k, w) List.mem_cons_self))

variable [DecidableEq α]

/-- In a table in canonical form a write is read back, the default too. -/
theorem tget_tset_same_of_twf (t : Tab α) (i : Nat) (v : α) (h : twf d t = true) : tget d (tset d t i v) i = v := by
  by_cases hv : v = d
  · rw [tset, if_pos hv, tget, tfind_tdel_same d t i 0 ((twf_iff_tabove d t).mp h), hv]
    rfl
  · exact tget_tset_same d t i v hv

theorem le_of_mem_tlist (vs : List α) : ∀ a, ∀ e ∈ tlist d a vs, a ≤ e.1 := by
  induction vs with
  | nil => exact fun a e he => absurd he List.not_mem_nil
  | cons v vs ih =>
    intro a e he
    rw [tlist] at he
    split at he
    · exact Nat.le_of_succ_le (ih (a + 1) e he)
    · obtain rfl | he := List.mem_cons.mp he
      · exact Nat.le_refl a
      · exact Nat.le_of_succ_le (ih (a + 1) e he)

/-- Writing a list of contents leaves every index outside its span. -/
theorem tget_tputs_outside (t : Tab α) (a i : Nat) (vs : List α) (h : i < a ∨ a + vs.length ≤ i) :
    tget d (tputs d t a vs) i = tget d t i := by
  have hlist : tfind (tlist d a vs) i = none := by
    refine tfind_none_of_forall_ne _ i fun e he hei => ?_
    have := le_of_mem_tlist d vs a e he
    have := tlist_lt d vs a e he
    omega
  unfold tget tputs
  rw [tfind_append, tfind_append, hlist, Option.or_none]
  rcases h with hlo | hhi
  · rw [tfind_filter_kept (fun k => decide (k < a)) t i (by simp [hlo]),
      tfind_filter_dropped (fun k => decide (a + vs.length ≤ k)) t i (by simp; omega), Option.or_none]
  · rw [tfind_filter_dropped (fun k => decide (k < a)) t i (by simp; omega),
      tfind_filter_kept (fun k => decide (a + vs.length ≤ k)) t i (by simp [hhi]), Option.none_or]

/-- A walk over the entries that a list of contents makes meets that list. -/
theorem twalk_tlist (vs : List α) : ∀ (a : Nat) (u : Tab α), (∀ e ∈ u, a + vs.length ≤ e.1) →
    twalk d (tlist d a vs ++ u) a vs.length = vs := by
  induction vs with
  | nil => intro a u _; cases u <;> rfl
  | cons v vs ih =>
    intro a u hu
    have hlen : ∀ e ∈ u, a + 1 + vs.length ≤ e.1 := fun e he => by
      have := hu e he
      rw [List.length_cons] at this
      omega
    have hrest := ih (a + 1) u hlen
    rw [List.length_cons, tlist]
    split
    · next hv =>
      rw [twalk_default, hrest, hv]
      intro e he
      rcases List.mem_append.mp he with he | he
      · exact le_of_mem_tlist d vs (a + 1) e he
      · have := hlen e he
        omega
    · rw [List.cons_append, twalk, if_pos rfl, hrest]

/-- A list of contents that is written is read back. -/
theorem tspan_tputs (t : Tab α) (a : Nat) (vs : List α) : tspan d (tputs d t a vs) a vs.length = vs := by
  have hlow : ∀ e ∈ t.filter (fun e => decide (e.1 < a)), decide (e.1 < a) = true := fun e he => (List.mem_filter.mp he).2
  have hhigh : ∀ e ∈ t.filter (fun e => decide (a + vs.length ≤ e.1)), a + vs.length ≤ e.1 :=
    fun e he => of_decide_eq_true (List.mem_filter.mp he).2
  have hfrom : ∀ e ∈ tlist d a vs ++ t.filter (fun e => decide (a + vs.length ≤ e.1)), ¬ e.1 < a := by
    intro e he
    rcases List.mem_append.mp he with he | he
    · exact Nat.not_lt.mpr (le_of_mem_tlist d vs a e he)
    · have := hhigh e he
      omega
  have hdrop : (tlist d a vs ++ t.filter (fun e => decide (a + vs.length ≤ e.1))).dropWhile (fun e => decide (e.1 < a)) =
      tlist d a vs ++ t.filter (fun e => decide (a + vs.length ≤ e.1)) := by
    cases h : tlist d a vs ++ t.filter (fun e => decide (a + vs.length ≤ e.1)) with
    | nil => rfl
    | cons e l => exact List.dropWhile_cons_of_neg (by simpa using hfrom e (h ▸ List.mem_cons_self))
  rw [tspan, tputs, List.append_assoc, List.dropWhile_append_of_pos hlow, hdrop]
  exact twalk_tlist d vs a _ hhigh

end

/-! ### A tile's basin (R110) -/

section
variable (n : Nat) (f : Tile → Tile) (d : Dev)

/-- A change of a tile of a device whose tiles are in canonical form gives that tile. -/
theorem tile_modTile_same (h : twf ({} : Tile) d.tiles = true) : (d.modTile n f).tile n = f (d.tile n) :=
  tget_tset_same_of_twf ({} : Tile) d.tiles n _ h

theorem tile_modTile_other (m : Nat) (hm : m ≠ n) : (d.modTile n f).tile m = d.tile m :=
  tget_tmod_other ({} : Tile) d.tiles n m f hm

theorem modTile_wf (h : twf ({} : Tile) d.tiles = true) : twf ({} : Tile) (d.modTile n f).tiles = true :=
  twf_tmod ({} : Tile) d.tiles n f h

end

/-- What a read of a basin without a double error keeps: the tiles' canonical form, the basin's bytes, every other tile and device
memory. -/
structure KeepsBasin (n : Nat) (d e : Dev) : Prop where
  wf : twf ({} : Tile) e.tiles = true
  basin : (e.tile n).basin = (d.tile n).basin
  others : ∀ m, m ≠ n → e.tile m = d.tile m
  mem : e.mem = d.mem

theorem KeepsBasin.trans {n : Nat} {d e f : Dev} (h : KeepsBasin n d e) (g : KeepsBasin n e f) : KeepsBasin n d f :=
  ⟨g.wf, g.basin.trans h.basin, fun m hm => (g.others m hm).trans (h.others m hm), g.mem.trans h.mem⟩

/-- A span of which the code lists nothing has no error. -/
theorem errors_tclear (t : Tile) (a n kind : Nat) :
    ({ t with basinErr := tclear t.basinErr (a / 8) ((a + n + 7) / 8) } : Tile).errors a n kind = [] := by
  simp only [Tile.errors, tclear, List.filter_filter, List.map_eq_nil_iff, List.filter_eq_nil_iff]
  intro e _
  simp
  omega

/-- Decoding a span adds no error anywhere. -/
theorem errors_decodeSpan (t : Tile) (a n a' n' kind : Nat) (h : t.errors a' n' kind = []) :
    (t.decodeSpan a n).errors a' n' kind = [] := by
  unfold Tile.decodeSpan
  split
  · exact h
  · simp only [Tile.errors, List.map_eq_nil_iff, List.filter_eq_nil_iff] at h ⊢
    exact fun e he => h e (List.mem_filter.mp he).1

/-- Reading spans without a double error decodes them and posts nothing. -/
theorem readSpans_keepsBasin (n : Nat) (s : Option Nat) (pc : Nat) (w : Word) (spans : List (Nat × Nat)) :
    ∀ d : Dev, twf ({} : Tile) d.tiles = true → (∀ r ∈ spans, (d.tile n).errors r.1 r.2 2 = []) →
      KeepsBasin n d (readSpans n s pc w spans d) := by
  induction spans with
  | nil => exact fun d hwf _ => ⟨hwf, rfl, fun _ _ => rfl, rfl⟩
  | cons r spans ih =>
    intro d hwf hnone
    have hsame := tile_modTile_same n (fun t => t.decodeSpan r.1 r.2) d hwf
    have hwf' := modTile_wf n (fun t => t.decodeSpan r.1 r.2) d hwf
    have hstep : KeepsBasin n d (d.modTile n fun t => t.decodeSpan r.1 r.2) :=
      ⟨hwf', by rw [hsame, decodeSpan_basin], tile_modTile_other n _ d, rfl⟩
    have hread : readSpans n s pc w (r :: spans) d = readSpans n s pc w spans (d.modTile n fun t => t.decodeSpan r.1 r.2) := by
      have hclean : ((d.tile n).errors r.1 r.2 2).isEmpty = true := by rw [hnone r List.mem_cons_self]; rfl
      simp only [readSpans, List.foldl_cons, if_pos hclean]
    rw [hread]
    refine hstep.trans (ih _ hwf' fun q hq => ?_)
    rw [hsame]
    exact errors_decodeSpan _ _ _ _ _ _ (hnone q (List.mem_cons_of_mem _ hq))

/-- A basin's tile after a write of part of it. -/
def Tile.written (t : Tile) (off : Nat) (bs : Bytes) (poison : Bool) : Tile :=
  { t with
    basin := tputs 0 t.basin off bs,
    basinErr := tclear t.basinErr (off / 8) ((off + bs.length + 7) / 8),
    poison := if poison then tset 0 t.poison (off / 64) 1
      else if bs.length = 64 then tset 0 t.poison (off / 64) 0 else t.poison }

theorem basinWrite_eq (n off : Nat) (bs : Bytes) (poison : Bool) (d : Dev) :
    basinWrite n off bs poison d = (readSpans n none 0 0 (partWords off bs.length) d).modTile n fun t => t.written off bs poison := rfl

/-- Settles O26: the words written in part decode without a post, and the words of the span are left without an error. -/
theorem basinReadBack : Obligations.BasinReadBack := by
  intro n off bs poison d e hwf _ hnone he
  rw [basinWrite_eq] at he
  have hdecoded : KeepsBasin n d (readSpans n none 0 0 (partWords off bs.length) d) :=
    readSpans_keepsBasin n none 0 0 _ d hwf fun r hr => List.isEmpty_iff.mp (List.all_eq_true.mp hnone r hr)
  generalize readSpans n none 0 0 (partWords off bs.length) d = x at he hdecoded
  have htile : e.tile n = (x.tile n).written off bs poison := he ▸ tile_modTile_same n _ x hdecoded.wf
  have hbasin : (e.tile n).basin = tputs 0 (d.tile n).basin off bs := by rw [htile, ← hdecoded.basin]; rfl
  have hwritten : twf ({} : Tile) e.tiles = true := he ▸ modTile_wf n _ x hdecoded.wf
  refine ⟨?_, fun a ha => ?_, fun m hm => ?_, ?_⟩
  · have hclean : (e.tile n).errors off bs.length 2 = [] := htile ▸ errors_tclear _ off bs.length 2
    have hread := readSpans_keepsBasin n none 0 0 [(off, bs.length)] e hwritten
      fun r hr => List.mem_singleton.mp hr ▸ hclean
    rw [basinRead, hread.basin, hbasin, tspan_tputs]
  · rw [hbasin, tget_tputs_outside 0 _ off a bs ha]
  · rw [← he, tile_modTile_other n _ x m hm, hdecoded.others m hm]
  · rw [← he]; exact hdecoded.mem

/-! ### What an op that issues does (R112, R114, R127) -/

section
variable {opc : Nat} {plan : Dev → Tile → Stream → Plan} {busy : StreamOp → Nat × Nat} {effect : StreamOp → Tile → Tile}
  {after : Dev → Dev} {o : StreamOp} {s : State} {d : Dev} {p : Plan}

/-- An op that asks nothing of its operands is accepted, and reads nothing. -/
theorem accepts_nothing : Accepts {} opc o s s.dev := ⟨rfl, rfl, rfl, rfl⟩

/-- What an op whose stream issues it does: its plan decides. -/
theorem issueOp_issues (h : Issues opc o s) (hp : plan s.dev (s.dev.tile o.tile.val) (s.dev.streamOf o) = p) :
    issueOp opc plan busy effect after o s.dev =
      if p.bounds then opFault 0x501 o (encodeOp opc o) s.dev
      else if p.align then opFault 0x502 o (encodeOp opc o) s.dev
      else
        let d := readSpans o.tile.val (some o.stream.val) (s.dev.streamOf o).pc.toNat (encodeOp opc o) p.reads s.dev
        if p.reads.any fun r => (d.tile o.tile.val).poisoned r.1 r.2 then opFault 0x503 o (encodeOp opc o) d
        else after (d.runOp o (busy o).1 (busy o).2 (effect o)) := by
  obtain ⟨-, hcan, hdefined⟩ := h
  subst hp
  unfold issueOp
  dsimp only
  rw [hcan, hdefined, Bool.not_true, if_neg Bool.false_ne_true, if_neg Bool.false_ne_true]
  rfl

/-- An op out of bounds faults, whatever else its operands are. -/
theorem issueOp_bounds (h : Issues opc o s) (hp : plan s.dev (s.dev.tile o.tile.val) (s.dev.streamOf o) = p) (hbounds : p.bounds = true) :
    issueOp opc plan busy effect after o s.dev = opFault 0x501 o (encodeOp opc o) s.dev := by
  rw [issueOp_issues h hp, if_pos hbounds]

/-- A misaligned op within bounds faults, poison or not. -/
theorem issueOp_align (h : Issues opc o s) (hp : plan s.dev (s.dev.tile o.tile.val) (s.dev.streamOf o) = p) (hbounds : p.bounds = false)
    (halign : p.align = true) : issueOp opc plan busy effect after o s.dev = opFault 0x502 o (encodeOp opc o) s.dev := by
  rw [issueOp_issues h hp, hbounds, if_neg Bool.false_ne_true, if_pos halign]

/-- An op that reads poison faults once its operands are read. -/
theorem issueOp_poison (h : Issues opc o s) (hp : plan s.dev (s.dev.tile o.tile.val) (s.dev.streamOf o) = p) (hbounds : p.bounds = false)
    (halign : p.align = false)
    (hd : readSpans o.tile.val (some o.stream.val) (s.dev.streamOf o).pc.toNat (encodeOp opc o) p.reads s.dev = d)
    (hpoison : (p.reads.any fun r => (d.tile o.tile.val).poisoned r.1 r.2) = true) :
    issueOp opc plan busy effect after o s.dev = opFault 0x503 o (encodeOp opc o) d := by
  rw [issueOp_issues h hp, hbounds, halign, if_neg Bool.false_ne_true, if_neg Bool.false_ne_true]
  dsimp only
  rw [hd, if_pos hpoison]

/-- An op whose operands are accepted has its effect. -/
theorem issueOp_accepted (h : Issues opc o s) (hp : plan s.dev (s.dev.tile o.tile.val) (s.dev.streamOf o) = p) (ha : Accepts p opc o s d) :
    issueOp opc plan busy effect after o s.dev = after (d.runOp o (busy o).1 (busy o).2 (effect o)) := by
  obtain ⟨hbounds, halign, hd, hclean⟩ := ha
  change readSpans o.tile.val (some o.stream.val) (s.dev.streamOf o).pc.toNat (encodeOp opc o) p.reads s.dev = d at hd
  rw [issueOp_issues h hp, hbounds, halign, if_neg Bool.false_ne_true, if_neg Bool.false_ne_true]
  dsimp only
  rw [hd, hclean, if_neg Bool.false_ne_true]

/-- The three faults of an op's operands, in their order. -/
theorem gives_faultsInOrder {i : Instr} (hexec : exec i s = onDev (issueOp opc plan busy effect after o) s) (h : Issues opc o s)
    (hp : plan s.dev (s.dev.tile o.tile.val) (s.dev.streamOf o) = p) :
    (p.bounds = true → Gives i s (opFault 0x501 o (encodeOp opc o) s.dev)) ∧
    (p.bounds = false → p.align = true → Gives i s (opFault 0x502 o (encodeOp opc o) s.dev)) ∧
    (p.bounds = false → p.align = false →
      readSpans o.tile.val (some o.stream.val) (s.dev.streamOf o).pc.toNat (encodeOp opc o) p.reads s.dev = d →
      (p.reads.any fun r => (d.tile o.tile.val).poisoned r.1 r.2) = true → Gives i s (opFault 0x503 o (encodeOp opc o) d)) :=
  ⟨fun hbounds => gives_onDev hexec h.1 (issueOp_bounds h hp hbounds),
    fun hbounds halign => gives_onDev hexec h.1 (issueOp_align h hp hbounds halign),
    fun hbounds halign hd hpoison => gives_onDev hexec h.1 (issueOp_poison h hp hbounds halign hd hpoison)⟩

/-- An op whose operands are accepted gives its effect, and what follows it. -/
theorem gives_issueOp {i : Instr} {f : Dev → Dev} {e : Dev} (hexec : exec i s = onDev f s)
    (hop : f s.dev = issueOp opc plan busy effect after o s.dev) (h : Issues opc o s)
    (hp : plan s.dev (s.dev.tile o.tile.val) (s.dev.streamOf o) = p) (ha : Accepts p opc o s d)
    (he : after (d.runOp o (busy o).1 (busy o).2 (effect o)) = e) : Gives i s e :=
  gives_onDev hexec h.1 (hop.trans ((issueOp_accepted h hp ha).trans he))

/-- An op that asks nothing of its operands gives its effect, and what follows it. -/
theorem gives_noOperands {i : Instr} {f : Dev → Dev} {e : Dev} (hexec : exec i s = onDev f s)
    (hop : f s.dev = issueOp opc (fun _ _ _ => {}) busy effect after o s.dev) (h : Issues opc o s)
    (he : after (s.dev.runOp o (busy o).1 (busy o).2 (effect o)) = e) : Gives i s e :=
  gives_issueOp hexec hop h rfl accepts_nothing he

end

/-- Settles O22: the plan's parts are tested in the order of the faults. -/
theorem opFaultsInOrder : Obligations.OpFaultsInOrder := by
  rintro o s i opc p d (⟨rfl, rfl, rfl⟩ | ⟨rfl, rfl, rfl⟩ | ⟨rfl, rfl, rfl⟩ | ⟨rfl, rfl, rfl⟩) h
  · exact gives_faultsInOrder (i := .vld o) rfl h rfl
  · exact gives_faultsInOrder (i := .vst o) rfl h rfl
  · exact gives_faultsInOrder (i := .mma o) rfl h rfl
  · exact gives_faultsInOrder (i := .mmax o) rfl h rfl

/-! ### Unit S (R115, R412) -/

/-- An op that looks at the canal, and asks nothing of its operands, gives its effect. -/
theorem gives_waitOp {i : Instr} {opc : Nat} {effect : Dev → StreamOp → Tile → Tile} {o : StreamOp} {s : State} {e : Dev}
    (hexec : exec i s = onDev (fun d => issueOp opc (fun _ _ _ => {}) (fun _ => (0, 0)) (effect d) id o d) s) (h : Issues opc o s)
    (he : s.dev.runOp o 0 0 (effect s.dev o) = e) : Gives i s e :=
  gives_noOperands (effect := effect s.dev) hexec rfl h he

section
variable (n : Fin 528) (i : Fin 4) (s : State)

/-- A wait for a slot ends at the slot's start, between flips. -/
theorem waitslotRelease_gives (hon : s.On) (slot lockage : Nat) (hwait : ((s.dev.tile n.val).stream i.val).wait = .slot slot lockage)
    (hdwell : s.dev.canal.dwell = false) (hreached : lockage * 1024 + slot ≤ s.dev.canal.lockage * 1024 + s.dev.canal.slot) :
    Gives (.waitslotRelease n i) s (s.dev.modTile n.val fun t => t.resume i.val) := by
  have hexec : exec (.waitslotRelease n i) s = execWaitslotRelease n i s := rfl
  rw [Gives, hexec, execWaitslotRelease, onDev_on _ _ hon]
  simp only [hwait, hdwell, hreached, and_self, if_true]

/-- A fence ends when no op of the stream is outstanding. -/
theorem fenceRelease_gives (hon : s.On) (hwait : ((s.dev.tile n.val).stream i.val).wait = .fence)
    (hdone : (s.dev.tile n.val).outstanding i.val = false) :
    Gives (.fenceRelease n i) s (s.dev.modTile n.val fun t => t.resume i.val) :=
  gives_onDev rfl hon (if_pos ⟨hwait, hdone⟩)

/-- A wait for an event ends when the event's bit is set, and clears it. -/
theorem waitevRelease_gives (hon : s.On) (b : Nat) (hwait : ((s.dev.tile n.val).stream i.val).wait = .event b)
    (hset : (s.dev.tile n.val).event b = true) :
    Gives (.waitevRelease n i) s (s.dev.modTile n.val fun t => (t.clearEvent b).resume i.val) := by
  have hexec : exec (.waitevRelease n i) s = execWaitevRelease n i s := rfl
  rw [Gives, hexec, execWaitevRelease, onDev_on _ _ hon]
  simp only [hwait, hset, if_true]

end

/-- Settles O34: no op of unit S asks anything of its operands; a wait ends when what it waits for holds. -/
theorem scalarOpsComplete : Obligations.ScalarOpsComplete := by
  refine ⟨fun o s => ⟨?nop, ?halt, ?xli, ?xlih, ?xadd, ?xmul, ?bnz, ?bz, ?blt, ?waitslot, ?fence, ?signal, ?waitev, ?mark⟩,
    fun n i s hon => ⟨waitslotRelease_gives n i s hon, fenceRelease_gives n i s hon, waitevRelease_gives n i s hon⟩⟩
  case nop | halt | xli | xlih | xadd | xmul | bnz | bz | blt | signal | mark => exact fun h => gives_noOperands rfl rfl h rfl
  case waitslot => exact fun h => gives_waitOp (show exec (.waitslot o) s = execWaitslot o s from rfl) h rfl
  case fence => exact fun h => gives_waitOp (show exec (.fence o) s = execFence o s from rfl) h rfl
  case waitev => exact fun h => gives_waitOp (show exec (.waitev o) s = execWaitev o s from rfl) h rfl

/-! ### Units M and V (R115–R117, R139) -/

section
variable {o : StreamOp} {s : State}

/-- A row pair within its view is accepted, and reads nothing of the basin (R124). -/
theorem accepts_pairPlan {opc : Nat} (long : Bool) (hrow : ((s.dev.streamOf o).xr o.s2.toNat).toNat < if long then 32 else 64) :
    Accepts (pairPlan o long (s.dev.streamOf o)) opc o s s.dev :=
  ⟨decide_eq_false (Nat.not_le.mpr hrow), rfl, rfl, rfl⟩

/-- ACCRD within the view that it names, with the busy cycles of that view (R148). -/
theorem accrd_gives (h : Issues 0x12 o s) (long : Bool) (hlong : o.imm.getLsbD 0 = long)
    (hrow : ((s.dev.streamOf o).xr o.s2.toNat).toNat < if long then 32 else 64) :
    Gives (.accrd o) s (s.dev.runOp o (if long then 8 else 2) 0 (accrdEffect o)) := by
  subst hlong
  exact gives_issueOp rfl rfl h rfl (accepts_pairPlan _ hrow) rfl

end

/-- Settles O35: MMA and MMAX by the spans that they read, the accumulator's ops by the row pair that they name. -/
theorem matrixOpsComplete : Obligations.MatrixOpsComplete := by
  refine fun o s d => ⟨?mma, ?mmax, ?accrd, ?accrdLong, ?accwr, ?accx, ?accz⟩
  case mma | mmax => exact fun h ha => gives_issueOp rfl rfl h rfl ha rfl
  case accrd => exact fun h hview hrow => accrd_gives h false hview hrow
  case accrdLong => exact fun h hview hrow => accrd_gives h true hview hrow
  case accwr => exact fun h hrow => gives_issueOp rfl rfl h rfl (accepts_pairPlan false hrow) rfl
  case accx => exact fun h hrow => gives_issueOp rfl rfl h rfl (accepts_pairPlan true hrow) rfl
  case accz => exact fun h => gives_noOperands rfl rfl h rfl

/-- Settles O36: VLD and VST by the span that they reach; the others ask nothing of their operands. -/
theorem vectorOpsComplete : Obligations.VectorOpsComplete := by
  refine fun o s d => ⟨?vld, ?vst, ?vadd, ?vsub, ?vmul, ?vfma, ?vmax, ?vmin, ?vrsqrt, ?vexp, ?vred, ?viadd, ?vlevel, ?vfix, ?vflt, ?vthr,
    ?vdigest, ?vseed⟩
  case vld | vst => exact fun h ha => gives_issueOp rfl rfl h rfl ha rfl
  case vadd | vsub | vmul | vfma | vmax | vmin | vrsqrt | vexp | vred | viadd | vlevel | vfix | vflt | vthr | vdigest | vseed =>
    exact fun h => gives_noOperands rfl rfl h rfl

/-! ### Unit D (R118, R158) -/

/-- An op of unit D whose engine has room issues as other ops do. -/
theorem engineOp_room {opc : Nat} {receive : Bool} {plan : Dev → Tile → Stream → Plan} {effect : Tile → Stream → Tile}
    {after : Dev → Dev} {o : StreamOp} {d : Dev} (hroom : (d.tile o.tile.val).engineFull receive = false) :
    engineOp opc receive plan effect after o d =
      issueOp opc plan (fun _ => (0, 0)) (fun o t => effect t (t.stream o.stream.val)) after o d := by
  simp only [engineOp, hroom, Bool.and_false, Bool.false_eq_true, if_false]

/-- Settles O37: with room in its engine each op issues as one of the other units does. -/
theorem transferOpsComplete : Obligations.TransferOpsComplete := by
  refine fun o s d hsend hrecv => ⟨?send, ?recv, ?mrd, ?mwr, ?spill, ?fill⟩
  case send | mwr | spill => exact fun h ha => gives_issueOp rfl (engineOp_room hsend) h rfl ha rfl
  case recv | mrd | fill => exact fun h ha => gives_issueOp rfl (engineOp_room hrecv) h rfl ha rfl

/-! ### The tiles' events (R110, R114, R118, R122–R127) -/

section
variable (n : Fin 528) (s : State) (hon : s.On)
include hon

/-- The slot's route of a tile in service takes a barge in each half. -/
theorem bargeInjection_gives (r : Nat) (servedA servedB : Bool) (haligned : s.dev.canal.aligned = true) (hdwell : s.dev.canal.dwell = false)
    (hslot : s.dev.canal.slot < 1024) (hfailed : (s.dev.tile n.val).failed = false) (hstarting : (s.dev.tile n.val).starting = false)
    (hleads : (s.dev.tile n.val).follower = false)
    (hunused : (s.dev.canal.flights.any fun f =>
      decide (f.router = tileRouter n.val ∧ f.port = tilePort n.val ∧ f.slot = s.dev.canal.slot)) = false)
    (hroute : slotRoute n.val s.dev = some r) :
    Gives (.bargeInjection ⟨n, servedA, servedB⟩) s
      (let a := (injectSend n.val r false servedA s.dev).getD (injectWindow n.val r false servedA s.dev)
       (injectSend n.val r true servedB a).getD (injectWindow n.val r true servedB a)) := by
  refine gives_onDev rfl hon ?_
  unfold bargeInjection
  dsimp only
  rw [if_neg (by rw [hunused]; simp [haligned, hdwell, hslot, hfailed, hstarting, hleads]), hroute]

/-- What a stream's delivery that the tile's inbox gives does in a tile in service whose landing buffer is empty: it enters the engine
of an op that waits for it, or else the buffer. -/
theorem tileBargeReceive_gives (x : Delivery) (d : Dev)
    (hx : takeInbox (unitKey (tileRouter n.val) (tilePort n.val)) (fun x => !windowRoute s.dev x.barge.route.toNat) s.dev = some (x, d))
    (hfailed : (d.tile n.val).failed = false) (hleads : (d.tile n.val).follower = false) (hbound : (d.tile n.val).logical ≠ none)
    (hempty : (d.tile n.val).landing = []) :
    Gives (.tileBargeReceive n) s ((giveOp n.val x.barge (d.modTile n.val fun t => t.count 5 1)).getD
      ((d.modTile n.val fun t => t.count 5 1).modTile n.val fun t => { t with landing := t.landing ++ [x.barge] })) := by
  refine gives_onDev rfl hon ?_
  unfold bargeReceive
  simp only [hx]
  rw [if_neg (by simp [hfailed, hleads, hbound]), hempty]
  cases giveOp n.val x.barge (d.modTile n.val fun t => t.count 5 1) <;> rfl

/-- A command of the basin window that writes within the tile's own window opens the write (R19). -/
theorem basinWindowAccess_gives (x : Delivery) (d : Dev) (a len op resp : Nat) (operation : Word)
    (hx : takeInbox (unitKey (tileRouter n.val) (tilePort n.val)) (fun x => windowRoute s.dev x.barge.route.toNat) s.dev = some (x, d))
    (hleads : (d.tile n.val).follower = false) (hnone : (d.tile n.val).windowWrites = [])
    (hfields : commandFields x.barge.body = (a, len, op, resp, operation, true)) (hop : op = 1) (hlo : 0 < len) (hhi : len ≤ 2097152)
    (hkind : x.barge.kind = 1) (hlast : x.barge.last = false) (hfailed : (d.tile n.val).failed = false)
    (hplace : ∃ off, place (d.modTile n.val fun t => t.count 5 1) a = .basin n.val off ∧ off + len ≤ 0x200000) :
    Gives (.basinWindowAccess n) s ((d.modTile n.val fun t => t.count 5 1).modTile n.val fun t => { t with
      windowWrites := t.windowWrites ++ [{ route := x.barge.route.toNat, addr := a, length := len, inst := x.barge.inst.toNat,
                                           operation := operation, rejected := false }] }) := by
  obtain ⟨off, hplace, hwithin⟩ := hplace
  subst hop
  refine gives_onDev rfl hon ?_
  unfold windowAccess
  simp only [hx]
  rw [if_neg (by simp [hleads]), hnone, List.find?_nil]
  simp [hfields, hplace, hwithin, hlo, hhi, hkind, hlast, hfailed]

/-- Signatures that agree clear the pair's report; those that differ halt its streams first (R122). -/
theorem signatureCompare_gives (m : Nat) (hpair : (s.dev.tile n.val).pair = some m) (hleads : (s.dev.tile n.val).follower = false)
    (hfailed : (s.dev.tile n.val).failed = false) (mismatch : Bool) :
    Gives (.signatureCompare n mismatch) s
      (((if mismatch then tileFault 0x504 n.val none 0 0 (List.range 4) s.dev else s.dev).modTile n.val
        fun t => { t with reported := false }).modTile m fun t => { t with reported := false }) := by
  have hexec : exec (.signatureCompare n mismatch) s = execSignatureCompare n mismatch s := rfl
  rw [Gives, hexec, execSignatureCompare, onDev_on _ _ hon]
  simp only [hpair]
  rw [if_neg (by simp [hleads, hfailed])]
  rfl

/-- A checker of a tile in service that reports an op halts its stream (R123). -/
theorem tileCheck_gives (i : Fin 4) (pc : Fin 4096) (hbound : (s.dev.tile n.val).logical ≠ none)
    (hfailed : (s.dev.tile n.val).failed = false) :
    Gives (.tileCheck n i pc) s (tileFault 0x504 n.val (some i.val) pc.val ((s.dev.tile (s.dev.leader n.val)).op pc.val) [i.val]
      (s.dev.modTile n.val fun t => { t with reported := t.reported || t.pair.isSome })) := by
  have hserves : ¬ ((s.dev.tile n.val).logical = none ∨ (s.dev.tile n.val).failed = true) := by simp [hbound, hfailed]
  have hexec : exec (.tileCheck n i pc) s = execTileCheck n i pc s := rfl
  rw [Gives, hexec, execTileCheck, onDev_on _ _ hon]
  dsimp only
  rw [if_neg hserves]

/-- A wait past the policy's allowance faults at the boundary that ends it (R125). -/
theorem tileStall_gives (i : Fin 4) (st : Stream) (pc : BitVec 12) (hst : st = (s.dev.tile n.val).stream i.val) (hwaits : st.state = 2)
    (hpc : st.wait = .engine ∧ pc = st.pc ∨ (st.wait = .fence ∨ ∃ b, st.wait = .event b) ∧ pc = st.pc - 1)
    (hpast : st.waitSince + 1 + (s.dev.policy 0x506 1).param = s.dev.canal.lockage) (hslot : s.dev.canal.slot = 0)
    (hdwell : s.dev.canal.dwell = false) :
    Gives (.tileStall n i) s (tileFault 0x506 n.val (some i.val) pc.toNat ((s.dev.tile n.val).op pc.toNat) [i.val] s.dev
      fun r => { r with timeNs := s.dev.canal.beganNs, timeFrac := s.dev.canal.beganFrac }) := by
  subst hst
  have hexec : exec (.tileStall n i) s = execTileStall n i s := rfl
  rw [Gives, hexec, execTileStall, onDev_on _ _ hon]
  rcases hpc with ⟨hwait, rfl⟩ | ⟨hwait | ⟨b, hwait⟩, rfl⟩ <;> simp [hwait, hwaits, hpast, hslot, hdwell]

theorem spareStart_gives (hstarting : (s.dev.tile n.val).starting = true) :
    Gives (.spareStart n) s (s.dev.modTile n.val fun t =>
      (List.range 4).foldl (fun t i => t.modStream i Stream.start) { t with starting := false }) :=
  gives_onDev rfl hon (if_pos hstarting)

end

/-- Settles O38: event by event. -/
theorem tileEventsComplete : Obligations.TileEventsComplete := by
  refine ⟨fun n s hon => ⟨?_, ?_, ?_, ?_, ?_, ?_, ?_⟩, ?_⟩
  · exact bargeInjection_gives n s hon
  · intro x d hx hfailed hleads hbound
    have hgives := tileBargeReceive_gives n s hon x d hx hfailed hleads hbound
    exact ⟨fun e hempty he => by simpa only [he, Option.getD_some] using hgives hempty,
      fun he hempty => by simpa only [he, Option.getD_none] using hgives hempty⟩
  · exact fun x d a len op resp operation hx hleads hnone _ => basinWindowAccess_gives n s hon x d a len op resp operation hx hleads hnone
  · exact fun m hpair hleads hfailed =>
      ⟨signatureCompare_gives n s hon m hpair hleads hfailed false, signatureCompare_gives n s hon m hpair hleads hfailed true⟩
  · exact tileCheck_gives n s hon
  · exact tileStall_gives n s hon
  · exact spareStart_gives n s hon
  · exact fun n i w s hon hcan hundefined => gives_onDev rfl hon (if_pos (by simp [hcan, hundefined]))

/-! ### The tiles' commands (R128, R171, R353) -/

theorem length_leBytes (k v : Nat) : (leBytes k v).length = k := by
  induction k generalizing v with
  | zero => rfl
  | succ k ih => rw [leBytes, List.length_cons, ih]

theorem length_words (vs : List Nat) : (words vs).length = 8 * vs.length := by
  induction vs with
  | nil => rfl
  | cons v vs ih =>
    rw [words, List.flatMap_cons, List.length_append, length_leBytes, ← words, ih, List.length_cons]
    omega

section
variable (c : Cmd) (s : State)

theorem tileStatus_answers (tile : Nat) (h : Serves { i3c := true } c s) (htile : tile < 528) (hmine : notMine c.src.val tile s.dev = false)
    (hup : s.dev.restarting (3 + tile / 33) = false) :
    Answers (.cmdTileStatus c tile) c s (ok ([tileBinding s.dev tile] ++ (List.range 4).map (tileStream s.dev tile) ++
      [tileFaultReg s.dev tile, tileErrCount s.dev tile])) s.dev := by
  have hexec : exec (.cmdTileStatus c tile) s = nowCmdTileStatus c tile s := whileUp_up _ _ _ s hup
  have hanswer := answers_query _ c _ s _ h hexec
  rwa [if_neg (Nat.not_le.mpr htile), hmine, if_neg Bool.false_ne_true] at hanswer

theorem tileRestart_answers (logical mask n : Nat) (h : Serves { block := some 5 } c s) (hleader : s.dev.leaderOf logical = some n)
    (hmask : mask < 16) (hmine : notMine c.src.val n s.dev = false) (hup : s.dev.restarting (3 + n / 33) = false)
    (hended : ∀ i, i < 4 → bit mask i = true → ((s.dev.tile n).stream i).state ≠ 1 ∧ ((s.dev.tile n).stream i).state ≠ 2) :
    Answers (.cmdTileRestart c logical mask) c s (ok []) (s.dev.modTile n fun t =>
      ((List.range 4).filter fun i => bit mask i).foldl (fun t i => t.modStream i fun st =>
        if st.ended then { st with policyRestart := true } else st) t) := by
  have hexec : exec (.cmdTileRestart c logical mask) s = nowCmdTileRestart c logical mask s :=
    whileUp_up _ _ _ s (by rw [hleader]; exact hup)
  have hnone : (((List.range 4).filter fun i => bit mask i).any fun i =>
      decide (((s.dev.tile n).stream i).state = 1 ∨ ((s.dev.tile n).stream i).state = 2)) = false := by
    simp only [List.any_eq_false, List.mem_filter, List.mem_range, decide_eq_true_eq, not_or]
    exact fun i hi => hended i hi.1 hi.2
  refine answers_of_mailbox hexec h ?_
  simp only [hleader]
  rw [if_neg (Nat.not_le.mpr hmask), hmine, if_neg Bool.false_ne_true, hnone, if_neg Bool.false_ne_true]

theorem tileReadOps_answers (logical first count n : Nat) (h : Serves {} c s) (hleader : s.dev.leaderOf logical = some n) (hlo : 0 < count)
    (hhi : count ≤ 64) (hwithin : first + count ≤ 4096) (hmine : notMine c.src.val n s.dev = false)
    (hup : s.dev.restarting (3 + n / 33) = false) :
    Answers (.cmdTileReadOps c logical first count) c s
      (ok ((List.range count).map fun i => ((s.dev.tile n).op (first + i)).toNat)) s.dev := by
  have hexec : exec (.cmdTileReadOps c logical first count) s = nowCmdTileReadOps c logical first count s :=
    whileUp_up _ _ _ s (by rw [hleader]; exact hup)
  have hanswer := answers_query _ c _ s _ h hexec
  simp only [hleader] at hanswer
  rwa [if_neg (by omega), hmine, if_neg Bool.false_ne_true] at hanswer

theorem reduceStatus_answers (h : Serves { i3c := true } c s) :
    ∃ result, Answers (.cmdReduceStatus c) c s { status := .ok, result := result } s.dev ∧
      result.take 24 = words [s.dev.reduce.digest, s.dev.reduce.sumCheck, s.dev.reduce.laneRange] := by
  have hexec : exec (.cmdReduceStatus c) s = execCmdReduceStatus c s := rfl
  have hanswer := answers_query _ c _ s _ h hexec
  exact ⟨_, hanswer, List.take_left' (length_words _)⟩

end

/-- Settles O39: command by command. -/
theorem tileCommandsComplete : Obligations.TileCommandsComplete := by
  refine fun c s => ⟨?_, ?_, ?_, ?_, ?_⟩
  · exact tileStatus_answers c s
  · exact tileRestart_answers c s
  · exact tileReadOps_answers c s
  · exact reduceStatus_answers c s
  · exact fun h => answers_of_mailbox rfl h rfl

end Sys2Proof.Machine

/-! SUPPORT. The statements of memory, settled: the code of an HBM line, what a write of a line leaves, the memory commands, the ports and
the DMA channels. -/

namespace Sys2Proof.Machine

/-! ### The field of R149 -/

/-- A map of bytes that keeps exclusive or. -/
def KeepsXor (f : Byte → Byte) : Prop := ∀ a b, f (a ^^^ b) = f a ^^^ f b

theorem KeepsXor.map_zero {f : Byte → Byte} (hf : KeepsXor f) : f 0 = 0 := by
  have h := hf 0 0
  simpa using h

theorem KeepsXor.comp {f g : Byte → Byte} (hf : KeepsXor f) (hg : KeepsXor g) : KeepsXor fun a => f (g a) := fun a b =>
  (congrArg f (hg a b)).trans (hf _ _)

/-- The exclusive or of the bits of `a` at the places listed. -/
def bitSum (a : Byte) (l : List Nat) : Byte := (l.map fun i => if a.getLsbD i then 1#8 <<< i else 0).foldr (· ^^^ ·) 0

theorem bitSum_range : ∀ a : Byte, bitSum a (List.range 8) = a := by decide +kernel

/-- A map that keeps exclusive or is fixed by what it does to the eight single bits. -/
theorem KeepsXor.ext {f g : Byte → Byte} (hf : KeepsXor f) (hg : KeepsXor g) (h : ∀ i < 8, f (1#8 <<< i) = g (1#8 <<< i)) (a : Byte) :
    f a = g a := by
  have hzero : f 0 = g 0 := hf.map_zero.trans hg.map_zero.symm
  have hsum : ∀ l : List Nat, (∀ i ∈ l, i < 8) → f (bitSum a l) = g (bitSum a l) := by
    intro l hl
    induction l with
    | nil => exact hzero
    | cons i l ih =>
      have hcons : bitSum a (i :: l) = (if a.getLsbD i then 1#8 <<< i else 0) ^^^ bitSum a l := rfl
      rw [hcons, hf, hg, ih fun j hj => hl j (List.mem_cons_of_mem _ hj)]
      congr 1
      split
      · exact h i (hl i List.mem_cons_self)
      · exact hzero
  rw [← bitSum_range a]
  exact hsum (List.range 8) fun i hi => List.mem_range.mp hi

/-- What an exclusive or of conditions selects. -/
theorem ite_xor_zero (p q : Bool) (a : Byte) :
    (if (p ^^ q) = true then a else 0) = (if p = true then a else 0) ^^^ (if q = true then a else 0) := by
  cases p <;> cases q <;> simp

theorem gfDouble_eq (poly a : Byte) : gfDouble poly a = a <<< 1 ^^^ if a.msb = true then poly else 0 := by
  unfold gfDouble
  split <;> simp

theorem keepsXor_gfDouble (poly : Byte) : KeepsXor (gfDouble poly) := by
  intro a b
  rw [gfDouble_eq, gfDouble_eq, gfDouble_eq, BitVec.msb_xor, BitVec.shiftLeft_xor_distrib, ite_xor_zero]
  ac_rfl

theorem keepsXor_gfMulN_left (poly : Byte) (n : Nat) : ∀ c, KeepsXor fun a => gfMulN poly n a c := by
  induction n with
  | zero => exact fun _ _ _ => BitVec.xor_zero.symm
  | succ n ih =>
    intro c a b
    have hrest : gfMulN poly n (gfDouble poly (a ^^^ b)) (c >>> 1) =
        gfMulN poly n (gfDouble poly a) (c >>> 1) ^^^ gfMulN poly n (gfDouble poly b) (c >>> 1) :=
      (ih (c >>> 1)).comp (keepsXor_gfDouble poly) a b
    dsimp only
    rw [gfMulN, gfMulN, gfMulN, hrest]
    split
    · ac_rfl
    · simp

theorem keepsXor_gfMulN_right (poly : Byte) (n : Nat) : ∀ a, KeepsXor (gfMulN poly n a) := by
  induction n with
  | zero => exact fun _ _ _ => BitVec.xor_zero.symm
  | succ n ih =>
    intro a b c
    rw [gfMulN, gfMulN, gfMulN, BitVec.ushiftRight_xor_distrib, ih, BitVec.getLsbD_xor, ite_xor_zero]
    ac_rfl

theorem keepsXor_gfMul_left (b : Byte) : KeepsXor fun a => gfMul a b := keepsXor_gfMulN_left _ _ b

theorem keepsXor_gfMul (a : Byte) : KeepsXor (gfMul a) := keepsXor_gfMulN_right _ _ a

/-- Both sides keep exclusive or in each factor, so it is enough that they agree on single bits. -/
theorem gfMul_comm (a b : Byte) : gfMul a b = gfMul b a := by
  refine (keepsXor_gfMul_left b).ext (keepsXor_gfMul b) (fun i hi => ?_) a
  refine (keepsXor_gfMul (1#8 <<< i)).ext (keepsXor_gfMul_left (1#8 <<< i)) (fun j hj => ?_) b
  revert i j
  decide +kernel

theorem gfMul_assoc (a b c : Byte) : gfMul (gfMul a b) c = gfMul a (gfMul b c) := by
  refine ((keepsXor_gfMul_left c).comp (keepsXor_gfMul_left b)).ext (keepsXor_gfMul_left (gfMul b c)) (fun i hi => ?_) a
  refine ((keepsXor_gfMul_left c).comp (keepsXor_gfMul _)).ext ((keepsXor_gfMul _).comp (keepsXor_gfMul_left c)) (fun j hj => ?_) b
  refine (keepsXor_gfMul _).ext ((keepsXor_gfMul _).comp (keepsXor_gfMul _)) (fun k hk => ?_) c
  revert i j k
  decide +kernel

theorem gfMul_zero (a : Byte) : gfMul a 0 = 0 := (keepsXor_gfMul a).map_zero

theorem gfMul_one : ∀ a : Byte, gfMul a 1 = a := by decide +kernel

theorem one_gfMul (a : Byte) : gfMul 1 a = a := (gfMul_comm 1 a).trans (gfMul_one a)

theorem gfPow_add (a : Byte) (m n : Nat) : gfPow a (m + n) = gfMul (gfPow a m) (gfPow a n) := by
  induction m with
  | zero => rw [Nat.zero_add, gfPow, one_gfMul]
  | succ m ih => rw [Nat.succ_add, gfPow, ih, gfPow, gfMul_assoc]

/-- a^(2^n − 1) by squaring. -/
def gfOnes (a : Byte) : Nat → Byte
  | 0 => 1
  | n + 1 => gfMul a (gfMul (gfOnes a n) (gfOnes a n))

theorem gfPow_ones (a : Byte) (n : Nat) : gfPow a (2 ^ n - 1) = gfOnes a n := by
  induction n with
  | zero => rfl
  | succ n ih =>
    have hexp : 2 ^ (n + 1) - 1 = (2 ^ n - 1) + (2 ^ n - 1) + 1 := by
      have := Nat.one_le_two_pow (n := n)
      omega
    rw [hexp, gfPow, gfPow_add, ih, gfOnes]

/-- The inverse's power is taken by squaring, which a computation over all bytes needs. -/
theorem gfInv_eq (a : Byte) : gfInv a = gfMul (gfOnes a 7) (gfOnes a 7) := by
  rw [← gfPow_ones, ← gfPow_add]
  rfl

theorem gfOnes_inverse : ∀ a : Byte, a ≠ 0 → gfMul (gfMul (gfOnes a 7) (gfOnes a 7)) a = 1 := by decide +kernel

theorem gfInv_gfMul (a : Byte) (ha : a ≠ 0) : gfMul (gfInv a) a = 1 := (congrArg (gfMul · a) (gfInv_eq a)).trans (gfOnes_inverse a ha)

theorem gfMul_left_cancel {a b c : Byte} (ha : a ≠ 0) (h : gfMul a b = gfMul a c) : b = c := by
  have h := congrArg (gfMul (gfInv a)) h
  rwa [← gfMul_assoc, ← gfMul_assoc, gfInv_gfMul a ha, one_gfMul, one_gfMul] at h

/-- A power of α^j is a power of α. -/
theorem gfPow_gfAlpha (j n : Nat) : gfPow (gfAlpha j) n = gfAlpha (j * n) := by
  induction n with
  | zero => rfl
  | succ n ih => rw [gfPow, ih, Nat.mul_succ, Nat.add_comm, gfAlpha, gfAlpha, gfAlpha, gfPow_add]

/-- The powers of α that name the 68 symbols differ. -/
theorem gfAlpha_injOn : ∀ i < 68, ∀ j < i, gfAlpha i ≠ gfAlpha j := by decide +kernel

/-! ### Values of polynomials -/

theorem gfEval_cons (b : Byte) (c : Bytes) (x : Byte) : gfEval (b :: c) x = b ^^^ gfMul x (gfEval c x) := rfl

theorem gfEval_singleton (b x : Byte) : gfEval [b] x = b := by
  rw [gfEval_cons, gfEval, List.foldr_nil, gfMul_zero]
  exact BitVec.xor_zero

theorem gfEval_zeros (n : Nat) (x : Byte) : gfEval (List.replicate n 0) x = 0 := by
  induction n with
  | zero => rfl
  | succ n ih =>
    rw [List.replicate_succ, gfEval_cons, ih, gfMul_zero]
    exact BitVec.xor_zero

theorem gfEval_append (c e : Bytes) (x : Byte) : gfEval (c ++ e) x = gfEval c x ^^^ gfMul (gfPow x c.length) (gfEval e x) := by
  induction c with
  | nil =>
    rw [List.nil_append, List.length_nil, gfPow, one_gfMul]
    exact BitVec.zero_xor.symm
  | cons b c ih =>
    rw [List.cons_append, gfEval_cons, gfEval_cons, ih, List.length_cons, gfPow, keepsXor_gfMul, gfMul_assoc]
    ac_rfl

/-- An error at one place adds one term. -/
theorem gfEval_xorAt (p x : Byte) : ∀ (c : Bytes) (i : Nat), i < c.length →
    gfEval (xorAt c i p) x = gfEval c x ^^^ gfMul (gfPow x i) p
  | [], i, h => absurd h (Nat.not_lt_zero i)
  | b :: c, 0, _ => by
    have hset : xorAt (b :: c) 0 p = (b ^^^ p) :: c := rfl
    rw [hset, gfEval_cons, gfEval_cons, gfPow, one_gfMul]
    ac_rfl
  | b :: c, i + 1, h => by
    have hset : xorAt (b :: c) (i + 1) p = b :: xorAt c i p := rfl
    rw [hset, gfEval_cons, gfEval_cons, gfEval_xorAt p x c i (Nat.lt_of_succ_lt_succ h), gfPow, keepsXor_gfMul, gfMul_assoc]
    ac_rfl

/-- The value of a difference by a multiple. -/
theorem gfEval_zipWith (t x : Byte) : ∀ u v : Bytes, u.length = v.length →
    gfEval (List.zipWith (fun a g => a ^^^ gfMul t g) u v) x = gfEval u x ^^^ gfMul t (gfEval v x)
  | [], [], _ => by
    rw [List.zipWith_nil_left, gfEval, List.foldr_nil, gfMul_zero]
    exact BitVec.xor_zero.symm
  | a :: u, g :: v, h => by
    have hswap : gfMul t (gfMul x (gfEval v x)) = gfMul x (gfMul t (gfEval v x)) := by
      rw [← gfMul_assoc, gfMul_comm t x, gfMul_assoc]
    rw [List.zipWith_cons_cons, gfEval_cons, gfEval_cons, gfEval_cons, gfEval_zipWith t x u v (Nat.succ.inj h), keepsXor_gfMul,
      keepsXor_gfMul, hswap]
    ac_rfl

theorem gfEval_map_xor (k x : Byte) (c : Bytes) :
    gfEval (c.map (· ^^^ k)) x = gfEval c x ^^^ gfEval (List.replicate c.length k) x := by
  induction c with
  | nil => exact BitVec.xor_zero.symm
  | cons b c ih =>
    rw [List.map_cons, List.length_cons, List.replicate_succ, gfEval_cons, gfEval_cons, gfEval_cons, ih, keepsXor_gfMul]
    ac_rfl

/-! ### The code of an HBM line (R178, R179) -/

/-- α^0 to α^3 are roots of the generator. -/
theorem gfEval_generator : ∀ j < 4, gfEval generator (gfAlpha j) = gfPow (gfAlpha j) 4 := by decide +kernel

theorem length_remStep (r : Bytes) (b : Byte) (hr : r.length = 4) : (remStep r b).length = 4 := by
  have hgen : generator.length = 4 := by decide +kernel
  simp [remStep, hr, hgen]

/-- A step of the division keeps the value at a root of the generator. -/
theorem gfEval_remStep (r : Bytes) (b : Byte) (hr : r.length = 4) (j : Nat) (hj : j < 4) :
    gfEval (remStep r b) (gfAlpha j) = gfEval (b :: r) (gfAlpha j) := by
  have hsplit : b :: r = (b :: r.take 3) ++ [r.getD 3 0] := by
    match r, hr with
    | [_, _, _, _], _ => rfl
  have hlen : (b :: r.take 3).length = 4 := by simp [hr]
  rw [remStep, gfEval_zipWith _ _ _ _ (hlen.trans (by decide +kernel)), hsplit, gfEval_append, hlen, gfEval_singleton,
    gfEval_generator j hj, gfMul_comm (r.getD 3 0)]

/-- So does the whole division: its remainder agrees with what was divided. -/
theorem foldl_remStep (bs : Bytes) : ∀ r : Bytes, r.length = 4 → (bs.foldl remStep r).length = 4 ∧
    ∀ j < 4, gfEval (bs.foldl remStep r) (gfAlpha j) = gfEval (bs.reverse ++ r) (gfAlpha j) := by
  induction bs with
  | nil => exact fun r hr => ⟨hr, fun _ _ => rfl⟩
  | cons b bs ih =>
    intro r hr
    obtain ⟨hlen, hval⟩ := ih (remStep r b) (length_remStep r b hr)
    refine ⟨hlen, fun j hj => ?_⟩
    rw [List.foldl_cons, hval j hj, List.reverse_cons, List.append_assoc, List.singleton_append, gfEval_append, gfEval_append,
      gfEval_remStep r b hr j hj]

theorem length_checkBytes (data : Bytes) : (checkBytes data).length = 4 := (foldl_remStep _ _ rfl).1

/-- The code word of a line vanishes at the roots of the generator. -/
theorem gfEval_codeWord (data : Bytes) (j : Nat) (hj : j < 4) : gfEval (checkBytes data ++ data) (gfAlpha j) = 0 := by
  have hzeros : gfEval [0, 0, 0, 0] (gfAlpha j) = 0 := gfEval_zeros 4 (gfAlpha j)
  have hcheck : gfEval (checkBytes data) (gfAlpha j) = gfMul (gfPow (gfAlpha j) 4) (gfEval data (gfAlpha j)) := by
    have hrev : (data.reverse ++ [0, 0, 0, 0]).reverse = [0, 0, 0, 0] ++ data := by simp
    rw [checkBytes, (foldl_remStep _ _ rfl).2 j hj, hrev, List.append_assoc, gfEval_append, gfEval_append data, hzeros, gfMul_zero]
    simp
  rw [gfEval_append, length_checkBytes, hcheck]
  exact BitVec.xor_self

/-- A stored line has no syndrome. -/
theorem syndromes_checkBytes (data : Bytes) : syndromes (checkBytes data) data = [0, 0, 0, 0] := by
  have h : ∀ j ∈ List.range 4, gfEval (checkBytes data ++ data) (gfAlpha j) = 0 := fun j hj =>
    gfEval_codeWord data j (List.mem_range.mp hj)
  rw [syndromes, List.map_congr_left h]
  rfl

theorem classify_checkBytes (data : Bytes) : classify (syndromes (checkBytes data) data) = .clean := by
  rw [syndromes_checkBytes]
  rfl

/-- The syndromes of an error p in symbol i. -/
def errorSyndromes (i : Nat) (p : Byte) : Bytes := (List.range 4).map fun j => gfMul (gfAlpha (j * i)) p

/-- The code word of a line with an error in one symbol. -/
theorem xorAt_codeWord (data : Bytes) (i : Nat) (p : Byte) :
    (if i < 4 then xorAt (checkBytes data) i p else checkBytes data) ++ (if i < 4 then data else xorAt data (i - 4) p) =
      xorAt (checkBytes data ++ data) i p := by
  have hlen := length_checkBytes data
  unfold xorAt
  split
  · next h => rw [List.set_append_left _ _ (hlen ▸ h), List.getD_append _ _ _ _ (hlen ▸ h)]
  · next h =>
    have h4 : (checkBytes data).length ≤ i := by omega
    rw [List.set_append_right _ _ h4, List.getD_append_right _ _ _ _ h4, hlen]

theorem syndromes_xorAt (data : Bytes) (hdata : data.length = 64) (i : Nat) (p : Byte) (hi : i < 68) :
    syndromes (if i < 4 then xorAt (checkBytes data) i p else checkBytes data) (if i < 4 then data else xorAt data (i - 4) p) =
      errorSyndromes i p := by
  have hlen : i < (checkBytes data ++ data).length := by rw [List.length_append, length_checkBytes, hdata]; exact hi
  rw [syndromes, xorAt_codeWord]
  refine List.map_congr_left fun j hj => ?_
  rw [gfEval_xorAt _ _ _ _ hlen, gfEval_codeWord data j (List.mem_range.mp hj), gfPow_gfAlpha]
  exact BitVec.zero_xor

/-- The syndromes of an error in symbol i stand in the ratio α^i and in no other: the symbol is found (R178). -/
theorem classify_errorSyndromes (i : Nat) (p : Byte) (hi : i < 68) (hp : p ≠ 0) : classify (errorSyndromes i p) = .corrected i p := by
  have hlist : errorSyndromes i p = [p, gfMul (gfAlpha i) p, gfMul (gfAlpha (2 * i)) p, gfMul (gfAlpha (3 * i)) p] := by
    have hmap : errorSyndromes i p =
        [gfMul (gfAlpha (0 * i)) p, gfMul (gfAlpha (1 * i)) p, gfMul (gfAlpha (2 * i)) p, gfMul (gfAlpha (3 * i)) p] := rfl
    rw [hmap, Nat.zero_mul, Nat.one_mul, gfAlpha, gfPow, one_gfMul]
  have hnext : ∀ n, gfMul (gfAlpha (n + i)) p = gfMul (gfMul (gfAlpha n) p) (gfAlpha i) := fun n => by
    rw [gfAlpha, gfPow_add, gfMul_assoc, gfMul_assoc, gfMul_comm p, gfAlpha, gfAlpha]
  have hfind : ((List.range 68).find? fun k => gfMul (gfAlpha i) p == gfMul p (gfAlpha k) &&
      gfMul (gfAlpha (2 * i)) p == gfMul (gfMul (gfAlpha i) p) (gfAlpha k) &&
      gfMul (gfAlpha (3 * i)) p == gfMul (gfMul (gfAlpha (2 * i)) p) (gfAlpha k)) = some i := by
    rw [List.find?_range_eq_some]
    refine ⟨?_, List.mem_range.mpr hi, fun k hk => ?_⟩
    · rw [gfMul_comm p, two_mul, hnext, show 3 * i = i + i + i by omega, hnext (i + i), hnext i]
      simp
    · have hne : gfMul (gfAlpha i) p ≠ gfMul p (gfAlpha k) := fun h =>
        gfAlpha_injOn i hi k hk (gfMul_left_cancel hp ((gfMul_comm p _).trans h))
      simp [hne]
  rw [hlist, classify]
  simp [show p ≠ 0#8 from hp, hfind]

/-- The syndromes of a line stored as poison are those of 0x5A in each check byte (R179). -/
theorem syndromes_poisonCheck (data : Bytes) :
    syndromes (poisonCheck data) data = (List.range 4).map fun j => gfEval (List.replicate 4 0x5A#8) (gfAlpha j) := by
  refine List.map_congr_left fun j hj => ?_
  have hword := gfEval_codeWord data j (List.mem_range.mp hj)
  rw [gfEval_append, length_checkBytes] at hword
  rw [poisonCheck, gfEval_append, List.length_map, gfEval_map_xor, length_checkBytes, BitVec.xor_assoc, BitVec.xor_comm _ (gfMul _ _),
    ← BitVec.xor_assoc, hword]
  exact BitVec.zero_xor

theorem classify_poisonCheck (data : Bytes) : classify (syndromes (poisonCheck data) data) = .poisoned := by
  rw [syndromes_poisonCheck]
  decide +kernel

/-- Settles O24: a code word vanishes at α^0 to α^3, and an error in one symbol leaves syndromes in the ratio of its place. -/
theorem eccCorrectsOneSymbol : Obligations.EccCorrectsOneSymbol := by
  refine fun data hdata => ⟨classify_checkBytes data, fun i p hi hp => ?_, classify_poisonCheck data⟩
  rw [syndromes_xorAt data hdata i p hi, classify_errorSyndromes i p hi hp]

/-! ### A span is what its indices hold -/

section
variable {α : Type} (d : α)

/-- Below its entries a table holds the default. -/
theorem tget_default (t : Tab α) (i : Nat) (h : ∀ e ∈ t, e.1 ≠ i) : tget d t i = d := by
  rw [tget, tfind_none_of_forall_ne t i h, Option.getD_none]

theorem tget_cons_same (k : Nat) (v : α) (t : Tab α) : tget d ((k, v) :: t) k = v := by rw [tget, tfind, if_pos rfl, Option.getD_some]

theorem tget_cons_other (k : Nat) (v : α) (t : Tab α) (i : Nat) (h : i ≠ k) : tget d ((k, v) :: t) i = tget d t i :=
  congrArg (Option.getD · d) (if_neg h)

variable [DecidableEq α]

theorem le_of_mem_tabove (t : Tab α) : ∀ a, tabove d a t → ∀ e ∈ t, a ≤ e.1 := by
  induction t with
  | nil => exact fun _ _ e he => absurd he List.not_mem_nil
  | cons x t ih =>
    rintro a ⟨hk, -, ht⟩ e he
    obtain rfl | he := List.mem_cons.mp he
    · exact hk
    · have := ih _ ht e he
      omega

theorem twalk_eq_map (n : Nat) : ∀ (t : Tab α) (a : Nat), tabove d a t → twalk d t a n = (List.range' a n).map (tget d t) := by
  induction n with
  | zero => intro t a _; cases t <;> rfl
  | succ n ih =>
    intro t a h
    rw [List.range'_succ, List.map_cons]
    match t, h with
    | [], _ => rw [twalk, ih [] (a + 1) trivial]; rfl
    | (k, v) :: t, ⟨hk, hv, ht⟩ =>
      rw [twalk]
      split
      · next heq =>
        subst heq
        rw [ih t (k + 1) ht]
        congr 1
        · exact (tget_cons_same d k v t).symm
        · refine List.map_congr_left fun i hi => (tget_cons_other d k v t i ?_).symm
          have := (List.mem_range'_1.mp hi).1
          omega
      · next hne =>
        have habove : tabove d (a + 1) ((k, v) :: t) := ⟨by omega, hv, ht⟩
        rw [ih _ (a + 1) habove, tget_default d _ a fun e he => ?_]
        have := le_of_mem_tabove d _ _ habove e he
        omega

/-- In a table in canonical form a span is the contents of its indices. -/
theorem tspan_eq_map (t : Tab α) (a n : Nat) (h : twf d t = true) : tspan d t a n = (List.range' a n).map (tget d t) := by
  have hall : ∀ (t : Tab α) (lo : Nat), tabove d lo t → tspan d t a n = (List.range' a n).map (tget d t) := by
    intro t
    induction t with
    | nil => exact fun _ _ => twalk_eq_map d n [] a trivial
    | cons x t ih =>
      obtain ⟨k, v⟩ := x
      rintro lo ⟨hlo, hv, ht⟩
      by_cases hk : k < a
      · have hdrop : tspan d ((k, v) :: t) a n = tspan d t a n := by
          rw [tspan, tspan, List.dropWhile_cons_of_pos (by simpa using hk)]
        rw [hdrop, ih _ ht]
        refine List.map_congr_left fun i hi => (tget_cons_other d k v t i ?_).symm
        have := (List.mem_range'_1.mp hi).1
        omega
      · rw [tspan, List.dropWhile_cons_of_neg (by simpa using hk)]
        exact twalk_eq_map d n _ a ⟨Nat.not_lt.mp hk, hv, ht⟩
  exact hall t 0 ((twf_iff_tabove d t).mp h)

/-- A write leaves every span apart from its own. -/
theorem tspan_tputs_apart (t : Tab α) (a b n : Nat) (vs : List α) (h : twf d t = true) (hap : b + n ≤ a ∨ a + vs.length ≤ b) :
    tspan d (tputs d t a vs) b n = tspan d t b n := by
  rw [tspan_eq_map d _ b n (twf_tputs d t a vs h), tspan_eq_map d t b n h]
  refine List.map_congr_left fun i hi => tget_tputs_outside d t a i vs ?_
  have := List.mem_range'_1.mp hi
  omega

end

/-! ### HBM lines (R178, R182) -/

theorem slice_whole (bs : Bytes) : slice bs 0 bs.length = bs := by simp [slice]

section
variable (k line : Nat) (bs : Bytes) (d : Dev)

theorem lineData_putLine_same (h : bs.length = 64) : lineData (putLine k line bs d) k line = bs := by
  have hspan := tspan_tputs 0 d.mem (k * 2 ^ 36 + 64 * line) bs
  rwa [h] at hspan

theorem lineCheck_putLine_same : lineCheck (putLine k line bs d) k line = checkBytes bs := by
  have hspan := tspan_tputs 0 d.hbm.check (4 * (k * 2 ^ 30 + line)) (checkBytes bs)
  rwa [length_checkBytes] at hspan

theorem ctl_putLine (j : Nat) : (putLine k line bs d).ctl j = d.ctl j := rfl

/-- Two lines of the device share no byte. -/
theorem lines_apart {j m : Nat} (hm : m < 2 ^ 30) (hline : line < 2 ^ 30) (hne : (j, m) ≠ (k, line)) :
    j * 2 ^ 30 + m < k * 2 ^ 30 + line ∨ k * 2 ^ 30 + line < j * 2 ^ 30 + m := by
  rcases Nat.lt_trichotomy j k with h | rfl | h
  · omega
  · have : m ≠ line := fun h => hne (h ▸ rfl)
    omega
  · omega

/-- Storing a line leaves the bytes and the check bytes of every other line. -/
theorem line_putLine_other (j m : Nat) (hmem : twf 0 d.mem = true) (hcheck : twf 0 d.hbm.check = true) (h : bs.length = 64)
    (hm : m < 2 ^ 30) (hline : line < 2 ^ 30) (hne : (j, m) ≠ (k, line)) :
    lineData (putLine k line bs d) j m = lineData d j m ∧ lineCheck (putLine k line bs d) j m = lineCheck d j m := by
  have hap := lines_apart k line hm hline hne
  have hlen := length_checkBytes bs
  exact ⟨tspan_tputs_apart 0 d.mem (k * 2 ^ 36 + 64 * line) (j * 2 ^ 36 + 64 * m) 64 bs hmem (by omega),
    tspan_tputs_apart 0 d.hbm.check (4 * (k * 2 ^ 30 + line)) (4 * (j * 2 ^ 30 + m)) 4 (checkBytes bs) hcheck (by omega)⟩

/-- A line without waiting entries is retired by leaving the merge buffer as it stands. -/
theorem retireLine_none (h : ((d.ctl k).merge.filter fun e => e.line = line) = []) :
    retireLine k line d = d.modCtl k fun c => { c with merge := c.merge.filter fun e => e.line ≠ line } := by
  rw [retireLine, h, List.foldl_nil]

/-- A clean line reads as it is stored. -/
theorem readLine_clean (source : Nat) (op : Word) (writeBack : Bool) (h : classify (syndromes (lineCheck d k line) (lineData d k line)) = .clean) :
    (readLine k line source op writeBack d).1 = { data := lineData d k line, poison := false, outcome := .clean } := by
  simp only [readLine, h]

theorem ctl_modCtl_same (f : HbmCtl → HbmCtl) (h : twf ({} : HbmCtl) d.hbm.ctl = true) : (d.modCtl k f).ctl k = f (d.ctl k) :=
  tget_tset_same_of_twf ({} : HbmCtl) d.hbm.ctl k _ h

/-- A line that is stored good and waits for no merge reads back whole. -/
theorem hbmRead_clean (off : Nat) (op : Word) (hoff : off % 64 = 0) (hfailed : (d.ctl k).failed = false)
    (hmerge : ((d.ctl k).merge.filter fun e => e.line = off / 64) = [])
    (hclean : classify (syndromes (lineCheck d k (off / 64)) (lineData d k (off / 64))) = .clean) :
    (hbmRead k off 64 op d).1 = (slice (lineData d k (off / 64)) 0 64, false) := by
  simp only [hbmRead, hfailed, readLine_clean k _ d 0 op true hclean, hmerge, hoff]
  rfl

end

/-- Settles O25: the write stores a code word, which reads clean, and two lines share no byte. -/
theorem hbmLineReadBack : Obligations.HbmLineReadBack := by
  intro k off bs lock op d e _ hoff halign hlen hmem hcheck hctl hup hmerge he
  have hnone : ((d.ctl k).merge.filter fun e => e.line = off / 64) = [] := List.filter_eq_nil_iff.mpr fun x hx => by
    simpa using List.all_eq_true.mp hmerge x hx
  have hwrite : e = putLine k (off / 64) bs (retireLine k (off / 64) d) := by
    rw [← he]
    simp [hbmWrite, hup, hlen]
  rw [retireLine_none k _ d hnone] at hwrite
  have hafter : e.ctl k = { d.ctl k with merge := (d.ctl k).merge.filter fun e => e.line ≠ off / 64 } := by
    rw [hwrite, ctl_putLine, ctl_modCtl_same k d _ hctl]
  have hdata : lineData e k (off / 64) = bs := hwrite ▸ lineData_putLine_same k _ bs _ hlen
  refine ⟨?_, fun j m _ hm hne => ?_⟩
  · rw [hbmRead_clean k e off op halign (by rw [hafter]; exact hup) (by rw [hafter]; simp [List.filter_filter]), hdata, ← hlen, slice_whole]
    rw [hdata, hwrite, lineCheck_putLine_same]
    exact classify_checkBytes bs
  · rw [hwrite]
    exact line_putLine_other k (off / 64) bs (d.modCtl k _) j m hmem hcheck hlen hm (by omega) hne

/-! ### The memory commands (R201) -/

section
variable (c : Cmd) (s : State)

theorem hbmStatus_answers (ctl : Nat) (h : Serves { i3c := true } c s) (hctl : ctl < 8) :
    Answers (.cmdHbmStatus c ctl) c s (ok [(s.dev.ctl ctl).logical.getD 0, b2n (s.dev.ctl ctl).logical.isSome, b2n (s.dev.ctl ctl).hot,
      planCount s.dev ctl 1, planCount s.dev ctl 2, (s.dev.ctl ctl).ceCount, (s.dev.ctl ctl).ueCount, (s.dev.ctl ctl).poisonMerge,
      b2n (s.dev.ctl ctl).failed, b2n (s.dev.ctl ctl).scrub.isSome, (s.dev.ctl ctl).merge.length, (s.dev.ctl ctl).mergePeak,
      (s.dev.ctl ctl).mergeHolds]) s.dev := by
  have hanswer := answers_query (.cmdHbmStatus c ctl) c _ s _ h rfl
  rwa [if_neg (Nat.not_le.mpr hctl)] at hanswer

theorem hbmCeLog_answers (ctl : Nat) (h : Serves { i3c := true } c s) (hctl : ctl < 8) :
    Answers (.cmdHbmCeLog c ctl) c s (ok ((List.range 32).flatMap fun i => match (s.dev.ctl ctl).log[i]? with
      | some e => [e.word, e.time.toNat]
      | none => [0, 0])) s.dev := by
  have hanswer := answers_query (.cmdHbmCeLog c ctl) c _ s _ h rfl
  rwa [if_neg (Nat.not_le.mpr hctl)] at hanswer

/-- CMD_HBM_SCRUB of whole 8 KiB units of the controller's own stack, while no scrub runs (R186). -/
theorem hbmScrub_answers (ctl L first end_ mode : Nat) (h : Serves { block := some 6 } c s) (hctl : ctl < 8)
    (hown : (s.dev.ctl ctl).logical = some L) (hmode : mode < 2) (hfirst : first % 8192 = 0) (hend : end_ % 8192 = 0) (hlt : first < end_)
    (hlo : first / 2 ^ 36 = L) (hhi : (end_ - 1) / 2 ^ 36 = L) (hup : (s.dev.ctl ctl).failed = false) (hidle : (s.dev.ctl ctl).scrub = none) :
    Answers (.cmdHbmScrub c ctl first end_ mode) c s (fail .accepted)
      (startScrub ctl (first % 2 ^ 36 / 8192) ((end_ - 1) % 2 ^ 36 / 8192) mode (some (c.src.val, c.seq)) s.dev) := by
  have hvalid : ¬ (8 ≤ ctl ∨ 2 ≤ mode ∨ first % 8192 ≠ 0 ∨ end_ % 8192 ≠ 0 ∨ end_ ≤ first ∨ first / 2 ^ 36 ≠ L ∨
      (end_ - 1) / 2 ^ 36 ≠ L ∨ (s.dev.ctl ctl).failed = true) := by
    rw [hup]
    simp only [hfirst, hend, hlo, hhi, ne_eq, not_true_eq_false, Bool.false_eq_true, or_false, false_or]
    omega
  refine answers_of_mailbox rfl h ?_
  simp only [hown, if_neg hvalid, hidle, Option.isSome_none, Bool.false_eq_true, if_false]

theorem hbmClear_answers (ctl : Nat) (h : Serves { block := some 6 } c s) (hctl : ctl < 8) :
    Answers (.cmdHbmClear c ctl) c s (ok []) (s.dev.modCtl ctl fun k => { k with
      ceCount := 0, ueCount := 0, poisonMerge := 0, log := [], mergePeak := k.merge.length }) :=
  answers_of_mailbox rfl h (if_neg (Nat.not_le.mpr hctl))

/-- CMD_HBM_CHECKER_TEST outside test mode (R188; log entry 20). -/
theorem hbmCheckerTest_answers (ctl : Nat) (h : Serves {} c s) (hctl : ctl < 8)
    (hmode : bit (s.dev.csrGet (hbmReg ctl 0x98)).toNat 10 = false) :
    Answers (.cmdHbmCheckerTest c ctl) c s (ok [b2n (checkerPasses && !(s.dev.ctl ctl).failed)]) (testEnd ctl s.dev) := by
  refine answers_of_mailbox rfl h ?_
  rw [if_neg (Nat.not_le.mpr hctl), hmode, if_neg Bool.false_ne_true]

theorem wharfStatus_answers (ch : Nat) (h : Serves { i3c := true } c s) (hch : ch < 12) :
    Answers (.cmdWharfStatus c ch) c s (ok [(s.dev.wharfCh ch).state, (s.dev.wharfCh ch).capacity, (s.dev.wharfCh ch).ceCount,
      (s.dev.wharfCh ch).ueCount, ((s.dev.wharfCh ch).ceLast.getD (0, 0)).1, ((s.dev.wharfCh ch).ceLast.getD (0, 0)).2,
      b2n (s.dev.wharfCh ch).ceLast.isSome]) s.dev := by
  have hanswer := answers_query (.cmdWharfStatus c ch) c _ s _ h rfl
  rwa [if_neg (Nat.not_le.mpr hch)] at hanswer

end

/-- Settles O31: command by command. -/
theorem memoryCommandsComplete : Obligations.MemoryCommandsComplete := by
  refine fun c s => ⟨?_, ?_, ?_, ?_, ?_⟩
  · exact fun ctl h hctl => ⟨hbmStatus_answers c s ctl h hctl, hbmCeLog_answers c s ctl h hctl⟩
  · exact hbmScrub_answers c s
  · exact hbmClear_answers c s
  · exact hbmCheckerTest_answers c s
  · exact wharfStatus_answers c s

/-! ### The root ports (R232–R236) -/

section
variable (p : Nat) (d : Dev)

/-- A read that a port's window translates waits in a chamber of the port (R234). -/
theorem portRequest_read (second : Bool) (a n tag : Nat) (x : Translated) (id : Nat) (e : Dev) (hup : (d.port p).up = true)
    (hmaster : (d.port p).busMaster = true) (ha : a < 2 ^ 47) (hx : throughTable (inboundTable d p) a n false = some x)
    (hspan : outsideSpan d false x.addr n = true) (hstack : inFailed d x.addr n = false)
    (harrive : lockArrive (portLock p second) x.inst (some (orderKey (2 + p) 0)) false (.read x.addr n 0) d = (.waits id, e)) :
    portRequest p second (.read a n tag) d = e.modHost fun h => { h with reads := h.reads ++
      [{ id := id, port := 2 + p, tag := tag, inst := x.inst, addr := a, length := n, route := readRoute d (portLock p second) x.addr }] } := by
  simp only [portRequest, hup, hmaster, if_neg (Nat.not_le.mpr ha), hx, hspan, hstack, harrive, Bool.true_eq_false, or_self, if_false,
    Bool.not_true, Bool.false_eq_true]

/-- So does a write; poison shows in the port's AER (R232). -/
theorem portRequest_write (second poison relaxed : Bool) (a : Nat) (bs : Bytes) (x : Translated) (id : Nat) (e : Dev)
    (hup : (d.port p).up = true) (hmaster : (d.port p).busMaster = true) (ha : a < 2 ^ 47)
    (hx : throughTable (inboundTable d p) a bs.length true = some x) (hspan : outsideSpan d false x.addr bs.length = true)
    (hstack : inFailed d x.addr bs.length = false)
    (harrive : lockArrive (portLock p second) x.inst (some (orderKey (2 + p) 0)) (relaxed && !x.strict)
      (.write x.addr bs poison 0) d = (.waits id, e)) :
    portRequest p second (.write a bs poison relaxed) d = if poison then portAer p aerPoison e else e := by
  simp only [portRequest, hup, hmaster, if_neg (Nat.not_le.mpr ha), hx, hspan, hstack, harrive, Bool.true_eq_false, or_self, if_false,
    Bool.not_true, Bool.false_eq_true]

/-- A completion timeout of a request whose function is still the one that issued it fails the work (R223, R247). -/
theorem completionTimeout_expired (port tag limit : Nat) (report : Tag → Dev → Dev) (t : Tag)
    (ht : ((portTags d port).find? fun t => t.tag = tag) = some t) (hlimit : limit ≠ 0) (hdue : t.since + limit ≤ d.uptime)
    (hgen : t.gen = ((freeTag port tag d).inst t.inst).gen) :
    completionTimeout port tag limit report d = failWork t.work (report t (freeTag port tag d)) := by
  have hexpired : ¬ (limit = 0 ∨ d.uptime < t.since + limit) := by omega
  simp only [completionTimeout, ht, if_neg hexpired, if_neg (not_not_intro hgen)]

end

theorem portLinkUp_gives (s : State) (hon : s.On) (p : Fin 12) (speed width : Nat) (hwidth : width ∈ (if p.val < 8 then [4, 8, 16] else [4]))
    (hlo : 1 ≤ speed) (hhi : speed ≤ 6) :
    Gives (.portLinkUp p speed width) s (driveLink p.val true (s.dev.modPort p.val fun x =>
      { x with up := true, speed := speed, width := width, flit := decide (speed = 6) })) :=
  gives_onDev rfl hon (if_pos ⟨List.contains_iff_mem.mpr hwidth, hlo, hhi⟩)

theorem portErrMessage_gives (s : State) (hon : s.On) (p : Fin 12) (severity : Fin 3) (requester : BitVec 16) :
    Gives (.portErrMessage p severity requester) s
      (post 0x0A02 (portUnit p.val) 0 (syn [(32, 1, p.val), (33, 1, severity.val), (34, 2, requester.toNat)])
        (s.dev.modPort p.val (aerMessage severity.val requester.toNat))) := by
  have hexec : exec (.portErrMessage p severity requester) s = execPortErrMessage p severity requester s := rfl
  rw [Gives, hexec, execPortErrMessage, onDev_on _ _ hon]

/-! ### DMA channels (R237–R246) -/

section
variable (c : Nat) (d : Dev)

/-- Changes of a channel that agree on what it is are one change. -/
theorem modDma_congr (f g : DmaCh → DmaCh) (h : f (d.dmaCh c) = g (d.dmaCh c)) : d.modDma c f = d.modDma c g := by
  have htab : tmod {} d.acc.ch c f = tmod {} d.acc.ch c g := congrArg (tset ({} : DmaCh) d.acc.ch c) h
  rw [Dev.modDma, Dev.modAcc, htab]
  rfl

/-- A disabled channel without a descriptor reaches state 4; its head and counts are free values (R245; log entry 5). -/
theorem dmaDisabled_idle (hdis : (d.dmaCh c).disabling = true) (hwork : (d.dmaCh c).work = none) :
    ∃ (e : Dev) (done : W32) (head bytes : Nat), dmaDisabled c d = e.modDma c (fun x => { x with
      state := 4, disabling := false, work := none, descDone := done, head := head, bytes := bytes }) ∧ e = { d with fresh := e.fresh } := by
  refine ⟨{ d with fresh := d.fresh + 3 }, Config.dmaUndefinedCount d.fresh,
    (Config.dmaUndefinedCount (d.fresh + 1)).toNat % 2 ^ (d.dmaCh c).n, 4096 * (Config.dmaUndefinedCount (d.fresh + 2)).toNat, ?_, rfl⟩
  simp only [dmaDisabled, hdis, hwork, Bool.true_eq_false, if_false]
  exact modDma_congr c { d with fresh := d.fresh + 3 } _ _ rfl

/-- A stopping channel without a descriptor reaches state 3 (R246). -/
theorem dmaStopped_idle (hstop : (d.dmaCh c).stopping = true) (hwork : (d.dmaCh c).work = none) :
    dmaStopped c d = d.modDma c fun x => { x with state := 3, stopping := false } := by
  simp only [dmaStopped, hstop, hwork, Bool.true_eq_false, if_false]

/-- A good descriptor with a source on PCI Express asks for its data (R238, R240). -/
theorem takeDescriptor_hostSource (bs : Bytes) (w : DmaWork) (hw : w = { parseDescriptor bs (d.dmaCh c).head with number := d.acc.nextWork })
    (hgood : descriptorStatus d (d.dmaCh c).inst bs w = 0) (hsrc : w.srcSpace ≠ 0) :
    takeDescriptor c bs false d = askReads c ((nextWork d).2.modDma c fun y => { y with fetched := none, work := some w }) := by
  subst hw
  exact (if_neg (not_not_intro hgood)).trans (if_neg hsrc)

/-- The channel takes the descriptor at its head as soon as it has it. -/
structure DmaStarts (x : DmaCh) : Prop where
  channel : x = d.dmaCh c
  running : x.state = 2
  idle : x.work = none
  due : x.head ≠ x.tail
  asked : x.fetching = none
  may : dmaMayRun d c = true

variable {c d} {x : DmaCh} (h : DmaStarts c d x)
include h

theorem DmaStarts.goes : ¬ ((d.dmaCh c).state ≠ 2 ∨ (d.dmaCh c).work.isSome ∨ (d.dmaCh c).head = (d.dmaCh c).tail ∨ dmaMayRun d c = false ∨
    (d.dmaCh c).fetching.isSome) := by
  obtain ⟨rfl, hrun, hidle, hdue, hasked, hmay⟩ := h
  simp [hrun, hidle, hdue, hasked, hmay]

/-- From a ring in device memory (R237). -/
theorem dmaStart_deviceRing (tag : Nat) (r : (Bytes × Bool) × Dev) (hring : x.ringSpace = 0)
    (hr : memRead 0 (x.ringBase + 64 * x.head) 64 d = r) : dmaStart c tag d = takeDescriptor c r.1.1 r.1.2 r.2 := by
  have hgoes := h.goes
  rw [h.channel] at hring hr
  simp only [dmaStart, if_neg hgoes, if_pos hring, hr]

/-- A descriptor in host memory is read first (R240). -/
theorem dmaStart_asks (tag : Nat) (e : Dev) (hring : x.ringSpace ≠ 0) (hfetched : x.fetched = none)
    (hissue : issueRead { port := homeOf d x.inst, tag := tag, inst := x.inst, addr := x.ringBase + 64 * x.head, length := 64,
                          work := .descriptor c d.acc.nextWork } (nextWork d).2 = some e) :
    dmaStart c tag d = e.modDma c fun y => { y with fetching := some d.acc.nextWork } := by
  have hgoes := h.goes
  rw [h.channel] at hring hfetched hissue
  simp only [dmaStart, if_neg hgoes, if_neg hring, hfetched]
  rw [show (nextWork d).1 = d.acc.nextWork from rfl, hissue]

/-- A descriptor that a read has returned is taken. -/
theorem dmaStart_hostSource (tag : Nat) (bs : Bytes) (w : DmaWork) (hring : x.ringSpace ≠ 0) (hfetched : x.fetched = some (some (bs, false)))
    (hw : w = { parseDescriptor bs x.head with number := d.acc.nextWork }) (hgood : descriptorStatus d x.inst bs w = 0) (hsrc : w.srcSpace ≠ 0) :
    dmaStart c tag d = askReads c ((nextWork d).2.modDma c fun y => { y with fetched := none, work := some w }) := by
  have hgoes := h.goes
  rw [h.channel] at hring hfetched hgood hw
  simp only [dmaStart, if_neg hgoes, if_neg hring, hfetched]
  exact takeDescriptor_hostSource c d bs w hw hgood hsrc

end

section
variable (c : Nat) (d : Dev) (w : DmaWork) (hwork : ((askFlush c (dmaFlushWaiting c d)).dmaCh c).work = some w)
  (hready : recordReady (askFlush c (dmaFlushWaiting c d)) c = true)
include hwork hready

/-- The half record (R243). -/
theorem dmaHalf_due (hdue : halfDue w = true) :
    dmaHalf c d = dmaRecord c w 0 ((askFlush c (dmaFlushWaiting c d)).modWork c fun w => { w with halfDone := true }) := by
  simp only [dmaHalf, hwork, if_pos (And.intro hdue hready)]

/-- The descriptor is done: visible as a whole, or failed and followed by its zero-length read (R243). -/
theorem dmaFull_due (hhalf : halfDue w = false) (hvisible : if w.ended then w.total ≤ w.covered else w.length ≤ w.visible) :
    dmaFull c d = dmaAdvance c (if w.irqFull ∨ w.status ≠ 0 then dmaRecord c w 1 (askFlush c (dmaFlushWaiting c d))
      else askFlush c (dmaFlushWaiting c d)) := by
  have hdone : (if w.ended then decide (w.covered < w.total) else decide (w.visible < w.length)) = false := by
    split at hvisible <;> simp [*]
  simp only [dmaFull, hwork, hhalf, hready, hdone]
  simp

end

/-! ### The commands of the ports and the channels (R249) -/

section
variable (c : Cmd) (s : State)

theorem portStatus_answers (p : Nat) (h : Serves { i3c := true } c s) (hp : p < 12) :
    Answers (.cmdPortStatus c p) c s
      (ok ([portLink s.dev p] ++ (List.range 6).map (tget 0 (s.dev.port p).bars) ++ [portCounts s.dev p])) s.dev := by
  have hanswer := answers_query (.cmdPortStatus c p) c _ s _ h rfl
  rwa [if_neg (Nat.not_le.mpr hp)] at hanswer

theorem accelWindowSet_answers (p entry : Nat) (v : BitVec 256) (h : Serves {} c s) (hp : p < 8) (hentry : entry < 64)
    (hform : badWindow true v = false) (hapart : overlaps (s.dev.port p).windows entry v = false)
    (hname : mayName c.src.val (Window.tag v) s.dev = true) :
    Answers (.cmdAccelWindowSet c p entry v) c s (ok [])
      (s.dev.modPort p fun x => { x with windows := tset 0 x.windows entry v, busMaster := true }) := by
  refine answers_of_mailbox rfl h ?_
  rw [if_neg (by omega), if_neg (by simp [hform, hapart, hname])]

theorem accelRangeSet_answers (p entry addr k inst : Nat) (h : Serves {} c s) (hp : p < 8) (hentry : entry < 16) (hlo : 12 ≤ k) (hhi : k ≤ 40)
    (hbase : 2 ^ 47 ≤ addr) (htop : addr + 2 ^ k ≤ 2 ^ 48) (hinst : inst < 1024) :
    Answers (.cmdAccelRangeSet c p entry addr (2 ^ k) inst) c s (ok [])
      (s.dev.modPort p fun x => { x with ranges := tset (0, 0, 0) x.ranges entry (addr, 2 ^ k, inst) }) := by
  have hmin : 2 ^ 12 ≤ 2 ^ k := Nat.pow_le_pow_right (by decide) hlo
  have hmax : 2 ^ k ≤ 2 ^ 40 := Nat.pow_le_pow_right (by decide) hhi
  refine answers_of_mailbox rfl h (if_neg ?_)
  rw [Nat.log2_two_pow]
  omega

theorem accelCfg_write_answers (p fn offset : Nat) (v answer : W32) (h : Serves {} c s) (hp : p < 8) (hfn : fn < 8) (hoff : offset < 4096)
    (halign : offset % 4 = 0) :
    Answers (.cmdAccelCfg c p fn offset true v answer) c s (ok []) (s.dev.emit (.portConfig p fn offset true v)) :=
  answers_of_mailbox rfl h (if_neg (by omega))

theorem accelCfg_read_answers (p fn offset : Nat) (v answer : W32) (h : Serves {} c s) (hp : p < 8) (hfn : fn < 8) (hoff : offset < 4096)
    (halign : offset % 4 = 0) (hup : (s.dev.port p).up = true) :
    Answers (.cmdAccelCfg c p fn offset false v answer) c s (ok [answer.toNat]) (s.dev.emit (.portConfig p fn offset false v)) := by
  refine answers_of_mailbox rfl h ?_
  rw [if_neg (by omega), if_neg Bool.false_ne_true, if_pos hup]

theorem dmaRingSet_answers (doorbell space base n completions ch : Nat) (h : Serves { vf := true, block := some 9 } c s)
    (hch : senderChannel c doorbell s.dev = some ch) (hspace : space < 2) (hlo : 4 ≤ n) (hhi : n ≤ 16) (hidle : (s.dev.dmaCh ch).state ≠ 2)
    (hdis : (s.dev.dmaCh ch).disabling = false) (hstop : (s.dev.dmaCh ch).stopping = false) :
    Answers (.cmdDmaRingSet c doorbell space base n completions) c s (ok []) (s.dev.modDma ch fun x =>
      { x with ringSpace := space, ringBase := base, n := n, complBase := completions, head := 0, tail := 0, records := 0 }) := by
  refine answers_of_mailbox rfl h ?_
  simp only [hch]
  rw [if_neg (by omega), if_neg (by simp [hidle, hdis, hstop])]

theorem dmaStatus_answers (doorbell ch : Nat) (h : Serves { vf := true, i3c := true } c s) (hch : senderChannel c doorbell s.dev = some ch) :
    Answers (.cmdDmaStatus c doorbell) c s (ok [(s.dev.dmaCh ch).state, (s.dev.dmaCh ch).head, (s.dev.dmaCh ch).tail,
      (s.dev.dmaCh ch).descDone.toNat, (s.dev.dmaCh ch).bytes / 4096 % 2 ^ 32]) s.dev := by
  have hanswer := answers_query (.cmdDmaStatus c doorbell) c _ s _ h rfl
  simpa only [hch] using hanswer

end

/-- Settles O41: event by event and command by command. -/
theorem portAndDmaComplete : Obligations.PortAndDmaComplete := by
  refine ⟨fun s hon => ⟨?_, ?_, ?_, ?_, ?_, ?_, ?_, ?_, ?_, ?_, ?_⟩, fun c s => ⟨?_, ?_, ?_, ?_, ?_, ?_⟩⟩
  · exact fun p second a n tag x id d hup hmaster ha hx hspan hstack harrive =>
      gives_onDev rfl hon (portRequest_read p.val s.dev second a n tag x id d hup hmaster ha hx hspan hstack harrive)
  · exact fun p second poison relaxed a bs x id d hup hmaster ha hx hspan hstack harrive =>
      gives_onDev rfl hon (portRequest_write p.val s.dev second poison relaxed a bs x id d hup hmaster ha hx hspan hstack harrive)
  · exact fun p hlocked => gives_onDev rfl hon (if_pos hlocked)
  · exact fun p hup => gives_onDev rfl hon (if_pos hup)
  · exact portLinkUp_gives s hon
  · exact portErrMessage_gives s hon
  · exact fun p tag t ht hdue hgen =>
      gives_onDev rfl hon (completionTimeout_expired s.dev (2 + p.val) tag 50000000 _ t ht (by decide) hdue hgen)
  · intro ch hdis hwork
    obtain ⟨d, done, head, bytes, hgives, hd⟩ := dmaDisabled_idle ch.val s.dev hdis hwork
    exact ⟨d, done, head, bytes, gives_onDev rfl hon hgives, hd⟩
  · exact fun ch hstop hwork => gives_onDev rfl hon (dmaStopped_idle ch.val s.dev hstop hwork)
  · intro ch tag x hx hrun hidle hdue hasked hmay
    have hstarts : DmaStarts ch.val s.dev x := ⟨hx, hrun, hidle, hdue, hasked, hmay⟩
    exact ⟨fun r hring hr => gives_onDev rfl hon (dmaStart_deviceRing hstarts tag.val r hring hr),
      fun d hring hfetched hissue => gives_onDev rfl hon (dmaStart_asks hstarts tag.val d hring hfetched hissue),
      fun bs w hring hfetched hw hgood hsrc =>
        gives_onDev rfl hon (dmaStart_hostSource hstarts tag.val bs w hring hfetched hw hgood hsrc)⟩
  · rintro ch w d rfl hwork hready
    exact ⟨fun hdue => gives_onDev rfl hon (dmaHalf_due ch.val s.dev w hwork hready hdue),
      fun hhalf hvisible => gives_onDev rfl hon (dmaFull_due ch.val s.dev w hwork hready hhalf hvisible)⟩
  · exact portStatus_answers c s
  · exact accelWindowSet_answers c s
  · exact accelRangeSet_answers c s
  · exact fun p fn offset v answer h hp hfn hoff halign => ⟨accelCfg_write_answers c s p fn offset v answer h hp hfn hoff halign,
      accelCfg_read_answers c s p fn offset v answer h hp hfn hoff halign⟩
  · exact dmaRingSet_answers c s
  · exact dmaStatus_answers c s

end Sys2Proof.Machine

/-! SUPPORT. The statements of the host endpoints, settled: completions and their generations, the hosts' accesses, resets and Bus
Master Enable, the commands of instances and windows, and the registers of the interface blocks that act. -/

namespace Sys2Proof.Machine

/-! ### Completions and their tags (R223, R225) -/

section
variable (d : Dev) (i : Nat)

theorem inst_modInst_same (f : Inst → Inst) (h : f (d.inst i) ≠ {}) : (d.modInst i f).inst i = f (d.inst i) :=
  tget_tmod_same ({} : Inst) d.host.inst i f h

theorem inst_modInst_other (f : Inst → Inst) (j : Nat) (h : j ≠ i) : (d.modInst i f).inst j = d.inst j :=
  tget_tmod_other ({} : Inst) d.host.inst i j f h

@[simp] theorem inst_freeTag (port tag : Nat) : (freeTag port tag d).inst i = d.inst i := rfl

/-- A tag that has been freed is found no more. -/
theorem find?_freeTag (port tag : Nat) :
    ((freeTag port tag d).host.tags.find? fun t => decide (t.port = port ∧ t.tag = tag)) = none := by
  refine List.find?_eq_none.mpr fun t ht => ?_
  have hkept : t.port ≠ port ∨ t.tag ≠ tag := of_decide_eq_true (List.mem_filter.mp ht).2
  rw [decide_eq_true_eq]
  exact fun ⟨hport, htag⟩ => hkept.elim (· hport) (· htag)

/-- A late completion advances both counts of the function that asked for it (R225). -/
theorem inst_discardLate_same : (discardLate i d).inst i =
    { d.inst i with late := satAdd (2 ^ 64 - 1) (d.inst i).late 1, lateTotal := satAdd (2 ^ 32 - 1) (d.inst i).lateTotal 1 } := by
  refine inst_modInst_same d i _ fun hdefault => ?_
  have hlate : satAdd (2 ^ 64 - 1) (d.inst i).late 1 = 0 := congrArg Inst.late hdefault
  rw [satAdd] at hlate
  omega

theorem inst_discardLate_other (j : Nat) (h : j ≠ i) : (discardLate i d).inst j = d.inst j := inst_modInst_other d i _ j h

variable (port tag : Nat) (data : Bytes) (t : Tag) (ht : (d.host.tags.find? fun t => decide (t.port = port ∧ t.tag = tag)) = some t)
include ht

/-- A completion of the current generation goes to the work that waits for it (R223). -/
theorem completionReceived_current (hgen : t.gen = (d.inst t.inst).gen) :
    completionReceived port tag data false d = giveWork t.work (inRequest t data) false (freeTag port tag d) := by
  simp only [completionReceived, ht, inst_freeTag, if_neg (not_not_intro hgen), Bool.false_eq_true, if_false]

/-- One of another generation is discarded (R225). -/
theorem completionReceived_late (poison : Bool) (hgen : t.gen ≠ (d.inst t.inst).gen) :
    completionReceived port tag data poison d = discardLate t.inst (freeTag port tag d) := by
  simp only [completionReceived, ht, inst_freeTag]
  exact if_pos hgen

end

/-- Settles O16: the completion frees its tag and is counted, and its data reaches nothing. -/
theorem lateCompletionDiscarded : Obligations.LateCompletionDiscarded := by
  intro port tag data poison t s hon ht hgen
  refine ⟨discardLate t.inst (freeTag port.val tag s.dev), ?_, ?_, ?_, ?_, fun i hi => ?_, rfl, rfl, rfl, rfl, rfl, rfl⟩
  · exact gives_onDev rfl hon (completionReceived_late s.dev port.val tag data t ht poison hgen)
  · exact find?_freeTag s.dev port.val tag
  · rw [inst_discardLate_same, inst_freeTag]
  · rw [inst_discardLate_same, inst_freeTag]
  · rw [inst_discardLate_other _ _ _ hi, inst_freeTag]

/-! ### The registers of the interface blocks that act (R231, R244, R250, R272, R292, R313, R330) -/

section
variable (r : Nat) (v : Vault) (t : Taken) (old : Nat) (d : Dev)

theorem regEffect_hostepWinData (h : t.denied = false) :
    regEffect r v { block := 8, unit := 0, off := 0x48 } .both t old d = writeWin t.word true d :=
  if_neg (by simp [h])

/-- ACCDMA_CH_CTRL.disable alone disables the selected channel (R250). -/
theorem regEffect_channelDisable (hhits : t.hits ≠ []) (hdisable : bit t.word 0 = true) (henable : bit t.word 1 = false) :
    regEffect r v { block := 9, unit := 0, off := 0x40 } .both t old d = dmaDisable (d.field 9 0x28 7 0) d :=
  (if_neg hhits).trans ((if_neg (by simp [henable])).trans (if_pos hdisable))

/-- Both fields of NETENG_QUEUE_SHAPER are stored for the next refill, and nothing is held of a write of one half (R272). -/
theorem regEffect_queueShaper (hrate : t.hit 0 = true) (hburst : t.hit 24 = true) :
    regEffect r v { block := 10, unit := 0, off := 0x40 } .both t old d =
      storeShaper (.queue (d.field 10 0x30 13 0)) (bits t.word 23 0) (bits t.word 47 24) (d.csrSet (blockBase 10 + 0x40) 0) := by
  have heffect : regEffect r v { block := 10, unit := 0, off := 0x40 } .both t old d = writeShaper t.word t .both d := rfl
  simp [heffect, writeShaper, hrate, hburst]

theorem regEffect_flowfair (hhit : t.hit 0 = true) :
    regEffect r v { block := 10, unit := 0, off := 0x48 } .both t old d =
      d.modNetPort (d.field 10 0x10 2 0) fun x => { x with flowFairDue := some (bit t.word 0) } :=
  if_pos hhit

theorem regEffect_connTimer (hhits : t.hits ≠ []) :
    regEffect r v { block := 11, unit := 0, off := 0x28 } .both t old d =
      d.modConn (d.field 11 0x10 15 0) fun c => { c with timerDue := some (bits t.word 9 0, bits t.word 13 10, bits t.word 20 14) } :=
  if_neg hhits

theorem regEffect_ppsCtrl (hhit : t.hit 0 = true) :
    regEffect r v { block := 12, unit := 0, off := 0x48 } .both t old d =
      (List.range 4).foldl (fun d o => setPps o (bits t.word (2 * o + 1) (2 * o)) d) d :=
  if_pos hhit

theorem regEffect_idleCtrl (hhits : t.hits ≠ []) :
    regEffect r v { block := 13, unit := 0, off := 0x38 } .both t old d =
      setIdle (d.field 13 0x28 1 0) (bits t.word 23 0) (bits t.word 55 32) d :=
  if_neg hhits

end

/-! ### The doorbells of DMA channels (R244) -/

section
variable (c : Nat) (v : Word) (d : Dev)

/-- The bits 62 and 63 of a doorbell value say what it asks for. -/
theorem dmaAsk_tail (henable : bit v.toNat 62 = false) (hdisable : bit v.toNat 63 = false) : dmaAsk v = .tail := by
  simp [dmaAsk, henable, hdisable]

theorem dmaAsk_enable (henable : bit v.toNat 62 = true) (hdisable : bit v.toNat 63 = false) : dmaAsk v = .enable := by
  simp [dmaAsk, henable, hdisable]

theorem dmaAsk_disable (henable : bit v.toNat 62 = false) (hdisable : bit v.toNat 63 = true) : dmaAsk v = .disable := by
  simp [dmaAsk, henable, hdisable]

variable (htail : v.toNat % 65536 < 2 ^ (d.dmaCh c).n)
include htail

theorem dmaDoorbell_tail (henable : bit v.toNat 62 = false) (hdisable : bit v.toNat 63 = false) :
    dmaDoorbell c v d = dmaTail c (v.toNat % 65536) d := by
  simp [dmaDoorbell, henable, hdisable, htail]

theorem dmaDoorbell_enable (henable : bit v.toNat 62 = true) (hdisable : bit v.toNat 63 = false) :
    dmaDoorbell c v d = dmaEnable c (v.toNat % 65536) d := by
  simp [dmaDoorbell, henable, hdisable, htail]

/-- A disable stores the tail first. -/
theorem dmaDoorbell_disable (henable : bit v.toNat 62 = false) (hdisable : bit v.toNat 63 = true) (hring : 0 < (d.dmaCh c).n)
    (hstate : (d.dmaCh c).state ≠ 0) :
    dmaDoorbell c v d = dmaDisable c (d.modDma c fun x => { x with tail := v.toNat % 65536 }) := by
  simp [dmaDoorbell, henable, hdisable, htail, hring.ne', hstate]

end

/-- A doorbell command rings its channel when the value asks for what the command names. -/
theorem dmaCommand_gives {ins : Instr} {ask : DmaAsk} {i : Fin 1024} {j c : Nat} {v : Word} {s : State} {e : Dev}
    (hexec : exec ins s = dmaCommand ask (.doorbell i j v) s) (hon : s.On) (hc : (s.dev.inst i.val).dma[j]? = some c)
    (hask : dmaAsk v = ask) (he : dmaDoorbell c v s.dev = e) : Gives ins s e := by
  rw [Gives, hexec, dmaCommand, onDev_on _ _ hon]
  simp only [hc, if_pos hask, he]

/-- Settles O52: each write that is taken has its register's effect, each doorbell that of its channel. -/
theorem interfaceRegistersComplete : Obligations.InterfaceRegistersComplete := by
  intro w s t
  refine ⟨fun h@⟨_, _, hdenied, _⟩ => ?_, fun hon => ?_, fun i j c v hon hc hring htail =>
      ⟨fun hen hdis => ?_, fun hen hdis => ?_, fun hen hdis hstate => ?_⟩, fun h hhits hdis hen => ?_, fun h hrate hburst => ?_, fun h hhit => ?_, fun h hhits => ?_, fun h hhit => ?_, fun hon => ?_,
    fun h hhits => ?_⟩
  · exact regAccess_gives rfl ⟨rfl, rfl, rfl, rfl, rfl⟩ h (regEffect_hostepWinData _ _ _ _ _ hdenied)
  · exact regAccess_read_gives rfl (p := { block := 8, unit := 0, off := 0x48 }) ⟨rfl, rfl, rfl, rfl, rfl⟩ rfl hon rfl
  · exact dmaCommand_gives rfl hon hc (dmaAsk_tail v hen hdis) (dmaDoorbell_tail c v s.dev htail hen hdis)
  · exact dmaCommand_gives rfl hon hc (dmaAsk_enable v hen hdis) (dmaDoorbell_enable c v s.dev htail hen hdis)
  · exact dmaCommand_gives rfl hon hc (dmaAsk_disable v hen hdis) (dmaDoorbell_disable c v s.dev htail hen hdis hring hstate)
  · exact regCommand_gives rfl ⟨rfl, rfl, rfl, rfl, rfl⟩ h (regEffect_channelDisable _ _ _ _ _ hhits hdis hen)
  · exact regCommand_gives rfl ⟨rfl, rfl, rfl, rfl, rfl⟩ h (regEffect_queueShaper _ _ _ _ _ hrate hburst)
  · exact regCommand_gives rfl ⟨rfl, rfl, rfl, rfl, rfl⟩ h (regEffect_flowfair _ _ _ _ _ hhit)
  · exact regCommand_gives rfl ⟨rfl, rfl, rfl, rfl, rfl⟩ h (regEffect_connTimer _ _ _ _ _ hhits)
  · exact regCommand_gives rfl ⟨rfl, rfl, rfl, rfl, rfl⟩ h (regEffect_ppsCtrl _ _ _ _ _ hhit)
  · exact regAccess_read_gives rfl (p := { block := 12, unit := 0, off := 0x30 }) ⟨rfl, rfl, rfl, rfl, rfl⟩ rfl hon rfl
  · exact regCommand_gives rfl ⟨rfl, rfl, rfl, rfl, rfl⟩ h (regEffect_idleCtrl _ _ _ _ _ hhits)

/-! ### The hosts' accesses (R203, R214, R220, R221) -/

section
variable (f : HostFn) (v : Vault) (d : Dev) (i : Nat) (hup : (d.ep f.ep.val).up = true) (hreq : requester d f = some i)

section
variable (bar : Bar) (off n tag : Nat) (relaxed second : Bool) (hlo : 0 < n) (hhi : n ≤ 4096)
include hup hlo hhi

/-- An AtomicOp is refused, whatever it reads (R203). -/
theorem hostRead_atomic : hostRead f bar off n tag relaxed second .atomic v d = refuseHost f (some (tag, relaxed)) d := by
  simp [hostRead, strangeTlp, hup, hlo.ne', hhi.not_gt]

include hreq

theorem hostRead_outside (hout : barSize f bar < off + n) :
    hostRead f bar off n tag relaxed second .plain v d = refuseHost f (some (tag, relaxed)) d := by
  simp [hostRead, strangeTlp, hup, hlo.ne', hhi.not_gt, hreq, hout]

theorem hostRead_bar2 (hin : off + n ≤ barSize f .bar2) :
    hostRead f .bar2 off n tag relaxed second .plain v d = windowRead f off n tag relaxed second v d := by
  simp [hostRead, strangeTlp, hup, hlo.ne', hhi.not_gt, hreq, hin.not_gt]

/-- A physical function's BAR0 is the register space, read once no earlier write of the function is on its way (R204, R220). -/
theorem hostRead_registers (hin : off + n ≤ barSize f .bar0) (hfirst : behindWrite d f = false) (hpf : f.vf = 0) :
    hostRead f .bar0 off n tag relaxed second .plain v d =
      completeBytes { port := f.ep.val, tag := tag, inst := i, addr := off, length := n, relaxed := relaxed } off
        (fit n (leBytes 8 (regRead off n v d).1.toNat)) [] (regRead off n v d).2 := by
  simp [hostRead, strangeTlp, hup, hlo.ne', hhi.not_gt, hreq, hin.not_gt, hfirst, hpf]

end

section
variable (bar : Bar) (off : Nat) (bs : Bytes) (relaxed poison second : Bool) (hbs : bs ≠ [])
include hup hbs

/-- A prefixed write is refused, whatever it writes (R203). -/
theorem hostWrite_prefixed : hostWrite f bar off bs relaxed poison second .prefixed v d = refuseHost f none d := by
  simp [hostWrite, strangeTlp, hup, hbs]

include hreq

theorem hostWrite_bar2 (hin : off + bs.length ≤ barSize f .bar2) :
    hostWrite f .bar2 off bs relaxed poison second .plain v d = windowWrite f off bs relaxed poison second v d := by
  simp [hostWrite, strangeTlp, hup, hbs, hreq, hin.not_gt]

theorem hostWrite_registers (hin : off + bs.length ≤ barSize f .bar0) (hfirst : behindWrite d f = false) (hpf : f.vf = 0) :
    hostWrite f .bar0 off bs relaxed false second .plain v d =
      regWrite (f.ep.val + 1) off bs.length (BitVec.ofNat 64 (leNat bs)) v d := by
  simp [hostWrite, strangeTlp, hup, hbs, hreq, hin.not_gt, hfirst, hpf]

end

end

/-! ### Host reads answered (R176, R221) -/

section
variable (l : Nat) (x : Delivery) (rest : List Delivery) (r u : HostRead) (d d' e : Dev)
  (hinbox : tget [] d.canal.inbox (unitKey (lockRouter l) (l % 64)) = x :: rest)
  (htaken : d' = { d with canal := { d.canal with inbox := tset [] d.canal.inbox (unitKey (lockRouter l) (l % 64)) rest } })
  (hread : (d'.host.reads.find? fun r => decide (some r.port = portOfLock l ∧ r.route = x.barge.route.toNat)) = some r)
  (hsend : sendCompletions r (x.barge.valid.take (r.length - r.sent - r.held.length)) (decide (x.barge.kind = 2)) d' = (u, e))
include hinbox htaken hread hsend

/-- The barge's data has completed its read, which is over. -/
theorem hostReadCompletion_last (hdone : r.length ≤ u.sent) :
    hostReadCompletion l d = e.modHost fun h => { h with reads := h.reads.filter fun q => q.id ≠ r.id } := by
  subst htaken
  simp only [hostReadCompletion, hinbox, hread, hsend, if_pos hdone]

/-- The read waits for more. -/
theorem hostReadCompletion_more (hmore : u.sent < r.length) :
    hostReadCompletion l d = e.modHost fun h => { h with reads := h.reads.map fun q => if q.id = r.id then u else q } := by
  subst htaken
  simp only [hostReadCompletion, hinbox, hread, hsend, if_neg (Nat.not_le.mpr hmore)]

end

/-! ### What the reset of its queues and the return of its resources leave of an owner (R216, R226) -/

/-- Where a function stands in R214: its state, and the descriptor that declares it. -/
def Inst.standing (x : Inst) : Nat × Option InstDesc := (x.state, x.desc)

theorem standing_eq {x y : Inst} (h : x.standing = y.standing) : x.state = y.state ∧ x.desc = y.desc := Prod.mk.inj h

section
variable (i : Nat) (d : Dev)

/-- Changes that agree on what an entry holds are one change. -/
theorem modInst_congr (f g : Inst → Inst) (h : f (d.inst i) = g (d.inst i)) : d.modInst i f = d.modInst i g := by
  have htab : tmod {} d.host.inst i f = tmod {} d.host.inst i g := congrArg (tset ({} : Inst) d.host.inst i) h
  rw [Dev.modInst, Dev.modHost, htab]
  rfl

/-- A change of an entry that keeps its standing keeps every standing, unless it leaves the default, which the table does not list. -/
theorem standing_modInst (j : Nat) (f : Inst → Inst) (hkeeps : (f (d.inst j)).standing = (d.inst j).standing)
    (hdefault : f (d.inst j) ≠ {}) :
    ((d.modInst j f).inst i).standing = (d.inst i).standing := by
  obtain rfl | hij := eq_or_ne i j
  · rw [inst_modInst_same d i f hdefault, hkeeps]
  · rw [inst_modInst_other d j f i hij]

/-- What stands in a state other than 0 is not the default. -/
theorem ne_default_of_state {x y : Inst} (hkeeps : x.standing = y.standing) (hstate : y.state ≠ 0) : x ≠ {} := by
  rintro rfl
  exact hstate (standing_eq hkeeps).1.symm

@[simp] theorem standing_raiseMsix (j vector : Nat) : ((raiseMsix j vector d).inst i).standing = (d.inst i).standing := by
  unfold raiseMsix
  dsimp only
  split
  · rfl
  next henabled =>
    split
    · refine standing_modInst i d j _ rfl fun hdefault => henabled ?_
      simpa using congrArg Inst.msixEnable hdefault
    · rfl

/-- Standing is a part of the host endpoints' state. -/
theorem standing_of_host {d e : Dev} (h : e.host = d.host) : (e.inst i).standing = (d.inst i).standing := by
  simp only [Dev.inst, h]

@[simp] theorem standing_eventEntry (pf : Nat) (bs : Bytes) : ((eventEntry pf bs d).inst i).standing = (d.inst i).standing := by
  unfold eventEntry
  split
  · rfl
  next r _ =>
    have hreread : ((rereadHead pf r d).2.inst i).standing = (d.inst i).standing := standing_of_host i (rereadHead_host pf r d)
    dsimp only
    split
    · exact (standing_raiseMsix i _ pf _).trans hreread
    · exact hreread

@[simp] theorem standing_publish (r : ErrorRecord) : ((publish r d).inst i).standing = (d.inst i).standing := by
  unfold publish
  dsimp only
  rw [standing_of_host i (traceRecord_host 2 _ _), standing_eventEntry, standing_eventEntry]
  rfl

@[simp] theorem standing_coalesce (r : ErrorRecord) (count : Nat) : ((coalesce r count d).inst i).standing = (d.inst i).standing := by
  unfold coalesce
  split
  · rfl
  split
  · rfl
  dsimp only
  split
  · exact standing_publish i _ _
  · exact standing_of_host i (Dev.onLane_host _ _)

/-- Posting a record may leave a message pending for a physical function, and keeps every standing. -/
@[simp] theorem standing_post (cls : Nat) (unit : W32) (op : Word) (sy : Bytes) :
    ((post cls unit op sy d).inst i).standing = (d.inst i).standing := by
  unfold post postRecord
  dsimp only
  generalize mkRecord cls unit op sy d = r
  have hseen := foldl_seen_keeps (fun d => (d.inst i).standing) (fun _ _ _ _ => rfl) (seenBits r.cls.toNat).1 (unitIndex r.unit)
    (seenBits r.cls.toNat).2 d
  generalize (seenBits r.cls.toNat).2.foldl (fun d b => d.seen (seenBits r.cls.toNat).1 (unitIndex r.unit) b) d = e at hseen ⊢
  have hpublished := (standing_publish i e r).trans hseen
  have hforwarded (p : Bool) (x : Dev) (hx : (x.inst i).standing = (d.inst i).standing) :
      ((if p then coalesce r 0 x else x).inst i).standing = (d.inst i).standing := by
    split
    · exact (standing_coalesce i x r 0).trans hx
    · exact hx
  cases servingCore r.unit with
  | none => exact hforwarded _ _ hpublished
  | some k => exact hforwarded _ _ hpublished

@[simp] theorem standing_sendFrame (p q : Nat) (x : NetQueue) (f : EgressFrame) :
    ((sendFrame p q x f d).inst i).standing = (d.inst i).standing := by
  unfold sendFrame
  dsimp only
  have hposted (e : Dev) (sy : Bytes) :
      ((if f.poison then post 0x0B01 (netUnit p) 0 sy e else e).inst i).standing = (e.inst i).standing := by
    split
    · exact standing_post i e _ _ _ _
    · rfl
  split
  · exact hposted _ _
  · exact hposted _ _

@[simp] theorem standing_netUnbind (j : Nat) : ((netUnbind j d).inst i).standing = (d.inst i).standing := by
  refine foldl_keeps_part (fun d => (d.inst i).standing) _ (fun d e => ?_) _ d
  split
  · exact foldl_keeps_part (fun d => (d.inst i).standing) _ (fun d f => standing_sendFrame i d _ _ _ f) _ d
  · rfl

/-- Channels, storage queues and send queues are no part of the host endpoints' state. -/
theorem host_foldl_modQueues (chs qs txs : List Nat) (f : DmaCh → DmaCh) (g : StorQ → StorQ) (h : SendQ → SendQ) :
    (txs.foldl (fun d q => d.modSendQ q h) (qs.foldl (fun d q => d.modStorQ q g) (chs.foldl (fun d c => d.modDma c f) d))).host = d.host := by
  rw [foldl_keeps_part Dev.host _ (by intro d q; rfl) txs, foldl_keeps_part Dev.host _ (by intro d q; rfl) qs,
    foldl_keeps_part Dev.host _ (by intro d c; rfl) chs]

variable (hstate : (d.inst i).state ≠ 0)
include hstate

/-- The reset of its queues leaves a function where it stands. -/
theorem standing_resetQueues : ((resetQueues i d).inst i).standing = (d.inst i).standing := by
  unfold resetQueues
  dsimp only
  have hunbound := (standing_netUnbind i _ i).trans
    (standing_of_host i (host_foldl_modQueues d (d.inst i).dma (d.inst i).storage (d.inst i).tx (fun _ => { state := 1, inst := i })
      (fun _ => {}) fun _ => {}))
  exact (standing_modInst i _ i _ rfl (ne_default_of_state hunbound hstate)).trans hunbound

/-- So does the return of its resources. -/
theorem standing_returnResources : ((returnResources i d).inst i).standing = (d.inst i).standing := by
  unfold returnResources
  dsimp only
  have hfreed := standing_of_host i (host_foldl_modQueues d (d.inst i).dma (d.inst i).storage (d.inst i).tx (fun _ => {}) (fun _ => {})
    fun _ => {})
  exact (standing_modInst i _ i _ rfl (ne_default_of_state hfreed hstate)).trans hfreed

end

/-! ### Resets and Bus Master Enable (R224–R228) -/

section
variable (v : Vault) (i : Nat) (d : Dev)

/-- Bus Master Enable falls outside an FLR: the generation advances and the function's requests stop (R224). -/
theorem busMasterOff_running (hbme : (d.inst i).bme = true) (hstate : (d.inst i).state ≠ 3) :
    busMasterOff v i d = stopRequests v i false (advanceGen i (d.modInst i fun x => { x with bme := false })) := by
  simp only [busMasterOff, if_pos hbme, if_neg hstate]

/-- A VF FLR of a created function begins (R226). -/
theorem vfFlr_created (hstate : (d.inst i).state = 2) :
    vfFlr v i d = startSluice none (some i) false (stopRequests v i true
      (advanceGen i (d.modInst i fun x => { x with state := 3, flr := true, bme := false, aerUnc := 0, aerCor := 0 }))) := if_pos hstate

/-- It ends once the function is quiet. -/
theorem vfFlrEnd_quiet (hstate : (d.inst i).state = 3) (hflr : (d.inst i).flr = true) (hquiet : quiet d i = true) :
    vfFlrEnd i d = (resetQueues i d).modInst i fun x => { x with state := 2, flr := false } := if_pos ⟨hstate, hflr, hquiet⟩

/-- A hot reset is a FLR of the endpoint's PF, with its record (R227). -/
theorem hostLinkDown_hot : hostLinkDown v i true d =
    post 0x0900 (unitBlock (4 + i) 8 i) 0 (syn [(32, 1, i), (33, 1, 1)]) (pfFlr v i (d.modEp i fun e => e)) := by
  simp only [hostLinkDown, b2n, if_true]

/-- So does a destruction; with no sender nobody is told (R216). -/
theorem endDestroy_quiet (hstate : (d.inst i).state = 3) (hflr : (d.inst i).flr = false) (hquiet : quiet d i = true)
    (hsender : (d.inst i).destroySender = none) :
    endDestroy i d = rehome i (some (d.inst i).homePf) (if (d.inst i).desc.isSome then some (d.inst i).homePf else none)
      ((returnResources i (resetQueues i d)).modInst i fun x =>
        { x with state := if (d.inst i).desc.isSome then 1 else 0, destroySender := none }) := by
  have hreset := standing_resetQueues i d (by omega)
  obtain ⟨hstill, -⟩ := standing_eq hreset
  have hreturned := standing_returnResources i (resetQueues i d) (by omega)
  obtain ⟨-, hdesc⟩ := standing_eq (hreturned.trans hreset)
  simp only [endDestroy, if_pos (And.intro hstate (And.intro hflr hquiet)), hsender]
  refine congrArg _ (modInst_congr i _ _ _ ?_)
  simp only [hdesc]

end

section
variable (s : State) (hon : s.On)
include hon

theorem configRequest_gives (f : HostFn) (r : CfgReq) : Gives (.configRequest f r) s (configRequest s.vault f r s.dev) :=
  gives_onDevV (f := fun v => configRequest v f r) rfl hon rfl

theorem configRequest_command_dormant_gives (f : HostFn) (hcfg : fnConfig s.dev f = none) :
    Gives (.configRequest f (.command true false)) s
      ((s.dev.modDormant f fun y => { y with mse := true, bme := false }).emit (.configCompletion f.ep.val f.vf.val 0)) := by
  have hgives := configRequest_gives s hon f (.command true false)
  simp only [configRequest, hcfg] at hgives
  exact hgives

theorem busMasterDisable_gives (f : HostFn) (i : Nat) (hcfg : fnConfig s.dev f = some i) (hbme : (s.dev.inst i).bme = true)
    (hstate : (s.dev.inst i).state ≠ 3) :
    Gives (.busMasterDisable f) s
      (stopRequests s.vault i false (advanceGen i (s.dev.modInst i fun x => { x with bme := false }))) := by
  have hexec : exec (.busMasterDisable f) s = execBusMasterDisable f s := rfl
  rw [Gives, hexec, execBusMasterDisable, onDevV_on _ _ hon]
  simp only [hcfg, busMasterOff_running s.vault i s.dev hbme hstate]

theorem busMasterEnable_gives (f : HostFn) (i : Nat) (hcfg : fnConfig s.dev f = some i) (hbme : (s.dev.inst i).bme = false) :
    Gives (.busMasterEnable f) s (flushMsix i (s.dev.modInst i fun x => { x with bme := true })) := by
  have hexec : exec (.busMasterEnable f) s = execBusMasterEnable f s := rfl
  rw [Gives, hexec, execBusMasterEnable, onDev_on _ _ hon]
  simp only [hcfg, hbme, Bool.false_eq_true, if_false]
  rfl

theorem vfFlr_gives (f : HostFn) (i : Nat) (hcfg : fnConfig s.dev f = some i) (hvf : 2 ≤ i) (hstate : (s.dev.inst i).state = 2) :
    Gives (.vfFlr f) s (startSluice none (some i) false (stopRequests s.vault i true
      (advanceGen i (s.dev.modInst i fun x => { x with state := 3, flr := true, bme := false, aerUnc := 0, aerCor := 0 })))) := by
  have hexec : exec (.vfFlr f) s = execVfFlr f s := rfl
  rw [Gives, hexec, execVfFlr, onDevV_on _ _ hon]
  simp only [hcfg, if_neg (Nat.not_lt.mpr hvf), vfFlr_created s.vault i s.dev hstate]

theorem vfEnableSet_gives (ep : Fin 2) (n : Nat) (hfull : s.Full) (hn : n ≤ 1022) :
    Gives (.vfEnableSet ep n) s (s.dev.modEp ep.val fun e => { e with vfEnable := true, numVfs := n }) := by
  have hready : ¬ (s.dev.power.state ≠ .full ∨ 1022 < n) := by
    rintro (hnot | hmany)
    · exact hnot hfull
    · omega
  have hexec : exec (.vfEnableSet ep n) s = execVfEnableSet ep n s := rfl
  rw [Gives, hexec, execVfEnableSet, onDev_on _ _ hon, if_neg hready]

/-- A hot reset leaves the link trained (R227). -/
theorem hotReset_gives (ep : Fin 2) :
    Gives (.hostLinkDown ep true) s (post 0x0900 (unitBlock (4 + ep.val) 8 ep.val) 0 (syn [(32, 1, ep.val), (33, 1, 1)])
      (pfFlr s.vault ep.val (s.dev.modEp ep.val fun e => e))) :=
  gives_onDevV (f := fun v => hostLinkDown v ep.val true) rfl hon (hostLinkDown_hot s.vault ep.val s.dev)

/-- PERST# resets the endpoint's PF, and the link trains with a speed and a width that it has (R427). -/
theorem endpointPerst_gives (ep : Fin 2) (speed width : Nat) (hlo : 1 ≤ speed) (hhi : speed ≤ 6) (hwidth : width ∈ [4, 8, 16]) :
    Gives (.endpointPerst ep speed width) s ((pfFlr s.vault ep.val s.dev).modEp ep.val fun e =>
      { e with up := true, speed := speed, width := width, flit := decide (speed = 6) }) := by
  have hgood : (decide (1 ≤ speed ∧ speed ≤ 6) && ([4, 8, 16] : List Nat).contains width) = true := by
    rw [decide_eq_true ⟨hlo, hhi⟩, List.contains_iff_mem.mpr hwidth]
    rfl
  have hexec : exec (.endpointPerst ep speed width) s = execEndpointPerst ep speed width s := rfl
  rw [Gives, hexec, execEndpointPerst, onDevV_on _ _ hon]
  simp only [hgood, if_true, Bool.true_and]

theorem windowSetComplete_gives (index : Nat) (w : WindowWait) (hw : s.dev.host.waits[index]? = some w)
    (hdrained : windowDrained s.dev w = true) :
    Gives (.windowSetComplete index) s (finishLater w.src 0x0903 w.sequence (ok [])
      (s.dev.modHost fun h => { h with waits := h.waits.eraseIdx index })) := by
  have hexec : exec (.windowSetComplete index) s = execWindowSetComplete index s := rfl
  rw [Gives, hexec, execWindowSetComplete, onDev_on _ _ hon]
  simp only [hw, if_pos hdrained]

end

/-! ### The commands of the instances and windows (R210, R211, R215, R216, R230) -/

section
variable (c : Cmd) (s : State)

/-- What is declared is created while its PF's VF Enable and NumVFs have its function (R215). -/
theorem instanceCreate_answers (i : Nat) (h : Serves { block := some 8, also := createBlocks } c s) (hlo : 2 ≤ i) (hhi : i < 1024)
    (hstate : (s.dev.inst i).state = 1) (hhome : (s.dev.inst i).homePf = actingPf c.src.val (some i) s.dev)
    (henable : (s.dev.ep (s.dev.inst i).homePf).vfEnable = true) (hnum : i ≤ (s.dev.ep (s.dev.inst i).homePf).numVfs + 1) :
    Answers (.cmdInstanceCreate c i) c s
      { status := .ok, result := words [i, ((create i s.dev).inst i).gen.toNat] ++ statusPage (create i s.dev) i } (create i s.dev) := by
  have hnamed : i ≠ 0xFFFF := by omega
  have hrange : ¬ (1024 ≤ i ∨ i < 2) := by omega
  have hfn : ¬ (s.dev.ep (s.dev.inst i).homePf).numVfs < i - 1 := by omega
  refine answers_of_mailbox rfl h ?_
  simp only [if_neg hnamed, if_neg hrange, hstate, ← hhome, henable, hfn, OfNat.one_ne_ofNat, ne_eq, not_true_eq_false, or_self,
    Bool.true_eq_false, if_false]

theorem instanceDestroy_answers (i : Nat) (h : Serves { block := some 8, also := destroyBlocks } c s) (hlo : 2 ≤ i) (hhi : i < 1024)
    (hstate : (s.dev.inst i).state = 2) (hmay : mayName c.src.val i s.dev = true) :
    Answers (.cmdInstanceDestroy c i) c s (fail .accepted) (beginDestroy s.vault i (some (c.src.val, c.seq)) s.dev) := by
  have hrange : ¬ (1024 ≤ i ∨ i < 2) := by omega
  have hexec : exec (.cmdInstanceDestroy c i) s = execCmdInstanceDestroy c i s := rfl
  refine answers_of_mailboxLater hexec h rfl ?_
  rw [if_neg hrange, if_neg (by simp [hstate]), if_neg (by simp [hstate, hmay])]

/-- A virtual function asks for its own status only (R230). -/
theorem instanceStatus_answers (i : Nat) (h : Serves { vf := true, i3c := true } c s) (hi : i < 1024)
    (hown : isVf c.src.val = true → i = c.src.val) :
    Answers (.cmdInstanceStatus c i) c s
      { status := .ok, result := words [instState s.dev i, (s.dev.inst i).gen.toNat] ++ statusPage s.dev i ++
          words [(s.dev.inst i).lateTotal, (s.dev.inst i).ur] } s.dev := by
  have hanswer := answers_query (.cmdInstanceStatus c i) c _ s _ h rfl
  rwa [if_neg (fun ⟨hvf, hother⟩ => hother (hown hvf)), if_neg (Nat.not_le.mpr hi)] at hanswer

/-- A window whose old entry is not valid is set at once (R211). -/
theorem windowSet_answers (sel : WinSel) (v : BitVec 256) (h : Serves { block := some 8 } c s)
    (hgood : windowRefused s.dev (windowPf c.src.val sel s.dev) sel v = none)
    (hold : Window.valid (windowAt s.dev (windowPf c.src.val sel s.dev) sel) = false) :
    Answers (.cmdWindowSet c sel v) c s (ok []) (setWindow (windowPf c.src.val sel s.dev) sel v s.dev) := by
  obtain ⟨hon, hguard, hfree⟩ := h
  have hset : windowSet c sel v s.dev = (some (ok []), setWindow (windowPf c.src.val sel s.dev) sel v s.dev) := by
    simp only [windowSet, hgood, hold, true_or, if_true]
  refine gives_onDev rfl hon ((mailboxLater_now c _ _ s.dev (ok []) hguard hfree ?_).trans ?_)
  · rw [hset]
  · rw [hset]

theorem windowRead_answers (n : Nat) (h : Serves { i3c := true } c s) (hn : n < 1024) :
    Answers (.cmdWindowRead c (.pf n)) c s
      { status := .ok, result := leBytes 32 (windowAt s.dev (windowPf c.src.val (.pf n) s.dev) (.pf n)).toNat } s.dev := by
  have hanswer := answers_query (.cmdWindowRead c (.pf n)) c _ s _ h rfl
  simpa [Nat.not_le.mpr hn] using hanswer

theorem hostStatus_answers (e : Nat) (h : Serves { i3c := true } c s) (he : e < 2) :
    Answers (.cmdHostStatus c e) c s
      (ok [b2n (s.dev.ep e).up, (s.dev.ep e).speed, (s.dev.ep e).width, b2n (s.dev.ep e).flit, b2n (s.dev.ep e).vfEnable,
        (s.dev.ep e).numVfs, (portTags s.dev e).length, (s.dev.inst e).lateTotal, (s.dev.inst e).ur]) s.dev := by
  have hanswer := answers_query (.cmdHostStatus c e) c _ s _ h rfl
  rwa [if_neg (Nat.not_le.mpr he)] at hanswer

end

/-- Settles O50: access by access, event by event and command by command. -/
theorem hostComplete : Obligations.HostComplete := by
  refine ⟨fun s hon => ⟨?_, ?_, ?_, ?_, ?_, ?_, ?_, ?_, ?_, ?_, ?_, ?_, ?_, ?_, ?_, ?_⟩, fun c s => ⟨?_, ?_, ?_, ?_, ?_, ?_⟩⟩
  · intro f bar off n tag i relaxed second hup hlo hhi hreq
    refine ⟨?_, ?_, fun hout => ?_, ?_⟩
    · rintro rfl hin hfirst hpf
      exact gives_onDevV rfl hon (hostRead_registers f s.vault s.dev i hup hreq off n tag relaxed second hlo hhi hin hfirst hpf)
    · rintro rfl hin
      exact gives_onDevV rfl hon (hostRead_bar2 f s.vault s.dev i hup hreq off n tag relaxed second hlo hhi hin)
    · exact gives_onDevV rfl hon (hostRead_outside f s.vault s.dev i hup hreq bar off n tag relaxed second hlo hhi hout)
    · exact gives_onDevV rfl hon (hostRead_atomic f s.vault s.dev hup bar off n tag relaxed second hlo hhi)
  · intro f off i bs relaxed poison second hup hbs hreq
    refine ⟨fun hin hfirst hpf => ?_, fun hin => ?_, fun bar => ?_⟩
    · exact gives_onDevV rfl hon (hostWrite_registers f s.vault s.dev i hup hreq off bs relaxed second hbs hin hfirst hpf)
    · exact gives_onDevV rfl hon (hostWrite_bar2 f s.vault s.dev i hup hreq off bs relaxed poison second hbs hin)
    · exact gives_onDevV rfl hon (hostWrite_prefixed f s.vault s.dev hup bar off bs relaxed poison second hbs)
  · exact fun l x rest r u d e hinbox htaken hread hsend =>
      ⟨fun hdone => gives_onDev rfl hon (hostReadCompletion_last l.val x rest r u s.dev d e hinbox htaken hread hsend hdone),
        fun hmore => gives_onDev rfl hon (hostReadCompletion_more l.val x rest r u s.dev d e hinbox htaken hread hsend hmore)⟩
  · exact fun f o x => ⟨configRequest_gives s hon f (.read o), configRequest_gives s hon f (.field x),
      configRequest_command_dormant_gives s hon f⟩
  · rintro port tag data t d ht rfl
    exact ⟨fun hgen => gives_onDev rfl hon (completionReceived_current s.dev port.val tag data t ht hgen),
      fun hgen poison => gives_onDev rfl hon (completionReceived_late s.dev port.val tag data t ht poison hgen)⟩
  · rintro ep tag t d ht hlimit hdue rfl hgen
    exact gives_onDev rfl hon (completionTimeout_expired s.dev ep.val tag _ _ t ht hlimit hdue hgen)
  · exact fun f i hcfg => ⟨busMasterDisable_gives s hon f i hcfg, busMasterEnable_gives s hon f i hcfg, vfFlr_gives s hon f i hcfg⟩
  · exact fun i hstate hflr hquiet => gives_onDev rfl hon (vfFlrEnd_quiet i.val s.dev hstate hflr hquiet)
  · exact fun ep => gives_onDevV (f := fun v => pfFlr v ep.val) rfl hon rfl
  · rintro ep d rfl
    exact gives_onDevV (f := fun v => vfEnableOff v ep.val) rfl hon rfl
  · exact vfEnableSet_gives s hon
  · exact hotReset_gives s hon
  · exact endpointPerst_gives s hon
  · exact fun i index hout => gives_onDev rfl hon (if_pos hout)
  · exact fun i hstate hflr hquiet hsender => gives_onDev rfl hon (endDestroy_quiet i.val s.dev hstate hflr hquiet hsender)
  · exact windowSetComplete_gives s hon
  · exact instanceCreate_answers c s
  · exact instanceDestroy_answers c s
  · exact fun i h hi hown => ⟨_, instanceStatus_answers c s i h hi hown, rfl, rfl⟩
  · exact windowSet_answers c s
  · exact windowRead_answers c s
  · exact hostStatus_answers c s

end Sys2Proof.Machine

/-! SUPPORT. The statement of the network engine, settled: what an engine's write leaves of the canal, the ports' events, and the
commands of the rule sets, the queues, the shapers and the sampler. -/

namespace Sys2Proof.Machine

/-! ### An HBM stack fails without a trace in the canal (R21, R185) -/

section
variable (d : Dev)

@[simp] theorem sendBcast_canal (l hops origin : Nat) (b : Bcast) : (sendBcast l hops origin b d).canal = d.canal := by
  unfold sendBcast
  split <;> rfl

@[simp] theorem broadcast_canal (b : Bcast) : (broadcast b d).canal = d.canal := by
  unfold broadcast
  split <;> simp

@[simp] theorem failLoad_canal (code sect off : Nat) : (failLoad code sect off d).canal = d.canal := by
  unfold failLoad
  dsimp only
  split <;> simp [apply_ite Dev.canal, reportRoot]

@[simp] theorem suspect_canal (cause band : Nat) : (suspect cause band d).canal = d.canal := by
  simp [suspect, apply_ite Dev.canal]

@[simp] theorem postPolicy_canal (cls : Nat) (unit : W32) (op : Word) (sy : Bytes) : (postPolicy cls unit op sy d).canal = d.canal := by
  simp [postPolicy, apply_ite Dev.canal]

@[simp] theorem endHolds_canal (p : Hold → Bool) : (endHolds p d).canal = d.canal :=
  foldl_keeps_part Dev.canal _ (fun d h => by simp [postHoldDerate, postDerate]) _ _

@[simp] theorem completeRead_canal (id : Nat) (status : CplStatus) (poison : Bool) : (completeRead id status poison d).canal = d.canal := by
  unfold completeRead completeBytes
  split
  · rfl
  · dsimp only
    split
    · exact foldl_keeps_part Dev.canal _ (by intro d p; rfl) _ _
    · rfl

@[simp] theorem completeFailed_canal (k : Nat) : (completeFailed k d).canal = d.canal := by
  unfold completeFailed
  rw [foldl_keeps_part Dev.canal _ (fun d r => completeRead_canal d _ _ _), endHolds_canal, Dev.modLocks_canal]

/-- Records posted one after another leave the canal as it was. -/
theorem foldl_post_canal {α : Type} (cls : Nat) (op : Word) (unit : Dev → α → W32) (sy : Dev → α → Bytes) (l : List α) :
    (l.foldl (fun d x => post cls (unit d x) op (sy d x) d) d).canal = d.canal :=
  foldl_keeps_part Dev.canal _ (fun d x => post_canal cls (unit d x) op (sy d x) d) l d

@[simp] theorem stackStorage_canal (L : Nat) : (stackStorage L d).canal = d.canal := by
  unfold stackStorage
  exact (foldl_post_canal _ _ _ _ _ _).trans (Dev.modStorage_canal d _)

@[simp] theorem dropBuffered_canal (k : Nat) : (dropBuffered k d).canal = d.canal := by
  unfold dropBuffered
  split
  · exact stackStorage_canal d _
  · rfl

@[simp] theorem endScrub_canal (k status : Nat) : (endScrub k status d).canal = d.canal := by
  unfold endScrub
  split
  · rfl
  · dsimp only
    split <;> simp

@[simp] theorem stackFail_canal (k cause : Nat) : (stackFail k cause d).canal = d.canal := by
  simp [stackFail, abortLoad, holdWork, apply_ite Dev.canal]

/-! ### An engine's write touches nothing of the canal (R180–R183, R388) -/

@[simp] theorem storeLine_canal (k line : Nat) (data check : Bytes) : (storeLine k line data check d).canal = d.canal := rfl
@[simp] theorem putLine_canal (k line : Nat) (data : Bytes) : (putLine k line data d).canal = d.canal := rfl
@[simp] theorem poisonLine_canal (k line : Nat) (data : Bytes) : (poisonLine k line data d).canal = d.canal := rfl

@[simp] theorem returnToken_canal (k : Nat) (lock : Option Nat) : (returnToken k lock d).canal = d.canal := by
  cases lock <;> rfl

@[simp] theorem countCe_canal (k line sym : Nat) (pat : Byte) : (countCe k line sym pat d).canal = d.canal := by
  simp [countCe, apply_ite Dev.canal]

@[simp] theorem detectUe_canal (k line source : Nat) (syndrome : Bytes) (op : Word) (data : Bytes) (writeBack : Bool) :
    (detectUe k line source syndrome op data writeBack d).canal = d.canal := by
  simp [detectUe, countUe, apply_ite Dev.canal]

@[simp] theorem readLine_canal (k line source : Nat) (op : Word) (writeBack : Bool) : (readLine k line source op writeBack d).2.canal = d.canal := by
  unfold readLine
  dsimp only
  split <;> simp [apply_ite Dev.canal]

@[simp] theorem retireEntry_canal (k : Nat) (e : MergeEntry) : (retireEntry k e d).canal = d.canal := by
  simp [retireEntry, apply_ite Dev.canal]

@[simp] theorem retireOldest_canal (k : Nat) : (retireOldest k d).canal = d.canal := by
  unfold retireOldest
  split <;> simp

@[simp] theorem retireLine_canal (k line : Nat) : (retireLine k line d).canal = d.canal :=
  foldl_keeps_part Dev.canal _ (fun d e => retireEntry_canal d k e) _ _

@[simp] theorem retireLock_canal (k l : Nat) : (retireLock k l d).canal = d.canal :=
  foldl_keeps_part Dev.canal _ (fun d (e : MergeEntry) => retireLine_canal d k e.line) _ _

@[simp] theorem hbmRead_canal (k off n : Nat) (op : Word) : (hbmRead k off n op d).2.canal = d.canal := by
  unfold hbmRead
  split <;> simp

@[simp] theorem hbmWrite_canal (k off : Nat) (bs : Bytes) (poison : Bool) (lock : Option Nat) (op : Word) :
    (hbmWrite k off bs poison lock op d).canal = d.canal := by
  simp [hbmWrite, mergeWrite, apply_ite Dev.canal]

@[simp] theorem wharfRead_canal (ch a n : Nat) (op : Word) : (wharfRead ch a n op d).2.canal = d.canal := by
  unfold wharfRead
  dsimp only
  split_ifs <;> simp [Dev.modWharfCh]

@[simp] theorem wharfWrite_canal (ch a : Nat) (bs : Bytes) (poison : Bool) (op : Word) : (wharfWrite ch a bs poison op d).canal = d.canal := by
  unfold wharfWrite
  dsimp only
  split_ifs <;> simp

@[simp] theorem demandAction_canal (a n : Nat) : (demandAction a n d).canal = d.canal := by
  unfold demandAction
  dsimp only
  split
  · exact foldl_keeps_part Dev.canal _ (by intro d m; rfl) _ _
  · rfl

@[simp] theorem tileFault_canal (cls n : Nat) (s : Option Nat) (pc : Nat) (op : Word) (halt : List Nat) (stamp : ErrorRecord → ErrorRecord) :
    (tileFault cls n s pc op halt d stamp).canal = d.canal := by
  simp [tileFault, postTile, apply_ite Dev.canal]

@[simp] theorem readSpans_canal (n : Nat) (s : Option Nat) (pc : Nat) (w : Word) (spans : List (Nat × Nat)) :
    (readSpans n s pc w spans d).canal = d.canal :=
  foldl_keeps_part Dev.canal _ (fun d r => by simp [apply_ite Dev.canal]) _ _

@[simp] theorem readPiece_canal (op : Word) (a n : Nat) : (readPiece op a n d).2.canal = d.canal := by
  unfold readPiece
  split <;> simp [basinRead]

@[simp] theorem writePiece_canal (a : Nat) (bs : Bytes) (poison : Bool) (lock : Option Nat) (op : Word) :
    (writePiece a bs poison lock op d).canal = d.canal := by
  unfold writePiece
  split <;> simp [basinWrite]

@[simp] theorem rawCopy_canal (src dst n : Nat) : (rawCopy src dst n d).canal = d.canal :=
  foldl_keeps_part Dev.canal _ (fun d p => by simp) _ _

@[simp] theorem fillChunk_canal (c : Nat) : (fillChunk c d).canal = d.canal := by simp [fillChunk]

@[simp] theorem stageChunk_getD_canal (c : Nat) : ((stageChunk c d).getD d).canal = d.canal := by
  unfold stageChunk
  split
  · rfl
  · split <;> simp

@[simp] theorem engineHold_canal (kind : HoldKind) (lock : Option Nat) : (engineHold kind lock d).canal = d.canal := by
  cases lock <;> rfl

@[simp] theorem settleChunk_canal (lock : Option Nat) (a n c : Nat) : (settleChunk lock a n d c).canal = d.canal := by
  simp [settleChunk, apply_ite Dev.canal]

@[simp] theorem markDirty_canal (a n : Nat) : (markDirty a n d).canal = d.canal :=
  foldl_keeps_part Dev.canal _ (fun d p => by split <;> rfl) _ _

@[simp] theorem enginePiece_canal (lock : Option Nat) (op : Word) (a : Nat) (bs : Bytes) (poison : Bool) :
    (enginePiece lock op a bs poison d).canal = d.canal := by
  unfold enginePiece
  split
  · split <;> simp [apply_ite Dev.canal]
  · exact writePiece_canal d a bs poison none op

/-- An engine's write goes past the canal: chunks are settled and marked, then its lines are written piece by piece. -/
@[simp] theorem engineWrite_canal (lock : Option Nat) (op : Word) (a : Nat) (bs : Bytes) (poison : Bool) :
    (engineWrite lock op a bs poison d).canal = d.canal := by
  have hsettled : (markDirty a bs.length ((spanChunks d a bs.length).foldl (settleChunk lock a bs.length) d)).canal = d.canal :=
    (markDirty_canal _ a bs.length).trans (foldl_keeps_part Dev.canal _ (fun d c => settleChunk_canal d lock a bs.length c) _ d)
  unfold engineWrite engineWriteBy
  refine List.foldlRecOn (motive := fun acc : Nat × Bytes × Dev => acc.2.2.canal = d.canal) _ _ ?_ fun acc hacc p _ =>
    (enginePiece_canal _ lock op _ _ poison).trans hacc
  cases lock <;> exact hsettled

end

/-! ### Frames received (R251–R260) -/

/-- A frame of a length in range and with a good FCS is charged to the parser of its port's half and classified by the half's active
rule set; `d` is the device whose parser has made its passes up to now, `e` the one that holds the frame. -/
structure GoodFrame (p : Nat) (frame f : Bytes) (rs : RuleSet) (s d e : Dev) : Prop where
  up : (s.netPort p).up = true
  long : 64 ≤ frame.length
  short : frame.length ≤ 9216
  body : f = frame.take (frame.length - 4)
  fcs : leBytes 4 (crc32 f).toNat = frame.drop (frame.length - 4)
  parsed : d = parserRun (p / 4) s
  rules : rs = (d.netHalf (p / 4)).active
  charged : e = d.modHalf (p / 4) (fun x => { x with parser := x.parser ++ [(p, frame.length, framePasses rs p f)] })

/-- What a verdict does with the frame (R256, R260). -/
def followVerdict (p : Nat) (f : Bytes) (d : Dev) : Verdict → Dev
  | .toQueue q rule hash second => toQueue p q rule hash second f d
  | .toTransport => toEngine p f (fun d => d.modTp fun t => { t with inbox := t.inbox ++ [(p / 4, f)] }) d
  | .toTime => toEngine p f (timeFrame p f) d
  | .drop => d.modNetPort p fun x => { x with ruleDrops := satAdd 255 x.ruleDrops 1 }
  | .recircLimit => d.modNetPort p fun x => { x with recircLimit := satAdd 255 x.recircLimit 1 }

section
variable {p : Nat} {frame f : Bytes} {rs : RuleSet} {s d e : Dev} (h : GoodFrame p frame f rs s d e)
include h

theorem GoodFrame.accepted : ¬ (frame.length < 64 ∨ 9216 < frame.length ∨
    leBytes 4 (crc32 (frame.take (frame.length - 4))).toNat ≠ frame.drop (frame.length - 4)) := by
  obtain ⟨-, hlong, hshort, rfl, hfcs, -, -, -⟩ := h
  exact not_or.mpr ⟨Nat.not_lt.mpr hlong, not_or.mpr ⟨Nat.not_lt.mpr hshort, not_not_intro hfcs⟩⟩

/-- A good frame is dropped where the parser's memory has no room for it (R259). -/
theorem frameReceive_parserFull (hfull : 262144 < parserBytes d p + frame.length) : frameReceive p frame s = rxDrop p d := by
  have hgood := h.accepted
  obtain ⟨hup, -, -, rfl, -, rfl, rfl, -⟩ := h
  unfold frameReceive
  dsimp only
  rw [if_neg (by simp [hup]), if_neg hgood, if_pos hfull]

/-- Otherwise it goes where its classification sends it. -/
theorem frameReceive_classified (hroom : parserBytes d p + frame.length ≤ 262144) :
    frameReceive p frame s = followVerdict p f e (classifyFrame rs p f) := by
  have hgood := h.accepted
  obtain ⟨hup, -, -, rfl, -, rfl, rfl, rfl⟩ := h
  unfold frameReceive
  dsimp only
  rw [if_neg (by simp [hup]), if_neg hgood, if_neg (Nat.not_lt.mpr hroom)]
  rfl

end

section
variable (d : Dev)

/-- A frame shorter than 64 bytes counts as one with a bad FCS (R251). -/
theorem frameReceive_short (p : Nat) (frame : Bytes) (hup : (d.netPort p).up = true) (hshort : frame.length < 64) :
    frameReceive p frame d = d.modNetPort p fun x => { x with fcsErrors := satAdd 65535 x.fcsErrors 1 } := by
  unfold frameReceive
  dsimp only
  rw [if_neg (by simp [hup]), if_pos (.inl hshort)]

/-- A transport frame reaches its half's inbox through an ETH lock that is open and has room (R82, R260). -/
theorem followVerdict_toTransport (p : Nat) (f : Bytes) (hopen : (d.lock (ethLock p)).closed = false)
    (hroom : (d.lock (ethLock p)).room f.length = true) :
    followVerdict p f d .toTransport = d.modTp fun t => { t with inbox := t.inbox ++ [(p / 4, f)] } :=
  if_neg (by simp [hopen, hroom])

/-! ### Records, transmissions, samples (R263, R264, R268) -/

theorem modQueue_congr (q : Nat) (f g : NetQueue → NetQueue) (h : f (d.netQueue q) = g (d.netQueue q)) : d.modQueue q f = d.modQueue q g := by
  have htab : tmod {} d.net.queues q f = tmod {} d.net.queues q g := congrArg (tset ({} : NetQueue) d.net.queues q) h
  rw [Dev.modQueue, Dev.modNet, htab]
  rfl

/-- The oldest frame's record is written once its data has been delivered; without a vector no message follows (R263). -/
theorem rxRecord_delivered (q : Nat) (r : RxPending) (rest : List RxPending) (e : Dev) (x : NetQueue) (he : e = dropLost q d)
    (hx : x = e.netQueue q) (hrx : x.rx = r :: rest) (hslot : tget 0 e.locks.delivered r.id ≠ 0)
    (hpassed : tget 0 e.locks.delivered r.id ≤ e.now + 1)
    (hcan : canWrite e (some (ethLock x.port)) (x.recordBase + 32 * (r.place % 2 ^ x.n)) 32 = true) (hvector : x.vector = 0xFFFF) :
    rxRecord q d = engineWrite (some (ethLock x.port)) 0 (x.recordBase + 32 * (r.place % 2 ^ x.n)) (rxBytes r (x.seq + 1)) false
      ((e.modLocks fun k => { k with delivered := tset 0 k.delivered r.id 0 }).modQueue q fun y => { y with rx := rest, seq := x.seq + 1 }) := by
  subst hx he
  have hready : ¬ (tget 0 (dropLost q d).locks.delivered r.id = 0 ∨
      (dropLost q d).now < tget 0 (dropLost q d).locks.delivered r.id - 1) := by omega
  simp only [rxRecord, hrx, if_neg hready, hcan, hvector, Bool.true_eq_false, if_false, if_true]
  exact congrArg _ (modQueue_congr _ q _ _ rfl)

/-- The frame at the front of the queue of the least tag leaves, and its nodes are charged (R264). -/
theorem transmit_leastTag (p i q : Nat) (t u : Word) (f : EgressFrame) (rest : List EgressFrame) (hup : (d.netPort p).up = true)
    (hpause : (d.netPort p).pauseRx = none) (hinst : leastTag (instTags d p) = some (i, t))
    (hqueue : leastTag (queueTags d p i) = some (q, u)) (hframes : (d.netQueue q).frames = f :: rest) :
    transmit p d = sendFrame p q (d.netQueue q) f (chargeQueue p i q f.cost (chargeInst p i f.cost
      (d.modQueue q fun x => { x with frames := rest, sentPeriod := satAdd (2 ^ 32 - 1) x.sentPeriod f.cost,
                                      maxDelay := min (2 ^ 32 - 1) (max x.maxDelay (d.uptime - f.since)) }))) := by
  have hsends : ¬ ((d.netPort p).up = false ∨ ((d.netPort p).pauseRx.any fun t => decide (d.uptime < t)) = true) := by simp [hup, hpause]
  simp only [transmit, if_neg hsends, hinst, hqueue, hframes]

/-- A sample's records leave the canal as it was. -/
theorem sampleQueue_canal (p base n period : Nat) (acc : Nat × Dev) (e : Nat × NetQueue) :
    (sampleQueue p base n period acc e).2.canal = acc.2.canal := by
  unfold sampleQueue
  dsimp only
  split
  · exact engineWrite_canal _ _ _ _ _ _
  · rfl

theorem foldl_sampleQueue_canal (p base n period : Nat) (qs : List (Nat × NetQueue)) (acc : Nat × Dev) :
    (qs.foldl (sampleQueue p base n period) acc).2.canal = acc.2.canal :=
  List.foldlRecOn (motive := fun r : Nat × Dev => r.2.canal = acc.2.canal) qs _ rfl fun r hr e _ =>
    (sampleQueue_canal p base n period r e).trans hr

/-- At the end of a sample period the records of the port's queues are written, and the next period begins (R268). -/
theorem netSample_due (p base n period written number : Nat)
    (hsample : (d.netPort p).sample = some (base, n, period, written, number)) (hdue : (d.netPort p).sampleDue ≤ d.canal.lockage)
    (hcan : canWrite d (some (ethLock p)) base (32 * 2 ^ n) = true) :
    ∃ (e : Dev) (w : Nat), netSample p d = e.modNetPort p fun x =>
      { x with sample := some (base, n, period, w, (number + 1) % 2 ^ 32), sampleDue := e.canal.lockage + period } := by
  refine ⟨((portQueues d p).foldl (sampleQueue p base n number) (written, d)).2,
    ((portQueues d p).foldl (sampleQueue p base n number) (written, d)).1, ?_⟩
  rw [foldl_sampleQueue_canal]
  simp only [netSample, hsample, if_neg (Nat.not_lt.mpr hdue), hcan, Bool.true_eq_false, if_false]

/-- A shadow rule set changes while no commit of its half is incomplete (R261). -/
theorem modShadow_open (half : Nat) (f : RuleSet → RuleSet) (hidle : (d.netHalf half).commit = none) :
    modShadow half f d = (ok [], d.modHalf half fun x => { x with shadow := f x.shadow }) :=
  if_neg (by simp [hidle])

end

section
variable (s : State) (hon : s.On)
include hon

theorem shaperRefill_gives (haligned : s.dev.canal.aligned = true) (hdwell : s.dev.canal.dwell = false)
    (hslot : s.dev.net.refillSlot ≠ s.dev.now / 256 + 1) :
    Gives .shaperRefill s (refillAll (s.dev.modNet fun n => { n with refillSlot := s.dev.now / 256 + 1 })) := by
  have hexec : exec .shaperRefill s = execShaperRefill s := rfl
  rw [Gives, hexec, execShaperRefill, onDev_on _ _ hon, if_neg (by simp [haligned, hdwell, hslot])]

theorem commitComplete_gives (half : Bool) (src : Nat) (seq : W32) (hcommit : (s.dev.netHalf (b2n half)).commit = some (src, seq)) :
    Gives (.commitComplete half) s (finishLater src 0x0B04 seq (ok [(s.dev.netHalf (b2n half)).version.toNat])
      (s.dev.modHalf (b2n half) fun x => { x with shadow := x.active, commit := none })) := by
  have hexec : exec (.commitComplete half) s = execCommitComplete half s := rfl
  rw [Gives, hexec, execCommitComplete, onDev_on _ _ hon]
  simp only [hcommit]

/-- PAUSE holds the port for its quanta (R251). -/
theorem pauseReceive_gives (p : Fin 8) (time : BitVec 16) (htime : time ≠ 0) :
    Gives (.pauseReceive p time) s
      (s.dev.modNetPort p.val fun x => { x with pauseRx := some (s.dev.uptime + (64 * time.toNat + 99) / 100) }) := by
  have hexec : exec (.pauseReceive p time) s = execPauseReceive p time s := rfl
  rw [Gives, hexec, execPauseReceive, onDev_on _ _ hon]
  simp only [if_neg htime]

theorem netLinkUp_gives (p : Fin 8) : Gives (.netLinkUp p) s (s.dev.modNetPort p.val fun x => { x with up := true, fecLock := true }) := by
  have hexec : exec (.netLinkUp p) s = execNetLinkUp p s := rfl
  rw [Gives, hexec, execNetLinkUp, onDev_on _ _ hon]

end

/-! ### The commands of the network engine (R254–R271) -/

section
variable (c : Cmd) (s : State)

theorem netPortStatus_answers (p : Nat) (h : Serves { i3c := true } c s) (hp : p < 8) : Answers (.cmdNetPortStatus c p) c s
    (ok [b2n (s.dev.netPort p).up, b2n (s.dev.netPort p).fecLock, b2n (s.dev.lock (ethLock p)).paused,
      b2n ((s.dev.netPort p).pauseRx.any fun t => decide (s.dev.uptime < t)), (s.dev.netPort p).rxDrops, (s.dev.netPort p).fcsErrors,
      (s.dev.netPort p).recircLimit, (s.dev.netPort p).ruleDrops]) s.dev := by
  have hanswer := answers_query (.cmdNetPortStatus c p) c _ s _ h rfl
  rwa [if_neg (Nat.not_le.mpr hp)] at hanswer

section
variable {c s} {half : Nat} (hhalf : half < 2) (hidle : (s.dev.netHalf half).commit = none)
include hhalf hidle

theorem netExtractSet_answers (profile entry : Nat) (v : W32) (h : Serves {} c s) (hprofile : profile < 4) (hentry : entry < 16)
    (hgood : badExtract (s.dev.netHalf half).shadow profile entry v = false) :
    Answers (.cmdNetExtractSet c half profile entry v) c s (ok []) (s.dev.modHalf half fun x =>
      { x with shadow := { x.shadow with extract := tset 0 x.shadow.extract (16 * profile + entry) v } }) :=
  answers_of_mailbox rfl h ((if_neg (by simp [hgood]; omega)).trans (modShadow_open s.dev half _ hidle))

theorem netRuleSet_answers (index : Nat) (rule : Bytes) (h : Serves {} c s) (hindex : index < 4100) (hgood : badRule index rule = false)
    (hkind : ruleKind rule ≠ 0) :
    Answers (.cmdNetRuleSet c half index rule) c s (ok []) (s.dev.modHalf half fun x =>
      { x with shadow := { x.shadow with rules := tput x.shadow.rules index rule } }) := by
  refine answers_of_mailbox rfl h ((if_neg (by simp [hgood]; omega)).trans ?_)
  simp only [modShadow_open s.dev half _ hidle, if_neg hkind]

theorem netIndirSet_answers (table first : Nat) (queues : List (BitVec 16)) (h : Serves {} c s) (htable : table < 64) (hsome : queues ≠ [])
    (hfit : first + queues.length ≤ 256) (hqueues : (queues.any fun q => decide (16384 ≤ q.toNat)) = false) :
    Answers (.cmdNetIndirSet c half table first queues) c s (ok []) (s.dev.modHalf half fun x =>
      { x with shadow := { x.shadow with indir := tputs 0 x.shadow.indir (256 * table + first) queues } }) :=
  answers_of_mailbox rfl h ((if_neg (by rw [hqueues]; simp [hsome]; omega)).trans (modShadow_open s.dev half _ hidle))

theorem netCommit_answers (h : Serves { block := some 10 } c s) :
    Answers (.cmdNetCommit c half) c s (fail .accepted) (s.dev.modHalf half fun x => { x with
      active := x.shadow, version := nextVersion x.version, commit := some (c.src.val, c.seq) }) := by
  have hexec : exec (.cmdNetCommit c half) s = execCmdNetCommit c half s := rfl
  refine answers_of_mailboxLater hexec h rfl ?_
  rw [if_neg (by omega), if_neg (by simp [hidle])]

end

section
variable {c s} {q i : Nat} (hq : q < 16384) (howner : queueOwner s.dev q = some i) (hname : mayName c.src.val i s.dev = true)
include hq howner hname

theorem netQueueSet_unbind_answers (h : Serves { vf := true, block := some 10 } c s) (hempty : (s.dev.netQueue q).frames = []) :
    Answers (.cmdNetQueueSet c q .unbind) c s (ok []) (s.dev.modQueue q fun _ => {}) := by
  refine answers_of_mailbox rfl h ?_
  simp [Nat.not_le.mpr hq, howner, hname, hempty]

theorem netQueueSet_bind_answers (h : Serves { vf := true, block := some 10 } c s) (hempty : (s.dev.netQueue q).frames = [])
    (x : NetQueue) (hgood : badQueue x = false) (hmapped : queueMapped s.dev i x = true)
    (hcapacity : ((portQueues s.dev x.port).filter fun e => e.1 ≠ q).length < 2048)
    (hx : x = { port := x.port, n := x.n, bufSize := x.bufSize, bufBase := x.bufBase, recordBase := x.recordBase, headWord := x.headWord,
                vector := x.vector, weight := x.weight }) :
    Answers (.cmdNetQueueSet c q (.bind x.port x.n x.bufSize x.bufBase x.recordBase x.headWord x.vector x.weight)) c s (ok [])
      (bindQueue q i x s.dev) := by
  refine answers_of_mailbox rfl h ?_
  simp only [← hx, if_neg (Nat.not_le.mpr hq), howner, hname, hempty, hgood, hmapped, if_neg (Nat.not_le.mpr hcapacity),
    List.length_nil, ne_eq, not_true_eq_false, Bool.true_eq_false, Bool.false_eq_true, if_false]

theorem netQueueStatus_answers (h : Serves { vf := true, i3c := true } c s) :
    Answers (.cmdNetQueueStatus c q) c s (ok [b2n (s.dev.netQueue q).bound, (s.dev.netQueue q).port, (s.dev.netQueue q).inst,
      (s.dev.netQueue q).seq, (s.dev.netQueue q).head, (s.dev.netQueue q).frames.length,
      ((s.dev.netQueue q).frames.map EgressFrame.cost).sum, (BitVec.ofInt 64 (s.dev.netQueue q).shaper.credit).toNat,
      (s.dev.netQueue q).s.toNat, (s.dev.netQueue q).sentPeriod]) s.dev := by
  have hanswer := answers_query (.cmdNetQueueStatus c q) c _ s _ h rfl
  rwa [if_neg (Nat.not_le.mpr hq), if_neg (by simp [howner, hname])] at hanswer

end

theorem netShaperSet_inst_answers (i p rate burst : Nat) (h : Serves { block := some 10 } c s) (hrate : rate ≤ 16777215)
    (hlo : 9236 ≤ burst) (hhi : burst ≤ 16777215) (hi : i < 1024) (hp : p < 8) (hname : mayName c.src.val i s.dev = true) :
    Answers (.cmdNetShaperSet c (.inst i p) rate burst) c s (ok [])
      (s.dev.modNode p i fun n => { n with shaper := { n.shaper with due := some (rate, burst) } }) := by
  refine answers_of_mailbox rfl h ?_
  rw [if_neg (by omega)]
  dsimp only
  rw [if_neg (by omega), if_neg (by simp [hname])]
  rfl

theorem netFlowfairSet_answers (p : Nat) (enable : Bool) (h : Serves { block := some 10 } c s) (hp : p < 8) :
    Answers (.cmdNetFlowfairSet c p enable none) c s (ok [])
      (s.dev.modNetPort p fun x => { x with flowFairDue := some enable, capsDue := x.capsDue ++ [] }) := by
  refine answers_of_mailbox rfl h ?_
  rw [if_neg (by simpa using hp), if_neg (by simp)]
  rfl

theorem netSampleSet_answers (p base n period : Nat) (h : Serves {} c s) (hp : p < 8) (hlo : 8 ≤ n) (hhi : n ≤ 20) (hsome : 0 < period)
    (hshort : period ≤ 65535) (hmapped : sampleMapped s.dev base (32 * 2 ^ n) = true) :
    Answers (.cmdNetSampleSet c p (some (base, n, period))) c s (ok [])
      ((s.dev.modNet fun k => { k with queues := k.queues.map fun e =>
        (e.1, if e.2.bound ∧ e.2.port = p then beginSample e.2 else e.2) }).modNetPort p fun x =>
       { x with sample := some (base, n, period, 0, 0), sampleDue := s.dev.canal.lockage + period }) := by
  refine answers_of_mailbox rfl h ?_
  rw [if_neg (by omega)]
  dsimp only
  rw [if_neg (by omega), if_neg (by simp [hmapped])]

end

/-- Settles O46: event by event and command by command. -/
theorem netComplete : Obligations.NetComplete := by
  refine ⟨fun s hon => ⟨?_, ?_, ?_, ?_, ?_, ?_, ?_, ?_, ?_, ?_⟩, fun c s => ⟨?_, ?_, ?_, ?_, ?_, ?_, ?_⟩⟩
  · intro p frame f rs d e hup hlong hshort hbody hfcs hparsed hrules hcharged
    have hframe : GoodFrame p.val frame f rs s.dev d e := ⟨hup, hlong, hshort, hbody, hfcs, hparsed, hrules, hcharged⟩
    refine ⟨fun hfull => gives_onDev rfl hon (frameReceive_parserFull hframe hfull), fun hroom => ?_⟩
    have hgives := frameReceive_classified hframe hroom
    refine ⟨fun q rule hash second hclass => ?_, fun hclass hopen hfits => ?_, fun hclass => ?_, fun hclass => ?_⟩ <;>
      rw [hclass] at hgives
    · exact gives_onDev rfl hon hgives
    · exact gives_onDev rfl hon (hgives.trans (followVerdict_toTransport e p.val f hopen hfits))
    · exact gives_onDev rfl hon hgives
    · exact gives_onDev rfl hon hgives
  · exact fun p frame hup hshort => gives_onDev rfl hon (frameReceive_short s.dev p.val frame hup hshort)
  · exact fun q r rest d x hd hx hrx hslot hpassed hcan hvector =>
      gives_onDev rfl hon (rxRecord_delivered s.dev q.val r rest d x hd hx hrx hslot hpassed hcan hvector)
  · exact pauseReceive_gives s hon
  · exact fun p i q t u f rest hup hpause hinst hqueue hframes =>
      gives_onDev rfl hon (transmit_leastTag s.dev p.val i q t u f rest hup hpause hinst hqueue hframes)
  · exact shaperRefill_gives s hon
  · intro p base n period written number hsample hdue hcan
    obtain ⟨d, w, hd⟩ := netSample_due s.dev p.val base n period written number hsample hdue hcan
    exact ⟨d, w, gives_onDev rfl hon hd⟩
  · exact commitComplete_gives s hon
  · exact fun p hup => gives_onDev rfl hon (if_pos hup)
  · exact netLinkUp_gives s hon
  · exact netPortStatus_answers c s
  · exact fun half hhalf hidle => ⟨netExtractSet_answers hhalf hidle, netRuleSet_answers hhalf hidle, netIndirSet_answers hhalf hidle,
      netCommit_answers hhalf hidle⟩
  · exact fun q i h hq howner hname hempty => ⟨netQueueSet_unbind_answers hq howner hname h hempty,
      netQueueSet_bind_answers hq howner hname h hempty⟩
  · exact netShaperSet_inst_answers c s
  · exact netFlowfairSet_answers c s
  · exact netSampleSet_answers c s
  · exact fun q i h hq howner hname => netQueueStatus_answers hq howner hname h

end Sys2Proof.Machine

/-! SUPPORT. The statements of the transport, settled: packets received, the sender and its timers, pages, send queues and work
requests; then its commands. -/

namespace Sys2Proof.Machine

/-! ### Packets received (R276, R277, R281) -/

/-- The oldest packet of a half, good and on an unsealed connection, has its opcode's effect; held packets that can be placed go
first. -/
theorem takePacket_good (v : Vault) (half : Nat) (f : Packet → Dev → Dev) {d gone : Dev} {e : Nat × Bytes} {p : Packet}
    (hfirst : (d.tp.inbox.find? fun e => e.1 = half) = some e)
    (hgone : gone = placePresent (d.modTp fun t => { t with inbox := t.inbox.erase e }))
    (hopens : openPacket v e.2 gone = .inl p) (hunsealed : (gone.conn p.conn).lane = none) {opcode : Nat} (hopcode : p.opcode = opcode) :
    takePacket v half opcode f d = f p gone := by
  subst hgone
  simp only [takePacket, hfirst, hopens, hunsealed, hopcode, ne_eq, not_true_eq_false, if_false]

/-! ### The sender and its timers (R283, R284) -/

/-- A connection's next new packet leaves inside the window. -/
theorem packetSend_next (v : Vault) (c : Nat) (d : Dev) {o : TxOp}
    (hnext : (d.tp.ops.find? fun o => decide (o.conn = c ∧ o.sent < o.packets)) = some o) (hactive : (d.conn c).state = 1)
    (hwindow : psnGap (d.conn c).next (d.conn c).una < 4096) (hroom : o.kind ≠ 3 → o.sent = 0 → opsInFlight d < 65536)
    {o' : TxOp} (ho' : o' = { o with firstPsn := if o.sent = 0 then (d.conn c).next else o.firstPsn, sent := o.sent + 1 }) :
    packetSend v c d = sendPacket v o' o.sent (d.conn c).next false
      ((d.modTp fun t => { t with ops := swapFirst o o' t.ops }).modConn c fun x => { x with
        next := x.next + 1, rtoDue := some (x.rtoDue.getD (d.clusterNs + x.rto)) }) := by
  have hgoes : ¬ ((d.conn c).state ≠ 1 ∨ 4096 ≤ psnGap (d.conn c).next (d.conn c).una ∨
      (o.kind ≠ 3 ∧ o.sent = 0 ∧ 65536 ≤ opsInFlight d)) := by
    rintro (hstate | hfull | ⟨hkind, hnew, hops⟩)
    · exact hstate hactive
    · omega
    · exact Nat.not_le.mpr (hroom hkind hnew) hops
  subst ho'
  simp only [packetSend, hnext, if_neg hgoes]

/-- The packets that count as lost when the timer expires have been sent again, the time doubled and the miss counted. -/
def rtoResent (v : Vault) (c : Nat) (x : Conn) (d : Dev) : Dev :=
  let top := x.sacked.foldl (fun m q => max m (psnGap q x.una)) 0
  armRto c ((((inFlight x).filter fun p => p = x.una || (!x.sacked.contains p && decide (psnGap p x.una < top))).foldl
    (fun d p => resend v c p d) d).modConn c fun x => { x with rto := min (2 * x.rto) 64000000, misses := x.misses + 1 })

section
variable (v : Vault) {c t : Nat} {d : Dev} (hactive : (d.conn c).state = 1) (hdue : (d.conn c).rtoDue = some t) (hpassed : t ≤ d.clusterNs)
include hactive hdue hpassed

theorem rto_expires : ¬ ((d.conn c).state ≠ 1 ∨ ((d.conn c).rtoDue.all fun t => decide (d.clusterNs < t)) = true) := by
  simp [hactive, hdue, hpassed]

/-- With nothing unacknowledged, or under hold, the timer is only set again. -/
theorem rtoExpiry_idle (htimers : (d.conn c).timerDue = none) (hidle : (d.conn c).una = (d.conn c).next ∨ (d.conn c).hold = true) :
    rtoExpiry v c d = armRto c d := by
  simp only [rtoExpiry, if_neg (rto_expires hactive hdue hpassed), htimers, if_pos hidle]

/-- Stored timer settings take effect (R292). -/
theorem rtoExpiry_timers {m l r : Nat} (htimers : (d.conn c).timerDue = some (m, l, r)) (hidle : (d.conn c).una = (d.conn c).next) :
    rtoExpiry v c d = armRto c (d.modConn c fun x =>
      { x with rtoMin := 1000 * m, retryLimit := l, reorder := r, timerDue := none }) := by
  simp only [rtoExpiry, if_neg (rto_expires hactive hdue hpassed), htimers, if_pos (Or.inl hidle)]

section
variable (htimers : (d.conn c).timerDue = none) (hsent : (d.conn c).una ≠ (d.conn c).next) (hfree : (d.conn c).hold = false)
include htimers hsent hfree

/-- What is lost is sent again, and past the retry limit the connection fails. -/
theorem rtoExpiry_resends : rtoExpiry v c d =
    if ((rtoResent v c (d.conn c) d).conn c).retryLimit < ((rtoResent v c (d.conn c) d).conn c).misses then
      endConn c 2 (fun o => if o.sent = 0 then 6 else 5) (post 0x0C00 (tpUnit (d.conn c).half) 0
        (syn [(32, 2, c), (36, 2, (d.conn c).inst), (40, 4, (d.conn c).una.toNat)]) (rtoResent v c (d.conn c) d))
    else rtoResent v c (d.conn c) d := by
  have hbusy : ¬ ((d.conn c).una = (d.conn c).next ∨ (d.conn c).hold = true) := by simp [hsent, hfree]
  simp only [rtoExpiry, if_neg (rto_expires hactive hdue hpassed), htimers, if_neg hbusy]
  rfl

theorem rtoExpiry_retries
    (hlimit : ((rtoResent v c (d.conn c) d).conn c).misses ≤ ((rtoResent v c (d.conn c) d).conn c).retryLimit) :
    rtoExpiry v c d = rtoResent v c (d.conn c) d :=
  (rtoExpiry_resends v hactive hdue hpassed htimers hsent hfree).trans (if_neg (Nat.not_lt.mpr hlimit))

theorem rtoExpiry_fails
    (hlimit : ((rtoResent v c (d.conn c) d).conn c).retryLimit < ((rtoResent v c (d.conn c) d).conn c).misses) :
    rtoExpiry v c d = endConn c 2 (fun o => if o.sent = 0 then 6 else 5) (post 0x0C00 (tpUnit (d.conn c).half) 0
      (syn [(32, 2, c), (36, 2, (d.conn c).inst), (40, 4, (d.conn c).una.toNat)]) (rtoResent v c (d.conn c) d)) :=
  (rtoExpiry_resends v hactive hdue hpassed htimers hsent hfree).trans (if_pos hlimit)

end

end

section
variable (s : State) (hon : s.On)
include hon

/-- 4 µs after the oldest packet not acknowledged an ACK goes out. -/
theorem ackTimer_gives (c : Fin 65536) (t : Nat) (hactive : (s.dev.conn c.val).state = 1) (hdue : (s.dev.conn c.val).ackDue = some t)
    (hpassed : t ≤ s.dev.clusterNs) : Gives (.ackTimer c) s (sendAck s.vault c.val s.dev) := by
  have hexpires : (s.dev.conn c.val).state = 1 ∧ ((s.dev.conn c.val).ackDue.any fun t => decide (t ≤ s.dev.clusterNs)) = true :=
    ⟨hactive, by simp [hdue, hpassed]⟩
  have hexec : exec (.ackTimer c) s = execAckTimer c s := rfl
  rw [Gives, hexec, execAckTimer, onDevV_on _ _ hon, if_pos hexpires]

/-- A psn whose page delay has passed is sent again (R285). -/
theorem pageRetryResend_gives (c : Fin 65536) (p : W32) (t : Nat) (hretry : (s.dev.conn c.val).pageRetry = [(p, t)])
    (hpassed : t ≤ s.dev.clusterNs) :
    Gives (.pageRetryResend c) s (resend s.vault c.val p
      (s.dev.modConn c.val fun x => { x with pageRetry := x.pageRetry.filter fun e => decide (s.dev.clusterNs < e.2) })) := by
  have hdue : ((s.dev.conn c.val).pageRetry.filter fun e => decide (e.2 ≤ s.dev.clusterNs)) = [(p, t)] := by simp [hretry, hpassed]
  have hexec : exec (.pageRetryResend c) s = execPageRetryResend c s := rfl
  rw [Gives, hexec, execPageRetryResend, onDevV_on _ _ hon]
  simp only [hdue, List.foldl_cons, List.foldl_nil]

end

/-! ### Pages and moorings (R282, R285) -/

/-- A packet held for 1 ms whose pages are still absent falls back to mode 1. -/
theorem stallFallback_late (v : Vault) (i : Nat) (d : Dev) {x : Stalled} (hheld : d.tp.stalled[i]? = some x)
    (habsent : stalledPresent d x = false) (hlate : x.since + 1000000 ≤ d.clusterNs) :
    stallFallback v i d = sendNak v x.conn x.psn 2 50 (settleHold x.conn
      ((d.modTp fun t => { t with stalled := t.stalled.erase x }).modConn x.conn fun y => { y with
        received := y.received.filter fun p => p ≠ x.psn })) := by
  simp only [stallFallback, hheld, habsent, Bool.false_eq_true, if_false, if_neg (Nat.not_lt.mpr hlate)]

theorem mooringDeregComplete_gives (s : State) (hon : s.On) (m src : Nat) (seq : W32) (hwaits : (s.dev.mooring m).deregWait = some (src, seq))
    (hdelivered : (s.dev.tp.conns.any fun e => e.2.readReqs.any fun r => r.2.2.2.2.toNat / 4096 = m) = false) :
    Gives (.mooringDeregComplete m) s
      (finishLater src 0x0C05 seq (ok []) (s.dev.modMooring m fun x => { x with deregWait := none })) := by
  have hexec : exec (.mooringDeregComplete m) s = execMooringDeregComplete m s := rfl
  rw [Gives, hexec, execMooringDeregComplete, onDev_on _ _ hon]
  simp only [hwaits, hdelivered, Bool.false_eq_true, if_false]

/-! ### Send queues and work requests (R286–R288) -/

theorem txQueueDoorbell_gives (s : State) (hon : s.On) (inst : Fin 1024) (i q : Nat) (v : Word) (hq : txAt s.dev inst.val i = some q)
    (hbound : (s.dev.sendQ q).bound = true) (hrange : v.toNat % 65536 < 2 ^ (s.dev.sendQ q).n) :
    Gives (.txQueueDoorbell inst i v) s (s.dev.modSendQ q fun x => { x with tail := v.toNat % 65536 }) := by
  have htail : txTail q v s.dev = s.dev.modSendQ q fun x => { x with tail := v.toNat % 65536 } :=
    if_neg (by simp [hbound, hrange])
  have hexec : exec (.txQueueDoorbell inst i v) s = execTxQueueDoorbell inst i v s := rfl
  rw [Gives, hexec, execTxQueueDoorbell, onDev_on _ _ hon]
  simp only [hq, htail]

/-- The oldest record of a bound queue without a vector is written where its ring stands. -/
theorem writeRecord_bound (q : Nat) (d : Dev) {r : TxRecord} (hfirst : (d.tp.records.find? fun r => r.queue = q) = some r)
    (hbound : (d.sendQ q).bound = true) (hvector : (d.sendQ q).vector = 0xFFFF)
    (hcan : canWrite d (some (tpLock (q / 4096))) ((d.sendQ q).complBase + 32 * ((d.sendQ q).records % 2 ^ (d.sendQ q).n)) 32 = true) :
    writeRecord q d = engineWrite (some (tpLock (q / 4096))) 0 ((d.sendQ q).complBase + 32 * ((d.sendQ q).records % 2 ^ (d.sendQ q).n))
      r.bytesOf false ((d.modTp fun t => { t with records := t.records.erase r }).modSendQ q fun x => { x with records := x.records + 1 }) := by
  simp only [writeRecord, hfirst, hbound, hcan, hvector, Bool.true_eq_false, if_false, if_true]

/-- What the next request of a queue does by its kind; `before` is the device with the request still waiting. -/
def startRequest (kind q : Nat) (w : WorkReq) (tow : Bool) (before d : Dev) : Dev :=
  match kind with
  | 3 => startRaw q w d
  | 4 => startAdd q w d
  | 5 => startTow q w tow before d
  | _ => startOp q w before d

theorem runRequest_good (q : Nat) (tow : Bool) {w : WorkReq} {d e : Dev} (hnext : nextRequest q tow d = some ((w, false), e))
    (hgood : w.bad = false) (hfree : fenced d q w = false) {kind : Nat} (hkind : w.kind = kind) :
    runRequest kind q tow d = startRequest kind q w tow d e := by
  simp only [runRequest, hnext, hgood, hfree, hkind, ne_eq, not_true_eq_false, Bool.false_eq_true, or_self, if_false]
  rfl

/-- Settles O47: event by event. -/
theorem transportEventsComplete : Obligations.TransportEventsComplete := by
  refine ⟨fun s hon => ⟨?_, ?_, ?_, ?_, ?_, ?_, ?_, ?_, ?_, ?_⟩, ?_⟩
  · intro half e p gone d hfirst hgone hopens hunsealed hd
    subst hd
    have htaken (opcode : Nat) (f : Packet → Dev → Dev) (hopcode : p.opcode = opcode) :
        takePacket s.vault (b2n half) opcode f s.dev = f p d :=
      takePacket_good s.vault _ f hfirst hgone hopens hunsealed hopcode
    exact ⟨fun h => gives_onDev rfl hon (htaken 1 _ h), fun h => gives_onDev rfl hon (htaken 2 _ h),
      fun h => gives_onDev rfl hon (htaken 3 _ h), fun h => gives_onDev rfl hon (htaken 4 _ h),
      fun h => gives_onDev rfl hon (htaken 5 _ h), fun h => gives_onDev rfl hon (htaken 6 _ h)⟩
  · exact fun c o o' hnext hactive hwindow hroom ho' =>
      gives_onDev rfl hon (packetSend_next s.vault c.val s.dev hnext hactive hwindow hroom ho')
  · rintro c t x rfl hactive hdue hpassed htimers
    refine ⟨fun hidle => gives_onDev rfl hon (rtoExpiry_idle s.vault hactive hdue hpassed htimers hidle), ?_⟩
    rintro hsent hfree top d rfl rfl
    exact ⟨fun hlimit => gives_onDev rfl hon (rtoExpiry_retries s.vault hactive hdue hpassed htimers hsent hfree hlimit),
      fun hlimit => gives_onDev rfl hon (rtoExpiry_fails s.vault hactive hdue hpassed htimers hsent hfree hlimit)⟩
  · exact fun c t m l r hactive hdue hpassed htimers hidle =>
      gives_onDev rfl hon (rtoExpiry_timers s.vault hactive hdue hpassed htimers hidle)
  · exact ackTimer_gives s hon
  · exact pageRetryResend_gives s hon
  · exact fun i x hheld habsent hlate => gives_onDev rfl hon (stallFallback_late s.vault i s.dev hheld habsent hlate)
  · exact txQueueDoorbell_gives s hon
  · rintro q r d hfirst hbound hvector hcan rfl
    exact gives_onDev rfl hon (writeRecord_bound q.val s.dev hfirst hbound hvector hcan)
  · exact mooringDeregComplete_gives s hon
  · intro q tow w d s hon hnext hgood hfree
    have hstarts (kind : Nat) (hkind : w.kind = kind) : runRequest kind q.val tow s.dev = startRequest kind q.val w tow s.dev d :=
      runRequest_good q.val tow hnext hgood hfree hkind
    exact ⟨fun h => gives_onDev rfl hon (hstarts 1 h), fun h => gives_onDev rfl hon (hstarts 2 h),
      fun h => gives_onDev rfl hon (hstarts 3 h), fun h => gives_onDev rfl hon (hstarts 4 h), fun h => gives_onDev rfl hon (hstarts 5 h)⟩

/-! ### Commands that go on after they have been let through (R359) -/

section
variable {i : Instr} {c : Cmd} {g : Guard} {s : State} {f : Vault → Dev → Option Reply × Dev} {e : Dev}

/-- Without a reply yet, a source other than a virtual function gets ACCEPTED. -/
theorem answers_accepted_of_mailboxLater (hexec : exec i s = onDevV (fun v => mailboxLater c g (f v)) s) (h : Serves g c s)
    (hf : f s.vault s.dev = (none, e)) (hsource : isVf c.src.val = false) : Answers i c s (fail .accepted) e := by
  obtain ⟨hon, hguard, hfree⟩ := h
  refine gives_onDevV hexec hon ?_
  simp [mailboxLater, hguard, hfree, hf, hsource]

/-- A virtual function's frame stays busy. -/
theorem gives_keepRunning_of_mailboxLater (hexec : exec i s = onDevV (fun v => mailboxLater c g (f v)) s) (h : Serves g c s)
    (hf : f s.vault s.dev = (none, e)) (hsource : isVf c.src.val = true) : Gives i s (keepRunning c.src.val e) := by
  obtain ⟨hon, hguard, hfree⟩ := h
  refine gives_onDevV hexec hon ?_
  simp [mailboxLater, hguard, hfree, hf, hsource]

end

/-! ### The commands of the transport (R278–R285, R291) -/

section
variable {c : Cmd} {s : State}

theorem connSet_answers (conn inst : Nat) (x : ConnSet) (h : Serves { vf := true, block := some 11 } c s) (hconn : conn < 65536)
    (hinst : inst < 1024) (hname : mayName c.src.val inst s.dev = true) (hunused : (s.dev.conn conn).state = 0)
    (hgood : badConn s.dev inst x = false) (hegress : (s.dev.netQueue x.egress).inst = inst)
    (hcapacity : (s.dev.tp.conns.filter fun e => decide (e.2.state ≠ 0 ∧ e.2.inst = inst ∧ e.1 ≠ conn)).length <
      ((s.dev.inst inst).desc.map (·.connections)).getD 0) :
    Answers (.cmdConnSet c conn inst x) c s (ok []) (s.dev.modConn conn fun _ => newConn inst x) := by
  refine answers_of_mailbox rfl h ?_
  dsimp only
  rw [if_neg (by omega), if_neg (by simp [hname, hunused]), if_neg (by simp [hunused]), if_neg (fun hother => hother.2 hegress),
    if_neg (by simp [hgood]), if_neg (Nat.not_le.mpr hcapacity)]

/-- Closing sends CLOSE unless it has been sent for these settings (R278). -/
theorem connClose_answers (conn : Nat) (h : Serves { vf := true, block := some 11 } c s) (hconn : conn < 65536)
    (hused : (s.dev.conn conn).state ≠ 0) (hname : mayName c.src.val (s.dev.conn conn).inst s.dev = true) :
    Answers (.cmdConnClose c conn) c s (ok []) (endConn conn 3 (fun _ => 6) (sendClose s.vault conn s.dev)) := by
  have hexec : exec (.cmdConnClose c conn) s = execCmdConnClose c conn s := rfl
  refine answers_of_mailbox_onDevV hexec h ?_
  dsimp only
  rw [if_neg (by omega), if_neg (by simp [hname])]

theorem sendClose_first (v : Vault) (conn : Nat) (d : Dev) (hfirst : (d.conn conn).closeSent = false) :
    sendClose v conn d = tpSend v conn 6 0 0 [0, 0, 0, 0] [] (d.modConn conn fun x => { x with closeSent := true }) :=
  if_neg (by simp [hfirst])

theorem sendClose_again (v : Vault) (conn : Nat) (d : Dev) (hsent : (d.conn conn).closeSent = true) : sendClose v conn d = d :=
  if_pos hsent

theorem connStatus_answers (conn : Nat) (h : Serves { vf := true, i3c := true } c s) (hconn : conn < 65536)
    (hname : mayName c.src.val (s.dev.conn conn).inst s.dev = true) :
    Answers (.cmdConnStatus c conn) c s (ok [(s.dev.conn conn).state, (s.dev.conn conn).una.toNat, (s.dev.conn conn).next.toNat,
      (s.dev.conn conn).expected.toNat, (s.dev.conn conn).badHeader, (s.dev.conn conn).stale, (s.dev.conn conn).sealFail,
      (s.dev.conn conn).windowDrops]) s.dev := by
  have hanswer := answers_query (.cmdConnStatus c conn) c _ s _ h rfl
  rwa [if_neg (Nat.not_le.mpr hconn), if_neg (by simp [hname])] at hanswer

theorem txQueueSet_answers (doorbell base n completions vector q i : Nat) (h : Serves { vf := true, block := some 11 } c s)
    (hi : i = if c.src.val < 1024 then c.src.val else 0) (hq : txAt s.dev i doorbell = some q) (hlo : 4 ≤ n) (hhi : n ≤ 16)
    (hvector : vector ≤ 65535) (hidle : queueBusy s.dev q = false) (hring : mayAddress s.dev i base (64 * 2 ^ n) = true)
    (hcompletions : mayAddress s.dev i completions (32 * 2 ^ n) = true) :
    Answers (.cmdTxQueueSet c doorbell base n completions vector) c s (ok []) (s.dev.modSendQ q fun _ =>
      { bound := true, inst := i, base := base, n := n, complBase := completions, vector := vector }) := by
  subst hi
  have hrange : ¬ (n < 4 ∨ 16 < n ∨ 65535 < vector) := by omega
  refine answers_of_mailbox rfl h ?_
  simp only [hq, if_neg hrange, hidle, hring, hcompletions, Bool.and_self, Bool.false_eq_true, Bool.true_eq_false, if_false]

theorem mooringReg_answers (m : MooringSet) (h : Serves { vf := true } c s) (hinst : m.inst < 1024)
    (hname : mayName c.src.val m.inst s.dev = true) (hbase : m.base % 4096 = 0) (hpages : m.size % 4096 = 0) (hsome : 0 < m.size)
    (hsize : m.size ≤ 2 ^ 40) (hmode : m.mode < 2) (hcounter : m.counter = none) (hmapped : mayAddress s.dev m.inst m.base m.size = true)
    (hcapacity : (s.dev.tp.moorings.filter fun e => e.2.registered && decide (e.2.inst = m.inst)).length <
      ((s.dev.inst m.inst).desc.map (·.moorings)).getD 0) :
    Answers (.cmdMooringReg c m) c s (ok [(regMooring m s.dev).1]) (regMooring m s.dev).2 := by
  refine answers_of_mailbox rfl h ?_
  have hspan : ¬ (m.base % 4096 ≠ 0 ∨ m.size % 4096 ≠ 0 ∨ m.size = 0 ∨ 2 ^ 40 < m.size ∨ 2 ≤ m.mode) := by omega
  dsimp only
  rw [if_neg (by omega), if_neg (by simp [hname]), if_neg (by simpa [hcounter] using hspan),
    if_neg (by simp [hcounter]), if_neg (by simp [hmapped]), if_neg (Nat.not_le.mpr hcapacity)]

section
variable (key m : Nat) (h : Serves { vf := true } c s) (hkey : keyMooring c.src.val key s.dev = .ok m)
include h hkey

/-- A good key deregisters its mooring, and the command goes on until placement has been delivered (R282). -/
theorem mooringDereg_answers (hsource : isVf c.src.val = false) :
    Answers (.cmdMooringDereg c key) c s (fail .accepted) (dropStalled s.vault m
      (s.dev.modMooring m fun x => { x with registered := false, deregWait := some (c.src.val, c.seq) })) := by
  have hexec : exec (.cmdMooringDereg c key) s = execCmdMooringDereg c key s := rfl
  refine answers_accepted_of_mailboxLater hexec h ?_ hsource
  simp only [hkey]

theorem mooringDereg_gives (hsource : isVf c.src.val = true) :
    Gives (.cmdMooringDereg c key) s (keepRunning c.src.val (dropStalled s.vault m
      (s.dev.modMooring m fun x => { x with registered := false, deregWait := some (c.src.val, c.seq) }))) := by
  have hexec : exec (.cmdMooringDereg c key) s = execCmdMooringDereg c key s := rfl
  refine gives_keepRunning_of_mailboxLater hexec h ?_ hsource
  simp only [hkey]

end

theorem mooringPage_absent_answers (key m first count : Nat) (h : Serves { vf := true, block := some 11 } c s)
    (hkey : keyMooring c.src.val key s.dev = .ok m) (hpaged : (s.dev.mooring m).paged = true)
    (hrange : first + count ≤ ((s.dev.mooring m).size + 65535) / 65536) :
    Answers (.cmdMooringPage c key first count false) c s (ok []) (placePresent (s.dev.modMooring m fun x => { x with
      present := x.present.filter fun p => !((List.range count).map (first + ·)).contains p })) := by
  refine answers_of_mailbox rfl h ?_
  simp only [hkey, hpaged, Bool.true_eq_false, false_or, if_neg (Nat.not_lt.mpr hrange), Bool.false_eq_true, if_false]

theorem counterAlloc_answers (inst n : Nat) (h : Serves { vf := true } c s) (hinst : inst < 1024)
    (hname : mayName c.src.val inst s.dev = true)
    (hcapacity : (s.dev.tp.counters.filter fun e => e.2.1 = inst).length < ((s.dev.inst inst).desc.map (·.connections)).getD 0)
    (hfree : ((List.range 65536).find? fun n => (tfind s.dev.tp.counters n).isNone) = some n) :
    Answers (.cmdCounterAlloc c inst none) c s (ok [n]) (s.dev.modTp fun t => { t with counters := tput t.counters n (inst, 0) }) := by
  refine answers_of_mailbox rfl h ?_
  simp only [if_neg (Nat.not_le.mpr hinst), hname, Bool.true_eq_false, if_false, if_neg (Nat.not_le.mpr hcapacity), hfree]

theorem counterRead_answers (n inst v : Nat) (h : Serves { vf := true, i3c := true } c s)
    (hcounter : tfind s.dev.tp.counters n = some (inst, v)) (hname : mayName c.src.val inst s.dev = true) :
    Answers (.cmdCounterRead c n) c s (ok [v]) s.dev := by
  have hanswer := answers_query (.cmdCounterRead c n) c _ s _ h rfl
  simpa only [hcounter, hname, Bool.true_eq_false, if_false] using hanswer

end

/-- Settles O48: command by command. -/
theorem transportCommandsComplete : Obligations.TransportCommandsComplete := by
  refine fun c s => ⟨connSet_answers, ?_, connStatus_answers, txQueueSet_answers, mooringReg_answers, ?_, counterAlloc_answers,
    counterRead_answers⟩
  · intro conn h hconn hused hname
    have hanswer := connClose_answers conn h hconn hused hname
    exact ⟨fun hfirst => by rwa [sendClose_first _ _ _ hfirst] at hanswer, fun hsent => by rwa [sendClose_again _ _ _ hsent] at hanswer⟩
  · exact fun key m h hkey => ⟨mooringDereg_answers key m h hkey, mooringDereg_gives key m h hkey,
      fun first count hserves => mooringPage_absent_answers key m first count hserves hkey⟩

end Sys2Proof.Machine

/-! SUPPORT. The statements of the ring, its links and the timebase, settled: what passes with a nanosecond; then the ring's cells,
its links and cluster time, and its commands. -/

namespace Sys2Proof.Machine

/-! ### A nanosecond passes (R308, R310) -/

/-- Nothing but cluster time and what leaves the device differs, and without a PTP master port nothing leaves. -/
def PassesTime (d e : Dev) : Prop :=
  ∃ time sent, e = { d with time := time, out := d.out ++ sent } ∧ ((∀ x ∈ d.time.ptp, x.2.1 ≠ 1) → sent = [])

theorem passesTime_modTime (d : Dev) (f : TimeSt → TimeSt) : PassesTime d (d.modTime f) :=
  ⟨f d.time, [], by rw [List.append_nil]; rfl, fun _ => rfl⟩

theorem foldl_emit {α : Type} (f : α → Out) (l : List α) (d : Dev) :
    l.foldl (fun x m => x.emit (f m)) d = { d with out := d.out ++ l.map f } := by
  induction l generalizing d with
  | nil => simp
  | cons m l ih => rw [List.foldl_cons, ih]; simp [Dev.emit]

theorem foldl_foldl_emit {α β : Type} (g : α → List β) (f : α → β → Out) (l : List α) (d : Dev) :
    l.foldl (fun x e => (g e).foldl (fun x m => x.emit (f e m)) x) d = { d with out := d.out ++ l.flatMap fun e => (g e).map (f e) } := by
  induction l generalizing d with
  | nil => simp
  | cons e l ih => rw [List.foldl_cons, foldl_emit, ih]; simp

/-- At a whole second only the master ports' messages leave. -/
theorem passesTime_ptpSecond (d : Dev) : PassesTime d (ptpSecond d) := by
  unfold ptpSecond
  split
  · exact passesTime_modTime d id
  · refine ⟨_, _, foldl_foldl_emit _ _ _ _, fun hslaves => ?_⟩
    have hnone : (d.time.ptp.filter fun e => decide (e.2.1 = 1) && (tget {} d.net.ports e.1).up) = [] := by
      rw [List.filter_eq_nil_iff]
      intro e he
      simp [hslaves e he]
    rw [hnone, List.flatMap_nil]

/-- Cluster time has moved, and where a whole second has come its messages leave. -/
theorem passesTime_second (p : Prop) [Decidable p] (f : TimeSt → TimeSt) (d : Dev) (hroles : (f d.time).ptp = d.time.ptp) :
    PassesTime d (if p then d.modTime f else ptpSecond (d.modTime f)) := by
  split
  · exact passesTime_modTime d f
  · obtain ⟨time, sent, heq, hsent⟩ := passesTime_ptpSecond (d.modTime f)
    exact ⟨time, sent, heq, fun hslaves => hsent (by rwa [Dev.modTime_time, hroles])⟩

theorem TimeSt.advance_slew_ptp (t : TimeSt) (x : Nat) (slew : Int) : ({ t.advance x with slew := slew } : TimeSt).ptp = t.ptp := by
  rw [TimeSt.advance]

theorem passesTime_tick (d : Dev) : PassesTime { d with uptime := d.uptime + 1 } (tick d) := by
  unfold tick
  dsimp only
  split
  · exact passesTime_modTime _ id
  · exact passesTime_second _ _ _ (TimeSt.advance_slew_ptp _ _ _)

/-- Settles O2: an empty queue makes a step idle; without power only the uptime counts, with it the clock ticks. -/
theorem idlePassesTime : Obligations.IdlePassesTime := by
  intro s hempty
  have hstep : step s = .next (idle s) := by rw [step, hempty]
  rw [hstep, idle]
  split
  case isTrue hoff => exact ⟨s.dev.time, [], by rw [List.append_nil]; rfl, fun _ => ⟨rfl, rfl⟩, fun _ => rfl⟩
  case isFalse hon =>
    obtain ⟨time, sent, htick, hsent⟩ := passesTime_tick s.dev
    exact ⟨time, sent, by rw [htick]; rfl, fun hoff => absurd hoff hon, hsent⟩

/-! ### Heartbeats (R300, R301) -/

section
variable (d : Dev) (k : Nat)

theorem link_modLink_same (f : RingLink → RingLink) (h : f (d.link k) ≠ {}) : (d.modLink k f).link k = f (d.link k) :=
  tget_tmod_same ({} : RingLink) d.ring.links k f h

theorem link_modLink_other (f : RingLink → RingLink) (j : Nat) (h : j ≠ k) : (d.modLink k f).link j = d.link j :=
  tget_tmod_other ({} : RingLink) d.ring.links k j f h

/-- The first and the second heartbeat that do not come count. -/
theorem heartbeatMiss_counts (hup : (d.link k).state = 2) (hfew : (d.link k).missed < 2)
    (hlate : (d.link k).nextDue + 10000 + (d.link k).cellLatency ≤ d.beat) :
    heartbeatMiss k d = d.modLink k fun l => { l with missed := l.missed + 1, nextDue := l.nextDue + 100000 } := by
  have hwait : ¬ ((d.link k).state ≠ 2 ∨
      d.beat < (d.link k).nextDue + 10000 + if (d.link k).missed = 2 then 0 else (d.link k).cellLatency) := by
    rw [if_neg (by omega : ¬ (d.link k).missed = 2)]
    omega
  unfold heartbeatMiss
  dsimp only
  rw [if_neg hwait, if_pos hfew]

/-- A bad cell is dropped, and its link counts it. -/
theorem heartbeatReceive_bad (h : Heartbeat) (hbad : h.bad = true) (hup : (d.link k).state = 2) :
    heartbeatReceive k h d = d.modLink k fun l =>
      { l with fecCorrected := satAdd (2 ^ 32 - 1) l.fecCorrected h.fec, crcCells := satAdd 65535 l.crcCells 1 } := by
  unfold heartbeatReceive
  dsimp only
  rw [if_neg (not_not.mpr hup), if_pos hbad]

/-- The root keeps no time by its links: a heartbeat in time only resets its link's missed count. -/
theorem heartbeatReceive_root (h : Heartbeat) {e : Dev} (due : Nat) (hgood : h.bad = false) (hfec : h.fec = 0)
    (hup : (d.link k).state = 2) (he : e = h.grants.foldl (fun d ty => d.onLane (CellLane.grant k ty)) d) (hroot : e.ring.root = true)
    (hdue : due = heartbeatDue h e)
    (htime : e.ring.ready = true → (d.link k).nextDue ≤ due ∧ e.beat < due + 10000 + (d.link k).cellLatency) :
    heartbeatReceive k h d = e.modLink k fun l =>
      { l with lastRx := e.time.ns, lastRxFrac := e.time.frac, missed := 0, nextDue := due + 100000 } := by
  have hin : (if e.ring.ready = true then decide ((d.link k).nextDue ≤ due ∧ e.beat < due + 10000 + (d.link k).cellLatency)
      else true) = true := by
    split
    case isTrue hready => exact decide_eq_true (htime hready)
    case isFalse => rfl
  subst hdue
  unfold heartbeatReceive
  dsimp only
  rw [if_neg (not_not.mpr hup), if_neg (by simp [hgood]), if_pos hfec, ← he, hin]
  exact if_pos (.inl hroot)

/-- A link's heartbeat is to be sent at `now` (R301): its pair is open, its time has come, its clock is not lost, and it is no link of an
east half that has stopped. -/
def BeatDue (now : Nat) : Prop :=
  ¬ ((tget {} d.ring.pairs (linkRing k)).open_ = false ∨ now < (d.link k).sendDue ∨ (tget {} d.power.domains (53 + k)).state = 3 ∨
    (2 ≤ k ∧ d.ctrl.eastStopped = true))

/-- A link's heartbeat has been sent: the next one has its due time, and the sending's time is noted. -/
def BeatSent (now at_ : Nat) : Prop := (d.link k).sendDue = nextBeat now ∧ (d.link k).lastTx = some at_

end

/-- One link's turn in the sending of heartbeats. -/
def sendHeartbeat (now : Nat) (d : Dev) (k : Nat) : Dev :=
  if (tget {} d.ring.pairs (linkRing k)).open_ = false ∨ now < (d.link k).sendDue ∨ (tget {} d.power.domains (53 + k)).state = 3 ∨
      (2 ≤ k ∧ d.ctrl.eastStopped = true) then d
  else
    let l := d.link k
    let d := sendCell k 1 (linkRing k) 0 d.deviceId (leBytes 4 d.time.frac.toNat ++ leBytes 8 l.lastRx.toNat ++ leBytes 4 l.lastRxFrac.toNat) d
    let d := d.modLink k fun l => { l with lastTx := some d.uptime, sendDue := nextBeat now }
    if k = d.time.upstream then d.modTime fun t => { t with lastTx := t.ns, lastTxFrac := t.frac } else d

theorem sendHeartbeats_eq_foldl (d : Dev) : sendHeartbeats d = [0, 1, 2, 3].foldl (sendHeartbeat d.beat) d := rfl

section
variable (now : Nat) (d : Dev) (k : Nat)

/-- What the sending of heartbeats goes by, but for the links and the time. -/
def Dev.beatTerms (d : Dev) : Nat × Tab BypassPair × Power × Control := (d.uptime, d.ring.pairs, d.power, d.ctrl)

theorem sendHeartbeat_beatTerms : (sendHeartbeat now d k).beatTerms = d.beatTerms := by
  unfold sendHeartbeat
  split
  · rfl
  · dsimp only
    split <;> rfl

theorem sendHeartbeat_link_other (j : Nat) (h : j ≠ k) : (sendHeartbeat now d k).link j = d.link j := by
  unfold sendHeartbeat
  split
  · rfl
  · dsimp only
    split <;> exact link_modLink_other _ k _ j h

theorem foldl_sendHeartbeat_link_other (ks : List Nat) (h : k ∉ ks) : (ks.foldl (sendHeartbeat now) d).link k = d.link k := by
  induction ks generalizing d with
  | nil => rfl
  | cons j ks ih =>
    rw [List.mem_cons, not_or] at h
    obtain ⟨hj, hks⟩ := h
    exact (ih _ hks).trans (sendHeartbeat_link_other now d j k hj)

theorem sendHeartbeat_sent (h : BeatDue d k now) : BeatSent (sendHeartbeat now d k) k now d.uptime := by
  have hlink : (sendHeartbeat now d k).link k = { d.link k with lastTx := some d.uptime, sendDue := nextBeat now } := by
    unfold sendHeartbeat
    rw [if_neg h]
    dsimp only
    split <;> exact link_modLink_same _ k _ (fun hdefault => by simpa using congrArg RingLink.lastTx hdefault)
  exact ⟨congrArg RingLink.sendDue hlink, congrArg RingLink.lastTx hlink⟩

/-- The other links' turns leave a link's heartbeat due. -/
theorem BeatDue.of_other {now : Nat} {d : Dev} {k : Nat} (h : BeatDue d k now) (j : Nat) (hj : k ≠ j) : BeatDue (sendHeartbeat now d j) k now := by
  have hterms := sendHeartbeat_beatTerms now d j
  simp only [Dev.beatTerms, Prod.mk.injEq] at hterms
  obtain ⟨-, hpairs, hpower, hctrl⟩ := hterms
  rwa [BeatDue, hpairs, hpower, hctrl, sendHeartbeat_link_other now d j k hj]

theorem foldl_sendHeartbeat_sent (ks : List Nat) (hnodup : ks.Nodup) (hk : k ∈ ks) (h : BeatDue d k now) :
    BeatSent (ks.foldl (sendHeartbeat now) d) k now d.uptime := by
  induction ks generalizing d with
  | nil => exact absurd hk List.not_mem_nil
  | cons j ks ih =>
    obtain ⟨hj, hnodup⟩ := List.nodup_cons.mp hnodup
    rw [List.foldl_cons]
    by_cases hkj : k = j
    · subst hkj
      rw [BeatSent, foldl_sendHeartbeat_link_other now _ k ks hj]
      exact sendHeartbeat_sent now d k h
    · have huptime : (sendHeartbeat now d j).uptime = d.uptime := congrArg Prod.fst (sendHeartbeat_beatTerms now d j)
      rw [← huptime]
      exact ih _ hnodup ((List.mem_cons.mp hk).resolve_left hkj) (h.of_other j hkj)

end

/-! ### The cells of the ring's assembly (R305, R306) -/

section
variable (d : Dev) (k : Nat)

/-- An ASSEMBLE cell starts no assembly again after lockage 0, and none of a ring that has not assembled yet. -/
theorem not_assemblesAgain {r : Ring} {i : Nat} (hstands : r.ready = true ∨ tget [] r.taken i = []) :
    ¬ (r.ready = false ∧ tget [] r.taken i ≠ []) := by
  rintro ⟨hready, htaken⟩
  rcases hstands with h | h
  · simp [hready] at h
  · exact htaken h

/-- The return of its own ID makes a device position 0 of the ring. -/
theorem assemble_own (id : BitVec 20) (hops : Nat) (hstands : d.ring.ready = true ∨ tget [] d.ring.taken (linkRing k) = [])
    (hid : id.toNat = d.deviceId) : assemble k id hops d = sendGather (linkRing k) 0 [id] (ownLows (linkRing k) d) d := by
  unfold assemble
  dsimp only
  rw [if_neg (not_assemblesAgain hstands), if_pos hid]

/-- The first ID of a lower device goes on. -/
theorem assemble_lower (id : BitVec 20) (hops : Nat) (hstands : d.ring.ready = true ∨ tget [] d.ring.taken (linkRing k) = [])
    (hid : id.toNat < d.deviceId) (hfirst : tget 0 d.ring.lowest (linkRing k) = 0) (hup : linkUp d (linkRing k) = true) :
    assemble k id hops d = sendCell (linkRing k) 2 (linkRing k) (hops + 1) id.toNat (leBytes 4 id.toNat)
      (d.modRing fun r => { r with lowest := tset 0 r.lowest (linkRing k) (id.toNat + 1) }) := by
  unfold assemble
  dsimp only
  rw [if_neg (not_assemblesAgain hstands), if_neg hid.ne, if_pos ⟨hid, .inl hfirst⟩]
  exact if_pos hup

theorem roster_complete (ids lows : List (BitVec 20)) (hops : Nat) (hin : BitVec.ofNat 20 d.deviceId ∈ ids)
    (hnew : tget [] d.ring.taken (linkRing k) ≠ ids) : roster k (.gather ids lows) hops d =
      sendGather (otherLink k) (hops + 1) ids lows (takeRoster (linkRing k) ids lows d) := by
  simp only [roster, if_pos hin, if_neg hnew]

theorem roster_missing (ids lows : List (BitVec 20)) (hops : Nat) (hout : BitVec.ofNat 20 d.deviceId ∉ ids)
    (hup : linkUp d (linkRing k) = true) : roster k (.gather ids lows) hops d =
      sendGather (linkRing k) (hops + 1) (ids ++ [BitVec.ofNat 20 d.deviceId]) (lows ++ ownLows (linkRing k) d) d := by
  simp only [roster, if_neg hout, if_pos hup]

/-- What goes to the root ends there. -/
theorem passRoster_root (kind pos hops : Nat) (ids : List (BitVec 20)) (take : Ring → Ring) (hroot : (take d.ring).root = true) :
    passRoster kind pos hops ids take d = rootRoster (d.modRing take) := if_pos hroot

end

/-! ### Detours and fault reports (R301, R302, R401–R403) -/

section
variable (d : Dev)

/-- A notice that comes in time and names a program alternate arms its detour. -/
theorem detourNotice_arms (k a low L hops origin : Nat) (x : Nat × Alternate) (e : Dev) (hnew : (linkRing k, low, L) ∉ d.ring.noticed)
    (he : e = sendCell (otherLink k) 4 (linkRing k) (hops + 1) origin (leBytes 8 a ++ leBytes 8 low ++ leBytes 8 L)
      (d.modRing fun r => { r with noticed := r.noticed ++ [(linkRing k, low, L)] }))
    (hx : e.alternates[a]? = some x) (hprogram : x.2.kind = 1) (hahead : e.canal.lockage < L) :
    detourNotice k a low L origin hops d = armDetour a (linkRing k) low L e := by
  unfold detourNotice
  dsimp only
  rw [if_neg hnew, ← he]
  simp only [hx, hprogram, ne_eq, not_true_eq_false, if_false, if_neg (Nat.not_le.mpr hahead)]

theorem faultReport_update_root (c : FaultCell) (hupdate : c.update = true) (hroot : d.ring.root = true) :
    faultReport c d = d.modRel fun m => { m with suppressed := satAdd (2 ^ 32 - 1) m.suppressed c.duplicates.toNat } := by
  rw [faultReport, if_pos hupdate, if_pos hroot]

theorem faultReport_first (c : FaultCell) (hfirst : c.update = false) :
    faultReport c d = coalesce (FaultCell.record c) c.duplicates.toNat d := by
  rw [faultReport, if_neg (by simp [hfirst])]

variable (id : Word) (e : CoalEntry) (he : (d.rel.coal.find? fun e => e.identity == id) = some e)
include he

/-- The gather ends 5 µs after the first report, with the report's sending. -/
theorem gatherEnd_due (hheld : e.forwarded = none) (hdue : e.since + 5000 ≤ d.uptime) :
    gatherEnd id d = forwardReport e.record e.count (d.modRel fun m =>
      { m with coal := m.coal.map fun x => if x.identity == id then { x with forwarded := some x.count } else x }) := by
  have hopen : ¬ (e.forwarded.isSome ∨ d.uptime < e.since + 5000) := by
    rw [hheld]
    simp [Nat.not_lt.mpr hdue]
  simp only [gatherEnd, he, if_neg hopen]

/-- An entry whose count has not grown since is freed 10 ms after the first report. -/
theorem entryEnd_due (hsame : e.forwarded = some e.count) (hdue : e.since + 10000000 ≤ d.uptime) :
    entryEnd id d = d.modRel fun m => { m with coal := m.coal.filter fun x => !(x.identity == id) } := by
  simp only [entryEnd, he, if_neg (Nat.not_lt.mpr hdue), hsame, Option.getD_some, Nat.sub_self, if_true]

end

/-! ### Links and the bypass (R298, R304) -/

section
variable (d : Dev)

/-- A training within both limits, over at most one closed bypass. -/
theorem training_good {t : Training} (hok : t.ok = true) (hspan : t.bypasses < 2) (hbarge : t.barge ≤ 300)
    (hcell : t.cell ≤ if t.bypasses = 1 then 100 else 50) :
    (t.ok && decide (t.bypasses < 2) && decide (t.barge ≤ 300) && decide (t.cell ≤ if t.bypasses = 1 then 100 else 50)) = true := by
  simp [hok, hspan, hbarge, hcell]

theorem linkTraining_up (k : Nat) (t : Training) (hopen : (tget {} d.ring.pairs (linkRing k)).open_ = true) (hready : d.ring.ready = true)
    (hok : t.ok = true) (hspan : t.bypasses < 2) (hbarge : t.barge ≤ 300) (hcell : t.cell ≤ if t.bypasses = 1 then 100 else 50) :
    linkTraining k t d = (((d.modLink k fun l => { l with
        state := 2, missed := 0, latency := t.barge, cellLatency := t.cell, asym := t.asym, peer := t.peer, nextDue := nextBeat d.beat,
        retrains := satAdd 65535 l.retrains (b2n (decide (0 < (d.link k).nextDue))) }).modManifest fun m =>
      { m with unhealthy := delSet (0x400 + k) m.unhealthy }).onLane fun c => (CellLane.restart k c, [])) := by
  unfold linkTraining
  dsimp only
  rw [training_good hok hspan hbarge hcell, if_neg (by simp [hopen])]
  simp only [hok, if_true]
  exact if_pos hready

theorem lapse_open (cause p : Nat) (hopen : (tget {} d.ring.pairs p).open_ = true) :
    lapse cause p d = (post 0x0D04 (unitBlock 4 12 p) 0 (syn [(32, 1, p), (33, 1, cause)])
      (d.modRing fun r => { r with pairs := tmod {} r.pairs p fun b => { b with open_ := false, closing := true } })).emit
        (.pin (bypPin p) true) := if_pos hopen

theorem switchClosed_closing (p : Nat) (hclosing : (tget {} d.ring.pairs p).closing = true) :
    switchClosed p d = ((d.modRing fun r => { r with pairs := tmod {} r.pairs p fun b => { b with closing := false } }).modLink p
      fun l => { l with state := 4 }).modLink (p + 2) fun l => { l with state := 4 } := if_pos hclosing

/-! ### The timebase and its outputs (R308, R311) -/

/-- The timebase without the source that it follows. -/
def TimeSt.sourceGone (t : TimeSt) : TimeSt :=
  { t with ppsOk := t.ppsOk && decide (t.source ≠ 1), ptpOk := t.ptpOk && decide (t.source ≠ 2) }

/-- The root that loses the source it follows goes on with the first one left, or in holdover, from the time that it has. -/
theorem sourceLost_time (hroot : d.ring.root = true) (hfollows : d.time.source = 1 ∨ d.time.source = 2) :
    (sourceLost d).time = { d.time.sourceGone with
      source := nextSource d.time.sourceGone, state := if nextSource d.time.sourceGone = 4 then 3 else 1, good := 0 } := by
  have hgoes : ¬ (d.ring.root = false ∨ (d.time.source ≠ 1 ∧ d.time.source ≠ 2)) := by
    rintro (hmember | ⟨hpps, hptp⟩)
    · simp [hroot] at hmember
    · exact hfollows.elim hpps hptp
  unfold sourceLost
  rw [if_neg hgoes, post_time]
  rfl

/-- Away from the root, and while the TAI second is not known, the PPS and 10 MHz inputs are only monitored. -/
theorem ppsIn_monitored (tenMhz : Bool) (h : d.ring.root = false ∨ d.time.secondKnown = false) :
    ppsIn tenMhz d = d.modTime fun t => { t with ppsOk := tenMhz } := if_pos (or_assoc.mp (.inl h))

/-- The root whose TAI second is known follows an edge by its distance to the nearest whole second, where the 10 MHz input runs. -/
theorem ppsIn_root (tenMhz : Bool) (x : Int) (hroot : d.ring.root = true) (hknown : d.time.secondKnown = true)
    (hx : x = stampOf d.time.ns d.time.frac % (1000000000 * 4294967296)) :
    ppsIn tenMhz d = if tenMhz = true then
        steer (if x * 2 < 1000000000 * 4294967296 then x else x - 1000000000 * 4294967296)
          (d.modTime fun t => { t with ppsOk := true, source := 1, state := if t.source = 1 then t.state else 1, counting := true })
      else d.modTime fun t => { t with ppsOk := false } := by
  subst hx
  unfold ppsIn
  cases tenMhz with
  | false => exact if_pos (.inr (.inr rfl))
  | true =>
    have hfollows : ¬ (d.ring.root = false ∨ d.time.secondKnown = false ∨ true = false) := by simp [hroot, hknown]
    exact if_neg hfollows

variable (o : Nat)

theorem ppsOutput_rises (hmode : tget 0 d.time.pps o = 1) (hlocked : d.time.state = 2) (hlow : tget 0 d.time.ppsHigh o = 0)
    (hsecond : d.time.ns.toNat % 1000000000 = 0) : ppsOutput o d =
      (d.modTime fun t => { t with ppsHigh := tset 0 t.ppsHigh o (t.ns.toNat + 1) }).emit (.ppsEdge o true) := by
  unfold ppsOutput
  dsimp only
  rw [if_neg (not_not.mpr hlow), if_neg (not_not.mpr hlocked), if_pos hmode, if_pos hsecond]

theorem ppsOutput_falls (hhigh : tget 0 d.time.ppsHigh o ≠ 0) (hdue : tget 0 d.time.ppsHigh o - 1 + 100000000 ≤ d.time.ns.toNat) :
    ppsOutput o d = (d.modTime fun t => { t with ppsHigh := tset 0 t.ppsHigh o 0 }).emit (.ppsEdge o false) := by
  unfold ppsOutput
  dsimp only
  rw [if_pos hhigh, if_pos (.inr (.inr hdue)), ppsFall]

/-- In mode 2 a pulse marks slot 0 of a step-start lockage. -/
theorem ppsOutput_marks (hmode : tget 0 d.time.pps o = 2) (hlocked : d.time.state = 2) (hlow : tget 0 d.time.ppsHigh o = 0)
    (haligned : d.canal.aligned = true) (hslot : d.canal.slot = 0) (hstep : isStepStart d d.canal.lockage = true) :
    ppsOutput o d = d.emit (.ppsEdge o true) := by
  unfold ppsOutput
  dsimp only
  rw [if_neg (not_not.mpr hlow), if_neg (not_not.mpr hlocked), if_neg (by rw [hmode]; decide),
    if_pos (by simp [hmode, haligned, hslot, hstep])]

end

/-! ### The cells and events as commands -/

section
variable (s : State) (hon : s.On)
include hon

theorem heartbeatSend_gives (k : Fin 4) : ∃ d, Gives .heartbeatSend s d ∧
    ((tget {} s.dev.ring.pairs (linkRing k.val)).open_ = true → (s.dev.link k.val).sendDue ≤ s.dev.beat →
      (tget {} s.dev.power.domains (53 + k.val)).state ≠ 3 → (2 ≤ k.val → s.dev.ctrl.eastStopped = false) →
      BeatSent d k.val s.dev.beat s.dev.uptime) := by
  refine ⟨sendHeartbeats s.dev, gives_onDev rfl hon rfl, fun hopen hsend hpowered hwest => ?_⟩
  have hdue : BeatDue s.dev k.val s.dev.beat := by
    rintro (hclosed | hearly | hoff | ⟨heast, hstopped⟩)
    · simp [hopen] at hclosed
    · omega
    · exact hpowered hoff
    · simp [hwest heast] at hstopped
  have hk : k.val ∈ [0, 1, 2, 3] := by simp; omega
  exact foldl_sendHeartbeat_sent s.dev.beat s.dev k.val [0, 1, 2, 3] (by decide) hk hdue

theorem report_gives (k : Fin 4) (p : Nat) (ids : List (BitVec 20)) (hops : Nat) (hroot : s.dev.ring.root = true) :
    Gives (.roster k (.report p ids) hops) s
        (rootRoster (s.dev.modRing fun r => { r with memberRosters := tput r.memberRosters p ids })) ∧
      Gives (.roster k (.column p ids) hops) s (rootRoster (s.dev.modRing fun r => { r with columns := tput r.columns p ids })) :=
  ⟨gives_onDev rfl hon (passRoster_root s.dev 1 p hops ids _ hroot), gives_onDev rfl hon (passRoster_root s.dev 2 p hops ids _ hroot)⟩

/-- A report that reaches the root is heard there, while the core that serves it is up (R353). -/
theorem broadcast_report_gives (k : Fin 4) (origin : BitVec 20) (hops : Nat) (b : Bcast) (hreport : Bcast.isReport b = true)
    (hroot : s.dev.ring.root = true) (hup : s.dev.restarting 2 = false) :
    Gives (.broadcast k origin hops b) s (hear origin.toNat b s.dev) := by
  have hexec : exec (.broadcast k origin hops b) s = onDev (broadcastCell k.val origin.toNat hops b) s := whileUp_up 2 _ _ s hup
  refine gives_onDev hexec hon ?_
  rw [broadcastCell, if_pos hreport, if_pos hroot]

theorem bypassHoldLapse_gives (p : Fin 2) (cause : Nat) (hcause : holdCause s.dev p.val = some cause)
    (hopen : (tget {} s.dev.ring.pairs p.val).open_ = true) :
    Gives (.bypassHoldLapse p) s ((post 0x0D04 (unitBlock 4 12 p.val) 0 (syn [(32, 1, p.val), (33, 1, cause)])
      (s.dev.modRing fun r => { r with pairs := tmod {} r.pairs p.val fun b => { b with open_ := false, closing := true } })).emit
        (.pin (bypPin p.val) true)) := by
  have hexec : exec (.bypassHoldLapse p) s = execBypassHoldLapse p s := rfl
  rw [Gives, hexec, execBypassHoldLapse, onDev_on _ _ hon]
  simp only [hcause, lapse_open s.dev cause p.val hopen]

theorem timeSourceLost_gives (hroot : s.dev.ring.root = true) (hfollows : s.dev.time.source = 1 ∨ s.dev.time.source = 2) :
    ∃ d, Gives .timeSourceLost s d ∧ d.time.source = nextSource s.dev.time.sourceGone ∧
      d.time.state = (if d.time.source = 4 then 3 else 1) ∧ d.time.ns = s.dev.time.ns := by
  refine ⟨sourceLost s.dev, gives_onDev rfl hon rfl, ?_⟩
  rw [sourceLost_time s.dev hroot hfollows]
  exact ⟨rfl, rfl, rfl⟩

/-- Whether the 10 MHz input runs is drawn (log entry 147). -/
theorem ppsIn_gives {d e : Dev} (hd : d = { s.dev with fresh := s.dev.fresh + 1 }) (he : ppsIn (Config.tenMhz s.dev.fresh) d = e) :
    Gives .ppsIn s e := by
  have hexec : exec .ppsIn s = onDev (fun d => ppsIn (d.draw Config.tenMhz).1 (d.draw Config.tenMhz).2) s := rfl
  subst hd
  exact gives_onDev hexec hon he

end

/-! ### The commands of the ring and of cluster time (R304, R308–R311) -/

section
variable (c : Cmd) (s : State)

theorem ringLinkStatus_answers (k : Nat) (h : Serves { i3c := true } c s) (hk : k < 4) : Answers (.cmdRingLinkStatus c k) c s
    (ok [(s.dev.link k).state, (s.dev.link k).latency, (s.dev.link k).peer.toNat, (s.dev.link k).fecCorrected,
      (s.dev.link k).crcCells, (s.dev.link k).retrains]) s.dev := by
  refine answers_of_mailbox rfl h ?_
  dsimp only
  rw [if_neg (by omega)]

theorem ringBypass_answers (p : Nat) (h : Serves { block := some 12 } c s) (hp : p < 2) : Answers (.cmdRingBypass c p) c s (ok [])
    (lapse 2 p (s.dev.modRing fun r => { r with pairs := tmod {} r.pairs p fun b => { b with commanded := true } })) := by
  refine answers_of_mailbox rfl h ?_
  rw [if_neg (by omega)]

theorem timeSet_answers (ns : Word) (h : Serves { block := some 12 } c s) (hroot : s.dev.ring.root = true)
    (hbefore : s.dev.canal.aligned = false) (hforward : s.dev.time.ns.toNat ≤ ns.toNat) : Answers (.cmdTimeSet c ns) c s (ok [])
      (s.dev.modTime fun t => { t with ns := ns, frac := 0, slew := 0, secondKnown := true, counting := true }) := by
  refine answers_of_mailbox rfl h ?_
  rw [if_neg (by simp [hroot, hbefore, hforward])]

theorem ptpSet_answers (port role domain transport : Nat) (h : Serves {} c s) (hport : port < 8) (hrole : role ≤ 2) (hdomain : domain < 128)
    (htransport : transport < 3)
    (hslave : role = 2 → s.dev.ring.root = true ∧ ∀ p, p < 8 → p ≠ port → (tget (0, 0, 0) s.dev.time.ptp p).1 ≠ 2) :
    Answers (.cmdPtpSet c port role domain transport) c s (ok []) ((s.dev.modTime fun t => { t with
      ptp := tset (0, 0, 0) t.ptp port (role, domain, transport),
      slave := if (tget (0, 0, 0) s.dev.time.ptp port).1 = 2 ∨ role = 2 then {} else t.slave,
      ptpOk := t.ptpOk && decide ((tget (0, 0, 0) s.dev.time.ptp port).1 ≠ 2) }).emit (.ptpRole port role)) := by
  have hfree : ¬ (role = 2 ∧ (s.dev.ring.root = false ∨
      ((List.range 8).any fun p => decide (p ≠ port ∧ (tget (0, 0, 0) s.dev.time.ptp p).1 = 2)) = true)) := by
    rintro ⟨hrole2, hmember | htaken⟩
    · simp [(hslave hrole2).1] at hmember
    · obtain ⟨p, hp, hother⟩ := List.any_eq_true.mp htaken
      obtain ⟨hne, htwo⟩ := of_decide_eq_true hother
      exact (hslave hrole2).2 p (List.mem_range.mp hp) hne htwo
  refine answers_of_mailbox rfl h ?_
  dsimp only
  rw [if_neg (by simp only [hfree, or_false]; omega)]
  simp only [Bool.or_eq_true, decide_eq_true_eq, decide_not]

theorem ppsSet_answers (output mode : Nat) (h : Serves { block := some 12 } c s) (houtput : output < 4) (hmode : mode < 3) :
    Answers (.cmdPpsSet c output mode) c s (ok []) (setPps output mode s.dev) := by
  refine answers_of_mailbox rfl h ?_
  rw [if_neg (by omega)]

end

/-- Settles O40: cell by cell, event by event and command by command. -/
theorem ringComplete : Obligations.RingComplete := by
  refine ⟨fun k s hon => ⟨?_, ?_, heartbeatSend_gives s hon k, ?_, ?_, ?_, ?_, report_gives s hon k, ?_, ?_, ?_, ?_, ?_,
    broadcast_report_gives s hon k, ?_⟩, fun s hon => ⟨?_, bypassHoldLapse_gives s hon, ?_, timeSourceLost_gives s hon, ?_, ?_, ?_, ?_⟩,
    fun c s => ⟨fun h => answers_of_mailbox rfl h rfl, ringLinkStatus_answers c s, ringBypass_answers c s,
      fun h => answers_of_mailbox rfl h rfl, timeSet_answers c s, ptpSet_answers c s, ppsSet_answers c s⟩⟩
  · exact fun hup hfew hlate => gives_onDev rfl hon (heartbeatMiss_counts s.dev k.val hup hfew hlate)
  · exact fun h due e hgood hfec hup he hroot hdue htime =>
      gives_onDev rfl hon (heartbeatReceive_root s.dev k.val h due hgood hfec hup he hroot hdue htime)
  · exact fun id hops hstands hid hfirst hup => gives_onDev rfl hon (assemble_lower s.dev k.val id hops hstands hid hfirst hup)
  · exact fun id hops hstands hid => gives_onDev rfl hon (assemble_own s.dev k.val id hops hstands hid)
  · exact fun ids lows hops hin hnew => gives_onDev rfl hon (roster_complete s.dev k.val ids lows hops hin hnew)
  · exact fun ids lows hops hout hup => gives_onDev rfl hon (roster_missing s.dev k.val ids lows hops hout hup)
  · exact fun a low L hops origin x d hnew hd hx hprogram hahead =>
      gives_onDev rfl hon (detourNotice_arms s.dev k.val a low L hops origin.toNat x d hnew hd hx hprogram hahead)
  · exact fun c hupdate hroot => gives_onDev rfl hon (faultReport_update_root s.dev c hupdate hroot)
  · exact fun c hfirst => gives_onDev rfl hon (faultReport_first s.dev c hfirst)
  · exact fun id e he hheld hdue => gives_onDev rfl hon (gatherEnd_due s.dev id e he hheld hdue)
  · exact fun id e he hsame hdue => gives_onDev rfl hon (entryEnd_due s.dev id e he hsame hdue)
  · exact fun h hbad hup => gives_onDev rfl hon (heartbeatReceive_bad s.dev k.val h hbad hup)
  · exact fun k t hopen hready hok hspan hbarge hcell =>
      gives_onDev rfl hon (linkTraining_up s.dev k.val t hopen hready hok hspan hbarge hcell)
  · exact fun p hclosing => gives_onDev rfl hon (switchClosed_closing s.dev p.val hclosing)
  · exact fun d hd hmonitors => ppsIn_gives s hon hd (ppsIn_monitored d _ (by rwa [hd]))
  · exact fun x d hd hroot hknown hx =>
      ppsIn_gives s hon hd (ppsIn_root d _ x (by rwa [hd]) (by rwa [hd]) (by rwa [hd]))
  · exact fun o hmode hlocked => ⟨fun hlow hsecond => gives_onDev rfl hon (ppsOutput_rises s.dev o.val hmode hlocked hlow hsecond),
      fun hhigh hdue => gives_onDev rfl hon (ppsOutput_falls s.dev o.val hhigh hdue)⟩
  · exact fun o hmode hlocked hlow haligned hslot hstep =>
      gives_onDev rfl hon (ppsOutput_marks s.dev o.val hmode hlocked hlow haligned hslot hstep)

end Sys2Proof.Machine

/-! SUPPORT. The statement of the storage chapter, refuted: a FLUSH that covers a lost write. -/

namespace Sys2Proof.Machine

/-! ### A FLUSH whose covered write has been lost (R321, R327) -/

/-- A FLUSH that is marked as failed ends with that status and sends nothing, once no write that it covers is buffered any more. -/
theorem runFlush_failed {id : Nat} {d : Dev} {x : StorCmd} (hcmd : d.storCmd id = some x) (hop : x.opcode = 3) (hphase : x.phase = 0)
    (hgone : (d.storage.buffer.any fun b => x.covers.contains b.id) = false) (hfailed : x.status ≠ 0) :
    runFlush id d = endCmd id x.status d := by
  have hruns : ¬ (x.opcode ≠ 3 ∨ x.phase ≠ 0 ∨ (d.storage.buffer.any fun b => x.covers.contains b.id) = true) := by
    simpa [hop, hphase] using hgone
  simp only [runFlush, hcmd, if_neg hruns, if_pos hfailed]

/-- Issuing a command keeps it in the list of those at the back-ends. -/
theorem back_length_issueBack (b : BackCmd) (d : Dev) : (issueBack b d).storage.back.length = d.storage.back.length := by
  unfold issueBack
  dsimp only
  split
  · rfl
  · split_ifs with hfull
    · rfl
    all_goals exact List.length_map _

theorem back_length_sendBack (b : BackCmd) (v : Volume) (lba : Nat) (bytes : Bytes) (d : Dev) :
    (sendBack b v lba bytes d).storage.back.length = d.storage.back.length + 1 := by
  unfold sendBack
  dsimp only
  rw [back_length_issueBack]
  exact List.length_append

theorem back_endCmd (id status : Nat) (d : Dev) : (endCmd id status d).storage.back = d.storage.back := rfl

/-- WRITE 5 of volume 0 is in the write buffer. -/
def bufferedWrite : Buffered := { id := 5, blocks := 1, destaging := true }

/-- FLUSH 6, fetched after it, covers it. -/
def coveringFlush : StorCmd := { id := 6, opcode := 3, covers := [bufferedWrite.id] }

/-- The write of volume 0 is being destaged to drive 8, and the FLUSH waits for it. -/
def flushWaits : State := State.reset.withDev ((State.reset.dev.modPower fun p => { p with state := .full }).modStorage fun x =>
  { x with volumes := [(0, { bound := true, backend := 8, nsid := 1, count := 1 })], buffer := [bufferedWrite], cmds := [coveringFlush] })

/-- The destage has ended with an error: the write is lost. -/
def flushOfLost : State := flushWaits.withDev (endDestage bufferedWrite.id true flushWaits.dev)

theorem flushOfLost_on : flushOfLost.On := by decide +kernel

theorem buffer_flushOfLost : flushOfLost.dev.storage.buffer = [] := by decide +kernel

/-- The loss has marked the FLUSH. -/
theorem storCmd_flushOfLost : flushOfLost.dev.storCmd coveringFlush.id = some { coveringFlush with status := 6 } := by decide +kernel

/-- Refutes O49: its clause for a FLUSH has one without buffered blocks sent on, and a FLUSH that covers a lost write ends with
BACKEND_ERROR instead (R327). -/
theorem not_storageComplete : ¬ Obligations.StorageComplete := by
  rintro ⟨hevents, -⟩
  obtain ⟨-, -, -, hflush, -⟩ := hevents flushOfLost flushOfLost_on
  have hgone (x : StorCmd) : (flushOfLost.dev.storage.buffer.any fun b => x.covers.contains b.id) = false := by
    rw [buffer_flushOfLost]
    rfl
  have hsent := eq_of_gives_onDev rfl flushOfLost_on (hflush coveringFlush.id _ storCmd_flushOfLost rfl rfl (hgone _))
  rw [runFlush_failed storCmd_flushOfLost rfl rfl (hgone _) (by decide)] at hsent
  have hgrown := congrArg (fun d : Dev => d.storage.back.length) hsent
  dsimp only at hgrown
  rw [back_endCmd, back_length_sendBack] at hgrown
  exact absurd hgrown (Nat.lt_succ_self _).ne

end Sys2Proof.Machine

/-! SUPPORT. The statements of the vault and of a step as a whole, settled: what the fuses, the keys, the lifecycle and the debug level may
become, what a device that is off takes, and commands that wait for a core. -/

namespace Sys2Proof.Machine

/-! ### Which commands reach the vault, and a device that is off (R331–R338, R426) -/

/-- A command that may not touch the vault leaves it, in whatever form it acts. -/
theorem Acts.vault_eq {i : Instr} {s t : State} {r : Host.Outcome State Fault Refusal} (h : Acts i s r) (hkeeps : mayTouchVault i = false)
    (ht : r = .next t) : t.vault = s.vault := by
  induction h generalizing t with
  | dev d => cases ht; split <;> rfl
  | power d _ => cases ht; rfl
  | vault _ _ htouches | powerVault _ _ _ htouches => simp [htouches] at hkeeps
  | waits k c now _ ih =>
    unfold whileUp at ht
    split at ht
    · cases ht; rfl
    · exact ih ht
  | restarts core hi => subst hi; cases hkeeps

/-- Without power, a command that is no power event does nothing, in whatever form it acts. -/
theorem Acts.off {i : Instr} {s : State} {r : Host.Outcome State Fault Refusal} (h : Acts i s r) (hoff : s.dev.power.state = .off)
    (hno : powerEvent i = false) : r = .next s := by
  induction h with
  | dev d => rw [if_pos hoff]
  | vault v d _ => rw [if_pos hoff]
  | power _ hevent | powerVault _ _ hevent _ => simp [hevent] at hno
  | waits k c now _ ih => rw [whileUp, if_neg (by simp [hoff]), ih]
  | restarts core _ => exact if_pos hoff

/-- Settles O8: the forms in which commands act. -/
theorem onlySecurityTouchesVault : Obligations.OnlySecurityTouchesVault :=
  fun c s _ hkeeps ht => (exec_acts c s).vault_eq hkeeps ht

/-- Settles O9: the forms in which commands act. -/
theorem poweredOffIgnores : Obligations.PoweredOffIgnores :=
  fun c s hoff hno => (exec_acts c s).off (not_not.mp hoff) hno

/-- Settles O1: with a command at the front of its queue, a step is that command. -/
theorem stepRunsFront : Obligations.StepRunsFront := fun _ _ _ => rfl

/-- Settles O7: the part is new, BLANK at debug level 3, its fuse counter 0. -/
theorem resetVaultLegal : Obligations.ResetVaultLegal := ⟨rfl, Nat.zero_le 64⟩

/-! ### How the vault goes on (R331, R332, R335) -/

/-- A vault that may follow another: the lifecycle does not go back, the fuse counter does not fall, and what was legal stays so. -/
def Vault.Advances (v w : Vault) : Prop := v.lifecycle ≤ w.lifecycle ∧ v.minVersion ≤ w.minVersion ∧ (v.Legal → w.Legal)

section
variable {v w x : Vault}

theorem Vault.Advances.refl (v : Vault) : v.Advances v := ⟨le_rfl, le_rfl, id⟩

theorem Vault.Advances.trans (h : v.Advances w) (g : w.Advances x) : v.Advances x :=
  ⟨h.1.trans g.1, h.2.1.trans g.2.1, g.2.2 ∘ h.2.2⟩

/-- Keys alone change nothing of it. -/
theorem Vault.Advances.of_keys (hlifecycle : w.lifecycle = v.lifecycle) (hdebug : w.debug = v.debug) (hversion : w.minVersion = v.minVersion) :
    v.Advances w := by
  refine ⟨hlifecycle.ge, hversion.ge, ?_⟩
  rintro ⟨hlevel, hcount⟩
  exact ⟨by rwa [hlifecycle, hdebug], hversion.trans_le hcount⟩

/-- A debug level that the lifecycle state allows, in a lifecycle state that keeps. -/
theorem Vault.Advances.of_debug (hlifecycle : w.lifecycle = v.lifecycle) (hversion : w.minVersion = v.minVersion)
    (hlevel : v.Legal → levelLegal v.lifecycle w.debug) : v.Advances w := by
  refine ⟨hlifecycle.ge, hversion.ge, fun hlegal => ⟨hlifecycle ▸ hlevel hlegal, hversion.trans_le hlegal.2⟩⟩

/-- The level of a reset is one that its lifecycle state allows, unless the state is reserved. -/
theorem levelLegal_debugAtReset : ∀ {lifecycle level : Nat}, levelLegal lifecycle level → levelLegal lifecycle (debugAtReset lifecycle)
  | 0, _, _ | 3, _, _ | 4, _, _ => rfl
  | 1, _, _ | 2, _, _ => Nat.zero_le _
  | _ + 5, _, h => h.elim

/-- A reset leaves the keys that it leaves, and the debug level of R332. -/
theorem Vault.Advances.of_reset (hlifecycle : w.lifecycle = v.lifecycle) (hversion : w.minVersion = v.minVersion)
    (hdebug : w.debug = debugAtReset v.lifecycle) : v.Advances w :=
  .of_debug hlifecycle hversion fun hlegal => hdebug ▸ levelLegal_debugAtReset hlegal.1

/-- CMD_SEC_DEBUG_SET: any level in OWNED, at most 1 in PROVISIONED. -/
theorem advances_setDebug (level : Nat) (hlevel : level ≤ 3) (hstate : v.lifecycle = 1 ∨ v.lifecycle = 2)
    (hprovisioned : v.lifecycle = 1 → level ≤ 1) : v.Advances { v with debug := level } := by
  refine .of_debug rfl rfl fun _ => ?_
  obtain h | h := hstate
  · exact h ▸ hprovisioned h
  · exact h ▸ hlevel

/-- CMD_SEC_LIFECYCLE: into RMA from OWNED, into SCRAPPED from OWNED or RMA. -/
theorem advances_enterLifecycle (target : Nat)
    (hmove : target = 3 ∧ v.lifecycle = 2 ∨ target = 4 ∧ (v.lifecycle = 2 ∨ v.lifecycle = 3)) : v.Advances (enterLifecycle target v) := by
  obtain ⟨rfl, hfrom⟩ | ⟨rfl, hfrom⟩ := hmove
  · exact ⟨hfrom.trans_le (by decide : 2 ≤ 3), le_rfl, fun hlegal => ⟨rfl, hlegal.2⟩⟩
  · have hlater : v.lifecycle ≤ 4 := by omega
    exact ⟨hlater, le_rfl, fun hlegal => ⟨rfl, hlegal.2⟩⟩

/-- CMD_SEC_VERSION_COMMIT: a version within the fuses and not below those committed. -/
theorem advances_commitVersion (n : Nat) (hfuses : n ≤ 64) (hversion : v.minVersion ≤ n) : v.Advances { v with minVersion := n } :=
  ⟨le_rfl, hversion, fun hlegal => ⟨hlegal.1, hfuses⟩⟩

/-- CMD_KEY_LOAD: the first MANIFEST key takes PROVISIONED to OWNED, which allows every level that PROVISIONED does. -/
theorem advances_storeKey (target : Nat) (k : KeySlot) : v.Advances (storeKey target k v) := by
  by_cases hfirst : v.lifecycle = 1 ∧ k.use = 2
  · have howned : (storeKey target k v).lifecycle = 2 := if_pos hfirst
    refine ⟨by omega, le_rfl, fun hlegal => ⟨?_, hlegal.2⟩⟩
    obtain ⟨hlevel, -⟩ := hlegal
    rw [hfirst.1] at hlevel
    rw [howned]
    exact hlevel.trans (by decide : 1 ≤ 3)
  · exact .of_keys (if_neg hfirst) rfl rfl

/-! ### The commands that may change the vault -/

/-- Whatever an outcome's next state is, its vault may follow the state's. -/
def Advancing (s : State) (r : Host.Outcome State Fault Refusal) : Prop := ∀ t, r = .next t → s.vault.Advances t.vault

variable {s : State}

theorem advancing_vault_eq {r : Host.Outcome State Fault Refusal} (h : ∀ t, r = .next t → t.vault = s.vault) : Advancing s r :=
  fun t ht => .of_keys (congrArg _ (h t ht)) (congrArg _ (h t ht)) (congrArg _ (h t ht))

theorem advancing_onVault {f : Vault → Dev → Vault × Dev} (h : s.vault.Advances (f s.vault s.dev).1) : Advancing s (onVault f s) := by
  rintro t ht
  cases ht
  split
  · exact .refl _
  · exact h

theorem advances_mailboxV {c : Cmd} {g : Guard} {f : Vault → Dev → Reply × Vault × Dev} {d : Dev} (h : v.Advances (f v d).2.1) :
    v.Advances (mailboxV c g f v d).1 := by
  unfold mailboxV
  split
  · exact .refl v
  · split
    · exact .refl v
    · exact h

theorem advances_authorised {code param : Nat} {tag : Bytes} {f : Vault → Dev → Reply × Vault × Dev} {d : Dev}
    (h : ∀ e, v.Advances (f v e).2.1) : v.Advances (authorised code param tag f v d).2.1 := by
  unfold authorised
  split
  · exact .refl v
  · exact h _

theorem advancing_secDebugSet (c : Cmd) (level : Nat) (tag : Bytes) : Advancing s (nowCmdSecDebugSet c level tag s) := by
  refine advancing_onVault (advances_mailboxV ?_)
  dsimp only
  split
  · exact .refl _
  · refine advances_authorised fun _ => advances_setDebug level ?_ ?_ ?_ <;> omega

theorem advancing_secLifecycle (c : Cmd) (target : Nat) (tag : Bytes) : Advancing s (nowCmdSecLifecycle c target tag s) := by
  refine advancing_onVault (advances_mailboxV ?_)
  dsimp only
  split
  · exact .refl _
  next hmove =>
    split
    · exact .refl _
    · split
      · exact .refl _
      · exact advances_authorised fun _ => advances_enterLifecycle target
          (by simpa only [Bool.not_eq_true', Bool.not_eq_false, Bool.or_eq_true, decide_eq_true_eq] using hmove)

theorem advancing_secVersionCommit (c : Cmd) (tag : Bytes) : Advancing s (nowCmdSecVersionCommit c tag s) := by
  refine advancing_onVault (advances_mailboxV ?_)
  dsimp only
  split
  · exact .refl _
  · refine advances_authorised fun _ => advances_commitVersion _ ?_ ?_ <;> omega

theorem advancing_keyLoad (c : Cmd) (target wrapping space address : Nat) (fetched : Bytes) :
    Advancing s (nowCmdKeyLoad c target wrapping space address fetched s) := by
  refine advancing_onVault (advances_mailboxV ?_)
  dsimp only
  split
  · exact .refl _
  · split
    · exact .refl _
    · split
      · exact .refl _
      · split
        · exact .refl _
        · exact advances_storeKey _ _

theorem advancing_keyErase (c : Cmd) (slot : Nat) (tag : Bytes) : Advancing s (execCmdKeyErase c slot tag s) := by
  refine advancing_onVault (advances_mailboxV ?_)
  split
  · exact .refl _
  · split
    · exact .refl _
    · split
      · exact .refl _
      · exact advances_authorised fun _ => .of_keys rfl rfl rfl

theorem advancing_romSelfTest (dimms : List (Nat × Bool)) (rate : Nat) : Advancing s (execRomSelfTest dimms rate s) := by
  refine advancing_onVault ?_
  unfold romStage
  split
  · exact .refl _
  · exact .of_keys rfl rfl rfl

theorem advancing_warmReset : Advancing s (execWarmReset s) := by
  refine advancing_onVault ?_
  unfold warmDue
  split
  · exact .refl _
  · split
    · exact .of_reset rfl rfl rfl
    · split
      · exact .of_reset rfl rfl rfl
      · exact .refl _

theorem advancing_coldReset (straps : Fin 4) : Advancing s (execColdReset straps s) := by
  rintro t ht
  cases ht
  dsimp only [coldReset]
  split
  · exact .refl _
  · exact .of_reset rfl rfl rfl

/-! ### Commands that a core has held (R353) -/

theorem advancing_whileUp {k : Nat} {c : HeldCmd} {now : State → Host.Outcome State Fault Refusal} (h : Advancing s (now s)) :
    Advancing s (whileUp k c now s) := by
  unfold whileUp
  split
  · exact advancing_vault_eq fun t ht => by cases ht; rfl
  · exact h

/-- A command that waited moves the vault as it would have at its go. -/
theorem advancing_resume (c : HeldCmd) : Advancing s (resume c s) := by
  cases c with
  | cmdSecDebugSet => exact advancing_secDebugSet _ _ _
  | cmdSecLifecycle => exact advancing_secLifecycle _ _ _
  | cmdSecVersionCommit => exact advancing_secVersionCommit _ _
  | cmdKeyLoad => exact advancing_keyLoad _ _ _ _ _ _
  | cmdSecStatus | cmdExpertChallenge | cmdSecChallenge | cmdRngRead | stewardshipClaim | broadcast | cmdTileStatus | cmdTileRestart
  | cmdTileReadOps | cmdPowerStatus | cmdPowerCapSet | cmdResetWarm | cmdClockStatus =>
    exact advancing_vault_eq fun t ht => by cases ht; split <;> rfl

theorem advancing_resumeAll (cs : List HeldCmd) : ∀ s : State, Advancing s (resumeAll cs s) := by
  induction cs with
  | nil => exact fun s => advancing_vault_eq fun t ht => by cases ht; rfl
  | cons c cs ih =>
    intro s t ht
    obtain ⟨u, hu, -⟩ := completes_resume c { s with dev := unhold c s.dev }
    rw [resumeAll, hu] at ht
    exact (advancing_resume c u hu).trans (ih u t ht)

theorem advancing_coreRestartComplete (core : Fin 19) : Advancing s (execCoreRestartComplete core s) := by
  unfold execCoreRestartComplete
  split
  · exact advancing_vault_eq fun t ht => by cases ht; rfl
  · obtain ⟨u, hu, -⟩ : Completes s (onDev (restartDone core.val) s) := completes_dev s _
    have hvault : Advancing s (.next u) := advancing_vault_eq fun t ht => by cases ht; exact (onDev_frame _ s u hu).2
    rw [hu]
    dsimp only
    split
    · exact fun t ht => (hvault u rfl).trans (advancing_resumeAll _ (takeHeld core.val u) t ht)
    · exact hvault

/-- Every command: those that may touch the vault one by one, the others leave it. -/
theorem exec_advancing (c : Instr) (s : State) : Advancing s (exec c s) := by
  by_cases hkeeps : mayTouchVault c = false
  · exact advancing_vault_eq fun t ht => onlySecurityTouchesVault c s t hkeeps ht
  · cases c with
    | romSelfTest => exact advancing_romSelfTest _ _
    | coldReset => exact advancing_coldReset _
    | warmReset => exact advancing_warmReset
    | cmdSecDebugSet => exact advancing_whileUp (advancing_secDebugSet _ _ _)
    | cmdSecLifecycle => exact advancing_whileUp (advancing_secLifecycle _ _ _)
    | cmdSecVersionCommit => exact advancing_whileUp (advancing_secVersionCommit _ _)
    | cmdKeyLoad => exact advancing_whileUp (advancing_keyLoad _ _ _ _ _ _)
    | cmdKeyErase => exact advancing_keyErase _ _ _
    | coreRestartComplete => exact advancing_coreRestartComplete _
    | _ => exact absurd rfl hkeeps

/-- A step moves the vault only forward, whether a command runs or a nanosecond passes. -/
theorem step_advances {s t : State} (h : step s = .next t) : s.vault.Advances t.vault := by
  unfold step at h
  split at h
  · cases h; exact .refl _
  next c rest _ => exact exec_advancing c { s with pending := rest } t h

end

/-- Settles O4: a step moves the vault only forward. -/
theorem lifecycleNeverReturns : Obligations.LifecycleNeverReturns := fun _ _ h => (step_advances h).1

/-- Settles O5: a step moves the vault only forward. -/
theorem minVersionNeverFalls : Obligations.MinVersionNeverFalls := fun _ _ h => (step_advances h).2.1

/-- Settles O6: a step moves the vault only forward. -/
theorem vaultStaysLegal : Obligations.VaultStaysLegal := fun _ _ hlegal h => (step_advances h).2.2 hlegal

/-! ### Commands that wait for a core (R353, R359) -/

/-- A command that a core serves runs through `whileUp` for that core, under the form in which it waits; what it does later, it would do now. -/
theorem exec_waits {i : Instr} {k : Nat} {d : Dev} (hk : waitsFor d i = some k) :
    ∃ h : HeldCmd, h.source = (commandClass i).map (fun x => x.1.src.val) ∧
      ∀ u : State, ∃ j, waitsFor u.dev i = some j ∧ exec i u = whileUp j h (resume h) u := by
  cases i with
  | cmdSecStatus c => exact ⟨.cmdSecStatus c, rfl, fun _ => ⟨_, rfl, rfl⟩⟩
  | cmdSecChallenge c code => exact ⟨.cmdSecChallenge c code, rfl, fun _ => ⟨_, rfl, rfl⟩⟩
  | cmdSecDebugSet c level tag => exact ⟨.cmdSecDebugSet c level tag, rfl, fun _ => ⟨_, rfl, rfl⟩⟩
  | cmdSecLifecycle c target tag => exact ⟨.cmdSecLifecycle c target tag, rfl, fun _ => ⟨_, rfl, rfl⟩⟩
  | cmdSecVersionCommit c tag => exact ⟨.cmdSecVersionCommit c tag, rfl, fun _ => ⟨_, rfl, rfl⟩⟩
  | cmdKeyLoad c target wrapping space address b => exact ⟨.cmdKeyLoad c target wrapping space address b, rfl, fun _ => ⟨_, rfl, rfl⟩⟩
  | cmdRngRead c length => exact ⟨.cmdRngRead c length, rfl, fun _ => ⟨_, rfl, rfl⟩⟩
  | cmdExpertChallenge c block => exact ⟨.cmdExpertChallenge c block, rfl, fun _ => ⟨_, rfl, rfl⟩⟩
  | stewardshipClaim east epoch => exact ⟨.stewardshipClaim east epoch, rfl, fun _ => ⟨_, rfl, rfl⟩⟩
  | broadcast link origin hops b => exact ⟨.broadcast link origin hops b, rfl, fun _ => ⟨_, rfl, rfl⟩⟩
  | cmdTileStatus c tile => exact ⟨.cmdTileStatus c tile, rfl, fun _ => ⟨_, rfl, rfl⟩⟩
  | cmdTileRestart c logical mask => exact ⟨.cmdTileRestart c logical mask, rfl, fun _ => ⟨_, rfl, rfl⟩⟩
  | cmdTileReadOps c logical first count => exact ⟨.cmdTileReadOps c logical first count, rfl, fun _ => ⟨_, rfl, rfl⟩⟩
  | cmdPowerStatus c => exact ⟨.cmdPowerStatus c, rfl, fun _ => ⟨_, rfl, rfl⟩⟩
  | cmdPowerCapSet c watts => exact ⟨.cmdPowerCapSet c watts, rfl, fun _ => ⟨_, rfl, rfl⟩⟩
  | cmdResetWarm c => exact ⟨.cmdResetWarm c, rfl, fun _ => ⟨_, rfl, rfl⟩⟩
  | cmdClockStatus c domain => exact ⟨.cmdClockStatus c domain, rfl, fun _ => ⟨_, rfl, rfl⟩⟩
  | _ => cases hk

/-- A source whose command goes on has a busy frame. -/
theorem keepRunning_frame (src : Nat) (d : Dev) :
    (keepRunning src d).frame src = { d.frame src with busy := true, done := false, running := true } :=
  tget_tmod_same ({} : Frame) d.mailbox.frames src (fun f => { f with busy := true, done := false, running := true })
    fun hreset => Bool.noConfusion (congrArg Frame.running hreset)

/-- What a command that waits leaves of memory, of what has left the device, and of its source's frame. -/
theorem hold_leaves (k : Nat) (h : HeldCmd) (d : Dev) (hfree : ∀ src, h.source = some src → (d.frame src).running = false) :
    (hold k h d).mem = d.mem ∧ (hold k h d).out = d.out ∧
      ∀ src, h.source = some src → ((hold k h d).frame src).running = true ∧ ((hold k h d).frame src).busy = true := by
  unfold hold
  cases hs : h.source with
  | none => exact ⟨rfl, rfl, fun src hsrc => by cases hsrc⟩
  | some src =>
    simp only [hfree src hs, Bool.false_eq_true, if_false]
    refine ⟨rfl, rfl, ?_⟩
    rintro _ ⟨⟩
    have hframe : ({ keepRunning src d with heldCmds := (keepRunning src d).heldCmds ++ [(k, h)] } : Dev).frame src =
        { d.frame src with busy := true, done := false, running := true } := keepRunning_frame src d
    rw [hframe]
    exact ⟨rfl, rfl⟩

/-- Settles O11: a command that a core serves is held, and its form as held does what it does. -/
theorem heldWhileRestarting : Obligations.HeldWhileRestarting := by
  intro i k s hk hfull hrestarting hfree
  obtain ⟨h, hsource, hexec⟩ := exec_waits hk
  have hsourceFree : ∀ src, h.source = some src → (s.dev.frame src).running = false := by
    intro src hsrc
    obtain ⟨⟨c, g⟩, hclass, rfl⟩ := Option.map_eq_some_iff.mp (hsource.symm.trans hsrc)
    exact hfree c g hclass
  obtain ⟨hmem, hout, hframe⟩ := hold_leaves k h s.dev hsourceFree
  refine ⟨h, hold k h s.dev, ?_, hold_waits k h s.dev hsourceFree, hmem, hout, ?_, ?_⟩
  · obtain ⟨j, hj, hnow⟩ := hexec s
    cases hj.symm.trans hk
    exact hnow.trans (whileUp_restarting k h (resume h) s hrestarting hfull)
  · exact fun c g hclass => hframe _ (by rw [hsource, hclass]; rfl)
  · intro u hup
    obtain ⟨j, hj, hnow⟩ := hexec u
    rw [hnow, whileUp_up j h (resume h) u (hup j hj)]

end Sys2Proof.Machine

/-! SUPPORT. The statements of security, settled: the sealer lanes and the shared engine, the security commands that change the vault, and
the stages of local boot. -/

namespace Sys2Proof.Machine

/-! ### Sealer lanes (R340–R343) -/

section
variable (n mode user bytes : Nat) (op : Word) (f : Bytes → Nat × Bytes) (v : Vault) (d : Dev)

/-- A lane runs a job of the user and mode that it is bound to. -/
theorem laneRun_bound (hmode : (d.lane n).mode = mode) (huser : (d.lane n).user = user) :
    laneRun n mode user bytes false op f v d = (laneJob n bytes d).modLane n fun l => { l with result := f (laneKey v d n) } := by
  rw [laneRun, if_neg (by simp [hmode, huser]), if_neg Bool.false_ne_true]

theorem laneRun_parity (hmode : (d.lane n).mode = mode) (huser : (d.lane n).user = user) :
    laneRun n mode user bytes true op f v d = laneParity n op d := by
  rw [laneRun, if_neg (by simp [hmode, huser]), if_pos rfl]

/-- Another user's job changes nothing. -/
theorem laneRun_other (parity : Bool) (huser : (d.lane n).user ≠ user) : laneRun n mode user bytes parity op f v d = d :=
  if_pos (.inr huser)

end

section
variable (lane : Fin 48) (user : Fin 3) {s : State} (hon : s.On)
include hon

theorem laneSeal_gives (j : SealJob) (haad : j.aad.length ≤ 65536) (htext : j.text.length ≤ 16384) (hmode : (s.dev.lane lane.val).mode = 1)
    (huser : (s.dev.lane lane.val).user = user.val) :
    (j.parity = false → Gives (.laneSeal lane user j) s ((laneJob lane.val j.text.length s.dev).modLane lane.val fun l =>
      { l with result := (1, (gcmSeal (laneKey s.vault s.dev lane.val) (fit 12 j.iv) j.aad j.text).1 ++
          (gcmSeal (laneKey s.vault s.dev lane.val) (fit 12 j.iv) j.aad j.text).2) })) ∧
    (j.parity = true → Gives (.laneSeal lane user j) s (laneParity lane.val j.operation s.dev)) := by
  have hexec : exec (.laneSeal lane user j) s = execLaneSeal lane user j s := rfl
  have hfits : ¬ (65536 < j.aad.length ∨ 16384 < j.text.length) := by omega
  constructor
  · intro hparity
    refine gives_onDevV hexec hon ?_
    rw [if_neg hfits, hparity, laneRun_bound _ _ _ _ _ _ _ _ hmode huser]
  · intro hparity
    refine gives_onDevV hexec hon ?_
    rw [if_neg hfits, hparity, laneRun_parity _ _ _ _ _ _ _ _ hmode huser]

theorem laneOpen_gives (j : SealJob) (tag : Bytes) (out : Option Bytes) (haad : j.aad.length ≤ 65536) (htext : j.text.length ≤ 16384)
    (hmode : (s.dev.lane lane.val).mode = 1) (huser : (s.dev.lane lane.val).user = user.val) (hparity : j.parity = false)
    (hout : gcmOpen (laneKey s.vault s.dev lane.val) (fit 12 j.iv) j.aad j.text (fit 16 tag) = out) :
    Gives (.laneOpen lane user j tag) s ((laneJob lane.val j.text.length s.dev).modLane lane.val fun l =>
      { l with result := out.elim (2, []) fun p => (1, p) }) := by
  have hexec : exec (.laneOpen lane user j tag) s = execLaneOpen lane user j tag s := rfl
  refine gives_onDevV hexec hon ?_
  rw [if_neg (by omega), hparity, laneRun_bound _ _ _ _ _ _ _ _ hmode huser, hout]
  cases out <;> rfl

theorem laneRawBlock_gives (decrypt : Bool) (blocks : Bytes) (operation : Word) (hwhole : blocks.length % 16 = 0) (hfits : blocks.length ≤ 16384)
    (hmode : (s.dev.lane lane.val).mode = 2) (huser : (s.dev.lane lane.val).user = user.val) :
    Gives (.laneRawBlock lane user decrypt blocks false operation) s ((laneJob lane.val blocks.length s.dev).modLane lane.val fun l =>
      { l with result := (1, blockMap (laneKey s.vault s.dev lane.val) decrypt blocks) }) := by
  have hexec : exec (.laneRawBlock lane user decrypt blocks false operation) s = execLaneRawBlock lane user decrypt blocks false operation s := rfl
  refine gives_onDevV hexec hon ?_
  rw [if_neg (by omega), laneRun_bound _ _ _ _ _ _ _ _ hmode huser]

theorem laneSeal_other (j : SealJob) (huser : (s.dev.lane lane.val).user ≠ user.val) : Gives (.laneSeal lane user j) s s.dev := by
  have hexec : exec (.laneSeal lane user j) s = execLaneSeal lane user j s := rfl
  refine gives_onDevV hexec hon ?_
  rw [laneRun_other _ _ _ _ _ _ _ _ _ huser, ite_self]

end

/-! ### The shared engine (R346–R348) -/

section
variable {v : Vault} {d : Dev} {b : Bytes} (hgo : d.sec.jobGo = true) (hrange : sharedRange d d.sec.owner false d.sec.jobAddr 64 = true)
  (hb : b = (memRead 0 d.sec.jobAddr 64 d).1.1) (hgood : jobRefused v d d.sec.owner b = none) (hready : jobWaits b d = false)
include hgo hrange hb hgood hready

/-- A started job that names the op, that nothing refuses and that need not wait, is performed, unless a parity error ends it. -/
theorem runJob_ready (op : Nat) (parity : Bool) (hop : fieldLe b 0 1 = op) :
    runJob op parity v d = if parity then postParity 48 0 (jobStatus 6 (d.modSec fun s =>
      { s with sharedParity := satAdd 65535 s.sharedParity 1, sharedReload := true })) else jobEffect v b d := by
  subst hb
  simp only [runJob, hgo, hrange, hgood, hready, hop, Option.isSome_none, Bool.true_eq_false, Bool.false_eq_true, ne_eq, not_true_eq_false,
    false_and, if_false]

theorem runJob_performs (op : Nat) (hop : fieldLe b 0 1 = op) : runJob op false v d = jobEffect v b d :=
  (runJob_ready hgo hrange hb hgood hready op false hop).trans (if_neg Bool.false_ne_true)

theorem runJob_parity (op : Nat) (hop : fieldLe b 0 1 = op) :
    runJob op true v d = postParity 48 0 (jobStatus 6 (d.modSec fun s =>
      { s with sharedParity := satAdd 65535 s.sharedParity 1, sharedReload := true })) :=
  (runJob_ready hgo hrange hb hgood hready op true hop).trans (if_pos rfl)

end

section
variable (d : Dev)

/-- A claim of a free lock gets it. -/
theorem claimLock_free (r : Nat) (hr : r ≠ 0) (hfree : d.sec.owner = 0) : claimLock r d = d.modSec fun x => { x with owner := r } := by
  rw [claimLock, if_neg (by omega), if_pos hfree]

/-- A claim of a held lock waits. -/
theorem claimLock_held (r : Nat) (hr : r ≠ 0) (hheld : d.sec.owner ≠ 0) (hother : d.sec.owner ≠ r)
    (hnew : (d.sec.claims.any fun c => c.1 == r) = false) :
    claimLock r d = d.modSec fun x => { x with claims := x.claims ++ [(r, d.uptime)] } := by
  rw [claimLock, if_neg (by omega), if_neg hheld, if_neg (by simp [hnew])]

theorem releaseLock_owner (r : Nat) (hr : r ≠ 0) (howner : d.sec.owner = r) : releaseLock r d = passLock (abortJob d) := by
  rw [releaseLock, if_neg (by simp [hr, howner])]

/-- A claim of 10 ms preempts an owner that holds the lock for no command. -/
theorem preempt_late (hheld : d.sec.owner ≠ 0) (hlate : (d.sec.claims.any fun c => decide (c.2 + 10000000 ≤ d.uptime)) = true)
    (hnone : (abortJob d).sec.jobs = []) :
    preempt d = post 0x0F03 (unitBlock 4 14 127) 0 (syn [(32, 1, d.sec.owner)]) (passLock (abortJob d)) := by
  rw [preempt, if_pos ⟨hheld, hlate⟩]
  simp only [hnone, List.find?_nil]

end

/-- Settles O42: lane by lane, then the shared engine's jobs and its lock. -/
theorem sealerComplete : Obligations.SealerComplete := by
  constructor
  · refine fun lane user s hon => ⟨fun j haad htext hmode huser => ?_, ?_, ?_⟩
    · obtain ⟨hseal, hparity⟩ := laneSeal_gives lane user hon j haad htext hmode huser
      refine ⟨hseal, hparity, fun tag p hno hopen => ?_, fun tag hno hopen => ?_⟩
      · exact laneOpen_gives lane user hon j tag (some p) haad htext hmode huser hno hopen
      · exact laneOpen_gives lane user hon j tag none haad htext hmode huser hno hopen
    · exact fun decrypt blocks operation => laneRawBlock_gives lane user hon decrypt blocks operation
    · exact laneSeal_other lane user hon
  · refine fun s hon => ⟨fun b hgo hrange hb hgood hready => ?_, ?_, ?_, ?_, ?_⟩
    · have hjob (op : Nat) (hop : fieldLe b 0 1 = op) : endCommandJob (runJob op false s.vault s.dev) = endCommandJob (jobEffect s.vault b s.dev) :=
        congrArg endCommandJob (runJob_performs hgo hrange hb hgood hready op hop)
      have hparity (hop : fieldLe b 0 1 = 1) := congrArg endCommandJob (runJob_parity hgo hrange hb hgood hready 1 hop)
      refine ⟨fun hop => ⟨?_, ?_⟩, fun hop => ?_, fun hop => ?_, fun hop => ?_⟩
      · exact gives_onDevV (f := fun v d => endCommandJob (runJob 1 false v d)) rfl hon (hjob 1 hop)
      · exact gives_onDevV (f := fun v d => endCommandJob (runJob 1 true v d)) rfl hon (hparity hop)
      · exact gives_onDevV (f := fun v d => endCommandJob (runJob 2 false v d)) rfl hon (hjob 2 hop)
      · exact gives_onDevV (f := fun v d => endCommandJob (runJob 3 false v d)) rfl hon (hjob 3 hop)
      · exact gives_onDevV (f := fun v d => endCommandJob (runJob 4 false v d)) rfl hon (hjob 4 hop)
    · exact fun r hr hfree => gives_onDev rfl hon (claimLock_free s.dev r.val hr hfree)
    · exact fun r hr hheld hother hnew => gives_onDev rfl hon (claimLock_held s.dev r.val hr hheld hother hnew)
    · exact fun r hr howner => gives_onDev rfl hon (releaseLock_owner s.dev r.val hr howner)
    · exact fun hheld hlate _ hnone => gives_onDev rfl hon (preempt_late s.dev hheld hlate hnone)

/-! ### The security commands that change the vault (R331–R338) -/

section
variable {i : Instr} {c : Cmd} {g : Guard} {s : State}

/-- A command that may change the vault, let through by its guard, answers what it does. -/
theorem answersV_of_mailboxV {f : Vault → Dev → Reply × Vault × Dev} {r : Reply} {w : Vault} {e : Dev}
    (hexec : exec i s = onVault (mailboxV c g f) s) (h : Serves g c s) (hf : f s.vault s.dev = (r, w, e)) : AnswersV i c s r w e := by
  obtain ⟨hon, hguard, hfree⟩ := h
  rw [AnswersV, hexec, onVault_on _ _ hon]
  simp [mailboxV, hguard, hfree, hf]

/-- An authorised command takes effect. -/
theorem authorised_passes {code param : Nat} {tag : Bytes} {f : Vault → Dev → Reply × Vault × Dev} {v : Vault} {d e : Dev}
    (h : authorise v code param tag d = (none, e)) : authorised code param tag f v d = f v e := by
  rw [authorised, h]

end

section
variable (c : Cmd) (s : State) (h : Serves {} c s)
include h

theorem secDebugSet_answers (level : Nat) (tag : Bytes) (d : Dev) (hup : s.dev.restarting 0 = false) (hlevel : level ≤ 3)
    (howned : s.vault.lifecycle = 2) (hauth : authorise s.vault 0x0F02 level tag s.dev = (none, d)) :
    AnswersV (.cmdSecDebugSet c level tag) c s (ok []) { s.vault with debug := level }
      (setVisible { s.vault with debug := level } (if level < s.vault.debug then endDebug (relockAll d) else d)) := by
  have hexec : exec (.cmdSecDebugSet c level tag) s = nowCmdSecDebugSet c level tag s := whileUp_up 0 _ _ s hup
  refine answersV_of_mailboxV hexec h ?_
  rw [if_neg (by omega), authorised_passes hauth]

theorem secVersionCommit_answers (tag : Bytes) (d : Dev) (hup : s.dev.restarting 0 = false) (hfuses : s.dev.boot.imageVersion.toNat ≤ 64)
    (hversion : s.vault.minVersion ≤ s.dev.boot.imageVersion.toNat) (hauth : authorise s.vault 0x0F04 0 tag s.dev = (none, d)) :
    AnswersV (.cmdSecVersionCommit c tag) c s (ok []) { s.vault with minVersion := s.dev.boot.imageVersion.toNat } d := by
  have hexec : exec (.cmdSecVersionCommit c tag) s = nowCmdSecVersionCommit c tag s := whileUp_up 0 _ _ s hup
  refine answersV_of_mailboxV hexec h ?_
  dsimp only
  rw [if_neg (by omega), authorised_passes hauth]

theorem keyLoad_answers (target wrapping space address : Nat) (b : Bytes) (k : KeySlot) (hup : s.dev.restarting 0 = false) (hspace : space ≤ 9)
    (hmapped : spaceMapped s.dev (actingPf c.src.val none s.dev) true space address 80 = true)
    (hunwrap : unwrapKey s.vault s.dev target wrapping (if space = 0 then (memRead 0 address 80 s.dev).1.1 else fit 80 b) = .inr k)
    (hworn : ledgerWorn s.dev = false) :
    AnswersV (.cmdKeyLoad c target wrapping space address b) c s (ok []) (storeKey target k s.vault)
      (setVisible (storeKey target k s.vault) (keyAreaWrite s.dev)) := by
  have hexec : exec (.cmdKeyLoad c target wrapping space address b) s = nowCmdKeyLoad c target wrapping space address b s :=
    whileUp_up 0 _ _ s hup
  refine answersV_of_mailboxV hexec h ?_
  simp only [Nat.not_lt.mpr hspace, hmapped, hunwrap, hworn, Bool.true_eq_false, Bool.false_eq_true, if_false]

theorem keyErase_answers (slot : Nat) (tag : Bytes) (d : Dev) (hlo : 16 ≤ slot) (hhi : slot ≤ 255) (hunused : slotUsed s.dev slot = false)
    (hworn : ledgerWorn s.dev = false) (hauth : authorise s.vault 0x0F06 slot tag s.dev = (none, d)) :
    AnswersV (.cmdKeyErase c slot tag) c s (ok []) (eraseKey slot s.vault) (keyAreaWrite d) := by
  refine answersV_of_mailboxV rfl h ?_
  rw [if_neg (by omega), if_neg (by simp [hunused]), if_neg (by simp [hworn]), authorised_passes hauth]

end

/-! ### What a change of the letter O, a relock and a dropped manifest leave (R54, R331, R419) -/

section
variable (d : Dev)

/-- A span of zeros is written to memory alone: what a part shares with no memory stays. -/
theorem zeroSpan_keeps_part {α : Type} (part : Dev → α) (hpart : ∀ (e : Dev) m h w, part { e with mem := m, hbm := h, wharf := w } = part e)
    (a n : Nat) : part (zeroSpan a n d) = part d := by
  unfold zeroSpan
  split
  · exact hpart d _ _ d.wharf
  · exact hpart d _ d.hbm _
  · rfl

theorem setVisible_keeps_part {α : Type} (part : Dev → α)
    (hpart : ∀ (e : Dev) m h w o, part { e with mem := m, hbm := h, wharf := w, obs := o } = part e) (v : Vault) : part (setVisible v d) = part d := by
  have hobs (e : Dev) (f : Observe → Observe) : part (e.modObs f) = part e := hpart e e.mem e.hbm e.wharf _
  have hzero (e : Dev) (a n : Nat) : part (zeroSpan a n e) = part e := zeroSpan_keeps_part e part (fun e m h w => hpart e m h w e.obs) a n
  unfold setVisible
  refine (hobs _ _).trans ?_
  split
  · unfold stopTrace
    dsimp only
    split
    · rw [hzero, hobs]
    · exact hobs d _
  · rfl

@[simp] theorem setVisible_power (v : Vault) : (setVisible v d).power = d.power := setVisible_keeps_part d (·.power) (fun _ _ _ _ _ => rfl) v
@[simp] theorem setVisible_manifest (v : Vault) : (setVisible v d).manifest = d.manifest := setVisible_keeps_part d (·.manifest) (fun _ _ _ _ _ => rfl) v
@[simp] theorem setVisible_boot (v : Vault) : (setVisible v d).boot = d.boot := setVisible_keeps_part d (·.boot) (fun _ _ _ _ _ => rfl) v
@[simp] theorem setVisible_ledger (v : Vault) : (setVisible v d).ledger = d.ledger := setVisible_keeps_part d (·.ledger) (fun _ _ _ _ _ => rfl) v

theorem testEndAll_manifest : (testEndAll d).manifest = d.manifest :=
  foldl_keeps_part (·.manifest) _ (fun d k => by split <;> rfl) (List.range 8) d

@[simp] theorem relockAll_manifest : (relockAll d).manifest = d.manifest := by
  unfold relockAll
  split
  · exact testEndAll_manifest d
  · rfl

@[simp] theorem endDebug_manifest : (endDebug d).manifest = d.manifest := rfl

@[simp] theorem dropManifest_active : (dropManifest d).manifest.active = none := by
  simp only [dropManifest, lapseBoth, lapse_manifest]
  rfl

end

/-- The device after its scrapping (R331): reduced service, no manifest, no unlocked block, no core debug, a record in the ledger. -/
def scrapped (w : Vault) (d : Dev) : Dev :=
  setVisible w (((endDebug (relockAll (dropManifest (setVisible w d)))).modPower fun p => { p with state := .reduced }).modLedger fun l =>
    { l with security := l.security ++ [(1, 4, (endDebug (relockAll (dropManifest (setVisible w d)))).uptime)] })

/-- A device that is scrapped falls back to reduced service without a manifest. -/
theorem secLifecycle_scraps (c : Cmd) (s : State) (h : Serves {} c s) (tag : Bytes) (d : Dev) (hup : s.dev.restarting 0 = false)
    (howned : s.vault.lifecycle = 2) (hlog : logClosed s.dev = false) (hauth : authorise s.vault 0x0F03 4 tag s.dev = (none, d)) :
    AnswersV (.cmdSecLifecycle c 4 tag) c s (ok []) (enterLifecycle 4 s.vault) (scrapped (enterLifecycle 4 s.vault) d) := by
  have hexec : exec (.cmdSecLifecycle c 4 tag) s = nowCmdSecLifecycle c 4 tag s := whileUp_up 0 _ _ s hup
  refine answersV_of_mailboxV hexec h ?_
  rw [if_neg (by simp [howned]), if_neg (by simp [hlog]), if_neg (by simp), authorised_passes hauth]
  rfl

/-- Settles O44: command by command. -/
theorem vaultCommandsComplete : Obligations.VaultCommandsComplete := by
  refine fun c s h => ⟨?_, ?_, ?_, ?_, ?_⟩
  · exact fun level tag d hup hlevel howned hauth => secDebugSet_answers c s h level tag d hup hlevel howned hauth
  · intro tag d hup howned hlog hauth
    exact ⟨_, secLifecycle_scraps c s h tag d hup howned hlog hauth, by simp [scrapped], by simp [scrapped], rfl, rfl⟩
  · exact fun tag d hup hfuses hversion hauth => secVersionCommit_answers c s h tag d hup hfuses hversion hauth
  · exact fun target wrapping space address b k hup hspace hmapped hunwrap hworn =>
      keyLoad_answers c s h target wrapping space address b k hup hspace hmapped hunwrap hworn
  · exact fun slot tag d hlo hhi hunused hworn hauth => keyErase_answers c s h slot tag d hlo hhi hunused hworn hauth

/-! ### The stages of local boot (R335, R365) -/

section
variable (d : Dev)

theorem trainWharf_power (dimms : List (Nat × Bool)) (rate : Nat) : (trainWharf dimms rate d).power = d.power := by
  refine (Dev.modWharf_power _ _).trans (foldl_keeps_part (·.power) _ (fun e k => ?_) (List.range 12) d)
  exact Dev.modWharf_power e _

/-- The device whose channels are trained and whose controllers are numbered, in reduced service. -/
def romTrained (dimms : List (Nat × Bool)) (rate : Nat) (d : Dev) : Dev :=
  (List.range 8).foldl (fun d k => d.modCtl k fun c => { c with logical := some k })
    ((trainWharf dimms rate d).modPower fun p => { p with state := .reduced })

theorem romTrained_power (dimms : List (Nat × Bool)) (rate : Nat) : (romTrained dimms rate d).power = { d.power with state := .reduced } := by
  refine (foldl_keeps_part (·.power) _ (fun e k => Dev.modCtl_power e k _) (List.range 8) _).trans ?_
  rw [Dev.modPower_power, trainWharf_power]

/-- Stage 1 on a trained device. -/
theorem romStage_first (dimms : List (Nat × Bool)) (rate : Nat) (v : Vault) (hstage : d.boot.stage = 1) (hstate : d.power.state = .reduced) :
    romStage dimms rate v d = (restoreKeys v, setVisible (restoreKeys v)
      (if recovery (restoreKeys v) (romTrained dimms rate d) then (romTrained dimms rate d).modBoot fun b => { b with stage := 0 }
       else ((romTrained dimms rate d).modBoot fun b => { b with stage := 2 }).modLedger fun l =>
         { l with state := 1, mountSince := (romTrained dimms rate d).uptime })) :=
  if_neg (by simp [hstage, hstate])

/-- Stage 1 restores the keys in reduced service; without a strap in OWNED the mount of the ledger begins with stage 2. -/
theorem romStage_restores (dimms : List (Nat × Bool)) (rate : Nat) (v : Vault) (hstage : d.boot.stage = 1) (hstate : d.power.state = .reduced) :
    (romStage dimms rate v d).1 = restoreKeys v ∧ (romStage dimms rate v d).2.power.state = .reduced ∧
      (d.power.strap = 0 → v.lifecycle = 2 → (romStage dimms rate v d).2.boot.stage = 2 ∧ (romStage dimms rate v d).2.ledger.state = 1) := by
  have hpower := romTrained_power d dimms rate
  rw [romStage_first d dimms rate v hstage hstate]
  refine ⟨rfl, ?_, fun hstrap howned => ?_⟩
  · rw [setVisible_power]
    split <;> simp [hpower]
  · have hgoesOn : recovery (restoreKeys v) (romTrained dimms rate d) = false := by simp [recovery, hpower, hstrap]
    simp [hgoesOn]

end

/-- Settles O54: stage by stage. -/
theorem bootStagesComplete : Obligations.BootStagesComplete := by
  refine fun s hon => ⟨?_, ?_, ?_, ?_⟩
  · intro dimms rate hstage hstate
    obtain ⟨hkeys, hreduced, hmount⟩ := romStage_restores s.dev dimms rate s.vault hstage hstate
    refine ⟨_, (onVault_on _ _ hon).trans ?_, hreduced, hmount⟩
    rw [hkeys]
  · intro hstage hgood
    have hexec : exec .imageVerification s = execImageVerification s := rfl
    refine gives_onDevV hexec hon ?_
    rw [imageStage, if_neg (by simp [hstage])]
    simp only [hgood]
  · intro code devices hstage hstate hpin
    refine gives_onDevV rfl hon (if_neg ?_)
    simp [hstage, hstate, hpin]
  · exact fun hstage hidle => gives_onDev rfl hon (if_neg (by simp [hstage, hidle]))

end Sys2Proof.Machine

/-! SUPPORT. The statements of the Volilnos cores, settled: sums and differences, trap entry, what each instruction does, the encoding, and
what happens to a core beside its instructions. -/

namespace Sys2Proof.Machine

/-! ### Sums and differences at operand size (R371) -/

section
variable {n a b c : Nat}

/-- The top bit of a number of n + 1 bits. -/
theorem bit_top (ha : a < 2 ^ (n + 1)) : bit a n = decide (2 ^ n ≤ a) := by
  rw [bit_eq_testBit]
  by_cases h : 2 ^ n ≤ a
  · rw [Nat.testBit_of_two_pow_le_and_two_pow_add_one_gt h ha, decide_eq_true h]
  · rw [Nat.testBit_lt_two_pow (by omega), decide_eq_false h]

/-- A number of n + 1 bits as a signed one. -/
theorem sext_top (ha : a < 2 ^ (n + 1)) : sext (n + 1) a = if 2 ^ n ≤ a then (a : Int) - (2 * 2 ^ n : Nat) else a := by
  simp only [sext, Nat.mod_eq_of_lt ha, Nat.add_sub_cancel]
  split <;> split <;> omega

/-- The sign rule of a sum is its signed overflow. -/
theorem sum_overflows (ha : a < 2 ^ (n + 1)) (hb : b < 2 ^ (n + 1)) (hc : c ≤ 1) :
    (bit a n == bit b n && bit a n != bit ((a + b + c) % 2 ^ (n + 1)) n) =
      decide (sext (n + 1) a + sext (n + 1) b + c ≠ sext (n + 1) ((a + b + c) % 2 ^ (n + 1))) := by
  have hr : (a + b + c) % 2 ^ (n + 1) < 2 ^ (n + 1) := Nat.mod_lt _ (Nat.two_pow_pos _)
  have hwrap : (a + b + c) % 2 ^ (n + 1) = if a + b + c < 2 ^ (n + 1) then a + b + c else a + b + c - 2 ^ (n + 1) := by
    split
    next h => exact Nat.mod_eq_of_lt h
    next h => rw [Nat.mod_eq_sub_mod (by omega), Nat.mod_eq_of_lt (by omega)]
  rw [bit_top ha, bit_top hb, bit_top hr, sext_top ha, sext_top hb, sext_top hr]
  rw [Nat.pow_succ'] at *
  rw [Bool.eq_iff_iff]
  simp only [Bool.and_eq_true, beq_iff_eq, decide_eq_decide, bne_iff_ne, ne_eq, decide_eq_true_eq]
  split at hwrap <;> split <;> split <;> split <;> omega

/-- A difference at n + 1 bits: it wraps when it borrows. -/
theorem difference_wraps (ha : a < 2 ^ (n + 1)) (hb : b < 2 ^ (n + 1)) (hc : c ≤ 1) :
    (a + 2 ^ (n + 1 + 1) - b - c) % 2 ^ (n + 1) = if a < b + c then a + 2 ^ (n + 1) - b - c else a - b - c := by
  split
  next h =>
    rw [show a + 2 ^ (n + 1 + 1) - b - c = (a + 2 ^ (n + 1) - b - c) + 2 ^ (n + 1) by omega, Nat.add_mod_right, Nat.mod_eq_of_lt (by omega)]
  next h =>
    rw [show a + 2 ^ (n + 1 + 1) - b - c = (a - b - c) + 2 ^ (n + 1) * 2 by omega, Nat.add_mul_mod_self_left, Nat.mod_eq_of_lt (by omega)]

/-- The sign rule of a difference is its signed overflow. -/
theorem difference_overflows (ha : a < 2 ^ (n + 1)) (hb : b < 2 ^ (n + 1)) (hc : c ≤ 1) :
    (bit a n != bit b n && bit a n != bit ((a + 2 ^ (n + 1 + 1) - b - c) % 2 ^ (n + 1)) n) =
      decide (sext (n + 1) a - sext (n + 1) b - c ≠ sext (n + 1) ((a + 2 ^ (n + 1 + 1) - b - c) % 2 ^ (n + 1))) := by
  have hr : (a + 2 ^ (n + 1 + 1) - b - c) % 2 ^ (n + 1) < 2 ^ (n + 1) := Nat.mod_lt _ (Nat.two_pow_pos _)
  have hwrap := difference_wraps ha hb hc
  rw [bit_top ha, bit_top hb, bit_top hr, sext_top ha, sext_top hb, sext_top hr, Bool.eq_iff_iff]
  simp only [Bool.and_eq_true, decide_eq_decide, bne_iff_ne, ne_eq, decide_eq_true_eq]
  rw [hwrap] at hr ⊢
  rw [Nat.pow_succ'] at *
  split at hr <;> split <;> split <;> split <;> omega

/-- A difference is the integers' difference modulo 2^(n + 1). -/
theorem difference_emod (ha : a < 2 ^ (n + 1)) (hb : b < 2 ^ (n + 1)) (hc : c ≤ 1) :
    (((a + 2 ^ (n + 1 + 1) - b - c) % 2 ^ (n + 1) : Nat) : Int) = ((a : Int) - b - c) % (2 ^ (n + 1) : Nat) := by
  rw [Nat.pow_succ 2 (n + 1), Int.natCast_emod, show ((a + 2 ^ (n + 1) * 2 - b - c : Nat) : Int) =
    (a - b - c : Int) + (2 ^ (n + 1) : Nat) * 2 by omega, Int.add_mul_emod_self_left]

/-- Operand sizes are not empty. -/
theorem vBits_succ (z : VSize) : ∃ n, vBits z = n + 1 := by
  cases z
  exacts [⟨7, rfl⟩, ⟨15, rfl⟩, ⟨31, rfl⟩, ⟨63, rfl⟩]

end

/-- Settles O21: the sign rules are signed overflow, at every operand size. -/
theorem carryAndOverflow : Obligations.CarryAndOverflow := by
  rintro z a b c w rfl ha hb hc
  obtain ⟨n, hn⟩ := vBits_succ z
  rw [hn] at ha hb ⊢
  refine ⟨?_, difference_emod ha hb hc, ?_⟩
  · simp only [addAt, Nat.add_sub_cancel, sum_overflows ha hb hc]
  · simp only [subAt, Nat.add_sub_cancel, difference_overflows ha hb hc]
    congr 2
    exact decide_eq_decide.mpr (by omega)

/-! ### Trap entry (R380) -/

/-- A core in its trap: what is saved, the flags, the cause, the vector. -/
def Core.trapped (vector imm off epc : Nat) (bad : BitVec 48) (cycles : W32) (c : Core) : Core :=
  { (c.count (if 16 ≤ vector then 4 else 3)) with
      epc := BitVec.ofNat 48 epc, efl := c.fl, fl := (c.fl &&& 0xF#64) ||| 0x20#64,
      cause := BitVec.ofNat 64 (vector + imm * 2 ^ 8 + off * 2 ^ 16), badaddr := bad, pc := BitVec.ofNat 48 (c.vbase.toNat + 16 * vector),
      cycle := c.cycle + cycles.setWidth 64, waiting := false, debugStep := false }

section
variable (k vector imm off epc : Nat) (addr : Option Nat) (d : Dev)

/-- Trap entry outside a trap changes the core and draws the values that the rules leave open. -/
theorem trapEntry_taken (h : (d.core k).flag 5 = false) : ∃ (n : Nat) (bad : BitVec 48) (cycles : W32),
    (∀ a, addr = some a → bad = BitVec.ofNat 48 a) ∧
    trapEntry k vector imm off epc addr d = ({ d with fresh := n } : Dev).modCore k (Core.trapped vector imm off epc bad cycles) := by
  cases addr with
  | none =>
    exact ⟨d.fresh + 2, Config.badAddr d.fresh, Config.coreCycles (d.fresh + 1), by simp, if_neg (Bool.eq_false_iff.mp h)⟩
  | some a => exact ⟨d.fresh + 1, BitVec.ofNat 48 a, Config.coreCycles d.fresh, by simp, if_neg (Bool.eq_false_iff.mp h)⟩

/-- In a trap I is off, T is on, and C, V, Z and N are as they were. -/
theorem flag_trapped (bad : BitVec 48) (cycles : W32) (c : Core) (i : Nat) (hi : i < 6) :
    (c.trapped vector imm off epc bad cycles).flag i = if i < 4 then c.flag i else decide (i = 5) := by
  have hbits : ∀ i < 6, (0xF#64).getLsbD i = decide (i < 4) ∧ (0x20#64).getLsbD i = decide (i = 5) := by decide
  obtain ⟨hlow, htop⟩ := hbits i hi
  simp only [Core.flag, Core.trapped, BitVec.getLsbD_or, BitVec.getLsbD_and, hlow, htop]
  split
  next h => simp [h, Nat.ne_of_lt (h.trans (by decide : 4 < 5))]
  next h => simp [h]

theorem core_modCore_same (f : Core → Core) (h : f (d.core k) ≠ {}) : (d.modCore k f).core k = f (d.core k) :=
  tget_tmod_same ({} : Core) d.cores k f h

theorem core_modCore_other (f : Core → Core) (j : Nat) (h : j ≠ k) : (d.modCore k f).core j = d.core j :=
  tget_tmod_other ({} : Core) d.cores k j f h

end

/-- Settles O20: a core in its trap, in which T stands. -/
theorem trapEntry_spec : Obligations.TrapEntry := by
  intro k vector imm off epc addr d
  refine ⟨fun h => if_pos h, fun h => ?_⟩
  obtain ⟨n, bad, cycles, hbad, htaken⟩ := trapEntry_taken k vector imm off epc addr d h
  have hflag := flag_trapped vector imm off epc bad cycles (d.core k)
  have hT : ((d.core k).trapped vector imm off epc bad cycles).flag 5 = true := hflag 5 (by decide)
  have hcore : (({ d with fresh := n } : Dev).modCore k (Core.trapped vector imm off epc bad cycles)).core k =
      (d.core k).trapped vector imm off epc bad cycles :=
    core_modCore_same k { d with fresh := n } _ fun hreset => absurd ((congrArg (Core.flag · 5) hreset).symm.trans hT) (by decide)
  rw [htaken]
  refine ⟨_, hcore, rfl, rfl, hflag 4 (by decide), hT, fun i hi => ?_, rfl, hbad, rfl, fun _ => rfl, fun j hj => ?_, rfl⟩
  · exact (hflag i (by omega)).trans (if_pos hi)
  · exact core_modCore_other k { d with fresh := n } _ j hj

/-! ### An instruction that runs (R370, R376, R382) -/

section
variable {c : Instr} {k : Fin 19} {i : VInstr} {n : Nat} {s : State} {e : Dev}

/-- An instruction at its core's pc has its effect. -/
theorem gives_runInstr (hexec : exec c s = volil k i s) (h : Runs k i n s) (he : runInstr s.vault k i n s.dev = e) : Gives c s e := by
  obtain ⟨hon, hruns, hfetch⟩ := h
  refine gives_onDevV hexec hon ?_
  rw [if_pos hruns, hfetch]
  exact (if_pos rfl).trans he

/-- One with a next pc retires to it. -/
theorem gives_retire {goal : Nat} {missed : Bool} (hexec : exec c s = volil k i s) (h : Runs k i n s)
    (hbase : runBase s.vault k.val (s.dev.core k.val).pc.toNat (s.dev.after k.val n) i s.dev = .next goal missed e) :
    Gives c s (retire k.val goal missed (slow i) s.dev e) := by
  refine gives_runInstr hexec h ?_
  rw [Dev.after] at hbase
  cases i with
  | wait | ext => cases hbase
  | _ => simp only [runInstr, hbase]

/-- One that traps enters its trap: vector 8 saves the address behind it and retires. -/
theorem gives_trap {vector imm : Nat} {addr : Option Nat} (hexec : exec c s = volil k i s) (h : Runs k i n s) (hext : ∀ x, i ≠ .ext x)
    (hbase : runBase s.vault k.val (s.dev.core k.val).pc.toNat (s.dev.after k.val n) i s.dev = .trap vector imm addr e) :
    Gives c s (trapEntry k.val vector imm 0 (if vector = 8 then s.dev.after k.val n else (s.dev.core k.val).pc.toNat) addr
      (if vector = 8 then e.modCore k.val fun x => { x with retired := x.retired + 1, cycle := x.cycle + 1 } else e)) := by
  refine gives_runInstr hexec h ?_
  rw [Dev.after] at hbase ⊢
  cases i with
  | wait => cases hbase
  | ext x => exact absurd rfl (hext x)
  | _ => simp only [runInstr, hbase]

end

/-! ### Register and immediate arithmetic (R371, R373) -/

section
variable {c : Instr} {n : Nat} {s : State} {r : AluOut}

/-- A two-operand instruction writes what its operation gives. -/
theorem gives_alu {op : AluOp} {o : VolilRR} (hexec : exec c s = volil o.core (.alu op o) s) (h : Runs o.core (.alu op o) n s)
    (hr : aluAt op (vBits o.size) (s.dev.operand o.core.val o.size o.d) (s.dev.operand o.core.val o.size o.s) (s.dev.carry o.core.val) = some r) :
    Gives c s (s.dev.computes o.core.val n o.size o.d r) := by
  refine gives_retire hexec h ?_
  unfold Dev.operand Dev.carry at hr
  simp only [runBase, hr]

/-- The same with an immediate. -/
theorem gives_aluImm {op : AluOp} {o : VolilRI} (hexec : exec c s = volil o.core (.aluImm op o) s) (h : Runs o.core (.aluImm op o) n s)
    (hr : aluAt op (vBits o.size) (s.dev.operand o.core.val o.size o.d) (immediate o) (s.dev.carry o.core.val) = some r) :
    Gives c s (s.dev.computes o.core.val n o.size o.d r) := by
  refine gives_retire hexec h ?_
  unfold Dev.operand Dev.carry immediate at hr
  simp only [runBase, hr]

end

/-- Settles O57: instruction by instruction. -/
theorem volilArithmeticComplete : Obligations.VolilArithmeticComplete := by
  refine ⟨?_, ?_, ?_⟩
  · rintro o n w a b c s rfl rfl rfl rfl
    refine ⟨?_, ?_, ?_, ?_, ?_, ?_, ?_, ?_, ?_, ?_, ?_, ?_, ?_, fun h hb => gives_alu rfl h (if_neg hb),
      fun h hb => gives_alu rfl h (if_neg hb), ?_⟩ <;> exact fun h => gives_alu rfl h rfl
  · rintro o n w a b c s rfl rfl rfl rfl
    refine ⟨?_, ?_, ?_, ?_, ?_, ?_, ?_, ?_, ?_, ?_, ?_, ?_, ?_⟩ <;> exact fun h => gives_aluImm rfl h rfl
  · rintro o n w a b goal s rfl rfl rfl rfl
    refine ⟨?_, ?_, ?_, ?_, fun c h hc => gives_retire rfl h (by simp only [runBase, hc]), ?_, ?_, ?_⟩ <;>
      exact fun h => gives_retire rfl h rfl

/-! ### The control instructions (R376, R377, R381, R383) -/

section
variable {k : Fin 19} {n : Nat} {s : State}

/-- An extension runs its body and goes on behind itself. -/
theorem ext_gives (x : Byte) (body : List (Nat × VInstr × Nat)) (d : Dev) (h : Runs k (.ext x) n s) (hcluster : 3 ≤ k.val) (hentry : x.toNat < 64)
    (hbody : bodyCode k 65 0 (tget [] (s.dev.core k.val).ext x.toNat) = some body) (hne : body ≠ [])
    (hrun : runBody s.vault k.val (s.dev.core k.val).pc.toNat (s.dev.after k.val n) body s.dev = .done d) :
    Gives (.ext k x) s (retire k.val (s.dev.after k.val n) false true s.dev d) := by
  refine gives_runInstr rfl h ?_
  obtain ⟨e, es, rfl⟩ := List.exists_cons_of_ne_nil hne
  have hallowed : ¬ (k.val < 3 ∨ 64 ≤ x.toNat) := by omega
  rw [Dev.after] at hrun ⊢
  simp only [runInstr, runExt, hbody, hallowed, if_false, hrun]

end

/-- Settles O58: instruction by instruction. -/
theorem volilControlComplete : Obligations.VolilControlComplete := by
  refine fun k n s => ⟨?_, ?_, ?_, ?_, ?_, ?_, ?_, ?_, ?_, ?_, ext_gives⟩
  · exact fun h => gives_retire rfl h rfl
  · exact fun h hnone => gives_runInstr rfl h (if_pos hnone)
  · exact fun h hsome => gives_runInstr rfl h (if_neg hsome)
  · exact fun h => gives_retire rfl h rfl
  · rintro goal h rfl
    exact gives_retire rfl h rfl
  · exact fun h => gives_retire rfl h rfl
  · exact fun imm h => gives_trap rfl h (fun _ => VInstr.noConfusion) rfl
  · exact fun h => gives_trap rfl h (fun _ => VInstr.noConfusion) rfl
  · rintro cc wide disp taken h rfl
    exact gives_retire rfl h rfl
  · exact fun disp h => gives_retire rfl h rfl

/-! ### Loads and stores (R374, R376, R378) -/

/-- Settles O59: instruction by instruction. -/
theorem volilMemoryComplete : Obligations.VolilMemoryComplete := by
  rintro o n a w d s rfl
  refine ⟨fun h hload => ?_, fun h hload => ?_, fun h hstore => ?_, fun h hstore => ?_, fun h => gives_retire rfl h rfl,
    fun e x h halign hplace hload hstore => ?_⟩
  · exact gives_retire rfl h (by simp only [runBase, runMem, hload])
  · exact gives_retire rfl h (by simp only [runBase, runMem, hload])
  · exact gives_retire rfl h (by simp only [runBase, runMem, hstore])
  · exact gives_retire rfl h (by simp only [runBase, runMem, hstore])
  · have hserved : (!inData (vEa (s.dev.core o.core.val) (s.dev.after o.core.val n) o) 8 &&
        !inRegisters (vEa (s.dev.core o.core.val) (s.dev.after o.core.val n) o) 8) = false := by
      obtain hplace | hplace := hplace <;> simp [hplace]
    refine gives_retire rfl h ?_
    simp only [runBase, runMem, halign, ne_eq, not_true_eq_false, hserved, Bool.false_eq_true, if_false, hload, hstore]

/-! ### What happens to a core beside its instructions (R333, R370, R379–R384) -/

section
variable {k : Fin 19} {s : State} (hon : s.On)
include hon

theorem fetchFault_gives (a : Nat) (hruns : executing s.dev k.val = true) (hfetch : fetchAt s.dev k = .fault a) :
    Gives (.fetchFault k) s (trapEntry k.val 2 0 0 (s.dev.core k.val).pc.toNat (some a) s.dev) := by
  have hexec : exec (.fetchFault k) s = execFetchFault k s := rfl
  refine gives_onDev hexec hon ?_
  rw [hfetch]
  exact if_pos hruns

theorem interruptTaken_gives (l : Nat) (rest : List Nat) (hruns : executing s.dev k.val = true)
    (hlines : (s.dev.core k.val).pendingLines = l :: rest) (hwait : (s.dev.core k.val).waiting = false)
    (henabled : (s.dev.core k.val).flag 4 = true) :
    Gives (.interruptTaken k) s (trapEntry k.val (16 + l) 0 0 (s.dev.core k.val).pc.toNat none
      (s.dev.modCore k.val fun c => { c with lines := c.lines.filter fun i => decide (i ≠ l) })) := by
  have hexec : exec (.interruptTaken k) s = execInterruptTaken k s := rfl
  refine gives_onDev hexec hon ?_
  simp only [hlines, hruns, hwait, henabled, Bool.true_eq_false, Bool.false_eq_true, if_false, if_true]

/-- Where the letter C is available, core debug acts on a core. -/
theorem coreDebug_core (n : Fin 19) (op : DebugOp) (hletter : letterC s.vault s.dev = true) :
    Gives (.jtagCoreDebug (.core n) op) s (debugCore n.val op s.dev) := by
  refine gives_onDevV (f := fun v d => if letterC v d = false then d else debugCore n.val op d) rfl hon ?_
  exact if_neg (by simp [hletter])

/-- It acts on a tile. -/
theorem coreDebug_tile (n : Fin 528) (op : DebugOp) (hletter : letterC s.vault s.dev = true) :
    Gives (.jtagCoreDebug (.tile n) op) s (debugTile n.val op s.dev) := by
  refine gives_onDevV (f := fun v d => if letterC v d = false then d else debugTile n.val op d) rfl hon ?_
  exact if_neg (by simp [hletter])

end

/-- An extension image of the active manifest's key that is good, opens and is not too old is loaded, and its serial is kept. -/
theorem coreExtLoad_answers (c : Cmd) (s : State) (space address length : Nat) (b fetched text key : Bytes) (m : Manifest) (h : Serves {} c s)
    (hlo : 0 < space) (hhi : space ≤ 9) (hmapped : spaceMapped s.dev (actingPf c.src.val none s.dev) true space address length = true)
    (hb : b = fit length fetched) (hgood : badExtImage b = false) (hactive : s.dev.manifest.active = some m)
    (hkey : slotKey s.vault m.keySlot = some key)
    (hopen : gcmOpen key (slice b 8 8 ++ [0, 0, 0, 5]) (slice b 0 32 ++ b.drop 48) [] (slice b 32 16) = some text)
    (hserial : (tget 0 s.dev.ledger.extSerials m.keySlot).toNat ≤ fieldLe b 8 8) (hworn : ledgerWorn s.dev = false) :
    Answers (.cmdCoreExtLoad c space address length fetched) c s (ok []) (loadExt b (keyAreaWrite (s.dev.modLedger fun l =>
      { l with extSerials := tset 0 l.extSerials m.keySlot (BitVec.ofNat 64 (fieldLe b 8 8)) }))) := by
  subst hb
  have hexec : exec (.cmdCoreExtLoad c space address length fetched) s = execCmdCoreExtLoad c space address length fetched s := rfl
  refine answers_of_mailbox_onDevV hexec h ?_
  simp only [Nat.not_lt.mpr hhi, hmapped, Nat.ne_of_gt hlo, hgood, hactive, hkey, Option.bind_some, hopen, Nat.not_lt.mpr hserial, hworn,
    Bool.true_eq_false, Bool.false_eq_true, and_false, if_false]

/-- Settles O60: event by event. -/
theorem coreEventsComplete : Obligations.CoreEventsComplete := by
  refine fun k s hon => ⟨?_, ?_, ?_, ?_, ?_, ?_, ?_⟩
  · exact fun hruns hfetch => gives_onDev rfl hon (if_pos ⟨hruns, hfetch⟩)
  · exact fun a hruns hfetch => fetchFault_gives hon a hruns hfetch
  · exact fun l rest hruns hlines hwait henabled => interruptTaken_gives hon l rest hruns hlines hwait henabled
  · exact fun hup => gives_onDev rfl hon (if_pos hup)
  · exact fun hletter hup => (coreDebug_core hon k .halt hletter).trans (congrArg _ (congrArg _ (if_pos hup)))
  · exact fun n hletter => coreDebug_tile hon n .halt hletter
  · exact fun c => coreExtLoad_answers c s

/-! ### Little-endian operands (R4) -/

theorem leNat_leBytes (n v : Nat) : leNat (leBytes n v) = v % 256 ^ n := by
  induction n generalizing v with
  | zero => rw [Nat.pow_zero, Nat.mod_one]; rfl
  | succ n ih => rw [leBytes, leNat, ih, BitVec.toNat_ofNat, show 256 ^ (n + 1) = 256 * 256 ^ n from Nat.pow_succ', Nat.mod_mul]

/-- A word that fits in n bytes is read back from them. -/
theorem ofNat_leNat_leBytes {w : Nat} (n : Nat) (x : BitVec w) (h : x.toNat < 2 ^ (8 * n)) : BitVec.ofNat w (leNat (leBytes n x.toNat)) = x := by
  rw [leNat_leBytes, show (256 : Nat) ^ n = 2 ^ (8 * n) by rw [Nat.pow_mul], Nat.mod_eq_of_lt h, BitVec.ofNat_toNat, BitVec.setWidth_eq]

/-- Operands that stand complete within the 15 bytes are read. -/
theorem operands_append {used n : Nat} (bs rest : Bytes) (f : Bytes → Decoded) (hn : bs.length = n) (h : used + n ≤ 15) :
    operands used n (bs ++ rest) f = f bs := by
  subst hn
  rw [operands, if_neg (by omega), if_neg (by simp), List.take_left']
  rfl

theorem operands_one {used : Nat} (a : Byte) (rest : Bytes) (f : Bytes → Decoded) (h : used + 1 ≤ 15) : operands used 1 (a :: rest) f = f [a] :=
  operands_append [a] rest f rfl h

theorem operands_two {used : Nat} (a b : Byte) (rest : Bytes) (f : Bytes → Decoded) (h : used + 2 ≤ 15) :
    operands used 2 (a :: b :: rest) f = f [a, b] :=
  operands_append [a, b] rest f rfl h

/-- What is read of operands lies within the 15 bytes. -/
theorem operands_found {used n : Nat} {rest : Bytes} {f : Bytes → Decoded} {i : VInstr} {l : Nat} (h : operands used n rest f = .found i l) :
    used + n ≤ 15 ∧ f (rest.take n) = .found i l := by
  unfold operands at h
  split at h
  · cases h
  · split at h
    · cases h
    · exact ⟨by omega, h⟩

theorem hiNibble_nibbles (a b : Fin 16) : hiNibble (nibbles a.val b.val) = a := by
  revert a b; decide

theorem loNibble_nibbles (a b : Fin 16) : loNibble (nibbles a.val b.val) = b := by
  revert a b; decide

/-! ### Prefixes (R372) -/

/-- The byte before the opcode that names the size: 64 bits has none. -/
def prefixSize : VSize → Option VSize
  | .s64 => none
  | z => some z

theorem prefixSize_getD (z : VSize) : (prefixSize z).getD .s64 = z := by cases z <;> rfl

section
variable (core : Fin 19)

theorem decodeFrom_sizePrefix (z : VSize) (bs : Bytes) :
    decodeVolil core (sizePrefix z ++ bs) = decodeFrom core { size := prefixSize z } (sizePrefix z).length bs := by
  cases z <;> rfl

theorem decodeFrom_sync (size : Option VSize) (sync : Bool) (used : Nat) (bs : Bytes) :
    decodeFrom core { size := size } used ((if sync then [0xE5#8] else []) ++ bs) =
      decodeFrom core { size := size, sync := sync } (used + b2n sync) bs := by
  cases sync <;> rfl

/-- A byte below 0xE0 is an opcode. -/
theorem decodeFrom_opcode (p : Prefixes) (used : Nat) (b : Byte) (bs : Bytes) (h : b.toNat < 0xE0) :
    decodeFrom core p used (b :: bs) = decodeOpcode core p b.toNat (used + 1) bs := by
  have hne : ∀ x : Byte, 0xE0 ≤ x.toNat → b ≠ x := by
    rintro x hx rfl
    omega
  simp only [decodeFrom, hne 0xE0#8 (by decide), hne 0xE1#8 (by decide), hne 0xE2#8 (by decide), hne 0xE5#8 (by decide), hne 0xE4#8 (by decide),
    if_false]

/-- A byte that names the size, then an opcode. -/
theorem decodeVolil_sized (z : VSize) (op : Nat) (bs : Bytes) (h : op < 0xE0) :
    decodeVolil core (sizePrefix z ++ BitVec.ofNat 8 op :: bs) =
      decodeOpcode core { size := prefixSize z } op ((sizePrefix z).length + 1) bs := by
  have hop : (BitVec.ofNat 8 op).toNat = op := by rw [BitVec.toNat_ofNat]; omega
  rw [decodeFrom_sizePrefix, decodeFrom_opcode core _ _ _ _ (hop.trans_lt h), hop]

/-! ### The opcode map (R376) -/

variable (p : Prefixes) (used : Nat) (bs : Bytes)

theorem decodeOpcode_alu (op : AluOp) :
    decodeOpcode core p (0x10 + aluCode op) used bs = decodeRr core p used bs (fun _ => true) (.alu op) := by
  cases op <;> rfl

theorem decodeOpcode_aluImm (op : AluOp) (h : op ≠ .mulhu ∧ op ≠ .divu ∧ op ≠ .remu) :
    decodeOpcode core p (0x20 + aluCode op) used bs = decodeRi core op p used bs := by
  obtain ⟨hmulhu, hdivu, hremu⟩ := h
  cases op with
  | mulhu => exact absurd rfl hmulhu
  | divu => exact absurd rfl hdivu
  | remu => exact absurd rfl hremu
  | _ => rfl

theorem decodeOpcode_mem (op : MemOp) : decodeOpcode core p (0x70 + memCode op) used bs = decodeM core op p used bs := by
  cases op <;> rfl

/-- What format RR asks of an operation's operands, beyond its prefixes (R376). -/
def rrAllows (p : Prefixes) : RrOp → VolilRR → Bool
  | .not, o | .neg, o => o.s == 0
  | .tst, _ => true
  | .mfc, o => p.size.isNone && decide (o.s.val < 10)
  | .mtc, o => p.size.isNone && [0, 1, 2, 3, 4, 9].contains o.d.val
  | .callr, o | .jmpr, o => p.size.isNone && o.d == 0
  | .sext, _ => p.size.isSome

theorem decodeOpcode_rr (op : RrOp) :
    decodeOpcode core p (0x30 + rrCode op) used bs = decodeRr core p used bs (rrAllows p op) (.rr op) := by
  cases op <;> rfl

/-- The opcodes 0x40 to 0x5F are branches on their low nibble. -/
theorem decodeOpcode_branch (op : Nat) (hlo : 0x40 ≤ op) (hhi : op ≤ 0x5F) :
    decodeOpcode core p op used bs =
      if decide (p = {}) = false ∨ op % 16 = 15 then .undefined
      else operands used (if decide (0x50 ≤ op) then 4 else 2) bs fun b =>
        .found (.bcc ⟨op % 16, Nat.mod_lt _ (by decide)⟩ (decide (0x50 ≤ op)) (BitVec.ofNat 32 (leNat b)))
          (used + if decide (0x50 ≤ op) then 4 else 2) := by
  have hother : ∀ n < 0x40, op ≠ n := by omega
  have hrr : ¬ op ≤ 0x1F := by omega
  have hri : ¬ op ≤ 0x2B := by omega
  simp [decodeOpcode, hother, hrr, hri, hlo, hhi]

theorem decodeOpcode_bcc (cc : Fin 16) (wide : Bool) (hcc : cc ≠ 15) :
    decodeOpcode core {} ((if wide then 0x50 else 0x40) + cc.val) used bs =
      operands used (if wide then 4 else 2) bs fun b => .found (.bcc cc wide (BitVec.ofNat 32 (leNat b))) (used + if wide then 4 else 2) := by
  have hlow : cc.val ≠ 15 := fun h => hcc (Fin.ext h)
  have hcode : ((if wide then 0x50 else 0x40) + cc.val) % 16 = cc.val := by split <;> omega
  have hwide : decide (0x50 ≤ (if wide then 0x50 else 0x40) + cc.val) = wide := by
    cases wide <;> simp
    omega
  rw [decodeOpcode_branch core _ _ _ _ (by split <;> omega) (by split <;> omega), hwide]
  simp [hcode, hlow]

/-! ### The formats (R373, R374) -/

theorem decodeRr_found (ok : VolilRR → Bool) (f : VolilRR → VInstr) (d r : Fin 16) (hsync : p.sync = false) (hused : used + 1 ≤ 15)
    (hok : ok { core := core, size := p.size.getD .s64, d := d, s := r } = true) :
    decodeRr core p used (nibbles d.val r.val :: bs) ok f = .found (f { core := core, size := p.size.getD .s64, d := d, s := r }) (used + 1) := by
  rw [decodeRr, operands_one _ _ _ hused]
  simp [hiNibble_nibbles, loNibble_nibbles, hsync, hok]

/-- The low nibble of an immediate's register byte holds the immediate's size. -/
theorem sizeNibble (d : Fin 16) (isz : Fin 4) :
    (nibbles d.val (4 * isz.val)).toNat / 4 % 4 = isz.val ∧ (nibbles d.val (4 * isz.val)).toNat % 4 = 0 ∧
      hiNibble (nibbles d.val (4 * isz.val)) = d := by
  revert d isz; decide

theorem decodeRi_found (op : AluOp) (d : Fin 16) (isz : Fin 4) (imm : Word) (hsync : p.sync = false)
    (hused : used + 1 + 2 ^ isz.val ≤ 15) (hsize : 2 ^ isz.val ≤ vBytes (p.size.getD .s64)) (himm : imm.toNat < 2 ^ (8 * 2 ^ isz.val)) :
    decodeRi core op p used (nibbles d.val (4 * isz.val) :: (leBytes (2 ^ isz.val) imm.toNat ++ bs)) =
      .found (.aluImm op { core := core, size := p.size.getD .s64, d := d, isz := isz, imm := imm }) (used + 1 + 2 ^ isz.val) := by
  obtain ⟨hisz, hzero, hd⟩ := sizeNibble d isz
  rw [decodeRi, operands_one _ _ _ ((Nat.le_add_right _ _).trans hused)]
  simp [hisz, hzero, hd, hsync, Nat.not_lt.mpr hsize, operands_append _ _ _ (length_leBytes _ _) hused, ofNat_leNat_leBytes _ _ himm]

/-- The mode byte of format M holds its fields (R374). -/
theorem modeByte (index : Fin 16) (indexEn pcrel : Bool) (dsz : Fin 4) :
    bit (nibbles index.val (8 * b2n indexEn + 4 * b2n pcrel + dsz.val)).toNat 3 = indexEn ∧
      bit (nibbles index.val (8 * b2n indexEn + 4 * b2n pcrel + dsz.val)).toNat 2 = pcrel ∧
      (nibbles index.val (8 * b2n indexEn + 4 * b2n pcrel + dsz.val)).toNat % 4 = dsz.val ∧
      hiNibble (nibbles index.val (8 * b2n indexEn + 4 * b2n pcrel + dsz.val)) = index := by
  revert index indexEn pcrel dsz; decide

/-- Bytes of the immediate that follows a displacement: STI alone has one. -/
def immBytes (op : MemOp) (z : VSize) : Nat := if op = .sti then vBytes z else 0

theorem decodeM_found (op : MemOp) (o : VolilM) (hcore : o.core = core) (hsize : p.size.getD .s64 = o.size) (hsync : p.sync = o.sync)
    (hpcrel : (o.pcrel && o.base != 0) = false) (hsti : (op == .sti && o.d != 0) = false)
    (hplain : ((op == .lea || op == .swap) && p.size.isSome) = false)
    (hdisp : o.disp.toNat < 2 ^ (8 * dispBytes o.dsz.val)) (himm : o.imm.toNat < 2 ^ (8 * immBytes op o.size))
    (hused : used + 2 + (dispBytes o.dsz.val + immBytes op o.size) ≤ 15) :
    decodeM core op p used (nibbles o.d.val o.base.val :: nibbles o.index.val (8 * b2n o.indexEn + 4 * b2n o.pcrel + o.dsz.val) ::
        (leBytes (dispBytes o.dsz.val) o.disp.toNat ++ leBytes (immBytes op o.size) o.imm.toNat ++ bs)) =
      .found (.mem op o) (used + 2 + dispBytes o.dsz.val + immBytes op o.size) := by
  obtain ⟨hindexEn, hpc, hdsz, hindex⟩ := modeByte o.index o.indexEn o.pcrel o.dsz
  have hlength : (leBytes (dispBytes o.dsz.val) o.disp.toNat ++ leBytes (immBytes op o.size) o.imm.toNat).length =
      dispBytes o.dsz.val + immBytes op o.size := by rw [List.length_append, length_leBytes, length_leBytes]
  have himmBytes : (if op = .sti then vBytes o.size else 0) = immBytes op o.size := rfl
  rw [decodeM, operands_two _ _ _ _ (by omega)]
  simp only [List.getD_cons_zero, List.getD_cons_succ, hiNibble_nibbles, loNibble_nibbles, hindexEn, hpc, hdsz, hindex, hsize, hsync, himmBytes,
    List.drop_succ_cons, List.drop_zero, hpcrel, hsti, hplain, Bool.or_self, Bool.false_eq_true, if_false]
  rw [operands_append _ bs _ hlength hused, List.take_left' (length_leBytes _ _), List.drop_left' (length_leBytes _ _),
    ofNat_leNat_leBytes _ _ hdisp, ofNat_leNat_leBytes _ _ himm, ← hcore]

end

/-! ### Every well-formed instruction is read back (R372–R376) -/

theorem length_sizePrefix (z : VSize) : (sizePrefix z).length ≤ 1 := by cases z <;> decide

theorem prefixSize_isNone (z : VSize) : (prefixSize z).isNone = (z == .s64) := by cases z <;> rfl

theorem prefixSize_isSome (z : VSize) : (prefixSize z).isSome = (z != .s64) := by cases z <;> rfl

section
variable {core : Fin 19} (rest : Bytes)

theorem decodeVolil_alu (op : AluOp) (o : VolilRR) (hcore : o.core = core) :
    decodeVolil core (encodeVolil (.alu op o) ++ rest) = .found (.alu op o) (encodeVolil (.alu op o)).length := by
  have hprefix := length_sizePrefix o.size
  have hop : 0x10 + aluCode op < 0xE0 := by cases op <;> decide
  simp only [encodeVolil, List.append_assoc, List.cons_append, List.nil_append, List.length_append, List.length_cons, List.length_nil]
  rw [decodeVolil_sized core _ _ _ hop, decodeOpcode_alu, decodeRr_found core _ _ _ _ _ _ _ rfl (by omega) rfl, prefixSize_getD, ← hcore]

theorem decodeVolil_aluImm (op : AluOp) (o : VolilRI) (h : (VInstr.aluImm op o).wf core = true) :
    decodeVolil core (encodeVolil (.aluImm op o) ++ rest) = .found (.aluImm op o) (encodeVolil (.aluImm op o)).length := by
  simp only [VInstr.wf, Bool.and_eq_true, decide_eq_true_eq, beq_iff_eq, bne_iff_ne, ne_eq] at h
  obtain ⟨hlength, ⟨⟨⟨⟨hcore, hmulhu⟩, hdivu⟩, hremu⟩, hsize⟩, himm⟩ := h
  have hop : 0x20 + aluCode op < 0xE0 := by cases op <;> decide
  simp only [encodeVolil, List.append_assoc, List.cons_append, List.nil_append, List.length_append, List.length_cons,
    length_leBytes] at hlength ⊢
  rw [decodeVolil_sized core _ _ _ hop, decodeOpcode_aluImm core _ _ _ op ⟨hmulhu, hdivu, hremu⟩,
    decodeRi_found core _ _ _ op o.d o.isz o.imm rfl (by omega) (by rwa [prefixSize_getD]) himm, prefixSize_getD, ← hcore]
  congr 1
  omega

/-- What well-formedness asks of an RR operation's operands is what the decoder asks. -/
theorem rrAllows_of_wf (op : RrOp) (o : VolilRR) (h : (VInstr.rr op o).wf core = true) :
    o.core = core ∧ rrAllows { size := prefixSize o.size } op o = true := by
  simp only [VInstr.wf, Bool.and_eq_true, beq_iff_eq] at h
  obtain ⟨-, hcore, hok⟩ := h
  refine ⟨hcore, ?_⟩
  cases op with
  | not | neg | tst => exact hok
  | mfc | mtc | callr | jmpr => simpa only [rrAllows, prefixSize_isNone] using hok
  | sext => simpa only [rrAllows, prefixSize_isSome] using hok

theorem decodeVolil_rr (op : RrOp) (o : VolilRR) (h : (VInstr.rr op o).wf core = true) :
    decodeVolil core (encodeVolil (.rr op o) ++ rest) = .found (.rr op o) (encodeVolil (.rr op o)).length := by
  obtain ⟨hcore, hok⟩ := rrAllows_of_wf op o h
  have hprefix := length_sizePrefix o.size
  have hop : 0x30 + rrCode op < 0xE0 := by cases op <;> decide
  have hoperands : ({ core := core, size := (prefixSize o.size).getD .s64, d := o.d, s := o.s } : VolilRR) = o := by
    rw [prefixSize_getD, ← hcore]
  simp only [encodeVolil, List.append_assoc, List.cons_append, List.nil_append, List.length_append, List.length_cons, List.length_nil]
  rw [decodeVolil_sized core _ _ _ hop, decodeOpcode_rr,
    decodeRr_found core _ _ _ _ _ _ _ rfl (by omega) (hoperands.symm ▸ hok), hoperands]

theorem decodeVolil_bcc (cc : Fin 16) (wide : Bool) (disp : W32) (h : (VInstr.bcc cc wide disp).wf core = true) :
    decodeVolil core (encodeVolil (.bcc cc wide disp) ++ rest) = .found (.bcc cc wide disp) (encodeVolil (.bcc cc wide disp)).length := by
  simp only [VInstr.wf, Bool.and_eq_true, Bool.or_eq_true, decide_eq_true_eq, bne_iff_ne, ne_eq] at h
  obtain ⟨-, hcc, hdisp⟩ := h
  have hop : (if wide then 0x50 else 0x40) + cc.val < 0xE0 := by split <;> omega
  have hfits : disp.toNat < 2 ^ (8 * if wide then 4 else 2) := by
    obtain rfl | hdisp := hdisp
    · exact disp.isLt
    · split <;> omega
  have hopcode := decodeVolil_sized core .s64 _ (leBytes (if wide then 4 else 2) disp.toNat ++ rest) hop
  refine hopcode.trans ?_
  rw [prefixSize, decodeOpcode_bcc core _ _ cc wide hcc, operands_append _ _ _ (length_leBytes _ _) (by split <;> decide),
    ofNat_leNat_leBytes _ _ hfits, encodeVolil, List.length_cons, length_leBytes, sizePrefix, List.length_nil, Nat.zero_add, Nat.add_comm]

/-- The bytes of format M, its immediate counted by `immBytes`. -/
theorem encodeVolil_mem (op : MemOp) (o : VolilM) :
    encodeVolil (.mem op o) ++ rest =
      sizePrefix o.size ++ ((if o.sync then [0xE5#8] else []) ++ (BitVec.ofNat 8 (0x70 + memCode op) :: nibbles o.d.val o.base.val ::
        nibbles o.index.val (8 * b2n o.indexEn + 4 * b2n o.pcrel + o.dsz.val) ::
        (leBytes (dispBytes o.dsz.val) o.disp.toNat ++ leBytes (immBytes op o.size) o.imm.toNat ++ rest))) := by
  have himm : (if op = .sti then leBytes (vBytes o.size) o.imm.toNat else []) = leBytes (immBytes op o.size) o.imm.toNat := by
    unfold immBytes
    split <;> rfl
  simp only [encodeVolil, himm, List.append_assoc, List.cons_append, List.nil_append]

theorem length_encodeVolil_mem (op : MemOp) (o : VolilM) :
    (encodeVolil (.mem op o)).length = (sizePrefix o.size).length + b2n o.sync + 1 + 2 + dispBytes o.dsz.val + immBytes op o.size := by
  have hsync : (if o.sync then [0xE5#8] else []).length = b2n o.sync := by cases o.sync <;> rfl
  rw [← List.append_nil (encodeVolil _), encodeVolil_mem]
  simp only [List.length_append, List.length_cons, List.length_nil, length_leBytes, hsync]
  omega

theorem decodeVolil_mem (op : MemOp) (o : VolilM) (h : (VInstr.mem op o).wf core = true) :
    decodeVolil core (encodeVolil (.mem op o) ++ rest) = .found (.mem op o) (encodeVolil (.mem op o)).length := by
  simp only [VInstr.wf, Bool.and_eq_true, decide_eq_true_eq, beq_iff_eq, Bool.not_eq_true'] at h
  obtain ⟨hlength, ⟨⟨⟨⟨hcore, hpcrel⟩, hsti⟩, hplain⟩, hdisp⟩, himm⟩ := h
  have hop : (BitVec.ofNat 8 (0x70 + memCode op)).toNat = 0x70 + memCode op := by cases op <;> rfl
  have hlow : (BitVec.ofNat 8 (0x70 + memCode op)).toNat < 0xE0 := by cases op <;> decide
  have hfits : o.imm.toNat < 2 ^ (8 * immBytes op o.size) := by
    unfold immBytes
    split at himm
    next hop => simpa [hop] using himm
    next hop => simp [hop, (beq_iff_eq.mp himm : o.imm = 0)]
  have hused := length_encodeVolil_mem op o
  rw [encodeVolil_mem, decodeFrom_sizePrefix, decodeFrom_sync, decodeFrom_opcode core _ _ _ _ hlow, hop, decodeOpcode_mem,
    decodeM_found core _ _ rest op o hcore (prefixSize_getD _) rfl hpcrel hsti (by rwa [prefixSize_isSome]) hdisp hfits (by omega), hused]

end

/-- Settles O19: by format, prefixes first, then the opcode, then the operands. -/
theorem volilRoundTrip : Obligations.VolilRoundTrip := by
  intro core i rest h
  cases i with
  | nop | wait | tret | ret | fence | brk | sys | ext => rfl
  | alu op o =>
    simp only [VInstr.wf, Bool.and_eq_true, beq_iff_eq] at h
    exact decodeVolil_alu rest op o h.2
  | aluImm op o => exact decodeVolil_aluImm rest op o h
  | rr op o => exact decodeVolil_rr rest op o h
  | bcc cc wide disp => exact decodeVolil_bcc rest cc wide disp h
  | call disp =>
    have hopcode := decodeVolil_sized core .s64 0x60 (leBytes 4 disp.toNat ++ rest) (by decide)
    have hcall : decodeOpcode core {} 0x60 1 (leBytes 4 disp.toNat ++ rest) =
        operands 1 4 (leBytes 4 disp.toNat ++ rest) fun b => .found (.call (BitVec.ofNat 32 (leNat b))) 5 := rfl
    refine hopcode.trans (hcall.trans ?_)
    rw [operands_append _ _ _ (length_leBytes _ _) (by decide), ofNat_leNat_leBytes 4 disp disp.isLt]
    rfl
  | mem op o => exact decodeVolil_mem rest op o h

/-! ### No instruction is longer than 15 bytes (R375) -/

/-- An instruction that is decoded has at most 15 bytes. -/
def Decoded.Within (r : Decoded) : Prop := ∀ i n, r = .found i n → n ≤ 15

section
variable {core : Fin 19} {p : Prefixes} {used : Nat} {rest : Bytes}

theorem within_undefined : Decoded.undefined.Within := fun _ _ h => nomatch h

theorem within_found {i : VInstr} {n : Nat} (h : n ≤ 15) : (Decoded.found i n).Within := fun _ _ hfound => by
  cases hfound
  exact h

theorem within_ite {c : Prop} [Decidable c] {a b : Decoded} (ha : a.Within) (hb : b.Within) : (if c then a else b).Within := by
  split
  · exact ha
  · exact hb

/-- Operands lie within the 15 bytes, so what they say may. -/
theorem within_operands {n : Nat} {f : Bytes → Decoded} (h : used + n ≤ 15 → ∀ bs, (f bs).Within) : (operands used n rest f).Within := by
  intro i l hfound
  obtain ⟨hused, hf⟩ := operands_found hfound
  exact h hused _ i l hf

theorem within_decodeRr {ok : VolilRR → Bool} {f : VolilRR → VInstr} : (decodeRr core p used rest ok f).Within :=
  within_operands fun hused _ => within_ite within_undefined (within_ite (within_found hused) within_undefined)

theorem within_decodeRi {op : AluOp} : (decodeRi core op p used rest).Within :=
  within_operands fun _ _ => within_ite within_undefined (within_operands fun hused _ => within_found hused)

theorem within_decodeM {op : MemOp} : (decodeM core op p used rest).Within :=
  within_operands fun _ _ => within_ite within_undefined (within_operands fun hused _ => within_found (by omega))

/-- Opcode by opcode. -/
theorem within_decodeOpcode {op : Nat} (hused : used ≤ 15) : (decodeOpcode core p op used rest).Within := by
  have plain (i : VInstr) : (if decide (p = {}) then Decoded.found i used else .undefined).Within :=
    within_ite (within_found hused) within_undefined
  refine within_ite (plain .nop) <| within_ite (plain .wait) <| within_ite (plain .tret) <| within_ite (plain .ret) <|
    within_ite (plain .fence) <| within_ite ?sys <| within_ite (plain .brk) <|
    within_ite within_decodeRr <| within_ite within_decodeRi <|
    within_ite within_decodeRr <| within_ite within_decodeRr <| within_ite within_decodeRr <| within_ite within_decodeRr <|
    within_ite within_decodeRr <| within_ite within_decodeRr <| within_ite within_decodeRr <| within_ite within_decodeRr <|
    within_ite ?bcc <| within_ite ?call <|
    within_ite within_decodeM <| within_ite within_decodeM <| within_ite within_decodeM <| within_ite within_decodeM <|
    within_ite within_decodeM <| within_ite within_decodeM within_undefined
  case sys => exact within_ite (within_operands fun h _ => within_found h) within_undefined
  case bcc => exact within_ite within_undefined (within_operands fun h _ => within_found h)
  case call => exact within_ite (within_operands fun h _ => within_found h) within_undefined

/-- Prefixes take a byte each, and no kind of them stands twice. -/
theorem within_decodeFrom (bs : Bytes) : ∀ (p : Prefixes) (used : Nat), used = b2n p.size.isSome + b2n p.sync → (decodeFrom core p used bs).Within := by
  induction bs with
  | nil => exact fun _ _ _ _ _ h => nomatch h
  | cons b bs ih =>
    intro p used hused
    have hfew : used ≤ 2 := by
      rw [hused]
      cases p.size.isSome <;> cases p.sync <;> decide
    have sized (z : VSize) : (if p.size.isSome then Decoded.undefined else decodeFrom core { p with size := some z } (used + 1) bs).Within := by
      split
      · exact within_undefined
      next hnone => exact ih _ _ (by rw [hused, Bool.eq_false_iff.mpr hnone]; simp [b2n, Nat.add_comm])
    refine within_ite (sized .s8) <| within_ite (sized .s16) <| within_ite (sized .s32) <| within_ite ?sync <| within_ite ?ext ?opcode
    case sync =>
      split
      · exact within_undefined
      next hsync => exact ih _ _ (by rw [hused, Bool.eq_false_iff.mpr hsync]; rfl)
    case ext => exact within_ite (within_operands fun h _ => within_found h) within_undefined
    case opcode => exact within_decodeOpcode (by omega)

end

theorem dispBytes_le (dsz : Fin 4) : dispBytes dsz.val ≤ 4 ∧ (dispBytes dsz.val = 4 → dsz = 3) := by revert dsz; decide

/-- Only SYNC STI of 8 bytes with a displacement of 4 is encoded in more than 15 bytes. -/
theorem encodeVolil_long {i : VInstr} (h : 15 < (encodeVolil i).length) :
    ∃ o : VolilM, i = .mem .sti o ∧ o.size = .s64 ∧ o.sync = true ∧ o.dsz = 3 := by
  cases i with
  | nop | wait | tret | ret | fence | sys | brk | ext => simp [encodeVolil] at h
  | alu op o | rr op o =>
    have hprefix := length_sizePrefix o.size
    simp only [encodeVolil, List.length_append, List.length_cons, List.length_nil] at h
    omega
  | aluImm op o =>
    have hprefix := length_sizePrefix o.size
    have himm : 2 ^ o.isz.val ≤ 2 ^ 3 := Nat.pow_le_pow_right (by decide) (by omega)
    simp only [encodeVolil, List.length_append, List.length_cons, List.length_nil, length_leBytes] at h
    omega
  | bcc cc wide disp =>
    rw [encodeVolil, List.length_cons, length_leBytes] at h
    split at h <;> omega
  | call disp =>
    rw [encodeVolil, List.length_cons, length_leBytes] at h
    omega
  | mem op o =>
    rw [length_encodeVolil_mem] at h
    obtain ⟨hdisp, hwide⟩ := dispBytes_le o.dsz
    have hsync : b2n o.sync ≤ 1 := by cases o.sync <;> decide
    by_cases hop : op = .sti
    · subst hop
      have hsize : o.size = .s64 := by
        cases hz : o.size with
        | s64 => rfl
        | _ =>
          simp only [hz, sizePrefix, immBytes, vBytes, vBits, if_true, List.length_cons, List.length_nil] at h
          omega
      simp only [hsize, sizePrefix, immBytes, vBytes, vBits, if_true, List.length_nil] at h
      refine ⟨o, rfl, hsize, ?_, hwide (by omega)⟩
      by_contra hplain
      simp only [hplain, b2n, if_false] at h
      omega
    · have hprefix := length_sizePrefix o.size
      rw [immBytes, if_neg hop] at h
      omega

/-- That encoding takes 16 bytes and is undefined. -/
theorem decodeVolil_long (o : VolilM) (core : Fin 19) (rest : Bytes) (hsize : o.size = .s64) (hsync : o.sync = true) (hdsz : o.dsz = 3) :
    (encodeVolil (.mem .sti o)).length = 16 ∧ decodeVolil core (encodeVolil (.mem .sti o) ++ rest) = .undefined := by
  obtain ⟨-, -, hmode, -⟩ := modeByte o.index o.indexEn o.pcrel o.dsz
  rw [hdsz] at hmode
  constructor
  · rw [length_encodeVolil_mem, hsize, hsync, hdsz]
    rfl
  · rw [encodeVolil_mem, decodeFrom_sizePrefix, decodeFrom_sync, decodeFrom_opcode core _ _ _ _ (by decide), hsize, hsync,
      show (BitVec.ofNat 8 (0x70 + memCode .sti)).toNat = 0x70 + memCode .sti from rfl, decodeOpcode_mem, decodeM,
      operands_two _ _ _ _ (by decide)]
    simp only [List.getD_cons_succ, List.getD_cons_zero, hdsz, hmode]
    split
    · rfl
    · exact if_pos (by decide)

/-- Settles O18: operands are decoded within 15 bytes, and one encoding is longer. -/
theorem volilLengthLimit : Obligations.VolilLengthLimit :=
  ⟨fun _ bs i n h => within_decodeFrom bs {} 0 rfl i n h, decodeVolil_long, fun _ h => encodeVolil_long h⟩

end Sys2Proof.Machine

/-! SUPPORT. The statement of the control complex, refuted by a concrete state of its ledger. -/

namespace Sys2Proof.Machine

/-- A mounted ledger of one written block, block 100; a mount has queued block 64 for its erase (R365). -/
def queuedErase : State :=
  State.reset.withDev (State.reset.dev.modLedger fun l => { l with state := 2, blocks := [(100, {})], eraseQueue := [64] })

theorem queuedErase_on : queuedErase.On := by decide

/-- As long as block 64 waits for its erase, the first free block is block 65. -/
theorem free_queuedErase : queuedErase.dev.ledger.free = some 65 := by decide +kernel

/-- Garbage collection erases what is queued before it takes a free block (R364), so it copies to block 64. -/
theorem collect_queuedErase : (collect false queuedErase.dev).ledger.blocks = [(64, {})] := by decide +kernel

/-- Refutes O55: its clause of garbage collection copies to the block that was free before the queued ones were erased. With block 64
queued that is block 65, and the model copies to block 64. -/
theorem not_controlComplete : ¬ Obligations.ControlComplete := by
  rintro ⟨hevents, -⟩
  obtain ⟨-, -, -, -, -, -, -, -, hcollect, -⟩ := hevents queuedErase queuedErase_on
  have hgives := hcollect 100 65 {} rfl rfl free_queuedErase
  have hcopied : (collect false queuedErase.dev).ledger.blocks = [(65, {})] :=
    congrArg (fun d : Dev => d.ledger.blocks) (eq_of_gives_onDev rfl queuedErase_on hgives)
  rw [collect_queuedErase] at hcopied
  exact absurd hcopied (by decide)

end Sys2Proof.Machine

/-! SUPPORT. The statement of reliability and checkpoint, settled: steps and fills, the buddy's delta, checkpoints, and the commands. -/

namespace Sys2Proof.Machine

section
variable (d : Dev)

/-! ### The step word (R390, R391) -/

/-- A device alone in its group has only its own word, and its group word is complete. -/
theorem stepWord_alone (words : List StepWord) (hphase : d.rel.phase = 5) (halone : d.groupSize ≤ 1)
    (hdelta : bit (combineBits d.rel.current d.rel.own []) 2 = false) :
    stepWord words d = d.modRel fun r => { r with
      groupStep := r.current, groupBits := combineBits r.current r.own [], groupMembers := 1, groupComplete := true } := by
  simp [stepWord, hphase, halone, hdelta, Dev.modRel]

/-! ### The buddy's delta (R394) -/

/-- A good chunk of the delta that is open is written to the copy that is not committed. -/
theorem buddyChunk_good (chunk step : Nat) (crc : W32) (data : Bytes) (hregion : d.region 1 ≠ none) (hstage : d.manifest.stage ≠ 6)
    (hnew : d.rel.buddyApplied ≠ some step) (hopen : d.rel.buddyOpen = true) (hstep : d.rel.buddyStep = step)
    (hcrc : crc32c 0xFFFFFFFF#32 (fit 65536 data) = crc) (hchunk : chunk < d.chunks) :
    buddyChunk chunk step crc data false d =
      (rawWrite (buddyCopy d chunk (1 - buddyBit d chunk)) (fit 65536 data) false d).modRel fun r =>
        { r with buddyPending := addSet chunk r.buddyPending } := by
  have hregion' : (d.region 1).isNone = false := by simpa [Option.isSome_iff_ne_none] using hregion
  simp [buddyChunk, hregion', hstage, hnew, hopen, hstep, hcrc, hchunk]

/-- The end barge of a delta whose chunks have all come applies it. -/
theorem buddyEnd_good (sent step : Nat) (hstage : d.manifest.stage ≠ 6) (hnew : d.rel.buddyApplied ≠ some step)
    (hopen : d.rel.buddyOpen = true) (hstep : d.rel.buddyStep = step) (hgood : d.rel.buddyGood = true) (hall : d.rel.buddyPending.length = sent) :
    buddyEnd sent step false d = d.modRel fun r => { r with
      buddyCommitted := r.buddyPending.foldl (fun t c => tset 0 t c (1 - tget 0 t c)) r.buddyCommitted, buddyOpen := false,
      buddyPending := [], buddyLast := r.buddyPending, buddyApplied := some step, buddySeeded := true, deltaDone := true } := by
  simp [buddyEnd, hstage, hnew, hopen, hstep, hgood, hall, Dev.modRel]

/-! ### Checkpoints (R397, R398) -/

theorem ckptStripe_stripe (hstate : d.rel.ckptState = 1) (hmore : d.rel.stripe < d.rel.ckptStripes) :
    (ckptStripe d).rel.stripe = d.rel.stripe + 1 := by
  rw [ckptStripe, if_neg (by simp [hstate, hmore])]
  rfl

/-- After the last FLUSH the checkpoint is complete. -/
theorem ckptSeal_done (hstate : d.rel.ckptState = 3) (hquiet : ckptQuiet d = true) :
    ckptSeal d = post 0x1102 (unitBlock 4 16 127) 0 (syn [(32, 4, d.rel.ckptStripes), (36, 1, d.rel.ckptSlot), (40, 8, d.rel.ckptStep)])
      (d.modRel fun r => { r with ckptState := 0 }) := by
  rw [ckptSeal, if_neg (by simp [hquiet]), hstate]
  rfl

/-! ### Restoring (R400) -/

/-- The extents that the seals of step x give on every set. -/
def planExtents (blocks : List VolumeBlock) (sets : List Nat) (x : Nat) : List Found :=
  sets.flatMap fun v => match sealFor d blocks v x with
    | some y => foundIn d blocks v y.1 x y.2
    | none => []

/-- How a restore to step x ends. -/
def restoreEnd (x : Nat) : Except (Reply × Dev) Dev → Reply × Dev
  | .error failed => failed
  | .ok d => (ok [], d.modRel fun r => { r with step := x, attempt := 0, deltaDone := true })

/-- A plan whose every entry is good is performed. -/
theorem restore_good (sets : List Nat) (step : Nat) (plan : List RestoreEntry) (blocks : List VolumeBlock) (x : Nat) (e : Dev)
    (hstage : d.manifest.stage = 6) (hheld : d.manifest.workHeld = true) (hsome : sets ≠ []) (hfew : sets.length ≤ 64)
    (hvolumes : ∀ v ∈ sets, v < 4096) (hstep : restoreStep d blocks sets step = some x)
    (hplan : (plan.all fun e => entryAligned (planExtents d blocks sets x) e && entryInMaster d e) = true)
    (hrun : plan.foldl (restoreEntry blocks (planExtents d blocks sets x) x (sets.headD 0)) (.ok d) = .ok e) :
    restore sets step plan blocks d = (ok [], e.modRel fun r => { r with step := x, attempt := 0, deltaDone := true }) := by
  have hnamed : ¬ (sets = [] ∨ 64 < sets.length ∨ (sets.any fun v => decide (4095 < v)) = true) := by
    rintro (hnone | hmany | hlarge)
    · exact hsome hnone
    · exact absurd hfew (Nat.not_le.mpr hmany)
    · obtain ⟨v, hv, hover⟩ := List.any_eq_true.mp hlarge
      exact absurd (hvolumes v hv) (Nat.not_lt.mpr (of_decide_eq_true hover))
  unfold restore
  rw [if_neg (by simp [hstage, hheld]), if_neg hnamed, hstep]
  exact (if_neg (ne_of_eq_of_ne hplan (by decide))).trans (congrArg (restoreEnd x) hrun)

end

/-- Settles O33: the events, then the commands. -/
theorem reliabilityComplete : Obligations.ReliabilityComplete := by
  refine ⟨fun s hon => ⟨?_, ?_, ?_, ?_, ?_, ?_, ?_⟩, fun c s => ⟨?_, ?_, ?_, ?_, ?_⟩⟩
  · exact fun words hphase halone hdelta => gives_onDev rfl hon (stepWord_alone s.dev words hphase halone hdelta)
  · exact fun chunk hfilling => gives_onDev rfl hon (if_pos hfilling)
  · intro r p a b d e hroute hfirst hsecond
    refine gives_onDev rfl hon ?_
    rw [deltaSend, hroute]
    simp only [hfirst, hsecond, ne_eq, not_true_eq_false, if_false]
  · exact fun chunk step crc data hregion hstage hnew hopen hstep hcrc hchunk =>
      gives_onDev rfl hon (buddyChunk_good s.dev chunk step.toNat crc data hregion hstage hnew hopen hstep hcrc hchunk)
  · exact fun sent step hstage hnew hopen hstep hgood hall =>
      gives_onDev rfl hon (buddyEnd_good s.dev sent step.toNat hstage hnew hopen hstep hgood hall)
  · exact fun hstate hmore => ⟨ckptStripe s.dev, gives_onDev (f := ckptStripe) rfl hon rfl, ckptStripe_stripe s.dev hstate hmore⟩
  · exact fun hstate hquiet => gives_onDev rfl hon (ckptSeal_done s.dev hstate hquiet)
  · intro h
    have hread := answers_query (.cmdRelStatus c) c _ s _ h rfl
    exact hread
  · intro h
    have hread := answers_query (.cmdRelFaultStatus c) c _ s _ h rfl
    exact hread
  · exact fun h hcoded => answers_of_mailbox rfl h (if_neg hcoded)
  · exact fun h => answers_of_mailbox rfl h rfl
  · exact fun sets step plan blocks x d h hstage hheld hsome hfew hvolumes hstep hplan hrun =>
      answers_of_mailbox rfl h (restore_good s.dev sets step.toNat plan blocks x d hstage hheld hsome hfew hvolumes hstep hplan hrun)

end Sys2Proof.Machine

/-! SUPPORT. The statement of power, resets, clocks, samples and the trace, settled: the power block's events, its commands while the power
core is up, and what the letter O lets observe. -/

namespace Sys2Proof.Machine

section
variable (d : Dev)

/-! ### Trips and the pins (R425, R438, R440) -/

/-- A trip of a device with power takes the power. -/
theorem trip_powered (cause index : Nat) (reading : Int) (hpower : d.power.state ≠ .off) :
    trip cause index reading d = powerOff ((post 0x1300 (unitBlock 5 18 127) 0 (syn [(32, 1, cause),
      (33, 1, if cause < 2 then index else 0), (34, 2, (BitVec.ofInt 16 reading).toNat)]) d).modPower fun p => { p with tripped := true }) :=
  if_neg hpower

/-- PWR_EN falls on a device with power. -/
theorem powerDisable_enabled (hpower : d.power.state ≠ .off) (henabled : d.power.pwrEn = true) :
    powerDisable d = powerOff (d.modPower fun p => { p with pwrEn := false, pwrEnLow := some d.uptime }) := by
  simp [powerDisable, hpower, henabled, Dev.modPower]

theorem p48Loss_ignored (mv : Nat) (h : d.power.pwrEn = false ∨ d.power.state = .off) :
    p48Loss mv d = d.modPower fun p => { p with p48 := false } := by
  rcases h with hlow | hoff
  · simp [p48Loss, hlow]
  · simp [p48Loss, trip, hoff]

theorem p48Loss_trips (mv : Nat) (hpower : d.power.state ≠ .off) (henabled : d.power.pwrEn = true) :
    p48Loss mv d = powerOff ((post 0x1300 (unitBlock 5 18 127) 0
      (syn [(32, 1, 2), (33, 1, 0), (34, 2, (BitVec.ofInt 16 mv).toNat)]) (d.modPower fun p => { p with p48 := false })).modPower fun p =>
        { p with tripped := true }) :=
  (if_pos henabled).trans (trip_powered _ 2 0 mv hpower)

/-- PWR_EN rises with standby power and without a trip. -/
theorem powerEnable_untripped (p48 : Bool) (htripped : d.power.tripped = false) :
    powerEnable p48 true d = d.modPower fun p => { p with p48 := p48, standby := true, pwrEn := true, tripped := false, pwrEnLow := none } := by
  simp [powerEnable, htripped, Dev.modPower]

theorem warmPin_low (ns : Nat) (hlong : 1000 ≤ ns) (hnew : d.power.warmPinLow = false) :
    warmPin true ns d = orderWarm 2 (d.modPower fun p => { p with warmPinLow := true }) := by
  rw [warmPin, if_neg (by decide), if_neg (by simp [hnew, hlong])]

/-! ### Resets (R427, R437) -/

/-- Cold reset of a device that has its supplies and is off: the power is good in reduced service, boot is at stage 1, the straps
are sampled and the NOR images are kept. -/
theorem coldReset_supplied (straps : Nat) (v : Vault) (hgood : d.power.pwrGood = false) (henabled : d.power.pwrEn = true)
    (hp48 : d.power.p48 = true) (hstandby : d.power.standby = true) (htripped : d.power.tripped = false) :
    (coldReset straps v d).1 = { v with keys := [], debug := debugAtReset v.lifecycle } ∧ (coldReset straps v d).2.power.pwrGood = true ∧
      (coldReset straps v d).2.power.state = .reduced ∧ (coldReset straps v d).2.boot.stage = 1 ∧
      (coldReset straps v d).2.power.strap = straps ∧ (coldReset straps v d).2.boot.nor = d.boot.nor := by
  rw [coldReset, if_neg (by simp [hgood, henabled, hp48, hstandby, htripped])]
  split <;> exact ⟨rfl, rfl, rfl, rfl, rfl, rfl⟩

/-- An ordered warm reset takes place, unless one is under way. -/
theorem warmDue_ordered (cause : Nat) (v : Vault) (hpower : d.power.state ≠ .off) (hidle : d.power.state ≠ .warmReset)
    (hordered : d.power.warmDue = some cause) : warmDue v d = warmReset cause v d := by
  rw [warmDue, if_neg (by simp [hpower, hidle])]
  simp only [hordered]

/-! ### Clock loss (R431) -/

/-- The loss of a cluster's clock fails its tiles. -/
theorem clockLoss_cluster (n : Nat) (frequency : Bool) (v : Vault) (hcluster : n < 16) :
    clockLoss n frequency v d = failUnits (clusterTiles n) (post 0x1301 (unitBlock (domainDie n) 18 n) 0
      (syn [(32, 1, n), (33, 1, b2n frequency)]) (d.modPower fun p => { p with
        domains := tmod {} p.domains n fun x => { x with state := 3, losses := satAdd 65535 x.losses 1 } })) := by
  rw [clockLoss, if_neg (by omega), if_pos hcluster]

/-! ### Samples (R415) -/

/-- Of the 19 cores, a mask of 1 selects core 0 alone. -/
theorem selected_one : ((List.range 19).filter fun k => (1#19).getLsbD k) = [0] := by decide

/-- With no cluster and core 0 alone selected, core 0 forms the one sample of the instant. -/
theorem sampleInstant_one (hvisible : d.obs.visible = true) (haligned : d.canal.aligned = true) (hdwell : d.canal.dwell = false)
    (hslot : d.canal.slot = 0) (hperiod : d.obs.period ≠ 0) (hdue : d.canal.lockage % d.obs.period = 0)
    (hnew : d.obs.sampledAt ≠ d.canal.lockage + 1) (hclusters : d.obs.clusters = 0) (hcores : d.obs.coreMask = 1) :
    sampleInstant d = sampleCore (d.modObs fun o => { o with sampledAt := d.canal.lockage + 1 }) 0 := by
  have hselected : ((List.range 19).filter fun k => d.obs.coreMask.getLsbD k) = [0] := hcores ▸ selected_one
  have htiles : (d.tiles.filter fun e => e.2.logical.isSome && !e.2.follower && d.obs.clusters.getLsbD (clusterOf e.1)) = [] := by
    simp [hclusters]
  rw [sampleInstant, if_neg (by simp [haligned, hdwell, hslot, hperiod, hdue, hnew])]
  simp only [hselected, htiles]
  exact if_pos hvisible

end

/-- An event that takes place without power as well gives what it does to the device. -/
theorem gives_always {i : Instr} {s : State} {f : Dev → Dev} {e : Dev} (hexec : exec i s = always f s) (he : f s.dev = e) : Gives i s e := by
  rw [Gives, hexec, always, he]
  rfl

/-- A POWERCLK command while the power core is up (R353). -/
theorem answers_whileUp {i : Instr} {s : State} {k : Nat} {waits : HeldCmd} {now : State → Host.Outcome State Fault Refusal} {c : Cmd}
    {g : Guard} {f : Dev → Reply × Dev} {r : Reply} {e : Dev} (hexec : exec i s = whileUp k waits now s) (hup : s.dev.restarting k = false)
    (hnow : now s = onDev (mailbox c g f) s) (h : Serves g c s) (hf : f s.dev = (r, e)) : Answers i c s r e :=
  answers_of_mailbox ((hexec.trans (whileUp_up k waits now s hup)).trans hnow) h hf

/-- A trip whose condition holds (R425). -/
theorem trip_gives {s : State} (hon : s.On) (cause : Fin 4) (index : Nat) (reading : Int) (hholds : tripHolds cause.val reading = true) :
    Gives (.trip cause index reading) s (powerOff ((post 0x1300 (unitBlock 5 18 127) 0 (syn [(32, 1, cause.val),
      (33, 1, if cause.val < 2 then index else 0), (34, 2, (BitVec.ofInt 16 reading).toNat)]) s.dev).modPower fun p =>
        { p with tripped := true })) := by
  have hexec : exec (.trip cause index reading) s = execTrip cause index reading s := rfl
  refine gives_onDev hexec hon ?_
  rw [if_pos hholds]
  exact trip_powered s.dev cause.val index reading hon

/-- The ring join grant falls on a device that has it in service (R440). -/
theorem ringJoinFall_gives {s : State} (hon : s.On) (hjoined : s.dev.power.ringJoin = true) :
    Gives .ringJoinFall s (failDevice 6 (lapseBoth 5 (s.dev.modPower fun p => { p with ringJoinPin := false, ringJoin := false }))) := by
  have hexec : exec .ringJoinFall s = execRingJoinFall s := rfl
  have hserves : ¬ (s.dev.power.ringJoin = false ∨ s.dev.power.state = .off) := by simpa [hjoined] using hon
  exact gives_always hexec (if_neg hserves)

/-! ### Samples, the trace and counters in the hands of the letter O (R412, R415, R417) -/

section
variable {c : Cmd} {s : State}

theorem traceSet_answers (h : Serves { block := some 17 } c s) (hvisible : s.dev.obs.visible = true) (mode sources : Nat) (hmode : mode ≤ 2)
    (hsources : sources ≤ 7) (hregion : mode = 0 ∨ s.dev.region 2 ≠ none) :
    Answers (.cmdTraceSet c mode sources) c s (ok []) (setTrace mode sources false s.dev) := by
  refine answers_of_mailbox rfl h (if_neg ?_)
  rintro (hhidden | hmany | hover | ⟨hwrites, hnone⟩)
  · exact absurd (hvisible.symm.trans hhidden) (by decide)
  · omega
  · omega
  · exact hregion.elim hwrites (· hnone)

theorem traceStatus_answers (h : Serves { i3c := true } c s) (hvisible : s.dev.obs.visible = true) :
    Answers (.cmdTraceStatus c) c s
      (ok [s.dev.obs.mode, s.dev.obs.next, s.dev.obs.wraps.toNat, s.dev.obs.lost, b2n s.dev.obs.stopped]) s.dev := by
  have hread := answers_query (.cmdTraceStatus c) c _ s _ h rfl
  simpa only [hvisible, Bool.true_eq_false, if_false] using hread

theorem sampleSet_answers (h : Serves { block := some 17 } c s) (hvisible : s.dev.obs.visible = true) (period clusters cores : Nat)
    (hperiod : period ≤ 65535) (hclusters : clusters < 2 ^ 16) (hcores : cores < 2 ^ 19) :
    Answers (.cmdSampleSet c period clusters cores) c s (ok [])
      (setSamples period (BitVec.ofNat 16 clusters) (BitVec.ofNat 19 cores) s.dev) := by
  refine answers_of_mailbox rfl h (if_neg ?_)
  rintro (hhidden | hrest)
  · exact absurd (hvisible.symm.trans hhidden) (by decide)
  · omega

theorem tileCounters_answers (h : Serves { i3c := true } c s) (hvisible : s.dev.obs.visible = true) (unit : Nat) (hunit : unit ≤ 527) :
    Answers (.cmdCountersRead c false unit) c s (ok ((List.range 8).map fun i => (s.dev.tileCounter unit i).toNat)) s.dev := by
  have hread := answers_query (.cmdCountersRead c false unit) c _ s _ h rfl
  simpa only [hvisible, Bool.true_eq_false, Bool.false_eq_true, if_false, false_or, Nat.not_lt.mpr hunit] using hread

theorem coreCounters_answers (h : Serves { i3c := true } c s) (hvisible : s.dev.obs.visible = true) (unit : Nat) (hunit : unit ≤ 18) :
    Answers (.cmdCountersRead c true unit) c s (ok ((List.range 8).map fun i => (coreCounter s.dev unit i).toNat)) s.dev := by
  have hread := answers_query (.cmdCountersRead c true unit) c _ s _ h rfl
  simpa only [hvisible, Bool.true_eq_false, if_true, if_false, false_or, Nat.not_lt.mpr hunit] using hread

end

/-- Settles O56: the power block's events, its commands, then observation. -/
theorem powerAndObserveComplete : Obligations.PowerAndObserveComplete := by
  refine ⟨fun s => ⟨?_, ?_, ?_, ?_, ?_, ?_, ?_, ?_, ?_, ?_, ?_, ?_, ?_⟩, fun c s hup => ⟨?_, ?_, ?_, ?_⟩,
    fun c s hvisible => ⟨?_, ?_, ?_, ?_, ?_⟩⟩
  · exact fun r hon => gives_onDev rfl hon rfl
  · exact fun hon hruns hread => gives_onDev rfl hon (if_neg (by simp [hruns, hread]))
  · exact fun cause index reading hon hholds => trip_gives hon cause index reading hholds
  · exact fun low => gives_always (f := fun d => d.modPower fun p => { p with throttleIn := low }) rfl rfl
  · exact fun hon henabled => gives_always rfl (powerDisable_enabled s.dev hon henabled)
  · exact fun mv => ⟨fun h => gives_always rfl (p48Loss_ignored s.dev mv h),
      fun hon henabled => gives_always rfl (p48Loss_trips s.dev mv hon henabled)⟩
  · exact fun p48 htripped => gives_always rfl (powerEnable_untripped s.dev p48 htripped)
  · exact fun ns hlong hnew => gives_always rfl (warmPin_low s.dev ns hlong hnew)
  · intro straps hgood henabled hp48 hstandby htripped
    obtain ⟨hvault, hreset⟩ := coldReset_supplied s.dev straps.val s.vault hgood henabled hp48 hstandby htripped
    have hexec : exec (.coldReset straps) s = alwaysV (coldReset straps.val) s := rfl
    refine ⟨_, ?_, hreset⟩
    rw [hexec, alwaysV, hvault]
  · intro cause hon hidle hordered
    have hexec : exec .warmReset s = onVault warmDue s := rfl
    rw [hexec, onVault_on _ _ hon, warmDue_ordered s.dev cause s.vault hon hidle hordered]
  · exact fun hon hjoined => ringJoinFall_gives hon hjoined
  · exact gives_always (f := fun d => d.modPower fun p => { p with ringJoinPin := true }) rfl rfl
  · exact fun n frequency hon hcluster => gives_onDevV rfl hon (clockLoss_cluster s.dev n.val frequency s.vault hcluster)
  · exact fun h => answers_whileUp rfl hup rfl h rfl
  · exact fun watts h hlo hhi => answers_whileUp rfl hup rfl h (if_neg (by omega))
  · exact fun h => answers_whileUp rfl hup rfl h rfl
  · exact fun n h hn => answers_whileUp rfl hup rfl h (congrArg (·, s.dev) (if_neg (Nat.not_lt.mpr hn)))
  · exact fun mode sources h hmode hsources hregion => traceSet_answers h hvisible mode sources hmode hsources hregion
  · exact fun h => traceStatus_answers h hvisible
  · exact fun period clusters cores h hperiod hclusters hcores => sampleSet_answers h hvisible period clusters cores hperiod hclusters hcores
  · exact fun unit h => ⟨tileCounters_answers h hvisible unit, coreCounters_answers h hvisible unit⟩
  · exact fun hon haligned hdwell hslot hperiod hdue hnew hclusters hcores =>
      gives_onDev rfl hon (sampleInstant_one s.dev hvisible haligned hdwell hslot hperiod hdue hnew hclusters hcores)

end Sys2Proof.Machine
